-- ==== Sys2Proof/Syntax.lean ====
section
/-! DEFINITION. The commands of the block: one constructor of `Instr` for each row of spec/opcode_table.json, with the
operands that come from outside. What the device itself holds (a word at a PC, a queue head, a delivered packet) is
read from the state and is no operand. -/

namespace Sys2Proof

/-- Who makes a register access (R464, R487, R499): the physical function, a virtual function, or the machine
manager through the management channel. -/
inductive Requester where
  | pf
  | vf (v : Nat)
  | manager
  deriving DecidableEq, Repr

/-- Where the command processor finds the record it runs: at the head of a command queue (R383), or at the head of
its own input, where queue-command instructions leave theirs (R297). -/
inductive CmdSrc where
  | window (q : Nat)
  | instr
  deriving DecidableEq, Repr

/-- Who sends a buffer-pool request (R377): the exchange engine of a compute die, or a function through BPM_REQ. -/
inductive BpmClient where
  | xe (die : Nat)
  | fn (f : Requester)
  deriving DecidableEq, Repr

/-- Where a host read goes: BAR0, or BAR2, whose reads return zero (R7, R383). -/
inductive HostAddr where
  | bar0 (off : Nat)
  | bar2 (off : Nat)
  deriving DecidableEq, Repr

/-- An attempt to train a port (R105): the port, and the rates that its cable or module and its neighbour have reported, bit `i` for
rate `i + 1`. -/
structure Attempt where
  port : Nat
  cable : BitVec 3
  peer : BitVec 3
  deriving DecidableEq, Repr

/-- What the SPD of a fitted DDR5 module says (R350): MRDIMM or RDIMM, capacity in GiB, whether it supports the upper
of its type's two speeds, and whether it is a JEDEC ECC module of x4 devices; and its serial number (R352). -/
structure Dimm where
  mrdimm : Bool
  gib : Nat
  fast : Bool
  eccX4 : Bool
  serial : Nat := 0
  deriving DecidableEq, Repr

/-- The commands. A docstring gives the row's rule. -/
inductive Instr where
  /-- REGISTER_WRITE (R9). A write to a BAR0 register field that has no row of its own sets, clears or ignores fields by their type. -/
  | registerWrite (fn : Requester) (off : Nat) (size : Nat) (data : BitVec 64)
  /-- LATCHED_SET_CAPTURE (R499). A read of the low half of a latching register captures the values of every register of its set at one instant. -/
  | latchedSetCapture (fn : Requester) (addr : HostAddr) (size : Nat)
  /-- NOP (R281). The sequencer retires a NOP instruction with no effect. -/
  | nop (core : Nat)
  /-- ALU (R282). The sequencer computes g[d] from g[a] and g[b] with the integer function that fn selects. -/
  | alu (core : Nat)
  /-- ADDI (R281). The sequencer adds a sign-extended immediate to g[a]. -/
  | addi (core : Nat)
  /-- ANDI (R281). The sequencer ANDs g[a] with an immediate. -/
  | andi (core : Nat)
  /-- ORI (R281). The sequencer ORs g[a] with an immediate. -/
  | ori (core : Nat)
  /-- XORI (R281). The sequencer XORs g[a] with an immediate. -/
  | xori (core : Nat)
  /-- SHLI (R280). The sequencer shifts g[a] left by an immediate. -/
  | shli (core : Nat)
  /-- SHRLI (R280). The sequencer shifts g[a] right logically by an immediate. -/
  | shrli (core : Nat)
  /-- SHRAI (R280). The sequencer shifts g[a] right arithmetically by an immediate. -/
  | shrai (core : Nat)
  /-- MULI (R281). The sequencer multiplies g[a] by an immediate. -/
  | muli (core : Nat)
  /-- INS16 (R281). The sequencer inserts a 16-bit immediate into one halfword of g[d]. -/
  | ins16 (core : Nat)
  /-- LI (R281). The sequencer loads a sign-extended 16-bit immediate into g[d]. -/
  | li (core : Nat)
  /-- CMP (R284). The sequencer compares two registers under cc and writes a predicate. -/
  | cmp (core : Nat)
  /-- PLOG (R284). The sequencer combines predicates with a logic function. -/
  | plog (core : Nat)
  /-- LD8U (R285). The sequencer loads a byte, zero-extended. -/
  | ld8u (core : Nat)
  /-- LD16U (R285). The sequencer loads 2 bytes, zero-extended. -/
  | ld16u (core : Nat)
  /-- LD32U (R285). The sequencer loads 4 bytes, zero-extended. -/
  | ld32u (core : Nat)
  /-- LD64 (R285). The sequencer loads 8 bytes. -/
  | ld64 (core : Nat)
  /-- LD8S (R285). The sequencer loads a byte, sign-extended. -/
  | ld8s (core : Nat)
  /-- LD16S (R285). The sequencer loads 2 bytes, sign-extended. -/
  | ld16s (core : Nat)
  /-- LD32S (R285). The sequencer loads 4 bytes, sign-extended. -/
  | ld32s (core : Nat)
  /-- ST8 (R285). The sequencer stores a byte. -/
  | st8 (core : Nat)
  /-- ST16 (R285). The sequencer stores 2 bytes. -/
  | st16 (core : Nat)
  /-- ST32 (R285). The sequencer stores 4 bytes. -/
  | st32 (core : Nat)
  /-- ST64 (R285). The sequencer stores 8 bytes. -/
  | st64 (core : Nat)
  /-- BR (R280). The sequencer branches by a word offset. -/
  | br (core : Nat)
  /-- CALL (R281). The sequencer saves the return address in g31 and branches. -/
  | call (core : Nat)
  /-- JMPR (R286). The sequencer jumps to g[a], faulting on a misaligned target. -/
  | jmpr (core : Nat)
  /-- END (R287). The sequencer retires END and fetches nothing more. -/
  | endProgram (core : Nat)
  /-- ICINV (R249). The sequencer invalidates its instruction cache. -/
  | icinv (core : Nat)
  /-- MFC (R250). The sequencer reads a control register into g[d]. -/
  | mfc (core : Nat)
  /-- MTC (R288). The sequencer writes a control register from g[a]. -/
  | mtc (core : Nat)
  /-- WAIT (R290). The sequencer waits in program order until a belay reaches a threshold. -/
  | wait (core : Nat)
  /-- SIGNAL (R262). The sequencer increments or sets a belay. -/
  | signal (core : Nat)
  /-- BRD (R290). The sequencer reads a belay value into g[d]. -/
  | brd (core : Nat)
  /-- TLD (R281). The sequencer loads a tile descriptor from memory. -/
  | tld (core : Nat)
  /-- TST (R281). The sequencer stores a tile descriptor to memory. -/
  | tst (core : Nat)
  /-- TSET (R291). The sequencer writes one descriptor field from g[a]. -/
  | tset (core : Nat)
  /-- TGET (R291). The sequencer reads one descriptor field into g[d]. -/
  | tget (core : Nat)
  /-- TADD (R281). The sequencer adds g[a] to the BASE of a tile descriptor. -/
  | tadd (core : Nat)
  /-- ENGINE_INSTRUCTION_ISSUE (R258). The sequencer decodes a 64-bit engine instruction, captures its operands and places it in an engine queue, stalling while the queue is full. -/
  | engineInstructionIssue (core : Nat)
  /-- QUEUE_COMMAND_ISSUE (R297). The sequencer waits for a queue command's conditions and passes it to the command processor. -/
  | queueCommandIssue (core : Nat)
  /-- MCLR (R309). The MXE clears the accumulator. -/
  | mclr (core : Nat)
  /-- MLD (R309). The MXE adds a tile into the accumulator as one product per point. -/
  | mld (core : Nat)
  /-- MMA (R308). The MXE accumulates the exact products of an M x K and a K x N tile. -/
  | mma (core : Nat)
  /-- MMA24 (R312). The MXE accumulates products with 2:4 structured weights. -/
  | mma24 (core : Nat)
  /-- MMA14 (R312). The MXE accumulates products with 1:4 structured weights. -/
  | mma14 (core : Nat)
  /-- MST (R245). The MXE rounds each accumulator point once into the destination. -/
  | mst (core : Nat)
  /-- MSTC (R309). The MXE writes out the accumulator and then clears it. -/
  | mstc (core : Nat)
  /-- VADD (R318). The VXE adds two tiles element by element with one rounding. -/
  | vadd (core : Nat)
  /-- VSUB (R318). The VXE subtracts two tiles element by element. -/
  | vsub (core : Nat)
  /-- VMUL (R318). The VXE multiplies two tiles element by element. -/
  | vmul (core : Nat)
  /-- VFMA (R318). The VXE computes A + B x C with one rounding. -/
  | vfma (core : Nat)
  /-- VDIV (R318). The VXE divides two tiles element by element. -/
  | vdiv (core : Nat)
  /-- VMAX (R318). The VXE takes the element-wise maximum. -/
  | vmax (core : Nat)
  /-- VMIN (R318). The VXE takes the element-wise minimum. -/
  | vmin (core : Nat)
  /-- VABS (R318). The VXE takes the absolute value. -/
  | vabs (core : Nat)
  /-- VNEG (R318). The VXE negates each element. -/
  | vneg (core : Nat)
  /-- VSQRT (R318). The VXE takes the correctly rounded square root. -/
  | vsqrt (core : Nat)
  /-- VRSQRT (R319). The VXE computes the reciprocal square root within its error bound. -/
  | vrsqrt (core : Nat)
  /-- VEXP (R319). The VXE computes the exponential within its error bound. -/
  | vexp (core : Nat)
  /-- VLOG (R319). The VXE computes the natural logarithm within its error bound. -/
  | vlog (core : Nat)
  /-- VTANH (R319). The VXE computes tanh within its error bound. -/
  | vtanh (core : Nat)
  /-- VSIGM (R319). The VXE computes the logistic sigmoid within its error bound. -/
  | vsigm (core : Nat)
  /-- VSILU (R319). The VXE computes SiLU within its error bound. -/
  | vsilu (core : Nat)
  /-- VGELU (R319). The VXE computes GELU within its error bound. -/
  | vgelu (core : Nat)
  /-- VMULS (R318). The VXE multiplies each element by an FP32 scalar from a register. -/
  | vmuls (core : Nat)
  /-- VRSUM (R320). The VXE sums each row by the fixed tree. -/
  | vrsum (core : Nat)
  /-- VRMAX (R320). The VXE takes each row's maximum by the fixed tree. -/
  | vrmax (core : Nat)
  /-- VRMIN (R320). The VXE takes each row's minimum by the fixed tree. -/
  | vrmin (core : Nat)
  /-- VCVT (R321). The VXE converts a tile into the destination format. -/
  | vcvt (core : Nat)
  /-- VATADD (R322). The VXE adds into the destination atomically per element. -/
  | vatadd (core : Nat)
  /-- VATMAX (R322). The VXE takes the maximum into the destination atomically per element. -/
  | vatmax (core : Nat)
  /-- MINTER (R342). The MGE intersects two index lists into pairs or a dot product. -/
  | minter (core : Nat)
  /-- MUNION (R343). The MGE merges two index lists. -/
  | munion (core : Nat)
  /-- MGROUP (R338). The MGE orders row indices by descending count. -/
  | mgroup (core : Nat)
  /-- DMOVE (R324). The DMV copies or converts a tile, expanding a compressed source. -/
  | dmove (core : Nat)
  /-- DCOMP (R332). The DMV writes a dense tile as compressed panels. -/
  | dcomp (core : Nat)
  /-- DILIST (R340). The DMV writes dense rows as index lists. -/
  | dilist (core : Nat)
  /-- DFILL (R325). The DMV fills a tile with one value. -/
  | dfill (core : Nat)
  /-- DHIST (R337). The DMV writes per-row non-zero counts. -/
  | dhist (core : Nat)
  /-- ROUTE (R31). The RTE scores, selects, looks up and sorts a batch of tokens into a dispatch list, counts and token map. -/
  | route (die : Nat)
  /-- ROUTE_F (R58). The RTE runs Freindoa-compatible local routing. -/
  | routeF (die : Nat)
  /-- EXCHANGE (R68). An XE accepts an exchange, adds Nrec to DISPATCHED, clears OUT and sends the count cells of every stream. -/
  | exchange (die : Nat)
  /-- CANCEL_BATCH (R90). An XE stops a tag's traffic, sends XCANCEL, counts unresolved records as cancelled, frees buffers and retires the tag. -/
  | cancelBatch (die : Nat)
  /-- XCOUNT_RECEIVE (R70). A receiving XE takes a count cell, storing it early or counting it toward its stream. -/
  | xcountReceive (die : Nat)
  /-- EARLY_CELL_EXPIRE (R71). A stored count cell older than XE_TIMEOUT is discarded at the periodic age check. -/
  | earlyCellExpire (die : Nat) (idx : Nat)
  /-- GRANT_PHASE (R72). When every stream's count is complete the receiver applies the capacity rule, allocates buffers, writes the summary and sends grants. -/
  | grantPhase (die : Nat) (tag : BitVec 32)
  /-- XGRANT_RECEIVE (R77). An origin takes a grant cell and, on completing a stream's grant, writes offsets and declines records. -/
  | xgrantReceive (die : Nat)
  /-- XCANCEL_RECEIVE (R91). An XE takes a cancel cell and voids or cancels the records of that stream. -/
  | xcancelReceive (die : Nat)
  /-- BULK_MESSAGE_SEND (R78). An origin starts a message of a run's admitted rows when the in-flight limit allows. -/
  | bulkMessageSend (die : Nat)
  /-- RETURN_MESSAGE_SEND (R83). A receiver sends answers of chunks below the answer belay back to their origins. -/
  | returnMessageSend (die : Nat) (pos : BitVec 32)
  /-- EXCHANGE_TIMEOUT (R92). An exchange not complete within XE_TIMEOUT finishes as though cancelled, with status TIMEOUT. -/
  | exchangeTimeout (die : Nat) (tag : BitVec 32)
  /-- EXCHANGE_COMPLETE (R95). Once all records resolve, buffers are freed and cells complete, the XE writes the completion record and signals. -/
  | exchangeComplete (die : Nat) (tag : BitVec 32)
  /-- PORT_ENABLE (R104). Writing ENABLE 1 starts full training of a port. -/
  | portEnable (fn : Requester) (port : Nat)
  /-- PORT_DISABLE (R134). Writing ENABLE 0 sends DOWN_NOTICE and disables the port. -/
  | portDisable (fn : Requester) (port : Nat)
  /-- TRAINING_COMPLETE (R104). A port passes training, checks its neighbour and enters UP with fresh credits and sequence counters. -/
  | trainingComplete (port : Nat) (cable : BitVec 3) (lanes : BitVec 4) (params : List (BitVec 8)) (delay : Nat)
  /-- TRAINING_ATTEMPT_TIMEOUT (R105). A rate and width that has not passed within 100 ms gives way to the next combination, or fails the pass. -/
  | trainingAttemptTimeout (attempt : Attempt)
  /-- TRAINING_PASS_RESTART (R105). One second after a failed pass the port starts a new pass from the highest common rate. -/
  | trainingPassRestart (port : Nat)
  /-- DOWN_HOLDOFF_EXPIRE (R103). After 1 ms in DOWN with ENABLE 1 the port starts full training. -/
  | downHoldoffExpire (port : Nat)
  /-- PLANNED_RETRAIN (R108). Writing RETRAIN starts a planned retrain of an UP port by sending RETRAIN_REQ. -/
  | plannedRetrain (fn : Requester) (port : Nat)
  /-- RETRAIN_REQ (R108). A port takes a retrain request from its partner and answers RETRAIN_ACK. -/
  | retrainReq (port : Nat) (kind : Nat) (width : Nat)
  /-- RETRAIN_ACK (R108). A port takes the acknowledgement and both ends retrain from saved equalisation. -/
  | retrainAck (port : Nat)
  /-- RETRAIN_COMPLETE (R108). A planned retrain ends and the port resumes with its state kept. -/
  | retrainComplete (port : Nat)
  /-- RETRAIN_TIMEOUT (R108). A retrain not finished within 200 µs makes the port DOWN. -/
  | retrainTimeout (port : Nat)
  /-- LANE_DROP (R109). A lane that unlocks or keeps a high error ratio for 10 ms is dropped by a width-change retrain. -/
  | laneDrop (port : Nat) (lane : Nat)
  /-- FLIT_RECEIVE (R114). A receiver accepts or discards a data flit, taking its credits and acknowledgement, and sends a NAK on the first discard. -/
  | flitReceive (port : Nat) (lanes : List (List (BitVec 8))) (fec : List (Nat × Bool))
  /-- NAK_REPEAT (R114). A receiver sends another NAK when the expected flit has not arrived within 1 µs. -/
  | nakRepeat (port : Nat)
  /-- NAK_RECEIVE (R115). A transmitter takes a NAK and resends every flit after its ACK. -/
  | nakReceive (port : Nat) (ack : BitVec 12)
  /-- REPLAY_TIMER_EXPIRE (R115). A transmitter resends from its oldest flit unacknowledged for REPLAY_TIMER. -/
  | replayTimerExpire (port : Nat)
  /-- LOSS_OF_SIGNAL (R133). No signal or lock on every active lane for 1 µs makes the port DOWN. -/
  | lossOfSignal (port : Nat)
  /-- DOWN_NOTICE_RECEIVE (R134). A port that takes DOWN_NOTICE becomes DOWN at once. -/
  | downNoticeReceive (port : Nat) (cause : Nat)
  /-- LINK_PACKET_RECEIVE (R126). A port's input takes a packet or cell, discarding malformed or bad-code packets and routing the rest. -/
  | linkPacketReceive (port : Nat)
  /-- SWITCH_ADMIT (R176). An input head moves into an output buffer once the output can hold it, with multicast and mirror copies. -/
  | switchAdmit (inp : Nat) (vc : Nat)
  /-- OUTPUT_SCHEDULE (R178). At a packet boundary an output starts the next packet by slot, allowance and round robin. -/
  | outputSchedule (out : Nat)
  /-- CALENDAR_SLOT_START (R154). A new calendar slot of an output port begins. -/
  | calendarSlotStart (port : Nat)
  /-- CONGESTION_SAMPLE (R148). Every 64 switch cycles each port's congestion estimate is updated. -/
  | congestionSample
  /-- RECOVERY_END (R180). After 100 µs without port or ring-map change the switch leaves RECOVERY. -/
  | recoveryEnd
  /-- PEAK_CLEAR (R175). Writing PEAK_CLR sets an output buffer's PEAK to USED. -/
  | peakClear (fn : Requester) (out : Nat)
  /-- GEOMETRY_WRITE (R138). A write to SW_GEOMETRY sets ring sizes and validity, and on becoming valid sends ring notices. -/
  | geometryWrite (fn : Requester) (value : BitVec 64)
  /-- RING_NOTICE_RECEIVE (R144). A device takes a RING_NOTICE, updates its ring map and path epoch and forwards it. -/
  | ringNoticeReceive
  /-- RING_NOTICE_REPEAT (R144). A ring notice is sent again 1 µs after the previous copy, three times in all. -/
  | ringNoticeRepeat (idx : Nat)
  /-- PATH_EPOCH_BUMP (R152). Writing BUMP increments the path epoch. -/
  | pathEpochBump (fn : Requester)
  /-- MESSAGE_START (R163). A sending unit translates the rank, takes a free end-to-end credit and sends a new message. -/
  | messageStart
  /-- PACKET_ARRIVE (R164). A bulk packet reaching its destination updates the message table and writes its payload; a completed message is acknowledged. -/
  | packetArrive (unit : Nat)
  /-- MACK_RECEIVE (R166). A source takes an MACK and frees the credits of the messages it names. -/
  | mackReceive
  /-- MESSAGE_TIMEOUT (R167). A message without an MACK is resent whole, or fails after RESEND_LIMIT. -/
  | messageTimeout (dest : BitVec 16) (cred : Nat)
  /-- CACK_RECEIVE (R169). A sender takes a CACK and releases the cells it acknowledges. -/
  | cackReceive
  /-- CELL_TIMEOUT (R169). An unacknowledged control cell is resent, or fails after RESEND_LIMIT. -/
  | cellTimeout (dest : BitVec 16) (kind : Nat) (seq : BitVec 8)
  /-- MSG_ENTRY_EXPIRE (R168). A message-table entry with no arrival for 4 x the timeout becomes FREE. -/
  | msgEntryExpire (srcAddr : BitVec 16) (cred : Nat)
  /-- TRAFFIC_HOLD_EXPIRE (R168). After 4 x the message timeout from the reset point the device may start messages and held cells. -/
  | trafficHoldExpire
  /-- UNREACHABLE_CLEAR (R171). Writing CLEAR removes the unreachable mark of ADDR. -/
  | unreachableClear (fn : Requester) (addr : BitVec 16)
  /-- PLAN_FLIP (R159). A plan commit on a device without the job's rope checks calendar slots and flips or reports SLOTS_BUSY. -/
  | planFlip (plan : Nat)
  /-- SLOT_DRAIN_COMPLETE (R160). A DRAINING slot with no queued packet after a full period becomes FREE. -/
  | slotDrainComplete (port : Nat) (slot : Nat)
  /-- COLLECTIVE_START (R214). A channel starts its next accepted collective once the previous one has completed. -/
  | collectiveStart (chan : Nat)
  /-- COLL_STEP_SEND (R205). A member sends a quarter's step message once it holds the credit and its inputs. -/
  | collStepSend (chan : Nat) (level : Nat) (sub : Nat) (gather : Bool) (part : Nat) (pitch : Nat)
  /-- COLL_MESSAGE_PROCESS (R200). An adder adds or gathers a completed COLL message and advances pitches and OUT_BELAY. -/
  | collMessageProcess (port : Nat)
  /-- COL_CREDIT_RECEIVE (R211). A member takes a COL_CREDIT for a pitch. -/
  | colCreditReceive (port : Nat)
  /-- COL_ABORT_RECEIVE (R221). A member takes a COL_ABORT for its current sequence and aborts. -/
  | colAbortReceive (port : Nat)
  /-- COLL_WATCHDOG_EXPIRE (R220). A level waiting WATCHDOG_US aborts with STALLED. -/
  | collWatchdogExpire (chan : Nat) (level : Nat) (sub : Nat) (credit : Bool)
  /-- COLL_COMPLETE (R224). When a collective ends and its messages resolve the member writes its completion record. -/
  | collComplete (chan : Nat)
  /-- CHANNEL_OWN (R213). Setting OWNED gives a channel to a rope and resets its sequence. -/
  | channelOwn (fn : Requester) (chan : Nat) (owner : Nat)
  /-- CHANNEL_ABORT (R221). Writing ABORT aborts the running collective with CANCELLED. -/
  | channelAbort (fn : Requester) (chan : Nat)
  /-- COMMAND_WINDOW_WRITE (R384). A host write to a command window slot is held until all 64 bytes are present. -/
  | commandWindowWrite (fn : Requester) (off : Nat) (data : List (BitVec 8))
  /-- MIRROR_WRITE (R386). The command processor writes a queue's status mirror and raises its vector. -/
  | mirrorWrite (q : Nat)
  /-- QUEUE_ENABLE (R385). Setting ENABLE sets NEXT to SEQ_START and empties the slots. -/
  | queueEnable (fn : Requester) (q : Nat)
  /-- QUEUE_DISABLE (R385). Clearing ENABLE stops the queue and discards records not taken. -/
  | queueDisable (fn : Requester) (q : Nat)
  /-- NOP_COMMAND (R388). The NOP command completes at once, applying its signal. -/
  | nopCommand (src : CmdSrc)
  /-- ROPE_CREATE (R397). The command processor creates a READY rope with its clusters, regions and tables. -/
  | ropeCreate (src : CmdSrc)
  /-- ROPE_START (R399). The rope's cores are initialised and its program starts. -/
  | ropeStart (src : CmdSrc)
  /-- ROPE_SUSPEND (R400). The rope becomes SUSPENDING and its sequencers and engines drain. -/
  | ropeSuspend (src : CmdSrc)
  /-- SUSPEND_SAVE (R400). Once drained, the save area is written and the rope becomes SUSPENDED. -/
  | suspendSave (rope : Nat)
  /-- ROPE_RESUME (R401). The command processor reads the save area and wakes the clusters. -/
  | ropeResume (src : CmdSrc)
  /-- RESUME_COMPLETE (R274). When every core's state is restored the sequencers start. -/
  | resumeComplete (rope : Nat)
  /-- ROPE_RESET (R402). The rope's compute state is reset and it becomes READY. -/
  | ropeReset (src : CmdSrc)
  /-- ROPE_DESTROY (R403). A READY rope is removed and its regions, channels and plans released. -/
  | ropeDestroy (src : CmdSrc)
  /-- TABLE_WRITE (R393). Entries are copied into the shadow bank of a table, or into the tier map in place. -/
  | tableWrite (src : CmdSrc)
  /-- TABLE_WRITE_DEFERRED (R52). A table write held during a pending commit lands in the new shadow bank after flip and copy-back. -/
  | tableWriteDeferred
  /-- TABLE_COMMIT (R394). A commit sets a pending flip of a placement, rank map or plan bank. -/
  | tableCommit (src : CmdSrc)
  /-- COPY_BACK_COMPLETE (R52). The background copy of the new active bank into the shadow bank finishes. -/
  | copyBackComplete (idx : Nat)
  /-- COLLECTIVE (R195). The command processor reads and checks a collective descriptor and queues it on its channel. -/
  | collective (src : CmdSrc)
  /-- COLL_ABORT (R221). The channel's running collective aborts with CANCELLED. -/
  | collAbort (src : CmdSrc)
  /-- STEP_MARK (R404). A step boundary is requested for the rope. -/
  | stepMark (src : CmdSrc)
  /-- STEP_BOUNDARY (R404). Once no RTE instruction of the rope is queued or running, pending flips and schedules apply and STEP increments. -/
  | stepBoundary (rope : Nat)
  /-- COMPOSE_CFG (R405). The composer is configured, its belays zeroed and step 0 composed. -/
  | composeCfg (src : CmdSrc)
  /-- SEQ_ADD (R409). A sequence is listed as pending for admission. -/
  | seqAdd (src : CmdSrc)
  /-- SEQ_CANCEL (R409). A sequence is marked for removal at the next composition. -/
  | seqCancel (src : CmdSrc)
  /-- COMPOSER_STEP (R408). When DONE_BELAY reaches s + 1 the composer applies a boundary, the results and composes step s + 1. -/
  | composerStep (rope : Nat)
  /-- PROGRAM_COMPLETE (R399). When every core has ended and drained, the rope becomes READY and END_BELAY increments. -/
  | programComplete (rope : Nat)
  /-- DDR5_CHANNEL_TRAINED (R352). A channel finishes restore or full training and is zeroed, updating MEM_STATUS. -/
  | ddr5ChannelTrained (ch : Nat) (cached : Bool) (ok : Bool)
  /-- PATROL_SCRUB_READ (R354). The patrol scrub reads a line and handles its errors. -/
  | patrolScrubRead (m : Nat) (upset : BitVec 160) (word : Nat)
  /-- PAGE_COMMAND (R356). Writing GO changes the state of a range of pages or refuses the command. -/
  | pageCommand (fn : Requester) (value : BitVec 64)
  /-- PAGE_SCRUB_COMPLETE (R356). Pages being scrubbed become FREE when their last line is written. -/
  | pageScrubComplete
  /-- SCHEDULE_WRITE (R361). Writing SCHED sets a prefetch schedule pending for the next step boundary. -/
  | scheduleWrite (fn : Requester) (rope : Nat) (addr : BitVec 48)
  /-- PREFETCH_DEMAND (R363). When a tag's counts are complete the sequencer orders slots and updates history. -/
  | prefetchDemand (die : Nat) (tag : BitVec 32)
  /-- PREFETCH_PIECE_ISSUE (R363). The sequencer starts a demand piece once a buffer of its group is free. -/
  | prefetchPieceIssue (die : Nat)
  /-- SPECULATIVE_FILL (R363). The sequencer starts speculative fills for the next layer into free buffers. -/
  | speculativeFill (die : Nat)
  /-- PIECE_LAND (R363). A landed piece writes its weight-directory entry and advances the slot's weight belay. -/
  | pieceLand (die : Nat) (idx : Nat)
  /-- LEND_WINDOW_OPEN (R367). Setting ENABLE opens a lending window if its pages are LENT. -/
  | lendWindowOpen (fn : Requester) (win : Nat)
  /-- LEND_WINDOW_CLOSE (R367). Clearing ENABLE closes a lending window. -/
  | lendWindowClose (fn : Requester) (win : Nat)
  /-- MREAD_RECEIVE (R368). A lender takes an MREAD and answers with MRESP data or poison. -/
  | mreadReceive (m : Nat)
  /-- BPM_ALLOCATE (R376). The BPM gives a handle from a pool or refuses with POOL_EMPTY. -/
  | bpmAllocate (who : BpmClient) (pool : Nat)
  /-- BPM_FREE (R376). The BPM frees a handle named by its last owner. -/
  | bpmFree (who : BpmClient) (handle : BitVec 32)
  /-- BPM_HAND_OFF (R376). The BPM changes a buffer's last owner. -/
  | bpmHandOff (who : BpmClient) (handle : BitVec 32) (owner : Nat)
  /-- BPM_REFILL (R375). A cache refill from the ring completes and serves waiting allocations. -/
  | bpmRefill (pool : Nat)
  /-- POOL_ENABLE (R501). Setting ENABLE checks a pool and begins writing its ring and owner table. -/
  | poolEnable (fn : Requester) (pool : Nat)
  /-- POOL_INIT_COMPLETE (R374). The pool's ring is written and ENABLE reads 1. -/
  | poolInitComplete (pool : Nat)
  /-- POOL_DISABLE (R380). Writing ENABLE 0 disables a pool with no allocated buffer. -/
  | poolDisable (fn : Requester) (pool : Nat)
  /-- POOL_RECLAIM (R380). Writing RECLAIM frees every allocated buffer and disables the pool. -/
  | poolReclaim (fn : Requester) (pool : Nat)
  /-- SEAL_REQUEST (R421). Writing AUD_SEAL_REQ queues a seal or refuses it. -/
  | sealRequest (fn : Requester) (addr : BitVec 64)
  /-- SEAL_RUN (R421). The audit unit starts the next accepted seal and digests its objects. -/
  | sealRun
  /-- SEAL_COMPLETE (R422). The cairn is written, signed if asked, and the function's status set. -/
  | sealComplete
  /-- LOCKSTEP_ARM (R424). Setting ENABLE arms lock-step for a rope if its conditions hold. -/
  | lockstepArm (fn : Requester) (rope : Nat)
  /-- LOCKSTEP_DISARM (R430). Clearing ENABLE applies the held boundary and ends lock-step. -/
  | lockstepDisarm (fn : Requester) (rope : Nat)
  /-- LOCKSTEP_RELEASE (R430). Writing RELEASE applies the held boundary and continues lock-step. -/
  | lockstepRelease (fn : Requester) (rope : Nat)
  /-- CHECKPOINT_DIGEST_DONE (R425). The checkpoint digest finishes and a CHECKPOINT record is written to the outbox. -/
  | checkpointDigestDone (rope : Nat)
  /-- LOCKSTEP_INBOX_WRITE (R427). A host write of an inbox word; the record is taken when all 32 words are written. -/
  | lockstepInboxWrite (fn : Requester) (rope : Nat) (idx : Nat) (data : BitVec 64)
  /-- DEVICE_WAKE_ACTIVE (R433). Work needing a cluster or DDR5 moves the device from IDLE or LENDER to ACTIVE. -/
  | deviceWakeActive
  /-- DEVICE_IDLE_TIMEOUT (R433). After 1 ms without work the device leaves ACTIVE for LENDER or IDLE. -/
  | deviceIdleTimeout
  /-- STANDBY_ENTER (R434). Writing STANDBY 1 sends DOWN_NOTICE and powers off all but the basecamp, or is refused. -/
  | standbyEnter (fn : Requester)
  /-- STANDBY_EXIT (R433). Writing STANDBY 0 returns the device to IDLE. -/
  | standbyExit (fn : Requester)
  /-- HOLD_RELEASE (R446). Clearing HOLD lets the booted device enter IDLE. -/
  | holdRelease (fn : Requester)
  /-- CLUSTER_IDLE_TIMEOUT (R436). A RUNNING cluster idle for DROWSY_US becomes DROWSY. -/
  | clusterIdleTimeout (cluster : Nat)
  /-- POWER_SAMPLE (R439). Module input power is sampled every 10 µs. -/
  | powerSample (moduleW : Nat) (packageW : Nat) (inputMv : Nat)
  /-- POWER_DECISION (R439). Every 100 µs the controller raises, lowers or holds POWER_STEP and the DDR5 caps. -/
  | powerDecision
  /-- THERMAL_SAMPLE (R442). Every 100 µs die readings adjust thermal steps, caps and may trip. -/
  | thermalSample (dies : List Nat) (dimm : Nat) (sustained : Bool) (notice : Bool)
  /-- HOT_SWAP_OPEN (R443). Overcurrent, overvoltage or undervoltage opens the hot-swap controller. -/
  | hotSwapOpen
  /-- INPUT_LOSS (R444). Detected input loss sends DOWN_NOTICE, stops taking records and unpowers the package. -/
  | inputLoss
  /-- INSERTION (R445). Power blades make contact and limited inrush starts. -/
  | insertion (modules : List (Option Dimm))
  /-- BOOT_ROM_START (R452). The basecamp comes up, samples straps, regenerates the secret, checks the configuration and starts DDR5 training. -/
  | bootRomStart (puf : Option (BitVec 256)) (straps : BitVec 17)
  /-- VUOLA_START (R452). The checked Vuola image runs and the device enters IDLE, raising rollback counters. -/
  | vuolaStart
  /-- ORDERLY_REMOVAL (R447). Writing REMOVE resets ropes, sends DOWN_NOTICE and powers down the package. -/
  | orderlyRemoval (fn : Requester)
  /-- HOTPLUG_ATTENTION_REQUEST (R447). A confirmed PCIe hot-plug attention request starts orderly removal. -/
  | hotplugAttentionRequest
  /-- REMOVAL_COMPLETE (R447). Flash writes finish and REMOVE_READY is set. -/
  | removalComplete
  /-- QUOTE_REQUEST (R457). Writing BC_QUOTE_REQ queues a quote or refuses it. -/
  | quoteRequest (fn : Requester) (addr : BitVec 64)
  /-- QUOTE_COMPLETE (R457). The basecamp writes the signed quote. -/
  | quoteComplete
  /-- MCTP_CONTROL (R458). The endpoint answers an MCTP control message. -/
  | mctpControl (msg : List (BitVec 8))
  /-- PLDM_BASE (R458). The endpoint answers a PLDM type 0 message. -/
  | pldmBase (msg : List (BitVec 8))
  /-- PLDM_FW_TRANSFER (R459). A firmware component is written to the slot that did not boot. -/
  | pldmFwTransfer (comp : Nat) (off : Nat) (data : List (BitVec 8))
  /-- PLDM_FW_VERIFY (R459). The written slot is checked under the envelope rules. -/
  | pldmFwVerify
  /-- PLDM_FW_ACTIVATE (R459). The written slot is marked preferred for the next reset. -/
  | pldmFwActivate
  /-- GET_CERT (R460). The device returns part of its certificate. -/
  | getCert (off : Nat) (len : Nat)
  /-- GET_QUOTE (R460). The device returns a quote for a nonce. -/
  | getQuote (nonce : List (BitVec 8)) (part : Nat)
  /-- SET_MANAGERS (R460). The device writes the manager key list to flash, or refuses. -/
  | setManagers (hashes : List (List (BitVec 8)))
  /-- KEM_INIT (R461). The device takes a session request and answers KEM_REPLY, opening a session. -/
  | kemInit
  /-- MOP (R462). The device authenticates a management cell and performs and answers its register operation. -/
  | mop
  /-- SESSION_EXPIRE (R463). A session closes after 24 hours or its record limit. -/
  | sessionExpire (session : Nat)
  /-- SYNC_RECEIVE (R467). The device takes a Sync cell, computes the offset and steers TIME. -/
  | syncReceive
  /-- SYNC_TIMEOUT (R467). No accepted Sync for SYNC_TIMEOUT clears SYNCED and enters holdover. -/
  | syncTimeout
  /-- EVENT_RING_ENABLE (R469). Setting ENABLE starts the event ring with HEAD, TAIL and sequence at 0. -/
  | eventRingEnable (fn : Requester)
  /-- MODERATION_EXPIRE (R473). At the end of a moderation period the ring vector is raised again if records qualified. -/
  | moderationExpire
  /-- BELAY_QUERY (R481). Writing ERR_BELAY_QUERY latches a device belay's value and signal count. -/
  | belayQuery (fn : Requester) (idx : BitVec 12)
  /-- COMPUTE_RESET (R477). Writing COMPUTE resets the ropes and engines of the named dies. -/
  | computeReset (fn : Requester) (dies : BitVec 8)
  /-- VUOLA_COMPUTE_RESET (R475). Vuola starts a compute reset after an uncontained fault in a die's shared logic. -/
  | vuolaComputeReset (dies : BitVec 8)
  /-- DEVICE_RESET (R478). Writing DEVICE resets every domain but the basecamp and restores the device. -/
  | deviceReset (fn : Requester)
  /-- BASECAMP_RESET (R479). Writing BASECAMP resets the device and the basecamp and reboots. -/
  | basecampReset (fn : Requester)
  /-- PF_FUNCTION_LEVEL_RESET (R475). A function-level reset of the physical function starts a device reset. -/
  | pfFunctionLevelReset
  /-- VF_FUNCTION_LEVEL_RESET (R475). A function-level reset of a virtual function resets its bound rope and disables its queues. -/
  | vfFunctionLevelReset (vf : Nat)
  /-- PCIE_HOT_RESET (R475). A PCIe hot reset starts a device reset. -/
  | pcieHotReset
  /-- PERST_ASSERT (R493). PERST# asserted starts a device reset and resets the PCIe controller. -/
  | perstAssert
  /-- WATCHDOG_EXPIRE (R475). Vuola's 1 s watchdog expires, starting a device reset, or a basecamp reset on a second expiry within 60 s. -/
  | watchdogExpire (second : Bool)
  /-- NUMVFS_LOWER (R485). Lowering NumVFs below a bound virtual function resets its rope. -/
  | numvfsLower (n : Nat)
  /-- PWR_DIS_ASSERT (R493). PWR_DIS high opens the hot-swap controller. -/
  | pwrDisAssert
  /-- PWR_DIS_DEASSERT (R493). PWR_DIS low powers the module on. -/
  | pwrDisDeassert
  /-- FLASH_EXT_ASSERT (R493). In STANDBY, FLASH_EXT# stops the basecamp and switches the flash to the sideband. -/
  | flashExtAssert
  /-- FLASH_EXT_DEASSERT (R493). Deasserting FLASH_EXT# starts a basecamp reset. -/
  | flashExtDeassert
  /-- BAR4_READ (R480). A host read through BAR4 returns local memory, zeros, or poisoned completions. -/
  | bar4Read (off : Nat) (len : Nat)
  /-- BAR4_WRITE (R488). A host write through BAR4 stores into local memory, poisoning words if EP is set. -/
  | bar4Write (off : Nat) (data : List (BitVec 8)) (ep : Bool)
  /-- PERST_DEASSERT (R493). PERST# is deasserted, the PCIe controller leaves reset and the host link retrains. -/
  | perstDeassert (gen : Nat) (width : Nat)
  /-- INPUT_RESTORED (R475). Input power returns after a loss and the module powers on under R445. -/
  | inputRestored
  /-- NUMVFS_RAISE (R485). Raising NumVFs enables virtual functions, giving function access to the ropes bound to them. -/
  | numvfsRaise (n : Nat)
  /-- BAR4_RESIZE (R486). A Resizable BAR write sets the BAR4 size, which sets APERTURE_LOG2 and the aperture used by R488. -/
  | bar4Resize (log2 : Nat)
  deriving DecidableEq, Repr

end Sys2Proof
end

