-- ==== Sys2Proof/Decode.lean ====
section
/-! DEFINITION. The decoder of the opcode table. No row of spec/opcode_table.json gives a bit pattern: the commands of this
block are not encoded in words. The words of a core's program are decoded in Machine/Operands.lean. -/

namespace Sys2Proof

/-- The command a word spells by the table's bits: none, because no row gives bits. -/
def decodeTableWord (_nbits _w : Nat) : Option Instr := none

end Sys2Proof
end

