-- ==== Sys2Proof/Word.lean ====
section
/-! DEFINITION. The word types of the model, and the one container every indexed piece of state uses. -/

namespace Sys2Proof

/-- A byte (R3). -/
abbrev Byte := BitVec 8

/-- A 64-bit register or BAR0 word (R7, R248). -/
abbrev Word := BitVec 64

/-- Sparse data by index: pairs of an index and a value, indexes strictly rising, no value equal to what an unlisted
index holds. Machine/Tab.lean has the operations, which keep that form. -/
abbrev Tab (α : Type) := List (Nat × α)

end Sys2Proof
end

