-- ==== Sys2Proof/Machine/State.lean ====
section
/-! DEFINITION. The state of the device as plain data, the reasons a step can stop, and the state right after power-on
reset. INVENTORY.md lists the pieces with the rules that name them. BAR0 registers are the words of `regs`, by their BAR0
offset; an unlisted register holds its reset value (Machine/Regs.lean). Other indexed state is a `Tab`: an unlisted index
holds the value the accessor of Machine/Ops.lean names. -/

namespace Sys2Proof.Machine

open Sys2Proof

/-- Nothing faults: every command ends in a next state. The type is the host's place for a fault reason. -/
inductive Fault where
  /-- Raised by nothing; safe. It stands here because a closed inductive needs a constructor to be inhabited. -/
  | none
  deriving DecidableEq, Repr

/-- Why a command is refused. -/
inductive Refusal where
  /-- Raised by Dispatch for a row whose meaning is not written; safe. -/
  | notModelled (mnemonic : String)
  deriving DecidableEq, Repr

/-- A packet or cell in the device (R124, R127): the header fields, the payload, and the end-to-end code it carries
(CRC-32C of a bulk packet, CRC16 of a cell). `poison` is the flag of R132. `arrival` is no part of the bytes: TIME when a SYNC
cell arrived at its port, less the delay of its link (R466); nor are `group`, the SW_MCAST entry of a multicast packet when its
header arrived (R184), `copied`, the outputs that hold its copy already (R185), and `bad`, the payload words under poison of a
packet that stays inside the device (none listed: all of them, when `poison` is set), and `stale`, a packet of an earlier link epoch
that waits at its input, whose credits are not returned (R119, R135). -/
structure Packet where
  ty : BitVec 4 := 0
  vc : Nat := 0
  last : Bool := false
  ordered : Bool := false
  fixedLine : Bool := false
  multicast : Bool := false
  mirror : Bool := false
  retx : Bool := false
  poison : Bool := false
  rsvd : Bool := false
  dest : BitVec 16 := 0
  src : BitVec 16 := 0
  job : BitVec 16 := 0
  msgid : BitVec 32 := 0
  pseq : BitVec 16 := 0
  len : BitVec 16 := 0
  tag : BitVec 32 := 0
  handle : BitVec 32 := 0
  offset : BitVec 32 := 0
  flow : BitVec 16 := 0
  total : BitVec 16 := 0
  kind : BitVec 8 := 0
  seq : BitVec 8 := 0
  payload : List Byte := []
  code : BitVec 32 := 0
  arrival : Word := 0
  group : Word := 0
  copied : List Nat := []
  bad : List Nat := []
  stale : Bool := false
  deriving DecidableEq, Repr

/-- A stop record (R266). -/
structure StopRec where
  status : Nat
  source : Nat
  core : Nat
  tag : BitVec 32
  pc : BitVec 48
  addr : BitVec 64
  later : BitVec 32
  discarded : BitVec 32
  deriving DecidableEq, Repr

/-- A queued engine instruction with its captures (R258, R273); `pc` is kept for the stop record (R266); `started`: it has begun
and waits for what it reads (R267, R270, R368). -/
structure QEntry where
  w0 : BitVec 32 := 0
  w1 : BitVec 32 := 0
  tag : BitVec 32 := 0
  pc : BitVec 48 := 0
  th0 : Word := 0
  th1 : Word := 0
  sig : Word := 0
  nctrl : Word := 0
  seed : Word := 0
  opA : BitVec 128 := 0
  opB : BitVec 128 := 0
  opC : BitVec 128 := 0
  started : Bool := false
  deriving DecidableEq, Repr

/-- A queued RTE or XE instruction: the rope and the physical core that issued it (R29, R64); `late` marks an RTE instruction
accepted while its rope waits for an agreed boundary, which starts after it (R425). -/
structure DieEntry where
  rope : Nat
  core : Nat
  e : QEntry
  late : Bool := false
  deriving DecidableEq, Repr

/-- One accumulator point (R239, R244, R273): window, placement exponent, sticky bit and special flags. -/
structure AccPoint where
  win : BitVec 192 := 0
  m : Option Int := none
  sticky : Bool := false
  nan : Bool := false
  posInf : Bool := false
  negInf : Bool := false
  deriving DecidableEq, Repr

/-- A wait condition (R261): a device belay or a belay of the core, and the threshold. -/
structure Cond where
  device : Bool
  idx : Nat
  thr : Word
  deriving DecidableEq, Repr

/-- The state of one physical core: its sequencer (R248), instruction cache (R249), engine queues (R257), accumulator
(R239 to R245) and fault record (R273). `running`: the sequencer executes; `ended`: END has retired (R287); `waiting`: the conditions of
the WAIT it stands at (R290, R436). -/
structure Core where
  g : Tab Word := []
  p : BitVec 8 := 1
  t : Tab (BitVec 128) := []
  pc : BitVec 48 := 0
  issue : BitVec 23 := 0
  nstat : Word := 0
  belays : Tab Word := []
  running : Bool := false
  ended : Bool := false
  icache : Tab (BitVec 32) := []
  mxeQ : List QEntry := []
  vxeQ : List QEntry := []
  mgeQ : List QEntry := []
  dmvQ : List QEntry := []
  acc : Tab AccPoint := []
  terms : Nat := 0
  tileNan : Bool := false
  tileSpan : Bool := false
  fault : Option StopRec := none
  waiting : List Cond := []
  deriving DecidableEq, Repr

/-- A sequence of the step composer (R407). -/
structure Seq where
  id : BitVec 32
  prio : Nat
  prompt : Nat
  slot : Nat := 0
  done : Nat := 0
  pos : Nat := 0
  decoding : Bool := false
  cancelled : Bool := false
  deriving DecidableEq, Repr

/-- An entry of a composed step (R406). -/
structure StepEntry where
  id : BitVec 32
  slot : Nat
  kind : Nat
  final : Bool
  pos : Nat
  count : Nat
  deriving DecidableEq, Repr

/-- The step composer of a rope (R405 to R409). `empty` marks a composition that emitted nothing and waits for the next
SEQ_ADD. -/
structure Composer where
  budget : Nat := 0
  chunk : Nat := 0
  maxSeqs : Nat := 0
  readyB : Nat := 0
  doneB : Nat := 0
  stepArea : Nat := 0
  resultArea : Nat := 0
  step : Nat := 0
  act : List Seq := []
  pend : List Seq := []
  entries : List StepEntry := []
  empty : Bool := false
  deriving DecidableEq, Repr

/-- A record the command processor holds (R384, R388): its sequence number, its 64 bytes, whether it has begun to run, whether it
has completed, and whether its queue has been enabled again since it was taken (R385). -/
structure Rec where
  seq : BitVec 32
  bytes : List Byte
  started : Bool := false
  done : Bool := false
  old : Bool := false
  deriving DecidableEq, Repr

/-- A queue command passed by an instruction (R297): the issuing rope and core, the tag and PC for a stop record, the
operation, the captured register, the signal, and the record once it has been read. -/
structure InstrCmd where
  rope : Nat
  core : Nat
  tag : BitVec 32
  pc : BitVec 48
  op : Nat
  reg : Word
  sb : Nat
  sop : Bool
  sig : Word
  rec_ : List Byte := []
  deriving DecidableEq, Repr

/-- Which record waits for an action to finish: a record of a window by its sequence number, or one passed by an
instruction. -/
inductive Waiter where
  | window (q : Nat) (seq : BitVec 32)
  | instr (c : InstrCmd)
  deriving DecidableEq, Repr

/-- A suspend or a resume in progress (R400, R401); `written`: the save area has been sent off and waits to be visible. -/
structure Suspend where
  save : Nat
  spill : Bool
  who : Waiter
  written : Bool := false
  deriving DecidableEq, Repr

/-- A step boundary that waits (R404): the STEP_MARK records it completes, whether the composer asked for it, whether a
checkpoint holds it (R425), and whether the checkpoint has agreed. -/
structure Boundary where
  marks : List Waiter := []
  composer : Bool := false
  compose0 : Bool := false
  held : Bool := false
  agreed : Bool := false
  deriving DecidableEq, Repr

/-- What the device keeps of a rope beside its registers (R396, R266, R400, R404, R405); `rteHeld` counts RTE instructions saved
by a suspend (R400); `seed0` and `nctrl0` are the values given at creation (R268). -/
structure Rope where
  rank : Nat := 0
  ranks : Nat := 0
  ptBase : Nat := 0
  ptSize : Nat := 0
  belayFirst : Nat := 0
  belayCount : Nat := 0
  tmapPages : Nat := 0
  seed : Word := 0
  nctrl : Word := 0
  seed0 : Word := 0
  nctrl0 : Word := 0
  endBelay : Option Nat := none
  commitCount : Nat := 0
  stop : Option StopRec := none
  suspend : Option Suspend := none
  resume : Option Suspend := none
  boundary : Option Boundary := none
  rteHeld : Nat := 0
  composer : Composer := {}
  cycles : Tab Nat := []
  deriving DecidableEq, Repr

/-- A routing engine (R29, R49): queue, the rope it served last, and the slice cache with its tag (rope, layer, commit count)
and the places of its poisoned entries (R33). -/
structure Rte where
  queue : List DieEntry := []
  lastRope : Nat := 0
  tag : Option (Nat × Nat × Nat) := none
  slice : List (BitVec 128) := []
  sliceBad : List Nat := []
  deriving DecidableEq, Repr

/-- A run of the count output (R56): destination rank, slot, first record in the dispatch list, records. -/
structure XRun where
  rank : Nat
  slot : Nat
  first : Nat
  count : Nat
  deriving DecidableEq, Repr

/-- What an origin knows of a run after its grant (R75, R77). -/
structure XGrant where
  admitted : Nat
  offset : Nat
  handle : BitVec 32
  deriving DecidableEq, Repr

/-- A slot at its receiver (R72 to R76, R81 to R84): rows offered and admitted, per origin admitted rows and offsets, the
two buffers while held, which origins' rows have landed or are voided, which answers have been sent and how many of those
messages are acknowledged. -/
structure SlotRx where
  offered : Nat := 0
  admitted : Nat := 0
  poolEmpty : Bool := false
  adm : List Nat := []
  off : List Nat := []
  rx : Option (BitVec 32) := none
  ans : Option (BitVec 32) := none
  landed : List Nat := []
  voided : List Nat := []
  sent : List (Nat × Nat) := []
  acked : Nat := 0
  deriving DecidableEq, Repr

/-- An exchange an XE has accepted (R64 to R96): its tag is active until `finished` gives the status it was cut short with.
`dlist` is the dispatch list as read on acceptance; `outcome` gives each record's end (1 combined, 2 declined, 3 cancelled;
unlisted: in flight), `answered` the records whose answers lie in RET; `cells` counts cells not yet acknowledged. Streams are
numbered by the other side, rank × D + die; `cut` holds 2 × stream as receiver, 2 × stream + 1 as origin. -/
structure Exch where
  tag : BitVec 32
  rope : Nat
  ent : QEntry
  core : Nat
  desc : List Byte
  dlist : List Byte := []
  runs : List XRun := []
  nrec : Nat := 0
  outcome : Tab Nat := []
  answered : Tab Nat := []
  tokensDone : List Nat := []
  cntSeen : Tab (List Nat) := []
  cntTotal : Tab Nat := []
  offered : Tab Nat := []
  granted : Bool := false
  slots : Tab SlotRx := []
  grSeen : Tab (List Nat) := []
  grTotal : Tab Nat := []
  grantEnts : Tab XGrant := []
  streamsDone : List Nat := []
  sentRuns : List Nat := []
  cells : Nat := 0
  cut : List Nat := []
  lost : Option Nat := none
  finished : Option Nat := none
  poisoned : Bool := false
  poolEmpty : Bool := false
  declined : Bool := false
  rxAdm : Nat := 0
  rxDecl : Nat := 0
  deriving DecidableEq, Repr

/-- An exchange engine (R64, R70, R80, R89): queue, the rope it served last, the stream it sent on last in each phase, exchanges,
early cells, retired tags by rope. -/
structure Xe where
  queue : List DieEntry := []
  lastRope : Nat := 0
  lastStream : Nat := 0
  lastReturn : Nat := 0
  active : List Exch := []
  early : List Packet := []
  retired : Tab (List (BitVec 32)) := []
  deriving DecidableEq, Repr

/-- The unit that sends a message or a cell and is told how it ends (R141, R163, R171). -/
inductive MsgUnit where
  | xeBulk (die : Nat) (tag : BitVec 32) (run : Nat)
  | xeReturn (die : Nat) (tag : BitVec 32) (slot chunk origin : Nat)
  | xeCell (die : Nat) (tag : BitVec 32) (stream : Nat)
  | coll (chan : Nat) (seq : BitVec 32)
  | read (req : BitVec 32)
  | write (who rope : Nat) (addr : Nat) (req : BitVec 32)
  | lender (m : Nat)
  | basecamp
  deriving DecidableEq, Repr

/-- A message that waits to start (R163): its unit, its destination (a rank of a rope, or an address), and its packets
without MSGID and DEST; `aflow` is the FLOW of its resends. -/
structure MsgReq where
  unit : MsgUnit
  rank : Option (Nat × Nat)
  addr : BitVec 16
  inp : Nat
  packets : List Packet
  aflow : BitVec 16 := 0
  deriving DecidableEq, Repr

/-- A message outstanding (R162, R163, R167). -/
structure OutMsg where
  dest : BitVec 16
  cred : Nat
  gen : Nat
  slot : Nat
  try_ : Nat
  repro : Bool
  unit : MsgUnit
  inp : Nat
  packets : List Packet
  aflow : BitVec 16 := 0
  deriving DecidableEq, Repr

/-- A control cell sent and not acknowledged, or waiting to be sent to a rank of a rope or to an address (R141, R169). -/
structure OutCell where
  dest : BitVec 16
  kind : Nat
  seq : Nat
  tries : Nat
  inp : Nat
  unit : MsgUnit
  pkt : Packet
  rank : Option (Nat × Nat) := none
  deriving DecidableEq, Repr

/-- A message-table entry (R164): 0 FREE, 1 PARTIAL, 2 DONE; `parts` holds the packets counted in the current attempt. -/
structure MsgEntry where
  state : Nat := 0
  gen : Nat := 0
  try_ : Nat := 0
  count : Nat := 0
  total : Option Nat := none
  parts : List Packet := []
  deriving DecidableEq, Repr

/-- Messages and control cells of the device (R162 to R171). `credits` and `gens` are by destination × 16 + credit: a
listed credit is taken. `hold` is the traffic hold of R168. -/
structure Msgs where
  waiting : List MsgReq := []
  lastUnit : Nat := 0
  outst : List OutMsg := []
  gens : Tab Nat := []
  table : Tab MsgEntry := []
  cells : List OutCell := []
  cellWait : List OutCell := []
  cellSeq : Tab Nat := []
  unreach : Tab Bool := []
  hold : Bool := true
  deriving DecidableEq, Repr

/-- A fabric port beside its registers (R103 to R123). `tx` holds the bytes of the stream not yet laid into a flit (R112);
`passRates` and `passWidth` are RATES and WIDTH_MIN as read when the training pass began, `common` the own and the common rates once
an attempt has shown them (R105), `peer` the neighbour's parameter block (R106); `downed` holds from becoming DOWN until the port is
UP again (R143); `addLast` is the channel its adder served last (R214). -/
structure Port where
  txSeq : BitVec 12 := 0
  rxSeq : BitVec 12 := 0
  acked : BitVec 12 := 0xFFF
  replay : List (BitVec 12 × List Byte) := []
  rx : List Byte := []
  tx : List Byte := []
  toReturn : Tab Nat := []
  rrVc : Nat := 0
  nakSent : Bool := false
  failed : Nat := 0
  replayAt : Option (BitVec 12) := none
  retrain : Option (Nat × Nat) := none
  attempt : Nat := 0
  passFailed : Bool := false
  passRates : Nat := 7
  passWidth : Nat := 0
  common : Option (Nat × Nat) := none
  peer : List Byte := []
  downed : Bool := false
  analysis : Bool := false
  leftTraining : Bool := false
  delay : Nat := 0
  advert : Tab Nat := []
  addLast : Nat := 0
  deriving DecidableEq, Repr

/-- A calendar slot that is not FREE (R159): HELD or DRAINING, its job, plan and line. -/
structure CalSlot where
  draining : Bool
  job : Nat
  plan : Nat
  line : Nat
  deriving DecidableEq, Repr

/-- The switch core beside its registers (R172 to R191). Input queues are by input × 8 + VC (inputs 0–26 are S0–S26,
27 + n the adder of port n, R207); `rrIn` is the input an output serves first, by output × 8 + VC (R174); `ownBlocked` the own links
that are blocked, by dimension × 2 + direction (R143); output queues by output × 8 + VC with the input each packet came from and whether it
entered a ring; mirror partitions by output; `armed`: the current calendar slot of an output began with a packet of its line waiting (R179);
`startedUp`: START_UP has ended (R180). -/
structure Switch where
  inq : Tab (List Packet) := []
  outq : Tab (List (Packet × Nat × Bool)) := []
  mirrorq : Tab (List Packet) := []
  delivered : Tab (List (Packet × Nat)) := []
  allow : Tab Nat := []
  allowRem : Tab Nat := []
  vc3Run : Tab Nat := []
  rrVc : Tab Nat := []
  rrIn : Tab Nat := []
  ownBlocked : Tab Bool := []
  recovery : Bool := false
  startedUp : Bool := false
  armed : Tab Bool := []
  notices : List (Nat × Nat × Nat × Nat) := []
  deriving DecidableEq, Repr

/-- A NaN note of a part in flight (R206): first NaN element, rank, level, position. -/
structure CollNote where
  elem : Nat
  rank : Nat
  level : Nat
  pos : Nat
  deriving DecidableEq, Repr

/-- A collective accepted on a channel (R192, R214). -/
structure CollDesc where
  bytes : List Byte
  rope : Nat
  deriving DecidableEq, Repr

/-- The running collective of a channel (R196 to R225). Steps are named by HANDLE words (R205): `got` messages complete here,
`did` steps processed, `sent` steps sent. `credits` are held by (((level × 4 + sub-ring) × 2 + phase) × 2^23 + pitch).
`notes` are by HANDLE × 2^24 + packet; `levelDone` counts the leading complete pitches of level × 2 + phase; `abort` is the
status and the named member's level, position and rank; `overrun`: an abort came after the last pitch was complete (R222). -/
structure CollRun where
  desc : CollDesc
  got : Tab Bool := []
  did : Tab Bool := []
  sent : Tab Bool := []
  credits : Tab Bool := []
  notes : Tab CollNote := []
  levelDone : Tab Nat := []
  pitches : Nat := 0
  nan : Option CollNote := none
  poisoned : Bool := false
  abort : Option (Nat × Nat × Nat × Nat) := none
  overrun : Bool := false
  msgs : Nat := 0
  deriving DecidableEq, Repr

/-- A collective channel beside its registers (R213 to R215): accepted collectives, the running one, the sequence expected of
the next COLLECTIVE, and credits held for the sequence that starts next, each with that sequence. -/
structure Chan where
  queue : List CollDesc := []
  run : Option CollRun := none
  expect : Nat := 0
  nextCredits : List (Nat × Nat) := []
  deriving DecidableEq, Repr

/-- A command queue beside its registers (R383 to R386): which bytes of each slot are present, the slots' bytes, records
taken, DONE, the last rejected SEQ, the count of rejected records, whether a mirror write is due, and interrupts due. -/
structure CmdQ where
  have_ : Tab Bool := []
  slots : Tab Byte := []
  recs : List Rec := []
  done : BitVec 32 := 0
  rejSeq : BitVec 32 := 0
  rejected : Nat := 0
  mirrorDue : Bool := false
  irqs : List (BitVec 32) := []
  deriving DecidableEq, Repr

/-- A buffer pool beside its registers (R374 to R381): cache in order of entry, ring read position and length, ring positions
whose handles a failed spill has lost, waiting allocations, and a refill, an initialisation (and whether its writes have been sent)
or a disable (false) or reclaim (true) under way. -/
structure Pool where
  cache : List Nat := []
  ringHead : Nat := 0
  ringLen : Nat := 0
  gone : List Nat := []
  waiting : List BpmClient := []
  refill : Bool := false
  init : Bool := false
  initSent : Bool := false
  pend : Option Bool := none
  deriving DecidableEq, Repr

/-- What each function has of its own (R379, R421, R457): the BPM result and held HANDLE, a request that waits for lent memory
(operation, new owner, handle), seal and quote statuses. -/
structure Fn where
  bpmResult : Word := 0xFFFFFFFF
  bpmHeld : BitVec 32 := 0
  bpmReq : Option (Nat × Nat × BitVec 32) := none
  sealStatus : Word := 0
  quoteStatus : Word := 0
  deriving DecidableEq, Repr

/-- A commit that waits for its flip (R51, R394): target (0 placement, 1 rank map, 2 plan), index, copy-back, where its
status word goes, the record it completes, and the held writes of its own queue that come before it (R25). -/
structure Commit where
  target : Nat
  index : Nat
  copyBack : Bool
  status : Option Nat
  byRope : Option Nat
  who : Waiter
  after : List Waiter := []
  deriving DecidableEq, Repr

/-- A table write that waits (R52): for a copy-back, and, where `flip`, for the flip of a commit that was pending when it came. -/
structure Deferred where
  target : Nat
  index : Nat
  first : Nat
  entries : List (List Byte)
  who : Waiter
  flip : Bool := false
  deriving DecidableEq, Repr

/-- Placement table, directories, rank maps, plans, tier maps and page table (R44 to R52, R140, R157, R355, R357); `scrubbing`
names the pages being scrubbed. Indexes:
placement bank × 262,144 + entry; layerDir (rope × 2 + bank) × 256 + layer; rankMap (rope × 2 + bank) × 32,768 + rank;
planDir plan × 2 + bank; planLine (plan × 2 + bank) × 1,024 + line entry; tierMap rope × 4,194,304 + page. -/
structure Tables where
  placement : Tab (BitVec 128) := []
  layerDir : Tab (BitVec 64) := []
  rankMap : Tab (BitVec 32) := []
  planDir : Tab (BitVec 64) := []
  planLine : Tab (BitVec 128) := []
  tierMap : Tab (BitVec 128) := []
  pages : Tab (BitVec 32) := []
  commits : List Commit := []
  deferred : List Deferred := []
  copyBack : List (Nat × Nat) := []
  calendar : Tab CalSlot := []
  curSlot : Tab Nat := []
  scrubbing : Option (Nat × Nat) := none
  deriving DecidableEq, Repr

/-- A prefetch schedule as read at its activation (R361): header, layer entries, slot records of each layer, buffer table of
each rope die. -/
structure Sched where
  header : List Byte
  layers : List (List Byte)
  slots : List (List (List Byte))
  bufs : List (List Byte)
  deriving DecidableEq, Repr

/-- A fill (R363 to R365): layer entry, slot, piece, buffer index, the served tag it belongs to (none: speculative), whether it
has landed, and whether its release waits for that. -/
structure Fill where
  layer : Nat
  slot : Nat
  piece : Nat
  buf : Nat
  tag : Option (BitVec 32) := none
  landed : Bool := false
  released : Bool := false
  deriving DecidableEq, Repr

/-- The prefetch sequencer's work for a rope on one die (R363 to R365): tags handled (served or skipped), tags served with
their layer entry, the demand pieces still to issue, the fills, and the layer entries activated by speculation. -/
structure PfDie where
  seen : List (BitVec 32) := []
  served : List (BitVec 32 × Nat) := []
  todo : List (Nat × Nat) := []
  fills : List Fill := []
  activated : List Nat := []
  deriving DecidableEq, Repr

/-- A seal accepted (R421). -/
structure SealReq where
  fn : Requester
  desc : List Byte
  deriving DecidableEq, Repr

/-- A seal that runs (R421 to R423): the request, the digests of its objects, and how it ended if it did not complete. -/
structure SealRun where
  req : SealReq
  digests : List (Option (List Byte))
  ended : Option Nat
  deriving DecidableEq, Repr

/-- Lock-step of a rope beside its registers (R424 to R430): boundaries since arming, records written, inbox words present, the
bits of the other words written so far, half by half (R7), the own and the partner's CHECKPOINT, the tree of the own stream, and
bisection: round, range, node, own PROBE. -/
structure LockStep where
  steps : Nat := 0
  outTotal : Nat := 0
  inbox : Tab (Option Word) := []
  part : Tab (Word × Word) := []
  own : Option (List Byte) := none
  peer : Option (List Byte) := none
  tree : List (List (List Byte)) := []
  round : Nat := 0
  start : Nat := 0
  len : Nat := 0
  level : Nat := 0
  index : Nat := 0
  probe : Option (List Byte) := none
  deriving DecidableEq, Repr

/-- A management session (R461 to R463): keys, highest counter and counters seen per direction, answers. -/
structure Session where
  keyIn : List Byte
  keyOut : List Byte
  high : Option Nat := none
  seen : List Nat := []
  outCount : Nat := 0
  answers : List (Word × List Byte) := []
  deriving DecidableEq, Repr

/-- A quote that waits or has been asked for by BC_QUOTE_REQ (R457). -/
structure QuoteReq where
  fn : Requester
  addr : Nat
  deriving DecidableEq, Repr

/-- The basecamp beside its registers (R431 to R467). Boot stage: 0 unpowered, 1 powered, 2 ROM done, 3 Vuola running, 4
boot stopped. `samples` are the power samples of the last millisecond, latest first; `powerCap`, `memCap` and `dimmCap` the DDR5
caps of R440 and R442; `thermal` and `coolFor` the thermal step of each compute die and its cool samples in a row. `trained` gives
a channel's training result: 1 usable, 2 unused, 3 to be trained in full because step 3 failed. `cache` is the training cache in
flash by channel: serial number, socket and speed; `full` the channels trained in full whose entry Vuola has to write (R352).
`quote` is the quote that GET_QUOTE answers in parts; `pldm` the component of an update under way and whether it has been verified;
`timeHold` is for how many ns the servo still holds TIME; `good` counts small Sync offsets in a row. -/
structure Basecamp where
  samples : List Nat := []
  powerCap : Nat := 0
  memCap : Nat := 0
  dimmCap : Bool := false
  thermal : Tab Nat := []
  coolFor : Tab Nat := []
  stage : Nat := 1
  parity : Bool := true
  secret : Option (BitVec 256) := none
  dimms : List (Option Dimm) := []
  trained : Tab Nat := []
  ddrReady : Bool := false
  cache : Tab (Option (Nat × Nat × Nat)) := []
  full : List Nat := []
  imgHeader : List Byte := []
  cfgRecord : List Byte := []
  imgCounter : BitVec 32 := 0
  cfgCounter : BitVec 32 := 0
  prefImg : Bool := false
  prefCfg : Bool := false
  managers : List (List Byte) := []
  sessions : Tab Session := []
  handshake : List (Nat × List Byte) := []
  quotes : List QuoteReq := []
  quote : List Byte := []
  pldm : Option (Nat × Bool) := none
  timeArmed : Bool := false
  timeHold : Nat := 0
  good : Nat := 0
  removing : Bool := false
  deriving DecidableEq, Repr

/-- Sideband contacts (R492, R493): inputs as they stand, outputs, and whether FLASH_EXT# holds the basecamp stopped. -/
structure Pins where
  perst : Bool := false
  pwrDis : Bool := false
  flashExt : Bool := false
  flashOut : Bool := false
  removeReady : Bool := false
  thermTrip : Bool := false
  deriving DecidableEq, Repr

/-- The PCIe side (R485, R490): NumVFs, and MSI-X tables by function × 256 + word (word 128 holds the pending bits). -/
structure Pcie where
  numVfs : Nat := 0
  msix : Tab Word := []
  deriving DecidableEq, Repr

/-- The event ring beside its registers (R469 to R473); `ceWindow` holds, by channel, the times of corrected words not yet
reported. -/
structure Events where
  base : Nat := 0
  log2 : Nat := 10
  moderating : Bool := false
  again : Bool := false
  ceWindow : Tab (List Nat) := []
  deriving DecidableEq, Repr

/-- What a command sends outside the device (log 4). -/
inductive Out where
  /-- A register read's value, all ones for a dead function (R7, R444). -/
  | readData (f : Requester) (off size : Nat) (v : Word)
  /-- A BAR4 read: for each completion its data and EP bit (R480). -/
  | bar4Data (parts : List (List Byte × Bool))
  /-- A data or NAK flit of a port on its active lanes (R101, R110). -/
  | flit (port : Nat) (lanes : List (Nat × List Byte))
  /-- An idle flit with its link-control message, on the active lanes (R101, R113). -/
  | linkMsg (port : Nat) (lanes : List (Nat × List Byte))
  /-- The parameter block a port shows in its training frames (R106). -/
  | params (port : Nat) (bytes : List Byte)
  /-- An MSI-X message: function (16 the physical function) and vector (R490). -/
  | msix (fn vector : Nat)
  /-- An MCTP, PLDM or vendor answer (R458 to R460). -/
  | mgmtAnswer (bytes : List Byte)
  /-- A host memory write of the device (R360, R386, R422, R427, R457, R469) with its requester: a virtual function's number, or 16
  for the physical function. -/
  | hostWrite (fn : Nat) (addr : Nat) (bytes : List Byte)
  /-- A host memory read of the device with its requester (R360, R389). -/
  | hostRead (fn : Nat) (addr len : Nat)
  deriving DecidableEq, Repr

/-- Memory by physical place, the 16-byte words under the poison syndrome (R346, R347, R437), and the errors that lie undetected
in stored words: the pattern over a word's symbols, position 0 lowest (R345, R347). Words are numbered by place / 16. A poisoned
word lists no byte. -/
structure Mem where
  cells : List Host.Cell := []
  poison : List Nat := []
  errs : Tab (BitVec 160) := []
  deriving DecidableEq, Repr

/-- A 128-byte unit of lent memory a unit has asked for (R368, R369): request tag, asking unit, lender, LHANDLE, offset in
the page, and the answer: bytes and whether each 16-byte word is poison, or none of it for a lost lender. -/
structure ReadReq where
  req : BitVec 32
  who : Nat
  lender : Nat
  lhandle : Nat
  off : Nat
  answer : Option (List Byte × List Nat) := none
  lost : Bool := false
  deriving DecidableEq, Repr

/-- A write to lent memory whose outcome is open (R368, R369): its request tag, lender, writing unit, rope and address, the bytes
written there, and the tag and PC of the instruction that made it. -/
structure WriteReq where
  req : BitVec 32
  lender : Nat
  who : Nat
  rope : Nat
  addr : Nat
  len : Nat
  tag : BitVec 32 := 0
  pc : BitVec 48 := 0
  deriving DecidableEq, Repr

/-- A belay signal that waits for the signalling unit's writes to lent memory (R368, R262): unit, device belay or a core's
belay (core × 64 + b), set or increment, value; for the signal of an engine instruction the core that issued it and its tag. -/
structure HeldSig where
  who : Nat
  device : Bool
  idx : Nat
  set : Bool
  val : Word
  core : Option Nat := none
  tag : BitVec 32 := 0
  deriving DecidableEq, Repr

/-- The whole device. -/
structure State where
  pending : List Instr := []
  regs : Tab Word := []
  latch : Tab Word := []
  fns : Tab Fn := []
  mem : Mem := {}
  cores : Tab Core := []
  ropes : Tab Rope := []
  rtes : Tab Rte := []
  xes : Tab Xe := []
  msgs : Msgs := {}
  ports : Tab Port := []
  switch : Switch := {}
  chans : Tab Chan := []
  queues : Tab CmdQ := []
  instrCmds : List InstrCmd := []
  tables : Tables := {}
  pools : Tab Pool := []
  belays : Tab (Word × Word) := []
  pf : Tab PfDie := []
  sched : Tab Sched := []
  reads : List ReadReq := []
  readSeq : BitVec 32 := 0
  writes : List WriteReq := []
  heldSigs : List HeldSig := []
  seals : List SealReq := []
  sealing : Option SealRun := none
  lockstep : Tab LockStep := []
  bc : Basecamp := {}
  pins : Pins := {}
  pcie : Pcie := {}
  events : Events := {}
  scrubPos : Tab Nat := []
  out : List Out := []
  fresh : Nat := 0
  deriving DecidableEq, Repr

/-- The device right after power-on: every register at its reset value (none listed), memory with nothing listed, no rope,
nothing queued, nothing outstanding, the traffic hold of R168 set. Each unlisted value is named in INVENTORY.md under
'## State'; those the spec gives no value for are in log 2. -/
def State.reset : State := {}

end Sys2Proof.Machine
end

