-- ==== Sys2Proof/Machine/Tab.lean ====
section
/-! DEFINITION. Sparse tables: reading, and writing in the canonical form (indexes rising, no entry equal to what an
unlisted index holds). -/

namespace Sys2Proof.Machine

open Sys2Proof

/-- The value at index `i`; `d` is what an unlisted index holds. -/
def tget {α : Type} (d : α) : Tab α → Nat → α
  | [], _ => d
  | (j, v) :: t, i => if j = i then v else tget d t i

/-- Take out every entry at index `i`. -/
def terase {α : Type} (i : Nat) : Tab α → Tab α
  | [] => []
  | (j, w) :: t => if j = i then terase i t else (j, w) :: terase i t

/-- Put `v` at index `i`, before the first greater index. -/
def tput {α : Type} (i : Nat) (v : α) : Tab α → Tab α
  | [] => [(i, v)]
  | (j, w) :: t => if i < j then (i, v) :: (j, w) :: t else if j = i then (i, v) :: t else (j, w) :: tput i v t

/-- Write `v` at index `i`; the entry is dropped when `v` is what an unlisted index holds. -/
def tset {α : Type} [DecidableEq α] (d : α) (t : Tab α) (i : Nat) (v : α) : Tab α :=
  if v = d then terase i t else tput i v t

/-- Change the value at index `i`. -/
def tmod {α : Type} [DecidableEq α] (d : α) (t : Tab α) (i : Nat) (f : α → α) : Tab α :=
  tset d t i (f (tget d t i))

/-- The entries whose index satisfies `p`. -/
def tfilter {α : Type} (p : Nat → Bool) (t : Tab α) : Tab α := t.filter (fun e => p e.1)

/-- Change every listed value, dropping entries that become what an unlisted index holds. -/
def tmapAll {α : Type} [DecidableEq α] (d : α) (f : Nat → α → α) : Tab α → Tab α
  | [] => []
  | (j, v) :: t => if f j v = d then terase j (tmapAll d f t) else (j, f j v) :: tmapAll d f t

/-- The canonical form: indexes strictly rising and no entry equal to `d`. -/
def twf {α : Type} [DecidableEq α] (d : α) : Tab α → Bool
  | [] => true
  | (_, v) :: [] => decide (v ≠ d)
  | (j, v) :: (k, w) :: t => decide (v ≠ d) && decide (j < k) && twf d ((k, w) :: t)

/-- Insert into a strictly rising list of numbers. -/
def insertNat (n : Nat) : List Nat → List Nat
  | [] => [n]
  | m :: t => if n < m then n :: m :: t else if n = m then m :: t else m :: insertNat n t

/-- A strictly rising list of numbers. -/
def risingNat : List Nat → Bool
  | [] => true
  | [_] => true
  | a :: b :: t => decide (a < b) && risingNat (b :: t)

/-- The place of the first element that satisfies `p`, counted from `i`. -/
def findIdxFrom {α : Type} (p : α → Bool) : List α → Nat → Option Nat
  | [], _ => none
  | a :: t, i => if p a then some i else findIdxFrom p t (i + 1)

/-- Replace element `i` of a list; no change beyond its end. -/
def setAt {α : Type} : List α → Nat → α → List α
  | [], _, _ => []
  | _ :: t, 0, v => v :: t
  | a :: t, i + 1, v => a :: setAt t i v

/-- Take out element `i` of a list. -/
def dropAt {α : Type} : List α → Nat → List α
  | [], _ => []
  | _ :: t, 0 => t
  | a :: t, i + 1 => a :: dropAt t i

/-- Run `f` over a list, passing the state on. -/
def forList {α σ : Type} (l : List α) (s : σ) (f : α → σ → σ) : σ :=
  l.foldl (fun t a => f a t) s

/-- Run `f` for 0 to n − 1, passing the state on. -/
def forN {σ : Type} (n : Nat) (s : σ) (f : Nat → σ → σ) : σ :=
  forList (List.range n) s f

/-- Insert after every element it does not come before: folding it over a list sorts it stably. -/
def insertBy {α : Type} (before : α → α → Bool) (x : α) : List α → List α
  | [] => [x]
  | y :: t => if before x y then x :: y :: t else y :: insertBy before x t

/-- A stable sort. -/
def sortBy {α : Type} (before : α → α → Bool) (l : List α) : List α := l.foldl (fun acc x => insertBy before x acc) []

end Sys2Proof.Machine
end

