-- ==== Sys2Proof/Machine/Mem.lean ====
section
/-! DEFINITION. Bytes, and the memory of the device by physical place: local memory (R351), core and cluster stores (R252),
flash (R496) and host memory, with the poison of 16-byte words (R346, R349). -/

namespace Sys2Proof.Machine

open Sys2Proof

/-- The number a little-endian byte list spells (R3). -/
def leNat : List Byte → Nat
  | [] => 0
  | b :: t => b.toNat + 256 * leNat t

/-- The `n` little-endian bytes of a number (R3). -/
def natLe : Nat → Nat → List Byte
  | 0, _ => []
  | n + 1, v => BitVec.ofNat 8 v :: natLe n (v / 256)

/-- The little-endian field of `n` bytes at offset `off`; bytes beyond the end are 0. -/
def fieldAt (bs : List Byte) (off n : Nat) : Nat := leNat ((bs.drop off).take n)

/-- Bits [hi:lo] of a number. -/
def nbits (hi lo v : Nat) : Nat := (v >>> lo) % 2 ^ (hi + 1 - lo)

/-- A byte list of length `n` with `v` written over it from `off`. -/
def overlay (bs : List Byte) (off : Nat) (v : List Byte) : List Byte :=
  bs.take off ++ v ++ bs.drop (off + v.length)

/-- `n` zero bytes. -/
def zeros (n : Nat) : List Byte := List.replicate n 0

/-- Place of offset `off` of the core store of physical core `c`. -/
def corePlace (c off : Nat) : Nat := 2 ^ 44 + c * 2 ^ 21 + off

/-- Place of offset `off` of the cluster store of physical cluster `q`. -/
def clusterPlace (q off : Nat) : Nat := 2 ^ 45 + q * 2 ^ 24 + off

/-- Place of offset `off` of the flash. -/
def flashPlace (off : Nat) : Nat := 2 ^ 46 + off

/-- Place of host bus address `a`. -/
def hostPlace (a : Nat) : Nat := 2 ^ 64 + a

/-- The byte at a place: 0 where nothing is listed (log 3). -/
def Mem.byte (m : Mem) (p : Nat) : Byte := tget 0 m.cells p

/-- The 16-byte word that holds a place is under the poison syndrome (R346, R347). -/
def Mem.poisoned (m : Mem) (p : Nat) : Bool := m.poison.contains (p / 16)

/-- The `n` bytes from a place. -/
def Mem.bytes (m : Mem) (p n : Nat) : List Byte := (List.range n).map (fun i => m.byte (p + i))

/-- Some word among the `n` bytes from a place is poisoned. -/
def Mem.anyPoison (m : Mem) (p n : Nat) : Bool :=
  m.poison.any (fun w => decide (p < 16 * w + 16) && decide (16 * w < p + n))

/-- Store one byte; a byte of a poisoned word is lost with it (R349). -/
def Mem.setByte (m : Mem) (p : Nat) (b : Byte) : Mem :=
  if m.poisoned p then m else { m with cells := tset 0 m.cells p b }

/-- Store bytes one after the other. -/
def Mem.setBytes : Mem → Nat → List Byte → Mem
  | m, _, [] => m
  | m, p, b :: t => (m.setByte p b).setBytes (p + 1) t

/-- Word `w` lies whole in the `n` bytes from `p`. -/
def wholeWord (p n w : Nat) : Bool := decide (p ≤ 16 * w) && decide (16 * w + 16 ≤ p + n)

/-- Take away the poison, and the errors, of every word that lies whole in the `n` bytes from `p`. -/
def Mem.unpoison (m : Mem) (p n : Nat) : Mem :=
  { m with poison := m.poison.filter (fun w => ! wholeWord p n w), errs := tfilter (fun w => ! wholeWord p n w) m.errs }

/-- Write bytes: a whole 16-byte word replaces poison with good data, a partial write leaves it (R349). -/
def Mem.write (m : Mem) (p : Nat) (bs : List Byte) : Mem := (m.unpoison p bs.length).setBytes p bs

/-- Zero `n` bytes from `p`, as a write of zeros does. -/
def Mem.clear (m : Mem) (p n : Nat) : Mem :=
  { cells := (m.unpoison p n).cells.filter (fun e => ! (decide (p ≤ e.1) && decide (e.1 < p + n))),
    poison := (m.unpoison p n).poison, errs := (m.unpoison p n).errs }

/-- Put the word that holds a place under the poison syndrome. -/
def Mem.setPoison (m : Mem) (p : Nat) : Mem :=
  { cells := m.cells.filter (fun e => decide (e.1 / 16 ≠ p / 16)), poison := insertNat (p / 16) m.poison,
    errs := terase (p / 16) m.errs }

/-- Put every word touched by the `n` bytes from `p` under poison (`fuel` words at most). -/
def Mem.poisonRange : Nat → Mem → Nat → Nat → Mem
  | 0, m, _, _ => m
  | k + 1, m, p, n => if n = 0 then m else Mem.poisonRange k (m.setPoison p) (p / 16 * 16 + 16) (p + n - (p / 16 * 16 + 16))

/-- The first word of the `n` bytes from `p` that holds an error. -/
def Mem.badWord (m : Mem) (p n : Nat) : Option Nat :=
  (m.errs.find? (fun e => decide (p < 16 * e.1 + 16) && decide (16 * e.1 < p + n))).map (fun e => e.1)

/-- The canonical form: places rising with no zero byte, poisoned words rising, no byte listed in a poisoned word, error patterns
rising and none empty. -/
def Mem.wf (m : Mem) : Bool :=
  twf 0 m.cells && risingNat m.poison && m.cells.all (fun e => ! m.poison.contains (e.1 / 16)) && twf 0 m.errs

/-- Write bytes at a place of the device's memory. -/
def memWrite (p : Nat) (bs : List Byte) (s : State) : State := { s with mem := s.mem.write p bs }

/-- A host memory write with the requester ID of function `fn` (R360, R389): the bytes land and leave on the PCIe link. -/
def hostWriteBy (fn a : Nat) (bs : List Byte) (s : State) : State :=
  { s with mem := s.mem.write (hostPlace a) bs, out := s.out ++ [.hostWrite fn a bs] }

/-- A host memory write of the device itself, as the physical function. -/
def hostWrite (a : Nat) (bs : List Byte) (s : State) : State := hostWriteBy 16 a bs s

/-- Bytes of host memory. -/
def hostBytes (s : State) (a n : Nat) : List Byte := s.mem.bytes (hostPlace a) n

end Sys2Proof.Machine
end

