-- ==== Sys2Proof/Machine/Sha3.lean ====
section
/-! DEFINITION. SHA3-512 of FIPS 202, which R418, R422, R449 and R455 name. A state is 25 lanes, lane x + 5y. -/

namespace Sys2Proof.Machine

open Sys2Proof

/-- A lane of a Keccak state. -/
def lane (a : List Word) (x y : Nat) : Word := a.getD (x % 5 + 5 * (y % 5)) 0

/-- The walk of ρ from step `t` at lane (x, y), `n` steps: each lane it meets and its rotation, the t-th triangular number. -/
def rhoWalk : Nat → Nat → Nat → Nat → List (Nat × Nat)
  | 0, _, _, _ => []
  | n + 1, t, x, y => (x + 5 * y, (t + 1) * (t + 2) / 2 % 64) :: rhoWalk n (t + 1) y ((2 * x + 3 * y) % 5)

/-- The rotation offsets of ρ, by lane; lane (0, 0) is not on the walk and stays. -/
def rhoOffsets : List Nat :=
  (List.range 25).map (fun i => (((rhoWalk 24 0 1 0).find? (fun p => decide (p.1 = i))).map (fun p => p.2)).getD 0)

/-- The bits that ι draws, `n` of them from register `r`: its lowest bit, then a step of the register of x^8 + x^6 + x^5 + x^4 + 1. -/
def iotaBits : Nat → Nat → List Nat
  | 0, _ => []
  | n + 1, r => r % 2 :: iotaBits n (if r < 128 then 2 * r else Nat.xor (2 * r) 369)

/-- The round constants of ι: seven bits a round, at places 0, 1, 3, 7, 15, 31 and 63. -/
def iotaConsts : List Word :=
  let bits := iotaBits 168 1
  (List.range 24).map (fun i =>
    BitVec.ofNat 64 (((List.range 7).map (fun j => bits.getD (7 * i + j) 0 * 2 ^ (2 ^ j - 1))).sum))

/-- 25 lanes from a function of x and y. -/
def lanesOf (f : Nat → Nat → Word) : List Word := (List.range 25).map (fun i => f (i % 5) (i / 5))

/-- One round of Keccak-f[1600]. -/
def keccakRound (a : List Word) (rc : Word) : List Word :=
  let c := (List.range 5).map (fun x => (List.range 5).foldl (fun w y => w ^^^ lane a x y) (0 : Word))
  let d := (List.range 5).map (fun x => c.getD ((x + 4) % 5) 0 ^^^ (c.getD ((x + 1) % 5) 0).rotateLeft 1)
  let t := lanesOf (fun x y => lane a x y ^^^ d.getD x 0)
  -- π: lane (x, y) of the result is the rotated lane (x + 3y, x)
  let b := lanesOf (fun x y => (lane t (x + 3 * y) x).rotateLeft (rhoOffsets.getD ((x + 3 * y) % 5 + 5 * x) 0))
  let e := lanesOf (fun x y => lane b x y ^^^ (~~~(lane b (x + 1) y) &&& lane b (x + 2) y))
  match e with
  | l :: t => (l ^^^ rc) :: t
  | [] => []

/-- Keccak-f[1600]. -/
def keccakF (a : List Word) : List Word := iotaConsts.foldl keccakRound a

/-- Absorb one block of 72 bytes. -/
def absorb (a : List Word) (bs : List Byte) : List Word :=
  keccakF (a.zipIdx.map (fun w => if w.2 < 9 then w.1 ^^^ BitVec.ofNat 64 (fieldAt bs (8 * w.2) 8) else w.1))

/-- Absorb the whole blocks of a padded message (`fuel` at most). -/
def absorbAll : Nat → List Word → List Byte → List Word
  | 0, a, _ => a
  | n + 1, a, bs => if bs.isEmpty then a else absorbAll n (absorb a (bs.take 72)) (bs.drop 72)

/-- The padding 01, 10*1 of SHA-3 to whole blocks of 72 bytes. -/
def sha3Pad (n : Nat) : List Byte :=
  let k := 72 - n % 72
  if k = 1 then [0x86] else [0x06] ++ zeros (k - 2) ++ [0x80]

/-- SHA3-512. -/
def sha3_512 (bs : List Byte) : List Byte :=
  ((absorbAll (bs.length / 72 + 1) (List.replicate 25 0) (bs ++ sha3Pad bs.length)).take 8).flatMap (fun w => natLe 8 w.toNat)

/-! Tree digests (R418). -/

/-- The leaf nodes of a stream: pieces of 1 MiB, one empty leaf when it is empty (`fuel` at most). -/
def treeLeaves : Nat → List Byte → List (List Byte)
  | 0, _ => []
  | n + 1, bs =>
    sha3_512 (0x00 :: bs.take 0x100000) :: (if bs.length ≤ 0x100000 then [] else treeLeaves n (bs.drop 0x100000))

/-- One level up: nodes in pairs, a lone last node unchanged. -/
def treeUp : List (List Byte) → List (List Byte)
  | a :: b :: t => sha3_512 (0x01 :: (a ++ b)) :: treeUp t
  | l => l

/-- The levels of a tree from its leaves to its root (`fuel` at most). -/
def treeLevels : Nat → List (List Byte) → List (List (List Byte))
  | 0, l => [l]
  | n + 1, l => if l.length ≤ 1 then [l] else l :: treeLevels n (treeUp l)

/-- The digest from the root node. -/
def treeRoot (len : Nat) (levels : List (List (List Byte))) : List Byte :=
  sha3_512 (0x02 :: (natLe 8 len ++ ((levels.getLastD []).headD [])))

/-- The tree over a stream. -/
def streamTree (bs : List Byte) : List (List (List Byte)) :=
  let leaves := treeLeaves (bs.length / 0x100000 + 1) bs
  treeLevels leaves.length leaves

/-- The digest of a stream. -/
def treeDigest (bs : List Byte) : List Byte := treeRoot bs.length (streamTree bs)

end Sys2Proof.Machine
end

