-- ==== Sys2Proof/Config.lean ====
section
/-! DEFINITION. What the spec leaves open and the model keeps free: constants with no body, so that no proof can see
what they are. Each is named in a row of the assumption log. -/

namespace Sys2Proof.Config

/-- A fresh free word for every use: applied to the counter `State.fresh` (log 5). CYCLES of R250, results the spec
calls undefined (R32, R194, R222), and readings the spec gives no value for. -/
opaque freeWord : Nat → BitVec 64

/-- A fresh free byte for every use, as `freeWord` (log 5). -/
opaque freeByte : Nat → BitVec 8

/-- What picks, among the FP32 values within the bound of R319, the one a unit produces: a fixed function of the operation (0
VEXP, 1 VLOG, 2 VRSQRT, 3 VTANH, 4 VSIGM, 5 VSILU, 6 VGELU; plus 8 × the input's format code) and the input bits (log 6). -/
opaque vxeApprox : Nat → BitVec 32 → BitVec 32

/-- The host ends a requester's reads of a 4 KiB page of host memory in a completion error or a timeout (R360; log 65): a virtual
function's number or 16, and the page. -/
opaque hostError : Nat → Nat → Bool

/-- ML-DSA-87 key generation from a 32-byte seed: the public key of 2,592 bytes (FIPS 204, R455; log 7). -/
opaque mldsaPublicKey : List (BitVec 8) → List (BitVec 8)

/-- ML-DSA-87 signature in pure form, 4,627 bytes: seed of the key, context string, message (FIPS 204, R423; log 7). -/
opaque mldsaSign : List (BitVec 8) → List (BitVec 8) → List (BitVec 8) → List (BitVec 8)

/-- ML-DSA-87 verification: public key, context, message, signature (FIPS 204, R450; log 7). -/
opaque mldsaVerify : List (BitVec 8) → List (BitVec 8) → List (BitVec 8) → List (BitVec 8) → Bool

/-- ML-KEM-1024 encapsulation: key and fresh counter to ciphertext of 1,568 bytes and shared secret of 32 (FIPS 203,
R461; log 7). -/
opaque mlkemEncaps : List (BitVec 8) → Nat → List (BitVec 8) × List (BitVec 8)

/-- AES-256-GCM: key, nonce, additional data, plaintext to ciphertext and tag (FIPS 197, SP 800-38D, R462; log 7). -/
opaque gcmSeal : List (BitVec 8) → List (BitVec 8) → List (BitVec 8) → List (BitVec 8) → List (BitVec 8) × List (BitVec 8)

/-- AES-256-GCM opening: key, nonce, additional data, ciphertext, tag to plaintext when the tag is right (R462; log 7). -/
opaque gcmOpen : List (BitVec 8) → List (BitVec 8) → List (BitVec 8) → List (BitVec 8) → List (BitVec 8) →
  Option (List (BitVec 8))

/-- SHA3-512 of Kryver's public key, held by the boot ROM (R450): 64 bytes the spec gives no value for (log 7). -/
opaque kryverKeyHash : List (BitVec 8)

/-- The answer of an MCTP control message or a PLDM base message under DSP0236 and DSP0240, outside the spec
(R458; log 7). -/
opaque mctpAnswer : List (BitVec 8) → List (BitVec 8)

/-- The Read Completion Boundary is 128 bytes, else 64: a bit of the function's Link Control register that no command of the
spec sets (R480). -/
opaque rcb128 : Bool

/-- The framing bit of a lane's block, by its number: the lane-marker pattern, fixed but not given (R99; log 71). -/
opaque laneMarker : Nat → Bool

end Sys2Proof.Config
end

