-- ==== Sys2Proof/Machine/Flags.lean ====
section
/-! DEFINITION. Numbers and the numeric status word (R227 to R247): decoding every format, exact arithmetic, the one rounding
(R234 to R236), block scaling (R230 to R233), and the flags each of them sets. -/

namespace Sys2Proof.Machine

open Sys2Proof

/-! The bits of the numeric status word (R247). -/

abbrev Ns.nan : Word := 1
abbrev Ns.invalid : Word := 2
abbrev Ns.inf : Word := 4
abbrev Ns.sat : Word := 8
abbrev Ns.span : Word := 16

/-- An exact number: (−1)^neg × mag × 2^e, an infinity, or NaN. Zeros keep their sign. -/
inductive FNum where
  | nan
  | inf (neg : Bool)
  | fin (neg : Bool) (mag : Nat) (e : Int)
  deriving DecidableEq, Repr

/-- A number with the flags of the operation that made it. -/
abbrev NumF := FNum × Word

/-- A floating-point format (R227). `special`: 0 the top exponent holds infinity and NaN, 1 only fraction all ones is NaN
(E4M3), 2 every encoding is finite. -/
structure FloatFmt where
  ebits : Nat
  fbits : Nat
  bias : Nat
  special : Nat
  deriving DecidableEq, Repr

def fp32 : FloatFmt := ⟨8, 23, 127, 0⟩
def bf16 : FloatFmt := ⟨8, 7, 127, 0⟩
def fp16 : FloatFmt := ⟨5, 10, 15, 0⟩
def w48 : FloatFmt := ⟨11, 36, 1023, 0⟩
def e5m2 : FloatFmt := ⟨5, 2, 15, 0⟩
def e4m3 : FloatFmt := ⟨4, 3, 7, 1⟩
def e3m2 : FloatFmt := ⟨3, 2, 3, 2⟩
def e2m3 : FloatFmt := ⟨2, 3, 1, 2⟩
def e2m1 : FloatFmt := ⟨2, 1, 1, 2⟩

/-- Bits of an element. -/
def FloatFmt.width (f : FloatFmt) : Nat := 1 + f.ebits + f.fbits

/-- Magnitude bits of infinity, where there is one. -/
def FloatFmt.infCode (f : FloatFmt) : Nat := (2 ^ f.ebits - 1) * 2 ^ f.fbits

/-- Magnitude bits of the largest finite value. -/
def FloatFmt.maxCode (f : FloatFmt) : Nat :=
  match f.special with
  | 0 => f.infCode - 1
  | 1 => 2 ^ (f.ebits + f.fbits) - 2
  | _ => 2 ^ (f.ebits + f.fbits) - 1

/-- The canonical NaN (R228). -/
def FloatFmt.nanCode (f : FloatFmt) : Nat :=
  if f.special = 1 then 2 ^ (f.ebits + f.fbits) - 1 else f.infCode + 2 ^ (f.fbits - 1)

/-- The value of an encoding (R227). -/
def FloatFmt.decode (f : FloatFmt) (b : Nat) : FNum :=
  let neg := b.testBit (f.ebits + f.fbits)
  let ex := b / 2 ^ f.fbits % 2 ^ f.ebits
  let fr := b % 2 ^ f.fbits
  if f.special = 0 ∧ ex = 2 ^ f.ebits - 1 then (if fr = 0 then .inf neg else .nan)
  else if f.special = 1 ∧ ex = 2 ^ f.ebits - 1 ∧ fr = 2 ^ f.fbits - 1 then .nan
  else if ex = 0 then .fin neg fr (1 - (f.bias : Int) - f.fbits)
  else .fin neg (2 ^ f.fbits + fr) ((ex : Int) - f.bias - f.fbits)

/-- ⌊log₂⌋ of a non-zero magnitude. -/
def magExp (mag : Nat) (e : Int) : Int := (Nat.log2 mag : Int) + e

/-! Rounding (R234, R235). -/

/-- The function of R235: the draw for a seed and a destination bit address. -/
def srDraw (seed : Word) (bitaddr : Nat) : Nat :=
  let h := seed ^^^ (BitVec.ofNat 64 bitaddr * 0x9E3779B97F4A7C15)
  let h := (h ^^^ (h >>> 30)) * 0xBF58476D1CE4E5B9
  let h := (h ^^^ (h >>> 27)) * 0x94D049BB133111EB
  let h := h ^^^ (h >>> 31)
  h.toNat / 2 ^ 32

/-- How to round: the mode (0 RNE, 1 RTZ, 2 stochastic) and the draw. -/
structure Rounding where
  mode : Nat
  draw : Nat := 0
  deriving DecidableEq, Repr

/-- Round to nearest even. -/
def rne : Rounding := ⟨0, 0⟩

/-- mag × 2^k rounded to an integer (R234, R235). -/
def roundInt (r : Rounding) (mag : Nat) (k : Int) : Nat :=
  if 0 ≤ k then mag <<< k.toNat
  else
    let d := (-k).toNat
    let n := mag >>> d
    let rem := mag % 2 ^ d
    match r.mode with
    | 1 => n
    | 2 => if r.draw < rem * 2 ^ 32 / 2 ^ d then n + 1 else n
    | _ => if 2 ^ d < 2 * rem ∨ (2 * rem = 2 ^ d ∧ n % 2 = 1) then n + 1 else n

/-- mag × 2^e is less than nmag × 2^k. -/
def magLt (mag : Nat) (e : Int) (nmag : Nat) (k : Int) : Bool :=
  let q := min e k
  decide (mag <<< (e - q).toNat < nmag <<< (k - q).toNat)

/-- A magnitude lies beyond the largest finite value of a format (R236). -/
def FloatFmt.beyond (f : FloatFmt) (mag : Nat) (e : Int) : Bool :=
  match f.decode f.maxCode with
  | .fin _ m k => magLt m k mag e
  | _ => false

/-- A value beyond the largest finite one is held there: 8-bit and narrower elements, and RTZ (R236). -/
def FloatFmt.holds (f : FloatFmt) (r : Rounding) : Bool := decide (f.special ≠ 0 ∨ f.width = 8 ∨ r.mode = 1)

/-- Round a number into a float format: the encoding and the flags it sets (R233 step 1, R236, R238). -/
def FloatFmt.round (f : FloatFmt) (r : Rounding) (v : FNum) : Nat × Word :=
  let sg := fun (neg : Bool) => if neg then 2 ^ (f.ebits + f.fbits) else 0
  match v with
  | .nan => (f.nanCode, Ns.nan)
  | .inf neg =>
    if f.special = 0 then (sg neg + f.infCode, 0)
    else if f.special = 1 then (f.nanCode, Ns.nan)
    else (sg neg + f.maxCode, Ns.sat)
  | .fin neg mag e =>
    if mag = 0 then (sg neg, 0)
    else if f.holds r && f.beyond mag e then (sg neg + f.maxCode, Ns.sat)
    else
      let emin : Int := 1 - (f.bias : Int)
      let q := max (magExp mag e) emin - f.fbits
      let n := roundInt r mag (e - q)
      let code := ((q + f.fbits + f.bias) * (2 ^ f.fbits : Nat) + n - (2 ^ f.fbits : Nat)).toNat
      if code ≤ f.maxCode then (sg neg + code, 0) else (sg neg + f.infCode, Ns.inf)

/-- The FP32 value nearest to a number, as a number. -/
def toF32 (v : FNum) : FNum := fp32.decode (fp32.round rne v).1

/-- An integer element of `w` bits worth n × 2^−fr, rounded and held inside ±(2^(w−1) − 1) (R229, R233, R236). -/
def intRound (w fr : Nat) (r : Rounding) (neg : Bool) (mag : Nat) (e : Int) : Nat × Word :=
  let top := 2 ^ (w - 1) - 1
  let (m, fl) := if magLt top 0 mag (e + fr) then (top, Ns.sat) else (roundInt r mag (e + fr), 0)
  (if neg ∧ m ≠ 0 then 2 ^ w - m else m, fl)

/-! Elements by format code (R301). -/

/-- What a format code holds. -/
inductive Elem where
  | float (f : FloatFmt)
  | int (w fr : Nat)
  | raw (w : Nat)
  deriving DecidableEq, Repr

/-- The element of a format code; codes not listed are reserved and refused before this is used. -/
def elemOf (code : Nat) : Elem :=
  match code with
  | 0x01 => .float fp32
  | 0x02 => .float bf16
  | 0x03 => .float fp16
  | 0x08 => .float e4m3
  | 0x09 => .float e5m2
  | 0x0A => .float e2m3
  | 0x0B => .float e3m2
  | 0x0C => .float e2m1
  | 0x0D => .int 8 6
  | 0x0E => .int 4 2
  | 0x11 => .raw 16
  | _ => .raw 32

/-- emax of a block format (R233). -/
def emaxOf (code : Nat) : Int :=
  match code with
  | 0x08 => 8 | 0x09 => 15 | 0x0A => 2 | 0x0B => 4 | 0x0C => 2 | _ => 0

/-- The value of an element before its block scale (R227, R229). -/
def Elem.decode (el : Elem) (b : Nat) : FNum :=
  match el with
  | .float f => f.decode b
  | .int w fr =>
    if b < 2 ^ (w - 1) then .fin false b (-(fr : Int)) else .fin true (2 ^ w - b) (-(fr : Int))
  | .raw _ => .fin false b 0

/-- A number times 2^k. -/
def FNum.scale (k : Int) : FNum → FNum
  | .fin n m e => .fin n m (e + k)
  | v => v

/-- An element under its block scale: exact, NaN under scale 0xFF (R230, R232). -/
def blockDecode (code b scale : Nat) : FNum :=
  if scale = 0xFF then .nan else ((elemOf code).decode b).scale ((scale : Int) - 127)

/-- A decoded block value taken to FP32: beyond its range it is an infinity, with INF (R232; log 14). -/
def clampF32 (v : FNum) : NumF :=
  match v with
  | .fin n m e => if m ≠ 0 ∧ 128 ≤ magExp m e then (.inf n, Ns.inf) else (v, 0)
  | _ => (v, 0)

/-- An encoding is a zero of either sign (R326). -/
def isZeroCode (code b : Nat) : Bool :=
  match (elemOf code).decode b with
  | .fin _ m _ => decide (m = 0)
  | _ => false

/-- An encoding is a NaN (R227). -/
def isNanCode (code b : Nat) : Bool := decide ((elemOf code).decode b = .nan)

/-- The canonical NaN in place of any NaN; anything else as it stands (R228). -/
def canonBits (code b : Nat) : Nat :=
  match elemOf code with
  | .float f => if f.decode b = .nan then f.nanCode else b
  | _ => b

/-- Round a number into an element; `e` scales it by 2^−e first (R233 step 4, R236). -/
def Elem.encode (el : Elem) (r : Rounding) (e : Int) (v : FNum) : Nat × Word :=
  match el, v.scale (-e) with
  | .float f, u => f.round r u
  | .int w fr, .fin n m k => intRound w fr r n m k
  | _, _ => (0, 0)

/-- ⌊log₂⌋ of the largest finite magnitude among values; none when all are zero or none is finite. -/
def maxExp (vs : List FNum) : Option Int :=
  vs.foldl (fun acc v => match v with
    | .fin _ m e => if m = 0 then acc else
      (match acc with | none => some (magExp m e) | some a => some (max a (magExp m e)))
    | _ => acc) none

/-- The value is NaN or an infinity. -/
def FNum.special : FNum → Bool
  | .fin _ _ _ => false
  | _ => true

/-- The scale byte and exponent for a block of values (R233 steps 1 to 3): none when the block is all NaN. -/
def blockScale (code : Nat) (vs : List FNum) : Option (Nat × Int) :=
  if code ≠ 0x08 ∧ code ≠ 0x09 ∧ vs.any FNum.special then none
  else match maxExp vs with
    | none => some (0, -127)
    | some a =>
      let e := max (-127) (min 127 (a - emaxOf code))
      some ((e + 127).toNat, e)

/-! Arithmetic (R237). -/

/-- A number from an exact integer times 2^e, zero being +0. -/
def numOfInt (n : Int) (e : Int) : FNum := .fin (decide (n < 0)) n.natAbs e

/-- The exact integer a magnitude is, in units of 2^q with q at most e. -/
def signedAt (neg : Bool) (mag : Nat) (e q : Int) : Int :=
  let m : Int := (mag <<< (e - q).toNat : Nat)
  if neg then -m else m

/-- The sum. -/
def numAdd (a b : FNum) : NumF :=
  match a, b with
  | .nan, _ => (.nan, 0)
  | _, .nan => (.nan, 0)
  | .inf x, .inf y => if x = y then (.inf x, 0) else (.nan, Ns.invalid)
  | .inf x, _ => (.inf x, 0)
  | _, .inf y => (.inf y, 0)
  | .fin x m e, .fin y n k =>
    if m = 0 ∧ n = 0 then (.fin (x && y) 0 0, 0)
    else
      let q := min e k
      (numOfInt (signedAt x m e q + signedAt y n k q) q, 0)

/-- The negation; NaN stays NaN. -/
def numNeg : FNum → FNum
  | .nan => .nan
  | .inf x => .inf (! x)
  | .fin x m e => .fin (! x) m e

/-- The magnitude; NaN stays NaN. -/
def numAbs : FNum → FNum
  | .nan => .nan
  | .inf _ => .inf false
  | .fin _ m e => .fin false m e

/-- The product. -/
def numMul (a b : FNum) : NumF :=
  match a, b with
  | .nan, _ => (.nan, 0)
  | _, .nan => (.nan, 0)
  | .inf x, .inf y => (.inf (xor x y), 0)
  | .inf x, .fin y n _ => if n = 0 then (.nan, Ns.invalid) else (.inf (xor x y), 0)
  | .fin x m _, .inf y => if m = 0 then (.nan, Ns.invalid) else (.inf (xor x y), 0)
  | .fin x m e, .fin y n k => (.fin (xor x y) (m * n) (e + k), 0)

/-- a + b × c, exact. -/
def numFma (a b c : FNum) : NumF :=
  let (p, f) := numMul b c
  let (t, g) := numAdd a p
  (t, if a = .nan then 0 else f ||| g)

/-- A quotient or root to at least 120 bits with everything below folded into one lowest bit, so that one rounding of it is the
rounding of the exact value. -/
def withSticky (neg : Bool) (q : Nat) (inexact : Bool) (e : Int) : FNum := .fin neg (2 * q + (if inexact then 1 else 0)) (e - 1)

/-- The quotient (R237, R318). -/
def numDiv (a b : FNum) : NumF :=
  match a, b with
  | .nan, _ => (.nan, 0)
  | _, .nan => (.nan, 0)
  | .inf _, .inf _ => (.nan, Ns.invalid)
  | .inf x, .fin y _ _ => (.inf (xor x y), 0)
  | .fin x _ _, .inf y => (.fin (xor x y) 0 0, 0)
  | .fin x m e, .fin y n k =>
    if n = 0 then (if m = 0 then (.nan, Ns.invalid) else (.inf (xor x y), Ns.inf))
    else if m = 0 then (.fin (xor x y) 0 0, 0)
    else
      let sh := 160 + Nat.log2 n
      let w := m <<< sh
      (withSticky (xor x y) (w / n) (decide (w % n ≠ 0)) (e - k - sh), 0)

/-- The integer square root, one bit at a time from bit `i` − 1. -/
def isqrtFrom : Nat → Nat → Nat → Nat
  | 0, r, _ => r
  | i + 1, r, n => if (r + 2 ^ i) * (r + 2 ^ i) ≤ n then isqrtFrom i (r + 2 ^ i) n else isqrtFrom i r n

/-- ⌊√n⌋. -/
def isqrt (n : Nat) : Nat := isqrtFrom (Nat.log2 n / 2 + 1) 0 n

/-- The square root of a positive magnitude, as `withSticky` gives it. -/
def magSqrt (m : Nat) (e : Int) : FNum :=
  let sh := 320 + (if (e - 320) % 2 = 0 then 0 else 1)
  let w := m <<< sh
  let r := isqrt w
  withSticky false r (decide (r * r ≠ w)) ((e - sh) / 2)

/-- The square root (R237, R318). -/
def numSqrt : FNum → NumF
  | .nan => (.nan, 0)
  | .inf x => if x then (.nan, Ns.invalid) else (.inf false, 0)
  | .fin x m e => if m = 0 then (.fin x 0 0, 0) else if x then (.nan, Ns.invalid) else (magSqrt m e, 0)

/-- a is less than b for numbers that are not NaN; −0 is less than +0 (R237). -/
def numLt (a b : FNum) : Bool :=
  match a, b with
  | .nan, _ => false
  | _, .nan => false
  | .inf x, .inf y => x && ! y
  | .inf x, _ => x
  | _, .inf y => ! y
  | .fin x m e, .fin y n k =>
    if m = 0 ∧ n = 0 then x && ! y
    else
      let q := min e k
      decide (signedAt x m e q < signedAt y n k q)

/-- The maximum (R237). -/
def numMax (a b : FNum) : FNum := if a = .nan ∨ b = .nan then .nan else if numLt a b then b else a

/-- The minimum (R237). -/
def numMin (a b : FNum) : FNum := if a = .nan ∨ b = .nan then .nan else if numLt b a then b else a

/-- An FP32 addition rounded to nearest even (R320). -/
def f32Add (a b : FNum) : NumF :=
  let (t, f) := numAdd a b
  let (c, g) := fp32.round rne t
  (fp32.decode c, f ||| (g &&& Ns.inf))

/-! The accumulator (R239 to R245). -/

/-- Add an exact product to a point (R239 to R242). -/
def AccPoint.addProduct (p : AccPoint) (neg : Bool) (mag : Nat) (e : Int) : AccPoint :=
  if mag = 0 then p
  else
    let top := magExp mag e
    let m := match p.m with | none => top | some m => max m top
    let rise := match p.m with | none => 0 | some old => (m - old).toNat
    let lost := decide (p.win.toNat % 2 ^ rise ≠ 0)
    let win := p.win.sshiftRight rise
    let b := m - 166
    let sh := e - b
    let lowBits := decide (sh < 0) && decide (mag % 2 ^ (-sh).toNat ≠ 0)
    let v : Int := if 0 ≤ sh then (mag <<< sh.toNat : Nat) else mag
    let v := if neg then -v else v
    let v := if 0 ≤ sh then v else v / (2 ^ (-sh).toNat : Nat)
    { p with win := win + BitVec.ofInt 192 v, m := some m, sticky := p.sticky || lost || lowBits }

/-- Add the product of two operand values to a point; the flags of the instruction (R244). -/
def AccPoint.mac (p : AccPoint) (a b : FNum) : AccPoint × Word :=
  match numMul a b with
  | (.nan, f) => ({ p with nan := true }, f)
  | (.inf neg, _) => (if neg then { p with negInf := true } else { p with posInf := true }, 0)
  | (.fin neg m e, _) => (p.addProduct neg m e, 0)

/-- The value a point writes, before its rounding, and the flags of R237 (R244, R245). -/
def AccPoint.value (p : AccPoint) : NumF :=
  if p.nan then (.nan, 0)
  else if p.posInf && p.negInf then (.nan, Ns.invalid)
  else if p.posInf then (.inf false, 0)
  else if p.negInf then (.inf true, 0)
  else match p.m with
    | none => (.fin false 0 0, 0)
    | some m =>
      let w := p.win.toInt
      if p.sticky then (numOfInt (2 * w + 1) (m - 167), 0) else (numOfInt w (m - 166), 0)

end Sys2Proof.Machine
end

