-- ==== Sys2Proof/Machine/Approx.lean ====
section
/-! DEFINITION. The functions of R319 and the exponential of R34, evaluated in fixed point to about 2^−240 of the result, and
the choice of a VXE result within its bound (log 6). -/

namespace Sys2Proof.Machine

open Sys2Proof

/-- Fraction bits of the fixed-point values. -/
abbrev fxBits : Nat := 400

/-- One. -/
def fxOne : Int := 2 ^ fxBits

/-- The product of two fixed-point values. -/
def fxMul (a b : Int) : Int := a * b / fxOne

/-- A finite number in fixed point, rounded down. -/
def fxOf : FNum → Int
  | .fin n m e =>
    let k := e + fxBits
    let v : Int := if 0 ≤ k then (m <<< k.toNat : Nat) else (m >>> (-k).toNat : Nat)
    if n then -v else v
  | _ => 0

/-- A fixed-point value as a number. -/
def ofFx (v : Int) : FNum := numOfInt v (-(fxBits : Int))

/-- Σ z^(2n+1) / (2n+1) over `n` terms from term `i`, `p` being z^(2i+1) and `q` being z². -/
def oddSeries (q : Int) : Nat → Nat → Int → Int → Int
  | 0, _, _, acc => acc
  | n + 1, i, p, acc => oddSeries q n (i + 1) (fxMul p q) (acc + p / (2 * i + 1 : Nat))

/-- artanh z for |z| ≤ 1/3. -/
def fxAtanh (z : Int) : Int := oddSeries (fxMul z z) 150 0 z 0

/-- ln 2 = 2 artanh (1/3). -/
def fxLn2 : Int := 2 * fxAtanh (fxOne / 3)

/-- arctan (1 / n). -/
def fxAtanInv (n : Nat) : Int := oddSeries (-(fxOne / (n * n : Nat))) 200 0 (fxOne / (n : Int)) 0

/-- π, by Machin's formula. -/
def fxPi : Int := 16 * fxAtanInv 5 - 4 * fxAtanInv 239

/-- Σ r^i / i! over `n` terms from term `i`, `p` being r^i / i!. -/
def expSeries (r : Int) : Nat → Nat → Int → Int → Int
  | 0, _, _, acc => acc
  | n + 1, i, p, acc => expSeries r n (i + 1) (fxMul p r / (i + 1 : Nat)) (acc + p)

/-- e^x for a fixed-point x: a mantissa from 1 to 2 and a power of two. -/
def expFix (x : Int) : FNum :=
  if 300 * fxOne < x then .fin false 1 400
  else if x < -300 * fxOne then .fin false 1 (-430)
  else
    let k := x / fxLn2
    numOfInt (expSeries (x - k * fxLn2) 95 0 fxOne 0) (k - fxBits)

/-- e^x. -/
def numExp (x : FNum) : FNum := expFix (fxOf x)

/-- ln of a positive magnitude. -/
def magLn (m : Nat) (e : Int) : FNum :=
  let t := Nat.log2 m
  let up := decide (3 * 2 ^ t ≤ 2 * m)
  let d : Int := (2 ^ (if up then t + 1 else t) : Nat)
  let z := ((m : Int) - d) * fxOne / ((m : Int) + d)
  ofFx ((e + t + (if up then 1 else 0)) * fxLn2 + 2 * fxAtanh z)

/-- 1 / √x of a positive magnitude. -/
def magRsqrt (m : Nat) (e : Int) : FNum := (numDiv (.fin false 1 0) (magSqrt m e)).1

/-- The logistic function of a fixed-point x. -/
def fxSigm (x : Int) : Int :=
  if x < 0 then
    let t := fxOf (expFix x)
    t * fxOne / (fxOne + t)
  else fxOne * fxOne / (fxOne + fxOf (expFix (-x)))

/-- tanh of a fixed-point x. -/
def fxTanh (x : Int) : Int :=
  let t := fxOf (expFix (-2 * (x.natAbs : Int)))
  let v := (fxOne - t) * fxOne / (fxOne + t)
  if x < 0 then -v else v

/-- Σ x^(2n+1) / (1·3·…·(2n+1)) over `n` terms from term `i`, `p` being that term. -/
def phiSeries (q : Int) : Nat → Nat → Int → Int → Int
  | 0, _, _, acc => acc
  | n + 1, i, p, acc => phiSeries q n (i + 1) (fxMul p q / (2 * i + 3 : Nat)) (acc + p)

/-- Φ of a fixed-point x; beyond 16 either way it is 0 or 1 to within 2^−180. -/
def fxPhi (x : Int) : Int :=
  if 16 * fxOne ≤ x then fxOne - 1
  else if x ≤ -16 * fxOne then 1
  else
    let q := fxMul x x
    let root : Int := (isqrt (2 * fxPi * fxOne).toNat : Nat)
    let dens := fxOf (expFix (-(q / 2))) * fxOne / root
    fxOne / 2 + fxMul dens (phiSeries q 700 0 x 0)

/-- The exact function of R319 for a finite non-special input, to about 2^−240; `op` as in Config.vxeApprox. -/
def vxeExact (op : Nat) (x : FNum) : FNum :=
  match op, x with
  | 0, _ => numExp x
  | 1, .fin _ m e => magLn m e
  | 2, .fin _ m e => magRsqrt m e
  | 3, _ => ofFx (fxTanh (fxOf x))
  | 4, _ => ofFx (fxSigm (fxOf x))
  | 5, _ => (numMul x (ofFx (fxSigm (fxOf x)))).1
  | _, _ => (numMul x (ofFx (fxPhi (fxOf x)))).1

/-- The place of the largest FP32 value not above a number, counting values from 0 upwards and downwards. -/
def floorIdx (v : FNum) : Int :=
  match v with
  | .fin n m e =>
    let big := decide (m ≠ 0) && decide (128 ≤ magExp m e)
    let c := if big then fp32.infCode else (fp32.round ⟨1, 0⟩ (.fin false m e)).1
    let exact := big || ! numLt (fp32.decode c) (.fin false m e)
    if n then -(c : Int) - (if exact then 0 else 1) else c
  | _ => 0

/-- The FP32 encoding at a place. -/
def ofIdx (i : Int) (negZero : Bool) : Nat :=
  if i < 0 ∨ (i = 0 ∧ negZero) then 2 ^ 31 + i.natAbs else i.natAbs

/-- The bound of R319: `ulps` units in the last place of the exact value, or 2^−126 where that is larger. -/
def vxeBound (ulps : Nat) : FNum → FNum
  | .fin _ m e => .fin false ulps (if m = 0 then -149 else max (magExp m e) (-126) - 23)
  | v => v

/-- The FP32 value a unit produces for a finite non-special input: one within the bound, chosen by the free function (log 6). -/
def vxePick (op ulps key : Nat) (bits : BitVec 32) (x : FNum) : NumF :=
  let y := vxeExact op x
  match y with
  | .fin n m e =>
    if ! n ∧ m ≠ 0 ∧ 128 ≤ magExp m e then (.inf false, Ns.inf)
    else
      let b := numMax (vxeBound ulps y) (.fin false 1 (-126))
      let hi := floorIdx (numAdd y b).1
      let lo := -(floorIdx (numNeg (numAdd y (numNeg b)).1))
      let w := (Config.vxeApprox key bits).toNat
      let i := lo + (w % (hi - lo + 1).toNat : Nat)
      let q := fp32.decode (ofIdx i (w.testBit 31))
      (q, if q = .inf false then Ns.inf else 0)
  | _ => (y, 0)

/-- The functions of R319 with their special inputs. -/
def vxeFn (op key : Nat) (bits : BitVec 32) (x : FNum) : NumF :=
  let one : FNum := .fin false 1 0
  let zero : FNum := .fin false 0 0
  match x with
  | .nan => (.nan, 0)
  | .inf n =>
    match op with
    | 0 => (if n then zero else .inf false, 0)
    | 1 => if n then (.nan, Ns.invalid) else (.inf false, 0)
    | 2 => if n then (.nan, Ns.invalid) else (zero, 0)
    | 3 => (.fin n 1 0, 0)
    | 4 => (if n then zero else one, 0)
    | _ => (if n then .fin true 0 0 else .inf false, 0)
  | .fin n m _ =>
    if m = 0 then
      match op with
      | 0 => vxePick 0 1 key bits x
      | 1 => (.inf true, Ns.inf)
      | 2 => (.inf n, Ns.inf)
      | 4 => vxePick 4 2 key bits x
      | _ => (.fin n 0 0, 0)
    else if n ∧ (op = 1 ∨ op = 2) then (.nan, Ns.invalid)
    else vxePick op (if op < 3 then 1 else 2) key bits x

/-- e^x correctly rounded into FP32 to nearest even, with the special values of R35 and R237 (R34). -/
def f32Exp (x : FNum) : FNum :=
  match x with
  | .nan => .nan
  | .inf n => if n then .fin false 0 0 else .inf false
  | .fin _ m _ => if m = 0 then .fin false 1 0 else toF32 (numExp x)

end Sys2Proof.Machine
end

