-- ==== Sys2Proof/Machine/Regs.lean ====
section
/-! DEFINITION. The BAR0 registers (R7 to R11): the register tables of every chapter, one name for each register and each
field, and the accessors. A register file word lists only registers that differ from their reset value. -/

namespace Sys2Proof.Machine

open Sys2Proof

/-- The field types of R9. -/
inductive FieldType where
  | ro | rw | w1c | wo | rsv
  deriving DecidableEq, Repr

/-- A register field: bits, type, reset value. -/
structure RegField where
  hi : Nat
  lo : Nat
  ty : FieldType
  reset : Nat
  deriving DecidableEq, Repr

/-- A register: BAR0 offset of its first, stride and count of each index, fields. -/
structure RegDesc where
  base : Nat
  dims : List (Nat × Nat)
  fields : List RegField
  deriving DecidableEq, Repr

/-- The registers, by the names of the manual. -/
inductive Reg where
  | RTE_STATUS
  | RTE_RECORDS
  | RTE_ROUTES
  | RTE_NAN
  | RTE_NAN_RECORDS
  | RTE_SHORT_TOKENS
  | RTE_SLICE_LOADS
  | RTE_FAULT
  | RTE_PT_ACTIVE
  | RTE_PT_COMMITS
  | RTE_PT_REGION
  | XE_STATUS
  | XE_ACTIVE
  | XE_TIMEOUT
  | XE_FAULT
  | XE_RX_ROWS
  | XE_DECL_CAP
  | XE_DECL_POOL
  | XE_RX_DISCARDED
  | XE_RET_DISCARDED
  | XE_CELL_DISCARDED
  | XE_LINE_BYTES
  | XE_ADAPT_BYTES
  | XE_POISON_ROWS
  | XE_CANCELS
  | XE_LEDGER_DISPATCHED
  | XE_LEDGER_COMBINED
  | XE_LEDGER_DECLINED
  | XE_LEDGER_CANCELLED
  | XE_LEDGER_INFLIGHT
  | LNK_CTRL
  | LNK_STATUS
  | LNK_NEIGHBOUR
  | LNK_RETRY
  | LNK_FEC_CORR
  | LNK_FEC_UNCORR
  | LNK_FLIT_BAD
  | LNK_REPLAYS
  | LNK_DOWN_EVENTS
  | LNK_E2E
  | LNK_PKT_MALFORMED
  | LNK_DOWN_DISCARDS
  | LNK_VC_STATE
  | LNK_VC_USED
  | LNK_VC_RETURNED
  | LNK_VC_FREED
  | LNK_LANE
  | SW_GEOMETRY
  | SW_PATH_EPOCH
  | SW_MSG_CTRL
  | SW_RING_MAP
  | SW_E2E_QUERY
  | SW_RANKMAP_BANKS
  | SW_PLAN_BANK
  | SW_PLAN_PENDING
  | SW_RANKMAP
  | SW_CONG
  | SW_MSG_STARTED
  | SW_MSG_ACKED
  | SW_MSG_FAILED
  | SW_MSG_OUTSTANDING
  | SW_MSG_RESENDS
  | SW_MSG_ABANDONED
  | SW_STALE_DISCARDS
  | SW_PATH_DISCARDS
  | SW_LINE_DISCARDS
  | SW_JOB_DISCARDS
  | SW_MSG_REFUSED
  | SW_CTRL
  | SW_STATUS
  | SW_FWD_MODE
  | SW_OUTBUF
  | SW_DELIVERY_DISCARDS
  | SW_MCAST_DISCARDS
  | SW_MCAST_COPIES
  | SW_CT_PACKETS
  | SW_SAF_PACKETS
  | SW_MIRROR_CTRL
  | SW_MIRROR_MATCH
  | SW_MIRROR_MASK
  | SW_MIRROR_COUNTS
  | SW_MCAST
  | COL_CHAN_CTRL
  | COL_CHAN_STATUS
  | COL_CHAN_COUNTS
  | COL_CHAN_PITCHES
  | COL_CHAN_NAN
  | COL_CHAN_NAN_ORIGIN
  | COL_CHAN_NAMED
  | COL_CHAN_DISCARDS
  | COL_ADD_STATUS
  | COL_ADD_RX_BYTES
  | COL_ADD_TX_BYTES
  | COL_ADD_NAN_ORIGINS
  | COL_ADD_POISON
  | MEM_STATUS
  | MEM_ECC
  | MEM_CE_LOG
  | MEM_SCRUB
  | MEM_SYSTEM
  | MEM_PAGE_CMD
  | MEM_PAGE_RESULT
  | MEM_QUOTA
  | MEM_PF_CTRL
  | MEM_PF_COUNTS
  | MEM_LEND_CTRL
  | MEM_LEND_RANGE
  | MEM_LEND_COUNTS
  | BPM_POOL_CFG
  | BPM_POOL_BASE
  | BPM_POOL_RING
  | BPM_POOL_STATE
  | BPM_POOL_ALLOCS
  | BPM_POOL_FREES
  | BPM_POOL_FAILS
  | BPM_POOL_LOST
  | BPM_REQ
  | BPM_RESULT
  | BPM_FAULT
  | CMD_Q_CFG
  | CMD_Q_MIRROR
  | CMD_Q_STATUS
  | CMD_ROPE_STATE
  | CMD_ROPE_CLUSTERS
  | CMD_CLIENT
  | CMD_COMPOSER
  | CMD_COMPOSER_STEP
  | AUD_SEAL_REQ
  | AUD_SEAL_STATUS
  | AUD_CAIRN_SEQ
  | AUD_BYTES
  | AUD_LS_CTRL
  | AUD_LS_EXTENTS
  | AUD_LS_TREE
  | AUD_LS_OUTBOX
  | AUD_LS_STATUS
  | AUD_LS_DIFF
  | AUD_LS_INBOX
  | BC_CTRL
  | BC_STATE
  | BC_POWER_LIMIT
  | BC_POWER
  | BC_THROTTLE
  | BC_THERMAL
  | BC_IDLE
  | BC_CLUSTER
  | ID_IDENT
  | ID_VUOLA
  | ID_CLUSTERS
  | ID_CORES
  | ID_ATT_KEYHASH
  | BC_BOOT
  | BC_QUOTE_REQ
  | BC_QUOTE_STATUS
  | BC_MGMT
  | BC_TIME
  | BC_TIME_CTRL
  | BC_TIME_STATUS
  | ERR_RING_BASE
  | ERR_RING_CFG
  | ERR_RING_HEAD
  | ERR_RING_TAIL
  | ERR_RING_LOST
  | ERR_POLICY
  | ERR_RESET
  | ERR_RESET_STATUS
  | ERR_BELAY_QUERY
  | ERR_BELAY_VALUE
  | ERR_BELAY_SIGNALS
  | ERR_CLASS_COUNT
  | ID_HOST_LINK
  | ID_ADDR
  | BC_BAR4_WINDOW
  deriving DecidableEq, Repr

/-- The register tables, grouped by chapter. -/
def regDesc : Reg → RegDesc
  | .RTE_STATUS => ⟨0x300000, [(65536, 8)], [⟨21, 16, .ro, 0⟩, ⟨15, 8, .ro, 0⟩, ⟨5, 5, .ro, 0⟩, ⟨4, 1, .ro, 0⟩,
      ⟨0, 0, .ro, 0⟩]⟩
  | .RTE_RECORDS => ⟨0x300008, [(65536, 8)], [⟨63, 0, .ro, 0⟩]⟩
  | .RTE_ROUTES => ⟨0x300010, [(65536, 8)], [⟨63, 32, .ro, 0⟩, ⟨31, 0, .ro, 0⟩]⟩
  | .RTE_NAN => ⟨0x300018, [(65536, 8)], [⟨63, 63, .w1c, 0⟩, ⟨35, 32, .ro, 0⟩, ⟨31, 0, .ro, 0⟩]⟩
  | .RTE_NAN_RECORDS => ⟨0x300020, [(65536, 8)], [⟨63, 0, .ro, 0⟩]⟩
  | .RTE_SHORT_TOKENS => ⟨0x300028, [(65536, 8)], [⟨63, 0, .ro, 0⟩]⟩
  | .RTE_SLICE_LOADS => ⟨0x300030, [(65536, 8)], [⟨63, 0, .ro, 0⟩]⟩
  | .RTE_FAULT => ⟨0x300038, [(65536, 8)], [⟨63, 63, .w1c, 0⟩, ⟨51, 48, .ro, 0⟩, ⟨47, 40, .ro, 0⟩, ⟨31, 0, .ro, 0⟩]⟩
  | .RTE_PT_ACTIVE => ⟨0x380000, [], [⟨31, 16, .ro, 0⟩, ⟨15, 0, .ro, 0⟩]⟩
  | .RTE_PT_COMMITS => ⟨0x380008, [], [⟨63, 0, .ro, 0⟩]⟩
  | .RTE_PT_REGION => ⟨0x380100, [(8, 16)], [⟨50, 32, .ro, 0⟩, ⟨17, 0, .ro, 0⟩]⟩
  | .XE_STATUS => ⟨0x400000, [(65536, 8)], [⟨28, 16, .ro, 0⟩, ⟨15, 8, .ro, 0⟩, ⟨7, 2, .ro, 0⟩, ⟨0, 0, .ro, 0⟩]⟩
  | .XE_ACTIVE => ⟨0x400008, [(65536, 8)], [⟨63, 0, .ro, 0⟩]⟩
  | .XE_TIMEOUT => ⟨0x400010, [(65536, 8)], [⟨23, 0, .rw, 100000⟩]⟩
  | .XE_FAULT => ⟨0x400018, [(65536, 8)], [⟨63, 63, .w1c, 0⟩, ⟨51, 48, .ro, 0⟩, ⟨47, 40, .ro, 0⟩, ⟨31, 0, .ro, 0⟩]⟩
  | .XE_RX_ROWS => ⟨0x400100, [(65536, 8)], [⟨63, 0, .ro, 0⟩]⟩
  | .XE_DECL_CAP => ⟨0x400108, [(65536, 8)], [⟨63, 0, .ro, 0⟩]⟩
  | .XE_DECL_POOL => ⟨0x400110, [(65536, 8)], [⟨63, 0, .ro, 0⟩]⟩
  | .XE_RX_DISCARDED => ⟨0x400118, [(65536, 8)], [⟨63, 0, .ro, 0⟩]⟩
  | .XE_RET_DISCARDED => ⟨0x400120, [(65536, 8)], [⟨63, 0, .ro, 0⟩]⟩
  | .XE_CELL_DISCARDED => ⟨0x400128, [(65536, 8)], [⟨63, 0, .ro, 0⟩]⟩
  | .XE_LINE_BYTES => ⟨0x400130, [(65536, 8)], [⟨63, 0, .ro, 0⟩]⟩
  | .XE_ADAPT_BYTES => ⟨0x400138, [(65536, 8)], [⟨63, 0, .ro, 0⟩]⟩
  | .XE_POISON_ROWS => ⟨0x400140, [(65536, 8)], [⟨63, 0, .ro, 0⟩]⟩
  | .XE_CANCELS => ⟨0x400148, [(65536, 8)], [⟨63, 0, .ro, 0⟩]⟩
  | .XE_LEDGER_DISPATCHED => ⟨0x400200, [(65536, 8), (64, 16)], [⟨63, 0, .ro, 0⟩]⟩
  | .XE_LEDGER_COMBINED => ⟨0x400208, [(65536, 8), (64, 16)], [⟨63, 0, .ro, 0⟩]⟩
  | .XE_LEDGER_DECLINED => ⟨0x400210, [(65536, 8), (64, 16)], [⟨63, 0, .ro, 0⟩]⟩
  | .XE_LEDGER_CANCELLED => ⟨0x400218, [(65536, 8), (64, 16)], [⟨63, 0, .ro, 0⟩]⟩
  | .XE_LEDGER_INFLIGHT => ⟨0x400220, [(65536, 8), (64, 16)], [⟨63, 0, .ro, 0⟩]⟩
  | .LNK_CTRL => ⟨0x600000, [(65536, 16)], [⟨17, 16, .rw, 0⟩, ⟨10, 8, .rw, 7⟩, ⟨1, 1, .wo, 0⟩, ⟨0, 0, .rw, 1⟩]⟩
  | .LNK_STATUS => ⟨0x600008, [(65536, 16)], [⟨47, 32, .ro, 0⟩, ⟨15, 12, .ro, 0⟩, ⟨9, 8, .ro, 0⟩, ⟨5, 4, .ro, 0⟩,
      ⟨2, 0, .ro, 0⟩]⟩
  | .LNK_NEIGHBOUR => ⟨0x600010, [(65536, 16)], [⟨63, 63, .ro, 0⟩, ⟨35, 32, .ro, 0⟩, ⟨31, 16, .ro, 0⟩,
      ⟨15, 0, .ro, 0⟩]⟩
  | .LNK_RETRY => ⟨0x600018, [(65536, 16)], [⟨37, 32, .rw, 16⟩, ⟨13, 0, .rw, 3000⟩]⟩
  | .LNK_FEC_CORR => ⟨0x600020, [(65536, 16)], [⟨63, 0, .ro, 0⟩]⟩
  | .LNK_FEC_UNCORR => ⟨0x600028, [(65536, 16)], [⟨63, 0, .ro, 0⟩]⟩
  | .LNK_FLIT_BAD => ⟨0x600030, [(65536, 16)], [⟨63, 0, .ro, 0⟩]⟩
  | .LNK_REPLAYS => ⟨0x600038, [(65536, 16)], [⟨63, 0, .ro, 0⟩]⟩
  | .LNK_DOWN_EVENTS => ⟨0x600040, [(65536, 16)], [⟨63, 48, .ro, 0⟩, ⟨47, 32, .ro, 0⟩, ⟨31, 16, .ro, 0⟩,
      ⟨15, 0, .ro, 0⟩]⟩
  | .LNK_E2E => ⟨0x600048, [(65536, 16)], [⟨63, 32, .ro, 0⟩, ⟨31, 0, .ro, 0⟩]⟩
  | .LNK_PKT_MALFORMED => ⟨0x600050, [(65536, 16)], [⟨63, 0, .ro, 0⟩]⟩
  | .LNK_DOWN_DISCARDS => ⟨0x600058, [(65536, 16)], [⟨63, 0, .ro, 0⟩]⟩
  | .LNK_VC_STATE => ⟨0x600100, [(65536, 16), (32, 6)], [⟨44, 32, .ro, 0⟩, ⟨28, 16, .ro, 0⟩, ⟨12, 0, .rw, 0⟩]⟩
  | .LNK_VC_USED => ⟨0x600108, [(65536, 16), (32, 6)], [⟨63, 0, .ro, 0⟩]⟩
  | .LNK_VC_RETURNED => ⟨0x600110, [(65536, 16), (32, 6)], [⟨63, 0, .ro, 0⟩]⟩
  | .LNK_VC_FREED => ⟨0x600118, [(65536, 16), (32, 6)], [⟨63, 0, .ro, 0⟩]⟩
  | .LNK_LANE => ⟨0x600200, [(65536, 16), (8, 4)], [⟨47, 32, .ro, 0⟩, ⟨23, 16, .ro, 0⟩, ⟨1, 1, .ro, 0⟩,
      ⟨0, 0, .ro, 0⟩]⟩
  | .SW_GEOMETRY => ⟨0x704000, [], [⟨63, 63, .rw, 0⟩, ⟨27, 24, .rw, 0⟩, ⟨20, 16, .rw, 0⟩, ⟨12, 8, .rw, 0⟩,
      ⟨4, 0, .rw, 0⟩]⟩
  | .SW_PATH_EPOCH => ⟨0x704008, [], [⟨16, 16, .wo, 0⟩, ⟨15, 0, .ro, 0⟩]⟩
  | .SW_MSG_CTRL => ⟨0x704010, [], [⟨25, 24, .rw, 3⟩, ⟨19, 0, .rw, 1000⟩]⟩
  | .SW_RING_MAP => ⟨0x704018, [], [⟨63, 48, .ro, 0⟩, ⟨47, 32, .ro, 0⟩, ⟨31, 16, .ro, 0⟩, ⟨15, 0, .ro, 0⟩]⟩
  | .SW_E2E_QUERY => ⟨0x704020, [], [⟨25, 25, .wo, 0⟩, ⟨24, 24, .ro, 0⟩, ⟨20, 16, .ro, 16⟩, ⟨15, 0, .rw, 0⟩]⟩
  | .SW_RANKMAP_BANKS => ⟨0x704028, [], [⟨31, 16, .ro, 0⟩, ⟨15, 0, .ro, 0⟩]⟩
  | .SW_PLAN_BANK => ⟨0x704030, [], [⟨63, 0, .ro, 0⟩]⟩
  | .SW_PLAN_PENDING => ⟨0x704038, [], [⟨63, 0, .ro, 0⟩]⟩
  | .SW_RANKMAP => ⟨0x704100, [(8, 16)], [⟨43, 32, .ro, 0⟩, ⟨15, 0, .ro, 0⟩]⟩
  | .SW_CONG => ⟨0x704200, [(8, 16)], [⟨31, 0, .ro, 0⟩]⟩
  | .SW_MSG_STARTED => ⟨0x704300, [], [⟨63, 0, .ro, 0⟩]⟩
  | .SW_MSG_ACKED => ⟨0x704308, [], [⟨63, 0, .ro, 0⟩]⟩
  | .SW_MSG_FAILED => ⟨0x704310, [], [⟨63, 0, .ro, 0⟩]⟩
  | .SW_MSG_OUTSTANDING => ⟨0x704318, [], [⟨63, 0, .ro, 0⟩]⟩
  | .SW_MSG_RESENDS => ⟨0x704320, [], [⟨63, 0, .ro, 0⟩]⟩
  | .SW_MSG_ABANDONED => ⟨0x704328, [], [⟨63, 0, .ro, 0⟩]⟩
  | .SW_STALE_DISCARDS => ⟨0x704330, [], [⟨63, 0, .ro, 0⟩]⟩
  | .SW_PATH_DISCARDS => ⟨0x704338, [], [⟨63, 0, .ro, 0⟩]⟩
  | .SW_LINE_DISCARDS => ⟨0x704340, [], [⟨63, 0, .ro, 0⟩]⟩
  | .SW_JOB_DISCARDS => ⟨0x704348, [], [⟨63, 0, .ro, 0⟩]⟩
  | .SW_MSG_REFUSED => ⟨0x704350, [], [⟨63, 0, .ro, 0⟩]⟩
  | .SW_CTRL => ⟨0x700000, [], [⟨0, 0, .rw, 0⟩]⟩
  | .SW_STATUS => ⟨0x700008, [], [⟨1, 0, .ro, 1⟩]⟩
  | .SW_FWD_MODE => ⟨0x700100, [(8, 27)], [⟨8, 8, .rw, 0⟩, ⟨2, 2, .rw, 1⟩, ⟨1, 1, .rw, 1⟩, ⟨0, 0, .rw, 1⟩]⟩
  | .SW_OUTBUF => ⟨0x700200, [(8, 27)], [⟨63, 63, .wo, 0⟩, ⟨46, 32, .ro, 0⟩, ⟨14, 0, .ro, 0⟩]⟩
  | .SW_DELIVERY_DISCARDS => ⟨0x700300, [], [⟨63, 0, .ro, 0⟩]⟩
  | .SW_MCAST_DISCARDS => ⟨0x700308, [], [⟨63, 0, .ro, 0⟩]⟩
  | .SW_MCAST_COPIES => ⟨0x700310, [], [⟨63, 0, .ro, 0⟩]⟩
  | .SW_CT_PACKETS => ⟨0x700318, [], [⟨63, 0, .ro, 0⟩]⟩
  | .SW_SAF_PACKETS => ⟨0x700320, [], [⟨63, 0, .ro, 0⟩]⟩
  | .SW_MIRROR_CTRL => ⟨0x700400, [(32, 4)], [⟨20, 16, .rw, 0⟩, ⟨12, 8, .rw, 0⟩, ⟨2, 1, .rw, 0⟩, ⟨0, 0, .rw, 0⟩]⟩
  | .SW_MIRROR_MATCH => ⟨0x700408, [(32, 4)], [⟨63, 48, .rw, 0⟩, ⟨43, 32, .rw, 0⟩, ⟨31, 16, .rw, 0⟩, ⟨15, 0, .rw, 0⟩]⟩
  | .SW_MIRROR_MASK => ⟨0x700410, [(32, 4)], [⟨63, 48, .rw, 0⟩, ⟨43, 32, .rw, 0⟩, ⟨31, 16, .rw, 0⟩, ⟨15, 0, .rw, 0⟩]⟩
  | .SW_MIRROR_COUNTS => ⟨0x700418, [(32, 4)], [⟨63, 32, .ro, 0⟩, ⟨31, 0, .ro, 0⟩]⟩
  | .SW_MCAST => ⟨0x708000, [(8, 1024)], [⟨63, 63, .rw, 0⟩, ⟨43, 32, .rw, 0⟩, ⟨26, 0, .rw, 0⟩]⟩
  | .COL_CHAN_CTRL => ⟨0x500000, [(256, 16)], [⟨39, 16, .rw, 100000⟩, ⟨5, 5, .wo, 0⟩, ⟨4, 4, .rw, 0⟩, ⟨3, 0, .rw, 0⟩]⟩
  | .COL_CHAN_STATUS => ⟨0x500008, [(256, 16)], [⟨41, 37, .ro, 0⟩, ⟨36, 36, .ro, 0⟩, ⟨35, 8, .ro, 0⟩, ⟨7, 0, .ro, 0⟩]⟩
  | .COL_CHAN_COUNTS => ⟨0x500010, [(256, 16)], [⟨63, 32, .ro, 0⟩, ⟨31, 0, .ro, 0⟩]⟩
  | .COL_CHAN_PITCHES => ⟨0x500018, [(256, 16)], [⟨63, 0, .ro, 0⟩]⟩
  | .COL_CHAN_NAN => ⟨0x500020, [(256, 16)], [⟨63, 63, .w1c, 0⟩, ⟨47, 0, .ro, 0⟩]⟩
  | .COL_CHAN_NAN_ORIGIN => ⟨0x500028, [(256, 16)], [⟨21, 20, .ro, 0⟩, ⟨19, 16, .ro, 0⟩, ⟨14, 0, .ro, 0⟩]⟩
  | .COL_CHAN_NAMED => ⟨0x500030, [(256, 16)], [⟨63, 63, .w1c, 0⟩, ⟨47, 40, .ro, 0⟩, ⟨21, 20, .ro, 0⟩,
      ⟨19, 16, .ro, 0⟩, ⟨14, 0, .ro, 0⟩]⟩
  | .COL_CHAN_DISCARDS => ⟨0x500038, [(256, 16)], [⟨63, 0, .ro, 0⟩]⟩
  | .COL_ADD_STATUS => ⟨0x601000, [(65536, 16)], [⟨31, 16, .ro, 0⟩, ⟨0, 0, .ro, 0⟩]⟩
  | .COL_ADD_RX_BYTES => ⟨0x601008, [(65536, 16)], [⟨63, 0, .ro, 0⟩]⟩
  | .COL_ADD_TX_BYTES => ⟨0x601010, [(65536, 16)], [⟨63, 0, .ro, 0⟩]⟩
  | .COL_ADD_NAN_ORIGINS => ⟨0x601018, [(65536, 16)], [⟨63, 0, .ro, 0⟩]⟩
  | .COL_ADD_POISON => ⟨0x601020, [(65536, 16)], [⟨63, 0, .ro, 0⟩]⟩
  | .MEM_STATUS => ⟨0x800000, [(524288, 2)], [⟨27, 16, .ro, 0⟩, ⟨9, 9, .ro, 0⟩, ⟨8, 8, .ro, 0⟩, ⟨4, 4, .ro, 0⟩,
      ⟨2, 0, .ro, 0⟩]⟩
  | .MEM_ECC => ⟨0x800100, [(524288, 2), (8, 12)], [⟨63, 32, .ro, 0⟩, ⟨31, 0, .ro, 0⟩]⟩
  | .MEM_CE_LOG => ⟨0x800200, [(524288, 2)], [⟨63, 63, .w1c, 0⟩, ⟨62, 58, .ro, 0⟩, ⟨57, 54, .ro, 0⟩, ⟨42, 0, .ro, 0⟩]⟩
  | .MEM_SCRUB => ⟨0x800208, [(524288, 2)], [⟨63, 40, .ro, 0⟩, ⟨7, 0, .rw, 24⟩]⟩
  | .MEM_SYSTEM => ⟨0x840000, [], [⟨53, 32, .ro, 0⟩, ⟨21, 0, .ro, 0⟩]⟩
  | .MEM_PAGE_CMD => ⟨0x840008, [], [⟨63, 63, .rw, 0⟩, ⟨57, 57, .rw, 0⟩, ⟨56, 53, .rw, 0⟩, ⟨52, 49, .rw, 0⟩,
      ⟨43, 22, .rw, 0⟩, ⟨21, 0, .rw, 0⟩]⟩
  | .MEM_PAGE_RESULT => ⟨0x840010, [], [⟨39, 8, .ro, 0⟩, ⟨7, 0, .ro, 0⟩]⟩
  | .MEM_QUOTA => ⟨0x840100, [(32, 16), (8, 4)], [⟨63, 32, .ro, 0⟩, ⟨31, 0, .rw, 0⟩]⟩
  | .MEM_PF_CTRL => ⟨0x840400, [(16, 16)], [⟨63, 56, .ro, 0⟩, ⟨48, 48, .ro, 0⟩, ⟨47, 0, .rw, 0⟩]⟩
  | .MEM_PF_COUNTS => ⟨0x840408, [(16, 16)], [⟨63, 48, .ro, 0⟩, ⟨47, 24, .ro, 0⟩, ⟨23, 0, .ro, 0⟩]⟩
  | .MEM_LEND_CTRL => ⟨0x840600, [(16, 16)], [⟨45, 34, .rw, 0⟩, ⟨33, 18, .rw, 0⟩, ⟨1, 1, .rw, 0⟩, ⟨0, 0, .rw, 0⟩]⟩
  | .MEM_LEND_RANGE => ⟨0x840608, [(16, 16)], [⟨43, 22, .rw, 0⟩, ⟨21, 0, .rw, 0⟩]⟩
  | .MEM_LEND_COUNTS => ⟨0x840800, [], [⟨63, 32, .ro, 0⟩, ⟨31, 0, .ro, 0⟩]⟩
  | .BPM_POOL_CFG => ⟨0x900000, [(64, 64)], [⟨63, 63, .rw, 0⟩, ⟨62, 62, .wo, 0⟩, ⟨61, 61, .ro, 0⟩, ⟨57, 32, .rw, 0⟩,
      ⟨11, 8, .rw, 0⟩, ⟨4, 0, .rw, 0⟩]⟩
  | .BPM_POOL_BASE => ⟨0x900008, [(64, 64)], [⟨47, 0, .rw, 0⟩]⟩
  | .BPM_POOL_RING => ⟨0x900010, [(64, 64)], [⟨47, 0, .rw, 0⟩]⟩
  | .BPM_POOL_STATE => ⟨0x900018, [(64, 64)], [⟨57, 32, .ro, 0⟩, ⟨25, 0, .ro, 0⟩]⟩
  | .BPM_POOL_ALLOCS => ⟨0x900020, [(64, 64)], [⟨63, 0, .ro, 0⟩]⟩
  | .BPM_POOL_FREES => ⟨0x900028, [(64, 64)], [⟨63, 0, .ro, 0⟩]⟩
  | .BPM_POOL_FAILS => ⟨0x900030, [(64, 64)], [⟨63, 32, .ro, 0⟩, ⟨31, 0, .ro, 0⟩]⟩
  | .BPM_POOL_LOST => ⟨0x900038, [(64, 64)], [⟨25, 0, .ro, 0⟩]⟩
  | .BPM_REQ => ⟨0x901000, [], [⟨63, 62, .wo, 0⟩, ⟨39, 32, .wo, 0⟩, ⟨31, 0, .wo, 0⟩]⟩
  | .BPM_RESULT => ⟨0x901008, [], [⟨39, 32, .ro, 0⟩, ⟨31, 0, .ro, 4294967295⟩]⟩
  | .BPM_FAULT => ⟨0x901010, [], [⟨63, 63, .w1c, 0⟩, ⟨47, 40, .ro, 0⟩, ⟨38, 32, .ro, 0⟩, ⟨31, 0, .ro, 0⟩]⟩
  | .CMD_Q_CFG => ⟨0x200000, [(32, 64)], [⟨63, 63, .rw, 0⟩, ⟨47, 40, .rw, 0⟩, ⟨36, 32, .rw, 16⟩, ⟨31, 0, .rw, 0⟩]⟩
  | .CMD_Q_MIRROR => ⟨0x200008, [(32, 64)], [⟨63, 6, .rw, 0⟩]⟩
  | .CMD_Q_STATUS => ⟨0x200010, [(32, 64)], [⟨63, 32, .ro, 0⟩, ⟨23, 16, .ro, 0⟩, ⟨1, 0, .ro, 0⟩]⟩
  | .CMD_ROPE_STATE => ⟨0x201000, [(16, 16)], [⟨63, 48, .ro, 0⟩, ⟨40, 40, .ro, 0⟩, ⟨36, 32, .ro, 31⟩,
      ⟨27, 16, .ro, 0⟩, ⟨15, 8, .ro, 0⟩, ⟨2, 0, .ro, 0⟩]⟩
  | .CMD_ROPE_CLUSTERS => ⟨0x201008, [(16, 16)], [⟨63, 0, .ro, 0⟩]⟩
  | .CMD_CLIENT => ⟨0x202000, [(8, 256)], [⟨20, 16, .rw, 16⟩, ⟨4, 0, .ro, 0⟩]⟩
  | .CMD_COMPOSER => ⟨0x203000, [(16, 16)], [⟨63, 63, .ro, 0⟩, ⟨48, 32, .ro, 0⟩, ⟨14, 0, .ro, 0⟩]⟩
  | .CMD_COMPOSER_STEP => ⟨0x203008, [(16, 16)], [⟨63, 32, .ro, 0⟩, ⟨31, 0, .ro, 0⟩]⟩
  | .AUD_SEAL_REQ => ⟨0xa00000, [], [⟨63, 6, .wo, 0⟩]⟩
  | .AUD_SEAL_STATUS => ⟨0xa00008, [], [⟨63, 16, .ro, 0⟩, ⟨15, 8, .ro, 0⟩, ⟨0, 0, .ro, 0⟩]⟩
  | .AUD_CAIRN_SEQ => ⟨0xa00010, [], [⟨63, 0, .ro, 0⟩]⟩
  | .AUD_BYTES => ⟨0xa00018, [], [⟨63, 0, .ro, 0⟩]⟩
  | .AUD_LS_CTRL => ⟨0xa01000, [(64, 16)], [⟨63, 63, .rw, 0⟩, ⟨62, 62, .wo, 0⟩, ⟨15, 0, .rw, 1⟩]⟩
  | .AUD_LS_EXTENTS => ⟨0xa01008, [(64, 16)], [⟨63, 48, .rw, 0⟩, ⟨47, 0, .rw, 0⟩]⟩
  | .AUD_LS_TREE => ⟨0xa01010, [(64, 16)], [⟨47, 0, .rw, 0⟩]⟩
  | .AUD_LS_OUTBOX => ⟨0xa01018, [(64, 16)], [⟨63, 12, .rw, 0⟩]⟩
  | .AUD_LS_STATUS => ⟨0xa01020, [(64, 16)], [⟨63, 32, .ro, 0⟩, ⟨31, 24, .ro, 0⟩, ⟨23, 16, .ro, 0⟩, ⟨15, 8, .ro, 0⟩,
      ⟨2, 0, .ro, 0⟩]⟩
  | .AUD_LS_DIFF => ⟨0xa01028, [(64, 16)], [⟨63, 63, .w1c, 0⟩, ⟨62, 62, .ro, 0⟩, ⟨47, 0, .ro, 0⟩]⟩
  | .AUD_LS_INBOX => ⟨0xa08000, [(256, 16), (8, 32)], [⟨63, 0, .wo, 0⟩]⟩
  | .BC_CTRL => ⟨0x100000, [], [⟨2, 2, .wo, 0⟩, ⟨1, 1, .rw, 0⟩, ⟨0, 0, .rw, 0⟩]⟩
  | .BC_STATE => ⟨0x100008, [], [⟨15, 8, .ro, 0⟩, ⟨5, 5, .ro, 0⟩, ⟨4, 4, .ro, 1⟩, ⟨2, 0, .ro, 1⟩]⟩
  | .BC_POWER_LIMIT => ⟨0x100010, [], [⟨11, 0, .rw, 2500⟩]⟩
  | .BC_POWER => ⟨0x100018, [], [⟨47, 32, .ro, 0⟩, ⟨27, 16, .ro, 0⟩, ⟨11, 0, .ro, 0⟩]⟩
  | .BC_THROTTLE => ⟨0x100020, [], [⟨63, 32, .ro, 0⟩, ⟨9, 8, .ro, 0⟩, ⟨3, 0, .ro, 0⟩]⟩
  | .BC_THERMAL => ⟨0x100028, [], [⟨63, 48, .ro, 0⟩, ⟨32, 32, .w1c, 0⟩, ⟨27, 24, .ro, 0⟩, ⟨23, 16, .ro, 0⟩,
      ⟨7, 0, .ro, 0⟩]⟩
  | .BC_IDLE => ⟨0x100030, [], [⟨19, 0, .rw, 10⟩]⟩
  | .BC_CLUSTER => ⟨0x100100, [(8, 64)], [⟨12, 12, .ro, 0⟩, ⟨11, 8, .ro, 0⟩, ⟨1, 0, .ro, 0⟩]⟩
  | .ID_IDENT => ⟨0x000000, [], [⟨47, 32, .ro, 3329⟩, ⟨15, 8, .ro, 176⟩]⟩
  | .ID_VUOLA => ⟨0x000008, [], [⟨63, 32, .ro, 0⟩, ⟨31, 0, .ro, 0⟩]⟩
  | .ID_CLUSTERS => ⟨0x000010, [], [⟨63, 0, .ro, 0⟩]⟩
  | .ID_CORES => ⟨0x000018, [(8, 8)], [⟨63, 0, .ro, 0⟩]⟩
  | .ID_ATT_KEYHASH => ⟨0x000100, [(8, 8)], [⟨63, 0, .ro, 0⟩]⟩
  | .BC_BOOT => ⟨0x101000, [], [⟨63, 48, .ro, 0⟩, ⟨47, 40, .ro, 0⟩, ⟨33, 33, .ro, 0⟩, ⟨32, 32, .ro, 0⟩,
      ⟨31, 0, .ro, 0⟩]⟩
  | .BC_QUOTE_REQ => ⟨0x101008, [], [⟨63, 6, .wo, 0⟩]⟩
  | .BC_QUOTE_STATUS => ⟨0x101010, [], [⟨15, 8, .ro, 0⟩, ⟨0, 0, .ro, 0⟩]⟩
  | .BC_MGMT => ⟨0x101018, [], [⟨63, 32, .ro, 0⟩, ⟨3, 0, .ro, 0⟩]⟩
  | .BC_TIME => ⟨0x101020, [], [⟨63, 0, .ro, 0⟩]⟩
  | .BC_TIME_CTRL => ⟨0x101028, [], [⟨63, 63, .rw, 0⟩, ⟨47, 32, .rw, 2000⟩, ⟨23, 16, .rw, 0⟩, ⟨15, 0, .rw, 0⟩]⟩
  | .BC_TIME_STATUS => ⟨0x101030, [], [⟨33, 33, .ro, 0⟩, ⟨32, 32, .ro, 0⟩, ⟨31, 0, .ro, 0⟩]⟩
  | .ERR_RING_BASE => ⟨0xb00000, [], [⟨63, 12, .rw, 0⟩]⟩
  | .ERR_RING_CFG => ⟨0xb00008, [], [⟨63, 63, .rw, 0⟩, ⟨39, 24, .rw, 0⟩, ⟨18, 16, .rw, 2⟩, ⟨13, 8, .rw, 0⟩,
      ⟨4, 0, .rw, 10⟩]⟩
  | .ERR_RING_HEAD => ⟨0xb00010, [], [⟨31, 0, .ro, 0⟩]⟩
  | .ERR_RING_TAIL => ⟨0xb00018, [], [⟨31, 0, .rw, 0⟩]⟩
  | .ERR_RING_LOST => ⟨0xb00020, [], [⟨63, 0, .ro, 0⟩]⟩
  | .ERR_POLICY => ⟨0xb00028, [], [⟨31, 16, .rw, 100⟩, ⟨3, 3, .rw, 0⟩, ⟨2, 0, .rw, 0⟩]⟩
  | .ERR_RESET => ⟨0xb00030, [], [⟨18, 18, .wo, 0⟩, ⟨17, 17, .wo, 0⟩, ⟨16, 16, .wo, 0⟩, ⟨7, 0, .wo, 0⟩]⟩
  | .ERR_RESET_STATUS => ⟨0xb00038, [], [⟨63, 32, .ro, 0⟩, ⟨15, 8, .ro, 0⟩, ⟨2, 0, .ro, 0⟩]⟩
  | .ERR_BELAY_QUERY => ⟨0xb00040, [], [⟨11, 0, .rw, 0⟩]⟩
  | .ERR_BELAY_VALUE => ⟨0xb00048, [], [⟨63, 0, .ro, 0⟩]⟩
  | .ERR_BELAY_SIGNALS => ⟨0xb00050, [], [⟨63, 0, .ro, 0⟩]⟩
  | .ERR_CLASS_COUNT => ⟨0xb00100, [(8, 5)], [⟨63, 0, .ro, 0⟩]⟩
  | .ID_HOST_LINK => ⟨0x000200, [], [⟨16, 16, .ro, 0⟩, ⟨12, 8, .ro, 0⟩, ⟨2, 0, .ro, 0⟩]⟩
  | .ID_ADDR => ⟨0x000208, [], [⟨16, 16, .ro, 0⟩, ⟨15, 0, .ro, 0⟩]⟩
  | .BC_BAR4_WINDOW => ⟨0x102000, [], [⟨39, 32, .ro, 34⟩, ⟨8, 0, .rw, 0⟩]⟩

/-- Every register, in the order of the manual. -/
def allRegs : List Reg :=
  ([.RTE_STATUS, .RTE_RECORDS, .RTE_ROUTES, .RTE_NAN, .RTE_NAN_RECORDS, .RTE_SHORT_TOKENS, .RTE_SLICE_LOADS, .RTE_FAULT, .RTE_PT_ACTIVE, .RTE_PT_COMMITS, .RTE_PT_REGION, .XE_STATUS, .XE_ACTIVE, .XE_TIMEOUT, .XE_FAULT, .XE_RX_ROWS, .XE_DECL_CAP, .XE_DECL_POOL, .XE_RX_DISCARDED, .XE_RET_DISCARDED, .XE_CELL_DISCARDED, .XE_LINE_BYTES, .XE_ADAPT_BYTES, .XE_POISON_ROWS, .XE_CANCELS, .XE_LEDGER_DISPATCHED, .XE_LEDGER_COMBINED, .XE_LEDGER_DECLINED, .XE_LEDGER_CANCELLED, .XE_LEDGER_INFLIGHT, .LNK_CTRL, .LNK_STATUS, .LNK_NEIGHBOUR, .LNK_RETRY, .LNK_FEC_CORR, .LNK_FEC_UNCORR, .LNK_FLIT_BAD, .LNK_REPLAYS, .LNK_DOWN_EVENTS, .LNK_E2E] : List Reg) ++
  ([.LNK_PKT_MALFORMED, .LNK_DOWN_DISCARDS, .LNK_VC_STATE, .LNK_VC_USED, .LNK_VC_RETURNED, .LNK_VC_FREED, .LNK_LANE, .SW_GEOMETRY, .SW_PATH_EPOCH, .SW_MSG_CTRL, .SW_RING_MAP, .SW_E2E_QUERY, .SW_RANKMAP_BANKS, .SW_PLAN_BANK, .SW_PLAN_PENDING, .SW_RANKMAP, .SW_CONG, .SW_MSG_STARTED, .SW_MSG_ACKED, .SW_MSG_FAILED, .SW_MSG_OUTSTANDING, .SW_MSG_RESENDS, .SW_MSG_ABANDONED, .SW_STALE_DISCARDS, .SW_PATH_DISCARDS, .SW_LINE_DISCARDS, .SW_JOB_DISCARDS, .SW_MSG_REFUSED, .SW_CTRL, .SW_STATUS, .SW_FWD_MODE, .SW_OUTBUF, .SW_DELIVERY_DISCARDS, .SW_MCAST_DISCARDS, .SW_MCAST_COPIES, .SW_CT_PACKETS, .SW_SAF_PACKETS, .SW_MIRROR_CTRL, .SW_MIRROR_MATCH, .SW_MIRROR_MASK] : List Reg) ++
  ([.SW_MIRROR_COUNTS, .SW_MCAST, .COL_CHAN_CTRL, .COL_CHAN_STATUS, .COL_CHAN_COUNTS, .COL_CHAN_PITCHES, .COL_CHAN_NAN, .COL_CHAN_NAN_ORIGIN, .COL_CHAN_NAMED, .COL_CHAN_DISCARDS, .COL_ADD_STATUS, .COL_ADD_RX_BYTES, .COL_ADD_TX_BYTES, .COL_ADD_NAN_ORIGINS, .COL_ADD_POISON, .MEM_STATUS, .MEM_ECC, .MEM_CE_LOG, .MEM_SCRUB, .MEM_SYSTEM, .MEM_PAGE_CMD, .MEM_PAGE_RESULT, .MEM_QUOTA, .MEM_PF_CTRL, .MEM_PF_COUNTS, .MEM_LEND_CTRL, .MEM_LEND_RANGE, .MEM_LEND_COUNTS, .BPM_POOL_CFG, .BPM_POOL_BASE, .BPM_POOL_RING, .BPM_POOL_STATE, .BPM_POOL_ALLOCS, .BPM_POOL_FREES, .BPM_POOL_FAILS, .BPM_POOL_LOST, .BPM_REQ, .BPM_RESULT, .BPM_FAULT, .CMD_Q_CFG] : List Reg) ++
  ([.CMD_Q_MIRROR, .CMD_Q_STATUS, .CMD_ROPE_STATE, .CMD_ROPE_CLUSTERS, .CMD_CLIENT, .CMD_COMPOSER, .CMD_COMPOSER_STEP, .AUD_SEAL_REQ, .AUD_SEAL_STATUS, .AUD_CAIRN_SEQ, .AUD_BYTES, .AUD_LS_CTRL, .AUD_LS_EXTENTS, .AUD_LS_TREE, .AUD_LS_OUTBOX, .AUD_LS_STATUS, .AUD_LS_DIFF, .AUD_LS_INBOX, .BC_CTRL, .BC_STATE, .BC_POWER_LIMIT, .BC_POWER, .BC_THROTTLE, .BC_THERMAL, .BC_IDLE, .BC_CLUSTER, .ID_IDENT, .ID_VUOLA, .ID_CLUSTERS, .ID_CORES, .ID_ATT_KEYHASH, .BC_BOOT, .BC_QUOTE_REQ, .BC_QUOTE_STATUS, .BC_MGMT, .BC_TIME, .BC_TIME_CTRL, .BC_TIME_STATUS, .ERR_RING_BASE, .ERR_RING_CFG] : List Reg) ++
  ([.ERR_RING_HEAD, .ERR_RING_TAIL, .ERR_RING_LOST, .ERR_POLICY, .ERR_RESET, .ERR_RESET_STATUS, .ERR_BELAY_QUERY, .ERR_BELAY_VALUE, .ERR_BELAY_SIGNALS, .ERR_CLASS_COUNT, .ID_HOST_LINK, .ID_ADDR, .BC_BAR4_WINDOW] : List Reg)

/-- The offset of a register, from its indexes (missing indexes are 0). -/
def dimOff : List (Nat × Nat) → List Nat → Nat
  | (st, _) :: ds, i :: is => st * i + dimOff ds is
  | _, _ => 0

/-- BAR0 offset of register `r` with indexes `ix`. -/
def regOff (r : Reg) (ix : List Nat) : Nat := (regDesc r).base + dimOff (regDesc r).dims ix

/-- Credit divisions at reset (R118): VC0 to VC5. -/
def defaultAdvert (vc : Nat) : Nat := ([1024, 1536, 260, 256, 128, 892] : List Nat).getD vc 0

/-- The reset value of a register: the Reset column of its table (R11). LNK_VC_STATE holds the default division of R118 in
ADVERT; SW_FWD_MODE of the ports that are not fabric ports holds 0 (06_switch_core.md). -/
def regReset (r : Reg) (ix : List Nat) : Word :=
  match r, ix with
  | .LNK_VC_STATE, [_, v] => BitVec.ofNat 64 (defaultAdvert v)
  | .SW_FWD_MODE, [p] => if p < 16 then 7 else 0
  | r, _ => BitVec.ofNat 64 ((regDesc r).fields.foldl (fun a f => a + f.reset * 2 ^ f.lo) 0)

/-- The indexes of one register of an array at distance `k` from its base, if there is one. -/
def findIx : List (Nat × Nat) → Nat → Option (List Nat)
  | [], k => if k = 0 then some [] else none
  | (st, n) :: ds, k =>
    if k / st < n then (findIx ds (k % st)).map (fun l => (k / st) :: l) else none

/-- The register at a BAR0 offset, with its indexes (R8: none where no register lies). -/
def findRegIn : List Reg → Nat → Option (Reg × List Nat)
  | [], _ => none
  | r :: rs, off =>
    if (regDesc r).base ≤ off then
      match findIx (regDesc r).dims (off - (regDesc r).base) with
      | some ix => some (r, ix)
      | none => findRegIn rs off
    else findRegIn rs off

/-- The register at a BAR0 offset. -/
def findReg (off : Nat) : Option (Reg × List Nat) := findRegIn allRegs off

/-- A register's value. -/
def getR (r : Reg) (ix : List Nat) (s : State) : Word := tget (regReset r ix) s.regs (regOff r ix)

/-- Give a register a value. -/
def setR (r : Reg) (ix : List Nat) (v : Word) (s : State) : State :=
  { s with regs := tset (regReset r ix) s.regs (regOff r ix) v }

/-- A value captured for a requester (R499): requester × 2^26 + offset. -/
def latchKey (f off : Nat) : Nat := f * 2 ^ 26 + off

/-- The live values of a latched set are cleared, and with them what every requester has captured (R499). -/
def dropLatch (offs : List Nat) (s : State) : State :=
  { s with latch := tfilter (fun k => ! offs.contains (k % 2 ^ 26)) s.latch }

/-- Bits [hi:lo] of a word as a number (R4). -/
def bits (hi lo : Nat) (w : Word) : Nat := (w.toNat >>> lo) % 2 ^ (hi + 1 - lo)

/-- A word with bits [hi:lo] replaced. -/
def withBits (hi lo : Nat) (v : Nat) (w : Word) : Word :=
  BitVec.ofNat 64 (w.toNat - bits hi lo w * 2 ^ lo + v % 2 ^ (hi + 1 - lo) * 2 ^ lo)

/-- A field of a register. -/
structure Fld where
  reg : Reg
  hi : Nat
  lo : Nat
  deriving DecidableEq, Repr

/-- A field's value. -/
def getF (f : Fld) (ix : List Nat) (s : State) : Nat := bits f.hi f.lo (getR f.reg ix s)

/-- Give a field a value, modulo its width. -/
def setF (f : Fld) (ix : List Nat) (v : Nat) (s : State) : State :=
  setR f.reg ix (withBits f.hi f.lo v (getR f.reg ix s)) s

/-- Add to a field, modulo its width (log 8). -/
def addF (f : Fld) (ix : List Nat) (k : Nat) (s : State) : State := setF f ix (getF f ix s + k) s

/-- Take from a field, modulo its width. -/
def subF (f : Fld) (ix : List Nat) (k : Nat) (s : State) : State :=
  setF f ix (getF f ix s + (2 ^ (f.hi + 1 - f.lo) - k)) s

/-! The fields, by the names of the manual. -/

namespace F

abbrev RTE_STATUS_QUEUED : Fld := ⟨.RTE_STATUS, 21, 16⟩
abbrev RTE_STATUS_LAST_STATUS : Fld := ⟨.RTE_STATUS, 15, 8⟩
abbrev RTE_STATUS_SLICE_BANK : Fld := ⟨.RTE_STATUS, 5, 5⟩
abbrev RTE_STATUS_ROPE : Fld := ⟨.RTE_STATUS, 4, 1⟩
abbrev RTE_STATUS_BUSY : Fld := ⟨.RTE_STATUS, 0, 0⟩
abbrev RTE_RECORDS_RECORDS : Fld := ⟨.RTE_RECORDS, 63, 0⟩
abbrev RTE_ROUTES_FAULTED : Fld := ⟨.RTE_ROUTES, 63, 32⟩
abbrev RTE_ROUTES_DONE : Fld := ⟨.RTE_ROUTES, 31, 0⟩
abbrev RTE_NAN_VALID : Fld := ⟨.RTE_NAN, 63, 63⟩
abbrev RTE_NAN_ROPE : Fld := ⟨.RTE_NAN, 35, 32⟩
abbrev RTE_NAN_FIRST_TOKEN : Fld := ⟨.RTE_NAN, 31, 0⟩
abbrev RTE_NAN_RECORDS_COUNT : Fld := ⟨.RTE_NAN_RECORDS, 63, 0⟩
abbrev RTE_SHORT_TOKENS_COUNT : Fld := ⟨.RTE_SHORT_TOKENS, 63, 0⟩
abbrev RTE_SLICE_LOADS_COUNT : Fld := ⟨.RTE_SLICE_LOADS, 63, 0⟩
abbrev RTE_FAULT_VALID : Fld := ⟨.RTE_FAULT, 63, 63⟩
abbrev RTE_FAULT_ROPE : Fld := ⟨.RTE_FAULT, 51, 48⟩
abbrev RTE_FAULT_STATUS : Fld := ⟨.RTE_FAULT, 47, 40⟩
abbrev RTE_FAULT_TAG : Fld := ⟨.RTE_FAULT, 31, 0⟩
abbrev RTE_PT_ACTIVE_PENDING : Fld := ⟨.RTE_PT_ACTIVE, 31, 16⟩
abbrev RTE_PT_ACTIVE_BANK : Fld := ⟨.RTE_PT_ACTIVE, 15, 0⟩
abbrev RTE_PT_COMMITS_COUNT : Fld := ⟨.RTE_PT_COMMITS, 63, 0⟩
abbrev RTE_PT_REGION_SIZE : Fld := ⟨.RTE_PT_REGION, 50, 32⟩
abbrev RTE_PT_REGION_BASE : Fld := ⟨.RTE_PT_REGION, 17, 0⟩
abbrev XE_STATUS_MSGS : Fld := ⟨.XE_STATUS, 28, 16⟩
abbrev XE_STATUS_LAST_STATUS : Fld := ⟨.XE_STATUS, 15, 8⟩
abbrev XE_STATUS_QUEUED : Fld := ⟨.XE_STATUS, 7, 2⟩
abbrev XE_STATUS_BUSY : Fld := ⟨.XE_STATUS, 0, 0⟩
abbrev XE_ACTIVE_TAGS : Fld := ⟨.XE_ACTIVE, 63, 0⟩
abbrev XE_TIMEOUT_LIMIT_US : Fld := ⟨.XE_TIMEOUT, 23, 0⟩
abbrev XE_FAULT_VALID : Fld := ⟨.XE_FAULT, 63, 63⟩
abbrev XE_FAULT_ROPE : Fld := ⟨.XE_FAULT, 51, 48⟩
abbrev XE_FAULT_STATUS : Fld := ⟨.XE_FAULT, 47, 40⟩
abbrev XE_FAULT_TAG : Fld := ⟨.XE_FAULT, 31, 0⟩
abbrev XE_RX_ROWS_COUNT : Fld := ⟨.XE_RX_ROWS, 63, 0⟩
abbrev XE_DECL_CAP_COUNT : Fld := ⟨.XE_DECL_CAP, 63, 0⟩
abbrev XE_DECL_POOL_COUNT : Fld := ⟨.XE_DECL_POOL, 63, 0⟩
abbrev XE_RX_DISCARDED_COUNT : Fld := ⟨.XE_RX_DISCARDED, 63, 0⟩
abbrev XE_RET_DISCARDED_COUNT : Fld := ⟨.XE_RET_DISCARDED, 63, 0⟩
abbrev XE_CELL_DISCARDED_COUNT : Fld := ⟨.XE_CELL_DISCARDED, 63, 0⟩
abbrev XE_LINE_BYTES_COUNT : Fld := ⟨.XE_LINE_BYTES, 63, 0⟩
abbrev XE_ADAPT_BYTES_COUNT : Fld := ⟨.XE_ADAPT_BYTES, 63, 0⟩
abbrev XE_POISON_ROWS_COUNT : Fld := ⟨.XE_POISON_ROWS, 63, 0⟩
abbrev XE_CANCELS_COUNT : Fld := ⟨.XE_CANCELS, 63, 0⟩
abbrev XE_LEDGER_DISPATCHED_DISPATCHED : Fld := ⟨.XE_LEDGER_DISPATCHED, 63, 0⟩
abbrev XE_LEDGER_COMBINED_COMBINED : Fld := ⟨.XE_LEDGER_COMBINED, 63, 0⟩
abbrev XE_LEDGER_DECLINED_DECLINED : Fld := ⟨.XE_LEDGER_DECLINED, 63, 0⟩
abbrev XE_LEDGER_CANCELLED_CANCELLED : Fld := ⟨.XE_LEDGER_CANCELLED, 63, 0⟩
abbrev XE_LEDGER_INFLIGHT_INFLIGHT : Fld := ⟨.XE_LEDGER_INFLIGHT, 63, 0⟩
abbrev LNK_CTRL_WIDTH_MIN : Fld := ⟨.LNK_CTRL, 17, 16⟩
abbrev LNK_CTRL_RATES : Fld := ⟨.LNK_CTRL, 10, 8⟩
abbrev LNK_CTRL_RETRAIN : Fld := ⟨.LNK_CTRL, 1, 1⟩
abbrev LNK_CTRL_ENABLE : Fld := ⟨.LNK_CTRL, 0, 0⟩
abbrev LNK_STATUS_EPOCH : Fld := ⟨.LNK_STATUS, 47, 32⟩
abbrev LNK_STATUS_LANES : Fld := ⟨.LNK_STATUS, 15, 12⟩
abbrev LNK_STATUS_WIDTH : Fld := ⟨.LNK_STATUS, 9, 8⟩
abbrev LNK_STATUS_RATE : Fld := ⟨.LNK_STATUS, 5, 4⟩
abbrev LNK_STATUS_STATE : Fld := ⟨.LNK_STATUS, 2, 0⟩
abbrev LNK_NEIGHBOUR_VALID : Fld := ⟨.LNK_NEIGHBOUR, 63, 63⟩
abbrev LNK_NEIGHBOUR_PEER_PORT : Fld := ⟨.LNK_NEIGHBOUR, 35, 32⟩
abbrev LNK_NEIGHBOUR_PEER_VERSION : Fld := ⟨.LNK_NEIGHBOUR, 31, 16⟩
abbrev LNK_NEIGHBOUR_PEER_ADDR : Fld := ⟨.LNK_NEIGHBOUR, 15, 0⟩
abbrev LNK_RETRY_RETRY_LIMIT : Fld := ⟨.LNK_RETRY, 37, 32⟩
abbrev LNK_RETRY_REPLAY_TIMER : Fld := ⟨.LNK_RETRY, 13, 0⟩
abbrev LNK_FEC_CORR_COUNT : Fld := ⟨.LNK_FEC_CORR, 63, 0⟩
abbrev LNK_FEC_UNCORR_COUNT : Fld := ⟨.LNK_FEC_UNCORR, 63, 0⟩
abbrev LNK_FLIT_BAD_COUNT : Fld := ⟨.LNK_FLIT_BAD, 63, 0⟩
abbrev LNK_REPLAYS_COUNT : Fld := ⟨.LNK_REPLAYS, 63, 0⟩
abbrev LNK_DOWN_EVENTS_RETRAIN_FAIL : Fld := ⟨.LNK_DOWN_EVENTS, 63, 48⟩
abbrev LNK_DOWN_EVENTS_DOWN_NOTICE : Fld := ⟨.LNK_DOWN_EVENTS, 47, 32⟩
abbrev LNK_DOWN_EVENTS_RETRY_EXHAUSTED : Fld := ⟨.LNK_DOWN_EVENTS, 31, 16⟩
abbrev LNK_DOWN_EVENTS_LOS : Fld := ⟨.LNK_DOWN_EVENTS, 15, 0⟩
abbrev LNK_E2E_BAD : Fld := ⟨.LNK_E2E, 63, 32⟩
abbrev LNK_E2E_STOMPED : Fld := ⟨.LNK_E2E, 31, 0⟩
abbrev LNK_PKT_MALFORMED_COUNT : Fld := ⟨.LNK_PKT_MALFORMED, 63, 0⟩
abbrev LNK_DOWN_DISCARDS_COUNT : Fld := ⟨.LNK_DOWN_DISCARDS, 63, 0⟩
abbrev LNK_VC_STATE_AVAIL : Fld := ⟨.LNK_VC_STATE, 44, 32⟩
abbrev LNK_VC_STATE_PEER_ADVERT : Fld := ⟨.LNK_VC_STATE, 28, 16⟩
abbrev LNK_VC_STATE_ADVERT : Fld := ⟨.LNK_VC_STATE, 12, 0⟩
abbrev LNK_VC_USED_COUNT : Fld := ⟨.LNK_VC_USED, 63, 0⟩
abbrev LNK_VC_RETURNED_COUNT : Fld := ⟨.LNK_VC_RETURNED, 63, 0⟩
abbrev LNK_VC_FREED_COUNT : Fld := ⟨.LNK_VC_FREED, 63, 0⟩
abbrev LNK_LANE_SER : Fld := ⟨.LNK_LANE, 47, 32⟩
abbrev LNK_LANE_SNR : Fld := ⟨.LNK_LANE, 23, 16⟩
abbrev LNK_LANE_DROPPED : Fld := ⟨.LNK_LANE, 1, 1⟩
abbrev LNK_LANE_LOCK : Fld := ⟨.LNK_LANE, 0, 0⟩
abbrev SW_GEOMETRY_VALID : Fld := ⟨.SW_GEOMETRY, 63, 63⟩
abbrev SW_GEOMETRY_WSIZE : Fld := ⟨.SW_GEOMETRY, 27, 24⟩
abbrev SW_GEOMETRY_ZSIZE : Fld := ⟨.SW_GEOMETRY, 20, 16⟩
abbrev SW_GEOMETRY_YSIZE : Fld := ⟨.SW_GEOMETRY, 12, 8⟩
abbrev SW_GEOMETRY_XSIZE : Fld := ⟨.SW_GEOMETRY, 4, 0⟩
abbrev SW_PATH_EPOCH_BUMP : Fld := ⟨.SW_PATH_EPOCH, 16, 16⟩
abbrev SW_PATH_EPOCH_EPOCH : Fld := ⟨.SW_PATH_EPOCH, 15, 0⟩
abbrev SW_MSG_CTRL_RESEND_LIMIT : Fld := ⟨.SW_MSG_CTRL, 25, 24⟩
abbrev SW_MSG_CTRL_TIMEOUT_US : Fld := ⟨.SW_MSG_CTRL, 19, 0⟩
abbrev SW_RING_MAP_WMAP : Fld := ⟨.SW_RING_MAP, 63, 48⟩
abbrev SW_RING_MAP_ZMAP : Fld := ⟨.SW_RING_MAP, 47, 32⟩
abbrev SW_RING_MAP_YMAP : Fld := ⟨.SW_RING_MAP, 31, 16⟩
abbrev SW_RING_MAP_XMAP : Fld := ⟨.SW_RING_MAP, 15, 0⟩
abbrev SW_E2E_QUERY_CLEAR : Fld := ⟨.SW_E2E_QUERY, 25, 25⟩
abbrev SW_E2E_QUERY_UNREACH : Fld := ⟨.SW_E2E_QUERY, 24, 24⟩
abbrev SW_E2E_QUERY_FREE : Fld := ⟨.SW_E2E_QUERY, 20, 16⟩
abbrev SW_E2E_QUERY_ADDR : Fld := ⟨.SW_E2E_QUERY, 15, 0⟩
abbrev SW_RANKMAP_BANKS_PENDING : Fld := ⟨.SW_RANKMAP_BANKS, 31, 16⟩
abbrev SW_RANKMAP_BANKS_BANK : Fld := ⟨.SW_RANKMAP_BANKS, 15, 0⟩
abbrev SW_PLAN_BANK_BANK : Fld := ⟨.SW_PLAN_BANK, 63, 0⟩
abbrev SW_PLAN_PENDING_PENDING : Fld := ⟨.SW_PLAN_PENDING, 63, 0⟩
abbrev SW_RANKMAP_JOB : Fld := ⟨.SW_RANKMAP, 43, 32⟩
abbrev SW_RANKMAP_SIZE : Fld := ⟨.SW_RANKMAP, 15, 0⟩
abbrev SW_CONG_ESTIMATE : Fld := ⟨.SW_CONG, 31, 0⟩
abbrev SW_MSG_STARTED_COUNT : Fld := ⟨.SW_MSG_STARTED, 63, 0⟩
abbrev SW_MSG_ACKED_COUNT : Fld := ⟨.SW_MSG_ACKED, 63, 0⟩
abbrev SW_MSG_FAILED_COUNT : Fld := ⟨.SW_MSG_FAILED, 63, 0⟩
abbrev SW_MSG_OUTSTANDING_COUNT : Fld := ⟨.SW_MSG_OUTSTANDING, 63, 0⟩
abbrev SW_MSG_RESENDS_COUNT : Fld := ⟨.SW_MSG_RESENDS, 63, 0⟩
abbrev SW_MSG_ABANDONED_COUNT : Fld := ⟨.SW_MSG_ABANDONED, 63, 0⟩
abbrev SW_STALE_DISCARDS_COUNT : Fld := ⟨.SW_STALE_DISCARDS, 63, 0⟩
abbrev SW_PATH_DISCARDS_COUNT : Fld := ⟨.SW_PATH_DISCARDS, 63, 0⟩
abbrev SW_LINE_DISCARDS_COUNT : Fld := ⟨.SW_LINE_DISCARDS, 63, 0⟩
abbrev SW_JOB_DISCARDS_COUNT : Fld := ⟨.SW_JOB_DISCARDS, 63, 0⟩
abbrev SW_MSG_REFUSED_COUNT : Fld := ⟨.SW_MSG_REFUSED, 63, 0⟩
abbrev SW_CTRL_TEST : Fld := ⟨.SW_CTRL, 0, 0⟩
abbrev SW_STATUS_SERVICE : Fld := ⟨.SW_STATUS, 1, 0⟩
abbrev SW_FWD_MODE_ANALYSIS : Fld := ⟨.SW_FWD_MODE, 8, 8⟩
abbrev SW_FWD_MODE_CELLS_CT : Fld := ⟨.SW_FWD_MODE, 2, 2⟩
abbrev SW_FWD_MODE_LINES_CT : Fld := ⟨.SW_FWD_MODE, 1, 1⟩
abbrev SW_FWD_MODE_BULK_CT : Fld := ⟨.SW_FWD_MODE, 0, 0⟩
abbrev SW_OUTBUF_PEAK_CLR : Fld := ⟨.SW_OUTBUF, 63, 63⟩
abbrev SW_OUTBUF_PEAK : Fld := ⟨.SW_OUTBUF, 46, 32⟩
abbrev SW_OUTBUF_USED : Fld := ⟨.SW_OUTBUF, 14, 0⟩
abbrev SW_DELIVERY_DISCARDS_COUNT : Fld := ⟨.SW_DELIVERY_DISCARDS, 63, 0⟩
abbrev SW_MCAST_DISCARDS_COUNT : Fld := ⟨.SW_MCAST_DISCARDS, 63, 0⟩
abbrev SW_MCAST_COPIES_COUNT : Fld := ⟨.SW_MCAST_COPIES, 63, 0⟩
abbrev SW_CT_PACKETS_COUNT : Fld := ⟨.SW_CT_PACKETS, 63, 0⟩
abbrev SW_SAF_PACKETS_COUNT : Fld := ⟨.SW_SAF_PACKETS, 63, 0⟩
abbrev SW_MIRROR_CTRL_ANALYSIS_PORT : Fld := ⟨.SW_MIRROR_CTRL, 20, 16⟩
abbrev SW_MIRROR_CTRL_SRC_PORT : Fld := ⟨.SW_MIRROR_CTRL, 12, 8⟩
abbrev SW_MIRROR_CTRL_KIND : Fld := ⟨.SW_MIRROR_CTRL, 2, 1⟩
abbrev SW_MIRROR_CTRL_ENABLE : Fld := ⟨.SW_MIRROR_CTRL, 0, 0⟩
abbrev SW_MIRROR_MATCH_FLOW : Fld := ⟨.SW_MIRROR_MATCH, 63, 48⟩
abbrev SW_MIRROR_MATCH_JOB : Fld := ⟨.SW_MIRROR_MATCH, 43, 32⟩
abbrev SW_MIRROR_MATCH_DEST : Fld := ⟨.SW_MIRROR_MATCH, 31, 16⟩
abbrev SW_MIRROR_MATCH_SRC : Fld := ⟨.SW_MIRROR_MATCH, 15, 0⟩
abbrev SW_MIRROR_MASK_FLOW : Fld := ⟨.SW_MIRROR_MASK, 63, 48⟩
abbrev SW_MIRROR_MASK_JOB : Fld := ⟨.SW_MIRROR_MASK, 43, 32⟩
abbrev SW_MIRROR_MASK_DEST : Fld := ⟨.SW_MIRROR_MASK, 31, 16⟩
abbrev SW_MIRROR_MASK_SRC : Fld := ⟨.SW_MIRROR_MASK, 15, 0⟩
abbrev SW_MIRROR_COUNTS_DROPPED : Fld := ⟨.SW_MIRROR_COUNTS, 63, 32⟩
abbrev SW_MIRROR_COUNTS_COPIED : Fld := ⟨.SW_MIRROR_COUNTS, 31, 0⟩
abbrev SW_MCAST_VALID : Fld := ⟨.SW_MCAST, 63, 63⟩
abbrev SW_MCAST_JOB : Fld := ⟨.SW_MCAST, 43, 32⟩
abbrev SW_MCAST_PORTS : Fld := ⟨.SW_MCAST, 26, 0⟩
abbrev COL_CHAN_CTRL_WATCHDOG_US : Fld := ⟨.COL_CHAN_CTRL, 39, 16⟩
abbrev COL_CHAN_CTRL_ABORT : Fld := ⟨.COL_CHAN_CTRL, 5, 5⟩
abbrev COL_CHAN_CTRL_OWNED : Fld := ⟨.COL_CHAN_CTRL, 4, 4⟩
abbrev COL_CHAN_CTRL_OWNER : Fld := ⟨.COL_CHAN_CTRL, 3, 0⟩
abbrev COL_CHAN_STATUS_QUEUED : Fld := ⟨.COL_CHAN_STATUS, 41, 37⟩
abbrev COL_CHAN_STATUS_BUSY : Fld := ⟨.COL_CHAN_STATUS, 36, 36⟩
abbrev COL_CHAN_STATUS_SEQ : Fld := ⟨.COL_CHAN_STATUS, 35, 8⟩
abbrev COL_CHAN_STATUS_LAST_STATUS : Fld := ⟨.COL_CHAN_STATUS, 7, 0⟩
abbrev COL_CHAN_COUNTS_ABORTED : Fld := ⟨.COL_CHAN_COUNTS, 63, 32⟩
abbrev COL_CHAN_COUNTS_DONE : Fld := ⟨.COL_CHAN_COUNTS, 31, 0⟩
abbrev COL_CHAN_PITCHES_PITCHES : Fld := ⟨.COL_CHAN_PITCHES, 63, 0⟩
abbrev COL_CHAN_NAN_VALID : Fld := ⟨.COL_CHAN_NAN, 63, 63⟩
abbrev COL_CHAN_NAN_ELEMENT : Fld := ⟨.COL_CHAN_NAN, 47, 0⟩
abbrev COL_CHAN_NAN_ORIGIN_LEVEL : Fld := ⟨.COL_CHAN_NAN_ORIGIN, 21, 20⟩
abbrev COL_CHAN_NAN_ORIGIN_POSITION : Fld := ⟨.COL_CHAN_NAN_ORIGIN, 19, 16⟩
abbrev COL_CHAN_NAN_ORIGIN_RANK : Fld := ⟨.COL_CHAN_NAN_ORIGIN, 14, 0⟩
abbrev COL_CHAN_NAMED_VALID : Fld := ⟨.COL_CHAN_NAMED, 63, 63⟩
abbrev COL_CHAN_NAMED_STATUS : Fld := ⟨.COL_CHAN_NAMED, 47, 40⟩
abbrev COL_CHAN_NAMED_LEVEL : Fld := ⟨.COL_CHAN_NAMED, 21, 20⟩
abbrev COL_CHAN_NAMED_POSITION : Fld := ⟨.COL_CHAN_NAMED, 19, 16⟩
abbrev COL_CHAN_NAMED_RANK : Fld := ⟨.COL_CHAN_NAMED, 14, 0⟩
abbrev COL_CHAN_DISCARDS_COUNT : Fld := ⟨.COL_CHAN_DISCARDS, 63, 0⟩
abbrev COL_ADD_STATUS_CHANNELS : Fld := ⟨.COL_ADD_STATUS, 31, 16⟩
abbrev COL_ADD_STATUS_BUSY : Fld := ⟨.COL_ADD_STATUS, 0, 0⟩
abbrev COL_ADD_RX_BYTES_COUNT : Fld := ⟨.COL_ADD_RX_BYTES, 63, 0⟩
abbrev COL_ADD_TX_BYTES_COUNT : Fld := ⟨.COL_ADD_TX_BYTES, 63, 0⟩
abbrev COL_ADD_NAN_ORIGINS_COUNT : Fld := ⟨.COL_ADD_NAN_ORIGINS, 63, 0⟩
abbrev COL_ADD_POISON_COUNT : Fld := ⟨.COL_ADD_POISON, 63, 0⟩
abbrev MEM_STATUS_USABLE : Fld := ⟨.MEM_STATUS, 27, 16⟩
abbrev MEM_STATUS_CACHED : Fld := ⟨.MEM_STATUS, 9, 9⟩
abbrev MEM_STATUS_READY : Fld := ⟨.MEM_STATUS, 8, 8⟩
abbrev MEM_STATUS_TYPE : Fld := ⟨.MEM_STATUS, 4, 4⟩
abbrev MEM_STATUS_SPEED : Fld := ⟨.MEM_STATUS, 2, 0⟩
abbrev MEM_ECC_UNCORR : Fld := ⟨.MEM_ECC, 63, 32⟩
abbrev MEM_ECC_CORR : Fld := ⟨.MEM_ECC, 31, 0⟩
abbrev MEM_CE_LOG_VALID : Fld := ⟨.MEM_CE_LOG, 63, 63⟩
abbrev MEM_CE_LOG_DEVICE : Fld := ⟨.MEM_CE_LOG, 62, 58⟩
abbrev MEM_CE_LOG_CHANNEL : Fld := ⟨.MEM_CE_LOG, 57, 54⟩
abbrev MEM_CE_LOG_LINE : Fld := ⟨.MEM_CE_LOG, 42, 0⟩
abbrev MEM_SCRUB_PASSES : Fld := ⟨.MEM_SCRUB, 63, 40⟩
abbrev MEM_SCRUB_SCRUB_HOURS : Fld := ⟨.MEM_SCRUB, 7, 0⟩
abbrev MEM_SYSTEM_SYS_PAGE : Fld := ⟨.MEM_SYSTEM, 53, 32⟩
abbrev MEM_SYSTEM_PAGES : Fld := ⟨.MEM_SYSTEM, 21, 0⟩
abbrev MEM_PAGE_CMD_GO : Fld := ⟨.MEM_PAGE_CMD, 63, 63⟩
abbrev MEM_PAGE_CMD_SCRUB : Fld := ⟨.MEM_PAGE_CMD, 57, 57⟩
abbrev MEM_PAGE_CMD_INDEX : Fld := ⟨.MEM_PAGE_CMD, 56, 53⟩
abbrev MEM_PAGE_CMD_STATE : Fld := ⟨.MEM_PAGE_CMD, 52, 49⟩
abbrev MEM_PAGE_CMD_COUNT : Fld := ⟨.MEM_PAGE_CMD, 43, 22⟩
abbrev MEM_PAGE_CMD_FIRST : Fld := ⟨.MEM_PAGE_CMD, 21, 0⟩
abbrev MEM_PAGE_RESULT_BAD_PAGE : Fld := ⟨.MEM_PAGE_RESULT, 39, 8⟩
abbrev MEM_PAGE_RESULT_STATUS : Fld := ⟨.MEM_PAGE_RESULT, 7, 0⟩
abbrev MEM_QUOTA_USED : Fld := ⟨.MEM_QUOTA, 63, 32⟩
abbrev MEM_QUOTA_LIMIT : Fld := ⟨.MEM_QUOTA, 31, 0⟩
abbrev MEM_PF_CTRL_STATUS : Fld := ⟨.MEM_PF_CTRL, 63, 56⟩
abbrev MEM_PF_CTRL_PENDING : Fld := ⟨.MEM_PF_CTRL, 48, 48⟩
abbrev MEM_PF_CTRL_SCHED : Fld := ⟨.MEM_PF_CTRL, 47, 0⟩
abbrev MEM_PF_COUNTS_SKIPPED : Fld := ⟨.MEM_PF_COUNTS, 63, 48⟩
abbrev MEM_PF_COUNTS_SPEC_WASTED : Fld := ⟨.MEM_PF_COUNTS, 47, 24⟩
abbrev MEM_PF_COUNTS_SPEC_USED : Fld := ⟨.MEM_PF_COUNTS, 23, 0⟩
abbrev MEM_LEND_CTRL_JOB : Fld := ⟨.MEM_LEND_CTRL, 45, 34⟩
abbrev MEM_LEND_CTRL_BORROWER : Fld := ⟨.MEM_LEND_CTRL, 33, 18⟩
abbrev MEM_LEND_CTRL_WRITE : Fld := ⟨.MEM_LEND_CTRL, 1, 1⟩
abbrev MEM_LEND_CTRL_ENABLE : Fld := ⟨.MEM_LEND_CTRL, 0, 0⟩
abbrev MEM_LEND_RANGE_COUNT : Fld := ⟨.MEM_LEND_RANGE, 43, 22⟩
abbrev MEM_LEND_RANGE_FIRST : Fld := ⟨.MEM_LEND_RANGE, 21, 0⟩
abbrev MEM_LEND_COUNTS_REJECTED : Fld := ⟨.MEM_LEND_COUNTS, 63, 32⟩
abbrev MEM_LEND_COUNTS_LOST : Fld := ⟨.MEM_LEND_COUNTS, 31, 0⟩
abbrev BPM_POOL_CFG_ENABLE : Fld := ⟨.BPM_POOL_CFG, 63, 63⟩
abbrev BPM_POOL_CFG_RECLAIM : Fld := ⟨.BPM_POOL_CFG, 62, 62⟩
abbrev BPM_POOL_CFG_FAULTED : Fld := ⟨.BPM_POOL_CFG, 61, 61⟩
abbrev BPM_POOL_CFG_COUNT : Fld := ⟨.BPM_POOL_CFG, 57, 32⟩
abbrev BPM_POOL_CFG_ROPE : Fld := ⟨.BPM_POOL_CFG, 11, 8⟩
abbrev BPM_POOL_CFG_SIZE_LOG2 : Fld := ⟨.BPM_POOL_CFG, 4, 0⟩
abbrev BPM_POOL_BASE_BASE : Fld := ⟨.BPM_POOL_BASE, 47, 0⟩
abbrev BPM_POOL_RING_RING : Fld := ⟨.BPM_POOL_RING, 47, 0⟩
abbrev BPM_POOL_STATE_ALLOCATED : Fld := ⟨.BPM_POOL_STATE, 57, 32⟩
abbrev BPM_POOL_STATE_FREE : Fld := ⟨.BPM_POOL_STATE, 25, 0⟩
abbrev BPM_POOL_ALLOCS_ALLOCS : Fld := ⟨.BPM_POOL_ALLOCS, 63, 0⟩
abbrev BPM_POOL_FREES_FREES : Fld := ⟨.BPM_POOL_FREES, 63, 0⟩
abbrev BPM_POOL_FAILS_EMPTY : Fld := ⟨.BPM_POOL_FAILS, 63, 32⟩
abbrev BPM_POOL_FAILS_OWNER : Fld := ⟨.BPM_POOL_FAILS, 31, 0⟩
abbrev BPM_POOL_LOST_LOST : Fld := ⟨.BPM_POOL_LOST, 25, 0⟩
abbrev BPM_REQ_OP : Fld := ⟨.BPM_REQ, 63, 62⟩
abbrev BPM_REQ_NEW_OWNER : Fld := ⟨.BPM_REQ, 39, 32⟩
abbrev BPM_REQ_HANDLE : Fld := ⟨.BPM_REQ, 31, 0⟩
abbrev BPM_RESULT_STATUS : Fld := ⟨.BPM_RESULT, 39, 32⟩
abbrev BPM_RESULT_HANDLE : Fld := ⟨.BPM_RESULT, 31, 0⟩
abbrev BPM_FAULT_VALID : Fld := ⟨.BPM_FAULT, 63, 63⟩
abbrev BPM_FAULT_STATUS : Fld := ⟨.BPM_FAULT, 47, 40⟩
abbrev BPM_FAULT_REQUESTER : Fld := ⟨.BPM_FAULT, 38, 32⟩
abbrev BPM_FAULT_HANDLE : Fld := ⟨.BPM_FAULT, 31, 0⟩
abbrev CMD_Q_CFG_ENABLE : Fld := ⟨.CMD_Q_CFG, 63, 63⟩
abbrev CMD_Q_CFG_VECTOR : Fld := ⟨.CMD_Q_CFG, 47, 40⟩
abbrev CMD_Q_CFG_OWNER : Fld := ⟨.CMD_Q_CFG, 36, 32⟩
abbrev CMD_Q_CFG_SEQ_START : Fld := ⟨.CMD_Q_CFG, 31, 0⟩
abbrev CMD_Q_MIRROR_ADDR : Fld := ⟨.CMD_Q_MIRROR, 63, 6⟩
abbrev CMD_Q_STATUS_NEXT : Fld := ⟨.CMD_Q_STATUS, 63, 32⟩
abbrev CMD_Q_STATUS_FAIL_STATUS : Fld := ⟨.CMD_Q_STATUS, 23, 16⟩
abbrev CMD_Q_STATUS_STATE : Fld := ⟨.CMD_Q_STATUS, 1, 0⟩
abbrev CMD_ROPE_STATE_STEP : Fld := ⟨.CMD_ROPE_STATE, 63, 48⟩
abbrev CMD_ROPE_STATE_REPRO : Fld := ⟨.CMD_ROPE_STATE, 40, 40⟩
abbrev CMD_ROPE_STATE_VF : Fld := ⟨.CMD_ROPE_STATE, 36, 32⟩
abbrev CMD_ROPE_STATE_JOB : Fld := ⟨.CMD_ROPE_STATE, 27, 16⟩
abbrev CMD_ROPE_STATE_CLIENT : Fld := ⟨.CMD_ROPE_STATE, 15, 8⟩
abbrev CMD_ROPE_STATE_STATE : Fld := ⟨.CMD_ROPE_STATE, 2, 0⟩
abbrev CMD_ROPE_CLUSTERS_CLUSTERS : Fld := ⟨.CMD_ROPE_CLUSTERS, 63, 0⟩
abbrev CMD_CLIENT_LIMIT : Fld := ⟨.CMD_CLIENT, 20, 16⟩
abbrev CMD_CLIENT_COUNT : Fld := ⟨.CMD_CLIENT, 4, 0⟩
abbrev CMD_COMPOSER_ENABLED : Fld := ⟨.CMD_COMPOSER, 63, 63⟩
abbrev CMD_COMPOSER_PENDING : Fld := ⟨.CMD_COMPOSER, 48, 32⟩
abbrev CMD_COMPOSER_ACTIVE : Fld := ⟨.CMD_COMPOSER, 14, 0⟩
abbrev CMD_COMPOSER_STEP_DEFERRED : Fld := ⟨.CMD_COMPOSER_STEP, 63, 32⟩
abbrev CMD_COMPOSER_STEP_STEP : Fld := ⟨.CMD_COMPOSER_STEP, 31, 0⟩
abbrev AUD_SEAL_REQ_ADDR : Fld := ⟨.AUD_SEAL_REQ, 63, 6⟩
abbrev AUD_SEAL_STATUS_CAIRN : Fld := ⟨.AUD_SEAL_STATUS, 63, 16⟩
abbrev AUD_SEAL_STATUS_STATUS : Fld := ⟨.AUD_SEAL_STATUS, 15, 8⟩
abbrev AUD_SEAL_STATUS_BUSY : Fld := ⟨.AUD_SEAL_STATUS, 0, 0⟩
abbrev AUD_CAIRN_SEQ_SEQ : Fld := ⟨.AUD_CAIRN_SEQ, 63, 0⟩
abbrev AUD_BYTES_BYTES : Fld := ⟨.AUD_BYTES, 63, 0⟩
abbrev AUD_LS_CTRL_ENABLE : Fld := ⟨.AUD_LS_CTRL, 63, 63⟩
abbrev AUD_LS_CTRL_RELEASE : Fld := ⟨.AUD_LS_CTRL, 62, 62⟩
abbrev AUD_LS_CTRL_EVERY : Fld := ⟨.AUD_LS_CTRL, 15, 0⟩
abbrev AUD_LS_EXTENTS_COUNT : Fld := ⟨.AUD_LS_EXTENTS, 63, 48⟩
abbrev AUD_LS_EXTENTS_LIST : Fld := ⟨.AUD_LS_EXTENTS, 47, 0⟩
abbrev AUD_LS_TREE_TREE : Fld := ⟨.AUD_LS_TREE, 47, 0⟩
abbrev AUD_LS_OUTBOX_ADDR : Fld := ⟨.AUD_LS_OUTBOX, 63, 12⟩
abbrev AUD_LS_STATUS_CHECKPOINT : Fld := ⟨.AUD_LS_STATUS, 63, 32⟩
abbrev AUD_LS_STATUS_DISCARDS : Fld := ⟨.AUD_LS_STATUS, 31, 24⟩
abbrev AUD_LS_STATUS_STATUS : Fld := ⟨.AUD_LS_STATUS, 23, 16⟩
abbrev AUD_LS_STATUS_OUT_COUNT : Fld := ⟨.AUD_LS_STATUS, 15, 8⟩
abbrev AUD_LS_STATUS_STATE : Fld := ⟨.AUD_LS_STATUS, 2, 0⟩
abbrev AUD_LS_DIFF_VALID : Fld := ⟨.AUD_LS_DIFF, 63, 63⟩
abbrev AUD_LS_DIFF_EXACT : Fld := ⟨.AUD_LS_DIFF, 62, 62⟩
abbrev AUD_LS_DIFF_OFFSET : Fld := ⟨.AUD_LS_DIFF, 47, 0⟩
abbrev AUD_LS_INBOX_WORD : Fld := ⟨.AUD_LS_INBOX, 63, 0⟩
abbrev BC_CTRL_REMOVE : Fld := ⟨.BC_CTRL, 2, 2⟩
abbrev BC_CTRL_HOLD : Fld := ⟨.BC_CTRL, 1, 1⟩
abbrev BC_CTRL_STANDBY : Fld := ⟨.BC_CTRL, 0, 0⟩
abbrev BC_STATE_REFUSED : Fld := ⟨.BC_STATE, 15, 8⟩
abbrev BC_STATE_REMOVE_READY : Fld := ⟨.BC_STATE, 5, 5⟩
abbrev BC_STATE_BOOT : Fld := ⟨.BC_STATE, 4, 4⟩
abbrev BC_STATE_DEVICE : Fld := ⟨.BC_STATE, 2, 0⟩
abbrev BC_POWER_LIMIT_LIMIT_W : Fld := ⟨.BC_POWER_LIMIT, 11, 0⟩
abbrev BC_POWER_INPUT_MV : Fld := ⟨.BC_POWER, 47, 32⟩
abbrev BC_POWER_PACKAGE_W : Fld := ⟨.BC_POWER, 27, 16⟩
abbrev BC_POWER_MODULE_W : Fld := ⟨.BC_POWER, 11, 0⟩
abbrev BC_THROTTLE_EVENTS : Fld := ⟨.BC_THROTTLE, 63, 32⟩
abbrev BC_THROTTLE_DDR_CAP : Fld := ⟨.BC_THROTTLE, 9, 8⟩
abbrev BC_THROTTLE_POWER_STEP : Fld := ⟨.BC_THROTTLE, 3, 0⟩
abbrev BC_THERMAL_TRIPS : Fld := ⟨.BC_THERMAL, 63, 48⟩
abbrev BC_THERMAL_HOT : Fld := ⟨.BC_THERMAL, 32, 32⟩
abbrev BC_THERMAL_HOT_DIE : Fld := ⟨.BC_THERMAL, 27, 24⟩
abbrev BC_THERMAL_DIMM_MAX : Fld := ⟨.BC_THERMAL, 23, 16⟩
abbrev BC_THERMAL_JMAX : Fld := ⟨.BC_THERMAL, 7, 0⟩
abbrev BC_IDLE_DROWSY_US : Fld := ⟨.BC_IDLE, 19, 0⟩
abbrev BC_CLUSTER_THERMAL : Fld := ⟨.BC_CLUSTER, 12, 12⟩
abbrev BC_CLUSTER_STEP : Fld := ⟨.BC_CLUSTER, 11, 8⟩
abbrev BC_CLUSTER_STATE : Fld := ⟨.BC_CLUSTER, 1, 0⟩
abbrev ID_IDENT_PART : Fld := ⟨.ID_IDENT, 47, 32⟩
abbrev ID_IDENT_STEPPING : Fld := ⟨.ID_IDENT, 15, 8⟩
abbrev ID_VUOLA_SVN : Fld := ⟨.ID_VUOLA, 63, 32⟩
abbrev ID_VUOLA_VERSION : Fld := ⟨.ID_VUOLA, 31, 0⟩
abbrev ID_CLUSTERS_CLUSTERS : Fld := ⟨.ID_CLUSTERS, 63, 0⟩
abbrev ID_CORES_CORES : Fld := ⟨.ID_CORES, 63, 0⟩
abbrev ID_ATT_KEYHASH_HASH : Fld := ⟨.ID_ATT_KEYHASH, 63, 0⟩
abbrev BC_BOOT_CFG_COUNTER : Fld := ⟨.BC_BOOT, 63, 48⟩
abbrev BC_BOOT_STATUS : Fld := ⟨.BC_BOOT, 47, 40⟩
abbrev BC_BOOT_CFG_SLOT : Fld := ⟨.BC_BOOT, 33, 33⟩
abbrev BC_BOOT_IMG_SLOT : Fld := ⟨.BC_BOOT, 32, 32⟩
abbrev BC_BOOT_IMG_COUNTER : Fld := ⟨.BC_BOOT, 31, 0⟩
abbrev BC_QUOTE_REQ_ADDR : Fld := ⟨.BC_QUOTE_REQ, 63, 6⟩
abbrev BC_QUOTE_STATUS_STATUS : Fld := ⟨.BC_QUOTE_STATUS, 15, 8⟩
abbrev BC_QUOTE_STATUS_BUSY : Fld := ⟨.BC_QUOTE_STATUS, 0, 0⟩
abbrev BC_MGMT_REJECTED : Fld := ⟨.BC_MGMT, 63, 32⟩
abbrev BC_MGMT_OPEN : Fld := ⟨.BC_MGMT, 3, 0⟩
abbrev BC_TIME_TIME : Fld := ⟨.BC_TIME, 63, 0⟩
abbrev BC_TIME_CTRL_ENABLE : Fld := ⟨.BC_TIME_CTRL, 63, 63⟩
abbrev BC_TIME_CTRL_TIMEOUT_MS : Fld := ⟨.BC_TIME_CTRL, 47, 32⟩
abbrev BC_TIME_CTRL_DOMAIN : Fld := ⟨.BC_TIME_CTRL, 23, 16⟩
abbrev BC_TIME_CTRL_GM_ADDR : Fld := ⟨.BC_TIME_CTRL, 15, 0⟩
abbrev BC_TIME_STATUS_HOLDOVER : Fld := ⟨.BC_TIME_STATUS, 33, 33⟩
abbrev BC_TIME_STATUS_SYNCED : Fld := ⟨.BC_TIME_STATUS, 32, 32⟩
abbrev BC_TIME_STATUS_OFFSET : Fld := ⟨.BC_TIME_STATUS, 31, 0⟩
abbrev ERR_RING_BASE_ADDR : Fld := ⟨.ERR_RING_BASE, 63, 12⟩
abbrev ERR_RING_CFG_ENABLE : Fld := ⟨.ERR_RING_CFG, 63, 63⟩
abbrev ERR_RING_CFG_MODERATION_US : Fld := ⟨.ERR_RING_CFG, 39, 24⟩
abbrev ERR_RING_CFG_MIN_CLASS : Fld := ⟨.ERR_RING_CFG, 18, 16⟩
abbrev ERR_RING_CFG_VECTOR : Fld := ⟨.ERR_RING_CFG, 13, 8⟩
abbrev ERR_RING_CFG_ENTRIES_LOG2 : Fld := ⟨.ERR_RING_CFG, 4, 0⟩
abbrev ERR_RING_HEAD_HEAD : Fld := ⟨.ERR_RING_HEAD, 31, 0⟩
abbrev ERR_RING_TAIL_TAIL : Fld := ⟨.ERR_RING_TAIL, 31, 0⟩
abbrev ERR_RING_LOST_LOST : Fld := ⟨.ERR_RING_LOST, 63, 0⟩
abbrev ERR_POLICY_CE_THRESHOLD : Fld := ⟨.ERR_POLICY, 31, 16⟩
abbrev ERR_POLICY_CE_EACH : Fld := ⟨.ERR_POLICY, 3, 3⟩
abbrev ERR_POLICY_CLASS_MASK : Fld := ⟨.ERR_POLICY, 2, 0⟩
abbrev ERR_RESET_BASECAMP : Fld := ⟨.ERR_RESET, 18, 18⟩
abbrev ERR_RESET_DEVICE : Fld := ⟨.ERR_RESET, 17, 17⟩
abbrev ERR_RESET_COMPUTE : Fld := ⟨.ERR_RESET, 16, 16⟩
abbrev ERR_RESET_DIES : Fld := ⟨.ERR_RESET, 7, 0⟩
abbrev ERR_RESET_STATUS_DEVICE_RESETS : Fld := ⟨.ERR_RESET_STATUS, 63, 32⟩
abbrev ERR_RESET_STATUS_LAST_TRIGGER : Fld := ⟨.ERR_RESET_STATUS, 15, 8⟩
abbrev ERR_RESET_STATUS_LAST_KIND : Fld := ⟨.ERR_RESET_STATUS, 2, 0⟩
abbrev ERR_BELAY_QUERY_INDEX : Fld := ⟨.ERR_BELAY_QUERY, 11, 0⟩
abbrev ERR_BELAY_VALUE_VALUE : Fld := ⟨.ERR_BELAY_VALUE, 63, 0⟩
abbrev ERR_BELAY_SIGNALS_SINCE_SET : Fld := ⟨.ERR_BELAY_SIGNALS, 63, 0⟩
abbrev ERR_CLASS_COUNT_COUNT : Fld := ⟨.ERR_CLASS_COUNT, 63, 0⟩
abbrev ID_HOST_LINK_FLIT : Fld := ⟨.ID_HOST_LINK, 16, 16⟩
abbrev ID_HOST_LINK_WIDTH : Fld := ⟨.ID_HOST_LINK, 12, 8⟩
abbrev ID_HOST_LINK_GEN : Fld := ⟨.ID_HOST_LINK, 2, 0⟩
abbrev ID_ADDR_PARITY_OK : Fld := ⟨.ID_ADDR, 16, 16⟩
abbrev ID_ADDR_ADDR : Fld := ⟨.ID_ADDR, 15, 0⟩
abbrev BC_BAR4_WINDOW_APERTURE_LOG2 : Fld := ⟨.BC_BAR4_WINDOW, 39, 32⟩
abbrev BC_BAR4_WINDOW_WINDOW : Fld := ⟨.BC_BAR4_WINDOW, 8, 0⟩

end F

end Sys2Proof.Machine
end

