-- ==== Sys2Proof/WellFormed.lean ====
section
/-! DEFINITION. When a command is well formed: every operand names a unit the device has (R16, R17, R97, R118, R172,
R213, R372, R383), and every operand that the spec gives a length or a range has it. A command that is not well formed
names nothing of the device; its meaning leaves the state as it stands. -/

namespace Sys2Proof

/-- A requester names one of the 16 virtual functions (R485). -/
def Requester.wf : Requester → Bool
  | .vf v => decide (v < 16)
  | _ => true

/-- A record source names one of the 64 command queues (R383). -/
def CmdSrc.wf : CmdSrc → Bool
  | .window q => decide (q < 64)
  | .instr => true

/-- A buffer-pool client names one of the 8 exchange engines or a function (R377). -/
def BpmClient.wf : BpmClient → Bool
  | .xe d => decide (d < 8)
  | .fn f => f.wf

/-- The well-formedness check of a command. -/
def Instr.wf : Instr → Bool
  | .registerWrite fn _ _ _ => fn.wf
  | .latchedSetCapture fn _ _ => fn.wf
  | .nop core => decide (core < 512)
  | .alu core => decide (core < 512)
  | .addi core => decide (core < 512)
  | .andi core => decide (core < 512)
  | .ori core => decide (core < 512)
  | .xori core => decide (core < 512)
  | .shli core => decide (core < 512)
  | .shrli core => decide (core < 512)
  | .shrai core => decide (core < 512)
  | .muli core => decide (core < 512)
  | .ins16 core => decide (core < 512)
  | .li core => decide (core < 512)
  | .cmp core => decide (core < 512)
  | .plog core => decide (core < 512)
  | .ld8u core => decide (core < 512)
  | .ld16u core => decide (core < 512)
  | .ld32u core => decide (core < 512)
  | .ld64 core => decide (core < 512)
  | .ld8s core => decide (core < 512)
  | .ld16s core => decide (core < 512)
  | .ld32s core => decide (core < 512)
  | .st8 core => decide (core < 512)
  | .st16 core => decide (core < 512)
  | .st32 core => decide (core < 512)
  | .st64 core => decide (core < 512)
  | .br core => decide (core < 512)
  | .call core => decide (core < 512)
  | .jmpr core => decide (core < 512)
  | .endProgram core => decide (core < 512)
  | .icinv core => decide (core < 512)
  | .mfc core => decide (core < 512)
  | .mtc core => decide (core < 512)
  | .wait core => decide (core < 512)
  | .signal core => decide (core < 512)
  | .brd core => decide (core < 512)
  | .tld core => decide (core < 512)
  | .tst core => decide (core < 512)
  | .tset core => decide (core < 512)
  | .tget core => decide (core < 512)
  | .tadd core => decide (core < 512)
  | .engineInstructionIssue core => decide (core < 512)
  | .queueCommandIssue core => decide (core < 512)
  | .mclr core => decide (core < 512)
  | .mld core => decide (core < 512)
  | .mma core => decide (core < 512)
  | .mma24 core => decide (core < 512)
  | .mma14 core => decide (core < 512)
  | .mst core => decide (core < 512)
  | .mstc core => decide (core < 512)
  | .vadd core => decide (core < 512)
  | .vsub core => decide (core < 512)
  | .vmul core => decide (core < 512)
  | .vfma core => decide (core < 512)
  | .vdiv core => decide (core < 512)
  | .vmax core => decide (core < 512)
  | .vmin core => decide (core < 512)
  | .vabs core => decide (core < 512)
  | .vneg core => decide (core < 512)
  | .vsqrt core => decide (core < 512)
  | .vrsqrt core => decide (core < 512)
  | .vexp core => decide (core < 512)
  | .vlog core => decide (core < 512)
  | .vtanh core => decide (core < 512)
  | .vsigm core => decide (core < 512)
  | .vsilu core => decide (core < 512)
  | .vgelu core => decide (core < 512)
  | .vmuls core => decide (core < 512)
  | .vrsum core => decide (core < 512)
  | .vrmax core => decide (core < 512)
  | .vrmin core => decide (core < 512)
  | .vcvt core => decide (core < 512)
  | .vatadd core => decide (core < 512)
  | .vatmax core => decide (core < 512)
  | .minter core => decide (core < 512)
  | .munion core => decide (core < 512)
  | .mgroup core => decide (core < 512)
  | .dmove core => decide (core < 512)
  | .dcomp core => decide (core < 512)
  | .dilist core => decide (core < 512)
  | .dfill core => decide (core < 512)
  | .dhist core => decide (core < 512)
  | .route die => decide (die < 8)
  | .routeF die => decide (die < 8)
  | .exchange die => decide (die < 8)
  | .cancelBatch die => decide (die < 8)
  | .xcountReceive die => decide (die < 8)
  | .earlyCellExpire die _ => decide (die < 8)
  | .grantPhase die _ => decide (die < 8)
  | .xgrantReceive die => decide (die < 8)
  | .xcancelReceive die => decide (die < 8)
  | .bulkMessageSend die => decide (die < 8)
  | .returnMessageSend die _ => decide (die < 8)
  | .exchangeTimeout die _ => decide (die < 8)
  | .exchangeComplete die _ => decide (die < 8)
  | .portEnable fn port => fn.wf && decide (port < 16)
  | .portDisable fn port => fn.wf && decide (port < 16)
  | .trainingComplete port _ _ params _ => decide (port < 16) && decide (params.length = 32)
  | .trainingAttemptTimeout attempt => decide (attempt.port < 16)
  | .trainingPassRestart port => decide (port < 16)
  | .downHoldoffExpire port => decide (port < 16)
  | .plannedRetrain fn port => fn.wf && decide (port < 16)
  | .retrainReq port _ _ => decide (port < 16)
  | .retrainAck port => decide (port < 16)
  | .retrainComplete port => decide (port < 16)
  | .retrainTimeout port => decide (port < 16)
  | .laneDrop port lane => decide (port < 16) && decide (lane < 4)
  | .flitReceive port lanes _ => decide (port < 16) && decide (lanes.length ≤ 4)
  | .nakRepeat port => decide (port < 16)
  | .nakReceive port _ => decide (port < 16)
  | .replayTimerExpire port => decide (port < 16)
  | .lossOfSignal port => decide (port < 16)
  | .downNoticeReceive port _ => decide (port < 16)
  | .linkPacketReceive port => decide (port < 16)
  | .switchAdmit inp vc => decide (inp < 43) && decide (vc < 6)
  | .outputSchedule out => decide (out < 43)
  | .calendarSlotStart port => decide (port < 16)
  | .congestionSample => true
  | .recoveryEnd => true
  | .peakClear fn out => fn.wf && decide (out < 27)
  | .geometryWrite fn _ => fn.wf
  | .ringNoticeReceive => true
  | .ringNoticeRepeat _ => true
  | .pathEpochBump fn => fn.wf
  | .messageStart => true
  | .packetArrive unit => decide (16 ≤ unit ∧ unit < 27 ∨ 32 ≤ unit ∧ unit < 48)
  | .mackReceive => true
  | .messageTimeout _ cred => decide (cred < 16)
  | .cackReceive => true
  | .cellTimeout _ _ _ => true
  | .msgEntryExpire _ cred => decide (cred < 16)
  | .trafficHoldExpire => true
  | .unreachableClear fn _ => fn.wf
  | .planFlip plan => decide (plan < 64)
  | .slotDrainComplete port slot => decide (port < 16) && decide (slot < 256)
  | .collectiveStart chan => decide (chan < 16)
  | .collStepSend chan level sub _ _ _ => decide (chan < 16) && decide (level < 4) && decide (sub < 4)
  | .collMessageProcess port => decide (port < 16)
  | .colCreditReceive port => decide (port < 16)
  | .colAbortReceive port => decide (port < 16)
  | .collWatchdogExpire chan level sub _ => decide (chan < 16) && decide (level < 4) && decide (sub < 4)
  | .collComplete chan => decide (chan < 16)
  | .channelOwn fn chan owner => fn.wf && decide (chan < 16) && decide (owner < 16)
  | .channelAbort fn chan => fn.wf && decide (chan < 16)
  | .commandWindowWrite fn _ _ => fn.wf
  | .mirrorWrite q => decide (q < 64)
  | .queueEnable fn q => fn.wf && decide (q < 64)
  | .queueDisable fn q => fn.wf && decide (q < 64)
  | .nopCommand src => src.wf
  | .ropeCreate src => src.wf
  | .ropeStart src => src.wf
  | .ropeSuspend src => src.wf
  | .suspendSave rope => decide (rope < 16)
  | .ropeResume src => src.wf
  | .resumeComplete rope => decide (rope < 16)
  | .ropeReset src => src.wf
  | .ropeDestroy src => src.wf
  | .tableWrite src => src.wf
  | .tableWriteDeferred => true
  | .tableCommit src => src.wf
  | .copyBackComplete _ => true
  | .collective src => src.wf
  | .collAbort src => src.wf
  | .stepMark src => src.wf
  | .stepBoundary rope => decide (rope < 16)
  | .composeCfg src => src.wf
  | .seqAdd src => src.wf
  | .seqCancel src => src.wf
  | .composerStep rope => decide (rope < 16)
  | .programComplete rope => decide (rope < 16)
  | .ddr5ChannelTrained ch _ _ => decide (ch < 24)
  | .patrolScrubRead m _ word => decide (m < 2) && decide (word < 2 ^ 63)
  | .pageCommand fn _ => fn.wf
  | .pageScrubComplete => true
  | .scheduleWrite fn rope _ => fn.wf && decide (rope < 16)
  | .prefetchDemand die _ => decide (die < 8)
  | .prefetchPieceIssue die => decide (die < 8)
  | .speculativeFill die => decide (die < 8)
  | .pieceLand die _ => decide (die < 8)
  | .lendWindowOpen fn win => fn.wf && decide (win < 16)
  | .lendWindowClose fn win => fn.wf && decide (win < 16)
  | .mreadReceive m => decide (m < 2)
  | .bpmAllocate who pool => who.wf && decide (pool < 64)
  | .bpmFree who _ => who.wf
  | .bpmHandOff who _ _ => who.wf
  | .bpmRefill pool => decide (pool < 64)
  | .poolEnable fn pool => fn.wf && decide (pool < 64)
  | .poolInitComplete pool => decide (pool < 64)
  | .poolDisable fn pool => fn.wf && decide (pool < 64)
  | .poolReclaim fn pool => fn.wf && decide (pool < 64)
  | .sealRequest fn _ => fn.wf
  | .sealRun => true
  | .sealComplete => true
  | .lockstepArm fn rope => fn.wf && decide (rope < 16)
  | .lockstepDisarm fn rope => fn.wf && decide (rope < 16)
  | .lockstepRelease fn rope => fn.wf && decide (rope < 16)
  | .checkpointDigestDone rope => decide (rope < 16)
  | .lockstepInboxWrite fn rope idx _ => fn.wf && decide (rope < 16) && decide (idx < 32)
  | .deviceWakeActive => true
  | .deviceIdleTimeout => true
  | .standbyEnter fn => fn.wf
  | .standbyExit fn => fn.wf
  | .holdRelease fn => fn.wf
  | .clusterIdleTimeout cluster => decide (cluster < 64)
  | .powerSample _ _ _ => true
  | .powerDecision => true
  | .thermalSample dies _ _ _ => decide (dies.length = 13)
  | .hotSwapOpen => true
  | .inputLoss => true
  | .insertion modules => decide (modules.length = 24)
  | .bootRomStart _ _ => true
  | .vuolaStart => true
  | .orderlyRemoval fn => fn.wf
  | .hotplugAttentionRequest => true
  | .removalComplete => true
  | .quoteRequest fn _ => fn.wf
  | .quoteComplete => true
  | .mctpControl _ => true
  | .pldmBase _ => true
  | .pldmFwTransfer _ _ _ => true
  | .pldmFwVerify => true
  | .pldmFwActivate => true
  | .getCert _ len => decide (len ≤ 1024)
  | .getQuote nonce _ => decide (nonce.length = 64)
  | .setManagers hashes => decide (hashes.length ≤ 4) && hashes.all (fun h => decide (h.length = 64))
  | .kemInit => true
  | .mop => true
  | .sessionExpire session => decide (session < 4)
  | .syncReceive => true
  | .syncTimeout => true
  | .eventRingEnable fn => fn.wf
  | .moderationExpire => true
  | .belayQuery fn _ => fn.wf
  | .computeReset fn _ => fn.wf
  | .vuolaComputeReset _ => true
  | .deviceReset fn => fn.wf
  | .basecampReset fn => fn.wf
  | .pfFunctionLevelReset => true
  | .vfFunctionLevelReset vf => decide (vf < 16)
  | .pcieHotReset => true
  | .perstAssert => true
  | .watchdogExpire _ => true
  | .numvfsLower n => decide (n ≤ 16)
  | .pwrDisAssert => true
  | .pwrDisDeassert => true
  | .flashExtAssert => true
  | .flashExtDeassert => true
  | .bar4Read _ _ => true
  | .bar4Write _ _ _ => true
  | .perstDeassert _ _ => true
  | .inputRestored => true
  | .numvfsRaise n => decide (n ≤ 16)
  | .bar4Resize log2 => decide (34 ≤ log2 ∧ log2 ≤ 43)

end Sys2Proof
end

