-- ==== Sys2Proof/Machine/Ops.lean ====
section
/-! DEFINITION. The named operations every command is made of: statuses (R468), event records (R469 to R473), MSI-X
(R490), ropes and their cores (R252, R253, R395), belays (R260 to R262), the rope stop (R264 to R267), clusters
(R436, R437). -/

namespace Sys2Proof.Machine

open Sys2Proof

/-- Run a command that names a unit of the device: what earlier commands sent is gone (log 4). One that names none leaves the
rest as it stands (log 10). -/
def runIf (ok : Bool) (f : State → State) (s : State) : Host.Outcome State Fault Refusal :=
  .next (if ok then f { s with out := [] } else { s with out := [] })

/-- Who may write a BAR0 offset: the physical function everything; the manager the basecamp block but for BC_BAR4_WINDOW and
BC_QUOTE_REQ, and the link and switch blocks (R464); a virtual function only the registers that act for it (R487). -/
def mayWrite (fn : Requester) (off : Nat) : Bool :=
  match fn with
  | .pf => true
  | .manager => (decide (0x100000 ≤ off ∧ off < 0x200000) && decide (off / 8 ≠ 0x102000 / 8) && decide (off / 8 ≠ 0x101008 / 8)) ||
      decide (0x600000 ≤ off ∧ off < 0x800000)
  | .vf _ => decide (off / 8 = 0x901000 / 8) || decide (off / 8 = 0xA00000 / 8) || decide (off / 8 = 0x101008 / 8) ||
      decide (0xC00000 ≤ off ∧ off < 0xC01008)

/-- The block at a BAR0 offset responds: in STANDBY only identity and capabilities and the basecamp do, in OFF none, and none while
FLASH_EXT# holds the basecamp stopped (R22, R434, R493). -/
def blockUp (off : Nat) (s : State) : Bool :=
  ! s.pins.flashOut && (decide (2 ≤ getF F.BC_STATE_DEVICE [] s) || (decide (getF F.BC_STATE_DEVICE [] s = 1) && decide (off < 0x200000)))

/-- Whether an enabled virtual function, or another requester, makes a register write that takes effect (R434, R485, R487). -/
def fnAllowed (fn : Requester) (off : Nat) (s : State) : Bool :=
  fn.wf && mayWrite fn off && blockUp off s && (match fn with | .vf v => decide (v < s.pcie.numVfs) | _ => true)

/-! The status codes of R468. -/

abbrev St.ok : Nat := 0x00
abbrev St.poolEmpty : Nat := 0x01
abbrev St.cancelled : Nat := 0x02
abbrev St.declined : Nat := 0x03
abbrev St.memberLost : Nat := 0x04
abbrev St.stalled : Nat := 0x05
abbrev St.nanSeen : Nat := 0x06
abbrev St.structFault : Nat := 0x07
abbrev St.indexFault : Nat := 0x08
abbrev St.quotaExceeded : Nat := 0x09
abbrev St.slotsBusy : Nat := 0x0A
abbrev St.lenderLost : Nat := 0x0B
abbrev St.poison : Nat := 0x0C
abbrev St.timeout : Nat := 0x0D
abbrev St.ownerFault : Nat := 0x0E
abbrev St.digestMismatch : Nat := 0x0F
abbrev St.notPermitted : Nat := 0x10
abbrev St.windowOverflow : Nat := 0x11

/-- A free word, never used twice (log 5). -/
def takeFree (s : State) : Word × State := (Config.freeWord s.fresh, { s with fresh := s.fresh + 1 })

/-- Send something out of the device (log 4). -/
def emit (o : Out) (s : State) : State := { s with out := s.out ++ [o] }

/-- Device time (R465). -/
def timeNow (s : State) : Word := getR .BC_TIME [] s

/-! MSI-X (R490). -/

/-- The index of a function's own state: virtual functions 0 to 15, the physical function 16, the manager 17. -/
def fnIdx : Requester → Nat
  | .pf => 16
  | .vf v => v
  | .manager => 17

/-- What an unlisted word of an MSI-X table holds: entries start masked, as PCIe gives (log 9). -/
def msixDefault (k : Nat) : Word := if k < 128 ∧ k % 2 = 1 then 0x100000000 else 0

/-- Word `k` of function `f`'s MSI-X structures: two words for each of 64 entries, then the pending bits in word 128. -/
def msixWord (f k : Nat) (s : State) : Word := tget (msixDefault k) s.pcie.msix (f * 256 + k)

/-- Write a word of a function's MSI-X structures. -/
def setMsixWord (f k : Nat) (v : Word) (s : State) : State :=
  { s with pcie := { s.pcie with msix := tset (msixDefault k) s.pcie.msix (f * 256 + k) v } }

/-- Raise vector `v` of function `f`: a masked entry only sets its pending bit (log 9). -/
def raiseVector (f v : Nat) (s : State) : State :=
  if (msixWord f (2 * v + 1) s).getLsbD 32 then
    setMsixWord f 128 (msixWord f 128 s ||| BitVec.ofNat 64 (2 ^ v)) s
  else emit (.msix f v) s

/-! The event ring (R469 to R473). -/

/-- What an event record says (R469). -/
structure Event where
  status : Nat
  cls : Nat
  source : Nat
  rope : Option Nat := none
  tag : Nat := 0
  unit : Nat := 0
  addr : Nat := 0
  detail : List Byte := []

/-- The 64 bytes of an event record (R469). -/
def eventBytes (e : Event) (seq : Nat) (phase : Bool) (time : Word) : List Byte :=
  natLe 4 seq ++ [BitVec.ofNat 8 e.status, BitVec.ofNat 8 e.cls, BitVec.ofNat 8 e.source,
    (match e.rope with | some r => BitVec.ofNat 8 (r % 16 + 16) | none => 0)] ++
  natLe 8 time.toNat ++ natLe 4 e.tag ++ natLe 4 e.unit ++ natLe 8 e.addr ++
  (e.detail ++ zeros 16).take 16 ++ zeros 15 ++ [if phase then 0x80 else 0]

/-- The ring in force has size 2 ^ log2 (R469). -/
def ringSize (s : State) : Nat := 2 ^ s.events.log2

/-- Raise the ring's vector for a qualifying record, at most once in a moderation period (R473). -/
def raiseEventVector (cls : Nat) (s : State) : State :=
  if cls < getF F.ERR_RING_CFG_MIN_CLASS [] s then s
  else if s.events.moderating then { s with events := { s.events with again := true } }
  else
    let s := raiseVector 16 (getF F.ERR_RING_CFG_VECTOR [] s) s
    if getF F.ERR_RING_CFG_MODERATION_US [] s = 0 then s
    else { s with events := { s.events with moderating := true } }

/-- Write, mask or lose one event record (R469, R472, R473). -/
def raiseEvent (e : Event) (s : State) : State :=
  let s := setR .ERR_CLASS_COUNT [e.cls] (getR .ERR_CLASS_COUNT [e.cls] s + 1) s
  if getF F.ERR_RING_CFG_ENABLE [] s = 0 then s
  else if e.cls < 3 && (getF F.ERR_POLICY_CLASS_MASK [] s).testBit e.cls then s
  else
    let head := getF F.ERR_RING_HEAD_HEAD [] s
    let tail := getF F.ERR_RING_TAIL_TAIL [] s
    if ringSize s ≤ (head + 2 ^ 32 - tail) % 2 ^ 32 then
      setR .ERR_RING_LOST [] (getR .ERR_RING_LOST [] s + 1) s
    else
      let bs := eventBytes e head (decide (head / ringSize s % 2 = 0)) (timeNow s)
      let s := hostWrite (s.events.base + head % ringSize s * 64) bs s
      raiseEventVector e.cls (setF F.ERR_RING_HEAD_HEAD [] (head + 1) s)

/-! Ropes, clusters and cores. -/

abbrev RopeSt.none : Nat := 0
abbrev RopeSt.ready : Nat := 1
abbrev RopeSt.running : Nat := 2
abbrev RopeSt.stopped : Nat := 3
abbrev RopeSt.suspending : Nat := 4
abbrev RopeSt.suspended : Nat := 5
abbrev RopeSt.resuming : Nat := 6

/-- The state of rope `r` (R395). -/
def ropeState (r : Nat) (s : State) : Nat := getF F.CMD_ROPE_STATE_STATE [r] s

/-- Give rope `r` a state. -/
def setRopeState (r v : Nat) (s : State) : State := setF F.CMD_ROPE_STATE_STATE [r] v s

/-- What the device keeps of rope `r`. -/
def ropeOf (r : Nat) (s : State) : Rope := tget {} s.ropes r

/-- Change what the device keeps of rope `r`. -/
def modRope (r : Nat) (f : Rope → Rope) (s : State) : State := { s with ropes := tmod {} s.ropes r f }

/-- The state of physical core `c`. -/
def coreOf (c : Nat) (s : State) : Core := tget {} s.cores c

/-- Change physical core `c`. -/
def modCore (c : Nat) (f : Core → Core) (s : State) : State := { s with cores := tmod {} s.cores c f }

/-- The physical clusters of rope `r`, ascending: its rope clusters (R253). -/
def ropeClusters (r : Nat) (s : State) : List Nat :=
  if ropeState r s = RopeSt.none then []
  else (List.range 64).filter (fun q => (getR .CMD_ROPE_CLUSTERS [r] s).getLsbD q)

/-- The compute dies of rope `r`, ascending: its rope dies (R253, R398). -/
def ropeDies (r : Nat) (s : State) : List Nat :=
  (List.range 8).filter (fun d => (ropeClusters r s).any (fun q => decide (q / 8 = d)))

/-- The place of a number in a list. -/
def indexOf (l : List Nat) (x : Nat) : Option Nat := findIdxFrom (fun y => decide (y = x)) l 0

/-- A core slot the configuration record enables: its cluster is enabled, and it is in the cluster's mask (R253, R451). -/
def coreEnabled (c : Nat) (s : State) : Bool :=
  (getR .ID_CLUSTERS [] s).getLsbD (c / 8) && (getR .ID_CORES [c / 64] s).getLsbD (c % 64)

/-- The rope that holds physical cluster `q`. -/
def ropeOfCluster (q : Nat) (s : State) : Option Nat :=
  (List.range 16).find? (fun r => (ropeClusters r s).contains q)

/-- The rope that holds physical core `c`. -/
def ropeOfCore (c : Nat) (s : State) : Option Nat := if c < 512 then ropeOfCluster (c / 8) s else none

/-- The rope core index of physical core `c` in rope `r` (R253). -/
def ropeCoreIdx (r c : Nat) (s : State) : Nat := ((indexOf (ropeClusters r s) (c / 8)).getD 0) * 8 + c % 8

/-- The physical core of rope core `k` of rope `r`, if the slot exists and is enabled (R253). -/
def physCore (r k : Nat) (s : State) : Option Nat :=
  match (ropeClusters r s)[k / 8]? with
  | some q => if coreEnabled (q * 8 + k % 8) s then some (q * 8 + k % 8) else none
  | none => none

/-- The enabled physical cores of rope `r`, by rope core index. -/
def ropeCores (r : Nat) (s : State) : List Nat :=
  (ropeClusters r s).flatMap (fun q => ((List.range 8).map (fun k => q * 8 + k)).filter (fun c => coreEnabled c s))

/-- The job of rope `r`. -/
def ropeJob (r : Nat) (s : State) : Nat := getF F.CMD_ROPE_STATE_JOB [r] s

/-- The rope of a job on this device. -/
def jobRope (job : Nat) (s : State) : Option Nat :=
  (List.range 16).find? (fun r => decide (ropeState r s ≠ RopeSt.none) && decide (ropeJob r s = job))

/-- The rope bound to virtual function `v`. -/
def vfRope (v : Nat) (s : State) : Option Nat :=
  (List.range 16).find? (fun r => decide (ropeState r s ≠ RopeSt.none) && decide (getF F.CMD_ROPE_STATE_VF [r] s = v))

/-- Reproducible mode of rope `r` (R396). -/
def repro (r : Nat) (s : State) : Bool := decide (getF F.CMD_ROPE_STATE_REPRO [r] s = 1)

/-! Device states (R22). -/

abbrev Dv.off : Nat := 0
abbrev Dv.standby : Nat := 1
abbrev Dv.idle : Nat := 2
abbrev Dv.lender : Nat := 3
abbrev Dv.active : Nat := 4

/-- The device state. -/
def deviceState (s : State) : Nat := getF F.BC_STATE_DEVICE [] s

/-- Give the device a state. -/
def setDeviceState (v : Nat) (s : State) : State := setF F.BC_STATE_DEVICE [] v s

/-- Work that needs a cluster or DDR5 has come: ACTIVE (R433). -/
def wakeActive (s : State) : State :=
  if deviceState s = Dv.idle ∨ deviceState s = Dv.lender then setDeviceState Dv.active s else s

/-! Clusters (R436, R437). -/

abbrev Cl.gated : Nat := 0
abbrev Cl.drowsy : Nat := 1
abbrev Cl.running : Nat := 2

/-- The state of cluster `q`. -/
def clusterState (q : Nat) (s : State) : Nat := getF F.BC_CLUSTER_STATE [q] s

/-- Zero the stores and clear the cores of a cluster that wakes from GATED (R437). -/
def freshCluster (q : Nat) (s : State) : State :=
  let m := forN 8 (s.mem.clear (clusterPlace q 0) (2 ^ 24)) (fun k m => m.clear (corePlace (q * 8 + k) 0) (2 ^ 21))
  let s := { s with mem := m }
  forN 8 s (fun k => modCore (q * 8 + k) (fun c => { c with acc := [], terms := 0, tileNan := false, tileSpan := false }))

/-- Wake a cluster for a command that targets it: the device is then ACTIVE (R23, R433, R436). -/
def wakeCluster (q : Nat) (s : State) : State :=
  if clusterState q s = Cl.running then s
  else wakeActive (setF F.BC_CLUSTER_STATE [q] Cl.running (if clusterState q s = Cl.gated then freshCluster q s else s))

/-- Gate a cluster: its stores and its cores then hold nothing (R437). -/
def gateCluster (q : Nat) (s : State) : State :=
  let s := freshCluster q s
  let s := forN 8 s (fun k => modCore (q * 8 + k) (fun _ => {}))
  setF F.BC_CLUSTER_STATE [q] Cl.gated s

/-! Belays (R260 to R262). -/

/-- The largest counter value. -/
abbrev wordMax : Word := 0xFFFFFFFFFFFFFFFF

/-- Do something when a condition holds. -/
def doIf (b : Bool) (f : State → State) (s : State) : State := if b then f s else s

/-- A word with the bits under a mask replaced. -/
def mix (old m d : Word) : Word := (old &&& ~~~m) ||| (d &&& m)

/-- The value of device belay `i`. -/
def devBelay (i : Nat) (s : State) : Word := (tget ((0 : Word), (0 : Word)) s.belays i).1

/-- Increments applied to device belay `i` since its last set (R481). -/
def devSince (i : Nat) (s : State) : Word := (tget ((0 : Word), (0 : Word)) s.belays i).2

/-- An increment, absorbed at 2^64 − 1 (R262). -/
def satInc (v : Word) : Word := if v = wordMax then v else v + 1

/-- The value of belay `b` of core `c`. -/
def coreBelay (c b : Nat) (s : State) : Word := tget 0 (coreOf c s).belays b

/-- A wait condition of core `c` holds (R261). -/
def condHolds (c : Nat) (k : Cond) (s : State) : Bool :=
  decide (k.thr.toNat ≤ (if k.device then devBelay k.idx s else coreBelay c k.idx s).toNat)

/-- A DROWSY cluster wakes when the wait of one of its sequencers is satisfied (R436). -/
def wakeWaiting (s : State) : State :=
  forList s.cores s (fun e s =>
    if decide (e.1 < 512) && e.2.running && ! e.2.waiting.isEmpty && e.2.waiting.all (fun k => condHolds e.1 k s) &&
        decide (clusterState (e.1 / 8) s = Cl.drowsy) then
      setF F.BC_CLUSTER_STATE [e.1 / 8] Cl.running s
    else s)

/-- Set device belay `i` (R262). -/
def setDevBelay (i : Nat) (v : Word) (s : State) : State :=
  wakeWaiting { s with belays := tset ((0 : Word), (0 : Word)) s.belays i (v, 0) }

/-- Increment device belay `i` (R262). -/
def incDevBelay (i : Nat) (s : State) : State :=
  wakeWaiting { s with belays := tset ((0 : Word), (0 : Word)) s.belays i (satInc (devBelay i s), satInc (devSince i s)) }

/-- Set belay `b` of core `c`. -/
def setCoreBelay (c b : Nat) (v : Word) (s : State) : State :=
  wakeWaiting (modCore c (fun k => { k with belays := tset 0 k.belays b v }) s)

/-- Increment belay `b` of core `c`. -/
def incCoreBelay (c b : Nat) (s : State) : State :=
  wakeWaiting (modCore c (fun k => { k with belays := tset 0 k.belays b (satInc (tget 0 k.belays b)) }) s)

/-- Apply a belay signal: a device belay, or belay `i % 64` of core `i / 64`. -/
def applySignal (device : Bool) (i : Nat) (set : Bool) (v : Word) (s : State) : State :=
  match device, set with
  | true, true => setDevBelay i v s
  | true, false => incDevBelay i s
  | false, true => setCoreBelay (i / 64) (i % 64) v s
  | false, false => incCoreBelay (i / 64) (i % 64) s

/-- A message is a write of unit `who`. -/
def writeOf (who : Nat) : MsgUnit → Bool
  | .write w _ _ _ => decide (w = who)
  | _ => false

/-- A message is a write to lent memory. -/
def isWrite : MsgUnit → Bool
  | .write _ _ _ _ => true
  | _ => false

/-- Unit `who` has a write to lent memory that is not acknowledged (R368). -/
def writesOut (who : Nat) (s : State) : Bool :=
  s.msgs.waiting.any (fun m => writeOf who m.unit) || s.msgs.outst.any (fun m => writeOf who m.unit)

/-- Apply a signal, or hold it until its unit's writes to lent memory are acknowledged (R262, R368). -/
def signalHeld (h : HeldSig) (s : State) : State :=
  if writesOut h.who s then { s with heldSigs := s.heldSigs ++ [h] } else applySignal h.device h.idx h.set h.val s

/-- Signal for unit `who`. -/
def signalBy (who : Nat) (device : Bool) (i : Nat) (set : Bool) (v : Word) (s : State) : State :=
  signalHeld { who := who, device := device, idx := i, set := set, val := v } s

/-- A signal of unit `who` waits for its writes to be visible: its instruction has not signalled yet (R29, R270, R287). -/
def signalWaits (who : Nat) (s : State) : Bool := s.heldSigs.any (fun h => decide (h.who = who))

/-- Apply the signals that no longer wait, in order. -/
def releaseSignals (s : State) : State :=
  let t := { s with heldSigs := s.heldSigs.filter (fun h => writesOut h.who s) }
  forList (s.heldSigs.filter (fun h => ! writesOut h.who s)) t (fun h => applySignal h.device h.idx h.set h.val)

/-! The rope stop (R264 to R267). -/

/-- The 32 bytes of a stop record (R266). -/
def stopBytes (r : StopRec) : List Byte :=
  [BitVec.ofNat 8 r.status, BitVec.ofNat 8 r.source] ++ natLe 2 (r.core % 512) ++ natLe 4 r.tag.toNat ++
  natLe 8 r.pc.toNat ++ natLe 8 r.addr.toNat ++ natLe 4 r.later.toNat ++ natLe 4 r.discarded.toNat

/-- A stop record from its 32 bytes. -/
def stopOfBytes (bs : List Byte) : StopRec :=
  ⟨fieldAt bs 0 1, fieldAt bs 1 1, fieldAt bs 2 2 % 512, BitVec.ofNat 32 (fieldAt bs 4 4),
    BitVec.ofNat 48 (fieldAt bs 8 6), BitVec.ofNat 64 (fieldAt bs 16 8), BitVec.ofNat 32 (fieldAt bs 24 4),
    BitVec.ofNat 32 (fieldAt bs 28 4)⟩

/-- Instructions queued for a core's own engines. -/
def coreQueued (c : Core) : Nat := c.mxeQ.length + c.vxeQ.length + c.mgeQ.length + c.dmvQ.length

/-- Physical core `c` has completed: END has retired and its instructions have finished and signalled (R287; log 17). -/
def coreDone (c : Nat) (s : State) : Bool :=
  (coreOf c s).ended && decide (coreQueued (coreOf c s) = 0) &&
  ! s.heldSigs.any (fun h => decide (h.core = some c) || decide (h.who = c)) &&
  ! s.rtes.any (fun x => x.2.queue.any (fun d => decide (d.core = c))) &&
  ! s.xes.any (fun x => x.2.queue.any (fun d => decide (d.core = c)))

/-- A queued instruction of rope `r` that has not started. -/
def notStarted (r : Nat) (d : DieEntry) : Bool := decide (d.rope = r) && ! d.e.started

/-- Entries of a core's own queues that have not started. -/
def coreWaiting (c : Core) : Nat :=
  ((c.mxeQ ++ c.vxeQ ++ c.mgeQ ++ c.dmvQ).filter (fun e => ! e.started)).length

/-- Stop every sequencer of rope `r` and discard its queued instructions that have not started (R267, steps 2 to 4); answers how
many. One that has started, and waits for what it reads, stays to be finished. -/
def haltRope (r : Nat) (s : State) : Nat × State :=
  let cores := ropeCores r s
  let n := (cores.map (fun c => coreWaiting (coreOf c s))).sum +
    (s.rtes.map (fun e => (e.2.queue.filter (notStarted r)).length)).sum +
    (s.xes.map (fun e => (e.2.queue.filter (notStarted r)).length)).sum
  let going := fun (q : List QEntry) => q.filter (fun e => e.started)
  let s := forList cores s (fun c => modCore c (fun k =>
    { k with running := false, waiting := [], mxeQ := going k.mxeQ, vxeQ := going k.vxeQ, mgeQ := going k.mgeQ, dmvQ := going k.dmvQ }))
  let s := { s with
    rtes := tmapAll {} (fun _ e => { e with queue := e.queue.filter (fun d => ! notStarted r d) }) s.rtes,
    xes := tmapAll {} (fun _ e => { e with queue := e.queue.filter (fun d => ! notStarted r d) }) s.xes }
  let s := forN 8 s (fun d s => setF F.RTE_STATUS_QUEUED [d] (tget {} s.rtes d).queue.length s)
  let s := forN 8 s (fun d s => setF F.XE_STATUS_QUEUED [d] (tget {} s.xes d).queue.length s)
  (n, s)

/-- Every queued RTE and XE instruction of rope `r` is gone, started or not (R402). -/
def emptyDieQueues (r : Nat) (s : State) : State :=
  { s with
    rtes := tmapAll {} (fun _ e => { e with queue := e.queue.filter (fun d => d.rope ≠ r) }) s.rtes,
    xes := tmapAll {} (fun _ e => { e with queue := e.queue.filter (fun d => d.rope ≠ r) }) s.xes }

/-- A fault of rope `r` (R266, R267): the first fills the stop record, stops the rope and writes an event record; a later
one is counted. `core` is the physical core whose fault record it is. -/
def stopRope (r : Nat) (core : Option Nat) (sr : StopRec) (s : State) : State :=
  let s := match core with
    | some c => modCore c (fun k => { k with fault := some (k.fault.getD sr) }) s
    | none => s
  match (ropeOf r s).stop with
  | some old => modRope r (fun k => { k with stop := some { old with later := old.later + 1 } }) s
  | none =>
    let (n, s) := haltRope r s
    let sr := { sr with discarded := BitVec.ofNat 32 n, later := 0 }
    let s := modRope r (fun k => { k with stop := some sr }) s
    let s := if ropeState r s = RopeSt.running ∨ ropeState r s = RopeSt.ready then setRopeState r RopeSt.stopped s else s
    raiseEvent { status := sr.status, cls := 3, source := 0x01, rope := some r, tag := sr.tag.toNat,
                 addr := sr.addr.toNat, detail := (stopBytes sr).take 16 } s

/-- A queued instruction may run: its rope runs, or it has started and its rope is stopping or suspending (R267, R270). -/
def mayRun (r : Nat) (started : Bool) (s : State) : Bool :=
  decide (ropeState r s = RopeSt.running) ||
  (started && decide (ropeState r s = RopeSt.stopped ∨ ropeState r s = RopeSt.suspending))

/-- An instruction of rope `r` has started and not ended, or waits to signal: the rope's engines are not idle (R270). -/
def ropeBusy (r : Nat) (s : State) : Bool :=
  let cores := ropeCores r s
  cores.any (fun c => ((coreOf c s).mxeQ ++ (coreOf c s).vxeQ ++ (coreOf c s).mgeQ ++ (coreOf c s).dmvQ).any (fun e => e.started)) ||
  s.rtes.any (fun e => e.2.queue.any (fun d => decide (d.rope = r) && d.e.started)) ||
  s.xes.any (fun e => e.2.queue.any (fun d => decide (d.rope = r) && d.e.started)) ||
  s.heldSigs.any (fun h => match h.core with | some c => cores.contains c | none => cores.contains h.who)

/-- The tag of an instruction (R263). -/
def mkTag (ropeCore issue : Nat) : BitVec 32 := BitVec.ofNat 32 (ropeCore % 512 * 2 ^ 23 + issue % 2 ^ 23)

/-- A fault of the sequencer of core `c` of rope `r` at its PC, precise or not (R264, R369). -/
def sequencerStop (r c status addr : Nat) (s : State) : State :=
  let k := coreOf c s
  stopRope r (some c)
    ⟨status, 0, ropeCoreIdx r c s, mkTag (ropeCoreIdx r c s) k.issue.toNat, k.pc, BitVec.ofNat 64 addr, 0, 0⟩ s

/-- A precise exception of the sequencer of core `c` of rope `r` (R264). -/
def preciseException (r c status addr : Nat) (s : State) : State := sequencerStop r c status addr s

/-- An engine fault: source 1 MXE, 2 VXE, 3 MGE, 4 DMV, 5 RTE, 6 XE, 7 queue command (R265, R266). -/
def engineFault (r c source : Nat) (tag : BitVec 32) (pc : BitVec 48) (status addr : Nat) (s : State) : State :=
  stopRope r (if source < 5 then some c else none)
    ⟨status, source, ropeCoreIdx r c s, tag, pc, BitVec.ofNat 64 addr, 0, 0⟩ s

end Sys2Proof.Machine
end

