-- ==== Sys2Proof/Machine/Packets.lean ====
section
/-! DEFINITION. Packets and cells on the wire: headers (R124, R127), sizes and credits (R113), end-to-end codes (R129,
R130), the flow hash (R150), coordinates (R137). -/

namespace Sys2Proof.Machine

open Sys2Proof

/-- A Bool as a bit of weight `w`. -/
def flagBit (b : Bool) (w : Nat) : Nat := if b then w else 0

/-- The packet is a cell (R127). -/
def Packet.isCell (p : Packet) : Bool := p.ty = 8 || p.ty = 9

/-- The flags byte (R124, R127); a cell sent here has LAST zero, and one received keeps the bit it came with (R130). -/
def Packet.flags (p : Packet) : Nat :=
  flagBit p.last 1 + flagBit p.ordered 2 + flagBit p.fixedLine 4 + flagBit p.multicast 8 +
  flagBit p.mirror 16 + flagBit p.retx 32 + flagBit (p.poison && ! p.isCell) 64 + flagBit (p.rsvd && ! p.isCell) 128

/-- The header and payload bytes, without the trailer of a bulk packet; the cell's CRC16 field is given. -/
def Packet.body (p : Packet) (crc : Nat) : List Byte :=
  let b0 := BitVec.ofNat 8 (p.ty.toNat * 16 + p.vc % 16)
  if p.isCell then
    [b0, BitVec.ofNat 8 p.flags] ++ natLe 2 p.dest.toNat ++ natLe 2 p.src.toNat ++ natLe 2 p.job.toNat ++
    [p.kind, p.seq] ++ natLe 2 crc ++ natLe 4 p.tag.toNat ++ (p.payload ++ zeros 48).take 48
  else
    [b0, BitVec.ofNat 8 p.flags] ++ natLe 2 p.dest.toNat ++ natLe 2 p.src.toNat ++ natLe 2 p.job.toNat ++
    natLe 4 p.msgid.toNat ++ natLe 2 p.pseq.toNat ++ natLe 2 p.len.toNat ++ natLe 4 p.tag.toNat ++
    natLe 4 p.handle.toNat ++ natLe 4 p.offset.toNat ++ natLe 2 p.flow.toNat ++ natLe 2 p.total.toNat ++ p.payload

/-- One bit of CRC-32C, reflected. -/
def crc32Bit (c : Nat) : Nat := if c % 2 = 1 then c / 2 ^^^ 0x82F63B78 else c / 2

/-- CRC-32C over bytes (polynomial 0x1EDC6F41, reflected, initial value all ones, complemented: R2, R129). -/
def crc32c (bs : List Byte) : BitVec 32 :=
  BitVec.ofNat 32 (0xFFFFFFFF ^^^ bs.foldl (fun c b =>
    crc32Bit (crc32Bit (crc32Bit (crc32Bit (crc32Bit (crc32Bit (crc32Bit (crc32Bit (c ^^^ b.toNat))))))))) 0xFFFFFFFF)

/-- One bit of CRC16, not reflected. -/
def crc16Bit (c : Nat) : Nat := if c ≥ 0x8000 then (c * 2 % 0x10000) ^^^ 0x8BB7 else c * 2

/-- CRC16 over bytes (polynomial 0x8BB7, initial value 0: R130). -/
def crc16 (bs : List Byte) : Nat :=
  bs.foldl (fun c b =>
    crc16Bit (crc16Bit (crc16Bit (crc16Bit (crc16Bit (crc16Bit (crc16Bit (crc16Bit (c ^^^ (b.toNat * 256)))))))))) 0

/-- The end-to-end code of a packet: VC and MIRROR_COPY as zero (R129, R130). -/
def Packet.crc (p : Packet) : BitVec 32 :=
  let q := { p with vc := 0, mirror := false }
  if p.isCell then BitVec.ofNat 32 (crc16 (q.body 0)) else crc32c (q.body 0)

/-- The complement a stomped packet carries (R131). -/
def Packet.stompCode (p : Packet) : BitVec 32 := if p.isCell then p.crc ^^^ 0xFFFF else p.crc ^^^ 0xFFFFFFFF

/-- The packet with its right code. -/
def Packet.seal (p : Packet) : Packet := { p with code := p.crc }

/-- The bytes of a packet in the flit stream (R113). -/
def Packet.wire (p : Packet) : List Byte :=
  if p.isCell then p.body p.code.toNat else p.body 0 ++ natLe 4 p.code.toNat

/-- Bytes in the stream: 64 for a cell, 36 + P for a bulk packet (R113). -/
def Packet.size (p : Packet) : Nat := if p.isCell then 64 else 36 + p.payload.length

/-- Credits, and output buffer units (R113, R175). -/
def Packet.credits (p : Packet) : Nat := (p.size + 63) / 64

/-- What a port reads at the front of its stream. -/
inductive Parsed where
  /-- The stream does not yet hold a whole packet. -/
  | more
  /-- LEN is outside 1 to 256: the next packet cannot be found (R126). -/
  | badLen
  /-- A packet and the rest of the stream. -/
  | got (p : Packet) (rest : List Byte)

/-- Parse a cell of 64 bytes (R127). -/
def parseCell (bs : List Byte) : Packet :=
  let f := fieldAt bs 1 1
  { ty := BitVec.ofNat 4 (fieldAt bs 0 1 / 16), vc := fieldAt bs 0 1 % 16, last := f.testBit 0, ordered := f.testBit 1,
    fixedLine := f.testBit 2, multicast := f.testBit 3, mirror := f.testBit 4, retx := f.testBit 5,
    rsvd := f.testBit 6 || f.testBit 7, dest := BitVec.ofNat 16 (fieldAt bs 2 2), src := BitVec.ofNat 16 (fieldAt bs 4 2),
    job := BitVec.ofNat 16 (fieldAt bs 6 2), kind := BitVec.ofNat 8 (fieldAt bs 8 1), seq := BitVec.ofNat 8 (fieldAt bs 9 1),
    tag := BitVec.ofNat 32 (fieldAt bs 12 4), payload := (bs.drop 16).take 48,
    code := BitVec.ofNat 32 (fieldAt bs 10 2) }

/-- Parse a bulk packet whose payload has `n` bytes (R124). -/
def parseBulk (bs : List Byte) (n : Nat) : Packet :=
  let f := fieldAt bs 1 1
  { ty := BitVec.ofNat 4 (fieldAt bs 0 1 / 16), vc := fieldAt bs 0 1 % 16, last := f.testBit 0, ordered := f.testBit 1,
    fixedLine := f.testBit 2, multicast := f.testBit 3, mirror := f.testBit 4, retx := f.testBit 5, poison := f.testBit 6,
    rsvd := f.testBit 7, dest := BitVec.ofNat 16 (fieldAt bs 2 2), src := BitVec.ofNat 16 (fieldAt bs 4 2),
    job := BitVec.ofNat 16 (fieldAt bs 6 2), msgid := BitVec.ofNat 32 (fieldAt bs 8 4),
    pseq := BitVec.ofNat 16 (fieldAt bs 12 2), len := BitVec.ofNat 16 (fieldAt bs 14 2),
    tag := BitVec.ofNat 32 (fieldAt bs 16 4), handle := BitVec.ofNat 32 (fieldAt bs 20 4),
    offset := BitVec.ofNat 32 (fieldAt bs 24 4), flow := BitVec.ofNat 16 (fieldAt bs 28 2),
    total := BitVec.ofNat 16 (fieldAt bs 30 2), payload := (bs.drop 32).take n,
    code := BitVec.ofNat 32 (fieldAt bs (32 + n) 4) }

/-- Skip pad words: 4-byte words of zero where a packet would start (R112). -/
def skipPads : Nat → List Byte → List Byte
  | 0, bs => bs
  | k + 1, bs => if 4 ≤ bs.length ∧ fieldAt bs 0 4 = 0 then skipPads k (bs.drop 4) else bs

/-- Take one packet from the front of a stream (R112, R126): the first nibble gives its shape, its length follows from the
header. -/
def parsePacket (bs : List Byte) : Parsed :=
  let bs := skipPads bs.length bs
  if bs.isEmpty then .more
  else
    let ty := fieldAt bs 0 1 / 16
    if ty = 8 ∨ ty = 9 then
      if bs.length < 64 then .more else .got (parseCell bs) (bs.drop 64)
    else if bs.length < 16 then .more
    else
      let len := fieldAt bs 14 2
      if len < 1 ∨ 256 < len then .badLen
      else if bs.length < 36 + 16 * len then .more
      else .got (parseBulk bs (16 * len)) (bs.drop (36 + 16 * len))

/-- A reserved TYPE, a reserved flag or a VC outside 0 to 5 (R126). -/
def Packet.malformed (p : Packet) : Bool :=
  ! (decide (1 ≤ p.ty.toNat ∧ p.ty.toNat ≤ 5) || p.isCell) || p.rsvd || decide (5 < p.vc)

/-- A cell kind that is unassigned or whose TYPE does not match (R128). -/
def Packet.badKind (p : Packet) : Bool :=
  let k := p.kind.toNat
  if p.ty = 8 then ! (decide (1 ≤ k ∧ k ≤ 3) || decide (0x10 ≤ k ∧ k ≤ 0x13) || decide (0x20 ≤ k ∧ k ≤ 0x21))
  else ! decide (k = 0x30 ∨ k = 0x38)

/-- A SYNC cell (R466). -/
def Packet.isSync (p : Packet) : Bool := p.ty = 9 && decide (p.kind.toNat = 0x38)

/-- The number a big-endian byte list spells. -/
def beNat (bs : List Byte) : Nat := leNat bs.reverse

/-- A SYNC cell that leaves at `now` has the time since its arrival and the delay of its link added to its correctionField, in
units of 2^-16 ns; a wrong end-to-end code stays wrong (R131, R466). -/
def Packet.corrected (p : Packet) (now : Word) : Packet :=
  if p.isSync && ! p.mirror then
    let c := BitVec.ofNat 64 (beNat ((p.payload.drop 8).take 8)) + (now - p.arrival) <<< 16
    let q := { p with payload := overlay p.payload 8 (natLe 8 c.toNat).reverse }
    { q with code := if p.code = p.crc then q.crc else q.stompCode }
  else p

/-! Places in the fabric. -/

/-- The coordinate of an address in dimension `d`: 0 X, 1 Y, 2 Z, 3 W (R137). -/
def coord (a : BitVec 16) (d : Nat) : Nat := if d = 3 then a.toNat / 4096 % 8 else a.toNat / 16 ^ d % 16

/-- The plane of an address (R137). -/
def plane (a : BitVec 16) : Nat := a.toNat / 32768

/-- The device's own physical address (R492). -/
def ownAddr (s : State) : BitVec 16 := BitVec.ofNat 16 (getF F.ID_ADDR_ADDR [] s)

/-- SW_GEOMETRY holds a valid geometry (R138). -/
def geomValid (s : State) : Bool := decide (getF F.SW_GEOMETRY_VALID [] s = 1)

/-- The ring size of dimension `d` (R138). -/
def ringLen (d : Nat) (s : State) : Nat :=
  match d with
  | 0 => getF F.SW_GEOMETRY_XSIZE [] s
  | 1 => getF F.SW_GEOMETRY_YSIZE [] s
  | 2 => getF F.SW_GEOMETRY_ZSIZE [] s
  | _ => getF F.SW_GEOMETRY_WSIZE [] s

/-- The flow hash (R150), with the unsigned arithmetic of R12. -/
def flowHash (src dst flow epoch : Nat) : BitVec 32 :=
  let h : BitVec 32 := BitVec.ofNat 32 (src * 65536 + dst) ^^^ (BitVec.ofNat 32 flow * 0x9E3779B9) ^^^
    (BitVec.ofNat 32 (epoch * 256))
  let h := (h ^^^ (h >>> 16)) * 0x85EBCA6B
  let h := (h ^^^ (h >>> 13)) * 0xC2B2AE35
  h ^^^ (h >>> 16)

/-- The flow hash of a packet at this device; a cell has flow 0 (R150). -/
def hashOf (p : Packet) (s : State) : BitVec 32 :=
  flowHash p.src.toNat p.dest.toNat (if p.isCell then 0 else p.flow.toNat) (getF F.SW_PATH_EPOCH_EPOCH [] s)

/-- Increment the path epoch (R152). -/
def bumpEpoch (s : State) : State := addF F.SW_PATH_EPOCH_EPOCH [] 1 s

end Sys2Proof.Machine
end

