-- ==== Sys2Proof/Machine/Lanes.lean ====
section
/-! DEFINITION. Below the flit: the stripe of a port's flits over its lanes (R101), blocks, scrambler and RS(544,514) code of a lane
(R99), their interleave and what a receiver makes of erroneous symbols (R100). Log 71 names what the model takes from the standard
the scope cites. -/

namespace Sys2Proof.Machine

open Sys2Proof

/-! The stripe (R101). -/

/-- Bytes in units of 4. -/
def units4 : Nat → List Byte → List (List Byte)
  | 0, _ => []
  | k + 1, bs => if bs.isEmpty then [] else bs.take 4 :: units4 k (bs.drop 4)

/-- Every `k`-th entry of a list, from the first. -/
def everyNth {α : Type} (k : Nat) : Nat → List α → List α
  | 0, _ => []
  | _, [] => []
  | f + 1, x :: t => x :: everyNth k f (t.drop (k - 1))

/-- Bytes striped over `k` lanes: unit `i` goes to lane `i` mod `k`, in ascending lane order. -/
def stripe (k : Nat) (bs : List Byte) : List (List Byte) :=
  let us := units4 bs.length bs
  (List.range k).map (fun j => (everyNth k us.length (us.drop j)).flatten)

/-- The bytes that lanes carry together: one unit of each lane in turn. -/
def joinLanes : Nat → List (List Byte) → List Byte
  | 0, _ => []
  | f + 1, ls => ls.flatMap (fun l => l.take 4) ++ joinLanes f (ls.map (fun l => l.drop 4))

/-- The active lanes of port `n`, ascending (LNK_STATUS). -/
def activeLanes (n : Nat) (s : State) : List Nat :=
  (List.range 4).filter (fun l => (getF F.LNK_STATUS_LANES [n] s).testBit l)

/-- A flit on the lanes of port `n`: each active lane with its bytes. -/
def onLanes (n : Nat) (flit : List Byte) (s : State) : List (Nat × List Byte) :=
  (activeLanes n s).zip (stripe (activeLanes n s).length flit)

/-- The flit that arrives on the active lanes of port `n`. -/
def offLanes (lanes : List (List Byte)) : List Byte := joinLanes 64 lanes

/-! Blocks and scrambler (R99). A lane's bits are Bools in the order they are sent. -/

/-- The bits of a byte list, the lowest bit of each byte first. -/
def bitsOf (bs : List Byte) : List Bool := bs.flatMap (fun b => (List.range 8).map (fun i => b.getLsbD i))

/-- Blocks of a lane from block number `i` on: a framing bit of the lane-marker pattern and 256 data bits. -/
def blocksOf : Nat → Nat → List Bool → List Bool
  | 0, _, _ => []
  | f + 1, i, bs => if bs.isEmpty then [] else Config.laneMarker i :: bs.take 256 ++ blocksOf f (i + 1) (bs.drop 256)

/-- What the polynomial 1 + x^39 + x^58 adds to a bit: the bits sent 39 and 58 before it; `h` holds the last 58, latest first. -/
def taps (h : List Bool) : Bool := xor (h.getD 38 false) (h.getD 57 false)

/-- Scramble bits after those in `h`. -/
def scramble (h : List Bool) : List Bool → List Bool
  | [] => []
  | b :: t => xor b (taps h) :: scramble ((xor b (taps h) :: h).take 58) t

/-- Descramble bits received after those in `h`. -/
def descramble (h : List Bool) : List Bool → List Bool
  | [] => []
  | b :: t => xor b (taps h) :: descramble ((b :: h).take 58) t

/-! The code (R99, R100): RS(544,514) over 10-bit symbols, on the field and generator of the standard (log 71). -/

/-- Times alpha in the field of 1,024 elements with x^10 + x^3 + 1. -/
def fecAlpha (a : Nat) : Nat := if a < 512 then 2 * a else (2 * a - 1024) ^^^ 9

/-- The product of two symbols, over the lowest `k` bits of the second. -/
def fecMul : Nat → Nat → Nat → Nat
  | 0, _, _ => 0
  | k + 1, a, b => (if b % 2 = 1 then a else 0) ^^^ fecMul k (fecAlpha a) (b / 2)

/-- A polynomial, highest power first, times (x + r). -/
def fecTimes (r : Nat) (g : List Nat) : List Nat :=
  List.zipWith (fun a b => a ^^^ fecMul 10 b r) (g ++ [0]) (0 :: g)

/-- The generator: the product of (x + alpha^i) for i from 0 to 29. -/
def fecGenerator : List Nat := (forN 30 ([1], 1) (fun _ (x : List Nat × Nat) => (fecTimes x.2 x.1, fecAlpha x.2))).1

/-- The 30 check symbols of 514 data symbols: the remainder by the generator. -/
def fecCheck (data : List Nat) : List Nat :=
  data.foldl (fun r d =>
    let f := r.headD 0 ^^^ d
    List.zipWith (fun a g => a ^^^ fecMul 10 g f) (r.drop 1 ++ [0]) (fecGenerator.drop 1)) (List.replicate 30 0)

/-- Symbols of 10 bits. -/
def symbolsOf : Nat → List Bool → List Nat
  | 0, _ => []
  | f + 1, bs => if bs.isEmpty then [] else ((List.range 10).map (fun i => flagBit (bs.getD i false) (2 ^ i))).sum :: symbolsOf f (bs.drop 10)

/-- Codewords interleaved at a lane rate: four at 400 Gb/s, else two. -/
def fecWays (rate : Nat) : Nat := if rate = 3 then 4 else 2

/-- What a lane sends for the bytes of one group of codewords, 640 to each codeword: blocks, scrambled, coded, and interleaved symbol
by symbol. -/
def laneCode (rate block : Nat) (h : List Bool) (bs : List Byte) : List Nat :=
  let ways := fecWays rate
  let syms := symbolsOf (514 * ways) (scramble h (blocksOf (20 * ways) block (bitsOf bs)))
  let words := (List.range ways).map (fun w => let d := everyNth ways 514 (syms.drop w); d ++ fecCheck d)
  (List.range 544).flatMap (fun i => words.map (fun w => w.getD i 0))

/-- A codeword with `e` erroneous symbols is corrected. -/
def fecCorrects (e : Nat) : Bool := decide (e ≤ 15)

end Sys2Proof.Machine
end

