-- ==== Sys2Proof/Machine/Lma.lean ====
section
/-! DEFINITION. The DDR5 modules and how their channels make up the local memory address space (R350, R351). -/

namespace Sys2Proof.Machine

open Sys2Proof

/-! Modules and the local memory address space (R350, R351). -/

/-- The fitted module of a channel. -/
def moduleOf (c : Nat) (s : State) : Option Dimm := (s.bc.dimms[c]?).join

/-- The fitted modules. -/
def fitted (s : State) : List Dimm := (List.range 24).filterMap (fun c => moduleOf c s)

/-- The type set for all channels: that of the lowest-numbered populated channel (R350). -/
def typeUsed (s : State) : Bool := match fitted s with | d :: _ => d.mrdimm | [] => false

/-- SPEED of MEM_STATUS (R350). -/
def speedUsed (s : State) : Nat :=
  let l := (fitted s).filter (fun d => d.mrdimm = typeUsed s)
  if l.isEmpty then 0
  else if typeUsed s then (if l.all (fun d => d.fast) then 4 else 3)
  else (if l.all (fun d => d.fast) then 2 else 1)

/-- A module the device trains (R350). -/
def accepted (c : Nat) (s : State) : Bool :=
  match moduleOf c s with
  | some d => d.eccX4 && decide (d.gib = 64 ∨ d.gib = 128 ∨ d.gib = 256) && decide (d.mrdimm = typeUsed s)
  | none => false

/-- A usable channel. -/
def channelUsable (c : Nat) (s : State) : Bool := decide (tget 0 s.bc.trained c = 1)

/-- The interleave sets, in their order in the address space: pages per channel, and channels (R351). -/
def interleave (s : State) : List (Nat × List Nat) :=
  [256, 128, 64].filterMap (fun g =>
    let l := (List.range 24).filter (fun c => channelUsable c s && decide ((moduleOf c s).map (fun d => d.gib) = some g))
    if l.isEmpty then none else some (g * 512, l))

/-- Pages of the local memory address space. -/
def lmaPages (s : State) : Nat := ((interleave s).map (fun x => x.1 * x.2.length)).sum

/-- The channel that holds a 128-byte line, with the first line of the next 512-byte unit and of the next set (R351). -/
def lineChannel : List (Nat × List Nat) → Nat → Nat → Option (Nat × Nat × Nat)
  | [], _, _ => none
  | (g, cs) :: t, base, line =>
    let size := g * cs.length * 16384
    if line < base + size then
      some (cs.getD ((line - base) / 4 % cs.length) 0, base + ((line - base) / 4 + 1) * 4, base + size)
    else lineChannel t (base + size) line

/-- The memory die that holds an LMA; MD0 where there is none. -/
def lmaDie (a : Nat) (s : State) : Nat :=
  match lineChannel (interleave s) 0 (a / 128) with
  | some (c, _, _) => c / 12
  | none => 0

/-- The memory die a lending request addresses: the one that holds its first byte (R172). -/
def lentDie (h off : Nat) (s : State) : Nat :=
  lmaDie ((getF F.MEM_LEND_RANGE_FIRST [h / 2 ^ 28 % 16] s + h % 2 ^ 28) * 2 ^ 21 + off) s

end Sys2Proof.Machine
end

