-- ==== Sys2Proof/Machine/Route.lean ====
section
/-! DEFINITION. Where a packet goes at this device: delivery (R142, R172), dimension order (R146), adaptive choice (R147),
the management route of a device with no geometry (R139), fixed lines (R161), and the output buffers (R175, R176). -/

namespace Sys2Proof.Machine

open Sys2Proof

/-- A port's state beside its registers. -/
def portOf (n : Nat) (s : State) : Port := tget {} s.ports n

/-- Change a port. -/
def modPort (n : Nat) (f : Port → Port) (s : State) : State := { s with ports := tmod {} s.ports n f }

abbrev Ps.disabled : Nat := 0
abbrev Ps.training : Nat := 1
abbrev Ps.up : Nat := 2
abbrev Ps.retrain : Nat := 3
abbrev Ps.down : Nat := 4
abbrev Ps.miswired : Nat := 5

/-- The state of port `n` (R103). -/
def portState (n : Nat) (s : State) : Nat := getF F.LNK_STATUS_STATE [n] s

/-- An UP port, and not an analysis port, which routing takes as DOWN (R139, R147, R188). -/
def portUp (n : Nat) (s : State) : Bool := decide (portState n s = Ps.up) && ! (portOf n s).analysis

/-- A port that packets may be routed to: UP, or retraining with its state kept (R103, R108), and not an analysis port
(R188). -/
def portUsable (n : Nat) (s : State) : Bool :=
  (decide (portState n s = Ps.up) || decide (portState n s = Ps.retrain)) && ! (portOf n s).analysis

/-- The port of dimension `d`, direction `dir` (0 plus, 1 minus), member `k` (R97). -/
def portAt (d dir k : Nat) : Nat := 4 * d + 2 * dir + k

/-- The link from coordinate `c` to `c + 1` of dimension `d` is blocked (R143). -/
def linkBlocked (d c : Nat) (s : State) : Bool := (getR .SW_RING_MAP [] s).getLsbD (16 * d + c)

/-- Hops from `c` to `t` in a direction of a ring of `n` (R138). -/
def hops (n c t dir : Nat) : Nat := if dir = 0 then (t + n - c) % n else (c + n - t) % n

/-- A direction is clear: no link on the way is blocked (R145). -/
def dirClear (d dir : Nat) (dest : BitVec 16) (s : State) : Bool :=
  let n := ringLen d s
  let c := coord (ownAddr s) d
  (List.range (hops n c (coord dest d) dir)).all (fun i =>
    ! linkBlocked d (if dir = 0 then (c + i) % n else (c + n - 1 - i) % n) s)

/-- The usable directions of a dimension (R145). -/
def usableDirs (d : Nat) (dest : BitVec 16) (s : State) : List Nat :=
  let n := ringLen d s
  let c := coord (ownAddr s) d
  let hp := hops n c (coord dest d) 0
  let hm := hops n c (coord dest d) 1
  let minimal := if hp < hm then [0] else if hm < hp then [1] else [0, 1]
  let clear := minimal.filter (fun dir => dirClear d dir dest s)
  if clear.isEmpty then
    (([0, 1] : List Nat).filter (fun dir => ! minimal.contains dir)).filter (fun dir => dirClear d dir dest s)
  else clear

/-- The dimensions that still have work to do. -/
def workDims (dest : BitVec 16) (s : State) : List Nat :=
  (List.range 4).filter (fun d => decide (coord dest d ≠ coord (ownAddr s) d))

/-- What the switch core does with a head packet: deliver it at an output, send it by a port (with the VC of the next hop and
whether it enters a ring), discard it under a counter, or let it wait at its input. -/
inductive RouteTo where
  | deliver (out : Nat)
  | port (out : Nat) (vc : Nat) (enters : Bool)
  | discard (c : Reg)
  | stay
  deriving DecidableEq, Repr

/-- A member of a direction to use: the wanted one if usable, else the other (R146). -/
def pickMember (d dir k : Nat) (s : State) : Option (Nat × Bool) :=
  if portUsable (portAt d dir k) s then some (portAt d dir k, false)
  else if portUsable (portAt d dir (1 - k)) s then some (portAt d dir (1 - k), true)
  else none

/-- Dimension order (R146): the port and whether the packet enters a ring. A packet inside its ring keeps its direction and
member; a COLL packet fresh from an adder leaves by the port of its sub-ring, opposite the adder's own port (R198, R207). -/
def dimOrder (p : Packet) (inp vcIn vcOut : Nat) (s : State) : Option (Nat × Bool) :=
  match workDims p.dest s with
  | [] => none
  | d :: _ =>
    if inp < 16 ∧ inp / 4 = d ∧ vcIn = vcOut then
      let dir := 1 - inp / 2 % 2
      let c := coord (ownAddr s) d
      let n := ringLen d s
      if linkBlocked d (if dir = 0 then c else (c + n - 1) % n) s then none
      else (pickMember d dir (inp % 2) s)
    else
      let h := hashOf p s
      let coll : Bool := decide (27 ≤ inp) && decide ((inp - 27) / 4 = d) && ! p.retx
      if coll then (pickMember d (1 - (inp - 27) / 2 % 2) ((inp - 27) % 2) s).map (fun x => (x.1, true))
      else
        let dir? := match usableDirs d p.dest s with
          | [] => none
          | [a] => some a
          | _ => some (if h.getLsbD (2 * d + 1) then 1 else 0)
        dir?.bind (fun dir => (pickMember d dir (if h.getLsbD (2 * d) then 1 else 0) s).map (fun x => (x.1, true)))

/-- The ports an adaptive packet may take, ascending (R147). -/
def adaptivePorts (p : Packet) (s : State) : List Nat :=
  (List.range 16).filter (fun n => portUp n s && (workDims p.dest s).contains (n / 4) &&
    (usableDirs (n / 4) p.dest s).contains (n / 2 % 2))

/-- A port that an adaptive packet might take retrains: the packet waits for it, not DOWN, where no port is UP (R108, R149). -/
def adaptiveWaits (p : Packet) (s : State) : Bool :=
  (List.range 16).any (fun n => portUsable n s && (workDims p.dest s).contains (n / 4) &&
    (usableDirs (n / 4) p.dest s).contains (n / 2 % 2))

/-- The port with the lowest congestion estimate in units of 4 KiB; ties by the flow hash (R147). -/
def adaptiveChoice (p : Packet) (ports : List Nat) (s : State) : Option Nat :=
  let est := fun n => getF F.SW_CONG_ESTIMATE [n] s / 4096
  match (ports.map est).min? with
  | none => none
  | some m =>
    let tied := ports.filter (fun n => decide (est n = m))
    tied[(hashOf p s).toNat % tied.length]?

/-- Credits available at a port's transmitter (R120). -/
def avail (n vc : Nat) (s : State) : Nat := getF F.LNK_VC_STATE_AVAIL [n, vc] s

/-- The credit size of the largest packet of a VC under the bubble rule (R151). -/
def bubbleM (vc : Nat) : Nat := if vc = 0 ∨ vc = 2 then 65 else if vc = 5 then 63 else 1

/-- The credits allow a packet to start (R120, R151); without a geometry the bubble rule is off (R139). -/
def creditsAllow (n vc need : Nat) (enters : Bool) (s : State) : Bool :=
  let a := avail n vc s
  decide (need ≤ a) &&
    (decide (vc = 1) || ! geomValid s || decide ((if enters then 2 * bubbleM vc else bubbleM vc) ≤ a))

/-- Management traffic of R139: management cells on VC4, and MGMT bulk packets on VC1. -/
def isManagement (p : Packet) : Bool := (p.ty = 9 && p.vc = 4) || (p.ty = 5 && p.vc = 1)

/-- The management route of a device with no geometry: every dimension an unwrapped line (R139). -/
def manageRoute (p : Packet) (s : State) : RouteTo :=
  if plane p.dest ≠ plane (ownAddr s) then .discard .SW_PATH_DISCARDS
  else
    match workDims p.dest s with
    | [] => .discard .SW_PATH_DISCARDS
    | d :: _ =>
      let dir := if coord (ownAddr s) d < coord p.dest d then 0 else 1
      match (if portUp (portAt d dir 0) s then some (portAt d dir 0)
             else if portUp (portAt d dir 1) s then some (portAt d dir 1) else none) with
      | some n => .port n p.vc true
      | none => .discard .SW_PATH_DISCARDS

/-- The fixed-line entry of an arriving VC5 packet in the active bank of its plan (R157, R161). -/
def lineEntry (p : Packet) (inp : Nat) (s : State) : Option (BitVec 128) :=
  let plan := p.flow.toNat / 1024 % 64
  let bank := if (getR .SW_PLAN_BANK [] s).getLsbD plan then 1 else 0
  let dir : BitVec 64 := tget 0 s.tables.planDir (plan * 2 + bank)
  let lines := bits 26 16 dir
  (List.range lines).findSome? (fun i =>
    let e : BitVec 128 := tget 0 s.tables.planLine ((plan * 2 + bank) * 1024 + i)
    if nbits 9 0 e.toNat = p.flow.toNat % 1024 ∧ nbits 27 16 e.toNat = p.job.toNat % 4096 ∧
       bits 11 0 dir = p.job.toNat % 4096 ∧ nbits 55 48 e.toNat = (if inp < 16 then inp else 0x10) then some e else none)

/-- The adder a COLL packet or a collective cell goes to, by the running collective of its channel (R198, R208, R209). -/
def collAdder (p : Packet) (s : State) : Nat :=
  let ch := p.tag.toNat / 2 ^ 28
  let level := if p.ty = 2 then p.handle.toNat / 2 ^ 30 else if p.kind = 0x20 then fieldAt p.payload 0 1 else 0
  let sub := if p.ty = 2 then p.handle.toNat / 2 ^ 28 % 4 else if p.kind = 0x20 then fieldAt p.payload 1 1 % 4 else 0
  let c := tget ({} : Chan) s.chans ch
  let dim := match c.run, c.queue with
    | some r, _ => fieldAt r.desc.bytes (64 + 16 * level) 1 % 4
    | none, d :: _ => fieldAt d.bytes (64 + 16 * level) 1 % 4
    | none, [] => 0
  4 * dim + (match sub with | 0 => 2 | 1 => 3 | 2 => 0 | _ => 1)

/-- The active exchange of batch tag `t` on a die: tags are compared in bits [31:4] (R66, R89). -/
def activeExch (die : Nat) (t : BitVec 32) (s : State) : Option Exch :=
  (tget ({} : Xe) s.xes die).active.find? (fun e => e.finished.isNone && decide (e.tag.toNat / 16 = t.toNat / 16))

/-- A bulk packet of the dispatch phase belongs to this exchange: one of its slots holds the receive buffer HANDLE names. -/
def ownsHandle (e : Exch) (h : BitVec 32) : Bool := e.slots.any (fun x => decide (x.2.rx = some h))

/-- An answer belongs to this exchange: the list position lies in a run whose record has no outcome yet. -/
def ownsPosition (e : Exch) (pos : Nat) : Bool :=
  e.runs.any (fun r => decide (r.first ≤ pos ∧ pos < r.first + r.count)) && decide (tget 0 e.outcome pos = 0)

/-- The exchange engine a packet addresses, by rope die: payload byte 1 of a cell, byte 0 of a
grant; the holder of the receive buffer in the
dispatch phase; in the return phase FLOW, or on a fixed line the die that waits for the answer (log 12). -/
def exchDie (p : Packet) (r : Nat) (s : State) : Nat :=
  let dies := ropeDies r s
  if p.isCell then (dies[fieldAt p.payload (if p.kind = 2 then 0 else 1) 1 % 8]?).getD (dies.headD 0)
  else if p.tag.getLsbD 3 then
    if p.fixedLine then
      (dies.find? (fun d => match activeExch d p.tag s with
        | some e => ownsPosition e p.handle.toNat
        | none => false)).getD (dies.headD 0)
    else (dies[p.flow.toNat % 8]?).getD (dies.headD 0)
  else
    (dies.find? (fun d => match activeExch d p.tag s with
      | some e => ownsHandle e p.handle
      | none => false)).getD (dies.headD 0)

/-- Delivery at this device (R142, R172): the output, or the discard of a packet whose job has no rope here. An MRESP names no
memory die of the borrower: DESIGN CHOICE (log 40), it goes to the port of MD0, S24. -/
def deliverTo (p : Packet) (s : State) : RouteTo :=
  let k := p.kind.toNat
  if p.isCell then
    if p.ty = 9 ∨ k = 0x10 ∨ k = 0x11 ∨ k = 0x12 then .deliver 26
    else if 0x13 ≤ k ∧ k ≤ 0x1F then .deliver (24 + lentDie (fieldAt p.payload 0 4) (fieldAt p.payload 4 4) s)
    else match jobRope (p.job.toNat % 4096) s with
      | none => .discard .SW_JOB_DISCARDS
      | some r => if k < 0x10 then .deliver (16 + exchDie p r s) else .deliver (27 + collAdder p s)
  else if p.ty = 5 then .deliver 26
  else if p.ty = 3 then .deliver (24 + lentDie p.handle.toNat p.offset.toNat s)
  else if p.ty = 4 then .deliver 24
  else match jobRope (p.job.toNat % 4096) s with
    | none => .discard .SW_JOB_DISCARDS
    | some r => if p.ty = 1 then .deliver (16 + exchDie p r s) else .deliver (27 + collAdder p s)

/-- A destination the fabric cannot reach from here: another plane, or a coordinate beyond its ring (R149). -/
def outside (dest : BitVec 16) (s : State) : Bool :=
  decide (plane dest ≠ plane (ownAddr s)) || (List.range 4).any (fun d => decide (ringLen d s ≤ coord dest d))

/-- Where a unicast packet at the head of input `inp`, virtual channel `vc`, goes (R139, R142, R146 to R149, R161). -/
def route (p : Packet) (inp vc : Nat) (s : State) : RouteTo :=
  if ! geomValid s then
    if p.dest = ownAddr s then deliverTo p s
    else if isManagement p then manageRoute p s
    else .discard .SW_PATH_DISCARDS
  else if p.dest ≠ ownAddr s ∧ outside p.dest s then .discard .SW_PATH_DISCARDS
  else if vc = 5 then
    match lineEntry p inp s with
    | none => .discard .SW_LINE_DISCARDS
    | some e =>
      let out := nbits 63 56 e.toNat
      if out = 0x10 then deliverTo p s
      else if out < 16 ∧ portUsable out s then .port out 5 (! (decide (inp < 16) && decide (inp / 4 = out / 4) &&
        decide (inp % 2 = out % 2) && decide (inp / 2 % 2 ≠ out / 2 % 2)))
      else .discard .SW_LINE_DISCARDS
  else if p.dest = ownAddr s then deliverTo p s
  else if vc = 1 then
    let ports := adaptivePorts p s
    if ports.isEmpty then (if adaptiveWaits p s then .stay else .discard .SW_PATH_DISCARDS)
    else if ports.any (fun n => creditsAllow n 1 p.credits false s) then
      match adaptiveChoice p ports s with
      | some n => .port n 1 false
      | none => .discard .SW_PATH_DISCARDS
    else
      match dimOrder p inp 1 2 s with
      | some (n, _) => if creditsAllow n 2 p.credits true s then .port n 2 true
                       else .port ((adaptiveChoice p ports s).getD n) 1 false
      | none => .port ((adaptiveChoice p ports s).getD 0) 1 false
  else
    match dimOrder p inp vc vc s with
    | some (n, enters) => .port n vc enters
    | none => .discard .SW_PATH_DISCARDS

/-! Output buffers (R175, R176). -/

/-- The packets queued at an output on a VC: each with its input and whether it enters a ring. -/
def outQ (out vc : Nat) (s : State) : List (Packet × Nat × Bool) := tget [] s.switch.outq (out * 8 + vc)

/-- Replace an output queue. -/
def setOutQ (out vc : Nat) (q : List (Packet × Nat × Bool)) (s : State) : State :=
  { s with switch := { s.switch with outq := tset [] s.switch.outq (out * 8 + vc) q } }

/-- Units a VC uses at an output. -/
def vcUnits (out vc : Nat) (s : State) : Nat := ((outQ out vc s).map (fun e => e.1.credits)).sum

/-- Units of mirror copies at an output. -/
def mirrorUnits (out : Nat) (s : State) : Nat := ((tget [] s.switch.mirrorq out).map Packet.credits).sum

/-- Reserved units of a VC (R175). -/
def reservedUnits (vc : Nat) : Nat := if vc < 3 then 130 else if vc = 5 then 126 else 64

/-- An output is an analysis output (R188). -/
def isAnalysis (out : Nat) (s : State) : Bool := decide (out < 16) && (portOf out s).analysis

/-- The output can hold `u` more units on `vc` (R175, R176). -/
def canAdmit (out vc u : Nat) (s : State) : Bool :=
  let shared := if isAnalysis out s then 21884 else 23932
  let use := fun w => vcUnits out w s + (if w = vc then u else 0)
  decide (use vc ≤ 16384) && decide (((List.range 6).map (fun w => use w - reservedUnits w)).sum ≤ shared)

/-- Record the units in use and the peak of an output (SW_OUTBUF). -/
def noteUnits (out : Nat) (s : State) : State :=
  if 27 ≤ out then s
  else
    let u := ((List.range 6).map (fun w => vcUnits out w s)).sum + mirrorUnits out s
    let s := setF F.SW_OUTBUF_USED [out] u s
    if getF F.SW_OUTBUF_PEAK [out] s < u then setF F.SW_OUTBUF_PEAK [out] u s else s

/-- Put a packet at an output. -/
def enqueueOut (out vc : Nat) (p : Packet) (inp : Nat) (enters : Bool) (s : State) : State :=
  noteUnits out (setOutQ out vc (outQ out vc s ++ [({ p with vc := vc, stale := false }, inp, enters)]) s)

/-- The packets waiting at an input on a VC. -/
def inQ (inp vc : Nat) (s : State) : List Packet := tget [] s.switch.inq (inp * 8 + vc)

/-- Replace an input queue. -/
def setInQ (inp vc : Nat) (q : List Packet) (s : State) : State :=
  { s with switch := { s.switch with inq := tset [] s.switch.inq (inp * 8 + vc) q } }

/-- Free a packet's credits at the receiving link interface (R121); own inputs hold none, and a VC that is not one of the six has none
to return (R126; DESIGN CHOICE, log 71). A packet of an earlier link epoch returns nothing: the training has set the credits afresh (R119, R135). -/
def freeCredits (inp vc : Nat) (p : Packet) (s : State) : State :=
  let n := if p.stale then 0 else p.credits
  if inp < 16 ∧ vc < 6 then
    let s := modPort inp (fun q => { q with toReturn := tset 0 q.toReturn vc (tget 0 q.toReturn vc + n) }) s
    setR .LNK_VC_FREED [inp, vc] (getR .LNK_VC_FREED [inp, vc] s + BitVec.ofNat 64 n) s
  else s

/-- Count one in a 64-bit counter register. -/
def countR (r : Reg) (ix : List Nat) (s : State) : State := setR r ix (getR r ix s + 1) s

/-! Mirroring (R187 to R189). -/

/-- A session's match of a packet's fields under its mask (R187). -/
def mirrorMatch (i : Nat) (p : Packet) (s : State) : Bool :=
  let w : Word := BitVec.ofNat 64 (p.src.toNat + p.dest.toNat * 2 ^ 16 + p.job.toNat % 4096 * 2 ^ 32 +
    (if p.isCell then 0 else p.flow.toNat) * 2 ^ 48)
  let m := getR .SW_MIRROR_MASK [i] s
  decide (w &&& m = getR .SW_MIRROR_MATCH [i] s &&& m)

/-- Make the copies the sessions of the given kinds select (R187, R189). -/
def mirrorCopies (egress : Bool) (port : Nat) (p : Packet) (s : State) : State :=
  if p.mirror then s
  else forN 4 s (fun i s =>
    let kind := getF F.SW_MIRROR_CTRL_KIND [i] s
    let src := getF F.SW_MIRROR_CTRL_SRC_PORT [i] s
    let ana := getF F.SW_MIRROR_CTRL_ANALYSIS_PORT [i] s
    let sel := decide (getF F.SW_MIRROR_CTRL_ENABLE [i] s = 1) && isAnalysis ana s &&
      (if egress then decide (kind = 1) && decide (src = port)
       else (decide (kind = 0) && decide (src = port)) || (decide (kind = 2) && mirrorMatch i p s))
    if ! sel then s
    else if mirrorUnits ana s + p.credits ≤ 2048 then
      let q := tget [] s.switch.mirrorq ana
      let s := { s with switch := { s.switch with mirrorq := tset [] s.switch.mirrorq ana (q ++ [{ p with vc := 1, mirror := true }]) } }
      addF F.SW_MIRROR_COUNTS_COPIED [i] 1 (noteUnits ana s)
    else addF F.SW_MIRROR_COUNTS_DROPPED [i] 1 s)

/-! Multicast (R184, R185). -/

/-- A multicast packet with the entry of its group when its header arrives: later writes do not apply to it (R184). -/
def withGroup (p : Packet) (s : State) : Packet :=
  if p.multicast then { p with group := getR .SW_MCAST [p.dest.toNat % 1024] s } else p

/-- The outputs of a multicast packet at this device (R184). -/
def mcastOuts (p : Packet) : List Nat := (List.range 27).filter (fun o => p.group.getLsbD o)

/-- A multicast packet is discarded at its input (R184). -/
def mcastBad (p : Packet) (vc : Nat) : Bool :=
  ! (decide (vc = 0) || decide (vc = 3) || decide (vc = 4)) || ! p.group.getLsbD 63 ||
  (decide (nbits 43 32 p.group.toNat ≠ p.job.toNat % 4096) && ! (p.ty = 9 && decide (nbits 43 32 p.group.toNat = 0)))

/-- A packet that serves the device and needs no rope of its job (R142). -/
def jobExempt (p : Packet) : Bool :=
  if p.ty = 8 then decide (0x10 ≤ p.kind.toNat ∧ p.kind.toNat ≤ 0x1F) else decide (p.ty ≠ 1 ∧ p.ty ≠ 2)

/-- Why no copy of a multicast packet is delivered at this device, if none is: the counter of an unassigned kind (R128) or of a job
with no rope here (R142). -/
def mcastRefused (p : Packet) (s : State) : Option Reg :=
  if p.isCell && p.badKind then some .LNK_PKT_MALFORMED
  else if ! jobExempt p && (jobRope (p.job.toNat % 4096) s).isNone then some .SW_JOB_DISCARDS
  else none

/-- A multicast packet leaves by no fabric port: the device has no geometry and the packet is no management traffic (R139). -/
def mcastHome (p : Packet) (s : State) : Bool := ! geomValid s && ! isManagement p

/-- The outputs whose copy is still to be written: none for a port that is not UP (R135, R170), and none where the packet is refused
(R128, R139, R142). -/
def mcastDue (p : Packet) (s : State) : List Nat :=
  (mcastOuts p).filter (fun o => ! p.copied.contains o &&
    (if o < 16 then portUsable o s && ! mcastHome p s else (mcastRefused p s).isNone))

/-- The copies of a multicast packet that are not made are counted when the packet leaves its input (R128, R139, R142). -/
def noteMcast (inp : Nat) (p : Packet) (s : State) : State :=
  let s := if mcastHome p s && (mcastOuts p).any (fun o => decide (o < 16)) then countR .SW_PATH_DISCARDS [] s else s
  if (mcastOuts p).any (fun o => decide (16 ≤ o)) then
    match mcastRefused p s with
    | some .LNK_PKT_MALFORMED => if inp < 16 then countR .LNK_PKT_MALFORMED [inp] s else s
    | some r => countR r [] s
    | none => s
  else s

/-- A packet of one of the device's own units enters the switch core (R172, R207). -/
def inject (inp : Nat) (p : Packet) (s : State) : State :=
  let p := p.seal
  let s := if inp < 27 then mirrorCopies false inp p s else mirrorCopies false (inp - 27) p s
  setInQ inp p.vc (inQ inp p.vc s ++ [withGroup p s]) s

/-- The service state of the switch core (R180). -/
def serviceState (s : State) : Nat :=
  if getF F.SW_CTRL_TEST [] s = 1 then 2
  else if ! s.switch.startedUp then 1
  else if s.switch.recovery then 3
  else 0

/-- START_UP ends once the geometry is valid and every enabled port has left TRAINING at least once; SW_STATUS follows the
service state (R180). -/
def noteService (s : State) : State :=
  let allLeft := (List.range 16).all (fun n =>
    decide (getF F.LNK_CTRL_ENABLE [n] s = 0) || (portOf n s).leftTraining)
  let s := if geomValid s && allLeft then { s with switch := { s.switch with startedUp := true } } else s
  setF F.SW_STATUS_SERVICE [] (serviceState s) s

/-- A port left UP, or the ring map changed: RECOVERY until 100 µs pass with neither (R180). -/
def enterRecovery (s : State) : State := noteService { s with switch := { s.switch with recovery := true } }

/-- Flit rate of an input or output in units of one x1 lane at 100 Gb/s; delivery and own ports run at 409.6 GB/s
(R172). -/
def portRate (n : Nat) (s : State) : Nat :=
  if n < 16 then
    (match getF F.LNK_STATUS_RATE [n] s with | 1 => 1 | 2 => 2 | 3 => 4 | _ => 0) * 2 ^ getF F.LNK_STATUS_WIDTH [n] s
  else 33

/-- A packet is forwarded cut-through (R181 to R183). -/
def cutThrough (inp out vc : Nat) (s : State) : Bool :=
  let bit := if vc < 3 then getF F.SW_FWD_MODE_BULK_CT [out] s else if vc = 5 then getF F.SW_FWD_MODE_LINES_CT [out] s
    else getF F.SW_FWD_MODE_CELLS_CT [out] s
  decide (out < 16) && decide (bit = 1) && decide (portRate out s ≤ portRate inp s) &&
    (decide (serviceState s = 0) || (List.range 6).all (fun v => (outQ out v s).isEmpty))

end Sys2Proof.Machine
end

