-- ==== Sys2Proof/Machine/Links.lean ====
section
/-! DEFINITION. Ports: flits and retry (R110 to R117), credits (R118 to R122), training and retraining (R103 to R109), loss of
a neighbour (R133 to R136), ring notices (R143, R144). -/

namespace Sys2Proof.Machine

open Sys2Proof

/-! Flits. -/

/-- A 256-byte flit (R110). -/
def mkFlit (seq ack kind cnt : Nat) (payload : List Byte) : List Byte :=
  let b := natLe 4 (seq % 4096 + ack % 4096 * 2 ^ 12 + kind % 8 * 2 ^ 24 + cnt % 32 * 2 ^ 27) ++ (payload ++ zeros 248).take 248
  b ++ natLe 4 (crc32c b).toNat

/-- The sequence number of the last data flit accepted in order. -/
def lastAccepted (n : Nat) (s : State) : Nat := ((portOf n s).rxSeq - 1).toNat

/-- The VC whose credits the next data flit returns, in round robin, and how many (R121). -/
def nextReturn (q : Port) : Nat × Nat :=
  match ((List.range 6).map (fun i => (q.rrVc + 1 + i) % 6)).find? (fun v => decide (tget 0 q.toReturn v ≠ 0)) with
  | some v => (v, min 31 (tget 0 q.toReturn v))
  | none => (0, 0)

/-- Put a flit on the lanes of a port (R101). -/
def putFlit (n : Nat) (f : List Byte) (s : State) : State := emit (.flit n (onLanes n f s)) s

/-- Send one data flit, keeping it for replay (R111, R121). -/
def sendData (n : Nat) (payload : List Byte) (s : State) : State :=
  let q := portOf n s
  let (v, c) := nextReturn q
  let f := mkFlit q.txSeq.toNat (lastAccepted n s) v c payload
  let s := modPort n (fun q => { q with
    txSeq := q.txSeq + 1, replay := q.replay ++ [(q.txSeq, f)], toReturn := tset 0 q.toReturn v (tget 0 q.toReturn v - c),
    rrVc := if c = 0 then q.rrVc else v }) s
  putFlit n f s

/-- Lay the bytes of the stream that wait into data flits of 248, as long as they fill one (R112); at most `fuel` flits. -/
def sendFull : Nat → Nat → State → State
  | 0, _, s => s
  | k + 1, n, s =>
    let bs := (portOf n s).tx
    if bs.length < 248 then s else sendFull k n (sendData n (bs.take 248) (modPort n (fun q => { q with tx := q.tx.drop 248 }) s))

/-- Send what is left of the stream in a flit padded with zero words (R112). -/
def sendRest (n : Nat) (s : State) : State :=
  if (portOf n s).tx.isEmpty then s else sendData n (portOf n s).tx (modPort n (fun q => { q with tx := [] }) s)

/-- Bytes join the stream of a port, back to back with those before them (R112). -/
def sendBytes (n : Nat) (bs : List Byte) (s : State) : State :=
  sendFull ((portOf n s).tx.length + bs.length) n (modPort n (fun q => { q with tx := q.tx ++ bs }) s)

/-- Send one idle flit with a link-control message (R113). -/
def sendIdle (n : Nat) (msg : List Byte) (s : State) : State :=
  emit (.linkMsg n (onLanes n (mkFlit (portOf n s).txSeq.toNat (lastAccepted n s) 6 0 msg) s)) s

/-- Send a link-control message, in 8 idle flits (R113). -/
def sendLinkMsg (n : Nat) (msg : List Byte) (s : State) : State := forN 8 s (fun _ s => sendIdle n msg s)

/-- Send a NAK flit (R114). -/
def sendNak (n : Nat) (s : State) : State :=
  putFlit n (mkFlit (portOf n s).txSeq.toNat (lastAccepted n s) 7 0 []) s

/-! Ring notices (R144). -/

/-- The next sequence number of a cell to a destination, by kind (R127). -/
def takeCellSeq (dest : BitVec 16) (kind : Nat) (s : State) : Nat × State :=
  let i := dest.toNat * 256 + kind
  let v := tget 0 s.msgs.cellSeq i
  (v, { s with msgs := { s.msgs with cellSeq := tset 0 s.msgs.cellSeq i ((v + 1) % 256) } })

/-- Send one RING_NOTICE to the next neighbour in direction `dir` of dimension `d`: none where the onward link is blocked. -/
def sendNotice (d c state dir : Nat) (s : State) : State :=
  let n := ringLen d s
  let own := coord (ownAddr s) d
  if n < 2 ∨ linkBlocked d (if dir = 0 then own else (own + n - 1) % n) s then s
  else
    let t := if dir = 0 then (own + 1) % n else (own + n - 1) % n
    let dest : BitVec 16 := BitVec.ofNat 16 ((ownAddr s).toNat - own * 16 ^ d + t * 16 ^ d)
    let (q, s) := takeCellSeq dest 0x12 s
    inject 26 { ty := 8, vc := 3, dest := dest, src := ownAddr s, kind := 0x12, seq := BitVec.ofNat 8 q,
                payload := [BitVec.ofNat 8 d, BitVec.ofNat 8 c, BitVec.ofNat 8 state] ++ zeros 45 } s

/-- Send a notice and keep its two repeats (R144). -/
def startNotice (d c state dir : Nat) (s : State) : State :=
  let s := sendNotice d c state dir s
  { s with switch := { s.switch with notices := s.switch.notices ++ [(d, c, state * 2 + dir, 2)] } }

/-- Set or clear a ring-map bit (R143). -/
def setRingBit (d c : Nat) (b : Bool) (s : State) : State :=
  let w := getR .SW_RING_MAP [] s
  let m : Word := BitVec.ofNat 64 (2 ^ (16 * d + c))
  setR .SW_RING_MAP [] (if b then w ||| m else w &&& ~~~m) s

/-- The number of the own link in a direction of a dimension: the coordinate at its lower end (R143); 15 for the minus link of
coordinate 0 while the ring size is not known (log 11). -/
def ownLink (d dir : Nat) (s : State) : Nat :=
  let own := coord (ownAddr s) d
  if dir = 0 then own else if ringLen d s = 0 then (own + 15) % 16 else (own + ringLen d s - 1) % ringLen d s

/-- A port that the ring map takes as DOWN: DOWN and not UP again since, or an analysis port (R143, R188; log 11). -/
def portLost (n : Nat) (s : State) : Bool := (portOf n s).downed || (portOf n s).analysis

/-- The own link of a direction is blocked, as its two ports last showed it. -/
def ownBlocked (d dir : Nat) (s : State) : Bool := tget false s.switch.ownBlocked (d * 2 + dir)

/-- The bits of the ring map that the own ports give. -/
def ownBits (s : State) : Word :=
  BitVec.ofNat 64 (((List.range 8).map (fun i => flagBit (ownBlocked (i / 2) (i % 2) s) (2 ^ (16 * (i / 2) + ownLink (i / 2) (i % 2) s)))).foldl
    (fun a b => a ||| b) 0)

/-- After a change of port `n`: its link is blocked when both ports of its direction are lost, and usable again when one of them is
(R143). A change of that sets the ring map and sends a notice away from the link (R144). -/
def noteRing (n : Nat) (s : State) : State :=
  let d := n / 4
  let dir := n / 2 % 2
  let blocked := if portLost (portAt d dir 0) s && portLost (portAt d dir 1) s then true
    else if portUsable (portAt d dir 0) s || portUsable (portAt d dir 1) s then false
    else ownBlocked d dir s
  if blocked = ownBlocked d dir s then s
  else
    let s := { s with switch := { s.switch with ownBlocked := tset false s.switch.ownBlocked (d * 2 + dir) blocked } }
    let c := ownLink d dir s
    let s := if linkBlocked d c s = blocked then s else enterRecovery (setRingBit d c blocked s)
    if geomValid s then startNotice d c (if blocked then 0 else 1) (1 - dir) s else s

/-- The path epoch after a happening that may have changed the ring map: `up` when a port entered or left UP; it rises by 1 in all
(R152). -/
def noteEpoch (up : Bool) (old s : State) : State :=
  if up || decide (getR .SW_RING_MAP [] old ≠ getR .SW_RING_MAP [] s) then bumpEpoch s else s

/-! Packets from a port (R126, R128, R131). -/

/-- A packet taken from a port's stream joins the input queue, or is discarded and its credits freed; mirror sessions see it as it
arrived (R126, R128, R131, R187, R466). -/
def acceptPacket (port : Nat) (p : Packet) (s : State) : State :=
  let s := mirrorCopies false port p s
  if p.malformed then freeCredits port p.vc p (countR .LNK_PKT_MALFORMED [port] s)
  else if p.code = p.stompCode then freeCredits port p.vc p s
  else if p.isCell && p.badKind && decide (p.dest = ownAddr s) && ! p.multicast then
    freeCredits port p.vc p (countR .LNK_PKT_MALFORMED [port] s)
  else
    let good := decide (p.code = p.crc)
    let g := withGroup p s
    let ct := if p.multicast then ! mcastBad g p.vc && (mcastDue g s).any (fun o => cutThrough port o p.vc s)
      else match route p port p.vc s with | .port out vc _ => cutThrough port out vc s | _ => false
    if ! good && ! ct then freeCredits port p.vc p (addF F.LNK_E2E_BAD [port] 1 s)
    else
      let s := if good then s else addF F.LNK_E2E_STOMPED [port] 1 s
      let q := if good then p else { p with code := p.stompCode }
      let q := if q.isSync then { q with arrival := timeNow s - BitVec.ofNat 64 (portOf port s).delay } else q
      setInQ port p.vc (inQ port p.vc s ++ [withGroup q s]) s

/-- The complete packets in a port's input buffer go on (R135). -/
def drainRx : Nat → Nat → State → State
  | 0, _, s => s
  | k + 1, n, s =>
    match parsePacket (portOf n s).rx with
    | .got p rest => drainRx k n (acceptPacket n p (modPort n (fun q => { q with rx := rest }) s))
    | _ => s

/-! Leaving UP (R135). -/

/-- An event record of a link interface (R500). -/
def linkEvent (n cause lanes : Nat) (s : State) : State :=
  let status := if cause = 5 ∨ cause = 6 then St.notPermitted else if cause = 8 then St.timeout else St.ok
  raiseEvent { status := status, cls := if cause = 4 ∨ cause = 8 then 2 else 0, source := 0x04, unit := n,
               detail := [BitVec.ofNat 8 cause, BitVec.ofNat 8 lanes] } s

/-- Discard the packets queued for a port and free their space; the count includes one cut short in the stream (R135). -/
def dropQueued (n : Nat) (s : State) : State :=
  let k := ((List.range 6).map (fun v => (outQ n v s).length)).sum + (tget [] s.switch.mirrorq n).length +
    (if (portOf n s).tx.isEmpty then 0 else 1)
  let s := setR .LNK_DOWN_DISCARDS [n] (getR .LNK_DOWN_DISCARDS [n] s + BitVec.ofNat 64 k) s
  let s := forN 6 s (fun v s => setOutQ n v [] s)
  let s := { s with switch := { s.switch with mirrorq := tset [] s.switch.mirrorq n [] } }
  noteUnits n s

/-- A port stops carrying flits and enters `state` (R135). -/
def leavePort (n state : Nat) (s : State) : State :=
  let was : Bool := decide (portState n s = Ps.up) || decide (portState n s = Ps.retrain)
  let s := if was then drainRx (portOf n s).rx.length n s else s
  let s := dropQueued n s
  let s := modPort n (fun q => { q with
    replay := [], rx := [], tx := [], toReturn := [], nakSent := false, failed := 0, replayAt := none, retrain := none,
    analysis := false, downed := q.downed || decide (state = Ps.down) }) s
  let s := forN 6 s (fun v s => setF F.LNK_VC_STATE_AVAIL [n, v] 0 s)
  let s := setF F.LNK_STATUS_STATE [n] state (setF F.LNK_STATUS_RATE [n] 0 (setF F.LNK_STATUS_LANES [n] 0
    (setF F.LNK_STATUS_WIDTH [n] 0 s)))
  let t := noteEpoch was s (noteRing n s)
  if was then enterRecovery t else t

/-- The count of entries into DOWN by cause (LNK_DOWN_EVENTS). -/
def downCounter (cause : Nat) : Fld :=
  match cause with
  | 0 => F.LNK_DOWN_EVENTS_LOS
  | 1 => F.LNK_DOWN_EVENTS_RETRY_EXHAUSTED
  | 2 => F.LNK_DOWN_EVENTS_DOWN_NOTICE
  | _ => F.LNK_DOWN_EVENTS_RETRAIN_FAIL

/-- A port becomes DOWN: 0 loss of signal, 1 retry exhaustion, 2 DOWN_NOTICE, 3 failed retrain (R133 to R135). -/
def portDown (n cause : Nat) (s : State) : State :=
  let lanes := getF F.LNK_STATUS_LANES [n] s
  let s := leavePort n Ps.down s
  let s := addF (downCounter cause) [n] 1 s
  linkEvent n cause lanes s

/-- Send DOWN_NOTICE on a port that is UP (R134). -/
def sendDownNotice (n cause : Nat) (s : State) : State :=
  if portState n s = Ps.up then sendLinkMsg n [3, BitVec.ofNat 8 cause] s else s

/-- Every port stops: DOWN_NOTICE where UP, then DISABLED (R134, R136). -/
def stopPorts (cause : Nat) (s : State) : State :=
  forN 16 s (fun n s => if portState n s = Ps.disabled then s else leavePort n Ps.disabled (sendDownNotice n cause s))

/-! Retry (R114 to R117). -/

/-- Take an acknowledgement: flits up to it leave the replay buffer. -/
def takeAck (n : Nat) (a : BitVec 12) (s : State) : State :=
  let q := portOf n s
  if q.replay.any (fun e => decide (e.1 = a)) then
    modPort n (fun q => { q with
      replay := q.replay.filter (fun e => decide ((e.1 - a - 1).toNat < 2048)), acked := a, failed := 0,
      replayAt := none }) s
  else s

/-- Resend every unacknowledged flit, in order (R115); a replay with no advance since the last is a failed retry, and
RETRY_LIMIT of them make the port DOWN (R117). -/
def replayAll (n : Nat) (s : State) : State :=
  let q := portOf n s
  let s := countR .LNK_REPLAYS [n] s
  let failed := if q.replayAt = some q.acked then q.failed + 1 else q.failed
  let limit := min 32 (max 4 (getF F.LNK_RETRY_RETRY_LIMIT [n] s))
  let s := modPort n (fun q => { q with failed := failed, replayAt := some q.acked }) s
  if limit ≤ failed then portDown n 1 s
  else forList q.replay s (fun e s =>
    putFlit n (mkFlit e.1.toNat (lastAccepted n s) (fieldAt e.2 3 1 % 8) (fieldAt e.2 3 1 / 8) ((e.2.drop 4).take 248)) s)

/-- A receiver discards a data flit, and sends a NAK on the first one after an accepted flit (R114). -/
def discardFlit (n : Nat) (s : State) : State :=
  let s := countR .LNK_FLIT_BAD [n] s
  if (portOf n s).nakSent then s else sendNak n (modPort n (fun q => { q with nakSent := true }) s)

/-- A NAK: its acknowledgement, then every flit after it again (R115). -/
def takeNak (n : Nat) (a : BitVec 12) (s : State) : State :=
  if portState n s ≠ Ps.up then s else replayAll n (takeAck n a s)

/-! Training and retraining. -/

/-- The widths of R102 as lane sets: the widest that uses only the given lanes (code 0 x1, 1 x2, 2 x4). -/
def widestLanes (ok : BitVec 4) : Option (Nat × Nat) :=
  if ok = 15 then some (2, 15)
  else if ok.getLsbD 0 && ok.getLsbD 1 then some (1, 3)
  else if ok.getLsbD 2 && ok.getLsbD 3 then some (1, 12)
  else ((List.range 4).find? (fun l => ok.getLsbD l)).map (fun l => (0, 2 ^ l))

/-- WIDTH_MIN of a port: 3 is taken as 2 (LNK_CTRL). -/
def widthMin (n : Nat) (s : State) : Nat := min 2 (getF F.LNK_CTRL_WIDTH_MIN [n] s)

/-- A pass through the combinations of rate and width begins: RATES and WIDTH_MIN are read afresh (R105). -/
def startPass (n : Nat) (s : State) : State :=
  modPort n (fun q => { q with
    attempt := 0, passFailed := false, passRates := getF F.LNK_CTRL_RATES [n] s, passWidth := widthMin n s, common := none }) s

/-- Full training begins (R104). -/
def startTraining (n : Nat) (s : State) : State :=
  let s := modPort n (fun q => { q with retrain := none }) (startPass n s)
  let s := forN 4 s (fun l s => setF F.LNK_LANE_DROPPED [n, l] 0 (setF F.LNK_LANE_LOCK [n, l] 0 s))
  setF F.LNK_NEIGHBOUR_VALID [n] 0 (setF F.LNK_STATUS_STATE [n] Ps.training s)

/-- The device lets ports train: it is in IDLE, LENDER or ACTIVE, and the strap parity is right (R103, R136, R492). -/
def portsAllowed (s : State) : Bool :=
  decide (2 ≤ getF F.BC_STATE_DEVICE [] s) && decide (getF F.ID_ADDR_PARITY_OK [] s = 1)

/-- Every enabled port starts full training (R104, R434). -/
def trainPorts (s : State) : State :=
  forN 16 s (fun n s =>
    if getF F.LNK_CTRL_ENABLE [n] s = 1 ∧ portState n s = Ps.disabled ∧ portsAllowed s then startTraining n s else s)

/-- The lowest credits of a VC (R118). -/
def minAdvert (vc : Nat) : Nat := ([130, 130, 260, 64, 64, 130] : List Nat).getD vc 0

/-- The credit division of ADVERT can be applied (R119). -/
def divisionOk (n : Nat) (s : State) : Bool :=
  let a := fun v => getF F.LNK_VC_STATE_ADVERT [n, v] s
  (List.range 6).all (fun v => decide (minAdvert v ≤ a v)) && decide (((List.range 6).map a).sum ≤ 4096)

/-- The neighbour check (R107) on a parameter block (R106). -/
def neighbourOk (n : Nat) (params : List Byte) (s : State) : Bool :=
  let a : BitVec 16 := BitVec.ofNat 16 (fieldAt params 0 2)
  let own := ownAddr s
  let mirror := portAt (n / 4) (1 - n / 2 % 2) (n % 2)
  decide (fieldAt params 2 1 % 16 = mirror) && decide (fieldAt params 18 2 = 1) && decide (plane a = plane own) &&
  (List.range 4).all (fun d => if d = n / 4 then decide (coord a d ≠ coord own d) else decide (coord a d = coord own d))

/-- The credits a port advertises for a VC: those of ADVERT, or the default where that division cannot be applied (R119). -/
def advertised (n v : Nat) (s : State) : Nat := if divisionOk n s then getF F.LNK_VC_STATE_ADVERT [n, v] s else defaultAdvert v

/-- The parameter block of port `n` with its allowed rates (R106). -/
def ownParams (n rates : Nat) (s : State) : List Byte :=
  natLe 2 (ownAddr s).toNat ++ natLe 1 (n % 16) ++ natLe 1 (rates % 8) ++
  (List.range 6).flatMap (fun v => natLe 2 (advertised n v s)) ++ natLe 2 1024 ++ natLe 2 1 ++ zeros 12

/-- The port enters UP: sequence numbers from 0, credits from the two parameter blocks, packets of the old epoch marked (R104, R119,
R120, R135, R148). -/
def enterUp (n : Nat) (params : List Byte) (s : State) : State :=
  let analysis := decide (getF F.SW_FWD_MODE_ANALYSIS [n] s = 1)
  let s := forN 6 s (fun v s => setInQ n v ((inQ n v s).map (fun p => { p with stale := true })) s)
  let s := modPort n (fun q => { q with
    txSeq := 0, rxSeq := 0, acked := 0xFFF, replay := [], rx := [], tx := [], toReturn := [], nakSent := false, failed := 0,
    replayAt := none, retrain := none, analysis := analysis, downed := false,
    advert := (List.range 6).foldl (fun t v => tset 0 t v (advertised n v s)) [] }) s
  let s := forN 6 s (fun v s =>
    let a := fieldAt params (4 + 2 * v) 2
    let s := setF F.LNK_VC_STATE_AVAIL [n, v] a (setF F.LNK_VC_STATE_PEER_ADVERT [n, v] a s)
    dropLatch [regOff .LNK_VC_STATE [n, v], regOff .LNK_VC_USED [n, v], regOff .LNK_VC_RETURNED [n, v], regOff .LNK_VC_FREED [n, v]]
      (setR .LNK_VC_USED [n, v] 0 (setR .LNK_VC_RETURNED [n, v] 0 (setR .LNK_VC_FREED [n, v] 0 s))))
  let s := setF F.LNK_STATUS_STATE [n] Ps.up (addF F.LNK_STATUS_EPOCH [n] 1 s)
  let s := setR .SW_CONG [n] 0 s
  noteEpoch true s (noteRing n s)

/-- Training passes at a rate (1 to 3) and lane set, with usable lanes `ok` and the neighbour's parameter block (R104 to R107,
R119). -/
def completeTraining (n rate width lanes rates : Nat) (ok : BitVec 4) (params : List Byte) (delay : Nat) (s : State) : State :=
  let refused := ! divisionOk n s
  let analysis := decide (getF F.SW_FWD_MODE_ANALYSIS [n] s = 1)
  let s := emit (.params n (ownParams n rates s)) s
  let s := setR .LNK_NEIGHBOUR [n] (BitVec.ofNat 64 (fieldAt params 0 2 + fieldAt params 18 2 * 2 ^ 16 +
    fieldAt params 2 1 % 16 * 2 ^ 32 + 2 ^ 63)) s
  let s := setF F.LNK_STATUS_RATE [n] rate (setF F.LNK_STATUS_WIDTH [n] width (setF F.LNK_STATUS_LANES [n] lanes s))
  let s := forN 4 s (fun l s => setF F.LNK_LANE_LOCK [n, l] (if ok.getLsbD l then 1 else 0) s)
  let s := modPort n (fun q => { q with leftTraining := true, delay := delay, peer := params }) s
  if ! analysis && ! neighbourOk n params s then
    noteService (linkEvent n 5 lanes (setF F.LNK_STATUS_STATE [n] Ps.miswired s))
  else
    let s := enterUp n params s
    noteService (linkEvent n 7 lanes (if refused then linkEvent n 6 lanes s else s))

/-- The retrain begins: the port leaves UP with its state kept (R103, R180). -/
def beginRetrain (n : Nat) (s : State) : State := enterRecovery (setF F.LNK_STATUS_STATE [n] Ps.retrain s)

/-- A retrain request of the partner (R108, R109); where the own request stands, it is taken as its acknowledgement, and the own kind
and width hold (DESIGN CHOICE, log 71). -/
def takeRetrainReq (n kind width : Nat) (s : State) : State :=
  if portState n s ≠ Ps.up then s
  else if (portOf n s).retrain.isSome then beginRetrain n s
  else
    let s := sendLinkMsg n [2, BitVec.ofNat 8 kind, BitVec.ofNat 8 width] s
    beginRetrain n (modPort n (fun q => { q with retrain := some (kind, width) }) s)

/-- The partner's acknowledgement of a retrain request (R108). -/
def takeRetrainAck (n : Nat) (s : State) : State :=
  if portState n s = Ps.up ∧ (portOf n s).retrain.isSome then beginRetrain n s else s

/-- DOWN_NOTICE of the partner (R134, R107). -/
def takeDownNotice (n : Nat) (s : State) : State :=
  if portState n s = Ps.up ∨ portState n s = Ps.miswired then portDown n 2 s else s

/-- Count the codewords that a flit reports first: symbols corrected, and uncorrectable codewords (R100). -/
def noteFec (n : Nat) (fec : List (Nat × Bool)) (s : State) : State :=
  let new := fec.filter (fun x => x.2)
  let s := setR .LNK_FEC_CORR [n] (getR .LNK_FEC_CORR [n] s + BitVec.ofNat 64 ((new.filter (fun x => fecCorrects x.1)).map (fun x => x.1)).sum) s
  setR .LNK_FEC_UNCORR [n] (getR .LNK_FEC_UNCORR [n] s + BitVec.ofNat 64 (new.filter (fun x => ! fecCorrects x.1)).length) s

/-- A flit arrives on the active lanes (R101, R110 to R115): `fec` gives the codewords that touch its bytes, each with its erroneous
symbols and whether no flit before it has reported it (R100). -/
def takeFlit (n : Nat) (lanes : List (List Byte)) (fec : List (Nat × Bool)) (s : State) : State :=
  let flit := offLanes lanes
  if portState n s ≠ Ps.up ∨ lanes.length ≠ (activeLanes n s).length ∨ flit.length ≠ 256 then s
  else
    let uncorr := fec.any (fun x => ! fecCorrects x.1)
    let s := noteFec n fec s
    let hdr := fieldAt flit 0 4
    let seq := hdr % 4096
    let ack : BitVec 12 := BitVec.ofNat 12 (hdr / 2 ^ 12)
    let kind := hdr / 2 ^ 24 % 8
    let cnt := hdr / 2 ^ 27
    let good := ! uncorr && decide (crc32c (flit.take 252) = BitVec.ofNat 32 (fieldAt flit 252 4))
    if kind < 6 then
      if good && decide (seq = (portOf n s).rxSeq.toNat) then
        let s := takeAck n ack s
        let s := modPort n (fun q => { q with rxSeq := q.rxSeq + 1, nakSent := false, rx := q.rx ++ (flit.drop 4).take 248 }) s
        if cnt = 0 then s
        else
          let s := addF F.LNK_VC_STATE_AVAIL [n, kind] cnt s
          setR .LNK_VC_RETURNED [n, kind] (getR .LNK_VC_RETURNED [n, kind] s + BitVec.ofNat 64 cnt) s
      else discardFlit n s
    else if ! good then s
    else if kind = 7 then takeNak n ack s
    else
      let s := takeAck n ack s
      match fieldAt flit 4 1 with
      | 1 => takeRetrainReq n (fieldAt flit 5 1) (fieldAt flit 6 1) s
      | 2 => takeRetrainAck n s
      | 3 => takeDownNotice n s
      | _ => s

/-! The commands. -/

/-- LNK_CTRL of a port may be written by this requester now. -/
def linkWrite (fn : Requester) (n : Nat) (s : State) : Bool := decide (n < 16) && fnAllowed fn (regOff .LNK_CTRL [n]) s

/-- ENABLE written 1 (R104). -/
def portEnableStep (n : Nat) (s : State) : State :=
  let s := setF F.LNK_CTRL_ENABLE [n] 1 s
  if portState n s = Ps.disabled ∧ portsAllowed s then startTraining n s else s

/-- ENABLE written 0 (R134). -/
def portDisableStep (n : Nat) (s : State) : State :=
  let s := setF F.LNK_CTRL_ENABLE [n] 0 s
  noteService (if portState n s = Ps.disabled then s else leavePort n Ps.disabled (sendDownNotice n 0 s))

/-- RETRAIN written 1 (R108). -/
def plannedRetrainStep (n : Nat) (s : State) : State :=
  if portState n s = Ps.up ∧ (portOf n s).retrain = none then
    let w := 2 ^ getF F.LNK_STATUS_WIDTH [n] s
    modPort n (fun q => { q with retrain := some (0, w) }) (sendLinkMsg n [1, 0, BitVec.ofNat 8 w] s)
  else s

/-- PORT_ENABLE (R104). -/
def execPortEnable (fn : Requester) (port : Nat) (s : State) : Host.Outcome State Fault Refusal :=
  runIf (linkWrite fn port s) (portEnableStep port) s

/-- PORT_DISABLE (R134). -/
def execPortDisable (fn : Requester) (port : Nat) (s : State) : Host.Outcome State Fault Refusal :=
  runIf (linkWrite fn port s) (portDisableStep port) s

/-- PLANNED_RETRAIN (R108). -/
def execPlannedRetrain (fn : Requester) (port : Nat) (s : State) : Host.Outcome State Fault Refusal :=
  runIf (linkWrite fn port s) (plannedRetrainStep port) s

/-- The first lanes of a set that make at most a width (R102); after a width change, too, which names no lanes (DESIGN CHOICE, log
71). -/
def lanesOfWidth (ok : BitVec 4) (w : Nat) : Option (Nat × Nat) :=
  match widestLanes ok with
  | none => none
  | some (k, l) =>
    if 2 ^ k ≤ w then some (k, l)
    else if w = 2 then some (1, 3)
    else ((List.range 4).find? (fun l => ok.getLsbD l)).map (fun l => (0, 2 ^ l))

/-- The own allowed rates and the common ones of the pass under way: RATES as read at its start, with the rates the fitted cable or
module reports and those of the neighbour, which stand once an attempt has shown them (R105). -/
def passSets (n cable peer : Nat) (s : State) : Nat × Nat :=
  match (portOf n s).common with
  | some x => x
  | none => ((portOf n s).passRates &&& cable, (portOf n s).passRates &&& cable &&& peer)

/-- The combinations of a pass, in order: each common rate from the highest, each width from x4 that is not below WIDTH_MIN (R105). -/
def combinations (common wmin : Nat) : List (Nat × Nat) :=
  (([3, 2, 1] : List Nat).filter (fun r => common.testBit (r - 1))).flatMap (fun r =>
    (([2, 1, 0] : List Nat).filter (fun w => decide (wmin ≤ w))).map (fun w => (r, w)))

/-- TRAINING_COMPLETE (R104 to R107): the attempt that is due passes, on the usable lanes `lanes` (R102, R105). -/
def execTrainingComplete (port : Nat) (cable : BitVec 3) (lanes : BitVec 4) (params : List Byte) (delay : Nat) (s : State) :
    Host.Outcome State Fault Refusal :=
  runIf (decide (port < 16)) (fun s =>
    let sets := passSets port cable.toNat (fieldAt params 3 1) s
    match (combinations sets.2 (portOf port s).passWidth)[(portOf port s).attempt]? with
    | none => s
    | some (rate, width) =>
      match lanesOfWidth lanes (2 ^ width) with
      | none => s
      | some (w, l) =>
        if portState port s = Ps.training ∧ (portOf port s).passFailed = false ∧ params.length = 32 ∧
           (fieldAt params 3 1).testBit (rate - 1) ∧ w = width then
          completeTraining port rate w l sets.1 lanes params delay s
        else s) s

/-- TRAINING_ATTEMPT_TIMEOUT (R105): the next combination, or the pass has failed. -/
def execTrainingAttemptTimeout (attempt : Attempt) (s : State) : Host.Outcome State Fault Refusal :=
  let port := attempt.port
  runIf (decide (port < 16)) (fun s =>
    if portState port s ≠ Ps.training ∨ (portOf port s).passFailed then s
    else
      let sets := passSets port attempt.cable.toNat attempt.peer.toNat s
      let a := (portOf port s).attempt + 1
      let s := modPort port (fun q => { q with attempt := a, common := some sets }) s
      if a < (combinations sets.2 (portOf port s).passWidth).length then s
      else linkEvent port 8 0 (modPort port (fun q => { q with passFailed := true }) s)) s

/-- TRAINING_PASS_RESTART (R105). -/
def execTrainingPassRestart (port : Nat) (s : State) : Host.Outcome State Fault Refusal :=
  runIf (decide (port < 16)) (fun s =>
    if portState port s = Ps.training ∧ (portOf port s).passFailed then startPass port s else s) s

/-- DOWN_HOLDOFF_EXPIRE (R103). -/
def execDownHoldoffExpire (port : Nat) (s : State) : Host.Outcome State Fault Refusal :=
  runIf (decide (port < 16)) (fun s =>
    if portState port s = Ps.down ∧ getF F.LNK_CTRL_ENABLE [port] s = 1 then startTraining port s else s) s

/-- RETRAIN_REQ (R108). -/
def execRetrainReq (port kind width : Nat) (s : State) : Host.Outcome State Fault Refusal :=
  runIf (decide (port < 16)) (takeRetrainReq port kind width) s

/-- RETRAIN_ACK (R108). -/
def execRetrainAck (port : Nat) (s : State) : Host.Outcome State Fault Refusal :=
  runIf (decide (port < 16)) (takeRetrainAck port) s

/-- The usable lanes of a port: locked at the full training and not dropped since (R102, R109). -/
def keptLanes (n : Nat) (s : State) : BitVec 4 :=
  BitVec.ofNat 4 (((List.range 4).map (fun l =>
    flagBit (decide (getF F.LNK_LANE_LOCK [n, l] s = 1) && decide (getF F.LNK_LANE_DROPPED [n, l] s = 0)) (2 ^ l))).sum)

/-- RETRAIN_COMPLETE (R108, R109): the port resumes with its state kept; a width change sets the new width, on the lanes R102 gives for
it (log 71), and one that does not keep WIDTH_MIN makes the port DOWN (R133). -/
def execRetrainComplete (port : Nat) (s : State) : Host.Outcome State Fault Refusal :=
  runIf (decide (port < 16)) (fun s =>
    if portState port s ≠ Ps.retrain then s
    else
      let r := (portOf port s).retrain
      let s := setF F.LNK_STATUS_STATE [port] Ps.up (modPort port (fun q => { q with retrain := none }) s)
      match r with
      | some (1, w) =>
        match lanesOfWidth (keptLanes port s) w with
        | some (k, l) =>
          if k < widthMin port s then portDown port 3 s
          else linkEvent port 4 l (setF F.LNK_STATUS_WIDTH [port] k (setF F.LNK_STATUS_LANES [port] l s))
        | none => portDown port 3 s
      | _ => s) s

/-- RETRAIN_TIMEOUT (R108, R133). -/
def execRetrainTimeout (port : Nat) (s : State) : Host.Outcome State Fault Refusal :=
  runIf (decide (port < 16)) (fun s =>
    if portState port s = Ps.retrain ∨ (portState port s = Ps.up ∧ (portOf port s).retrain.isSome) then portDown port 3 s
    else s) s

/-- LANE_DROP (R109). -/
def execLaneDrop (port lane : Nat) (s : State) : Host.Outcome State Fault Refusal :=
  runIf (decide (port < 16) && decide (lane < 4)) (fun s =>
    if portState port s ≠ Ps.up ∨ (getF F.LNK_STATUS_LANES [port] s).testBit lane = false ∨
       (portOf port s).retrain.isSome then s
    else
      let s := setF F.LNK_LANE_DROPPED [port, lane] 1 (setF F.LNK_LANE_LOCK [port, lane] 0 s)
      match widestLanes (keptLanes port s) with
      | some (w, _) =>
        if widthMin port s ≤ w then
          modPort port (fun q => { q with retrain := some (1, 2 ^ w) }) (sendLinkMsg port [1, 1, BitVec.ofNat 8 (2 ^ w)] s)
        else portDown port 3 s
      | none => portDown port 3 s) s

/-- FLIT_RECEIVE (R114). -/
def execFlitReceive (port : Nat) (lanes : List (List Byte)) (fec : List (Nat × Bool)) (s : State) : Host.Outcome State Fault Refusal :=
  runIf (decide (port < 16) && decide (lanes.length ≤ 4)) (takeFlit port lanes fec) s

/-- NAK_REPEAT (R114). -/
def execNakRepeat (port : Nat) (s : State) : Host.Outcome State Fault Refusal :=
  runIf (decide (port < 16)) (fun s =>
    if portState port s = Ps.up ∧ (portOf port s).nakSent then sendNak port s else s) s

/-- NAK_RECEIVE (R115). -/
def execNakReceive (port : Nat) (ack : BitVec 12) (s : State) : Host.Outcome State Fault Refusal :=
  runIf (decide (port < 16)) (takeNak port ack) s

/-- REPLAY_TIMER_EXPIRE (R115). -/
def execReplayTimerExpire (port : Nat) (s : State) : Host.Outcome State Fault Refusal :=
  runIf (decide (port < 16)) (fun s =>
    if portState port s = Ps.up ∧ (portOf port s).replay ≠ [] then replayAll port s else s) s

/-- LOSS_OF_SIGNAL (R133): not during a planned retrain. -/
def execLossOfSignal (port : Nat) (s : State) : Host.Outcome State Fault Refusal :=
  runIf (decide (port < 16)) (fun s =>
    if portState port s = Ps.up ∨ portState port s = Ps.miswired then portDown port 0 s else s) s

/-- DOWN_NOTICE_RECEIVE (R134). -/
def execDownNoticeReceive (port _cause : Nat) (s : State) : Host.Outcome State Fault Refusal :=
  runIf (decide (port < 16)) (takeDownNotice port) s

/-- LINK_PACKET_RECEIVE (R126, R128, R131, R466): the port takes one packet from its stream. -/
def execLinkPacketReceive (port : Nat) (s : State) : Host.Outcome State Fault Refusal :=
  runIf (decide (port < 16)) (fun s =>
    match parsePacket (portOf port s).rx with
    | .more => s
    | .badLen => portDown port 1 (countR .LNK_PKT_MALFORMED [port] s)
    | .got p rest =>
      acceptPacket port p (modPort port (fun q => { q with rx := rest }) s)) s

end Sys2Proof.Machine
end

