-- ==== Sys2Proof/Machine/Messages.lean ====
section
/-! DEFINITION. Messages and control cells: rank translation (R141), end-to-end credits (R162, R163), starting and resending
(R163, R167), acknowledged cells (R169), the unreachable mark (R171). What a unit does when it is told of an acknowledgement
or a loss is in Machine/Fabric.lean. -/

namespace Sys2Proof.Machine

open Sys2Proof

/-- Change the message state. -/
def modMsgs (f : Msgs → Msgs) (s : State) : State := { s with msgs := f s.msgs }

/-- The physical address of a rank of a rope, by the active bank of its map (R140, R141). -/
def rankAddr (r rank : Nat) (s : State) : Option (BitVec 16) :=
  let bank := if (getF F.SW_RANKMAP_BANKS_BANK [] s).testBit r then 1 else 0
  let e : BitVec 32 := tget 0 s.tables.rankMap ((r * 2 + bank) * 32768 + rank)
  if rank < getF F.SW_RANKMAP_SIZE [r] s ∧ e.getLsbD 31 then some (BitVec.ofNat 16 e.toNat) else none

/-- The rank an address has in a rope's active map. -/
def addrRank (r : Nat) (a : BitVec 16) (s : State) : Option Nat :=
  (List.range (getF F.SW_RANKMAP_SIZE [r] s)).find? (fun k => decide (rankAddr r k s = some a))

/-- An address is marked unreachable (R171). -/
def unreachable (a : BitVec 16) (s : State) : Bool := tget false s.msgs.unreach a.toNat

/-- RESEND_LIMIT (R167). -/
def resendLimit (s : State) : Nat := getF F.SW_MSG_CTRL_RESEND_LIMIT [] s

/-! Cells. -/

/-- Cells of a kind to a destination that are not acknowledged. -/
def unackedCells (dest : BitVec 16) (kind : Nat) (s : State) : Nat :=
  (s.msgs.cells.filter (fun c => decide (c.dest = dest) && decide (c.kind = kind))).length

/-- Put a waiting cell on its way: it takes its SEQ and stays until acknowledged (R169). -/
def launchCell (c : OutCell) (s : State) : State :=
  let (q, s) := takeCellSeq c.dest c.kind s
  let pkt := { c.pkt with seq := BitVec.ofNat 8 q, dest := c.dest, src := ownAddr s }
  inject c.inp pkt (modMsgs (fun m => { m with cells := m.cells ++ [{ c with seq := q, pkt := pkt }] }) s)

/-- Send a control cell that is acknowledged (R169), to a rank that lies at `dest` now or to the address: at once, or once fewer than 128 are unacknowledged and the hold of R168
is over. False, with nothing sent, when the address is unreachable (R171). -/
def sendCellTo (u : MsgUnit) (rank : Option (Nat × Nat)) (dest : BitVec 16) (kind : Nat) (job : Nat) (tag : BitVec 32)
    (payload : List Byte) (inp : Nat) (s : State) : Bool × State :=
  if unreachable dest s then (false, s)
  else
    let c : OutCell := ⟨dest, kind, 0, 0, inp, u,
      { ty := 8, vc := 3, job := BitVec.ofNat 16 job, kind := BitVec.ofNat 8 kind, tag := tag, payload := payload }, rank⟩
    if s.msgs.hold || decide (128 ≤ unackedCells dest kind s) ||
       s.msgs.cellWait.any (fun x => decide (x.dest = dest) && decide (x.kind = kind)) then
      (true, modMsgs (fun m => { m with cellWait := m.cellWait ++ [c] }) s)
    else (true, launchCell c s)

/-- Send such a cell to an address. -/
def sendCell (u : MsgUnit) (dest : BitVec 16) (kind : Nat) (job : Nat) (tag : BitVec 32) (payload : List Byte) (inp : Nat)
    (s : State) : Bool × State := sendCellTo u none dest kind job tag payload inp s

/-- A cell to a rank of a rope (R141). -/
def sendCellRank (u : MsgUnit) (r rank : Nat) (kind : Nat) (tag : BitVec 32) (payload : List Byte) (inp : Nat) (s : State) :
    Bool × State :=
  match rankAddr r rank s with
  | none => (false, s)
  | some a => sendCellTo u (some (r, rank)) a kind (ropeJob r s) tag payload inp s

/-- A waiting cell with the address its rank translates to as it starts; none where it does not translate (R141). -/
def cellDest (c : OutCell) (s : State) : Option OutCell :=
  match c.rank with
  | some (r, k) => (rankAddr r k s).map (fun a => { c with dest := a })
  | none => some c

/-- Launch the waiting cells that may go now, in order; answers those that fail at once (R141, R169, R171). -/
def pumpCells (s : State) : List OutCell × State :=
  if s.msgs.hold then ([], s)
  else
    s.msgs.cellWait.foldl (fun (acc : List OutCell × State) w =>
      match cellDest w acc.2 with
      | none => (acc.1 ++ [w], acc.2)
      | some c =>
      if unreachable c.dest acc.2 then (acc.1 ++ [c], acc.2)
      else if 128 ≤ unackedCells c.dest c.kind acc.2 then
        (acc.1, modMsgs (fun m => { m with cellWait := m.cellWait ++ [c] }) acc.2)
      else (acc.1, launchCell c acc.2))
      ([], modMsgs (fun m => { m with cellWait := [] }) s)

/-- Send an unacknowledged cell of the device itself: MACK, CACK (R166, R169). -/
def sendAck (dest : BitVec 16) (kind : Nat) (words : List Nat) (s : State) : State :=
  let (q, s) := takeCellSeq dest kind s
  inject 26 { ty := 8, vc := 3, dest := dest, src := ownAddr s, kind := BitVec.ofNat 8 kind, seq := BitVec.ofNat 8 q,
              tag := BitVec.ofNat 32 words.length, payload := (words.flatMap (natLe 4) ++ zeros 48).take 48 } s

/-- Acknowledge a control cell by a CACK (R169). -/
def ackCell (p : Packet) (s : State) : State := sendAck p.src 0x11 [p.kind.toNat + p.seq.toNat * 256] s

/-! Messages. -/

/-- Cut data into payloads of at most `m` bytes, with their offsets (`fuel` pieces at most). -/
def cutData : Nat → Nat → Nat → List Byte → List (Nat × List Byte)
  | 0, _, _, _ => []
  | k + 1, m, off, bs =>
    if bs.length ≤ m then [(off, bs)] else (off, bs.take m) :: cutData k m (off + m) (bs.drop m)

/-- The packets of a message: numbered, with LAST and TOTAL on the last (R124). `t` gives the rest of the header. -/
def makePackets (t : Packet) (parts : List (Nat × List Byte)) : List Packet :=
  (parts.zipIdx).map (fun e =>
    let i := e.2
    { t with offset := BitVec.ofNat 32 e.1.1, payload := e.1.2, len := BitVec.ofNat 16 (e.1.2.length / 16),
             pseq := BitVec.ofNat 16 i, last := decide (i + 1 = parts.length),
             total := if i + 1 = parts.length then BitVec.ofNat 16 parts.length else 0 })

/-- Bytes padded with zeros to a multiple of 16. -/
def pad16 (bs : List Byte) : List Byte := bs ++ zeros ((16 - bs.length % 16) % 16)

/-- Hand a message to the device to be started (R163). -/
def queueMsg (m : MsgReq) (s : State) : State := modMsgs (fun k => { k with waiting := k.waiting ++ [m] }) s

/-- The sending unit of a message, for the round robin of R163. -/
def unitKey : MsgUnit → Nat
  | .xeBulk d _ _ => d
  | .xeReturn d _ _ _ _ => d
  | .xeCell d _ _ => d
  | .coll c _ => 16 + c
  | .read _ => 32
  | .write _ _ _ _ => 33
  | .lender m => 34 + m
  | .basecamp => 36

/-- The end-to-end credits taken at a destination (R163). -/
def takenCredits (dest : BitVec 16) (s : State) : List Nat :=
  (s.msgs.outst.filter (fun m => decide (m.dest = dest))).map (fun m => m.cred)

/-- Free end-to-end credits for a destination (R163). -/
def freeE2e (dest : BitVec 16) (s : State) : Nat := 16 - (takenCredits dest s).length

/-- The lowest-numbered free credit of a destination (R162). -/
def lowestCredit (dest : BitVec 16) (s : State) : Option Nat :=
  (List.range 16).find? (fun c => ! (takenCredits dest s).contains c)

/-- The destination of a waiting message; none where its rank does not translate (R141). -/
def reqDest (m : MsgReq) (s : State) : Option (BitVec 16) :=
  match m.rank with
  | some (r, k) => rankAddr r k s
  | none => some m.addr

/-- A waiting message can start now, or fails at once (R141, R163, R168, R171). -/
def canStartMsg (m : MsgReq) (s : State) : Bool :=
  match reqDest m s with
  | none => true
  | some a => unreachable a s || (! s.msgs.hold && (lowestCredit a s).isSome)

/-- Two writes to lent memory go to the same bytes. -/
def writesOverlap (a b : List Packet) : Bool :=
  a.any (fun p => b.any (fun q => decide (p.handle = q.handle) && decide (p.offset.toNat < q.offset.toNat + q.payload.length) &&
    decide (q.offset.toNat < p.offset.toNat + p.payload.length)))

/-- A write to lent memory waits for an earlier one to the same bytes, so that they land in order (R256, R259). -/
def writeBlocked (m : MsgReq) (i : Nat) (s : State) : Bool :=
  isWrite m.unit &&
  (s.msgs.outst.any (fun o => isWrite o.unit && decide (o.dest = m.addr) && writesOverlap o.packets m.packets) ||
   (s.msgs.waiting.take i).any (fun o => isWrite o.unit && decide (o.addr = m.addr) && writesOverlap o.packets m.packets))

/-- The waiting message whose turn it is: round robin by unit, each unit's in order (R163). -/
def pickMsg (s : State) : Option Nat :=
  let cand := (s.msgs.waiting.zipIdx).filter (fun e => canStartMsg e.1 s && ! writeBlocked e.1 e.2 s)
  let dist := fun (m : MsgReq) => (unitKey m.unit + 64 - s.msgs.lastUnit - 1) % 64
  (cand.foldl (fun (best : Option (Nat × Nat)) e =>
    match best with
    | none => some (dist e.1, e.2)
    | some b => if dist e.1 < b.1 then some (dist e.1, e.2) else best) none).map (fun b => b.2)

/-- A MSGID (R162). -/
def msgId (try_ cred gen slot : Nat) : BitVec 32 :=
  BitVec.ofNat 32 (try_ % 4 * 2 ^ 30 + cred % 16 * 2 ^ 26 + gen % 16384 * 2 ^ 12 + slot % 4096)

/-- Send every packet of a message attempt. -/
def sendPackets (m : OutMsg) (s : State) : State :=
  forList m.packets s (fun p s =>
    inject m.inp { p with dest := m.dest, src := ownAddr s, msgid := msgId m.try_ m.cred m.gen m.slot } s)

/-- Start a message to an address on a credit (R162, R163). -/
def launchMsg (m : MsgReq) (dest : BitVec 16) (cred : Nat) (s : State) : State :=
  let i := dest.toNat * 16 + cred
  let gen := tget 0 s.msgs.gens i
  let slot := ((List.range 4096).find? (fun k => ! s.msgs.outst.any (fun o => decide (o.slot = k)))).getD 0
  let rep := match m.rank, m.unit with
    | some (r, _), _ => repro r s
    | none, .write _ r _ _ => repro r s
    | none, _ => false
  let o : OutMsg := ⟨dest, cred, gen, slot, 0, rep, m.unit, m.inp, m.packets, m.aflow⟩
  let s := modMsgs (fun k => { k with
    outst := k.outst ++ [o], gens := tset 0 k.gens i ((gen + 1) % 16384), lastUnit := unitKey m.unit }) s
  let s := countR .SW_MSG_OUTSTANDING [] (countR .SW_MSG_STARTED [] s)
  sendPackets o s

/-- Start the message whose turn it is; answers one that fails at once (R141, R163, R171). -/
def startMsg (s : State) : Option MsgReq × State :=
  match pickMsg s with
  | none => (none, s)
  | some i =>
    match s.msgs.waiting[i]? with
    | none => (none, s)
    | some m =>
      let s := modMsgs (fun k => { k with waiting := dropAt k.waiting i }) s
      match reqDest m s with
      | none => (some m, countR .SW_MSG_REFUSED [] s)
      | some a =>
        if unreachable a s then (some m, countR .SW_MSG_REFUSED [] s)
        else match lowestCredit a s with
          | some c => (none, launchMsg m a c s)
          | none => (none, s)

/-- The packets of a resend: RETX, adaptive, or ordered on VC0 in reproducible mode, never on a fixed line (R167). -/
def resendPackets (m : OutMsg) : List Packet :=
  m.packets.map (fun p => { p with retx := true, fixedLine := false, flow := m.aflow, vc := if m.repro then 0 else 1, ordered := m.repro })

/-- Mark an address unreachable (R171). -/
def markUnreachable (a : BitVec 16) (s : State) : State :=
  modMsgs (fun k => { k with unreach := tset false k.unreach a.toNat true }) s

end Sys2Proof.Machine
end

