-- ==== Sys2Proof/Machine/Stored.lean ====
section
/-! DEFINITION. The stored forms of a 16-byte word and their decoders: K144 in core and cluster stores (R345, R346) and the 20
symbols of DDR5 (R347, R348); what a read that meets an error does (R349). -/

namespace Sys2Proof.Machine

open Sys2Proof

/-! GF(2^8) with field polynomial 0x11D and α = 2 (R345). -/

/-- Multiply by α. -/
def gfDouble (x : Nat) : Nat := if 128 ≤ x then (2 * x ^^^ 0x11D) % 256 else 2 * x

/-- α^n times x. -/
def gfShift : Nat → Nat → Nat
  | 0, x => x
  | n + 1, x => gfShift n (gfDouble x)

/-- The product, bit by bit of the second factor from bit `n` − 1 down. -/
def gfMulBits : Nat → Nat → Nat → Nat
  | 0, _, _ => 0
  | n + 1, a, b => (if b.testBit n then gfShift n a else 0) ^^^ gfMulBits n a b

/-- The product. -/
def gfMul (a b : Nat) : Nat := gfMulBits 8 a b

/-! The Reed-Solomon words: `r` check symbols at positions 0 to r − 1, data byte i at position i + r, divisible by
(x + 1)(x + α) … (x + α^(r−1)): r is 2 in K144 (R345) and 4 in DDR5 (R347). -/

/-- A polynomial, lowest coefficient first, times (x + c). -/
def polyTimes (c : Nat) (p : List Nat) : List Nat :=
  (List.range (p.length + 1)).map (fun i => gfMul c (p.getD i 0) ^^^ (if i = 0 then 0 else p.getD (i - 1) 0))

/-- The generator polynomial. -/
def rsGen (r : Nat) : List Nat := (List.range r).foldl (fun p i => polyTimes (gfShift i 1) p) [1]

/-- One step of the division by the generator: the remainder so far, and the next lower data symbol. -/
def rsDivide (gen : List Nat) (rem : List Nat) (d : Nat) : List Nat :=
  let f := rem.getLastD 0 ^^^ d
  (List.range rem.length).map (fun i => gfMul f (gen.getD i 0) ^^^ (if i = 0 then 0 else rem.getD (i - 1) 0))

/-- The check symbols of data symbols. -/
def rsCheck (r : Nat) (data : List Nat) : List Nat := data.reverse.foldl (rsDivide (rsGen r)) (List.replicate r 0)

/-- The word of `r` check symbols that holds data. -/
def rsWord (r : Nat) (data : List Nat) : List Nat := rsCheck r data ++ data

/-- The K144 word of 16 bytes (R345): its check bytes are what is stored beyond the data. -/
def k144Word (bs : List Byte) : List Nat := rsWord 2 (bs.map BitVec.toNat)

/-- The DDR5 word of 16 bytes (R347). -/
def ddrWord (bs : List Byte) : List Nat := rsWord 4 (bs.map BitVec.toNat)

/-- Syndrome `k` of the symbols of a word: the sum of s_j α^(jk) (R346, R347). -/
def syndrome (k : Nat) (syms : List Nat) : Nat :=
  (syms.zipIdx).foldl (fun a e => a ^^^ gfShift (e.2 * k) e.1) 0

/-- The symbols of an error pattern over a word of `r` check symbols, position 0 first. -/
def errorSyms (r : Nat) (upset : BitVec 160) : List Nat :=
  (List.range (16 + r)).map (fun j => nbits (8 * j + 7) (8 * j) upset.toNat)

/-- What a read of a stored word finds (R346, R347): no error, an error in the symbol at a position and its value, poison, or an
uncorrectable word. -/
inductive WordRead where
  | good
  | fix (pos val : Nat)
  | poison
  | bad
  deriving DecidableEq, Repr

/-- Read a word of 16 data symbols by its syndromes (R346, R347): all zero is good, all zero but 0xA5 in the last is poison, powers
of one locator from a non-zero S₀ on are an error at that position, anything else is uncorrectable. -/
def readSyndromes (ss : List Nat) : WordRead :=
  let s0 := ss.headD 0
  if ss.all (fun x => decide (x = 0)) then .good
  else if ss.dropLast.all (fun x => decide (x = 0)) && decide (ss.getLastD 0 = 0xA5) then .poison
  else if s0 = 0 then .bad
  else
    match (List.range (16 + ss.length)).find? (fun j => (ss.zipIdx).all (fun x => decide (x.1 = gfShift (x.2 * j) s0))) with
    | some j => .fix j s0
    | none => .bad

/-- Read a word of `r` check symbols from its symbols; a poisoned word is a codeword with the poison syndrome over it. -/
def readStored (r : Nat) (poisoned : Bool) (syms : List Nat) : WordRead :=
  readSyndromes ((List.range r).map (fun k =>
    syndrome k syms ^^^ (if poisoned && decide (k + 1 = r) then 0xA5 else 0)))

/-- The DRAM device that holds a symbol (R348). -/
def symDevice (j : Nat) : Nat :=
  if j < 2 then 8 + j else if j < 4 then 16 + j else if j < 12 then j - 4 else j - 2

/-! What a read that meets an error does (R349). -/

/-- An event record of a memory die, charged to a channel (R471). -/
def memEvent (status cls c device addr : Nat) (s : State) : State :=
  raiseEvent { status := status, cls := cls, source := 0x06, unit := c / 12, addr := addr,
               detail := [BitVec.ofNat 8 device, BitVec.ofNat 8 (c % 12)] } s

/-- A corrected word: counted, kept in MEM_CE_LOG while that is clear, and recorded under the policy (R349, R473). -/
def noteCorrected (c device line addr : Nat) (s : State) : State :=
  let m := c / 12
  let s := addF F.MEM_ECC_CORR [m, c % 12] 1 s
  let s :=
    if getF F.MEM_CE_LOG_VALID [m] s = 1 then s
    else setF F.MEM_CE_LOG_VALID [m] 1 (setF F.MEM_CE_LOG_DEVICE [m] device (setF F.MEM_CE_LOG_CHANNEL [m] (c % 12)
      (setF F.MEM_CE_LOG_LINE [m] line s)))
  if getF F.ERR_POLICY_CE_EACH [] s = 1 then memEvent St.ok 1 c device addr s
  else
    let now := (timeNow s).toNat
    let l := (tget [] s.events.ceWindow c).filter (fun t => decide (now < t + 3600000000000)) ++ [now]
    let put := fun (l : List Nat) (s : State) =>
      { s with events := { s.events with ceWindow := tset [] s.events.ceWindow c l } }
    if getF F.ERR_POLICY_CE_THRESHOLD [] s ≤ l.length then memEvent St.ok 2 c device addr (put [] s) else put l s

/-- The check symbols of the form word `w` is stored in: DDR5 for local memory, K144 in the stores (R345, R347). -/
def checkSyms (w : Nat) : Nat := if 16 * w < 2 ^ 43 then 4 else 2

/-- The word number of entry `i` of the placement table: bank × 262,144 + entry. Its data stands in the table, its errors and poison
with those of memory (log 43). -/
def hubWord (i : Nat) : Nat := 2 ^ 62 + i

/-- Word `w` (place / 16) exists: in local memory, a core store, a cluster store or the placement table. -/
def wordExists (w : Nat) (s : State) : Bool :=
  decide (hubWord 0 ≤ w ∧ w < hubWord 524288) ||
  decide (16 * w < lmaPages s * 2 ^ 21) || decide (corePlace 0 0 ≤ 16 * w ∧ 16 * w < corePlace 512 0) ||
  decide (clusterPlace 0 0 ≤ 16 * w ∧ 16 * w < clusterPlace 64 0)

/-- An error strikes the stored word `w`: its pattern is added to what the word holds already. -/
def upsetWord (w : Nat) (upset : BitVec 160) (s : State) : State :=
  if ! wordExists w s then s
  else
    let v := BitVec.ofNat 160 (upset.toNat % 2 ^ (8 * (16 + checkSyms w)))
    { s with mem := { s.mem with errs := tset 0 s.mem.errs w (tget 0 s.mem.errs w ^^^ v) } }

/-- The stored symbols of word `w`, errors and all; poison stands apart (log 43). -/
def storedSyms (w : Nat) (s : State) : List Nat :=
  let r := checkSyms w
  (rsWord r ((s.mem.bytes (16 * w) 16).map BitVec.toNat)).zipWith (fun a b => a ^^^ b) (errorSyms r (tget 0 s.mem.errs w))

/-- The 16 bytes a decoder gives for word `w` of symbols `syms`; of a poisoned word the spec gives no data (log 5). -/
def putDecoded (w : Nat) (was : Bool) (syms : List Nat) (s : State) : State :=
  if was then
    memWrite (16 * w) ((List.range 16).map (fun i => Config.freeByte (s.fresh + i))) { s with fresh := s.fresh + 16 }
  else memWrite (16 * w) ((syms.drop (checkSyms w)).map (BitVec.ofNat 8)) s

/-- The channel that is charged with local memory word `w` (R349, R351). -/
def wordChannel (w : Nat) (s : State) : Nat :=
  match lineChannel (interleave s) 0 (w / 8) with
  | some (c, _, _) => c
  | none => 0

/-- A read of word `w` (place / 16) that holds an error (R346, R347, R349): a corrected word is written back, an uncorrectable one
becomes poison; local memory counts and records both, and records a word that an error has made read as poison (R480, log 43). -/
def findError (w : Nat) (s : State) : State :=
  if tget 0 s.mem.errs w = 0 then s
  else
    let was := s.mem.poisoned (16 * w)
    let ddr := decide (checkSyms w = 4)
    let c := wordChannel w s
    let syms := storedSyms w s
    match readStored (checkSyms w) was syms with
    | .good => putDecoded w was syms s
    | .fix j v =>
      let s := putDecoded w was (setAt syms j (syms.getD j 0 ^^^ v)) s
      if ddr then noteCorrected c (symDevice j) (w / 8) (16 * w) s else s
    | .poison =>
      let s := { s with mem := s.mem.setPoison (16 * w) }
      if ddr ∧ ! was then memEvent St.poison 2 c 0xFF (16 * w) s else s
    | .bad =>
      let s := { s with mem := s.mem.setPoison (16 * w) }
      if ddr then memEvent St.poison 2 c 0xFF (16 * w) (addF F.MEM_ECC_UNCORR [c / 12, c % 12] 1 s) else s

/-- A read of placement-table entry `i` that holds an error (R346). -/
def findTableError (i : Nat) (s : State) : State :=
  let w := hubWord i
  let put := fun (syms : List Nat) =>
    { s with mem := { s.mem with errs := terase w s.mem.errs },
             tables := { s.tables with
               placement := tset 0 s.tables.placement i (BitVec.ofNat 128 (leNat ((syms.drop 2).map (BitVec.ofNat 8)))) } }
  if tget 0 s.mem.errs w = 0 then s
  else
    let syms := (k144Word (natLe 16 (tget 0 s.tables.placement i).toNat)).zipWith (fun a b => a ^^^ b)
      (errorSyms 2 (tget 0 s.mem.errs w))
    match readStored 2 (s.mem.poisoned (16 * w)) syms with
    | .good => put syms
    | .fix j v => put (setAt syms j (syms.getD j 0 ^^^ v))
    | _ => { s with mem := s.mem.setPoison (16 * w) }

/-- Every erroneous entry among `n` of the placement table is read. -/
def findTableErrors (first n : Nat) (s : State) : State :=
  if s.mem.errs.isEmpty then s
  else forList (s.mem.errs.filter (fun e => decide (hubWord first ≤ e.1) && decide (e.1 < hubWord (first + n)))) s
    (fun e => findTableError (e.1 - hubWord 0))

/-- Entries of the placement table are written whole: no error or poison is left in them. -/
def cleanEntries (first n : Nat) (s : State) : State := { s with mem := s.mem.unpoison (16 * hubWord first) (16 * n) }

/-- Every erroneous word of the `n` bytes from place `p` is read. -/
def findErrors (p n : Nat) (s : State) : State :=
  if s.mem.errs.isEmpty then s
  else forList (s.mem.errs.filter (fun e => decide (p < 16 * e.1 + 16) && decide (16 * e.1 < p + n))) s (fun e => findError e.1)

/-- A write of `n` bytes at place `p` reads the words it changes in part (R349). -/
def findEdges (p n : Nat) (s : State) : State :=
  if s.mem.errs.isEmpty ∨ n = 0 then s
  else forList ([p / 16, (p + n - 1) / 16].filter (fun w => ! wholeWord p n w)) s (fun w => findError w)

end Sys2Proof.Machine
end

