-- ==== Sys2Proof/Machine/Access.lean ====
section
/-! DEFINITION. How a unit reaches memory: the rope's address space (R252 to R255), the tier map (R357), reads and writes with
poison (R264, R265, R349, R480), and memory lent by a neighbour (R368, R369). A read that something has to happen for first (the
lender has not answered, a stored word holds an error, the host answers with an error) sees to that and leaves the command to be
run again. -/

namespace Sys2Proof.Machine

open Sys2Proof

/-- The classes of units of R254: sequencers and DMVs; MXE, VXE and MGE; RTE, XE, link adders, prefetch sequencers and the
command processor. -/
inductive Reach where
  | all | core | die
  deriving DecidableEq, Repr

/-- A unit that makes accesses: its class, rope, physical core, and its number (cores 0–511, RTE 512 + die, XE 520 + die,
adders 528 + channel, BPM 546, command processor 544, audit unit 545, prefetch 552 + die, DMV 1024 + core), and the tag and PC of
the instruction it acts for (R263). -/
structure Who where
  reach : Reach
  rope : Nat
  core : Nat
  id : Nat
  tag : BitVec 32 := 0
  pc : BitVec 48 := 0
  deriving DecidableEq, Repr

/-- Why an access does not go through: a fault with its status and address, or what has to be asked for first: lender, LHANDLE and
offset in lent memory, or `ownMem` or `hostMem` with a word or page of the device's or the host's own. -/
inductive Stop where
  | fault (status : Nat) (addr : Nat)
  | need (lender lhandle off : Nat)
  deriving DecidableEq, Repr

/-- In place of a lender: a stored word of the device holds an error that a read has to find first (R349). -/
abbrev ownMem : Nat := 65536

/-- In place of a lender: the host ends a read in an error (R360). -/
abbrev hostMem : Nat := 65537

/-- In place of a lender: a page whose entry is LOST answers a reader that takes poison (R369). -/
abbrev lostMem : Nat := 65538

/-- Where a rope address lies. -/
inductive Loc where
  | place (p : Nat)
  | neighbour (lender lhandle off : Nat)
  | lost
  | unmapped
  deriving DecidableEq, Repr

/-- The tier-map entry of a page of rope `r` (R357). -/
def tierEntry (r page : Nat) (s : State) : BitVec 128 := tget 0 s.tables.tierMap (r * 4194304 + page)

/-- Where device-memory address `a` of rope `r` lies (R357); FRAME of a LOCAL page is an LMA, of at most 43 bits (R351, R358). -/
def tierLoc (r a : Nat) (wr : Bool) (s : State) : Loc :=
  let page := (a - 0x010000000000) / 2 ^ 21
  let off := a % 2 ^ 21
  if (ropeOf r s).tmapPages ≤ page then .unmapped
  else
    let e := tierEntry r page s
    if e.getLsbD 4 then .lost
    else if ! e.getLsbD 0 ∨ (wr ∧ ! e.getLsbD 3) then .unmapped
    else match nbits 2 1 e.toNat with
      | 0 => .place (nbits 127 64 e.toNat % 2 ^ 43 + off)
      | 1 => .neighbour (nbits 31 16 e.toNat) (nbits 63 32 e.toNat) off
      | 2 => .place (hostPlace (nbits 127 64 e.toNat) + off)
      | _ => .unmapped

/-- Where a rope address lies for a unit (R252, R254). -/
def locate (w : Who) (a : Nat) (wr : Bool) (s : State) : Loc :=
  if a < 0x200000 then
    (if w.reach = .die then .unmapped else .place (corePlace w.core a))
  else if 0x40000000 ≤ a ∧ a < 0x80000000 then
    match physCore w.rope ((a - 0x40000000) / 2 ^ 21) s with
    | none => .unmapped
    | some c => if w.reach = .all ∨ (w.reach = .core ∧ c = w.core) then .place (corePlace c (a % 2 ^ 21)) else .unmapped
  else if 0x80000000 ≤ a ∧ a < 0xC0000000 then
    match (ropeClusters w.rope s)[(a - 0x80000000) / 2 ^ 24]? with
    | none => .unmapped
    | some q => if w.reach = .core ∧ q ≠ w.core / 8 then .unmapped else .place (clusterPlace q (a % 2 ^ 24))
  else if 0x010000000000 ≤ a ∧ a < 2 ^ 48 then
    (if w.reach = .core then .unmapped else tierLoc w.rope a wr s)
  else .unmapped

/-- The answered read of a 128-byte unit of lent memory for a unit, if there is one. -/
def lentData (w : Who) (l h off : Nat) (s : State) : Option ReadReq :=
  s.reads.find? (fun r => decide (r.who = w.id) && decide (r.lender = l) && decide (r.lhandle = h) &&
    decide (r.off = off / 128 * 128) && (r.answer.isSome || r.lost))

/-- The function whose requester ID a rope's host accesses carry: its virtual function's, or the physical function's (R360). -/
def ropeFn (r : Nat) (s : State) : Nat :=
  if getF F.CMD_ROPE_STATE_VF [r] s < 16 then getF F.CMD_ROPE_STATE_VF [r] s else 16

/-- A host place whose read by a unit the host ends in a completion error or a timeout (R360; log 65). -/
def hostFails (w : Who) (p : Nat) (s : State) : Bool := decide (2 ^ 64 ≤ p) && Config.hostError (ropeFn w.rope s) ((p - 2 ^ 64) / 4096)

/-- What a read of the `n` bytes at a place has to wait for: an error in a stored word that is found first (R349), or the host's
error answer (R360). -/
def placeNeeds (w : Who) (p n : Nat) (s : State) : Option Stop :=
  if 2 ^ 64 ≤ p then
    if hostFails w p s && (lentData w hostMem 0 (p / 4096 * 128) s).isNone then some (.need hostMem 0 (p / 4096 * 128)) else none
  else (s.mem.badWord p n).map (fun k => .need ownMem 0 k)

/-- Read `n` bytes at a rope address: the bytes, and 0, or the status of the poison found among them (POISON, LENDER_LOST);
`fuel` pieces at most, each inside one page. -/
def readA : Nat → Who → Nat → Nat → State → Except Stop (List Byte × Nat)
  | 0, _, _, _, _ => .ok ([], 0)
  | fuel + 1, w, a, n, s =>
    if n = 0 then .ok ([], 0)
    else
      match locate w a false s with
      | .unmapped => .error (.fault St.notPermitted a)
      | .place p =>
        let k := min n (2 ^ 21 - a % 2 ^ 21)
        match placeNeeds w p k s with
        | some x => .error x
        | none =>
          match readA fuel w (a + k) (n - k) s with
          | .error e => .error e
          | .ok (bs, f) => .ok (s.mem.bytes p k ++ bs, if s.mem.anyPoison p k || hostFails w p s then St.poison else f)
      | .lost =>
        let k := min n (2 ^ 21 - a % 2 ^ 21)
        match readA fuel w (a + k) (n - k) s with
        | .error e => .error e
        | .ok (bs, _) => .ok (zeros k ++ bs, St.lenderLost)
      | .neighbour l h off =>
        let k := min n (128 - off % 128)
        match lentData w l h off s with
        | none => .error (.need l h (off / 128 * 128))
        | some r =>
          match readA fuel w (a + k) (n - k) s with
          | .error e => .error e
          | .ok (bs, f) =>
            match r.answer with
            | none => .ok (zeros k ++ bs, St.lenderLost)
            | some (d, pz) =>
              .ok ((d.drop (off % 128)).take k ++ bs,
                if pz.any (fun i => decide (off % 128 < 16 * i + 16) && decide (16 * i < off % 128 + k)) then St.poison else f)

/-- Read bytes, with as many pieces as they can need. -/
def rd (w : Who) (a n : Nat) (s : State) : Except Stop (List Byte × Nat) := readA (n + 1) w a n s

/-- The first of `n` pages from page address `p` that is LOST and has not answered this unit yet. -/
def lostFirst (w : Who) (s : State) : Nat → Nat → Option Stop
  | 0, _ => none
  | n + 1, p =>
    if locate w p false s = .lost ∧ (lentData w lostMem 0 (p / 2 ^ 21 * 128) s).isNone then some (.need lostMem 0 (p / 2 ^ 21 * 128))
    else lostFirst w s n (p / 2 ^ 21 * 2 ^ 21 + 2 ^ 21)

/-- Read bytes for a reader that goes on with poison: an access to a LOST page is answered LENDER_LOST first (R369). -/
def rdSoft (w : Who) (a n : Nat) (s : State) : Except Stop (List Byte × Nat) :=
  match rd w a n s with
  | .error e => .error e
  | .ok x =>
    match (if x.2 = St.lenderLost then lostFirst w s ((a % 2 ^ 21 + n + 2 ^ 21 - 1) / 2 ^ 21) a else none) with
    | some e => .error e
    | none => .ok x

/-- Read bytes that must be good: poison faults with its status (R264, R265). -/
def rdGood (w : Who) (a n : Nat) (s : State) : Except Stop (List Byte) :=
  match rd w a n s with
  | .error e => .error e
  | .ok (bs, f) => if f = 0 then .ok bs else .error (.fault f a)

/-- An answered read with bytes written over it: words `bs` from offset `off` of the page, or poison for them. -/
def patchRead (off : Nat) (bs : List Byte) (poison : Bool) (r : ReadReq) : ReadReq :=
  match r.answer with
  | none => r
  | some (d, pz) =>
    let lo := max off r.off
    let hi := min (off + bs.length) (r.off + 128)
    let ws := (List.range 8).filter (fun i => decide (lo ≤ r.off + 16 * i ∧ r.off + 16 * i < hi))
    { r with answer := some (overlay d (lo - r.off) ((bs.drop (lo - off)).take (hi - lo)),
                             if poison then pz ++ ws else pz.filter (fun i => ! ws.contains i)) }

/-- The `n` bytes at offset `off` of a lent page meet the 128-byte unit of a read. -/
def readMeets (l h off n : Nat) (r : ReadReq) : Bool :=
  decide (r.lender = l) && decide (r.lhandle = h) && decide (r.off < off + n) && decide (off < r.off + 128)

/-- The reads of this device after a write of its own: answers take the written bytes, a read not answered is asked again
(R256, R259). -/
def readsAfterWrite (l h off : Nat) (bs : List Byte) (poison : Bool) (rs : List ReadReq) : List ReadReq :=
  (rs.filter (fun r => ! readMeets l h off bs.length r || r.answer.isSome || r.lost)).map (fun r =>
    if readMeets l h off bs.length r then patchRead off bs poison r else r)

/-- An MWRITE message to a lender (R368): whole 16-byte words from offset `off` of a lent page, or poison for them, sent for the
`n` bytes that a unit writes at rope address `a`; on VC0 and ordered for a reproducible rope (R414). -/
def sendMwrite (w : Who) (a n l h off : Nat) (bs : List Byte) (poison : Bool) (s : State) : State :=
  let q := s.readSeq
  let rep := repro w.rope s
  let t : Packet := { ty := 3, vc := if rep then 0 else 1, ordered := rep, job := BitVec.ofNat 16 (ropeJob w.rope s),
                      handle := BitVec.ofNat 32 h, tag := q, poison := poison }
  queueMsg ⟨.write w.id w.rope a q, none, BitVec.ofNat 16 l, 24, makePackets t (cutData (bs.length + 1) 4096 off bs), 0⟩
    { s with readSeq := q + 1, reads := readsAfterWrite l h off bs poison s.reads,
             writes := (s.writes ++ [(⟨q, l, w.id, w.rope, a, n, w.tag, w.pc⟩ : WriteReq)]).drop
               (s.writes.length + 1 - 65536) }

/-- Write bytes at a rope address, or put the words they touch under poison. `fuel` pieces at most. -/
def writeA : Nat → Who → Nat → List Byte → Bool → State → Except Stop State
  | 0, _, _, _, _, s => .ok s
  | fuel + 1, w, a, bs, poison, s =>
    if bs.isEmpty then .ok s
    else
      let k := min bs.length (2 ^ 21 - a % 2 ^ 21)
      match locate w a true s with
      | .unmapped => .error (.fault St.notPermitted a)
      | .lost => .error (.fault St.lenderLost a)
      | .place p =>
        let s := findEdges p k s
        let m := if poison then Mem.poisonRange (k + 1) s.mem p k else s.mem.write p (bs.take k)
        let s := { s with mem := m }
        let s := if 2 ^ 64 ≤ p then emit (.hostWrite (ropeFn w.rope s) (p - 2 ^ 64) (bs.take k)) s else s
        writeA fuel w (a + k) (bs.drop k) poison s
      | .neighbour l h off =>
        let lo := off / 16 * 16
        let hi := (off + k + 15) / 16 * 16
        if lo = off ∧ hi = off + k then
          writeA fuel w (a + k) (bs.drop k) poison (sendMwrite w a k l h off (bs.take k) poison s)
        else
          match rd w (a - (off - lo)) (hi - lo) s with
          | .error e => .error e
          | .ok (old, f) =>
            writeA fuel w (a + k) (bs.drop k) poison
              (sendMwrite w a k l h lo (overlay old (off - lo) (bs.take k)) (poison || decide (f ≠ 0)) s)

/-- Write bytes. -/
def wr (w : Who) (a : Nat) (bs : List Byte) (s : State) : Except Stop State := writeA (bs.length + 1) w a bs false s

/-- Write poison over the words of `n` bytes. -/
def wrPoison (w : Who) (a n : Nat) (s : State) : Except Stop State := writeA (n + 1) w a (zeros n) true s

/-- Write bytes, or poison for them. -/
def wrData (w : Who) (a : Nat) (bs : List Byte) (f : Nat) (s : State) : Except Stop State :=
  if f = 0 then wr w a bs s else wrPoison w a bs.length s

/-- Every byte of a range can be written by the unit. -/
def writable (w : Who) (a n : Nat) (s : State) : Bool :=
  (List.range (n / 2 ^ 21 + 2)).all (fun i =>
    let b := if i = 0 then a else a / 2 ^ 21 * 2 ^ 21 + i * 2 ^ 21
    decide (a + n ≤ b) || (match locate w b true s with | .unmapped => false | .lost => false | _ => true))

/-- No byte of a range is out of the unit's reach (R254). -/
def mapped (w : Who) (a n : Nat) (wr : Bool) (s : State) : Bool :=
  (List.range (n / 2 ^ 21 + 2)).all (fun i =>
    let b := if i = 0 then a else a / 2 ^ 21 * 2 ^ 21 + i * 2 ^ 21
    decide (a + n ≤ b) || decide (locate w b wr s ≠ .unmapped))

/-- A valid tier-map entry that names lender `l`. -/
def namesLender (l : Nat) (e : BitVec 128) : Bool :=
  e.getLsbD 0 && decide (nbits 2 1 e.toNat = 1) && decide (nbits 31 16 e.toNat = l)

/-- The entry with VALID cleared and LOST set (R369). -/
def loseEntry (e : BitVec 128) : BitVec 128 := (e &&& ~~~(1 : BitVec 128)) ||| 16

/-- A read of lender `l` that is not answered. -/
def waitsFor (l : Nat) (r : ReadReq) : Bool := decide (r.lender = l) && r.answer.isNone && ! r.lost

/-- A lender is lost (R369): its entries of every tier map become LOST, the readers that wait get LENDER_LOST, one event
record is written. -/
def lenderLost (l : Nat) (s : State) : State :=
  let used := fun (r : Nat) =>
    (s.tables.tierMap.filter (fun (e : Nat × BitVec 128) => decide (e.1 / 4194304 = r) && namesLender l e.2)).length
  let t := forN 16 s (fun r t => subF F.MEM_QUOTA_USED [r, 1] (used r) t)
  let t := { t with
    tables := { t.tables with
      tierMap := t.tables.tierMap.map (fun (e : Nat × BitVec 128) =>
        if namesLender l e.2 then (e.1, loseEntry e.2) else e) },
    reads := t.reads.map (fun (r : ReadReq) => if waitsFor l r then { r with lost := true } else r) }
  raiseEvent { status := St.lenderLost, cls := 2, source := 0x05, detail := natLe 2 l } t

/-- The source code of a stop for the unit that made a write (R266), and its core. -/
def writerOf (who : Nat) : Nat × Option Nat :=
  if who < 512 then (0, some who)
  else if who < 520 then (5, none)
  else if who < 528 then (6, none)
  else if 1024 ≤ who ∧ who < 1536 then (4, some (who - 1024))
  else (7, none)

/-- A failed write stops the rope that made it, imprecisely, with its address and the instruction's tag and PC, and that instruction
signals nothing (R267, R369). -/
def writerStop (x : WriteReq) (s : State) : State :=
  let s := { s with heldSigs := s.heldSigs.filter (fun h =>
    ! (decide (h.who = x.who) && (h.core.isNone || decide (h.tag = x.tag)))) }
  if ropeState x.rope s = RopeSt.none then s
  else
    let w := writerOf x.who
    let k := match w.2 with | some c => ropeCoreIdx x.rope c s | none => x.tag.toNat / 2 ^ 23
    stopRope x.rope w.2 ⟨St.lenderLost, w.1, k, x.tag, x.pc, BitVec.ofNat 64 x.addr, 0, 0⟩ s

/-- A write of a unit to a page whose lender is lost: counted, and the rope stops (R369). -/
def lostWrite (w : Who) (a : Nat) (s : State) : State :=
  writerStop ⟨0, 0, w.id, w.rope, a, 0, w.tag, w.pc⟩ (addF F.MEM_LEND_COUNTS_LOST [] 1 s)

/-- Packets of a write meet the `n` bytes at offset `off` of lent page `h`. -/
def packetsMeet (h off n : Nat) (ps : List Packet) : Bool :=
  ps.any (fun p => decide (p.handle.toNat = h) && decide (p.offset.toNat < off + n) && decide (off < p.offset.toNat + p.payload.length))

/-- Some write of this device to those bytes is not acknowledged: a read of them waits, and so does a partial write, which reads
the word first (R256, R259). -/
def writeMeets (l h off n : Nat) (s : State) : Bool :=
  s.msgs.waiting.any (fun m => isWrite m.unit && decide (m.addr.toNat = l) && packetsMeet h off n m.packets) ||
  s.msgs.outst.any (fun m => isWrite m.unit && decide (m.dest.toNat = l) && packetsMeet h off n m.packets)

/-- The host has ended a read of rope `r` in an error: one event record (R360; log 65). -/
def hostReadError (r off : Nat) (s : State) : State :=
  let (v, s) := takeFree s
  raiseEvent { status := St.poison, cls := 3, source := 0x0E, rope := some r, addr := off / 128 * 4096, detail := natLe 4 v.toNat } s

/-- What a read of unit `w` needs has been asked for, or waits for a write to be acknowledged (R259, R368). -/
def readWaits (w : Who) (l h off : Nat) (s : State) : Bool :=
  decide (l ≠ ownMem) &&
    (s.reads.any (fun r => decide (r.who = w.id) && decide (r.lender = l) && decide (r.lhandle = h) && decide (r.off = off)) ||
      (decide (l ≠ hostMem) && decide (l ≠ lostMem) && writeMeets l h off 128 s))

/-- See to what a read of unit `w` needs first: ask a lender for a 128-byte unit, once, and not while a write to it is out
(R368, R259); find the error in a stored word (R349); or take the answer of a host page that fails (R360) or of a LOST page. -/
def askLender (w : Who) (l h off : Nat) (s : State) : State :=
  let asked := fun (lost : Bool) (answer : Option (List Byte × List Nat)) (s : State) =>
    { s with readSeq := s.readSeq + 1, reads := s.reads ++ [⟨s.readSeq, w.id, l, h, off, answer, lost⟩] }
  if l = ownMem then findError off s
  else if s.reads.any (fun r => decide (r.who = w.id) && decide (r.lender = l) && decide (r.lhandle = h) && decide (r.off = off)) then s
  else if l = hostMem then
    emit (.hostRead (ropeFn w.rope s) (off / 128 * 4096) 4096) (asked false (some ([], [])) (hostReadError w.rope off s))
  else if l = lostMem then asked true none s
  else if writeMeets l h off 128 s then s
  else
    let q := s.readSeq
    let (ok, s) := sendCell (.read q) (BitVec.ofNat 16 l) 0x13 (ropeJob w.rope s) q
      (natLe 4 h ++ natLe 4 off ++ natLe 4 128 ++ zeros 36) 24 (asked false none s)
    if ok then s else lenderLost l s

/-- Forget the answered reads of a unit whose command has gone through. -/
def dropReads (id : Nat) (s : State) : State := { s with reads := s.reads.filter (fun r => decide (r.who ≠ id)) }

/-- The end of a unit's accesses: those answered LENDER_LOST are counted (R369), `fault` being the status it ends with. -/
def endAccess (id fault : Nat) (s : State) : State :=
  let n := (s.reads.filter (fun r => decide (r.who = id) && r.lost)).length
  let n := if fault = St.lenderLost then max n 1 else n
  dropReads id (if n = 0 then s else addF F.MEM_LEND_COUNTS_LOST [] n s)

/-- What a unit does has to wait for what it reads. -/
def isNeed {α : Type} (r : Except Stop α) : Bool := match r with | .error (.need _ _ _) => true | _ => false

/-- Run what a unit does over memory: its effect, its fault, or what has to come first, after which the command is run again. -/
def runAccess (w : Who) (r : Except Stop State) (onFault : Nat → Nat → State → State) (s : State) : State :=
  match r with
  | .ok t => endAccess w.id 0 t
  | .error (.need l h off) => askLender w l h off s
  | .error (.fault st a) => endAccess w.id st (onFault st a s)

/-- A bound on what an access of the audit unit can have to see to within the device: the erroneous words, and the pages of a part
of a stream and of an extent list. -/
def ownNeeds (s : State) : Nat := s.mem.errs.length + 4096

/-- Run what a register write does over memory: what it needs that no lender answers is seen to, and it runs again at once, `n` times
at most; a lender's answer is awaited (log 42). -/
def atOnce : Nat → Who → (State → Except Stop State) → (Nat → Nat → State → State) → State → State
  | 0, w, f, onFault, s => runAccess w (f s) onFault s
  | n + 1, w, f, onFault, s =>
    match f s with
    | .error (.need l h off) =>
      if ownMem ≤ l then atOnce n w f onFault (askLender w l h off s) else askLender w l h off s
    | r => runAccess w r onFault s

end Sys2Proof.Machine
end

