-- ==== Sys2Proof/Machine/Bpm.lean ====
section
/-! DEFINITION. The buffer pool manager (chapter 14): pools and their checks (R371, R501), the free ring and its cache (R374,
R375), allocate, free and hand off (R376 to R378), disable and reclaim (R380), lost handles (R381). -/

namespace Sys2Proof.Machine

open Sys2Proof

/-- What the BPM keeps of pool `p`. -/
def poolOf (p : Nat) (s : State) : Pool := tget {} s.pools p

/-- Change what the BPM keeps of pool `p`. -/
def modPool (p : Nat) (f : Pool → Pool) (s : State) : State := { s with pools := tmod {} s.pools p f }

/-- Pool `p` is enabled (R374). -/
def poolEnabled (p : Nat) (s : State) : Bool := decide (getF F.BPM_POOL_CFG_ENABLE [p] s = 1)

/-- The rope of pool `p`. -/
def poolRope (p : Nat) (s : State) : Nat := getF F.BPM_POOL_CFG_ROPE [p] s

/-- The buffers of pool `p` (R371). -/
def poolCount (p : Nat) (s : State) : Nat := getF F.BPM_POOL_CFG_COUNT [p] s

/-- The buffer size of pool `p` (R371). -/
def poolSize (p : Nat) (s : State) : Nat := 2 ^ getF F.BPM_POOL_CFG_SIZE_LOG2 [p] s

/-- The rope address of buffer `i` of pool `p` (R371). -/
def bufferAddr (p i : Nat) (s : State) : Nat := getF F.BPM_POOL_BASE_BASE [p] s + i * poolSize p s

/-- The handle of buffer `i` of pool `p` (R372). -/
def mkHandle (p i : Nat) : BitVec 32 := BitVec.ofNat 32 (p % 64 * 2 ^ 26 + i % 2 ^ 26)

/-- The handle that names no buffer (R372). -/
abbrev noHandle : BitVec 32 := 0xFFFFFFFF

/-- The pool a handle names (R372). -/
def handlePool (h : BitVec 32) : Nat := nbits 31 26 h.toNat

/-- The buffer a handle names (R372). -/
def handleIdx (h : BitVec 32) : Nat := nbits 25 0 h.toNat

/-- The owner table of pool `p` (R374). -/
def ownerBase (p : Nat) (s : State) : Nat :=
  getF F.BPM_POOL_RING_RING [p] s + (4 * poolCount p s + 63) / 64 * 64

/-- The BPM as a unit of the pool's rope, asking lenders under number `u` (R374). -/
def bpmWho (p u : Nat) (s : State) : Who := { reach := .die, rope := poolRope p s, core := 0, id := u }

/-- The owner code of a client (R377). -/
def ownerCode : BpmClient → Nat
  | .xe d => d
  | .fn (.vf _) => 0x11
  | .fn _ => 0x10

/-- A valid owner code (R377). -/
def ownerValid (o : Nat) : Bool := decide (o < 8 ∨ o = 0x10 ∨ o = 0x11)

/-- A client that may use pool `p` (R373). -/
def mayUsePool (w : BpmClient) (p : Nat) (s : State) : Bool :=
  match w with
  | .xe d => (ropeDies (poolRope p s) s).contains d
  | .fn .pf => true
  | .fn (.vf v) => decide (vfRope v s = some (poolRope p s))
  | .fn .manager => false

/-! Lost handles and the ring (R374, R375, R381). -/

/-- Lose `n` handles of pool `p` (R381). -/
def loseHandles (p n : Nat) (s : State) : State :=
  let s := setF F.BPM_POOL_CFG_FAULTED [p] 1 (addF F.BPM_POOL_LOST_LOST [p] n (subF F.BPM_POOL_STATE_FREE [p] n s))
  raiseEvent { status := St.poison, cls := 2, source := 0x08, rope := some (poolRope p s), unit := p,
               detail := natLe 4 0 } s

/-- The ring word at position `i`: none where it cannot be read as good data (R381). -/
def ringWord (p u i : Nat) (s : State) : Except Stop (Option Nat) :=
  match rdSoft (bpmWho p u s) (getF F.BPM_POOL_RING_RING [p] s + 4 * i) 4 s with
  | .ok (bs, 0) => .ok (some (leNat bs % 2 ^ 26))
  | .ok _ => .ok none
  | .error (.fault _ _) => .ok none
  | .error e => .error e

/-- Read ring words at positions whose handles are not lost already. -/
def ringWords (p u : Nat) (s : State) : List Nat → Except Stop (List (Option Nat))
  | [] => .ok []
  | i :: t =>
    if (poolOf p s).gone.contains i then ringWords p u s t
    else
      match ringWord p u i s with
      | .error e => .error e
      | .ok w =>
        match ringWords p u s t with
        | .error e => .error e
        | .ok ws => .ok (w :: ws)

/-- Write ring words from position `i`, round the end of the ring (`fuel` stretches at most); false when a write cannot complete
(R381). -/
def writeRing (p u : Nat) : Nat → Nat → List Nat → State → Except Stop (Bool × State)
  | 0, _, _, s => .ok (true, s)
  | fuel + 1, i, hs, s =>
    let k := poolCount p s - i % poolCount p s
    match wr (bpmWho p u s) (getF F.BPM_POOL_RING_RING [p] s + 4 * (i % poolCount p s)) ((hs.take k).flatMap (natLe 4)) s with
    | .error (.fault _ _) => .ok (false, s)
    | .error e => .error e
    | .ok s => if hs.length ≤ k then .ok (true, s) else writeRing p u fuel (i + k) (hs.drop k) s

/-- Whether a refill has to begin (R375). -/
def armRefill (p : Nat) (s : State) : State :=
  let k := poolOf p s
  if k.cache.length < 16 ∧ 0 < k.ringLen then modPool p (fun k => { k with refill := true }) s else s

/-- A cache above 48 handles spills the 32 that entered last, in their order (R375, R381). -/
def spill (p u : Nat) (s : State) : Except Stop State :=
  let k := poolOf p s
  if k.cache.length ≤ 48 then .ok s
  else
    let keep := k.cache.take (k.cache.length - 32)
    let out := k.cache.drop (k.cache.length - 32)
    match writeRing p u 32 (k.ringHead + k.ringLen) out s with
    | .error e => .error e
    | .ok (true, s) => .ok (modPool p (fun k => { k with cache := keep, ringLen := k.ringLen + 32 }) s)
    | .ok (false, s) => .ok (loseHandles p 32 (modPool p (fun k => { k with cache := keep }) s))

/-! Requests (R376 to R378). -/

/-- How a request ends: its status and handle, or an allocation that waits for a refill. -/
inductive BpmAns where
  | done (status : Nat) (handle : BitVec 32)
  | wait
  deriving DecidableEq, Repr

/-- Report a refused free or hand-off (R378). -/
def bpmFail (w : BpmClient) (h : BitVec 32) (status : Nat) (s : State) : State :=
  let s := if status = St.ownerFault then addF F.BPM_POOL_FAILS_OWNER [handlePool h] 1 s else s
  let s :=
    if getF F.BPM_FAULT_VALID [] s = 1 then s
    else
      setF F.BPM_FAULT_VALID [] 1 (setF F.BPM_FAULT_STATUS [] status
        (setF F.BPM_FAULT_REQUESTER [] (ownerCode w) (setF F.BPM_FAULT_HANDLE [] h.toNat s)))
  raiseEvent { status := status, cls := 3, source := 0x08, rope := some (poolRope (handlePool h) s), unit := handlePool h,
               detail := natLe 4 h.toNat ++ [BitVec.ofNat 8 (ownerCode w)] } s

/-- Take the next cached handle for a client: the owner byte is written, the counters move (R374, R376, R382). -/
def takeHandle (w : BpmClient) (p u : Nat) (s : State) : Except Stop (BitVec 32 × State) :=
  match (poolOf p s).cache with
  | [] => .ok (noHandle, s)
  | h :: t =>
    let s := modPool p (fun k => { k with cache := t }) s
    let s := addF F.BPM_POOL_ALLOCS_ALLOCS [p] 1 (addF F.BPM_POOL_STATE_ALLOCATED [p] 1 (subF F.BPM_POOL_STATE_FREE [p] 1 s))
    match wr (bpmWho p u s) (ownerBase p s + h) [BitVec.ofNat 8 (0x80 + ownerCode w)] s with
    | .ok s => .ok (mkHandle p h, armRefill p s)
    | .error (.fault _ _) => .ok (mkHandle p h, armRefill p s)
    | .error e => .error e

/-- Put the answer of a function's request where BPM_RESULT reads it (R379). -/
def answerFn (w : BpmClient) (status : Nat) (h : BitVec 32) (s : State) : State :=
  match w with
  | .xe _ => s
  | .fn f => { s with fns := tmod {} s.fns (fnIdx f) (fun k => { k with bpmResult := BitVec.ofNat 64 (status * 2 ^ 32 + h.toNat) }) }

/-- An allocation refused with POOL_EMPTY (R376). -/
def allocEmpty (w : BpmClient) (p : Nat) (s : State) : State :=
  answerFn w St.poolEmpty noHandle (addF F.BPM_POOL_FAILS_EMPTY [p] 1 s)

/-- Serve waiting allocations from the cache, in order of arrival (`fuel` at most). -/
def serveWaiting (p u : Nat) : Nat → State → Except Stop State
  | 0, s => .ok s
  | n + 1, s =>
    match (poolOf p s).waiting, (poolOf p s).cache with
    | w :: t, _ :: _ =>
      match takeHandle w p u (modPool p (fun k => { k with waiting := t }) s) with
      | .error e => .error e
      | .ok (h, s) => serveWaiting p u n (answerFn w St.ok h s)
    | _, _ => .ok s

/-- Waiting allocations beyond FREE fail, latest first (R376; `fuel` at most). -/
def trimWaiting (p : Nat) : Nat → State → State
  | 0, s => s
  | n + 1, s =>
    let ws := (poolOf p s).waiting
    if ws.length ≤ getF F.BPM_POOL_STATE_FREE [p] s then s
    else
      match ws.getLast? with
      | none => s
      | some w => trimWaiting p n (allocEmpty w p (modPool p (fun k => { k with waiting := ws.dropLast }) s))

/-- A refill: 32 handles, or as many as the ring holds, enter the cache (R375); words that cannot be read lose theirs
(R381). -/
def refill (p u : Nat) (s : State) : Except Stop State :=
  let k := poolOf p s
  let n := min 32 k.ringLen
  let taken := (List.range n).map (fun i => (k.ringHead + i) % poolCount p s)
  match ringWords p u s taken with
  | .error e => .error e
  | .ok ws =>
    let good := ws.filterMap id
    let s := modPool p (fun k => { k with
      cache := k.cache ++ good, ringLen := k.ringLen - n, refill := false,
      ringHead := (k.ringHead + n) % poolCount p s, gone := k.gone.filter (fun i => ! taken.contains i) }) s
    let s := if good.length < ws.length then loseHandles p (ws.length - good.length) s else s
    let s := trimWaiting p (poolOf p s).waiting.length s
    match serveWaiting p u (poolOf p s).waiting.length s with
    | .error e => .error e
    | .ok s => (spill p u s).map (armRefill p)

/-! Disable and reclaim (R380). -/

/-- Disable pool `p`. -/
def disableNow (p : Nat) (s : State) : State :=
  setF F.BPM_POOL_CFG_ENABLE [p] 0 { s with pools := tset {} s.pools p {} }

/-- A write of ENABLE 0 takes effect: refused while a buffer is allocated (R380). -/
def disablePool (p : Nat) (s : State) : State :=
  if 0 < getF F.BPM_POOL_STATE_ALLOCATED [p] s then modPool p (fun k => { k with pend := none }) s else disableNow p s

/-- A write of RECLAIM 1 takes effect: every allocated buffer is freed and counted, the pool is disabled (R380, R381). -/
def reclaimNow (p : Nat) (s : State) : State :=
  let n := getF F.BPM_POOL_STATE_ALLOCATED [p] s
  let lost := getF F.BPM_POOL_LOST_LOST [p] s
  let s := addF F.BPM_POOL_FREES_FREES [p] n (setF F.BPM_POOL_STATE_ALLOCATED [p] 0 (addF F.BPM_POOL_STATE_FREE [p] (n + lost) s))
  disableNow p (setF F.BPM_POOL_CFG_FAULTED [p] 0 (setF F.BPM_POOL_LOST_LOST [p] 0 s))

/-- A pending disable or reclaim takes effect once no allocation waits (R380). -/
def applyPend (p : Nat) (s : State) : State :=
  match (poolOf p s).pend with
  | none => s
  | some b => if ! (poolOf p s).waiting.isEmpty then s else if b then reclaimNow p s else disablePool p s

/-- The refills that let the waiting allocations complete, and then a pending disable or reclaim (`fuel` refills at most). -/
def drainPool (p u : Nat) : Nat → State → Except Stop State
  | 0, s => .ok (applyPend p s)
  | n + 1, s =>
    if (poolOf p s).waiting.isEmpty then .ok (applyPend p s)
    else
      match refill p u s with
      | .error e => .error e
      | .ok s => drainPool p u n s

/-- Requests after a disable or a reclaim come after it (R380). -/
def settle (p u : Nat) (s : State) : Except Stop State :=
  if (poolOf p s).pend.isNone then .ok s else drainPool p u ((poolOf p s).ringLen + 1) s

/-- Allocate from pool `p` (R376). -/
def bpmAlloc (w : BpmClient) (p u : Nat) (s : State) : Except Stop (BpmAns × State) :=
  match settle p u s with
  | .error e => .error e
  | .ok s =>
    if ! poolEnabled p s || ! mayUsePool w p s then .ok (.done St.notPermitted noHandle, answerFn w St.notPermitted noHandle s)
    else
      let k := poolOf p s
      if getF F.BPM_POOL_STATE_FREE [p] s ≤ k.waiting.length then .ok (.done St.poolEmpty noHandle, allocEmpty w p s)
      else if k.cache.isEmpty || ! k.waiting.isEmpty then
        .ok (.wait, armRefill p (modPool p (fun k => { k with waiting := k.waiting ++ [w] }) s))
      else
        match takeHandle w p u s with
        | .error e => .error e
        | .ok (h, s) => .ok (.done St.ok h, answerFn w St.ok h s)

/-- Refill until pool `p` has a handle for one more allocation than wait, or has none left (`fuel` refills at most). -/
def takeAfterRefill (die p u : Nat) : Nat → State → Except Stop (Option (BitVec 32) × State)
  | 0, s => .ok (none, allocEmpty (.xe die) p s)
  | fuel + 1, s =>
    if getF F.BPM_POOL_STATE_FREE [p] s ≤ (poolOf p s).waiting.length then .ok (none, allocEmpty (.xe die) p s)
    else if (poolOf p s).cache.isEmpty || ! (poolOf p s).waiting.isEmpty then
      match refill p u s with
      | .error e => .error e
      | .ok s => takeAfterRefill die p u fuel s
    else
      match takeHandle (.xe die) p u s with
      | .error e => .error e
      | .ok (h, s) => .ok (some h, s)

/-- Allocate for an exchange engine, which takes its buffer before it goes on (R74): a wait for a refill is the refill. -/
def bpmAllocNow (die p u : Nat) (s : State) : Except Stop (Option (BitVec 32) × State) :=
  match settle p u s with
  | .error e => .error e
  | .ok s =>
    if ! poolEnabled p s || ! mayUsePool (.xe die) p s then .ok (none, s)
    else takeAfterRefill die p u ((poolOf p s).ringLen + 2) s

/-- The status of a free or a hand-off before it has an effect (R376): 0, NOT_PERMITTED or OWNER_FAULT. -/
def ownCheck (w : BpmClient) (h : BitVec 32) (u : Nat) (s : State) : Except Stop Nat :=
  let p := handlePool h
  if ! poolEnabled p s || ! mayUsePool w p s || decide (poolCount p s ≤ handleIdx h) then .ok St.notPermitted
  else
    match rdSoft (bpmWho p u s) (ownerBase p s + handleIdx h) 1 s with
    | .ok (bs, 0) => .ok (if leNat bs = 0x80 + ownerCode w then 0 else St.ownerFault)
    | .ok _ => .ok St.ownerFault
    | .error (.fault _ _) => .ok St.ownerFault
    | .error e => .error e

/-- Write the owner byte of a handle; a write that cannot complete leaves it. -/
def setOwner (h : BitVec 32) (v u : Nat) (s : State) : Except Stop State :=
  let p := handlePool h
  match wr (bpmWho p u s) (ownerBase p s + handleIdx h) [BitVec.ofNat 8 v] s with
  | .ok s => .ok s
  | .error (.fault _ _) => .ok s
  | .error e => .error e

/-- Free a handle (R376); answers the status. -/
def bpmRelease (w : BpmClient) (h : BitVec 32) (u : Nat) (s : State) : Except Stop (Nat × State) :=
  let p := handlePool h
  match settle p u s with
  | .error e => .error e
  | .ok s =>
    match ownCheck w h u s with
    | .error e => .error e
    | .ok 0 =>
      match setOwner h (ownerCode w) u s with
      | .error e => .error e
      | .ok s =>
        let s := modPool p (fun k => { k with cache := k.cache ++ [handleIdx h] }) s
        let s := addF F.BPM_POOL_FREES_FREES [p] 1 (subF F.BPM_POOL_STATE_ALLOCATED [p] 1 (addF F.BPM_POOL_STATE_FREE [p] 1 s))
        match spill p u s with
        | .error e => .error e
        | .ok s =>
          match serveWaiting p u (poolOf p s).waiting.length s with
          | .error e => .error e
          | .ok s => .ok (0, answerFn w St.ok noHandle s)
    | .ok st => .ok (st, answerFn w st noHandle (bpmFail w h st s))

/-- Hand a handle to another owner (R376); answers the status. -/
def bpmHand (w : BpmClient) (h : BitVec 32) (o u : Nat) (s : State) : Except Stop (Nat × State) :=
  match settle (handlePool h) u s with
  | .error e => .error e
  | .ok s =>
    match ownCheck w h u s with
    | .error e => .error e
    | .ok st =>
      let st := if st = 0 ∧ ! ownerValid o then St.notPermitted else st
      if st = 0 then
        match setOwner h (0x80 + o) u s with
        | .error e => .error e
        | .ok s => .ok (0, answerFn w St.ok noHandle s)
      else .ok (st, answerFn w st noHandle (bpmFail w h st s))

/-- The number under which a client's request asks lenders. -/
def bpmUnit : BpmClient → Nat
  | .xe d => 520 + d
  | .fn _ => 546

/-- A client that can make a request: an exchange engine, or a function allowed to write BPM_REQ (R373, R379). -/
def bpmClientOk (w : BpmClient) (s : State) : Bool :=
  match w with
  | .xe d => decide (d < 8)
  | .fn f => fnAllowed f 0x901000 s

/-- Run a refill's effect; a ring word in lent memory is asked for first, and the refill is then run again. -/
def bpmRun (p u : Nat) (r : Except Stop State) (s : State) : State :=
  runAccess (bpmWho p u s) r (fun _ _ s => s) s

/-- What a request does: operation 1 allocates, 2 frees, 3 hands off (R376, R379). -/
def requestEffect (w : BpmClient) (op owner : Nat) (h : BitVec 32) (s : State) : Except Stop State :=
  match op with
  | 1 => (bpmAlloc w (handlePool h) (bpmUnit w) s).map (fun x => x.2)
  | 2 => (bpmRelease w h (bpmUnit w) s).map (fun x => x.2)
  | 3 => (bpmHand w h owner (bpmUnit w) s).map (fun x => x.2)
  | _ => .ok s

/-- Keep a function's request that waits for lent memory, or forget it. -/
def holdRequest (w : BpmClient) (x : Option (Nat × Nat × BitVec 32)) (s : State) : State :=
  match w with
  | .xe _ => s
  | .fn f => { s with fns := tmod {} s.fns (fnIdx f) (fun k => { k with bpmReq := x }) }

/-- Run a request. One whose owner byte or ring word lies in lent memory asks for it: a function's request is held until it can
complete (R379), an exchange engine sends its own again (log 42). -/
def bpmRequest (w : BpmClient) (op owner : Nat) (h : BitVec 32) (s : State) : State :=
  let u := bpmUnit w
  match requestEffect w op owner h s with
  | .ok t => endAccess u 0 (holdRequest w none t)
  | .error (.need l k off) => askLender (bpmWho (handlePool h) u s) l k off (holdRequest w (some (op, owner, h)) s)
  | .error (.fault st _) => endAccess u st (holdRequest w none s)

/-- A request starts: a function's held HANDLE returns to 0 (R379). -/
def startRequest (w : BpmClient) (op owner : Nat) (h : BitVec 32) (s : State) : State :=
  bpmRequest w op owner h (match w with
    | .xe _ => s
    | .fn f => { s with fns := tmod {} s.fns (fnIdx f) (fun k => { k with bpmHeld := 0 }) })

/-- BPM_ALLOCATE. -/
def execBpmAllocate (who : BpmClient) (pool : Nat) (s : State) : Host.Outcome State Fault Refusal :=
  runIf (decide (pool < 64) && bpmClientOk who s) (startRequest who 1 0 (mkHandle pool 0)) s

/-- BPM_FREE. -/
def execBpmFree (who : BpmClient) (handle : BitVec 32) (s : State) : Host.Outcome State Fault Refusal :=
  runIf (bpmClientOk who s) (startRequest who 2 0 handle) s

/-- BPM_HAND_OFF. -/
def execBpmHandOff (who : BpmClient) (handle : BitVec 32) (owner : Nat) (s : State) : Host.Outcome State Fault Refusal :=
  runIf (bpmClientOk who s) (startRequest who 3 (owner % 256) handle) s

/-- A refill under way completes (R375), and a disable or reclaim that waited for it takes effect (R380). -/
def refillDone (p : Nat) (s : State) : State :=
  bpmRun p 546 ((refill p 546 s).map (applyPend p)) s

/-- BPM_REFILL. -/
def execBpmRefill (pool : Nat) (s : State) : Host.Outcome State Fault Refusal :=
  runIf (decide (pool < 64) && (poolOf pool s).refill) (refillDone pool) s

/-! Enabling a pool (R371, R374, R501). -/

/-- A stretch of what lies behind rope addresses (R371): lender + 1 and LHANDLE, or 0 and 0 for a place of the device or of
the host; start; length. -/
abbrev Piece : Type := Nat × Nat × Nat × Nat

/-- What lies behind `n` bytes of pool `p` at a rope address (`fuel` pages at most); an unmapped page has no piece. -/
def pieces (p : Nat) : Nat → Nat → Nat → State → List Piece
  | 0, _, _, _ => []
  | fuel + 1, a, n, s =>
    if n = 0 then []
    else
      let k := min n (2 ^ 21 - a % 2 ^ 21)
      let rest := pieces p fuel (a + k) (n - k) s
      match locate (bpmWho p 546 s) a false s with
      | .place q => (0, 0, q, k) :: rest
      | .neighbour l h off => (l + 1, h, off, k) :: rest
      | _ => rest

/-- Two pieces share a byte. -/
def meets (a b : Piece) : Bool :=
  decide (a.1 = b.1 ∧ a.2.1 = b.2.1 ∧ a.2.2.1 < b.2.2.1 + b.2.2.2 ∧ b.2.2.1 < a.2.2.1 + a.2.2.2)

/-- Bytes of the ring with the owner table after it (R374). -/
def ringBytes (p : Nat) (s : State) : Nat := (4 * poolCount p s + 63) / 64 * 64 + poolCount p s

/-- What lies behind pool `p`'s region, ring and owner table. -/
def poolPieces (p : Nat) (s : State) : List Piece :=
  let n := poolCount p s * poolSize p s
  pieces p (n / 2 ^ 21 + 2) (getF F.BPM_POOL_BASE_BASE [p] s) n s ++
  pieces p (ringBytes p s / 2 ^ 21 + 2) (getF F.BPM_POOL_RING_RING [p] s) (ringBytes p s) s

/-- A range that lies wholly in device memory and is mapped there with WRITE (R501). -/
def mappedWrite (p a n : Nat) (s : State) : Bool :=
  decide (0x010000000000 ≤ a ∧ a + n ≤ 2 ^ 48) && writable (bpmWho p 546 s) a n s

/-- The region lies wholly in the rope's cluster stores (R371). -/
def inClusters (p a n : Nat) (s : State) : Bool :=
  decide (0x80000000 ≤ a ∧ a + n ≤ 0x80000000 + (ropeClusters (poolRope p s) s).length * 2 ^ 24)

/-- Pool `q` is enabled or being enabled. -/
def poolBusy (q : Nat) (s : State) : Bool := poolEnabled q s || (poolOf q s).init

/-- The checks of R501 that come before the ring is written. -/
def poolChecks (p : Nat) (s : State) : Bool :=
  let lg := getF F.BPM_POOL_CFG_SIZE_LOG2 [p] s
  let n := poolCount p s * poolSize p s
  let base := getF F.BPM_POOL_BASE_BASE [p] s
  let ring := getF F.BPM_POOL_RING_RING [p] s
  decide (8 ≤ lg ∧ lg ≤ 24) && decide (1 ≤ poolCount p s) && decide (base % 2 ^ lg = 0) && decide (ring % 64 = 0) &&
  (inClusters p base n s || mappedWrite p base n s) && mappedWrite p ring (ringBytes p s) s &&
  (List.range 64).all (fun q => q = p || ! poolBusy q s ||
    (poolPieces q s).all (fun b => (poolPieces p s).all (fun a => ! meets a b)))

/-- A pool that is not enabled says so (R501). -/
def poolRefused (p : Nat) (s : State) : State :=
  raiseEvent { status := St.notPermitted, cls := 3, source := 0x08, rope := some (poolRope p s), unit := p }
    (setF F.BPM_POOL_CFG_ENABLE [p] 0 { s with pools := tset {} s.pools p {} })

/-- Setting ENABLE of a pool whose ENABLE is 0 (R374, R382, R501). -/
def poolEnableNow (p : Nat) (s : State) : State :=
  if poolBusy p s then s
  else if ! poolChecks p s then poolRefused p s
  else
    let s := setR .BPM_POOL_ALLOCS [p] 0 (setR .BPM_POOL_FREES [p] 0 (setR .BPM_POOL_LOST [p] 0 (setR .BPM_POOL_FAILS [p] 0 s)))
    let s := dropLatch [regOff .BPM_POOL_STATE [p], regOff .BPM_POOL_ALLOCS [p], regOff .BPM_POOL_FREES [p], regOff .BPM_POOL_LOST [p]] s
    modPool p (fun _ => { init := true }) (setR .BPM_POOL_STATE [p] 0 s)

/-- POOL_ENABLE. -/
def execPoolEnable (fn : Requester) (pool : Nat) (s : State) : Host.Outcome State Fault Refusal :=
  runIf (decide (pool < 64) && fnAllowed fn (0x900000 + 0x40 * pool) s) (poolEnableNow pool) s

/-- The ring and the owner table are written (R374). -/
def writeRingTable (p : Nat) (s : State) : Except Stop State :=
  match wr (bpmWho p 546 s) (getF F.BPM_POOL_RING_RING [p] s) ((List.range (poolCount p s)).flatMap (natLe 4)) s with
  | .error e => .error e
  | .ok s => wr (bpmWho p 546 s) (ownerBase p s) (zeros (poolCount p s)) s

/-- The pool becomes usable: ENABLE reads 1, every handle is free and in the ring (R374). -/
def poolReady (p : Nat) (s : State) : State :=
  armRefill p (modPool p (fun _ => { ringLen := poolCount p s })
    (setF F.BPM_POOL_STATE_FREE [p] (poolCount p s) (setF F.BPM_POOL_CFG_ENABLE [p] 1 s)))

/-- Address `a` of rope `r` lies in the ring or the owner table of pool `p`. -/
def inRing (p r a : Nat) (s : State) : Bool :=
  decide (poolRope p s = r ∧ getF F.BPM_POOL_RING_RING [p] s ≤ a ∧ a < getF F.BPM_POOL_RING_RING [p] s + ringBytes p s)

/-- A write of pool `p`'s ring or owner table to lent memory is not acknowledged yet. -/
def ringWritesOut (p : Nat) (s : State) : Bool :=
  let hit := fun (u : MsgUnit) => match u with
    | .write who r a _ => (decide (who = 546) || decide (520 ≤ who ∧ who < 528)) && inRing p r a s
    | _ => false
  s.msgs.waiting.any (fun m => hit m.unit) || s.msgs.outst.any (fun m => hit m.unit)

/-- The initialisation of pool `p`: the checks hold of the configuration the ring is written with, and the pool is usable once
nothing of it is on its way to a lender (R374, R501). -/
def initStep (p : Nat) (s : State) : State :=
  if (poolOf p s).initSent then (if ringWritesOut p s then s else poolReady p s)
  else if ! poolChecks p s then poolRefused p s
  else
    runAccess (bpmWho p 546 s)
      ((writeRingTable p s).map (fun t =>
        if ringWritesOut p t then modPool p (fun k => { k with initSent := true }) t else poolReady p t))
      (fun _ _ => poolRefused p) s

/-- POOL_INIT_COMPLETE. -/
def execPoolInitComplete (pool : Nat) (s : State) : Host.Outcome State Fault Refusal :=
  runIf (decide (pool < 64) && (poolOf pool s).init) (initStep pool) s

/-- A failed write of the pool manager to lent memory (R369): while the pool is being enabled, or before it has handed out a
buffer, it is not enabled (R501); a spill loses the handles it carried (R381); an owner byte stays as it was (log 67). -/
def poolWriteLost (x : WriteReq) (s : State) : State :=
  match (List.range 64).find? (fun p => poolBusy p s && inRing p x.rope x.addr s) with
  | none => s
  | some p =>
    let k := poolOf p s
    if k.init || decide (getF F.BPM_POOL_ALLOCS_ALLOCS [p] s = 0) then poolRefused p s
    else
      let first := (x.addr - getF F.BPM_POOL_RING_RING [p] s) / 4
      let is := ((List.range (x.len / 4)).map (fun i => first + i)).filter (fun i =>
        decide (i < poolCount p s) && ! k.gone.contains i &&
        decide ((i + poolCount p s - k.ringHead % poolCount p s) % poolCount p s < k.ringLen))
      if is.isEmpty then s else loseHandles p is.length (modPool p (fun k => { k with gone := k.gone ++ is }) s)

/-- The writer is the pool manager, for itself or for an exchange engine's request. -/
def poolWriter (x : WriteReq) (s : State) : Bool :=
  decide (x.who = 546) ||
  (decide (520 ≤ x.who ∧ x.who < 528) && (List.range 64).any (fun p => poolBusy p s && inRing p x.rope x.addr s))

/-- A write of ENABLE 0 or RECLAIM 1 (R380): at once where no allocation waits; a pool that is not enabled takes neither. -/
def poolStop (p : Nat) (reclaim : Bool) (s : State) : State :=
  if (poolOf p s).init then (if reclaim then s else modPool p (fun _ => {}) s)
  else if ! poolEnabled p s then s
  else
    let was := (poolOf p s).pend
    applyPend p (modPool p (fun k => { k with pend := some (reclaim || was.getD false) }) s)

/-- POOL_DISABLE. -/
def execPoolDisable (fn : Requester) (pool : Nat) (s : State) : Host.Outcome State Fault Refusal :=
  runIf (decide (pool < 64) && fnAllowed fn (0x900000 + 0x40 * pool) s) (poolStop pool false) s

/-- POOL_RECLAIM. -/
def execPoolReclaim (fn : Requester) (pool : Nat) (s : State) : Host.Outcome State Fault Refusal :=
  runIf (decide (pool < 64) && fnAllowed fn (0x900000 + 0x40 * pool) s) (poolStop pool true) s

/-- The reclaim of a rope's pools at its reset or destruction (R402, R403): allocations that wait end with it. -/
def reclaimRopePools (r : Nat) (s : State) : State :=
  forN 64 s (fun p s =>
    if poolBusy p s ∧ poolRope p s = r then
      if (poolOf p s).init then modPool p (fun _ => {}) s
      else
        let t := modPool p (fun k => { k with pend := some true }) s
        match drainPool p 546 ((poolOf p s).ringLen + 1) t with
        | .ok t => t
        | .error _ => reclaimNow p t
    else s)

end Sys2Proof.Machine
end

