-- ==== Sys2Proof/Machine/Operands.lean ====
section
/-! DEFINITION. Roneb words (R275 to R304): the fields and reserved encodings of the 32-bit and 64-bit forms, the registers of a
sequencer (R248), belay designators (R289, R294), tile descriptors (R300 to R303). -/

namespace Sys2Proof.Machine

open Sys2Proof

/-- A decoded sequencer instruction. -/
inductive SeqOp where
  | nop
  | alu (fn d a b : Nat)
  | addi (d a : Nat) (imm : Word)
  | andi (d a : Nat) (imm : Word)
  | ori (d a : Nat) (imm : Word)
  | xori (d a : Nat) (imm : Word)
  | shli (d a n : Nat)
  | shrli (d a n : Nat)
  | shrai (d a n : Nat)
  | muli (d a : Nat) (imm : Word)
  | ins16 (h d imm : Nat)
  | li (d : Nat) (imm : Word)
  | cmp (cc pd a b : Nat)
  | plog (fn pd pa pb : Nat)
  | load (size : Nat) (signed : Bool) (d a : Nat) (imm : Word)
  | store (size : Nat) (sr a : Nat) (imm : Word)
  | br (off : BitVec 48)
  | call (off : BitVec 48)
  | jmpr (d a : Nat)
  | stopProgram
  | icinv
  | mfc (d n : Nat)
  | mtc (n a : Nat)
  | wait (t des : Nat)
  | signal (v des : Nat) (set : Bool)
  | brd (d des : Nat)
  | tld (d a : Nat) (imm : Word)
  | tst (sr a : Nat) (imm : Word)
  | tset (f d a : Nat)
  | tget (f d a : Nat)
  | tadd (d a : Nat)
  | engine (w0 w1 : BitVec 32)
  | queue (w0 w1 : BitVec 32)
  deriving DecidableEq, Repr

/-- Bits [hi:lo] of an instruction word. -/
def wf32 (w : BitVec 32) (hi lo : Nat) : Nat := nbits hi lo w.toNat

/-- The 11-bit immediate of an RI word, sign-extended (R280). -/
def immRI (w : BitVec 32) : Word := (BitVec.ofNat 11 (wf32 w 13 3)).signExtend 64

/-- A 21-bit branch offset in words, sign-extended, in bytes (R280). -/
def immBR (w : BitVec 32) : BitVec 48 := (BitVec.ofNat 21 (wf32 w 23 3)).signExtend 48 * 4

/-- A 13-bit designator with no reserved bit set (R289). -/
def desOk (w : BitVec 32) : Bool := decide (wf32 w 18 18 = 1) || decide (wf32 w 17 12 = 0)

/-- The value when no reserved field of the word is set. -/
def okIf (b : Bool) (o : SeqOp) : Option SeqOp := if b then some o else none

/-- Decode a 32-bit word; none for a reserved encoding (R278 to R291, R304). -/
def decode32 (w : BitVec 32) : Option SeqOp :=
  let d := wf32 w 23 19
  let a := wf32 w 18 14
  let b := wf32 w 13 9
  let fn := wf32 w 8 3
  let imm := immRI w
  let sh := okIf (decide (wf32 w 13 9 = 0)) 
  let rest := decide (wf32 w 23 3 = 0)
  match wf32 w 30 24 with
  | 0x01 => okIf rest .nop
  | 0x02 => okIf (decide (fn ≤ 0x12)) (.alu fn d a b)
  | 0x10 => some (.addi d a imm)
  | 0x11 => some (.andi d a imm)
  | 0x12 => some (.ori d a imm)
  | 0x13 => some (.xori d a imm)
  | 0x14 => sh (.shli d a fn)
  | 0x15 => sh (.shrli d a fn)
  | 0x16 => sh (.shrai d a fn)
  | 0x17 => some (.muli d a imm)
  | 0x18 => some (.ins16 0 d (wf32 w 18 3))
  | 0x19 => some (.ins16 1 d (wf32 w 18 3))
  | 0x1A => some (.ins16 2 d (wf32 w 18 3))
  | 0x1B => some (.ins16 3 d (wf32 w 18 3))
  | 0x1C => some (.li d ((BitVec.ofNat 16 (wf32 w 18 3)).signExtend 64))
  | 0x20 => okIf (decide (wf32 w 20 19 = 0) && decide (fn ≤ 5)) (.cmp fn (wf32 w 23 21) a b)
  | 0x21 => okIf (decide (wf32 w 11 3 = 0) && decide (wf32 w 14 12 ≤ 4) && (decide (wf32 w 14 12 ≠ 4) || decide (wf32 w 17 15 = 0)))
      (.plog (wf32 w 14 12) (wf32 w 23 21) (wf32 w 20 18) (wf32 w 17 15))
  | 0x30 => some (.load 1 false d a imm)
  | 0x31 => some (.load 2 false d a imm)
  | 0x32 => some (.load 4 false d a imm)
  | 0x33 => some (.load 8 false d a imm)
  | 0x34 => some (.load 1 true d a imm)
  | 0x35 => some (.load 2 true d a imm)
  | 0x36 => some (.load 4 true d a imm)
  | 0x38 => some (.store 1 d a imm)
  | 0x39 => some (.store 2 d a imm)
  | 0x3A => some (.store 4 d a imm)
  | 0x3B => some (.store 8 d a imm)
  | 0x40 => some (.br (immBR w))
  | 0x41 => some (.call (immBR w))
  | 0x42 => okIf (decide (wf32 w 13 3 = 0)) (.jmpr d a)
  | 0x43 => okIf rest .stopProgram
  | 0x44 => okIf rest .icinv
  | 0x50 => okIf (decide (a = 0) && decide (wf32 w 13 11 = 0)) (.mfc d (wf32 w 10 3))
  | 0x51 => okIf (decide (d = 0) && decide (wf32 w 13 11 = 0)) (.mtc (wf32 w 10 3) a)
  | 0x58 => okIf (desOk w && decide (wf32 w 5 3 = 0)) (.wait d (wf32 w 18 6))
  | 0x59 => okIf (desOk w && decide (wf32 w 4 3 = 0) && (decide (wf32 w 5 5 = 1) || decide (d = 0)))
      (.signal d (wf32 w 18 6) (decide (wf32 w 5 5 = 1)))
  | 0x5A => okIf (desOk w && decide (wf32 w 5 3 = 0)) (.brd d (wf32 w 18 6))
  | 0x68 => some (.tld d a imm)
  | 0x69 => some (.tst d a imm)
  | 0x6A => okIf (decide (b = 0) && decide (fn ≤ 7)) (.tset fn d a)
  | 0x6B => okIf (decide (b = 0) && decide (fn ≤ 7)) (.tget fn d a)
  | 0x6C => okIf (decide (b = 0) && decide (fn = 0)) (.tadd d a)
  | _ => none

/-- Which operands an engine operation names: for A, B and C, 0 none, 1 a t register, 2 a g register; none for a reserved
target or operation (R292, R296 and the operation maps). -/
def opKinds (tgt op : Nat) : Option (Nat × Nat × Nat) :=
  match tgt, op with
  | 0, 0x01 => some (0, 0, 0)
  | 0, 0x02 => some (1, 0, 0)
  | 0, 0x10 => some (1, 1, 0)
  | 0, 0x11 => some (1, 1, 1)
  | 0, 0x12 => some (1, 1, 1)
  | 0, 0x20 => some (1, 0, 0)
  | 0, 0x21 => some (1, 0, 0)
  | 1, op =>
    if op = 0x12 then some (1, 1, 2)
    else if (1 ≤ op ∧ op ≤ 7) then some (1, 1, 1)
    else if (8 ≤ op ∧ op ≤ 0x11) ∨ (0x18 ≤ op ∧ op ≤ 0x1A) ∨ op = 0x20 ∨ op = 0x28 ∨ op = 0x29 then some (1, 1, 0)
    else none
  | 2, 0x01 => some (1, 1, 1)
  | 2, 0x02 => some (1, 1, 1)
  | 2, 0x03 => some (1, 1, 0)
  | 3, 0x01 => some (1, 1, 0)
  | 3, 0x02 => some (1, 1, 0)
  | 3, 0x03 => some (1, 1, 0)
  | 3, 0x04 => some (1, 0, 2)
  | 3, 0x05 => some (1, 1, 0)
  | 4, op => if op = 1 ∨ op = 2 then some (2, 0, 0) else none
  | 5, op => if op = 1 ∨ op = 2 then some (2, 0, 0) else none
  | 6, op => if 1 ≤ op ∧ op ≤ 4 then some (2, 0, 0) else none
  | _, _ => none

/-- The belay fields of a second word break R295. -/
def belayBad (w1 : BitVec 32) : Bool :=
  let w0b := wf32 w1 31 25
  let w1b := wf32 w1 19 13
  let sb := wf32 w1 7 1
  let sop := wf32 w1 0 0
  (decide (w0b = 0x7F) && decide (wf32 w1 24 20 ≠ 0)) ||
  (if sop = 1 then decide (sb = 0x7F) || decide (w1b ≠ 0x7F) else decide (w1b = 0x7F) && decide (wf32 w1 12 8 ≠ 0))

/-- Decode a 64-bit instruction; none for a reserved encoding (R292 to R296, R304). -/
def decode64 (w0 w1 : BitVec 32) : Option SeqOp :=
  let tgt := wf32 w0 30 28
  match opKinds tgt (wf32 w0 27 20) with
  | none => none
  | some (ka, kb, kc) =>
    if (ka = 0 ∧ wf32 w0 19 15 ≠ 0) ∨ (kb = 0 ∧ wf32 w0 14 10 ≠ 0) ∨ (kc = 0 ∧ wf32 w0 9 5 ≠ 0) ∨
       (4 ≤ tgt ∧ wf32 w0 4 3 ≠ 0) ∨ belayBad w1 then none
    else if tgt = 6 then some (.queue w0 w1) else some (.engine w0 w1)

/-! The registers of a sequencer (R248). -/

/-- g[i]; g0 reads zero. -/
def Core.getG (k : Core) (i : Nat) : Word := if i = 0 then 0 else tget 0 k.g i

/-- Write g[i]; writes to g0 are ignored. -/
def Core.setG (k : Core) (i : Nat) (v : Word) : Core := if i = 0 then k else { k with g := tset 0 k.g i v }

/-- p[i]; p0 reads 1. -/
def Core.getP (k : Core) (i : Nat) : Bool := decide (i = 0) || k.p.getLsbD i

/-- Write p[i]; writes to p0 are ignored. -/
def Core.setP (k : Core) (i : Nat) (v : Bool) : Core :=
  if i = 0 then k
  else { k with p := if v then k.p ||| BitVec.ofNat 8 (2 ^ i) else k.p &&& ~~~(BitVec.ofNat 8 (2 ^ i)) }

/-- t[i]. -/
def Core.getT (k : Core) (i : Nat) : BitVec 128 := tget 0 k.t i

/-- Write t[i]. -/
def Core.setT (k : Core) (i : Nat) (v : BitVec 128) : Core := { k with t := tset 0 k.t i v }

/-! Belay designators. -/

/-- The belay a 13-bit designator names for a core of rope `r`: a core belay, a device belay, or none when the index lies
outside the rope's range (R289). -/
def belay13 (r des : Nat) (s : State) : Option (Bool × Nat) :=
  if des < 4096 then some (false, des % 64)
  else if des - 4096 < (ropeOf r s).belayCount then some (true, (ropeOf r s).belayFirst + (des - 4096))
  else none

/-- The belay a 7-bit designator names: `some none` for 0x7F, none when the index lies outside the rope's range (R294). -/
def belay7 (r v : Nat) (s : State) : Option (Option (Bool × Nat)) :=
  if v = 0x7F then some none
  else if v < 0x40 then some (some (false, v))
  else if v - 0x40 < (ropeOf r s).belayCount then some (some (true, (ropeOf r s).belayFirst + (v - 0x40)))
  else none

/-- Signal a designated belay for core `c`: unit `who` signals (R262). -/
def signalDes (who c : Nat) (b : Option (Bool × Nat)) (set : Bool) (v : Word) (s : State) : State :=
  match b with
  | none => s
  | some (true, i) => signalBy who true i set v s
  | some (false, i) => signalBy who false (c * 64 + i) set v s

/-- The wait condition of a 7-bit designator and a threshold, if it names a belay (R261, R294). -/
def condOf (r v : Nat) (thr : Word) (s : State) : List Cond :=
  match belay7 r v s with
  | some (some (dev, i)) => [⟨dev, i, thr⟩]
  | _ => []

/-- The wait conditions of a queued instruction (R261, R295). -/
def condsOf (r : Nat) (e : QEntry) (s : State) : List Cond :=
  condOf r (wf32 e.w1 31 25) e.th0 s ++ (if wf32 e.w1 0 0 = 1 then [] else condOf r (wf32 e.w1 19 13) e.th1 s)

/-- They hold together (R261). -/
def waitsHold (r c : Nat) (e : QEntry) (s : State) : Bool := (condsOf r e s).all (fun k => condHolds c k s)

/-- The signal of a finished instruction (R262). -/
def signalEntry (who r c : Nat) (e : QEntry) (s : State) : State :=
  match belay7 r (wf32 e.w1 7 1) s with
  | some (some (dev, i)) =>
    signalHeld ⟨who, dev, if dev then i else c * 64 + i, decide (wf32 e.w1 0 0 = 1), e.sig, some c, e.tag⟩ s
  | _ => s

/-- An instruction has begun. -/
def QEntry.begun (e : QEntry) : QEntry := { e with started := true }

/-- The entry a die engine takes next: one that has begun, or the first entry of a rope, ropes round robin, that `ready` lets begin;
none begins while `busy` (R29, R64, R261; log 19). -/
def pickEntry (last : Nat) (busy : Bool) (ready : DieEntry → Bool) (q : List DieEntry) (s : State) : Option (Nat × DieEntry) :=
  match findIdxFrom (fun (d : DieEntry) => d.e.started) q 0 with
  | some i =>
    (match q[i]? with
    | some d => if mayRun d.rope true s then some (i, d) else none
    | none => none)
  | none =>
    if busy then none
    else
      ((List.range 16).map (fun i => (last + 1 + i) % 16)).findSome? (fun r =>
        match findIdxFrom (fun (d : DieEntry) => decide (d.rope = r) && ! d.late) q 0 with
        | none => none
        | some i =>
          match q[i]? with
          | some d => if mayRun r false s && waitsHold r d.core d.e s && ready d then some (i, d) else none
          | none => none)

/-- A queue whose entry `i` has begun. -/
def beginAt (i : Nat) (q : List DieEntry) : List DieEntry :=
  match q[i]? with
  | some d => setAt q i { d with e := d.e.begun }
  | none => q

/-! Tile descriptors (R300 to R303). -/

/-- A tile descriptor. -/
structure Tile where
  base : Nat
  rows : Nat
  cols : Nat
  stride : Nat
  format : Nat
  layout : Nat
  comp : Bool
  rsvd : Bool
  soff : Nat
  deriving DecidableEq, Repr

/-- The fields of a descriptor; rows, columns and stride in their units: 1 to 65,536 rows and columns, bytes (R300). -/
def tileOf (t : BitVec 128) : Tile :=
  { base := nbits 47 0 t.toNat, rows := nbits 63 48 t.toNat + 1, cols := nbits 79 64 t.toNat + 1,
    stride := nbits 95 80 t.toNat * 16, format := nbits 101 96 t.toNat, layout := nbits 103 102 t.toNat,
    comp := t.getLsbD 104, rsvd := t.getLsbD 105, soff := nbits 127 106 t.toNat * 64 }

/-- The bits of a TSET or TGET field (R291). -/
def tileField (f : Nat) : Nat × Nat :=
  match f with
  | 0 => (47, 0) | 1 => (63, 48) | 2 => (79, 64) | 3 => (95, 80)
  | 4 => (101, 96) | 5 => (103, 102) | 6 => (104, 104) | _ => (127, 106)

/-- A descriptor with bits [hi:lo] replaced. -/
def withTileBits (hi lo v : Nat) (t : BitVec 128) : BitVec 128 :=
  BitVec.ofNat 128 (t.toNat - nbits hi lo t.toNat * 2 ^ lo + v % 2 ^ (hi + 1 - lo) * 2 ^ lo)

/-- Element width in bits; 0 for a reserved code (R301). -/
def fmtBits (f : Nat) : Nat :=
  match f with
  | 0x01 => 32 | 0x02 => 16 | 0x03 => 16 | 0x08 => 8 | 0x09 => 8 | 0x0A => 6 | 0x0B => 6 | 0x0C => 4 | 0x0D => 8
  | 0x0E => 4 | 0x11 => 16 | 0x12 => 32 | 0x13 => 32 | _ => 0

/-- A block format (R301). -/
def isBlock (f : Nat) : Bool := decide (8 ≤ f ∧ f ≤ 0x0E)

/-- The rows of a tile along which elements are packed: columns under LAYOUT 1; and their length in elements. -/
def Tile.lines (t : Tile) : Nat := if t.layout = 1 then t.cols else t.rows
def Tile.lineLen (t : Tile) : Nat := if t.layout = 1 then t.rows else t.cols

/-- Bytes of the elements of one line. -/
def Tile.lineBytes (t : Tile) : Nat := t.lineLen * fmtBits t.format / 8

/-- Bytes a line takes at its stride, scales included under LAYOUT 2 (R303). -/
def Tile.lineSpan (t : Tile) : Nat := t.lineBytes + (if t.layout = 2 then t.lineLen / 32 else 0)

/-- The checks of R303 on a dense descriptor that do not depend on the operation or the unit. -/
def Tile.denseOk (t : Tile) : Bool :=
  decide (fmtBits t.format ≠ 0) && ! t.comp && ! t.rsvd && decide (t.layout ≠ 3) && decide (t.base % 16 = 0) &&
  decide (t.lineLen * fmtBits t.format % 8 = 0) && (! isBlock t.format || decide (t.lineLen % 32 = 0)) &&
  (decide (t.lines ≤ 1) || decide (t.lineSpan ≤ t.stride)) && (decide (t.layout ≠ 2) || isBlock t.format) &&
  (decide (t.soff = 0) || isBlock t.format)

end Sys2Proof.Machine
end

