-- ==== Sys2Proof/Machine/Switch.lean ====
section
/-! DEFINITION. The switch core: admission (R173 to R177, R184, R185), output scheduling (R178, R179), calendars (R154, R155,
R160), congestion (R148), service states (R180), geometry and ring notices (R138, R144), the path epoch (R152). -/

namespace Sys2Proof.Machine

open Sys2Proof

/-- Count a forwarded packet as cut-through or store-and-forward (R181 to R183). -/
def countForward (inp out vc : Nat) (s : State) : State :=
  if cutThrough inp out vc s then countR .SW_CT_PACKETS [] s else countR .SW_SAF_PACKETS [] s

/-- Take the head of an input off, with its credits (R121). -/
def popInput (inp vc : Nat) (p : Packet) (s : State) : State :=
  freeCredits inp vc p (setInQ inp vc ((inQ inp vc s).drop 1) s)

/-- A copy to output `o` enters a ring unless it goes on straight (R151, R185). -/
def copyEnters (inp o : Nat) : Bool :=
  ! (decide (inp < 16) && decide (o < 16) && decide (inp / 4 = o / 4) && decide (inp / 2 % 2 ≠ o / 2 % 2) &&
     decide (inp % 2 = o % 2))

/-! Arbitration (R174). -/

/-- Input `inp` presents a head that output `out` can take on `vc`. -/
def offers (out vc : Nat) (s : State) (inp : Nat) : Bool :=
  (List.range 6).any (fun v =>
    match inQ inp v s with
    | [] => false
    | p :: _ =>
      canAdmit out vc p.credits s &&
      (if p.multicast then decide (v = vc) && ! mcastBad p v && (mcastDue p s).contains out
       else match route p inp v s with
        | .deliver o => decide (o = out ∧ v = vc)
        | .port o w _ => decide (o = out ∧ w = vc)
        | _ => false))

/-- An output takes from at most two inputs at a time: when more of them offer, the next two in round robin by input, for each VC. -/
def inTurn (out vc inp : Nat) (s : State) : Bool :=
  let who := (List.range 43).filter (offers out vc s)
  let next := tget 0 s.switch.rrIn (out * 8 + vc)
  decide (who.length ≤ 2) ||
    ((who.filter (fun i => decide (next ≤ i)) ++ who.filter (fun i => decide (i < next))).take 2).contains inp

/-- Put a packet of an input at an output, whose round robin goes on behind it. -/
def admitAt (out vc : Nat) (p : Packet) (inp : Nat) (enters : Bool) (s : State) : State :=
  enqueueOut out vc p inp enters
    { s with switch := { s.switch with rrIn := tset 0 s.switch.rrIn (out * 8 + vc) ((inp + 1) % 43) } }

/-- Write the copies the outputs admit; the head leaves its input with the last of them (R184, R185). -/
def admitMulticast (inp vc : Nat) (p : Packet) (s : State) : State :=
  if mcastBad p vc then countR .SW_MCAST_DISCARDS [] (popInput inp vc p s)
  else
    let due := mcastDue p s
    let now := due.filter (fun o => canAdmit o vc p.credits s && inTurn o vc inp s)
    let t := forList now s (fun o s =>
      admitAt o vc { p with group := 0, copied := [] } inp (copyEnters inp o)
        (countForward inp o vc (countR .SW_MCAST_COPIES [] s)))
    if now.length = due.length then noteMcast inp p (popInput inp vc p t)
    else setInQ inp vc ({ p with copied := p.copied ++ now } :: (inQ inp vc s).drop 1) t

/-- The head of an input moves into an output buffer, or is discarded (R176, R177). -/
def admitStep (inp vc : Nat) (s : State) : State :=
  match inQ inp vc s with
  | [] => s
  | p :: _ =>
    if p.multicast then admitMulticast inp vc p s
    else
      match route p inp vc s with
      | .discard c => countR c [] (popInput inp vc p s)
      | .deliver out =>
        if canAdmit out vc p.credits s ∧ inTurn out vc inp s then
          admitAt out vc p inp false (countR .SW_SAF_PACKETS [] (popInput inp vc p s))
        else s
      | .port out v enters =>
        if canAdmit out v p.credits s ∧ inTurn out v inp s then
          admitAt out v p inp enters (countForward inp out v (popInput inp vc p s))
        else s
      | .stay => s

/-- Packets that entered at an own input and have not started at an output are gone, with their output units (R90, R191). -/
def dropInjected (inp : Nat) (outs : Bool) (p : Packet → Bool) (s : State) : State :=
  let s := forN 6 s (fun vc s => setInQ inp vc ((inQ inp vc s).filter (fun x => ! p x)) s)
  if outs then
    forN 43 s (fun out s =>
      noteUnits out (forN 6 s (fun vc s => setOutQ out vc ((outQ out vc s).filter (fun e => ! (decide (e.2.1 = inp) && p e.1))) s)))
  else s

/-- SWITCH_ADMIT (R176). -/
def execSwitchAdmit (inp vc : Nat) (s : State) : Host.Outcome State Fault Refusal :=
  runIf (decide (inp < 43) && decide (vc < 6)) (admitStep inp vc) s

/-- Flits a packet takes behind the bytes of the stream that wait at a port (R112). -/
def flitsOf (out : Nat) (p : Packet) (s : State) : Nat := ((portOf out s).tx.length + p.size + 247) / 248

/-- An entry at the head of an output VC can start on the link (R116, R120, R151). -/
def canStart (out vc : Nat) (e : Packet × Nat × Bool) (s : State) : Bool :=
  decide ((portOf out s).replay.length + flitsOf out e.1 s ≤ 1024) && creditsAllow out vc e.1.credits e.2.2 s

/-- The VC5 packet of the current calendar slot's line (R155, R178 step 1), by its place in the queue. A DRAINING slot still belongs to
its line, which R160 lets drain (DEDUCED, log 33). -/
def slotPacket (out : Nat) (s : State) : Option Nat :=
  match tget none (s.tables.calendar.map (fun e => (e.1, some e.2))) (out * 256 + tget 0 s.tables.curSlot out) with
  | none => none
  | some c => findIdxFrom (fun e => decide (e.1.flow.toNat = c.plan * 1024 + c.line) &&
      decide (e.1.job.toNat % 4096 = c.job)) (outQ out 5 s) 0

/-- The head of an output VC, if it can start. -/
def startable (out vc : Nat) (s : State) : Bool :=
  match outQ out vc s with
  | e :: _ => canStart out vc e s
  | [] => false

/-- The VCs of step 4 after the one served last, in round robin (R178). -/
def step4Vcs (last : Nat) (vcs : List Nat) : List Nat :=
  vcs.filter (fun v => decide (last < v)) ++ vcs.filter (fun v => decide (v ≤ last))

/-- What a fabric output starts next: the VC, the place in its queue, and the step of R178. A packet of step 4 is waiting, for step 3,
when one could start (DESIGN CHOICE, log 72). -/
def pickNext (out : Nat) (s : State) : Option (Nat × Nat × Nat) :=
  let line : Option (Nat × Nat × Nat) :=
    if tget false s.switch.armed out then
      match slotPacket out s with
      | some i => (match (outQ out 5 s)[i]? with
                   | some e => if canStart out 5 e s then some (5, i, 1) else none
                   | none => none)
      | none => none
    else none
  match line with
  | some x => some x
  | none =>
    let rr := (step4Vcs (tget 0 s.switch.rrVc out) [0, 1, 2, 4]).find? (fun v => startable out v s)
    if 64 ≤ tget 0 s.switch.allow out && startable out 4 s then some (4, 0, 2)
    else if startable out 3 s && ! (decide (16 ≤ tget 0 s.switch.vc3Run out) && rr.isSome) then some (3, 0, 3)
    else rr.map (fun v => (v, 0, 4))

/-- The management allowance after an output sends `n` bytes (R179). -/
def gainAllowance (out n : Nat) (s : State) : State :=
  let r := tget 0 s.switch.allowRem out + n
  { s with switch := { s.switch with
    allow := tset 0 s.switch.allow out (min 1024 (tget 0 s.switch.allow out + r / 100)),
    allowRem := tset 0 s.switch.allowRem out (r % 100) } }

/-- Record which step of R178 sent a packet. -/
def noteSent (out vc step : Nat) (s : State) : State :=
  { s with switch := { s.switch with
    allow := if step = 2 then tset 0 s.switch.allow out (tget 0 s.switch.allow out - 64) else s.switch.allow,
    vc3Run := tset 0 s.switch.vc3Run out (if step = 3 then tget 0 s.switch.vc3Run out + 1 else 0),
    rrVc := if step = 4 then tset 0 s.switch.rrVc out vc else s.switch.rrVc } }

/-- A packet starts on a link: its credits are used, its bytes join the stream and leave in full data flits (R111, R112, R120). -/
def transmit (out vc : Nat) (p : Packet) (s : State) : State :=
  let p := p.corrected (timeNow s)
  let s := mirrorCopies true out p s
  let s := subF F.LNK_VC_STATE_AVAIL [out, vc] p.credits s
  let s := setR .LNK_VC_USED [out, vc] (getR .LNK_VC_USED [out, vc] s + BitVec.ofNat 64 p.credits) s
  sendBytes out p.wire s

/-- An analysis output starts its next mirror copy, on VC1 (R188). -/
def startCopy (out : Nat) (s : State) : Option State :=
  match tget [] s.switch.mirrorq out with
  | [] => none
  | p :: t =>
    if canStart out 1 (p, 0, false) s then
      some (gainAllowance out p.size (transmit out 1 p (noteUnits out
        { s with switch := { s.switch with mirrorq := tset [] s.switch.mirrorq out t } })))
    else none

/-- A fabric output starts its next packet (R178). -/
def startPacket (out : Nat) (s : State) : Option State :=
  if isAnalysis out s then startCopy out s
  else
    match pickNext out s with
    | none => none
    | some (vc, i, step) =>
      (outQ out vc s)[i]?.map (fun e =>
        let s := noteUnits out (setOutQ out vc (dropAt (outQ out vc s) i) s)
        gainAllowance out e.1.size (noteSent out vc step (transmit out vc e.1 s)))

/-- A fabric output at a packet boundary (R178): its next packet starts, and with nothing more to start the last flit is padded (R112).
With nothing to send it returns freed credits in a flit of pad words (R121), or sends an idle flit (R113). -/
def scheduleFabric (out : Nat) (s : State) : State :=
  if portState out s ≠ Ps.up then s
  else
    match startPacket out s with
    | some t => if (startPacket out t).isNone then sendRest out t else t
    | none =>
      if ! (portOf out s).tx.isEmpty then sendRest out s
      else if (nextReturn (portOf out s)).2 ≠ 0 ∧ (portOf out s).replay.length < 1024 then sendData out [] s
      else sendIdle out [] s

/-- The unit behind a delivery output: 16 to 26, and 32 + n for the adder of port n. -/
def unitOf (out : Nat) : Nat := if out < 27 then out else out + 5

/-- A delivery unit that is gated: the XE of a compute die while the device is not ACTIVE (R22, R191). -/
def unitGated (out : Nat) (s : State) : Bool :=
  decide (16 ≤ out ∧ out < 24) && decide (getF F.BC_STATE_DEVICE [] s ≠ 4)

/-- What a delivery output starts next (R178). -/
def pickDelivery (out : Nat) (s : State) : Option (Nat × Nat) :=
  let has := fun v => decide (outQ out v s ≠ [])
  let rr := (step4Vcs (tget 0 s.switch.rrVc out) [0, 1, 2, 5]).find? has
  if has 4 then some (4, 2)
  else if has 3 && ! (decide (16 ≤ tget 0 s.switch.vc3Run out) && rr.isSome) then some (3, 3)
  else rr.map (fun v => (v, 4))

/-- A delivery output hands its next packet to the unit; it discards and counts it while the unit is gated (R191), and the
destination discards a packet with a wrong code (R131, R183). -/
def scheduleDelivery (out : Nat) (s : State) : State :=
  match pickDelivery out s with
  | none => s
  | some (vc, step) =>
    match outQ out vc s with
    | [] => s
    | e :: t =>
      let s := noteSent out vc step (noteUnits out (setOutQ out vc t s))
      if unitGated out s then countR .SW_DELIVERY_DISCARDS [] s
      else if e.1.code ≠ e.1.crc then s
      else
        let s := if out < 27 then mirrorCopies true out e.1 s else s
        let q := tget [] s.switch.delivered (unitOf out)
        { s with switch := { s.switch with delivered := tset [] s.switch.delivered (unitOf out) (q ++ [(e.1, e.2.1)]) } }

/-- OUTPUT_SCHEDULE (R178). -/
def execOutputSchedule (out : Nat) (s : State) : Host.Outcome State Fault Refusal :=
  runIf (decide (out < 43)) (if out < 16 then scheduleFabric out else scheduleDelivery out) s

/-- CALENDAR_SLOT_START (R154, R179): the output's next slot begins. -/
def execCalendarSlotStart (port : Nat) (s : State) : Host.Outcome State Fault Refusal :=
  runIf (decide (port < 16)) (fun s =>
    let s := { s with tables := { s.tables with
      curSlot := tset 0 s.tables.curSlot port ((tget 0 s.tables.curSlot port + 1) % 256) } }
    { s with switch := { s.switch with armed := tset false s.switch.armed port (slotPacket port s).isSome } }) s

/-- Bytes queued for a port in the switch core, on all VCs (R148). -/
def queuedBytes (n : Nat) (s : State) : Nat :=
  ((List.range 6).map (fun v => ((outQ n v s).map (fun e => e.1.size)).sum)).sum +
  ((tget [] s.switch.mirrorq n).map Packet.size).sum

/-- CONGESTION_SAMPLE (R148): weight 1/16, rounded down (log 13). -/
def execCongestionSample (s : State) : Host.Outcome State Fault Refusal :=
  runIf true (fun s => forN 16 s (fun n s =>
    let sample := queuedBytes n s +
      64 * (getF F.LNK_VC_STATE_PEER_ADVERT [n, 1] s - getF F.LNK_VC_STATE_AVAIL [n, 1] s)
    setF F.SW_CONG_ESTIMATE [n] ((15 * getF F.SW_CONG_ESTIMATE [n] s + sample) / 16) s)) s

/-- RECOVERY_END (R180). -/
def execRecoveryEnd (s : State) : Host.Outcome State Fault Refusal :=
  runIf true (fun s => noteService { s with switch := { s.switch with recovery := false } }) s

/-- PEAK_CLEAR (SW_OUTBUF, R175). -/
def execPeakClear (fn : Requester) (out : Nat) (s : State) : Host.Outcome State Fault Refusal :=
  runIf (decide (out < 27) && fnAllowed fn (regOff .SW_OUTBUF [out]) s)
    (fun s => setF F.SW_OUTBUF_PEAK [out] (getF F.SW_OUTBUF_USED [out] s) s) s

/-- Take the oldest packet or cell delivered at a unit that satisfies `p`: with the input it came from. -/
def takeDelivered (u : Nat) (p : Packet → Bool) (s : State) : Option ((Packet × Nat) × State) :=
  let q := tget [] s.switch.delivered u
  match findIdxFrom (fun e => p e.1) q 0 with
  | none => none
  | some i =>
    match q[i]? with
    | none => none
    | some e => some (e, { s with switch := { s.switch with delivered := tset [] s.switch.delivered u (dropAt q i) } })

/-- A cell of control kind `k`. -/
def isKind (k : Nat) (p : Packet) : Bool := p.ty = 8 && decide (p.kind.toNat = k)

/-! Geometry, ring notices and the path epoch. -/

/-- The sizes of a SW_GEOMETRY value are in range (R138). -/
def sizesOk (v : Word) : Bool :=
  let ok := fun n m => decide (1 ≤ n ∧ n ≤ m)
  ok (bits 4 0 v) 16 && ok (bits 12 8 v) 16 && ok (bits 20 16 v) 16 && ok (bits 27 24 v) 8

/-- The ring map under a new geometry: the bits of the own links at their numbers, and those learnt from notices while the geometry was
and stays valid (R143, R144). -/
def ringMapAfter (kept : Bool) (old new : State) : Word :=
  ownBits new ||| (if kept then getR .SW_RING_MAP [] old &&& ~~~(ownBits old) else 0)

/-- A write of SW_GEOMETRY (R138, R144): the ring map follows, which raises the path epoch where it changes (R152, R180); a geometry that
becomes valid sends a notice for each own blocked link, and one that ends takes the repeats that wait. -/
def writeGeometry (v : Word) (s : State) : State :=
  let was := geomValid s
  let now := v.getLsbD 63 && sizesOk v
  let t := setR .SW_GEOMETRY [] (withBits 63 63 (if now then 1 else 0) (v &&& 0x800000000F1F1F1F)) s
  let map := ringMapAfter (was && now) s t
  let t := if map = getR .SW_RING_MAP [] s then t else enterRecovery (bumpEpoch (setR .SW_RING_MAP [] map t))
  let t := if now then t else { t with switch := { t.switch with notices := [] } }
  let t := if now && ! was then
      forN 8 t (fun i t =>
        if ownBlocked (i / 2) (i % 2) t && decide (ringLen (i / 2) t ≠ 1) then startNotice (i / 2) (ownLink (i / 2) (i % 2) t) 0 (1 - i % 2) t
        else t)
    else t
  noteService t

/-- GEOMETRY_WRITE (R138). -/
def execGeometryWrite (fn : Requester) (value : BitVec 64) (s : State) : Host.Outcome State Fault Refusal :=
  runIf (fnAllowed fn (regOff .SW_GEOMETRY []) s) (writeGeometry value) s

/-- A RING_NOTICE is discarded as malformed (R144). -/
def noticeBad (p : Packet) (s : State) : Bool :=
  let d := fieldAt p.payload 0 1
  decide (3 < d) || decide (ringLen d s ≤ fieldAt p.payload 1 1) || decide (1 < fieldAt p.payload 2 1) ||
  (p.payload.drop 3).any (fun b => decide (b ≠ 0))

/-- RING_NOTICE_RECEIVE (R144). -/
def execRingNoticeReceive (s : State) : Host.Outcome State Fault Refusal :=
  runIf true (fun s =>
    match takeDelivered 26 (isKind 0x12) s with
    | none => s
    | some ((p, inp), s) =>
      if ! geomValid s then s
      else if noticeBad p s then (if inp < 16 then countR .LNK_PKT_MALFORMED [inp] s else s)
      else
        let d := fieldAt p.payload 0 1
        let c := fieldAt p.payload 1 1
        let b := decide (fieldAt p.payload 2 1 = 0)
        if linkBlocked d c s = b then s
        else
          let s := enterRecovery (bumpEpoch (setRingBit d c b s))
          if inp < 16 ∧ inp / 4 = d then startNotice d c (fieldAt p.payload 2 1) (1 - inp / 2 % 2) s else s) s

/-- RING_NOTICE_REPEAT (R144): the notice goes again; the third copy is the last. -/
def execRingNoticeRepeat (idx : Nat) (s : State) : Host.Outcome State Fault Refusal :=
  runIf true (fun s =>
    match s.switch.notices[idx]? with
    | none => s
    | some (d, c, x, k) =>
      let rest := if k ≤ 1 then dropAt s.switch.notices idx else setAt s.switch.notices idx (d, c, x, k - 1)
      sendNotice d c (x / 2) (x % 2) { s with switch := { s.switch with notices := rest } }) s

/-- PATH_EPOCH_BUMP (R152). -/
def execPathEpochBump (fn : Requester) (s : State) : Host.Outcome State Fault Refusal :=
  runIf (fnAllowed fn (regOff .SW_PATH_EPOCH []) s) bumpEpoch s

/-- UNREACHABLE_CLEAR (R171): the write also names the address SW_E2E_QUERY shows. -/
def execUnreachableClear (fn : Requester) (addr : BitVec 16) (s : State) : Host.Outcome State Fault Refusal :=
  runIf (fnAllowed fn (regOff .SW_E2E_QUERY []) s) (fun s =>
    let s := setF F.SW_E2E_QUERY_ADDR [] addr.toNat s
    { s with msgs := { s.msgs with unreach := tset false s.msgs.unreach addr.toNat false } }) s

/-- SLOT_DRAIN_COMPLETE (R160): a DRAINING slot whose output holds no packet of the old line becomes FREE. -/
def execSlotDrainComplete (port slot : Nat) (s : State) : Host.Outcome State Fault Refusal :=
  runIf (decide (port < 16) && decide (slot < 256)) (fun s =>
    let i := port * 256 + slot
    match s.tables.calendar.find? (fun e => decide (e.1 = i)) with
    | none => s
    | some (_, c) =>
      if c.draining && (outQ port 5 s).all (fun e => ! (decide (e.1.flow.toNat = c.plan * 1024 + c.line) &&
          decide (e.1.job.toNat % 4096 = c.job))) then
        { s with tables := { s.tables with calendar := tfilter (fun k => decide (k ≠ i)) s.tables.calendar } }
      else s) s

end Sys2Proof.Machine
end

