-- ==== Sys2Proof/Machine/Exchange.lean ====
section
/-! DEFINITION. What the exchange engine is made of (chapter 03): the descriptor (R65), tags (R66, R89), the ledger (R93),
streams cut by a cancel or a loss (R91), the capacity rule (R72), landing and chunk belays (R81), freeing buffers (R84), the
combine (R85 to R88), retirement (R89, R90). -/

namespace Sys2Proof.Machine

open Sys2Proof

/-! Folds over what an access may stop, and accesses that go on where an address cannot be reached (R96). -/

/-- Run `f` over a list, stopping where it stops. -/
def foldE {α σ : Type} (l : List α) (s : σ) (f : α → σ → Except Stop σ) : Except Stop σ :=
  match l with
  | [] => .ok s
  | a :: t =>
    match f a s with
    | .error e => .error e
    | .ok s => foldE t s f

/-- Write, or leave what cannot be written: only the faults of R67 stop a rope (R96), and a page whose lender is lost (R369). -/
def tryWr (w : Who) (a : Nat) (bs : List Byte) (poison : Bool) (s : State) : Except Stop State :=
  match (if poison then wrPoison w a bs.length s else wr w a bs s) with
  | .error (.fault st x) => .ok (if st = St.lenderLost then lostWrite w x s else s)
  | r => r

/-- Read; what cannot be read is poison. -/
def tryRd (w : Who) (a n : Nat) (s : State) : Except Stop (List Byte × Bool) :=
  match rdSoft w a n s with
  | .error (.fault _ _) => .ok (zeros n, true)
  | .error e => .error e
  | .ok (bs, f) => .ok (bs, decide (f ≠ 0))

/-- 16-byte words with their poison. -/
abbrev Words : Type := List (List Byte × Bool)

/-- Read `n` words from an address. -/
def gatherWords (w : Who) : Nat → Nat → State → Except Stop Words
  | 0, _, _ => .ok []
  | n + 1, a, s =>
    match tryRd w a 16 s with
    | .error e => .error e
    | .ok x =>
      match gatherWords w n (a + 16) s with
      | .error e => .error e
      | .ok t => .ok (x :: t)

/-- Read rows one after the other. -/
def gatherRows (w : Who) (n : Nat) : List Nat → State → Except Stop Words
  | [], _ => .ok []
  | a :: t, s =>
    match gatherWords w n a s with
    | .error e => .error e
    | .ok x =>
      match gatherRows w n t s with
      | .error e => .error e
      | .ok y => .ok (x ++ y)

/-- Write words from an address. -/
def putWords (w : Who) : Nat → Words → State → Except Stop State
  | _, [], s => .ok s
  | a, x :: t, s =>
    match tryWr w a x.1 x.2 s with
    | .error e => .error e
    | .ok s => putWords w (a + 16) t s

/-- The words of a payload: a packet that came over a link with POISON holds poison in every word; one that stayed inside the
device holds it where its words do (R132). -/
def payloadWords (p : Packet) : Words :=
  (cutData (p.payload.length + 1) 16 0 p.payload).map (fun x => (x.2, p.poison && (p.bad.isEmpty || p.bad.contains (x.1 / 16))))

/-- The bytes of words. -/
def wordBytes (ws : Words) : List Byte := ws.flatMap (fun x => x.1)

/-- The packets of a message over words: at most `n` words each, POISON where a word is poisoned (R78, R132). `off` is the
OFFSET of the first. -/
def packBy (n : Nat) (t : Packet) (off : Nat) (ws : Words) : List Packet :=
  (makePackets t (cutData (16 * ws.length + 1) (16 * n) off (wordBytes ws))).map (fun p =>
    let mine := ((ws.drop (p.pseq.toNat * n)).take n).map (fun x => x.2)
    { p with poison := mine.any id, bad := (List.range mine.length).filter (fun i => mine.getD i false) })

/-- The packets of a message that may take 4,096 bytes each. -/
def packWords (t : Packet) (off : Nat) (ws : Words) : List Packet := packBy 256 t off ws

/-! The engine and its exchanges. -/

/-- The exchange engine of a die. -/
def xeOf (die : Nat) (s : State) : Xe := tget {} s.xes die

/-- Change the exchange engine of a die. -/
def modXe (die : Nat) (f : Xe → Xe) (s : State) : State := { s with xes := tmod {} s.xes die f }

/-- Two tags name one exchange (R66). -/
def sameTag (a b : BitVec 32) : Bool := decide (a.toNat / 16 = b.toNat / 16)

/-- Change the active exchange of a tag. -/
def modExch (die : Nat) (t : BitVec 32) (f : Exch → Exch) (s : State) : State :=
  modXe die (fun x => { x with
    active := x.active.map (fun e => if e.finished.isNone && sameTag e.tag t then f e else e) }) s

/-- The rope of a tag (R66). -/
def tagRope (t : BitVec 32) : Nat := nbits 31 28 t.toNat

/-- A tag is among the 16 last retired of its rope (R89). -/
def isRetired (die : Nat) (t : BitVec 32) (s : State) : Bool :=
  (tget [] (xeOf die s).retired (tagRope t)).any (fun x => sameTag x t)

/-- Active tags of a rope on an engine (R64). -/
def activeTags (die r : Nat) (s : State) : Nat :=
  ((xeOf die s).active.filter (fun e => e.finished.isNone && decide (e.rope = r))).length

/-- XE_STATUS and XE_ACTIVE follow the active tags. -/
def noteXe (die : Nat) (s : State) : State :=
  let n := ((List.range 16).map (fun r => min 4 (activeTags die r s) * 16 ^ r)).sum
  setF F.XE_ACTIVE_TAGS [die] n (setF F.XE_STATUS_BUSY [die] (if n = 0 then 0 else 1) s)

/-! Descriptor fields (R65). -/

/-- A field of an exchange's descriptor. -/
def Exch.fld (e : Exch) (off n : Nat) : Nat := fieldAt e.desc off n

def Exch.d (e : Exch) : Nat := e.fld 66 1 % 16
def Exch.own (e : Exch) : Nat := e.fld 66 1 / 16
def Exch.slotBins (e : Exch) : Nat := e.fld 62 2
def Exch.rankBins (e : Exch) : Nat := e.fld 64 2
/-- SPD of R62. -/
def Exch.spd (e : Exch) : Nat := (e.slotBins + e.d - 1) / e.d
/-- Streams, and origins: RANK_BINS × D (R63). -/
def Exch.n (e : Exch) : Nat := e.rankBins * e.d
/-- Bytes of a token row. -/
def Exch.rowB (e : Exch) : Nat := e.fld 28 2 * 16
def Exch.elems (e : Exch) : Nat := e.fld 40 2
def Exch.tokens (e : Exch) : Nat := e.fld 30 2 + 1
def Exch.k (e : Exch) : Nat := e.fld 42 1
/-- A: bytes of an answer row. -/
def Exch.ansB (e : Exch) : Nat :=
  match e.fld 43 1 with
  | 0 => 4 * e.elems
  | 1 => 2 * e.elems
  | _ => e.elems * 33 / 32
/-- The engine as a unit of the rope. -/
def Exch.who (e : Exch) (die : Nat) : Who :=
  { reach := .die, rope := e.rope, core := e.core, id := 520 + die, tag := e.ent.tag, pc := e.ent.pc }
/-- The slots homed on this die (R62). -/
def Exch.homed (e : Exch) : List Nat :=
  (List.range e.spd).map (fun k => e.own * e.spd + k) |>.filter (fun s => decide (s < e.slotBins))
/-- Token index, rank, slot, weight and flags of a dispatch record (R55). -/
def Exch.token (e : Exch) (p : Nat) : Nat := fieldAt e.dlist (16 * p) 4
def Exch.recRank (e : Exch) (p : Nat) : Nat := fieldAt e.dlist (16 * p + 4) 2
def Exch.recSlot (e : Exch) (p : Nat) : Nat := fieldAt e.dlist (16 * p + 6) 2
def Exch.weight (e : Exch) (p : Nat) : FNum := fp32.decode (fieldAt e.dlist (16 * p + 8) 4)
def Exch.flags (e : Exch) (p : Nat) : Nat := fieldAt e.dlist (16 * p + 15) 1
/-- The row of a token. -/
def Exch.row (e : Exch) (p : Nat) : Nat := (e.token p + 2 ^ 32 - e.fld 24 4) % 2 ^ 32
/-- The device belay a slot's chunks or answers are counted in. -/
def Exch.belay (e : Exch) (off slot : Nat) : Nat := e.fld off 2 + (slot - e.own * e.spd)
/-- The stream a run belongs to, by its receiver. -/
def Exch.streamOf (e : Exch) (r : XRun) : Nat := r.rank * e.d + r.slot / e.spd
/-- Stream `k` is cut, with this engine as receiver or as origin. -/
def Exch.cutIn (e : Exch) (k : Nat) : Bool := e.cut.contains (2 * k)
def Exch.cutOut (e : Exch) (k : Nat) : Bool := e.cut.contains (2 * k + 1)
/-- The positions of a stream's records. -/
def Exch.streamRecs (e : Exch) (k : Nat) : List Nat :=
  (e.runs.filter (fun r => decide (e.streamOf r = k))).flatMap (fun r => (List.range r.count).map (fun i => r.first + i))
/-- Records with an outcome. -/
def Exch.resolved (e : Exch) : Nat := e.outcome.length
/-- Records with one outcome. -/
def Exch.countOf (e : Exch) (v : Nat) : Nat := (e.outcome.filter (fun x => decide (x.2 = v))).length

/-- `n` device belays from `b` lie in the rope's BELAY_RANGE (R260). -/
def inBelayRange (r b n : Nat) (s : State) : Bool :=
  decide ((ropeOf r s).belayFirst ≤ b ∧ b + n ≤ (ropeOf r s).belayFirst + (ropeOf r s).belayCount)

/-- The belays of the descriptor lie in the rope's BELAY_RANGE (R260). -/
def Exch.belaysOk (e : Exch) (s : State) : Bool :=
  inBelayRange e.rope (e.fld 84 2) 1 s && inBelayRange e.rope (e.fld 86 2) e.spd s && inBelayRange e.rope (e.fld 88 2) e.spd s

/-- The descriptor is within R67's ranges, as far as it shows by itself. -/
def Exch.descOk (e : Exch) (rep : Bool) : Bool :=
  let t := e.fld 0 4
  let fmt := e.fld 43 1
  let aligned := [4, 10, 16, 32, 78, 90] ++ (if rep then [44, 50, 56] else [])
  decide (t / 2 ^ 28 = e.rope) && decide (t % 16 = 0) && aligned.all (fun o => decide (e.fld o 6 % 64 = 0)) &&
  decide (e.fld 28 2 ≤ e.fld 22 2) && decide (1 ≤ e.fld 28 2 ∧ e.fld 28 2 ≤ 4096) && decide (fmt ≤ 2) &&
  decide (32 ≤ e.elems ∧ e.elems ≤ 16384) && decide (e.elems % (if fmt = 2 then 512 else 32) = 0) &&
  decide (e.elems * 4 ≤ e.fld 38 2 * 64) && decide (1 ≤ e.k ∧ e.k ≤ 32) && decide (e.tokens * e.k ≤ 262144) &&
  decide (1 ≤ e.slotBins ∧ e.slotBins ≤ 16384) && decide (1 ≤ e.rankBins ∧ e.rankBins ≤ 32768) &&
  decide (1 ≤ e.d ∧ e.d ≤ 8) && decide (e.own < e.d) && decide (e.fld 67 1 < 64 ∨ e.fld 67 1 = 0xFF) &&
  (List.range 8).all (fun i => decide (e.fld (70 + i) 1 < 64 ∨ e.fld (70 + i) 1 = 0xFF)) &&
  decide (e.fld 84 2 < 4096) && decide (e.fld 86 2 + e.spd ≤ 4096) && decide (e.fld 88 2 + e.spd ≤ 4096) &&
  (e.desc.drop 96).all (fun b => decide (b = 0)) &&
  (! rep || decide (e.fld 44 6 ≠ 0 ∧ e.fld 50 6 ≠ 0 ∧ e.fld 56 6 ≠ 0))

/-- The listed pools that exist and belong to the rope, in the order of the list (R65, R67); `off` is 70 or 74. -/
def Exch.pools (e : Exch) (off : Nat) (s : State) : List Nat :=
  ((List.range 4).map (fun i => e.fld (off + i) 1)).filter (fun p =>
    decide (p < 64) && poolEnabled p s && decide (poolRope p s = e.rope))

/-- The areas the exchange goes to lie within the engine's reach (R254): the token rows, receive summary and completion record,
and in reproducible mode the answers of `n` records, the token map and the expert map. -/
def Exch.inReach (e : Exch) (w : Who) (n : Nat) (rep : Bool) (s : State) : Bool :=
  mapped w (e.fld 16 6) 16 false s && mapped w (e.fld 78 6) (32 * e.spd) true s && mapped w (e.fld 90 6) 32 true s &&
  (! rep || (mapped w (e.fld 44 6) (n * e.ansB) true s && mapped w (e.fld 50 6) (4 * e.tokens * e.k) false s &&
    mapped w (e.fld 56 6) (2 * e.rankBins * e.slotBins) false s))

/-! The ledger (R93). -/

/-- Resolve records that have no outcome yet: `v` 1 combined, 2 declined, 3 cancelled. -/
def resolve (die : Nat) (t : BitVec 32) (v : Nat) (ps : List Nat) (s : State) : State :=
  match activeExch die t s with
  | none => s
  | some e =>
    let new := ps.filter (fun p => decide (tget 0 e.outcome p = 0))
    let o := new.foldl (fun o p => tset 0 o p v) e.outcome
    let n := o.length - e.outcome.length
    let f := match v with
      | 1 => F.XE_LEDGER_COMBINED_COMBINED
      | 2 => F.XE_LEDGER_DECLINED_DECLINED
      | _ => F.XE_LEDGER_CANCELLED_CANCELLED
    addF f [die, e.rope] n (subF F.XE_LEDGER_INFLIGHT_INFLIGHT [die, e.rope] n
      (modExch die t (fun e => { e with outcome := o }) s))

/-! Chunks (R81). -/

/-- Chunks of a slot. -/
def SlotRx.chunks (x : SlotRx) : Nat := (x.admitted + 127) / 128

/-- Leading chunks of a slot whose rows have all landed or are voided. -/
def Exch.chunksDone (e : Exch) (x : SlotRx) : Nat :=
  let open_ := ((x.adm.zip x.off).zipIdx).filter (fun a =>
    decide (0 < a.1.1) && ! x.landed.contains a.2 && ! e.cutIn a.2)
  match open_ with
  | [] => x.chunks
  | a :: t => (t.foldl (fun m b => min m b.1.2) a.1.2) / 128

/-- Bring the chunk belays of granted slots up to date; none is set below its value. -/
def noteChunks (die : Nat) (t : BitVec 32) (s : State) : State :=
  match activeExch die t s with
  | none => s
  | some e =>
    if ! e.granted then s
    else forList e.slots s (fun x s =>
      let b := e.belay 86 x.1
      let v := e.chunksDone x.2
      if (devBelay b s).toNat < v then signalBy (520 + die) true b true (BitVec.ofNat 64 v) s else s)

/-! Buffers (R84). -/

/-- The return messages a slot owes: chunk and origin, voided origins left out (R83, R91). -/
def Exch.owed (e : Exch) (x : SlotRx) : List (Nat × Nat) :=
  ((x.adm.zip x.off).zipIdx).flatMap (fun a =>
    if a.1.1 = 0 ∨ e.cutIn a.2 then []
    else (List.range ((a.1.2 + a.1.1 - 1) / 128 + 1 - a.1.2 / 128)).map (fun i => (a.1.2 / 128 + i, a.2)))

/-- Change a slot of an exchange. -/
def modSlot (die : Nat) (t : BitVec 32) (slot : Nat) (f : SlotRx → SlotRx) (s : State) : State :=
  modExch die t (fun e => { e with slots := tmod {} e.slots slot f }) s

/-- Free a buffer of this engine. -/
def giveBack (die : Nat) (h : BitVec 32) (s : State) : Except Stop State :=
  match bpmRelease (.xe die) h (520 + die) s with
  | .error e => .error e
  | .ok r => .ok r.2

/-- Free the buffers a slot no longer needs (R84). -/
def freeSlot (die : Nat) (t : BitVec 32) (slot : Nat) (s : State) : Except Stop State :=
  match activeExch die t s with
  | none => .ok s
  | some e =>
    let x := tget ({} : SlotRx) e.slots slot
    if (devBelay (e.belay 88 slot) s).toNat < x.chunks then .ok s
    else
      match (match x.rx with
        | none => Except.ok s
        | some h => giveBack die h (modSlot die t slot (fun x => { x with rx := none }) s)) with
      | .error e => .error e
      | .ok s =>
        match x.ans with
        | none => .ok s
        | some h =>
          if (e.owed x).all (fun c => x.sent.contains c) && decide (x.acked = x.sent.length) then
            giveBack die h (modSlot die t slot (fun x => { x with ans := none }) s)
          else .ok s

/-- Free what every slot of an exchange no longer needs. -/
def freeSlots (die : Nat) (t : BitVec 32) (s : State) : Except Stop State :=
  match activeExch die t s with
  | none => .ok s
  | some e => foldE e.slots s (fun x s => freeSlot die t x.1 s)

/-- A slot of an active exchange holds a buffer that its answer belay has freed (R84). -/
def Exch.due (e : Exch) (s : State) : Bool :=
  e.finished.isNone && e.slots.any (fun x => decide (x.2.chunks ≤ (devBelay (e.belay 88 x.1) s).toNat) &&
    (x.2.rx.isSome || (x.2.ans.isSome && (e.owed x.2).all (fun c => x.2.sent.contains c) && decide (x.2.acked = x.2.sent.length))))

/-- After a signal: the buffers that the answer belays have freed go back (R84). -/
def settleSlots (s : State) : State :=
  forList s.xes s (fun x s => forList (x.2.active.filter (fun e => e.due s)) s (fun e s =>
    runAccess (e.who x.1) (freeSlots x.1 e.tag s) (fun _ _ s => s) s))

/-! The combine (R85 to R88). -/

/-- The elements of an answer row, each with its poison (R65, R85). -/
def Exch.elemsOf (e : Exch) (ws : Words) : List (FNum × Bool) :=
  let bs := wordBytes ws
  let bad := fun (i : Nat) => (ws.getD (i / 16) ([], true)).2
  (List.range e.elems).map (fun i =>
    match e.fld 43 1 with
    | 0 => (fp32.decode (fieldAt bs (4 * i) 4), bad (4 * i))
    | 1 => (bf16.decode (fieldAt bs (2 * i) 2), bad (2 * i))
    | _ => ((clampF32 (blockDecode 0x08 (fieldAt bs i 1) (fieldAt bs (e.elems + i / 32) 1))).1,
            bad i || bad (e.elems + i / 32)))

/-- Four elements of an OUT row with a contribution added: o + w × a, one rounding each; poison where the word or an answer
element is poisoned (R85, R88). -/
def addWord (w : FNum) (old : List Byte × Bool) (as : List (FNum × Bool)) : List Byte × Bool :=
  ((as.zipIdx).flatMap (fun a =>
    natLe 4 (fp32.round rne (numFma (fp32.decode (fieldAt old.1 (4 * a.2) 4)) w a.1.1).1).1),
   old.2 || as.any (fun a => a.2))

/-- The OUT row with a contribution added. -/
def addRow (w : FNum) : Words → List (FNum × Bool) → Words
  | [], _ => []
  | o :: t, as => addWord w o (as.take 4) :: addRow w t (as.drop 4)

/-- A record whose answer carries poisoned words is counted (R88). -/
def notePoison (die : Nat) (t : BitVec 32) (ws : Words) (s : State) : State :=
  if ws.any (fun x => x.2) then
    addF F.XE_POISON_ROWS_COUNT [die] 1 (modExch die t (fun e => { e with poisoned := true }) s)
  else s

/-- Apply the answer of a record to its token row; the record is combined (R85, R88). -/
def combineRec (die : Nat) (t : BitVec 32) (p : Nat) (ws : Words) (s : State) : Except Stop State :=
  match activeExch die t s with
  | none => .ok s
  | some e =>
    if tget 0 e.outcome p ≠ 0 then .ok s
    else if e.flags p % 4 ≠ 0 then .ok (notePoison die t ws (resolve die t 1 [p] s))
    else
      let w := e.who die
      let a := e.fld 32 6 + e.row p * (e.fld 38 2 * 64)
      match gatherWords w (e.elems / 4) a s with
      | .error x => .error x
      | .ok old =>
        match putWords w a (addRow (e.weight p) old (e.elemsOf ws)) s with
        | .error x => .error x
        | .ok s => .ok (notePoison die t ws (resolve die t 1 [p] s))

/-- Read a token map row: the positions of the token's records (R57); what cannot be read lists none. -/
def tokenRecs (die : Nat) (e : Exch) (row : Nat) (s : State) : Except Stop (Option (List Nat)) :=
  match tryRd (e.who die) (e.fld 50 6 + 4 * e.k * row) (4 * e.k) s with
  | .error x => .error x
  | .ok (bs, bad) =>
    if bad then .ok none
    else .ok (some (((List.range e.k).map (fun j => fieldAt bs (4 * j) 4)).filter (fun p => decide (p < e.nrec))))

/-- The expert index of a record (R65, R87); what cannot be read is 0xFFFF. -/
def expertOf (die : Nat) (e : Exch) (p : Nat) (s : State) : Except Stop Nat :=
  match tryRd (e.who die) (e.fld 56 6 + 2 * (e.recRank p * e.slotBins + e.recSlot p)) 2 s with
  | .error x => .error x
  | .ok (bs, bad) => .ok (if bad then 0xFFFF else leNat bs)

/-- Pair positions with their expert indexes. -/
def withExperts (die : Nat) (e : Exch) (s : State) : List Nat → Except Stop (List (Nat × Nat))
  | [] => .ok []
  | p :: t =>
    match expertOf die e p s with
    | .error x => .error x
    | .ok v =>
      match withExperts die e s t with
      | .error x => .error x
      | .ok l => .ok ((v, p) :: l)

/-- Compute a token row once every record of the token is answered, declined or cancelled (R87). -/
def resolveToken (die : Nat) (t : BitVec 32) (row : Nat) (s : State) : Except Stop State :=
  match activeExch die t s with
  | none => .ok s
  | some e =>
    if e.tokensDone.contains row then .ok s
    else
      match tokenRecs die e row s with
      | .error x => .error x
      | .ok none => .ok s
      | .ok (some ps) =>
        if ! ps.all (fun p => decide (tget 0 e.outcome p ≠ 0) || decide (tget 0 e.answered p ≠ 0)) then .ok s
        else
          match withExperts die e s (ps.filter (fun p => decide (tget 0 e.outcome p = 0))) with
          | .error x => .error x
          | .ok l =>
            let order := sortBy (fun a b => decide (a.1 < b.1) || (decide (a.1 = b.1) && decide (a.2 < b.2))) l
            let s := modExch die t (fun e => { e with tokensDone := insertNat row e.tokensDone }) s
            foldE order s (fun x s =>
              match gatherWords (e.who die) (e.ansB / 16) (e.fld 44 6 + x.2 * e.ansB) s with
              | .error err => .error err
              | .ok ws => combineRec die t x.2 ws s)

/-- In reproducible mode, compute the token rows whose records are all answered, declined or cancelled (R87). -/
def resolveTokens (die : Nat) (t : BitVec 32) (rows : List Nat) (s : State) : Except Stop State :=
  match activeExch die t s with
  | none => .ok s
  | some e => if repro e.rope s then foldE rows s (fun r s => resolveToken die t r s) else .ok s

/-! Streams cut by a cancel or a loss (R91). -/

/-- Messages of this engine are sent no further: those not started go, and of those started the packets it still holds (R90, step
1; R91). What is outstanding of them ends with its acknowledgement or its timeout (log 69). -/
def stopMessages (die : Nat) (p : MsgUnit → Bool) (s : State) : State :=
  let n := (s.msgs.waiting.filter (fun m => p m.unit)).length
  let ids := (s.msgs.outst.filter (fun m => p m.unit)).map (fun m => (m.dest, msgId m.try_ m.cred m.gen m.slot))
  let s := dropInjected (16 + die) false (fun x => ids.contains (x.dest, x.msgid)) s
  subF F.XE_STATUS_MSGS [die] n (modMsgs (fun m => { m with waiting := m.waiting.filter (fun x => ! p x.unit) }) s)

/-- This engine as origin counts the unresolved records of a stream as cancelled and sends nothing more on it (R91). -/
def cutOrigin (die : Nat) (t : BitVec 32) (k : Nat) (s : State) : Except Stop State :=
  match activeExch die t s with
  | none => .ok s
  | some e =>
    if e.cutOut k then .ok s
    else
      let mine := fun (u : MsgUnit) => match u with
        | .xeBulk d x run => decide (d = die) && sameTag x t && decide ((e.runs[run]?.map e.streamOf) = some k)
        | _ => false
      let s := stopMessages die mine (modExch die t (fun e => { e with cut := e.cut ++ [2 * k + 1] }) s)
      resolveTokens die t ((e.streamRecs k).map e.row) (resolve die t 3 (e.streamRecs k) s)

/-- This engine as receiver voids the rows of a stream that have not landed and answers none of its rows (R91). -/
def cutReceiver (die : Nat) (t : BitVec 32) (k : Nat) (s : State) : State :=
  let mine := fun (u : MsgUnit) => match u with
    | .xeReturn d x _ _ o => decide (d = die) && sameTag x t && decide (o = k)
    | _ => false
  let s := if (activeExch die t s).isSome then stopMessages die mine s else s
  noteChunks die t (modExch die t (fun e => if e.cutIn k then e else { e with cut := e.cut ++ [2 * k] }) s)

/-- A rank is lost: each of its streams is cut, and the first lost rank is named. -/
def memberLost (die : Nat) (t : BitVec 32) (rank : Nat) (s : State) : Except Stop State :=
  match activeExch die t s with
  | none => .ok s
  | some e =>
    let s := modExch die t (fun e => { e with lost := some (e.lost.getD rank) }) s
    foldE (List.range e.d) s (fun j s => cutOrigin die t (rank * e.d + j) (cutReceiver die t (rank * e.d + j) s))

/-! Cells. -/

/-- Send a cell of an exchange to the device of stream `k`; a rank without an address is lost (R141, R171). -/
def sendXCell (die : Nat) (t : BitVec 32) (kind k : Nat) (payload : List Byte) (s : State) : Except Stop State :=
  match activeExch die t s with
  | none => .ok s
  | some e =>
    match sendCellRank (.xeCell die e.tag k) e.rope (k / e.d) kind e.tag payload (16 + die) s with
    | (true, s) => .ok (modExch die t (fun e => { e with cells := e.cells + 1 }) s)
    | (false, s) => memberLost die t (k / e.d) s

/-- Cut a list into pieces of `m`, at least one (`fuel` at most). -/
def piecesOf {α : Type} (m : Nat) : Nat → List α → List (List α)
  | 0, _ => []
  | n + 1, l => if l.length ≤ m then [l] else l.take m :: piecesOf m n (l.drop m)

/-- The payloads of the count or grant cells of a stream (R69): `size` bytes an entry, `m` entries a cell. -/
def cellPayloads (m : Nat) (odie rdie : Nat) (entries : List (List Byte)) : List (List Byte) :=
  let cs := piecesOf m (entries.length + 1) entries
  (cs.zipIdx).map (fun c =>
    let last := decide (c.2 + 1 = cs.length)
    (natLe 1 odie ++ natLe 1 rdie ++ natLe 2 c.2 ++ natLe 1 c.1.length ++ natLe 1 (if last then 1 else 0) ++
      natLe 2 (if last then cs.length else 0) ++ c.1.flatten ++ zeros 40).take 48)

/-! Retirement (R89, R90). -/

/-- A cell or waiting message of a tag of this engine. -/
def ofTag (die : Nat) (t : BitVec 32) : MsgUnit → Bool
  | .xeBulk d x _ => decide (d = die) && sameTag x t
  | .xeReturn d x _ _ _ => decide (d = die) && sameTag x t
  | .xeCell d x _ => decide (d = die) && sameTag x t
  | _ => false

/-- Put a tag among the 16 last retired of its rope; its XCOUNT cells are sent no more (R71, R89, R169). -/
def retireTag (die : Nat) (t : BitVec 32) (s : State) : State :=
  let s := modXe die (fun x => { x with
    retired := tmod [] x.retired (tagRope t) (fun l => (t :: l.filter (fun y => ! sameTag y t)).take 16) }) s
  let keep := fun (c : OutCell) => ! (ofTag die t c.unit && decide (c.kind = 1))
  modMsgs (fun m => { m with cells := m.cells.filter keep, cellWait := m.cellWait.filter keep }) s

/-- Free every buffer a tag holds on this engine (R90). -/
def freeAll (die : Nat) (t : BitVec 32) (s : State) : Except Stop State :=
  match activeExch die t s with
  | none => .ok s
  | some e =>
    let hs := e.slots.flatMap (fun x => x.2.rx.toList ++ x.2.ans.toList)
    let s := modExch die t (fun e => { e with
      slots := e.slots.map (fun (x : Nat × SlotRx) => (x.1, { x.2 with rx := none, ans := none })) }) s
    foldE hs s (giveBack die)

/-- The XCANCEL cells of every stream a tag opened, as origin and as receiver (R69, R90). -/
def sendCancels (die : Nat) (e : Exch) (s : State) : State :=
  let send := fun (b0 k : Nat) (s : State) =>
    (sendCellRank (.xeCell die e.tag k) e.rope (k / e.d) 3 e.tag (natLe 1 b0 ++ natLe 1 (k % e.d) ++ zeros 46) (16 + die) s).2
  let s := forN e.n s (fun k s => send (e.own + 0x80) k s)
  forN e.n s (fun k s => send e.own k s)

/-- Cut an exchange short with a status (R90, R92): its records without outcome are cancelled, its buffers freed, its tag
retired; XCANCEL cells go out unless a reset does it. -/
def cancelExch (die : Nat) (t : BitVec 32) (status : Nat) (cells : Bool) (s : State) : Except Stop State :=
  match activeExch die t s with
  | none => .ok s
  | some e =>
    let s := stopMessages die (ofTag die t) s
    let s := if cells then sendCancels die e s else s
    let s := resolve die t 3 (List.range e.nrec) s
    match freeAll die t s with
    | .error x => .error x
    | .ok s =>
      let s := retireTag die e.tag (modExch die t (fun e => { e with finished := some status }) s)
      .ok (noteXe die (if cells then countR .XE_CANCELS [die] s else s))

/-- Every active tag of a rope is retired without XCANCEL at its reset (R402, "compute reset during an exchange"); a buffer
whose owner byte cannot be reached now stays with the pool until its reclaim. -/
def resetExchanges (r : Nat) (s : State) : State :=
  forN 8 s (fun die s =>
    let tags := ((xeOf die s).active.filter (fun e => e.finished.isNone && decide (e.rope = r))).map (fun e => e.tag)
    let s := forList tags s (fun t s =>
      match cancelExch die t St.cancelled false s with
      | .ok s => s
      | .error _ =>
        match cancelExch die t St.cancelled false (modExch die t (fun e => { e with
            slots := e.slots.map (fun (x : Nat × SlotRx) => (x.1, { x.2 with rx := none, ans := none })) }) s) with
        | .ok s => s
        | .error _ => s)
    noteXe die (modXe die (fun x => { x with active := x.active.filter (fun e => decide (e.rope ≠ r)) }) s))

/-- Every dispatch record in flight is cancelled: the die loses its exchanges while the ledgers stay (R93, R94, R474). -/
def cancelRecords (s : State) : State :=
  forN 8 s (fun die s =>
    forList ((xeOf die s).active.filter (fun e => e.finished.isNone)) s (fun e s => resolve die e.tag 3 (List.range e.nrec) s))

/-! The capacity rule (R72). -/

/-- Rows taken at water level `q`. -/
def fillAt (c : List Nat) (q : Nat) : Nat := (c.map (fun x => min x q)).sum

/-- The largest level between `lo` and `hi` whose fill is at most the cap (`fuel` halvings). -/
def waterLevel (c : List Nat) (cap : Nat) : Nat → Nat → Nat → Nat
  | 0, lo, _ => lo
  | n + 1, lo, hi =>
    if hi ≤ lo then lo
    else
      let mid := hi - (hi - lo) / 2
      if fillAt c mid ≤ cap then waterLevel c cap n mid hi else waterLevel c cap n lo (mid - 1)

/-- One more row each, in rotation from the epoch, while rows remain. -/
def rotateRest (c : List Nat) (cap epoch : Nat) : Nat → Nat → List Nat → List Nat
  | 0, _, a => a
  | n + 1, i, a =>
    if cap ≤ a.sum then a
    else
      let o := (epoch + i) % c.length
      rotateRest c cap epoch n (i + 1) (if a.getD o 0 < c.getD o 0 then setAt a o (a.getD o 0 + 1) else a)

/-- Rows admitted from each origin (R72). -/
def admitRows (c : List Nat) (cap epoch : Nat) : List Nat :=
  if c.sum ≤ cap then c
  else
    let lo := waterLevel c cap (cap + 1) 0 cap
    rotateRest c cap epoch c.length 0 (c.map (fun x => min x lo))

/-- First receive offset of each origin: the sums of the rows before it. -/
def offsetsOf : Nat → List Nat → List Nat
  | _, [] => []
  | n, a :: t => n :: offsetsOf (n + a) t

end Sys2Proof.Machine
end

