-- ==== Sys2Proof/Machine/Sequencer.lean ====
section
/-! DEFINITION. The scalar sequencer (R248 to R251, R275 to R291): fetch and decode, precise exceptions, and the instructions it
executes itself. A command names a core; it runs when the word at that core's PC is its instruction. -/

namespace Sys2Proof.Machine

open Sys2Proof

/-- The sequencer of core `c` of rope `r` as a unit. -/
def seqWho (r c : Nat) : Who := { reach := .all, rope := r, core := c, id := c }

/-- The sequencer as the unit of the instruction at its PC (R263). -/
def storeWho (r c : Nat) (s : State) : Who :=
  { seqWho r c with tag := mkTag (ropeCoreIdx r c s) (coreOf c s).issue.toNat, pc := (coreOf c s).pc }

/-- The word at a rope address, from the instruction cache or from memory (R249). -/
def fetchWord (r c a : Nat) (s : State) : Except Stop (BitVec 32 × State) :=
  match (coreOf c s).icache.find? (fun e => decide (e.1 = a)) with
  | some e => .ok (e.2, s)
  | none =>
    match rdGood (seqWho r c) a 4 s with
    | .error e => .error e
    | .ok bs =>
      let w := BitVec.ofNat 32 (leNat bs)
      .ok (w, modCore c (fun k => { k with icache := tset (w + 1) k.icache a w }) s)

/-- An instruction at the PC: its predicate register, its bytes and what it is; none inside for a reserved encoding. -/
structure Fetched where
  pred : Nat
  len : Nat
  op : Option SeqOp
  deriving DecidableEq, Repr

/-- Fetch and decode the instruction at a core's PC (R275 to R277). -/
def fetchInstr (r c : Nat) (s : State) : Except Stop (Fetched × State) :=
  let pc := (coreOf c s).pc.toNat
  if pc % 4 ≠ 0 then .error (.fault St.notPermitted pc)
  else
    match fetchWord r c pc s with
    | .error e => .error e
    | .ok (w0, s) =>
      if w0.getLsbD 31 then
        match fetchWord r c (pc + 4) s with
        | .error e => .error e
        | .ok (w1, s) => .ok (⟨wf32 w0 2 0, 8, decode64 w0 w1⟩, s)
      else .ok (⟨wf32 w0 2 0, 4, decode32 w0⟩, s)

/-- How an instruction that does not fault ends: it retires with the next PC, it stalls on a full queue, or it waits for
conditions (R257, R290, R297). -/
inductive SeqOut where
  | go (t : State) (pc : BitVec 48)
  | stall
  | await (cs : List Cond)

/-- What an instruction does, from the rope, the following PC and the state. -/
abbrev SeqFx := Nat → BitVec 48 → State → Except Stop SeqOut

/-- Retire: the next PC, and the issue number counts on (R248, R249). -/
def retire (c : Nat) (pc : BitVec 48) (s : State) : State :=
  modCore c (fun k => { k with pc := pc, issue := k.issue + 1, waiting := [] }) s

/-- A sequencer command of core `c`: it fetches, decodes and, when the instruction is the one `sel` takes, runs it. A fetch
fault or a reserved encoding takes its precise exception under any of these commands (R264, R304); an instruction whose
predicate is false only takes its issue number (R249). -/
def seqStep (c : Nat) (sel : SeqOp → Option SeqFx) (s : State) : State :=
  match ropeOfCore c s with
  | none => s
  | some r =>
    if ropeState r s ≠ RopeSt.running ∨ (coreOf c s).running = false then s
    else
      match fetchInstr r c s with
      | .error (.need l h o) => askLender (seqWho r c) l h o s
      | .error (.fault st a) => preciseException r c st a (endAccess c st s)
      | .ok (f, s') =>
        match f.op with
        | none => preciseException r c St.notPermitted 0 s'
        | some op =>
          match sel op with
          | none => s
          | some fx =>
            let next := (coreOf c s').pc + BitVec.ofNat 48 f.len
            if (coreOf c s').getP f.pred = false then dropReads c (retire c next s')
            else
              match fx r next s' with
              | .error (.need l h o) => askLender (seqWho r c) l h o s'
              | .error (.fault st a) => preciseException r c st a (endAccess c st s')
              | .ok .stall => s'
              | .ok (.await cs) => modCore c (fun k => { k with waiting := cs }) s'
              | .ok (.go t pc) => dropReads c (retire c pc t)

/-- An instruction that only changes its core's registers. -/
def fxCore (c : Nat) (f : Core → Core) : SeqFx := fun _ pc s => .ok (.go (modCore c f s) pc)

/-- An instruction that computes g[d] from the registers. -/
def fxG (c d : Nat) (f : Core → Word) : SeqFx := fxCore c (fun k => k.setG d (f k))

/-- Run a sequencer command of a core of the device. -/
def seqRun (c : Nat) (sel : SeqOp → Option SeqFx) (s : State) : Host.Outcome State Fault Refusal :=
  runIf (decide (c < 512)) (seqStep c sel) s

/-- The integer functions of ALU (R282, R283). -/
def aluFn (fn : Nat) (a b : Word) : Word :=
  match fn with
  | 0x00 => a + b
  | 0x01 => a - b
  | 0x02 => a * b
  | 0x03 => BitVec.ofNat 64 (a.toNat * b.toNat / 2 ^ 64)
  | 0x04 => BitVec.ofInt 64 (a.toInt * b.toInt / 2 ^ 64)
  | 0x05 => if b = 0 then wordMax else a / b
  | 0x06 => if b = 0 then wordMax else a.sdiv b
  | 0x07 => if b = 0 then a else a % b
  | 0x08 => if b = 0 then a else a.srem b
  | 0x09 => a &&& b
  | 0x0A => a ||| b
  | 0x0B => a ^^^ b
  | 0x0C => a <<< (b.toNat % 64)
  | 0x0D => a >>> (b.toNat % 64)
  | 0x0E => a.sshiftRight (b.toNat % 64)
  | 0x0F => if a.slt b then a else b
  | 0x10 => if a.slt b then b else a
  | 0x11 => if a.ult b then a else b
  | _ => if a.ult b then b else a

/-- The conditions of CMP (R284). -/
def cmpFn (cc : Nat) (a b : Word) : Bool :=
  match cc with
  | 0 => decide (a = b)
  | 1 => decide (a ≠ b)
  | 2 => a.ult b
  | 3 => ! a.ult b
  | 4 => a.slt b
  | _ => ! a.slt b

/-- The functions of PLOG (R284). -/
def plogFn (fn : Nat) (a b : Bool) : Bool :=
  match fn with
  | 0 => a && b
  | 1 => a || b
  | 2 => xor a b
  | 3 => a && ! b
  | _ => ! a

/-- NOP (R281). -/
def execNop (core : Nat) (s : State) : Host.Outcome State Fault Refusal :=
  seqRun core (fun op => match op with | .nop => some (fxCore core id) | _ => none) s

/-- ALU (R282, R283). -/
def execAlu (core : Nat) (s : State) : Host.Outcome State Fault Refusal :=
  seqRun core (fun op => match op with
    | .alu fn d a b => some (fxG core d (fun k => aluFn fn (k.getG a) (k.getG b)))
    | _ => none) s

/-- ADDI (R281). -/
def execAddi (core : Nat) (s : State) : Host.Outcome State Fault Refusal :=
  seqRun core (fun op => match op with | .addi d a imm => some (fxG core d (fun k => k.getG a + imm)) | _ => none) s

/-- ANDI (R281). -/
def execAndi (core : Nat) (s : State) : Host.Outcome State Fault Refusal :=
  seqRun core (fun op => match op with | .andi d a imm => some (fxG core d (fun k => k.getG a &&& imm)) | _ => none) s

/-- ORI (R281). -/
def execOri (core : Nat) (s : State) : Host.Outcome State Fault Refusal :=
  seqRun core (fun op => match op with | .ori d a imm => some (fxG core d (fun k => k.getG a ||| imm)) | _ => none) s

/-- XORI (R281). -/
def execXori (core : Nat) (s : State) : Host.Outcome State Fault Refusal :=
  seqRun core (fun op => match op with | .xori d a imm => some (fxG core d (fun k => k.getG a ^^^ imm)) | _ => none) s

/-- SHLI (R280, R281). -/
def execShli (core : Nat) (s : State) : Host.Outcome State Fault Refusal :=
  seqRun core (fun op => match op with | .shli d a n => some (fxG core d (fun k => k.getG a <<< n)) | _ => none) s

/-- SHRLI (R280, R281). -/
def execShrli (core : Nat) (s : State) : Host.Outcome State Fault Refusal :=
  seqRun core (fun op => match op with | .shrli d a n => some (fxG core d (fun k => k.getG a >>> n)) | _ => none) s

/-- SHRAI (R280, R281). -/
def execShrai (core : Nat) (s : State) : Host.Outcome State Fault Refusal :=
  seqRun core (fun op => match op with
    | .shrai d a n => some (fxG core d (fun k => (k.getG a).sshiftRight n))
    | _ => none) s

/-- MULI (R281). -/
def execMuli (core : Nat) (s : State) : Host.Outcome State Fault Refusal :=
  seqRun core (fun op => match op with | .muli d a imm => some (fxG core d (fun k => k.getG a * imm)) | _ => none) s

/-- INS16 (R281). -/
def execIns16 (core : Nat) (s : State) : Host.Outcome State Fault Refusal :=
  seqRun core (fun op => match op with
    | .ins16 h d imm => some (fxG core d (fun k => withBits (16 * h + 15) (16 * h) imm (k.getG d)))
    | _ => none) s

/-- LI (R281). -/
def execLi (core : Nat) (s : State) : Host.Outcome State Fault Refusal :=
  seqRun core (fun op => match op with | .li d imm => some (fxG core d (fun _ => imm)) | _ => none) s

/-- CMP (R284). -/
def execCmp (core : Nat) (s : State) : Host.Outcome State Fault Refusal :=
  seqRun core (fun op => match op with
    | .cmp cc pd a b => some (fxCore core (fun k => k.setP pd (cmpFn cc (k.getG a) (k.getG b))))
    | _ => none) s

/-- PLOG (R284). -/
def execPlog (core : Nat) (s : State) : Host.Outcome State Fault Refusal :=
  seqRun core (fun op => match op with
    | .plog fn pd pa pb => some (fxCore core (fun k => k.setP pd (plogFn fn (k.getP pa) (k.getP pb))))
    | _ => none) s

/-- The address of a load or store: g[a] + imm × size (R281). -/
def memAddr (c a size : Nat) (imm : Word) (s : State) : Nat := ((coreOf c s).getG a + imm * BitVec.ofNat 64 size).toNat

/-- A load of `n` bytes, aligned to its size, that must be good data (R256, R264, R285). -/
def seqLoad (r c a n : Nat) (s : State) : Except Stop (List Byte) :=
  if a % n ≠ 0 then .error (.fault St.notPermitted a) else rdGood (seqWho r c) a n s

/-- A store, aligned to its size (R256, R285); one to a page whose lender is lost stops the rope, imprecisely (R369). -/
def seqStore (r c a : Nat) (bs : List Byte) (s : State) : Except Stop State :=
  if a % bs.length ≠ 0 then .error (.fault St.notPermitted a)
  else
    match wr (storeWho r c s) a bs s with
    | .error (.fault st x) => if st = St.lenderLost then .ok (lostWrite (storeWho r c s) a s) else .error (.fault st x)
    | r => r

/-- A loaded value, extended to 64 bits (R281). -/
def extendLoad (size : Nat) (signed : Bool) (v : Nat) : Word :=
  if signed then BitVec.ofInt 64 (if v < 2 ^ (8 * size - 1) then v else (v : Int) - 2 ^ (8 * size)) else BitVec.ofNat 64 v

/-- The effect of a load (R281, R285). -/
def fxLoad (c size : Nat) (signed : Bool) (d a : Nat) (imm : Word) : SeqFx := fun r pc s =>
  match seqLoad r c (memAddr c a size imm s) size s with
  | .error e => .error e
  | .ok bs => .ok (.go (modCore c (fun k => k.setG d (extendLoad size signed (leNat bs))) s) pc)

/-- The effect of a store (R281, R285). -/
def fxStore (c size sr a : Nat) (imm : Word) : SeqFx := fun r pc s =>
  match seqStore r c (memAddr c a size imm s) (natLe size ((coreOf c s).getG sr).toNat) s with
  | .error e => .error e
  | .ok t => .ok (.go t pc)

/-- Select loads of one size and extension. -/
def selLoad (c size : Nat) (signed : Bool) (op : SeqOp) : Option SeqFx :=
  match op with
  | .load n sg d a imm => if n = size ∧ sg = signed then some (fxLoad c size signed d a imm) else none
  | _ => none

/-- Select stores of one size. -/
def selStore (c size : Nat) (op : SeqOp) : Option SeqFx :=
  match op with
  | .store n sr a imm => if n = size then some (fxStore c size sr a imm) else none
  | _ => none

/-- LD8U (R281, R285). -/
def execLd8u (core : Nat) (s : State) : Host.Outcome State Fault Refusal := seqRun core (selLoad core 1 false) s

/-- LD16U (R281, R285). -/
def execLd16u (core : Nat) (s : State) : Host.Outcome State Fault Refusal := seqRun core (selLoad core 2 false) s

/-- LD32U (R281, R285). -/
def execLd32u (core : Nat) (s : State) : Host.Outcome State Fault Refusal := seqRun core (selLoad core 4 false) s

/-- LD64 (R281, R285). -/
def execLd64 (core : Nat) (s : State) : Host.Outcome State Fault Refusal := seqRun core (selLoad core 8 false) s

/-- LD8S (R281, R285). -/
def execLd8s (core : Nat) (s : State) : Host.Outcome State Fault Refusal := seqRun core (selLoad core 1 true) s

/-- LD16S (R281, R285). -/
def execLd16s (core : Nat) (s : State) : Host.Outcome State Fault Refusal := seqRun core (selLoad core 2 true) s

/-- LD32S (R281, R285). -/
def execLd32s (core : Nat) (s : State) : Host.Outcome State Fault Refusal := seqRun core (selLoad core 4 true) s

/-- ST8 (R281, R285). -/
def execSt8 (core : Nat) (s : State) : Host.Outcome State Fault Refusal := seqRun core (selStore core 1) s

/-- ST16 (R281, R285). -/
def execSt16 (core : Nat) (s : State) : Host.Outcome State Fault Refusal := seqRun core (selStore core 2) s

/-- ST32 (R281, R285). -/
def execSt32 (core : Nat) (s : State) : Host.Outcome State Fault Refusal := seqRun core (selStore core 4) s

/-- ST64 (R281, R285). -/
def execSt64 (core : Nat) (s : State) : Host.Outcome State Fault Refusal := seqRun core (selStore core 8) s

/-- BR (R280, R281): from the address of the branch itself. -/
def execBr (core : Nat) (s : State) : Host.Outcome State Fault Refusal :=
  seqRun core (fun op => match op with
    | .br off => some (fun _ pc s => .ok (.go s (pc - 4 + off)))
    | _ => none) s

/-- CALL (R281). -/
def execCall (core : Nat) (s : State) : Host.Outcome State Fault Refusal :=
  seqRun core (fun op => match op with
    | .call off => some (fun _ pc s => .ok (.go (modCore core (fun k => k.setG 31 (pc.setWidth 64)) s) (pc - 4 + off)))
    | _ => none) s

/-- JMPR (R281, R286): the target is read before g[d] is written. -/
def execJmpr (core : Nat) (s : State) : Host.Outcome State Fault Refusal :=
  seqRun core (fun op => match op with
    | .jmpr d a => some (fun _ pc s =>
        let t := (coreOf core s).getG a
        if t.toNat % 4 ≠ 0 then .error (.fault St.notPermitted t.toNat)
        else .ok (.go (modCore core (fun k => k.setG d (pc.setWidth 64)) s) (t.setWidth 48)))
    | _ => none) s

/-- ICINV (R249, R281). -/
def execIcinv (core : Nat) (s : State) : Host.Outcome State Fault Refusal :=
  seqRun core (fun op => match op with | .icinv => some (fxCore core (fun k => { k with icache := [] })) | _ => none) s

/-- The value of a control register for core `c` of rope `r`, and the state after the read; none for a number not listed
(R250). CYCLES counts the clock of the core's cluster (`tick`, log 1). -/
def readControl (r c n : Nat) (s : State) : Option (Word × State) :=
  let k := coreOf c s
  let q := (indexOf (ropeClusters r s) (c / 8)).getD 0
  let rp := ropeOf r s
  match n with
  | 0x00 => some (BitVec.ofNat 64 (ropeCoreIdx r c s), s)
  | 0x01 => some (BitVec.ofNat 64 (q + c / 8 * 256), s)
  | 0x02 => some (BitVec.ofNat 64 ((indexOf (ropeDies r s) (c / 64)).getD 0 + c / 64 * 16 + (ropeDies r s).length * 256), s)
  | 0x03 => some (BitVec.ofNat 64 ((ropeCores r s).length + (ropeClusters r s).length * 65536), s)
  | 0x04 => some (BitVec.ofNat 64 (r + ropeJob r s * 65536), s)
  | 0x05 => some (BitVec.ofNat 64 rp.rank, s)
  | 0x06 => some (rp.seed, s)
  | 0x07 => some (rp.nctrl, s)
  | 0x08 => some (k.nstat, s)
  | 0x09 => some (k.issue.setWidth 64, s)
  | 0x0A => some (BitVec.ofNat 64 (tget 0 rp.cycles q / 1000), s)
  | 0x0B => some (timeNow s, s)
  | 0x0C => some (BitVec.ofNat 64 (rp.belayFirst + rp.belayCount * 65536), s)
  | _ => none

/-- MFC (R250, R288). -/
def execMfc (core : Nat) (s : State) : Host.Outcome State Fault Refusal :=
  seqRun core (fun op => match op with
    | .mfc d n => some (fun r pc s =>
        match readControl r core n s with
        | none => .error (.fault St.notPermitted 0)
        | some (v, t) => .ok (.go (modCore core (fun k => k.setG d v) t) pc))
    | _ => none) s

/-- The bits of the numeric control word that can be written (R246). -/
abbrev nctrlMask : Word := 0x13

/-- MTC (R250, R251, R288): SEED and NCTRL are the rope's, NSTAT clears the bits written 1; every other number faults. -/
def execMtc (core : Nat) (s : State) : Host.Outcome State Fault Refusal :=
  seqRun core (fun op => match op with
    | .mtc n a => some (fun r pc s =>
        let v := (coreOf core s).getG a
        match n with
        | 0x06 => .ok (.go (modRope r (fun k => { k with seed := v }) s) pc)
        | 0x07 => .ok (.go (modRope r (fun k => { k with nctrl := v &&& nctrlMask }) s) pc)
        | 0x08 => .ok (.go (modCore core (fun k => { k with nstat := k.nstat &&& ~~~v }) s) pc)
        | _ => .error (.fault St.notPermitted 0))
    | _ => none) s

/-- WAIT (R261, R290): it goes on once the belay has reached the threshold; until then the sequencer waits in its place. -/
def execWait (core : Nat) (s : State) : Host.Outcome State Fault Refusal :=
  seqRun core (fun op => match op with
    | .wait t des => some (fun r pc s =>
        match belay13 r des s with
        | none => .error (.fault St.notPermitted 0)
        | some (dev, i) =>
          let k : Cond := ⟨dev, i, (coreOf core s).getG t⟩
          if condHolds core k s then .ok (.go s pc) else .ok (.await [k]))
    | _ => none) s

/-- SIGNAL (R262, R290). -/
def execSignal (core : Nat) (s : State) : Host.Outcome State Fault Refusal :=
  seqRun core (fun op => match op with
    | .signal v des set => some (fun r pc s =>
        match belay13 r des s with
        | none => .error (.fault St.notPermitted 0)
        | some b => .ok (.go (settleSlots (signalDes core core (some b) set ((coreOf core s).getG v) s)) pc))
    | _ => none) s

/-- BRD (R290). -/
def execBrd (core : Nat) (s : State) : Host.Outcome State Fault Refusal :=
  seqRun core (fun op => match op with
    | .brd d des => some (fun r pc s =>
        match belay13 r des s with
        | none => .error (.fault St.notPermitted 0)
        | some (dev, i) =>
          .ok (.go (modCore core (fun k => k.setG d (if dev then devBelay i s else coreBelay core i s)) s) pc))
    | _ => none) s

/-- TLD (R281, R285). -/
def execTld (core : Nat) (s : State) : Host.Outcome State Fault Refusal :=
  seqRun core (fun op => match op with
    | .tld d a imm => some (fun r pc s =>
        match seqLoad r core (memAddr core a 16 imm s) 16 s with
        | .error e => .error e
        | .ok bs => .ok (.go (modCore core (fun k => k.setT d (BitVec.ofNat 128 (leNat bs))) s) pc))
    | _ => none) s

/-- TST (R281, R285). -/
def execTst (core : Nat) (s : State) : Host.Outcome State Fault Refusal :=
  seqRun core (fun op => match op with
    | .tst sr a imm => some (fun r pc s =>
        match seqStore r core (memAddr core a 16 imm s) (natLe 16 ((coreOf core s).getT sr).toNat) s with
        | .error e => .error e
        | .ok t => .ok (.go t pc))
    | _ => none) s

/-- TSET (R291). -/
def execTset (core : Nat) (s : State) : Host.Outcome State Fault Refusal :=
  seqRun core (fun op => match op with
    | .tset f d a => some (fxCore core (fun k =>
        k.setT d (withTileBits (tileField f).1 (tileField f).2 (k.getG a).toNat (k.getT d))))
    | _ => none) s

/-- TGET (R291). -/
def execTget (core : Nat) (s : State) : Host.Outcome State Fault Refusal :=
  seqRun core (fun op => match op with
    | .tget f d a => some (fxG core d (fun k => BitVec.ofNat 64 (nbits (tileField f).1 (tileField f).2 (k.getT a).toNat)))
    | _ => none) s

/-- TADD (R281). -/
def execTadd (core : Nat) (s : State) : Host.Outcome State Fault Refusal :=
  seqRun core (fun op => match op with
    | .tadd d a => some (fxCore core (fun k =>
        k.setT d (withTileBits 47 0 (nbits 47 0 (k.getT d).toNat + (k.getG a).toNat) (k.getT d))))
    | _ => none) s

/-! Issue (R257, R258, R296, R297). -/

/-- Every belay an issued instruction names lies in the rope's range (R258, R294). -/
def issueBelaysOk (r : Nat) (w1 : BitVec 32) (s : State) : Bool :=
  (belay7 r (wf32 w1 31 25) s).isSome && (belay7 r (wf32 w1 19 13) s).isSome && (belay7 r (wf32 w1 7 1) s).isSome

/-- A captured operand: a t register, a g register zero-extended, or zero. -/
def capture (k : Core) (kind i : Nat) : BitVec 128 :=
  match kind with
  | 1 => k.getT i
  | 2 => (k.getG i).setWidth 128
  | _ => 0

/-- The queue entry of an issued instruction (R258). -/
def captureEntry (r c : Nat) (w0 w1 : BitVec 32) (s : State) : QEntry :=
  let k := coreOf c s
  let kinds := (opKinds (wf32 w0 30 28) (wf32 w0 27 20)).getD (0, 0, 0)
  { w0 := w0, w1 := w1, tag := mkTag (ropeCoreIdx r c s) k.issue.toNat, pc := k.pc,
    th0 := k.getG (wf32 w1 24 20),
    th1 := if wf32 w1 0 0 = 1 then 0 else k.getG (wf32 w1 12 8),
    sig := if wf32 w1 0 0 = 1 then k.getG (wf32 w1 12 8) else 0,
    nctrl := (ropeOf r s).nctrl, seed := (ropeOf r s).seed,
    opA := capture k kinds.1 (wf32 w0 19 15), opB := capture k kinds.2.1 (wf32 w0 14 10),
    opC := capture k kinds.2.2 (wf32 w0 9 5) }

/-- Rope `r` waits for a boundary its lock-step partner has agreed to (R425). -/
def boundaryAgreed (r : Nat) (s : State) : Bool :=
  match (ropeOf r s).boundary with
  | some b => b.agreed
  | none => false

/-- Place an entry in its queue; none while the queue is full (R257). -/
def enqueueEngine (r c tgt : Nat) (e : QEntry) (s : State) : Option State :=
  let k := coreOf c s
  let d := c / 64
  match tgt with
  | 0 => if k.mxeQ.length < 32 then some (modCore c (fun k => { k with mxeQ := k.mxeQ ++ [e] }) s) else none
  | 1 => if k.vxeQ.length < 32 then some (modCore c (fun k => { k with vxeQ := k.vxeQ ++ [e] }) s) else none
  | 2 => if k.mgeQ.length < 32 then some (modCore c (fun k => { k with mgeQ := k.mgeQ ++ [e] }) s) else none
  | 3 => if k.dmvQ.length < 32 then some (modCore c (fun k => { k with dmvQ := k.dmvQ ++ [e] }) s) else none
  | 4 =>
    let q := tget ({} : Rte) s.rtes d
    if q.queue.length < 32 then
      some (setF F.RTE_STATUS_QUEUED [d] (q.queue.length + 1)
        { s with rtes := tset {} s.rtes d { q with queue := q.queue ++ [⟨r, c, e, boundaryAgreed r s⟩] } })
    else none
  | _ =>
    let q := tget ({} : Xe) s.xes d
    if q.queue.length < 32 then
      some (setF F.XE_STATUS_QUEUED [d] (q.queue.length + 1)
        { s with xes := tset {} s.xes d { q with queue := q.queue ++ [⟨r, c, e, false⟩] } })
    else none

/-- ENGINE_INSTRUCTION_ISSUE (R258). -/
def execEngineInstructionIssue (core : Nat) (s : State) : Host.Outcome State Fault Refusal :=
  seqRun core (fun op => match op with
    | .engine w0 w1 => some (fun r pc s =>
        if ! issueBelaysOk r w1 s then .error (.fault St.notPermitted 0)
        else
          match enqueueEngine r core (wf32 w0 30 28) (captureEntry r core w0 w1 s) s with
          | none => .ok .stall
          | some t => .ok (.go t pc))
    | _ => none) s

/-- QUEUE_COMMAND_ISSUE (R297): the sequencer waits for the conditions, then passes the command on and retires it. -/
def execQueueCommandIssue (core : Nat) (s : State) : Host.Outcome State Fault Refusal :=
  seqRun core (fun op => match op with
    | .queue w0 w1 => some (fun r pc s =>
        if ! issueBelaysOk r w1 s then .error (.fault St.notPermitted 0)
        else
          let e := captureEntry r core w0 w1 s
          if ! waitsHold r core e s then .ok (.await (condsOf r e s))
          else
            let cmd : InstrCmd := ⟨r, core, e.tag, e.pc, wf32 w0 27 20, e.opA.setWidth 64, wf32 w1 7 1,
              decide (wf32 w1 0 0 = 1), e.sig, []⟩
            .ok (.go ({ s with instrCmds := s.instrCmds ++ [cmd] }) pc))
    | _ => none) s

end Sys2Proof.Machine
end

