-- ==== Sys2Proof/Machine/Collectives.lean ====
section
/-! DEFINITION. Collectives in the links (chapter 07): descriptors (R192 to R195), where elements go (R196 to R199), the order
of addition (R200 to R203), messages and notes (R205 to R209), the level pipeline (R210 to R212), channels (R213 to R215),
NaN, poison and the trap (R216 to R219), stalls and aborts (R220 to R223), completion (R224, R225). -/

namespace Sys2Proof.Machine

open Sys2Proof

/-! The descriptor (R192, R193). -/

/-- A field of a collective descriptor. -/
def CollDesc.fld (d : CollDesc) (off n : Nat) : Nat := fieldAt d.bytes off n

def CollDesc.tag (d : CollDesc) : Nat := d.fld 0 4
def CollDesc.chan (d : CollDesc) : Nat := d.tag / 2 ^ 28
def CollDesc.seq (d : CollDesc) : Nat := d.tag % 2 ^ 28
def CollDesc.op (d : CollDesc) : Nat := nbits 1 0 (d.fld 4 1)
def CollDesc.red (d : CollDesc) : Nat := nbits 3 2 (d.fld 4 1)
def CollDesc.fmt (d : CollDesc) : Nat := nbits 5 4 (d.fld 4 1)
def CollDesc.wide (d : CollDesc) : Bool := (d.fld 4 1).testBit 6
def CollDesc.trap (d : CollDesc) : Bool := (d.fld 4 1).testBit 7
def CollDesc.pitch (d : CollDesc) : Nat := 2 ^ d.fld 5 1
def CollDesc.levels (d : CollDesc) : Nat := d.fld 6 1
def CollDesc.count (d : CollDesc) : Nat := d.fld 8 6
def CollDesc.dim (d : CollDesc) (l : Nat) : Nat := d.fld (64 + 16 * l) 1
def CollDesc.size (d : CollDesc) (l : Nat) : Nat := d.fld (65 + 16 * l) 1
def CollDesc.pos (d : CollDesc) (l : Nat) : Nat := d.fld (66 + 16 * l) 1
def CollDesc.next (d : CollDesc) (l : Nat) : Nat := d.fld (68 + 16 * l) 2
def CollDesc.prev (d : CollDesc) (l : Nat) : Nat := d.fld (70 + 16 * l) 2

/-- Bytes of an element of the data format. -/
def CollDesc.esize (d : CollDesc) : Nat := match d.fmt with | 0 => 4 | 3 => 1 | _ => 2
/-- Elements of a granule. -/
def CollDesc.per (d : CollDesc) : Nat := 16 / d.esize
/-- Bytes of an element in the wire format (R201). -/
def CollDesc.wsize (d : CollDesc) : Nat := if d.wide then (if d.fmt = 0 then 6 else 4) else d.esize
/-- Bytes of a granule in the wire format. -/
def CollDesc.wgran (d : CollDesc) : Nat := d.per * d.wsize
/-- PITCH × w. -/
def CollDesc.wpitch (d : CollDesc) : Nat := d.pitch / 16 * d.wgran
/-- The data format. -/
def CollDesc.dataFmt (d : CollDesc) : FloatFmt := match d.fmt with | 0 => fp32 | 1 => bf16 | _ => fp16
/-- The wire format (R201). -/
def CollDesc.wireFmt (d : CollDesc) : FloatFmt := if d.wide then (if d.fmt = 0 then w48 else fp32) else d.dataFmt
/-- Granules of the full buffer, and pitches (R196). -/
def CollDesc.grans (d : CollDesc) : Nat := d.count * d.esize / 16
def CollDesc.npitch (d : CollDesc) : Nat := (d.count * d.esize + d.pitch - 1) / d.pitch
/-- The members P. -/
def CollDesc.members (d : CollDesc) : Nat := ((List.range d.levels).map d.size).foldl (fun a b => a * b) 1
/-- The adders of the channel as a unit of the rope. -/
def CollDesc.who (d : CollDesc) : Who := { reach := .die, rope := d.rope, core := 0, id := 528 + d.chan }

/-- An address in a core store (R195). -/
def inCoreStore (a : Nat) : Bool := decide (a < 0x200000 ∨ (0x40000000 ≤ a ∧ a < 0x80000000))

/-- The level input of a pitch of `b` granules at this member: first granule in the pitch, granules (R197). -/
def CollDesc.levelIn (d : CollDesc) (b : Nat) : Nat → Nat × Nat
  | 0 => (0, b)
  | l + 1 =>
    let x := d.levelIn b l
    let lo := d.pos l * x.2 / d.size l
    (x.1 + lo, (d.pos l + 1) * x.2 / d.size l - lo)

/-- Granules of pitch `k`. -/
def CollDesc.pgrans (d : CollDesc) (k : Nat) : Nat := min (d.pitch / 16) (d.grans - k * (d.pitch / 16))

/-- Granules of a full pitch's shard (R199). -/
def CollDesc.shard (d : CollDesc) : Nat := (d.levelIn (d.pitch / 16) d.levels).2

/-- Bytes of the full buffer, and of this member's shards packed (R199). -/
def CollDesc.fullBytes (d : CollDesc) : Nat := d.count * d.esize
def CollDesc.shardBytes (d : CollDesc) : Nat := 16 * ((d.npitch - 1) * d.shard + (d.levelIn (d.pgrans (d.npitch - 1)) d.levels).2)

/-- Bytes of IN and of OUT (R199). -/
def CollDesc.inBytes (d : CollDesc) : Nat := if d.op = 2 then d.shardBytes else d.fullBytes
def CollDesc.outBytes (d : CollDesc) : Nat := if d.op = 1 then d.shardBytes else d.fullBytes

/-- IN, OUT, WORK and COMPL lie within the adders' reach (R195, R254). -/
def CollDesc.inReach (d : CollDesc) (s : State) : Bool :=
  mapped d.who (d.fld 16 6) d.inBytes false s && mapped d.who (d.fld 24 6) d.outBytes true s && mapped d.who (d.fld 40 6) 32 true s &&
  (decide (d.op = 2) || mapped d.who (d.fld 32 6) (4 * d.levels * d.wpitch) true s)

/-- The belays of the descriptor lie in the rope's BELAY_RANGE; 0xFFFF in IN_BELAY is no belay (R192, R260). -/
def CollDesc.belaysOk (d : CollDesc) (s : State) : Bool :=
  (decide (d.fld 22 2 = 0xFFFF) || inBelayRange d.rope (d.fld 22 2) 1 s) && inBelayRange d.rope (d.fld 30 2) 1 s &&
  inBelayRange d.rope (d.fld 38 2) 1 s

/-- The checks of R195 but for the channel's owner and sequence. -/
def collDescOk (d : CollDesc) (s : State) : Bool :=
  let b := d.bytes
  let zero := fun (o n : Nat) => decide (fieldAt b o n = 0)
  let ls := List.range (min 4 d.levels)
  decide (d.op ≠ 3) && decide (d.red ≠ 3) && (decide (d.op ≠ 2) || decide (d.red = 0)) &&
  decide (16 ≤ d.fld 5 1 ∧ d.fld 5 1 ≤ 22) && decide (1 ≤ d.levels ∧ d.levels ≤ 4) && zero 7 1 && zero 14 2 && zero 46 18 &&
  decide (1 ≤ d.count) && decide (d.count * d.esize % 16 = 0) &&
  ([16, 24, 32, 40] : List Nat).all (fun o => decide (d.fld o 6 % 64 = 0)) &&
  decide (d.fld 22 2 < 4096 ∨ d.fld 22 2 = 0xFFFF) && decide (d.fld 30 2 < 4096) && decide (d.fld 38 2 < 4096) &&
  ls.all (fun l => decide (d.dim l ≤ 3) && decide (1 ≤ d.size l ∧ d.size l ≤ 16) && decide (d.size l ≤ ringLen (d.dim l) s) &&
    decide (d.pos l < d.size l) && zero (67 + 16 * l) 1 && zero (72 + 16 * l) 8 &&
    (rankAddr d.rope (d.next l) s).isSome && (rankAddr d.rope (d.prev l) s).isSome &&
    ls.all (fun m => decide (m = l) || decide (d.dim m ≠ d.dim l))) &&
  zero (64 + 16 * d.levels) (64 - 16 * d.levels) &&
  (decide (d.fmt ≠ 3) || (decide (d.op = 2) && ! d.wide)) &&
  decide (64 * d.members ≤ d.pitch) && decide (d.npitch ≤ 8388608) &&
  (if d.op = 2 then decide (d.fld 32 6 = 0) else decide (d.fld 32 6 ≠ 0)) &&
  ! inCoreStore (d.fld 16 6) && ! inCoreStore (d.fld 24 6) && (decide (d.op = 2) || ! inCoreStore (d.fld 32 6)) &&
  d.belaysOk s && d.inReach s

/-! Steps and where their elements lie (R196 to R200, R205). -/

/-- A step of a collective: what a HANDLE names (R205). -/
structure CStep where
  level : Nat
  sub : Nat
  gather : Bool
  part : Nat
  pitch : Nat
  deriving DecidableEq, Repr

/-- The HANDLE word of a step. -/
def CStep.handle (t : CStep) : Nat :=
  t.level * 2 ^ 30 + t.sub * 2 ^ 28 + (if t.gather then 2 ^ 27 else 0) + t.part * 2 ^ 23 + t.pitch

/-- The step a HANDLE word names. -/
def stepOf (h : Nat) : CStep := ⟨nbits 31 30 h, nbits 29 28 h, h.testBit 27, nbits 26 23 h, nbits 22 0 h⟩

/-- A quarter: its first granule in the pitch, in the level input, and in the part; its granules (R197). -/
structure Quarter where
  abs : Nat
  rel : Nat
  inPart : Nat
  n : Nat
  deriving DecidableEq, Repr

/-- The quarter a step carries. -/
def CollDesc.quarter (d : CollDesc) (t : CStep) : Quarter :=
  let x := d.levelIn (d.pgrans t.pitch) t.level
  let lo := t.part * x.2 / d.size t.level
  let len := (t.part + 1) * x.2 / d.size t.level - lo
  let q := t.sub * len / 4
  ⟨x.1 + lo + q, lo + q, q, (t.sub + 1) * len / 4 - q⟩

/-- The position a sub-ring comes from, or goes to, at a level (R198). -/
def CollDesc.behind (d : CollDesc) (l sub : Nat) : Nat :=
  if sub < 2 then (d.pos l + d.size l - 1) % d.size l else (d.pos l + 1) % d.size l
def CollDesc.ahead (d : CollDesc) (l sub : Nat) : Nat :=
  if sub < 2 then (d.pos l + 1) % d.size l else (d.pos l + d.size l - 1) % d.size l

/-- The rank a sub-ring goes to, or comes from. -/
def CollDesc.toRank (d : CollDesc) (l sub : Nat) : Nat := if sub < 2 then d.next l else d.prev l
def CollDesc.fromRank (d : CollDesc) (l sub : Nat) : Nat := if sub < 2 then d.prev l else d.next l

/-- The port whose adder serves a sub-ring here, and the port its messages leave by (R198, R207). -/
def CollDesc.adder (d : CollDesc) (l sub : Nat) : Nat := 4 * d.dim l + (sub + 2) % 4
def CollDesc.exit (d : CollDesc) (l sub : Nat) : Nat := 4 * d.dim l + sub

/-- The last level. -/
def CollDesc.top (d : CollDesc) : Nat := d.levels - 1

/-- A step has an incoming message. -/
def CollDesc.incoming (d : CollDesc) (t : CStep) : Bool :=
  decide (1 < d.size t.level) && (t.gather || decide (d.op ≠ 2))

/-- The phase of a level has work at this member. -/
def CollDesc.phaseUsed (d : CollDesc) (l : Nat) (g : Bool) : Bool :=
  if g then decide (d.op ≠ 1) && decide (1 < d.size l) else decide (d.op ≠ 2) || decide (l = d.top)

/-- The steps an adder processes here for a pitch: reduced parts that arrive, gathered parts that arrive; a ring of one, and
an all-gather's own shard, have one step without a message. -/
def CollDesc.stepsIn (d : CollDesc) (l : Nat) (g : Bool) (k : Nat) : List CStep :=
  let n := d.size l
  let all := (List.range 4).flatMap (fun j => (List.range n).map (fun c => (⟨l, j, g, c, k⟩ : CStep)))
  let keep := fun (t : CStep) =>
    if g then decide (d.op ≠ 1) && decide (t.part ≠ d.pos l)
    else if d.op = 2 then decide (l = d.top) && decide (t.part = d.pos l)
    else decide (n = 1) || decide (t.part ≠ d.behind l t.sub)
  all.filter (fun t => keep t && decide (0 < (d.quarter t).n))

/-- The steps this member sends for a pitch (R200, R205): reduced parts other than its own, gathered parts that the next
member does not own. -/
def CollDesc.sends (d : CollDesc) (l : Nat) (g : Bool) (k : Nat) : List CStep :=
  let n := d.size l
  let all := (List.range 4).flatMap (fun j => (List.range n).map (fun c => (⟨l, j, g, c, k⟩ : CStep)))
  let keep := fun (t : CStep) =>
    if g then decide (d.op ≠ 1) && decide (t.part ≠ d.ahead l t.sub) else decide (d.op ≠ 2) && decide (t.part ≠ d.pos l)
  if n = 1 then [] else all.filter (fun t => keep t && decide (0 < (d.quarter t).n))

/-! Addresses (R199, R210). -/

/-- The receive buffer of a level and pitch. -/
def CollDesc.recvAt (d : CollDesc) (l k : Nat) : Nat := d.fld 32 6 + 4 * l * d.wpitch + k % 2 * d.wpitch
/-- The stage buffer of a level and pitch. -/
def CollDesc.stageAt (d : CollDesc) (l k : Nat) : Nat := d.fld 32 6 + 4 * l * d.wpitch + (2 + k % 2) * d.wpitch
/-- Where a granule of a pitch lies in a full buffer. -/
def CollDesc.fullAt (d : CollDesc) (base k g : Nat) : Nat := base + k * d.pitch + 16 * g
/-- Where a granule of this member's shard of a pitch lies in packed shards. -/
def CollDesc.shardAt (d : CollDesc) (base k g : Nat) : Nat := base + 16 * (k * d.shard + g)
/-- Where this member's result of a step of the last level lies. -/
def CollDesc.resultAt (d : CollDesc) (t : CStep) : Nat :=
  if d.op = 1 then d.shardAt (d.fld 24 6) t.pitch (d.quarter t).inPart else d.fullAt (d.fld 24 6) t.pitch (d.quarter t).abs

/-! Elements. -/

/-- Elements of a run of granules, each with its poison. -/
abbrev Elems : Type := List (Nat × Bool)

/-- Read `n` granules of `g` bytes as elements of `e` bytes. -/
def readElems (w : Who) (g e : Nat) : Nat → Nat → State → Except Stop Elems
  | 0, _, _ => .ok []
  | n + 1, a, s =>
    match tryRd w a g s with
    | .error x => .error x
    | .ok (bs, bad) =>
      match readElems w g e n (a + g) s with
      | .error x => .error x
      | .ok t => .ok ((List.range (g / e)).map (fun i => (fieldAt bs (e * i) e, bad)) ++ t)

/-- Write elements of `e` bytes, `per` to a granule. -/
def writeElems (w : Who) (e per : Nat) : Nat → Nat → Elems → State → Except Stop State
  | 0, _, _, s => .ok s
  | n + 1, a, xs, s =>
    let g := xs.take per
    match tryWr w a (g.flatMap (fun x => natLe e x.1)) (g.any (fun x => x.2)) s with
    | .error x => .error x
    | .ok s => writeElems w e per n (a + e * per) (xs.drop per) s

/-- One addition, maximum or minimum in the wire format (R201, R202, R216). -/
def CollDesc.combine (d : CollDesc) (a b : Nat) : Nat :=
  let x := d.wireFmt.decode a
  let y := d.wireFmt.decode b
  (d.wireFmt.round rne (match d.red with | 0 => (numAdd x y).1 | 1 => numMax x y | _ => numMin x y)).1

/-- A wire element is NaN. -/
def CollDesc.wnan (d : CollDesc) (a : Nat) : Bool := decide (d.wireFmt.decode a = .nan)

/-- A data element is NaN; bytes have none. -/
def CollDesc.dnan (d : CollDesc) (a : Nat) : Bool := decide (d.fmt ≠ 3) && decide (d.dataFmt.decode a = .nan)

/-- A data element as an adder writes it: a NaN is the canonical one (R228). -/
def CollDesc.canon (d : CollDesc) (a : Nat) : Nat := if d.dnan a then (d.dataFmt.round rne .nan).1 else a

/-- This member's contribution to a reduce step, in the wire format (R201). -/
def CollDesc.contribution (d : CollDesc) (t : CStep) (s : State) : Except Stop Elems :=
  let q := d.quarter t
  if t.level = 0 then
    match readElems d.who 16 d.esize q.n (d.fullAt (d.fld 16 6) t.pitch q.abs) s with
    | .error x => .error x
    | .ok xs => .ok (xs.map (fun x => ((d.wireFmt.round rne (d.dataFmt.decode x.1)).1, x.2)))
  else readElems d.who d.wgran d.wsize q.n (d.stageAt t.level t.pitch + q.rel * d.wgran) s

/-- What an adder makes of a reduce step: the new partials, and which elements become NaN here (R216). -/
def CollDesc.reduceStep (d : CollDesc) (t : CStep) (incoming : Bool) (s : State) : Except Stop (Elems × List Nat) :=
  match d.contribution t s with
  | .error x => .error x
  | .ok xs =>
    if ! incoming then
      .ok (xs, ((xs.zipIdx).filter (fun x => d.wnan x.1.1)).map (fun x => x.2))
    else
      let q := d.quarter t
      match readElems d.who d.wgran d.wsize q.n (d.recvAt t.level t.pitch + q.rel * d.wgran) s with
      | .error x => .error x
      | .ok ys =>
        let zs := (ys.zip xs).map (fun x => (d.combine x.1.1 x.2.1, x.1.2 || x.2.2))
        .ok (zs, (((ys.zip zs).zipIdx).filter (fun x => ! d.wnan x.1.1.1 && d.wnan x.1.2.1)).map (fun x => x.2))

/-- The global index of element `i` of a step's quarter. -/
def CollDesc.globalIdx (d : CollDesc) (t : CStep) (i : Nat) : Nat := t.pitch * (d.pitch / d.esize) + (d.quarter t).abs * d.per + i

/-! Channels and runs. -/

/-- A running collective takes no further step: it has aborted, or an abort came after its last pitch (R222). -/
def CollRun.ended (r : CollRun) : Bool := r.abort.isSome || r.overrun

/-- A channel. -/
def chanOf (c : Nat) (s : State) : Chan := tget {} s.chans c

/-- Change a channel. -/
def modChan (c : Nat) (f : Chan → Chan) (s : State) : State := { s with chans := tmod {} s.chans c f }

/-- Change the running collective of a channel. -/
def modRun (c : Nat) (f : CollRun → CollRun) (s : State) : State := modChan c (fun k => { k with run := k.run.map f }) s

/-- Channel `c` belongs to rope `r` (R213). -/
def chanOwnedBy (c r : Nat) (s : State) : Bool :=
  decide (getF F.COL_CHAN_CTRL_OWNED [c] s = 1) && decide (getF F.COL_CHAN_CTRL_OWNER [c] s = r)

/-- The status fields of a channel and the work bits of the adders follow it. -/
def noteChan (c : Nat) (s : State) : State :=
  let k := chanOf c s
  let n := k.queue.length + (if k.run.isSome then 1 else 0)
  let seq := match k.run with | some r => r.desc.seq | none => (match k.queue with | d :: _ => d.seq | [] => k.expect)
  let s := setF F.COL_CHAN_STATUS_QUEUED [c] n (setF F.COL_CHAN_STATUS_BUSY [c] (if k.run.isSome then 1 else 0)
    (setF F.COL_CHAN_STATUS_SEQ [c] seq s))
  let busy := fun (p : Nat) => match k.run with
    | none => false
    | some r => (List.range r.desc.levels).any (fun l => decide (r.desc.dim l = p / 4))
  forN 16 s (fun p s =>
    let w : Word := BitVec.ofNat 64 (getF F.COL_ADD_STATUS_CHANNELS [p] s)
    let b : Word := BitVec.ofNat 64 (2 ^ c)
    setF F.COL_ADD_STATUS_CHANNELS [p] (if busy p then w ||| b else w &&& ~~~b).toNat s)

/-- A note for a packet of a step. -/
def noteKey (t : CStep) (pkt : Nat) : Nat := t.handle * 2 ^ 24 + pkt

/-- The value an unlisted note has: no NaN. -/
abbrev noNote : CollNote := ⟨0xFFFFFFFFFFFFFFFF, 0x7FFF, 0, 0⟩

/-- The 16 bytes of a pitch note (R206). -/
def noteBytes (n : CollNote) : List Byte :=
  natLe 8 n.elem ++ natLe 2 (if n = noNote then 0 else n.rank) ++ natLe 1 n.level ++ natLe 1 n.pos ++ zeros 4

/-- A pitch note from its bytes. -/
def noteOf (bs : List Byte) : CollNote :=
  if fieldAt bs 0 8 = 0xFFFFFFFFFFFFFFFF then noNote else ⟨fieldAt bs 0 8, fieldAt bs 8 2 % 32768, fieldAt bs 10 1, fieldAt bs 11 1⟩

/-- The note of a packet of a step. -/
def CollRun.note (r : CollRun) (t : CStep) (pkt : Nat) : CollNote := tget noNote r.notes (noteKey t pkt)

/-- The note with the smaller element index. -/
def minNote (a b : CollNote) : CollNote := if b.elem < a.elem then b else a

/-- This member as the origin of a NaN. -/
def selfNote (d : CollDesc) (t : CStep) (i : Nat) (s : State) : CollNote :=
  ⟨d.globalIdx t i, (ropeOf d.rope s).rank, t.level, d.pos t.level⟩

/-- The note of packet `j` of a step once the elements that become NaN here are in it; `es` is the bytes of an element. -/
def addedNote (d : CollDesc) (t : CStep) (es j : Nat) (old : CollNote) (new : List Nat) (s : State) : CollNote :=
  ((new.filter (fun i => decide (i * es / 4080 = j))).map (fun i => selfNote d t i s)).foldl minNote old

/-- Packets of a step whose element has `es` bytes. -/
def CollDesc.npkts (d : CollDesc) (t : CStep) (es : Nat) : Nat := ((d.quarter t).n * d.per * es + 4079) / 4080

/-- Levels and phases that exchange credits (R211). -/
def CollDesc.credited (d : CollDesc) (l : Nat) (g : Bool) : Bool :=
  decide (1 < d.size l) && (if g then decide (d.op ≠ 1) else decide (d.op ≠ 2))

/-- The number a credit is held under. -/
def creditKey (l sub : Nat) (g : Bool) (k : Nat) : Nat := ((l * 4 + sub) * 2 + (if g then 1 else 0)) * 2 ^ 23 + k

/-- A step is done with. -/
def CollRun.isDid (r : CollRun) (t : CStep) : Bool := decide ((r.desc.quarter t).n = 0) || tget false r.did t.handle

/-- Leading complete pitches of a level and phase. -/
def CollRun.doneAt (r : CollRun) (l : Nat) (g : Bool) : Nat :=
  if r.desc.phaseUsed l g then tget 0 r.levelDone (l * 2 + (if g then 1 else 0)) else r.desc.npitch

/-- Pitch `k` of a level and phase is complete here: its steps processed, its messages sent. -/
def CollRun.levelComplete (r : CollRun) (l : Nat) (g : Bool) (k : Nat) : Bool :=
  (r.desc.stepsIn l g k).all r.isDid && (r.desc.sends l g k).all (fun t => tget false r.sent t.handle)

/-- This member's own results of a level's pitch are stored. -/
def CollRun.ownDone (r : CollRun) (l k : Nat) : Bool :=
  (List.range 4).all (fun j => r.isDid ⟨l, j, false, r.desc.pos l, k⟩)

/-- IN may be read for pitch `k` (R192, R211). -/
def CollRun.inReady (r : CollRun) (k : Nat) (s : State) : Bool :=
  decide (r.desc.fld 22 2 = 0xFFFF) || decide (k + 1 ≤ (devBelay (r.desc.fld 22 2) s).toNat)

/-- The contribution of a level's pitch is there. -/
def CollRun.contribReady (r : CollRun) (l k : Nat) (s : State) : Bool :=
  if l = 0 ∨ r.desc.op = 2 then r.inReady k s else r.ownDone (l - 1) k

/-- The stage buffer that takes the result of a level's pitch is free (R211). -/
def CollRun.stageFree (r : CollRun) (l k : Nat) : Bool :=
  decide (l = r.desc.top) || decide (k < r.doneAt (l + 1) false + 2)

/-- The data of pitch `k` above level `l` of the gather is whole here. -/
def CollRun.gatherHave (r : CollRun) (l k : Nat) : Bool :=
  r.ownDone r.desc.top k && (List.range r.desc.levels).all (fun m => decide (m < l) || (r.desc.stepsIn m true k).all r.isDid)

/-- Pitch `k` is complete at this member (R212). -/
def CollRun.pitchOut (r : CollRun) (k : Nat) : Bool :=
  if r.desc.op = 1 then r.ownDone r.desc.top k else r.gatherHave 0 k

/-- Every pitch of every level and phase is complete. -/
def CollRun.allDone (r : CollRun) : Bool :=
  decide (r.pitches = r.desc.npitch) && (List.range r.desc.levels).all (fun l =>
    decide (r.doneAt l false = r.desc.npitch) && decide (r.doneAt l true = r.desc.npitch))

/-- Send a collective cell to a rank; false when it fails at once. -/
def sendCollCell (c : Nat) (d : CollDesc) (rank kind : Nat) (payload : List Byte) (s : State) : Bool × State :=
  sendCellRank (.coll c (BitVec.ofNat 32 d.seq)) d.rope rank kind (BitVec.ofNat 32 d.tag) ((payload ++ zeros 48).take 48) 26 s

/-- A message of the running collective. -/
def ofColl (c : Nat) : MsgUnit → Bool
  | .coll x _ => decide (x = c)
  | _ => false

/-- The messages of a running collective that have not started are gone (R222, step 2). -/
def dropCollMsgs (c : Nat) (s : State) : State :=
  let n := (s.msgs.waiting.filter (fun m => ofColl c m.unit)).length
  modRun c (fun r => { r with msgs := r.msgs - n })
    (modMsgs (fun m => { m with waiting := m.waiting.filter (fun x => ! ofColl c x.unit) }) s)

/-- Every byte of a range lies in a memory of this device. -/
def ownPlaces (w : Who) (a n : Nat) (s : State) : Bool :=
  (List.range (n / 2 ^ 21 + 2)).all (fun i =>
    let b := if i = 0 then a else a / 2 ^ 21 * 2 ^ 21 + i * 2 ^ 21
    decide (a + n ≤ b) || (match locate w b true s with | .place p => decide (p < 2 ^ 64) | _ => false))

/-- OUT of every pitch from `r.pitches` on is undefined after an abort: free bytes (R222, step 3), where it lies in this device's own
memory (log 73). -/
def voidOut (r : CollRun) (s : State) : State :=
  let d := r.desc
  let off := if d.op = 1 then 16 * (r.pitches * d.shard) else r.pitches * d.pitch
  let n := d.outBytes - off
  if ! ownPlaces d.who (d.fld 24 6 + off) n s then s
  else match wr d.who (d.fld 24 6 + off) ((List.range n).map (fun i => Config.freeByte (s.fresh + i))) s with
  | .ok t => { t with fresh := s.fresh + n }
  | .error _ => s

/-- The running collective of a channel aborts (R221, R222): status, level, position and rank named, NaN element. A member whose last
pitch is complete keeps its own status, and only starts no further message (R222, R223; log 73). -/
def collAbort (c : Nat) (a : Nat × Nat × Nat × Nat) (elem : Nat) (s : State) : State :=
  match (chanOf c s).run with
  | none => s
  | some r =>
    if r.ended then s
    else if r.pitches = r.desc.npitch then dropCollMsgs c (modRun c (fun r => { r with overrun := true }) s)
    else
      let s := voidOut r (dropCollMsgs c (modRun c (fun r => { r with abort := some a }) s))
      let s := if getF F.COL_CHAN_NAMED_VALID [c] s = 1 then s
        else setF F.COL_CHAN_NAMED_VALID [c] 1 (setF F.COL_CHAN_NAMED_STATUS [c] a.1 (setF F.COL_CHAN_NAMED_LEVEL [c] a.2.1
          (setF F.COL_CHAN_NAMED_POSITION [c] a.2.2.1 (setF F.COL_CHAN_NAMED_RANK [c] a.2.2.2 s))))
      let body := natLe 1 a.1 ++ natLe 1 a.2.1 ++ natLe 1 a.2.2.1 ++ zeros 1 ++ natLe 4 a.2.2.2 ++ natLe 8 elem
      forN r.desc.levels s (fun l s =>
        if r.desc.size l = 1 then s
        else (sendCollCell c r.desc (r.desc.prev l) 0x21 body (sendCollCell c r.desc (r.desc.next l) 0x21 body s).2).2)

/-- The level and position a rank has beside this member. -/
def placeOfRank (d : CollDesc) (rank : Nat) : Nat × Nat :=
  ((List.range d.levels).findSome? (fun l =>
    if d.next l = rank then some (l, (d.pos l + 1) % d.size l)
    else if d.prev l = rank then some (l, (d.pos l + d.size l - 1) % d.size l)
    else none)).getD (0, 0)

/-- A message or cell of a collective failed: MEMBER_LOST names the rank (R221). -/
def collLost (c : Nat) (seq : BitVec 32) (rank : Nat) (s : State) : State :=
  match (chanOf c s).run with
  | none => s
  | some r =>
    if r.desc.seq ≠ seq.toNat then s
    else
      let p := placeOfRank r.desc rank
      collAbort c (St.memberLost, p.1, p.2, rank) 0xFFFFFFFFFFFFFFFF s

/-- A message of a collective is acknowledged or has failed. -/
def collMsgDone (c : Nat) (seq : BitVec 32) (s : State) : State :=
  modRun c (fun r => if r.desc.seq = seq.toNat then { r with msgs := r.msgs - 1 } else r) s

/-- Send the credit for a pitch on every sub-ring of a level and phase to the member it comes from (R211). -/
def sendCredits (c : Nat) (d : CollDesc) (l : Nat) (g : Bool) (k : Nat) (s : State) : State :=
  if k < d.npitch ∧ d.credited l g then
    forN 4 s (fun j s =>
      let rank := d.fromRank l j
      match sendCollCell c d rank 0x20 (natLe 1 l ++ natLe 1 j ++ natLe 1 (if g then 1 else 0) ++ zeros 1 ++ natLe 4 k) s with
      | (true, s) => s
      | (false, s) => collLost c (BitVec.ofNat 32 d.seq) rank s)
  else s

/-- One pass of the progress of a running collective: complete pitches of each level and phase return credits, complete
pitches advance OUT_BELAY (R211, R212). -/
def advanceOnce (c : Nat) (s : State) : State :=
  match (chanOf c s).run with
  | none => s
  | some r0 =>
    if r0.ended then s
    else
      let s := forN (2 * r0.desc.levels) s (fun i s =>
        match (chanOf c s).run with
        | none => s
        | some r =>
          let l := i / 2
          let g := decide (i % 2 = 1)
          let k := r.doneAt l g
          if r.desc.phaseUsed l g && decide (k < r.desc.npitch) && r.levelComplete l g k then
            sendCredits c r.desc l g (k + 2) (modRun c (fun r => { r with levelDone := tset 0 r.levelDone i (k + 1) }) s)
          else s)
      match (chanOf c s).run with
      | none => s
      | some r =>
        if r.pitches < r.desc.npitch ∧ r.pitchOut r.pitches then
          let s := modRun c (fun r => { r with pitches := r.pitches + 1 }) s
          let s := addF F.COL_CHAN_PITCHES_PITCHES [c] 1 s
          signalBy (528 + c) true (r.desc.fld 30 2) true (BitVec.ofNat 64 (r.pitches + 1)) s
        else s

/-- Progress after an event: at most two pitches of a level are under way. -/
def advanceColl (c : Nat) (s : State) : State := forN 4 s (fun _ s => advanceOnce c s)

/-! Starting (R195, R211, R213, R214). -/

/-- Take a COLLECTIVE of rope `r` (R195, R213, R214): a status when it is refused, and nothing when its channel is full. -/
def acceptCollective (r : Nat) (bytes : List Byte) (s : State) : Option (Nat × State) :=
  let d : CollDesc := ⟨bytes, r⟩
  let k := chanOf d.chan s
  if ! collDescOk d s || ! chanOwnedBy d.chan r s then some (St.notPermitted, s)
  else if d.seq ≠ k.expect then some (St.notPermitted, s)
  else if 16 ≤ k.queue.length + (if k.run.isSome then 1 else 0) then none
  else some (St.ok, noteChan d.chan (modChan d.chan (fun k => { k with queue := k.queue ++ [d], expect := (d.seq + 1) % 2 ^ 28 }) s))

/-- COLLECTIVE_START: the next accepted collective runs; credits for its first two pitches go out, credits held for it count. -/
def startColl (c : Nat) (s : State) : State :=
  match (chanOf c s).run, (chanOf c s).queue with
  | none, d :: t =>
    let held := (chanOf c s).nextCredits.filter (fun x => decide (x.1 = d.seq))
    let run : CollRun := { desc := d, credits := held.foldl (fun o x => tset false o x.2 true) [] }
    let s := noteChan c (modChan c (fun k => { k with queue := t, run := some run, nextCredits := [] }) s)
    let s := forN d.levels s (fun l s =>
      forList [false, true] s (fun g s => sendCredits c d l g 1 (sendCredits c d l g 0 s)))
    advanceColl c s
  | _, _ => s

/-- COLLECTIVE_START (R214). -/
def execCollectiveStart (chan : Nat) (s : State) : Host.Outcome State Fault Refusal :=
  runIf (decide (chan < 16)) (startColl chan) s

/-! Sending a step (R200, R205, R211). -/

/-- A pitch of a level and phase has started here: a step of it has been sent or processed. -/
def CollRun.begun (r : CollRun) (l : Nat) (g : Bool) (k : Nat) : Bool :=
  decide (k < r.doneAt l g) || (r.desc.sends l g k).any (fun t => tget false r.sent t.handle) ||
  (r.desc.stepsIn l g k).any (fun t => tget false r.did t.handle)

/-- Pitch `k` of a level and phase may start: those below it have (R212). -/
def CollRun.mayBegin (r : CollRun) (l : Nat) (g : Bool) (k : Nat) : Bool := decide (k = 0) || r.begun l g (k - 1)

/-- The inputs of a step to send are there. -/
def CollRun.sendReady (r : CollRun) (t : CStep) (s : State) : Bool :=
  let d := r.desc
  r.mayBegin t.level t.gather t.pitch &&
  (if t.gather then
    if t.part = d.pos t.level then r.gatherHave (t.level + 1) t.pitch else r.isDid t
  else if t.part = d.behind t.level t.sub then r.contribReady t.level t.pitch s
  else r.isDid t)

/-- The packets of a step: notes, wire data padded to 16 bytes, POISON (R205, R206, R219). `es` is the bytes of an element. -/
def collPackets (d : CollDesc) (t : CStep) (es : Nat) (xs : Elems) (note : Nat → CollNote) (s : State) : List Packet :=
  let bs := pad16 (xs.flatMap (fun x => natLe es x.1))
  let parts := (cutData (bs.length + 1) 4080 0 bs).map (fun x => (x.1, noteBytes (note (x.1 / 4080)) ++ x.2))
  let h : Packet := { ty := 2, vc := 0, job := BitVec.ofNat 16 (ropeJob d.rope s), tag := BitVec.ofNat 32 d.tag,
                      handle := BitVec.ofNat 32 t.handle }
  (makePackets h parts).map (fun p =>
    let lo := p.offset.toNat / es
    { p with poison := ((xs.drop lo).take (4080 / es)).any (fun x => x.2) })

/-- The elements a step sends, the bytes of each, and the elements that become NaN here. -/
def CollRun.stepData (r : CollRun) (t : CStep) (s : State) : Except Stop (Elems × Nat × List Nat) :=
  let d := r.desc
  let q := d.quarter t
  if t.gather then
    match readElems d.who 16 d.esize q.n (d.fullAt (d.fld 24 6) t.pitch q.abs) s with
    | .error x => .error x
    | .ok xs => .ok (xs, d.esize, [])
  else
    match d.reduceStep t (decide (t.part ≠ d.behind t.level t.sub)) s with
    | .error x => .error x
    | .ok (xs, new) => .ok (xs, d.wsize, new)

/-- The origin recorded for a NaN element of this member's own result. -/
def CollRun.originOf (r : CollRun) (t : CStep) (i : Nat) (s : State) : CollNote :=
  let d := r.desc
  let n := r.note { t with level := d.top, gather := false, part := d.pos d.top } (i * d.wsize / 4080)
  if n = noNote then selfNote d t i s else { n with elem := d.globalIdx t i }

/-- The part of a block of `len` granules split `n` ways that granule `g` lies in. -/
def partOf (n len g : Nat) : Nat := ((List.range n).find? (fun c => decide (c * len / n ≤ g ∧ g < (c + 1) * len / n))).getD 0

/-- The origin of a NaN in OUT, at granule `g` of a pitch and byte `b` of it: that of the packet that brought it, at the level above `l`
where it was gathered, or of this member's own result (R216). -/
def CollRun.gatheredNote (r : CollRun) (k g b : Nat) (own : CollNote) : Nat → Nat → CollNote
  | 0, _ => own
  | fuel + 1, l =>
    let d := r.desc
    if d.levels ≤ l then own
    else
      let x := d.levelIn (d.pgrans k) l
      let c := partOf (d.size l) x.2 (g - x.1)
      if c = d.pos l then r.gatheredNote k g b own fuel (l + 1)
      else
        let lo := c * x.2 / d.size l
        let j := partOf 4 ((c + 1) * x.2 / d.size l - lo) (g - x.1 - lo)
        let t : CStep := ⟨l, j, true, c, k⟩
        r.note t ((16 * (g - (d.quarter t).abs) + b) / 4080)

/-- The note of element `i` of a quarter gathered from above: its own index, with the origin that is known of it (R216; log 73). -/
def CollRun.aboveNote (r : CollRun) (t : CStep) (i : Nat) (s : State) : CollNote :=
  let d := r.desc
  let g := (d.quarter t).abs + i / d.per
  let x := d.levelIn (d.pgrans t.pitch) d.top
  let lo := d.pos d.top * x.2 / d.size d.top
  let j := partOf 4 ((d.pos d.top + 1) * x.2 / d.size d.top - lo) (g - x.1 - lo)
  let u : CStep := ⟨d.top, j, false, d.pos d.top, t.pitch⟩
  let own := r.originOf u ((g - (d.quarter u).abs) * d.per + i % d.per) s
  let n := r.gatheredNote t.pitch g (i % d.per * d.esize) own 4 (t.level + 1)
  { n with elem := d.globalIdx t i }

/-- The note of packet `j` of a step that is sent. -/
def CollRun.sendNote (r : CollRun) (t : CStep) (es : Nat) (xs : Elems) (new : List Nat) (s : State) (j : Nat) : CollNote :=
  let d := r.desc
  if t.gather then
    if t.part ≠ d.pos t.level then r.note t j
    else
      match ((xs.zipIdx).filter (fun x => d.dnan x.1.1 && decide (x.2 * es / 4080 = j))).head? with
      | none => noNote
      | some x => if t.level = d.top then r.originOf t x.2 s else r.aboveNote t x.2 s
  else addedNote d t es j (if t.part = d.behind t.level t.sub then noNote else r.note t j) new s

/-- COLL_STEP_SEND: the message of a step, once the credit and the inputs are there. -/
def sendStep (c : Nat) (t : CStep) (s : State) : State :=
  match (chanOf c s).run with
  | none => s
  | some r =>
    let d := r.desc
    if r.ended || ! decide (t.level < d.levels ∧ t.pitch < d.npitch) || ! (d.sends t.level t.gather t.pitch).contains t ||
       tget false r.sent t.handle || ! tget false r.credits (creditKey t.level t.sub t.gather t.pitch) || ! r.sendReady t s then s
    else
      runAccess d.who
        (match r.stepData t s with
        | .error x => .error x
        | .ok (xs, es, new) =>
          let first := ! t.gather && decide (t.part = d.behind t.level t.sub)
          let p := d.adder t.level t.sub
          let s := if first then addF F.COL_ADD_NAN_ORIGINS_COUNT [p] new.length s else s
          if d.trap && first && ! new.isEmpty then
            let n := selfNote d t (new.headD 0) s
            .ok (collAbort c (St.nanSeen, n.level, n.pos, n.rank) n.elem s)
          else
            let pk := collPackets d t es xs (r.sendNote t es xs new s) s
            let s := addF F.COL_ADD_TX_BYTES_COUNT [p] (xs.length * es) s
            let s := addF F.COL_ADD_POISON_COUNT [p] (pk.filter (fun x => x.poison)).length s
            let s := modRun c (fun r => { r with sent := tset false r.sent t.handle true, msgs := r.msgs + 1 }) s
            let s := queueMsg ⟨.coll c (BitVec.ofNat 32 d.seq), some (d.rope, d.toRank t.level t.sub), 0,
              27 + d.adder t.level t.sub, pk, 0⟩ s
            .ok (advanceColl c s))
        (fun _ _ s => s) s

/-- COLL_STEP_SEND (R205). -/
def execCollStepSend (chan level sub : Nat) (gather : Bool) (part pitch : Nat) (s : State) : Host.Outcome State Fault Refusal :=
  runIf (decide (chan < 16) && decide (level < 4) && decide (sub < 4)) (sendStep chan ⟨level, sub, gather, part, pitch⟩) s

/-! Arrivals (R208, R215, R222). -/

/-- The running collective a packet belongs to: the current sequence, not aborted, a step that has a message here. -/
def collPacketRun (p : Packet) (s : State) : Option CollRun :=
  match (chanOf (p.tag.toNat / 2 ^ 28) s).run with
  | none => none
  | some r =>
    let t := stepOf p.handle.toNat
    let d := r.desc
    if d.tag = p.tag.toNat ∧ r.abort.isNone ∧ t.level < d.levels ∧ t.pitch < d.npitch ∧ d.incoming t ∧
       (d.stepsIn t.level t.gather t.pitch).contains t ∧ ! tget false r.got t.handle then some r else none

/-- A counted packet of a collective: its wire data goes to the receive buffer or to OUT (R208); one that belongs to no
running collective is discarded and counted (R215). -/
def collPacket (p : Packet) (s : State) : Except Stop State :=
  match collPacketRun p s with
  | none => .ok (countR .COL_CHAN_DISCARDS [p.tag.toNat / 2 ^ 28] s)
  | some r =>
    let t := stepOf p.handle.toNat
    let d := r.desc
    let q := d.quarter t
    let total := q.n * (if t.gather then 16 else d.wgran)
    let data := (p.payload.drop 16).take (total - p.offset.toNat)
    let a := if t.gather then d.fullAt (d.fld 24 6) t.pitch q.abs else d.recvAt t.level t.pitch + q.rel * d.wgran
    tryWr d.who (a + p.offset.toNat) data p.poison s

/-- A complete message of a collective: its notes are kept and the adder may process it. -/
def collMessage (parts : List Packet) (s : State) : State :=
  match parts with
  | [] => s
  | p :: _ =>
    match collPacketRun p s with
    | none => s
    | some r =>
      let t := stepOf p.handle.toNat
      modRun r.desc.chan (fun r => { r with
        got := tset false r.got t.handle true,
        notes := parts.foldl (fun o x => tset noNote o (noteKey t (x.offset.toNat / 4080)) (noteOf x.payload)) r.notes }) s

/-! Processing (R200, R201, R216 to R219). -/

/-- A step of the adder of `port` can be processed. -/
def CollRun.canProcess (r : CollRun) (t : CStep) (s : State) : Bool :=
  ! tget false r.did t.handle && (! r.desc.incoming t || tget false r.got t.handle) && r.mayBegin t.level t.gather t.pitch &&
  (t.gather || (r.contribReady t.level t.pitch s && (decide (t.part ≠ r.desc.pos t.level) || r.stageFree t.level t.pitch)))

/-- The next step a channel has for an adder: its pitches in order, reduce before gather. -/
def CollRun.nextStep (r : CollRun) (port : Nat) (s : State) : Option CStep :=
  if r.ended then none
  else
    (List.range r.desc.levels).findSome? (fun l =>
      if r.desc.dim l ≠ port / 4 then none
      else [false, true].findSome? (fun g =>
        (List.range 2).findSome? (fun i =>
          let k := r.doneAt l g + i
          if ! r.desc.phaseUsed l g ∨ r.desc.npitch ≤ k then none
          else ((r.desc.stepsIn l g k).filter (fun t => decide (r.desc.adder l t.sub = port) && r.canProcess t s)).head?)))

/-- The smallest NaN element written to OUT, with its origin (R217). -/
def noteOut (c : Nat) (n : CollNote) (s : State) : State :=
  if n = noNote then s
  else modRun c (fun r => { r with nan := some (match r.nan with | none => n | some m => minNote m n) }) s

/-- A gather step: its data is in OUT already (R208); what it says of NaN and poison counts here (R217 to R219). -/
def processGather (c : Nat) (r : CollRun) (t : CStep) (s : State) : Except Stop State :=
  let d := r.desc
  let notes := (List.range (d.npkts t d.esize)).map (fun j => r.note t j)
  let n := notes.foldl minNote noNote
  if d.trap ∧ n ≠ noNote then .ok (collAbort c (St.nanSeen, n.level, n.pos, n.rank) n.elem s)
  else
    match readElems d.who 16 d.esize (d.quarter t).n (d.fullAt (d.fld 24 6) t.pitch (d.quarter t).abs) s with
    | .error x => .error x
    | .ok xs => .ok (noteOut c n (modRun c (fun r => { r with poisoned := r.poisoned || xs.any (fun x => x.2) }) s))

/-- This member's own result of the last level goes to OUT in the data format (R201, R217, R219). -/
def storeResult (c : Nat) (r : CollRun) (t : CStep) (xs : Elems) (s : State) : Except Stop State :=
  let d := r.desc
  match writeElems d.who d.esize d.per (d.quarter t).n (d.resultAt t) xs s with
  | .error x => .error x
  | .ok s =>
    let s := modRun c (fun r => { r with poisoned := r.poisoned || xs.any (fun x => x.2) }) s
    match ((xs.zipIdx).filter (fun x => d.dnan x.1.1)).head? with
    | none => .ok s
    | some x => .ok (noteOut c (((chanOf c s).run.getD r).originOf t x.2 s) s)

/-- A reduce step: add, and keep the result where it is this member's own (R200, R201, R210). -/
def processReduce (c : Nat) (r : CollRun) (t : CStep) (s : State) : Except Stop State :=
  let d := r.desc
  if d.op = 2 then
    match readElems d.who 16 d.esize (d.quarter t).n (d.shardAt (d.fld 16 6) t.pitch (d.quarter t).inPart) s with
    | .error x => .error x
    | .ok xs =>
      let new := ((xs.zipIdx).filter (fun x => d.dnan x.1.1)).map (fun x => x.2)
      let s := addF F.COL_ADD_NAN_ORIGINS_COUNT [d.adder t.level t.sub] new.length s
      if d.trap ∧ ! new.isEmpty then
        let n := selfNote d t (new.headD 0) s
        .ok (collAbort c (St.nanSeen, n.level, n.pos, n.rank) n.elem s)
      else storeResult c r t (xs.map (fun x => (d.canon x.1, x.2))) s
  else
    match d.reduceStep t (d.incoming t) s with
    | .error x => .error x
    | .ok (xs, new) =>
      let s := addF F.COL_ADD_NAN_ORIGINS_COUNT [d.adder t.level t.sub] new.length s
      let notes := (List.range (d.npkts t d.wsize)).map (fun j => (j, addedNote d t d.wsize j (r.note t j) new s))
      let n := (notes.map (fun x => x.2)).foldl minNote noNote
      if d.trap ∧ n ≠ noNote then .ok (collAbort c (St.nanSeen, n.level, n.pos, n.rank) n.elem s)
      else if t.part ≠ d.pos t.level then .ok s
      else
        let s := modRun c (fun r => { r with notes := notes.foldl (fun o x => tset noNote o (noteKey t x.1) x.2) r.notes }) s
        if t.level = d.top then
          storeResult c ((chanOf c s).run.getD r) t (xs.map (fun x => ((d.dataFmt.round rne (d.wireFmt.decode x.1)).1, x.2))) s
        else writeElems d.who d.wsize d.per (d.quarter t).n
          (d.stageAt (t.level + 1) t.pitch + (d.quarter t).inPart * d.wgran) xs s

/-- Process a step at its adder. -/
def processStep (port c : Nat) (r : CollRun) (t : CStep) (s : State) : Except Stop State :=
  let d := r.desc
  let n := (d.quarter t).n * (if t.gather then 16 else d.wgran)
  let s := if d.incoming t then addF F.COL_ADD_RX_BYTES_COUNT [port] n s else s
  match (if t.gather then processGather c r t s else processReduce c r t s) with
  | .error x => .error x
  | .ok s => .ok (advanceColl c (modRun c (fun r => { r with did := tset false r.did t.handle true }) s))

/-- COLL_MESSAGE_PROCESS: the adder's next step, channels in round robin by message (R214). -/
def processNext (port : Nat) (s : State) : State :=
  let last := (portOf port s).addLast
  match ((List.range 16).map (fun i => (last + 1 + i) % 16)).findSome? (fun c =>
    match (chanOf c s).run with
    | none => none
    | some r => (r.nextStep port s).map (fun t => (c, r, t))) with
  | none => s
  | some (c, r, t) =>
    runAccess r.desc.who (processStep port c r t (modPort port (fun q => { q with addLast := c }) s)) (fun _ _ s => s) s

/-- COLL_MESSAGE_PROCESS (R200). -/
def execCollMessageProcess (port : Nat) (s : State) : Host.Outcome State Fault Refusal :=
  runIf (decide (port < 16)) (processNext port) s

/-! Cells (R209, R211, R215, R221). -/

/-- The sequence that starts next on a channel. -/
def nextSeq (k : Chan) : Nat :=
  match k.run, k.queue with
  | some r, _ => (r.desc.seq + 1) % 2 ^ 28
  | none, d :: _ => d.seq
  | none, [] => k.expect

/-- COL_CREDIT_RECEIVE: a credit of the running collective counts, one of the next is held, any other is discarded. -/
def takeCredit (port : Nat) (s : State) : State :=
  match takeDelivered (32 + port) (isKind 0x20) s with
  | none => s
  | some ((p, _), s) =>
    let s := ackCell p s
    let c := p.tag.toNat / 2 ^ 28
    let k := chanOf c s
    let key := creditKey (fieldAt p.payload 0 1 % 4) (fieldAt p.payload 1 1 % 4) (decide (fieldAt p.payload 2 1 = 1))
      (fieldAt p.payload 4 4 % 2 ^ 23)
    match (k.run.filter (fun r => decide (r.desc.tag = p.tag.toNat) && ! r.ended)) with
    | some _ => modRun c (fun r => { r with credits := tset false r.credits key true }) s
    | none =>
      if p.tag.toNat % 2 ^ 28 = nextSeq k then modChan c (fun k => { k with nextCredits := k.nextCredits ++ [(p.tag.toNat % 2 ^ 28, key)] }) s
      else countR .COL_CHAN_DISCARDS [c] s

/-- COL_CREDIT_RECEIVE (R211). -/
def execColCreditReceive (port : Nat) (s : State) : Host.Outcome State Fault Refusal :=
  runIf (decide (port < 16)) (takeCredit port) s

/-- COL_ABORT_RECEIVE: an abort of the running collective is taken with what it names; any other is discarded (R221, R222). -/
def takeAbort (port : Nat) (s : State) : State :=
  match takeDelivered (32 + port) (isKind 0x21) s with
  | none => s
  | some ((p, _), s) =>
    let s := ackCell p s
    let c := p.tag.toNat / 2 ^ 28
    match (chanOf c s).run.filter (fun r => decide (r.desc.tag = p.tag.toNat) && ! r.ended) with
    | some _ => collAbort c (fieldAt p.payload 0 1, fieldAt p.payload 1 1 % 4, fieldAt p.payload 2 1 % 16, fieldAt p.payload 4 4 % 32768)
        (fieldAt p.payload 8 8) s
    | none => countR .COL_CHAN_DISCARDS [c] s

/-- COL_ABORT_RECEIVE (R221). -/
def execColAbortReceive (port : Nat) (s : State) : Host.Outcome State Fault Refusal :=
  runIf (decide (port < 16)) (takeAbort port) s

/-! Stalls and aborts (R220, R221). -/

/-- A pitch of a level in progress awaits a message on a sub-ring. -/
def CollRun.awaitsData (r : CollRun) (l sub : Nat) : Bool :=
  [false, true].any (fun g => (List.range 2).any (fun i =>
    let k := r.doneAt l g + i
    r.desc.phaseUsed l g && decide (k < r.desc.npitch) &&
    (r.desc.stepsIn l g k).any (fun t => decide (t.sub = sub) && r.desc.incoming t && ! tget false r.got t.handle)))

/-- A pitch of a level in progress awaits a credit on a sub-ring. -/
def CollRun.awaitsCredit (r : CollRun) (l sub : Nat) (s : State) : Bool :=
  [false, true].any (fun g => (List.range 2).any (fun i =>
    let k := r.doneAt l g + i
    r.desc.phaseUsed l g && decide (k < r.desc.npitch) &&
    (r.desc.sends l g k).any (fun t => decide (t.sub = sub) && ! tget false r.sent t.handle && r.sendReady t s &&
      ! tget false r.credits (creditKey l sub g k))))

/-- The member waits on its own IN_BELAY: a pitch is left to read and IN is not there for it. -/
def CollRun.waitsIn (r : CollRun) (s : State) : Bool :=
  let k := r.doneAt (if r.desc.op = 2 then r.desc.top else 0) false
  decide (k < r.desc.npitch) && ! r.inReady k s

/-- COLL_WATCHDOG_EXPIRE: a level has waited WATCHDOG_US for a message or a credit of a sub-ring. -/
def stallColl (c l sub : Nat) (credit : Bool) (s : State) : State :=
  match (chanOf c s).run with
  | none => s
  | some r =>
    let d := r.desc
    if d.levels ≤ l || r.ended || decide (ropeState d.rope s = RopeSt.suspended) || r.waitsIn s ||
       ! (if credit then r.awaitsCredit l sub s else r.awaitsData l sub) then s
    else if credit then collAbort c (St.stalled, l, d.ahead l sub, d.toRank l sub) 0xFFFFFFFFFFFFFFFF s
    else collAbort c (St.stalled, l, d.behind l sub, d.fromRank l sub) 0xFFFFFFFFFFFFFFFF s

/-- COLL_WATCHDOG_EXPIRE (R220). -/
def execCollWatchdogExpire (chan level sub : Nat) (credit : Bool) (s : State) : Host.Outcome State Fault Refusal :=
  runIf (decide (chan < 16) && decide (level < 4) && decide (sub < 4)) (stallColl chan level sub credit) s

/-- The running collective of a channel aborts with CANCELLED, naming this member (R221). -/
def cancelColl (c : Nat) (s : State) : State :=
  match (chanOf c s).run with
  | none => s
  | some r => collAbort c (St.cancelled, 0, r.desc.pos 0, (ropeOf r.desc.rope s).rank) 0xFFFFFFFFFFFFFFFF s

/-- CHANNEL_ABORT (R221). -/
def execChannelAbort (fn : Requester) (chan : Nat) (s : State) : Host.Outcome State Fault Refusal :=
  runIf (decide (chan < 16) && fnAllowed fn (0x500000 + 0x100 * chan) s) (cancelColl chan) s

/-- Setting OWNED gives a channel to a rope and resets its expected sequence (R213). -/
def ownChannel (c owner : Nat) (s : State) : State :=
  noteChan c (modChan c (fun k => { k with expect := 0, nextCredits := [] })
    (setF F.COL_CHAN_CTRL_OWNED [c] 1 (setF F.COL_CHAN_CTRL_OWNER [c] owner s)))

/-- CHANNEL_OWN (R213). -/
def execChannelOwn (fn : Requester) (chan owner : Nat) (s : State) : Host.Outcome State Fault Refusal :=
  runIf (decide (chan < 16) && decide (owner < 16) && fnAllowed fn (0x500000 + 0x100 * chan) s) (ownChannel chan owner) s

/-! Completion (R224, R225). -/

/-- The status of a collective that has ended. -/
def CollRun.status (r : CollRun) : Nat :=
  match r.abort with
  | some a => a.1
  | none => if r.poisoned then St.poison else if r.nan.isSome then St.nanSeen else St.ok

/-- The completion record (R224). -/
def CollRun.record (r : CollRun) : List Byte :=
  let named := match r.abort, r.nan with
    | some a, _ => a.2
    | none, some n => (n.level, n.pos, n.rank)
    | none, none => (0, 0, 0x7FFF)
  natLe 1 r.status ++ natLe 1 (if r.abort.isSome then 1 else 0) ++ natLe 1 named.1 ++ natLe 1 named.2.1 ++
  natLe 2 (named.2.2 % 32768) ++ zeros 2 ++ natLe 8 (match r.nan with | some n => n.elem | none => 0xFFFFFFFFFFFFFFFF) ++
  natLe 4 r.pitches ++ zeros 12

/-- Write a completion record, update the channel registers, signal DONE_BELAY, report a status other than OK (R224, R470). -/
def endColl (c : Nat) (r : CollRun) (s : State) : Except Stop State :=
  match tryWr r.desc.who (r.desc.fld 40 6) r.record false s with
  | .error x => .error x
  | .ok s =>
    let s := setF F.COL_CHAN_STATUS_LAST_STATUS [c] r.status s
    let s := addF (if r.abort.isSome then F.COL_CHAN_COUNTS_ABORTED else F.COL_CHAN_COUNTS_DONE) [c] 1 s
    let s := match r.nan with
      | none => s
      | some n =>
        if getF F.COL_CHAN_NAN_VALID [c] s = 1 then s
        else setF F.COL_CHAN_NAN_VALID [c] 1 (setF F.COL_CHAN_NAN_ELEMENT [c] n.elem (setF F.COL_CHAN_NAN_ORIGIN_LEVEL [c] n.level
          (setF F.COL_CHAN_NAN_ORIGIN_POSITION [c] n.pos (setF F.COL_CHAN_NAN_ORIGIN_RANK [c] n.rank s))))
    let s := if r.status = St.ok then s
      else raiseEvent { status := r.status, cls := 3, source := 0x09, rope := some r.desc.rope, tag := r.desc.tag, unit := c,
                        detail := r.record.take 16 } s
    .ok (signalBy (528 + c) true (r.desc.fld 38 2) false 0 s)

/-- COLL_COMPLETE: the collective has ended and its messages are acknowledged or failed. -/
def completeColl (c : Nat) (s : State) : State :=
  match (chanOf c s).run with
  | none => s
  | some r =>
    if (r.ended || r.allDone) && decide (r.msgs = 0) then
      runAccess r.desc.who
        (match endColl c r s with
        | .error x => .error x
        | .ok s => .ok (noteChan c (modChan c (fun k => { k with run := none }) s)))
        (fun _ _ s => s) s
    else s

/-- COLL_COMPLETE (R224). -/
def execCollComplete (chan : Nat) (s : State) : Host.Outcome State Fault Refusal :=
  runIf (decide (chan < 16)) (completeColl chan) s

/-- Reset of a rope (R402): each of its channels aborts its running collective and completes its queue with CANCELLED. -/
def abortRopeColls (r : Nat) (s : State) : State :=
  forN 16 s (fun c s =>
    if ! chanOwnedBy c r s then s
    else
      let q := (chanOf c s).queue
      let s := modChan c (fun k => { k with
        queue := [], nextCredits := k.nextCredits.filter (fun x => ! q.any (fun d => decide (d.seq = x.1))) }) (cancelColl c s)
      let s := forList q s (fun d s =>
        let run : CollRun := { desc := d, abort := some (St.cancelled, 0, d.pos 0, (ropeOf r s).rank) }
        match endColl c run s with
        | .ok s => s
        | .error _ => s)
      noteChan c s)

end Sys2Proof.Machine
end

