-- ==== Sys2Proof/Machine/Memory.lean ====
section
/-! DEFINITION. The memory dies (chapter 13): the stored form and its errors (R347 to R349), modules, interleave and training
(R350 to R352), the patrol scrub (R354), the page table (R355, R356), the tier map (R357, R358), lending (R367 to R369). -/

namespace Sys2Proof.Machine

open Sys2Proof

/-! The page table (R355). -/

abbrev Pg.free : Nat := 0
abbrev Pg.rope : Nat := 1
abbrev Pg.shared : Nat := 2
abbrev Pg.lent : Nat := 3
abbrev Pg.scrubbing : Nat := 4
abbrev Pg.retired : Nat := 5

def pageEntry (p : Nat) (s : State) : BitVec 32 := tget 0 s.tables.pages p
def entryMaps (e : BitVec 32) : Nat := nbits 15 0 e.toNat
def entryIndex (e : BitVec 32) : Nat := nbits 19 16 e.toNat
def entryState (e : BitVec 32) : Nat := nbits 23 20 e.toNat

/-- A page entry. -/
def mkPage (state index maps : Nat) : BitVec 32 := BitVec.ofNat 32 (maps % 65536 + index % 16 * 65536 + state % 16 * 2 ^ 20)

/-- The listed page entries of a range. -/
def pagesIn (lo hi : Nat) (s : State) : List (Nat × BitVec 32) :=
  s.tables.pages.filter (fun (e : Nat × BitVec 32) => decide (lo ≤ e.1 ∧ e.1 ≤ hi))

/-- Give every page of a range one entry. -/
def fillPages (lo hi : Nat) (v : BitVec 32) (s : State) : State :=
  let t := s.tables.pages
  let mid := if v = 0 then [] else (List.range (hi + 1 - lo)).map (fun i => (lo + i, v))
  { s with tables := { s.tables with
    pages := tfilter (fun i => decide (i < lo)) t ++ mid ++ tfilter (fun i => decide (hi < i)) t } }

/-! Training (R350, R352). -/

/-- Training begins: the SPD of every module is read, type and speed are set, a module that is not accepted leaves its channel
unused (R350, R352). -/
def ddrStart (s : State) : State :=
  let s := setR .MEM_STATUS [0] 0 (setR .MEM_STATUS [1] 0 (setR .MEM_SYSTEM [] 0 s))
  let s := { s with bc := { s.bc with trained := [], full := [], ddrReady := false } }
  let s := forN 2 s (fun m s =>
    setF F.MEM_STATUS_TYPE [m] (if typeUsed s then 1 else 0) (setF F.MEM_STATUS_SPEED [m] (speedUsed s) s))
  forN 24 s (fun c s =>
    if (moduleOf c s).isSome && ! accepted c s then
      memEvent St.notPermitted 2 c 0xFF 0 { s with bc := { s.bc with trained := tset 0 s.bc.trained c 2 } }
    else s)

/-- What the training cache holds of the module of a channel: its serial number, socket and speed (R352). -/
def cacheKey (c : Nat) (s : State) : Option (Nat × Nat × Nat) := (moduleOf c s).map (fun d => (d.serial, c, speedUsed s))

/-- The cache entry of a channel is valid for its module (R352). -/
def cacheValid (c : Nat) (s : State) : Bool := (cacheKey c s).isSome && decide (tget none s.bc.cache c = cacheKey c s)

/-- Vuola rewrites the entries of the channels trained in full (R352). -/
def writeCache (s : State) : State :=
  { s with bc := { s.bc with cache := s.bc.full.foldl (fun t c => tset none t c (cacheKey c s)) s.bc.cache, full := [] } }

/-- The accepted channels that have not failed training: some, or the device stays in STANDBY (R350). -/
def channelsLeft (s : State) : Bool := (List.range 24).any (fun c => accepted c s && decide (tget 0 s.bc.trained c ≠ 2))

/-- A channel that waits for step 3 or step 4 of its training. -/
def trainingDue (c : Nat) (s : State) : Bool :=
  accepted c s && decide (tget 0 s.bc.trained c = 0 ∨ tget 0 s.bc.trained c = 3)

/-! The patrol scrub (R349, R354). -/

/-- The first line at or after `line` that die `m` scrubs: pages in RETIRED are skipped (`fuel` steps at most). -/
def nextLine (m : Nat) : Nat → Nat → State → Option (Nat × Nat)
  | 0, _, _ => none
  | fuel + 1, line, s =>
    match lineChannel (interleave s) 0 line with
    | none => none
    | some (c, unit, set) =>
      if entryState (pageEntry (line / 16384) s) = Pg.retired then nextLine m fuel ((line / 16384 + 1) * 16384) s
      else if c / 12 = m then some (line, c)
      else
        match (interleave s).find? (fun x => x.2.contains c) with
        | some x => nextLine m fuel (if x.2.any (fun k => decide (k / 12 = m)) then unit else set) s
        | none => none

/-- Enough steps to find a line. -/
def lineFuel (s : State) : Nat := lmaPages s + 64

/-- The patrol scrub of die `m` reads its next line, word after word; the error `upset` has struck the stored word `word` (place /
16) before (log 43). -/
def patrol (m : Nat) (upset : BitVec 160) (word : Nat) (s : State) : State :=
  let s := upsetWord word upset s
  if getF F.MEM_STATUS_READY [m] s = 0 ∨ deviceState s < Dv.lender then s
  else
    match nextLine m (lineFuel s) (tget 0 s.scrubPos m) s with
    | none => s
    | some (line, _) =>
      let s := findErrors (line * 128) 128 s
      match nextLine m (lineFuel s) (line + 1) s with
      | some (k, _) => { s with scrubPos := tset 0 s.scrubPos m k }
      | none => addF F.MEM_SCRUB_PASSES [m] 1 { s with scrubPos := tset 0 s.scrubPos m 0 }

/-- PATROL_SCRUB_READ (R354). -/
def execPatrolScrubRead (m : Nat) (upset : BitVec 160) (word : Nat) (s : State) : Host.Outcome State Fault Refusal :=
  runIf (decide (m < 2) && decide (word < 2 ^ 63)) (patrol m upset word) s

/-! Page commands (R356). -/

/-- The smallest of a list of pages. -/
def leastOf : List Nat → Option Nat
  | [] => none
  | a :: t => some (t.foldl min a)

/-- The first page of a range that refuses a change: MAPS above zero, SCRUBBING, or at or beyond the system region. -/
def badPage (lo hi : Nat) (s : State) : Option Nat :=
  let held := ((pagesIn lo hi s).filter (fun e => decide (0 < entryMaps e.2) || decide (entryState e.2 = Pg.scrubbing))).map (fun e => e.1)
  let sys := getF F.MEM_SYSTEM_SYS_PAGE [] s
  leastOf (held ++ (if sys ≤ hi then [max lo sys] else []))

/-- Page `k` of those of a range that are not in `own` (rising). -/
def nthOther (lo k : Nat) (own : List Nat) : Nat := own.foldl (fun p x => if x ≤ p then p + 1 else p) (lo + k)

/-- End a page command (R356). -/
def pageResult (status bad : Nat) (s : State) : State :=
  setF F.MEM_PAGE_RESULT_STATUS [] status (setF F.MEM_PAGE_RESULT_BAD_PAGE [] bad (setF F.MEM_PAGE_CMD_GO [] 0 s))

/-- Give the pages of a range a state: the LOCAL usage of the ropes follows (R370). -/
def changePages (lo hi state index : Nat) (s : State) : State :=
  let old := pagesIn lo hi s
  let held := fun (r : Nat) => (old.filter (fun e => decide (entryState e.2 = Pg.rope ∧ entryIndex e.2 = r))).length
  let s := forN 16 s (fun r s => setF F.MEM_QUOTA_USED [r, 0] (getF F.MEM_QUOTA_USED [r, 0] s - held r) s)
  let s := if state = Pg.rope then addF F.MEM_QUOTA_USED [index, 0] (hi + 1 - lo) s else s
  fillPages lo hi (mkPage state (if state = Pg.rope ∨ state = Pg.lent then index else 0) 0) s

/-- Run the command MEM_PAGE_CMD holds (R356). -/
def runPageCmd (s : State) : State :=
  let lo := getF F.MEM_PAGE_CMD_FIRST [] s
  let hi := lo + getF F.MEM_PAGE_CMD_COUNT [] s
  let st := getF F.MEM_PAGE_CMD_STATE [] s
  let ix := getF F.MEM_PAGE_CMD_INDEX [] s
  match badPage lo hi s with
  | some p => pageResult St.notPermitted p s
  | none =>
    if st = Pg.scrubbing ∨ Pg.retired < st then pageResult St.notPermitted lo s
    else
      let own := ((pagesIn lo hi s).filter (fun e => decide (entryState e.2 = Pg.rope ∧ entryIndex e.2 = ix))).map (fun e => e.1)
      let used := getF F.MEM_QUOTA_USED [ix, 0] s
      let limit := getF F.MEM_QUOTA_LIMIT [ix, 0] s
      let more := hi + 1 - lo - own.length
      if st = Pg.rope ∧ 0 < more ∧ limit < used + more then pageResult St.quotaExceeded (nthOther lo (limit - used) own) s
      else if st = Pg.free ∧ getF F.MEM_PAGE_CMD_SCRUB [] s = 1 then
        let s := changePages lo hi Pg.scrubbing 0 s
        { s with tables := { s.tables with scrubbing := some (lo, hi) } }
      else pageResult St.ok 0 (changePages lo hi st ix s)

/-- A write of MEM_PAGE_CMD: ignored while a command runs (R356). -/
def writePageCmd (v : Word) (s : State) : State :=
  if getF F.MEM_PAGE_CMD_GO [] s = 1 then s
  else
    let s := setR .MEM_PAGE_CMD [] (v &&& 0x83FE0FFFFFFFFFFF) s
    if v.getLsbD 63 then runPageCmd s else s

/-- PAGE_COMMAND. -/
def execPageCommand (fn : Requester) (value : BitVec 64) (s : State) : Host.Outcome State Fault Refusal :=
  runIf (fnAllowed fn 0x840008 s) (writePageCmd value) s

/-- PAGE_SCRUB_COMPLETE (R356): the last line is zero, the pages are FREE. -/
def execPageScrubComplete (s : State) : Host.Outcome State Fault Refusal :=
  runIf s.tables.scrubbing.isSome (fun s =>
    match s.tables.scrubbing with
    | none => s
    | some (lo, hi) =>
      let s := { s with mem := s.mem.clear (lo * 2 ^ 21) ((hi + 1 - lo) * 2 ^ 21),
                        tables := { s.tables with scrubbing := none } }
      pageResult St.ok 0 (fillPages lo hi 0 s)) s

/-! The tier map (R357, R358). -/

def tmValid (e : BitVec 128) : Bool := e.getLsbD 0
def tmTier (e : BitVec 128) : Nat := nbits 2 1 e.toNat
def tmWrite (e : BitVec 128) : Bool := e.getLsbD 3
/-- The LMA page of an entry. -/
def tmPage (e : BitVec 128) : Nat := nbits 127 64 e.toNat / 2 ^ 21

/-- A LOCAL entry names a page the rope may map. -/
def localOk (r : Nat) (e : BitVec 128) (s : State) : Bool :=
  let p := pageEntry (tmPage e) s
  decide (tmPage e < getF F.MEM_SYSTEM_SYS_PAGE [] s) &&
  (decide (entryState p = Pg.rope ∧ entryIndex p = r) || (decide (entryState p = Pg.shared) && ! tmWrite e))

/-- Change MAPS of a page. -/
def setMaps (p n : Nat) (s : State) : State :=
  let e := pageEntry p s
  { s with tables := { s.tables with pages := tset 0 s.tables.pages p (mkPage (entryState e) (entryIndex e) n) } }

/-- Valid entries of one tier in a list. -/
def countTier (t : Nat) (l : List (BitVec 128)) : Nat := (l.filter (fun e => tmValid e && decide (tmTier e = t))).length

/-- Write tier-map entries of rope `r` from page `first`: all of them, or none and the status (R358). -/
def tierMapWrite (r first : Nat) (es : List (BitVec 128)) (s : State) : Nat × State :=
  let old := (List.range es.length).map (fun i => tierEntry r (first + i) s)
  let quota := fun (q t : Nat) =>
    let now := countTier t es
    let was := countTier t old
    decide (was < now) && decide (getF F.MEM_QUOTA_LIMIT [r, q] s < getF F.MEM_QUOTA_USED [r, q] s + now - was)
  if es.any (fun e => e.getLsbD 4) || es.any (fun e => tmValid e && decide (tmTier e = 0) && ! localOk r e s) then (St.notPermitted, s)
  else if quota 1 1 || quota 2 2 then (St.quotaExceeded, s)
  else
    let isLocal := fun (e : BitVec 128) => tmValid e && decide (tmTier e = 0)
    let t := forList (old.filter isLocal) s (fun e s => setMaps (tmPage e) (entryMaps (pageEntry (tmPage e) s) - 1) s)
    let (overQuota, t) := (es.filter isLocal).foldl (fun (a : Bool × State) e =>
      let n := entryMaps (pageEntry (tmPage e) a.2) + 1
      if 65535 < n then (true, a.2) else (a.1, setMaps (tmPage e) n a.2)) (false, t)
    if overQuota then (St.quotaExceeded, s)
    else
      let t := forList (es.zipIdx) t (fun e t => { t with tables := { t.tables with
        tierMap := tset 0 t.tables.tierMap (r * 4194304 + first + e.2) e.1 } })
      let t := setF F.MEM_QUOTA_USED [r, 1] (getF F.MEM_QUOTA_USED [r, 1] t + countTier 1 es - countTier 1 old) t
      (0, setF F.MEM_QUOTA_USED [r, 2] (getF F.MEM_QUOTA_USED [r, 2] t + countTier 2 es - countTier 2 old) t)

/-! Lending (R367 to R369). -/

/-- Some lending window is open. -/
def windowsOpen (s : State) : Bool := (List.range 16).any (fun w => decide (getF F.MEM_LEND_CTRL_ENABLE [w] s = 1))

/-- Open window `w` if every page of its range is LENT to it; ENABLE reads 0 otherwise (R367). -/
def lendOpen (w : Nat) (s : State) : State :=
  let lo := getF F.MEM_LEND_RANGE_FIRST [w] s
  let n := getF F.MEM_LEND_RANGE_COUNT [w] s
  let l := (pagesIn lo (lo + n) s).filter (fun e => decide (entryState e.2 = Pg.lent ∧ entryIndex e.2 = w))
  if l.length = n + 1 then
    let s := setF F.MEM_LEND_CTRL_ENABLE [w] 1 s
    if deviceState s = Dv.idle then setDeviceState Dv.lender s else s
  else setF F.MEM_LEND_CTRL_ENABLE [w] 0 s

/-- LEND_WINDOW_OPEN (R367). -/
def execLendWindowOpen (fn : Requester) (win : Nat) (s : State) : Host.Outcome State Fault Refusal :=
  runIf (decide (win < 16) && fnAllowed fn (regOff .MEM_LEND_CTRL [win]) s) (lendOpen win) s

/-- LEND_WINDOW_CLOSE (R367). -/
def execLendWindowClose (fn : Requester) (win : Nat) (s : State) : Host.Outcome State Fault Refusal :=
  runIf (decide (win < 16) && fnAllowed fn (regOff .MEM_LEND_CTRL [win]) s) (setF F.MEM_LEND_CTRL_ENABLE [win] 0) s

/-- The LMA of an access to an open window, if the lender serves it (R368). -/
def lentPlace (p : Packet) (h off n : Nat) (write : Bool) (s : State) : Option Nat :=
  let w := h / 2 ^ 28 % 16
  let page := h % 2 ^ 28
  if getF F.MEM_LEND_CTRL_ENABLE [w] s = 1 ∧ getF F.MEM_LEND_CTRL_BORROWER [w] s = p.src.toNat ∧
     getF F.MEM_LEND_CTRL_JOB [w] s = p.job.toNat % 4096 ∧ page ≤ getF F.MEM_LEND_RANGE_COUNT [w] s ∧
     off + n ≤ 2 ^ 21 ∧ (write = false ∨ getF F.MEM_LEND_CTRL_WRITE [w] s = 1) then
    some ((getF F.MEM_LEND_RANGE_FIRST [w] s + page) * 2 ^ 21 + off)
  else none

/-- Send an MRESP (R368). TAG 0 carries data; 1 refuses a read, 2 refuses the write whose request tag is HANDLE (log 40). -/
def sendMresp (m : Nat) (p : Packet) (handle : BitVec 32) (tag off : Nat) (ws : Words) (s : State) : State :=
  let t : Packet := { ty := 4, vc := 1, job := p.job, handle := handle, tag := BitVec.ofNat 32 tag }
  queueMsg ⟨.lender m, none, p.src, 24 + m, packWords t off ws, 0⟩ s

/-- Refuse a request of a borrower (R368). -/
def lendReject (m : Nat) (p : Packet) (handle : BitVec 32) (tag off n : Nat) (s : State) : State :=
  sendMresp m p handle tag off (List.replicate n (zeros 16, true)) (addF F.MEM_LEND_COUNTS_REJECTED [] 1 s)

/-- The words of memory from a place. -/
def memWords (p n : Nat) (s : State) : Words :=
  (List.range n).map (fun i => (s.mem.bytes (p + 16 * i) 16, s.mem.anyPoison (p + 16 * i) 16))

/-- A lender takes an MREAD (R368). -/
def mreadStep (m : Nat) (s : State) : State :=
  match takeDelivered (24 + m) (isKind 0x13) s with
  | none => s
  | some ((p, _), s) =>
    let s := ackCell p s
    let h := fieldAt p.payload 0 4
    let off := fieldAt p.payload 4 4
    let n := fieldAt p.payload 8 4
    if n < 128 ∨ 65536 < n ∨ n % 128 ≠ 0 then lendReject m p p.tag 1 0 8 s
    else
      match lentPlace p h off n false s with
      | some a => let s := findErrors a n s; sendMresp m p p.tag 0 0 (memWords a (n / 16) s) s
      | none => lendReject m p p.tag 1 0 (n / 16) s

/-- MREAD_RECEIVE (R368). -/
def execMreadReceive (m : Nat) (s : State) : Host.Outcome State Fault Refusal := runIf (decide (m < 2)) (mreadStep m) s

/-- A packet of an MWRITE reaches the lender (R164, R368). -/
def mwritePacket (p : Packet) (s : State) : State :=
  match lentPlace p p.handle.toNat p.offset.toNat p.payload.length true s with
  | none => s
  | some a =>
    let s := findEdges a p.payload.length s
    { s with mem := if p.poison then Mem.poisonRange (p.payload.length + 1) s.mem a p.payload.length else s.mem.write a p.payload }

/-- An MWRITE is complete: one that was refused is answered with poison (R368). -/
def mwriteMessage (parts : List Packet) (s : State) : State :=
  match parts with
  | [] => s
  | p :: _ =>
    if (lentPlace p p.handle.toNat p.offset.toNat p.payload.length true s).isSome then s
    else lendReject 0 p p.tag 2 p.offset.toNat 1 s

/-- A write to lent memory fails: the lender is lost and the writing rope stops (R369); what the pool manager loses with it is
settled by itself (R381). -/
def writeLost (lender : Nat) (req : BitVec 32) (s : State) : State :=
  let s := addF F.MEM_LEND_COUNTS_LOST [] 1 (lenderLost lender s)
  match s.writes.find? (fun x => decide (x.req = req)) with
  | none => s
  | some x =>
    let s := { s with writes := s.writes.filter (fun y => decide (y.req ≠ req)) }
    if poolWriter x s then poolWriteLost x s else writerStop x s

/-- A request or write to a lender fails under R171 (R369). -/
def lendLost (u : MsgUnit) (dest : BitVec 16) (s : State) : State :=
  match u with
  | .read q =>
    (match s.reads.find? (fun r => decide (r.req = q)) with
    | some r => lenderLost r.lender s
    | none => s)
  | .write _ _ _ q => writeLost dest.toNat q s
  | _ => s

/-- The pool requests of functions that wait for lent memory run again (R379). -/
def retryRequests (s : State) : State :=
  forN 17 s (fun i s =>
    match (tget ({} : Fn) s.fns i).bpmReq with
    | some (op, owner, h) => bpmRequest (.fn (if i = 16 then .pf else .vf i)) op owner h s
    | none => s)

/-- An MRESP is complete at the borrower (R368, R369). -/
def mrespMessage (parts : List Packet) (s : State) : State :=
  match parts with
  | [] => s
  | p :: _ =>
    if p.tag = 2 then writeLost p.src.toNat p.handle s
    else
      match s.reads.find? (fun r => decide (r.req = p.handle) && decide (r.lender = p.src.toNat)) with
      | none => s
      | some r =>
        if p.tag = 1 then lenderLost r.lender s
        else
          let ws := (sortBy (fun a b => decide (a.pseq.toNat < b.pseq.toNat)) parts).flatMap payloadWords
          let bad := ((ws.zipIdx).filter (fun x => x.1.2)).map (fun x => x.2)
          settleSlots (retryRequests { s with
            reads := s.reads.map (fun x => if x.req = r.req then { x with answer := some (wordBytes ws, bad) } else x) })

end Sys2Proof.Machine
end

