-- ==== Sys2Proof/Machine/Xe.lean ====
section
/-! DEFINITION. The commands of the exchange engine (chapter 03): EXCHANGE, CANCEL_BATCH, the cells it takes, the grant phase,
bulk and return messages, timeout and completion; and what it does when packets, messages and acknowledgements reach it. -/

namespace Sys2Proof.Machine

open Sys2Proof

/-! Accepting instructions (R64). -/

/-- The instruction an XE takes next: ropes round robin, each rope's first, its waits held; an EXCHANGE of a rope with 4
active tags waits and is passed over (R64). -/
def pickXe (die : Nat) (s : State) : Option (Nat × DieEntry) :=
  pickEntry (xeOf die s).lastRope false (fun d => decide (wf32 d.e.w0 27 20 = 2 ∨ activeTags die d.rope s < 4)) (xeOf die s).queue s

/-- Entry `i` of an XE's queue has begun. -/
def beginXe (die i : Nat) (s : State) : State := modXe die (fun x => { x with queue := beginAt i x.queue }) s

/-- An instruction of an XE as a unit (R263). -/
def xeWho (die : Nat) (x : DieEntry) : Who :=
  { reach := .die, rope := x.rope, core := x.core, id := 520 + die, tag := x.e.tag, pc := x.e.pc }

/-- Take entry `i` off an XE's queue. -/
def popXe (die i r : Nat) (s : State) : State :=
  let q := xeOf die s
  setF F.XE_STATUS_QUEUED [die] (q.queue.length - 1)
    (modXe die (fun x => { x with queue := dropAt x.queue i, lastRope := r }) s)

/-- A fault of R67. -/
def exchangeFault (die : Nat) (x : DieEntry) (st a : Nat) (s : State) : State :=
  let s := setF F.XE_STATUS_LAST_STATUS [die] st s
  let s := if getF F.XE_FAULT_VALID [die] s = 1 then s
    else setF F.XE_FAULT_VALID [die] 1 (setF F.XE_FAULT_ROPE [die] x.rope (setF F.XE_FAULT_STATUS [die] st
      (setF F.XE_FAULT_TAG [die] x.e.tag.toNat s)))
  engineFault x.rope x.core 6 x.e.tag x.e.pc st a s

/-- The runs of a count output (R56): rank and slot with the place of the first record. -/
def runsOf (head dests runs : List Byte) : List XRun :=
  let nd := fieldAt head 0 4
  let nr := fieldAt head 4 4
  (List.range nd).flatMap (fun k =>
    let r0 := fieldAt dests (16 * k + 12) 4
    let r1 := if k + 1 < nd then fieldAt dests (16 * (k + 1) + 12) 4 else nr
    ((List.range (r1 - r0)).foldl (fun (acc : List XRun × Nat) j =>
        let n := fieldAt runs (8 * (r0 + j) + 4) 4
        (acc.1 ++ [⟨fieldAt dests (16 * k) 2 % 32768, fieldAt runs (8 * (r0 + j)) 2 % 16384, acc.2, n⟩], acc.2 + n))
      ([], fieldAt dests (16 * k + 4) 4)).1)

/-- Read the descriptor of an EXCHANGE and check what it says (R65, R67). -/
def readExch (die : Nat) (x : DieEntry) (s : State) : Except Stop Exch :=
  let w := xeWho die x
  let a := x.e.opA.toNat
  if a % 64 ≠ 0 then .error (.fault St.notPermitted a)
  else
    match rdGood w a 128 s with
    | .error e => .error e
    | .ok bs =>
      let e : Exch := { tag := BitVec.ofNat 32 (fieldAt bs 0 4), rope := x.rope, ent := x.e, core := x.core, desc := bs }
      if ! e.descOk (repro x.rope s) || ! e.belaysOk s || decide (indexOf (ropeDies x.rope s) die ≠ some e.own) ||
          (activeExch die e.tag s).isSome || (e.pools 70 s).isEmpty || (e.pools 74 s).isEmpty then
        .error (.fault St.notPermitted 0)
      else
        match rdGood w (e.fld 10 6) 16 s with
        | .error e => .error e
        | .ok head =>
          let nd := fieldAt head 0 4
          let nr := fieldAt head 4 4
          let n := fieldAt head 8 4
          match rdGood w (e.fld 10 6 + 16) (16 * nd + 8 * nr) s with
          | .error e => .error e
          | .ok body =>
            match rdGood w (e.fld 4 6) (16 * n) s with
            | .error e => .error e
            | .ok dl =>
              if ! e.inReach w n (repro x.rope s) s then .error (.fault St.notPermitted 0)
              else .ok { e with
                dlist := dl, nrec := n, runs := runsOf head (body.take (16 * nd)) (body.drop (16 * nd)) }

/-- OUT rows of all tokens are +0 (R85). -/
def zeroOut (die : Nat) (e : Exch) (s : State) : Except Stop State :=
  foldE (List.range e.tokens) s (fun t s => wr (e.who die) (e.fld 32 6 + t * (e.fld 38 2 * 64)) (zeros (4 * e.elems)) s)

/-- The count cells of every stream, by rank and then receiving die (R68, R69). -/
def sendCounts (die : Nat) (t : BitVec 32) (s : State) : Except Stop State :=
  match activeExch die t s with
  | none => .ok s
  | some e =>
    foldE (List.range e.n) s (fun k s =>
      let entries := (e.runs.filter (fun r => decide (e.streamOf r = k))).map (fun r =>
        natLe 4 (r.slot * 2 ^ 18 + r.count % 2 ^ 18))
      foldE (cellPayloads 10 e.own (k % e.d) entries) s (fun p s =>
        match activeExch die t s with
        | some e => if e.cutOut k then .ok s else sendXCell die t 1 k p s
        | none => .ok s))

/-- A count cell of an active tag: duplicates are discarded (R70); its words give the rows offered (R69). -/
def takeCount (e : Exch) (k : Nat) (p : Packet) : Exch :=
  let num := fieldAt p.payload 2 2
  let seen := tget [] e.cntSeen k
  if seen.contains num then e
  else
    let pairs := (List.range (min 10 (fieldAt p.payload 4 1))).map (fun i => fieldAt p.payload (8 + 4 * i) 4)
    let e := { e with
      cntSeen := tset [] e.cntSeen k (insertNat num seen),
      offered := pairs.foldl (fun o w => tset 0 o (w / 2 ^ 18 * e.n + k) (w % 2 ^ 18)) e.offered }
    if fieldAt p.payload 5 1 % 2 = 1 then { e with cntTotal := tset 0 e.cntTotal k (fieldAt p.payload 6 2) } else e

/-- The stream of a cell, by its sender's rank and the die index in its payload. -/
def cellStream (e : Exch) (p : Packet) (dieByte : Nat) (s : State) : Option Nat :=
  match addrRank e.rope p.src s with
  | none => none
  | some r => if r < e.rankBins ∧ fieldAt p.payload dieByte 1 % 8 < e.d then some (r * e.d + fieldAt p.payload dieByte 1 % 8) else none

/-- Apply a count cell to the active exchange of its tag. -/
def applyCount (die : Nat) (p : Packet) (s : State) : State :=
  match activeExch die p.tag s with
  | none => s
  | some e =>
    match cellStream e p 0 s with
    | none => s
    | some k => modExch die p.tag (fun e => takeCount e k p) s

/-- Accept an exchange (R68, R85, R90): DISPATCHED counts its records, OUT is zeroed, the count cells go out, early cells
apply; for a retired tag every record is cancelled and nothing is sent. -/
def acceptExch (die : Nat) (e : Exch) (s : State) : Except Stop State :=
  match zeroOut die e s with
  | .error x => .error x
  | .ok s =>
    let old := isRetired die e.tag s
    let s := addF F.XE_LEDGER_DISPATCHED_DISPATCHED [die, e.rope] e.nrec s
    let s := addF F.XE_LEDGER_INFLIGHT_INFLIGHT [die, e.rope] e.nrec s
    let s := modXe die (fun x => { x with active := x.active ++ [e] }) s
    if old then
      let s := resolve die e.tag 3 (List.range e.nrec) s
      .ok (modExch die e.tag (fun e => { e with finished := some St.cancelled }) s)
    else
      match sendCounts die e.tag (noteXe die s) with
      | .error x => .error x
      | .ok s =>
        let mine := (xeOf die s).early.filter (fun p => sameTag p.tag e.tag)
        let s := modXe die (fun x => { x with early := x.early.filter (fun p => ! sameTag p.tag e.tag) }) s
        resolveTokens die e.tag (List.range e.tokens) (forList mine s (fun p s => applyCount die p s))

/-- EXCHANGE over the instruction whose turn it is. -/
def exchangeStep (die : Nat) (s : State) : State :=
  match pickXe die s with
  | none => s
  | some (i, x) =>
    if wf32 x.e.w0 27 20 ≠ 1 then s
    else
      let p := popXe die i x.rope s
      let r := match readExch die x s with | .error e => .error e | .ok e => acceptExch die e p
      runAccess (xeWho die x) r (fun st a _ => exchangeFault die x st a p) (if isNeed r then beginXe die i s else s)

/-- EXCHANGE (R68). -/
def execExchange (die : Nat) (s : State) : Host.Outcome State Fault Refusal := runIf (decide (die < 8)) (exchangeStep die) s

/-- CANCEL_BATCH of a tag (R90): an active tag is cut short; any other is only retired, with its early cells (R71). -/
def cancelTag (die r : Nat) (t : BitVec 32) (s : State) : Except Stop State :=
  if tagRope t ≠ r then .ok s
  else if (activeExch die t s).isSome then cancelExch die t St.cancelled true s
  else
    let n := ((xeOf die s).early.filter (fun p => sameTag p.tag t)).length
    let s := modXe die (fun x => { x with early := x.early.filter (fun p => ! sameTag p.tag t) }) s
    .ok (countR .XE_CANCELS [die] (retireTag die (t &&& 0xFFFFFFF0) (addF F.XE_CELL_DISCARDED_COUNT [die] n s)))

/-- CANCEL_BATCH over the instruction whose turn it is. -/
def cancelStep (die : Nat) (s : State) : State :=
  match pickXe die s with
  | none => s
  | some (i, x) =>
    if wf32 x.e.w0 27 20 ≠ 2 then s
    else
      let p := popXe die i x.rope s
      let r := match cancelTag die x.rope (BitVec.ofNat 32 x.e.opA.toNat) p with
        | .error e => .error e
        | .ok t => .ok (setF F.XE_STATUS_LAST_STATUS [die] 0 (signalEntry (520 + die) x.rope x.core x.e t))
      runAccess (xeWho die x) r (fun _ _ s => s) (if isNeed r then beginXe die i s else s)

/-- CANCEL_BATCH (R90). -/
def execCancelBatch (die : Nat) (s : State) : Host.Outcome State Fault Refusal := runIf (decide (die < 8)) (cancelStep die) s

/-! Cells (R70, R71, R77, R91). -/

/-- The first cell at an XE's delivery port, if it is of kind `k`. -/
def headCell (die k : Nat) (s : State) : Option (Packet × State) :=
  match takeDelivered (16 + die) (fun p => p.isCell) s with
  | none => none
  | some ((p, _), s) => if isKind k p then some (p, s) else none

/-- Acknowledge and discard a cell, counted (R66, R71, R89). -/
def discardCell (die : Nat) (p : Packet) (s : State) : State := ackCell p (countR .XE_CELL_DISCARDED [die] s)

/-- XCOUNT_RECEIVE over the first cell: to its active exchange, or into the early-cell store while it has room (R70, R71). DESIGN
CHOICE (log 69): a second copy of a cell whose tag is not active takes a place of its own in the store. -/
def xcountStep (die : Nat) (s : State) : State :=
  match headCell die 1 s with
  | none => s
  | some (p, t) =>
    if p.tag.toNat % 8 ≠ 0 then discardCell die p t
    else if (activeExch die p.tag t).isSome then ackCell p (applyCount die p t)
    else if isRetired die p.tag t then discardCell die p t
    else if (xeOf die t).early.length < 1024 then ackCell p (modXe die (fun x => { x with early := x.early ++ [p] }) t)
    else s

/-- XCOUNT_RECEIVE (R70). -/
def execXcountReceive (die : Nat) (s : State) : Host.Outcome State Fault Refusal := runIf (decide (die < 8)) (xcountStep die) s

/-- EARLY_CELL_EXPIRE (R71): the stored cell has waited XE_TIMEOUT. -/
def execEarlyCellExpire (die idx : Nat) (s : State) : Host.Outcome State Fault Refusal :=
  runIf (decide (die < 8) && decide (idx < (xeOf die s).early.length)) (fun s =>
    countR .XE_CELL_DISCARDED [die] (modXe die (fun x => { x with early := dropAt x.early idx }) s)) s

/-- A grant entry (R75). -/
def grantEntry (bs : List Byte) : Nat × Nat × XGrant :=
  (fieldAt bs 0 2 % 16384, fieldAt bs 0 2 / 16384, ⟨fieldAt bs 2 3, fieldAt bs 5 3, BitVec.ofNat 32 (fieldAt bs 8 4)⟩)

/-- Take the entries of a grant cell of stream `k` (R70, R75). -/
def takeGrant (e : Exch) (k : Nat) (p : Packet) : Exch :=
  let num := fieldAt p.payload 2 2
  let seen := tget [] e.grSeen k
  if seen.contains num then e
  else
    let es := (List.range (min 3 (fieldAt p.payload 4 1))).map (fun i => grantEntry ((p.payload.drop (8 + 12 * i)).take 12))
    let e := { e with
      grSeen := tset [] e.grSeen k (insertNat num seen),
      poolEmpty := e.poolEmpty || es.any (fun g => decide (g.2.1 = 2)),
      grantEnts := es.foldl (fun o g => tset ⟨0, 0, noHandle⟩ o (k / e.d * 16384 + g.1) g.2.2) e.grantEnts }
    if fieldAt p.payload 5 1 % 2 = 1 then { e with grTotal := tset 0 e.grTotal k (fieldAt p.payload 6 2) } else e

/-- What a run was granted; none in a complete grant is nothing. -/
def Exch.grantOf (e : Exch) (r : XRun) : XGrant := tget ⟨0, 0, noHandle⟩ e.grantEnts (r.rank * 16384 + r.slot)

/-- The distinct cells of a stream are all counted (R70). -/
def allSeen (seen : Tab (List Nat)) (total : Tab Nat) (k : Nat) : Bool :=
  decide (0 < tget 0 total k) && decide ((tget [] seen k).length = tget 0 total k)

/-- A complete grant of a stream (R73, R77): receive offsets of the admitted records, DECLINED on the others. -/
def grantDone (die : Nat) (t : BitVec 32) (k : Nat) (s : State) : Except Stop State :=
  match activeExch die t s with
  | none => .ok s
  | some e =>
    let s := modExch die t (fun e => { e with streamsDone := insertNat k e.streamsDone }) s
    match foldE (e.runs.filter (fun r => decide (e.streamOf r = k))) s (fun r s =>
      let g := e.grantOf r
      let adm := min g.admitted r.count
      let put := fun (i : Nat) (s : State) =>
        let p := r.first + i
        tryWr (e.who die) (e.fld 4 6 + 16 * p + 12)
          (if i < adm then natLe 3 (g.offset + i) ++ natLe 1 (e.flags p)
           else (e.dlist.drop (16 * p + 12)).take 3 ++ natLe 1 (e.flags p / 4 * 4 + 2 + e.flags p % 2)) false s
      match foldE (List.range r.count) s put with
      | .error x => .error x
      | .ok s =>
        let dec := (List.range (r.count - adm)).map (fun i => r.first + adm + i)
        .ok (resolve die t 2 dec (modExch die t (fun e => { e with declined := e.declined || ! dec.isEmpty }) s))) with
    | .error x => .error x
    | .ok s => resolveTokens die t ((e.streamRecs k).map e.row) s

/-- XGRANT_RECEIVE over the first cell (R77, R89). -/
def xgrantStep (die : Nat) (s : State) : State :=
  match headCell die 2 s with
  | none => s
  | some (p, t) =>
    match activeExch die p.tag t with
    | none => discardCell die p t
    | some e =>
      if p.tag.toNat % 8 ≠ 0 then discardCell die p t
      else
        match cellStream e p 1 t with
        | none => discardCell die p t
        | some k =>
          if e.cutOut k || e.streamsDone.contains k then ackCell p t
          else
            let t := modExch die p.tag (fun e => takeGrant e k p) t
            match activeExch die p.tag t with
            | none => ackCell p t
            | some e2 =>
              if ! allSeen e2.grSeen e2.grTotal k then ackCell p t
              else runAccess (e.who die) ((grantDone die p.tag k t).map (ackCell p)) (fun _ _ s => s) s

/-- XGRANT_RECEIVE (R77). -/
def execXgrantReceive (die : Nat) (s : State) : Host.Outcome State Fault Refusal := runIf (decide (die < 8)) (xgrantStep die) s

/-- XCANCEL_RECEIVE over the first cell (R91): from an origin its rows are voided, from a receiver its records cancelled. -/
def xcancelStep (die : Nat) (s : State) : State :=
  match headCell die 3 s with
  | none => s
  | some (p, t) =>
    match (if p.tag.toNat % 8 ≠ 0 then none else activeExch die p.tag t) with
    | none => ackCell p t
    | some e =>
      match cellStream e p 0 t with
      | none => ackCell p t
      | some k =>
        if fieldAt p.payload 0 1 / 128 = 1 then
          runAccess (e.who die) ((freeSlots die p.tag (cutReceiver die p.tag k t)).map (ackCell p)) (fun _ _ s => s) s
        else
          runAccess (e.who die) ((cutOrigin die p.tag k t).map (ackCell p)) (fun _ _ s => s) s

/-- XCANCEL_RECEIVE (R91). -/
def execXcancelReceive (die : Nat) (s : State) : Host.Outcome State Fault Refusal := runIf (decide (die < 8)) (xcancelStep die) s

/-! The grant phase (R72 to R76). -/

/-- Every stream's count is complete, or the stream is cut. -/
def Exch.countsComplete (e : Exch) : Bool :=
  (List.range e.n).all (fun k => e.cutIn k || allSeen e.cntSeen e.cntTotal k)

/-- The largest buffer of a list of pools. -/
def largestBuffer (ps : List Nat) (s : State) : Nat := (ps.map (fun p => poolSize p s)).foldl max 0

/-- The capacity limit of R72. -/
def Exch.capLimit (e : Exch) (s : State) : Nat :=
  let lim := min (largestBuffer (e.pools 70 s) s / e.rowB) (largestBuffer (e.pools 74 s) s / e.ansB)
  if e.fld 68 2 ≠ 0 ∧ e.fld 68 2 ≤ lim then e.fld 68 2 else lim

/-- A buffer of at least `n` bytes from the first listed pool that has one (R74). DESIGN CHOICE (log 69): pools listed in another
order than R65 asks for are tried as they are listed. -/
def firstBuffer (die : Nat) (n : Nat) : List Nat → State → Except Stop (Option (BitVec 32) × State)
  | [], s => .ok (none, s)
  | p :: t, s =>
    if poolSize p s < n then firstBuffer die n t s
    else
      match bpmAllocNow die p (520 + die) s with
      | .error e => .error e
      | .ok (some h, s) => .ok (some h, s)
      | .ok (none, s) => firstBuffer die n t s

/-- The two buffers of a slot that admits `m` rows; neither when one cannot be had (R74). -/
def slotBuffers (die : Nat) (e : Exch) (m : Nat) (s : State) : Except Stop (Option (BitVec 32 × BitVec 32) × State) :=
  match firstBuffer die (m * e.rowB) (e.pools 70 s) s with
  | .error x => .error x
  | .ok (none, s) => .ok (none, s)
  | .ok (some rx, s) =>
    match firstBuffer die (m * e.ansB) (e.pools 74 s) s with
    | .error x => .error x
    | .ok (some a, s) => .ok (some (rx, a), s)
    | .ok (none, s) =>
      match giveBack die rx s with
      | .error x => .error x
      | .ok s => .ok (none, s)

/-- Rows offered to a slot by each origin; a cut stream offers none. -/
def Exch.offers (e : Exch) (slot : Nat) : List Nat :=
  (List.range e.n).map (fun o => if e.cutIn o then 0 else tget 0 e.offered (slot * e.n + o))

/-- Grant one slot (R72 to R74). -/
def grantSlot (die : Nat) (t : BitVec 32) (slot : Nat) (s : State) : Except Stop State :=
  match activeExch die t s with
  | none => .ok s
  | some e =>
    let c := e.offers slot
    let a := admitRows c (e.capLimit s) (nbits 19 4 t.toNat)
    let m := a.sum
    let s := addF F.XE_DECL_CAP_COUNT [die] (c.sum - m) s
    let none_ : SlotRx := { offered := c.sum, adm := c.map (fun _ => 0), off := c.map (fun _ => 0) }
    let put := fun (x : SlotRx) (s : State) => modExch die t (fun e => { e with
      slots := tset {} e.slots slot x, rxAdm := e.rxAdm + x.admitted, rxDecl := e.rxDecl + (c.sum - x.admitted) }) s
    if m = 0 then .ok (put none_ s)
    else
      match slotBuffers die e m s with
      | .error x => .error x
      | .ok (none, s) => .ok (put { none_ with poolEmpty := true } (addF F.XE_DECL_POOL_COUNT [die] m s))
      | .ok (some b, s) =>
        .ok (put { offered := c.sum, admitted := m, adm := a, off := offsetsOf 0 a, rx := some b.1, ans := some b.2 } s)

/-- An entry of the receive summary (R76). -/
def summaryEntry (x : SlotRx) : List Byte :=
  natLe 4 (x.rx.getD noHandle).toNat ++ natLe 4 (x.ans.getD noHandle).toNat ++ natLe 4 x.offered ++ natLe 4 x.admitted ++
  natLe 2 x.chunks ++ natLe 1 (if x.poolEmpty then St.poolEmpty else if x.admitted < x.offered then St.declined else St.ok) ++ zeros 13

/-- The grant entries of origin `o`: one for each slot it offered rows to (R75). -/
def grantEntries (e : Exch) (o : Nat) : List (List Byte) :=
  e.homed.filterMap (fun slot =>
    let c := tget 0 e.offered (slot * e.n + o)
    if c = 0 then none
    else
      let x := tget ({} : SlotRx) e.slots slot
      let a := x.adm.getD o 0
      let reason := if x.poolEmpty then 2 else if a < c then 1 else 0
      some (natLe 2 (slot + reason * 16384) ++ natLe 3 a ++ natLe 3 (x.off.getD o 0) ++
        natLe 4 (if a = 0 then noHandle else x.rx.getD noHandle).toNat))

/-- The grant cells, in ascending origin order (R76). -/
def sendGrants (die : Nat) (t : BitVec 32) (s : State) : Except Stop State :=
  match activeExch die t s with
  | none => .ok s
  | some e =>
    foldE (List.range e.n) s (fun o s =>
      foldE (cellPayloads 3 (o % e.d) e.own (grantEntries e o)) s (fun p s =>
        match activeExch die t s with
        | some e => if e.cutIn o then .ok s else sendXCell die t 2 o p s
        | none => .ok s))

/-- Every slot granted: belays zeroed, summary written, GRANT_BELAY incremented, grants sent (R76). -/
def grantAll (die : Nat) (t : BitVec 32) (s : State) : Except Stop State :=
  match activeExch die t s with
  | none => .ok s
  | some e0 =>
    match foldE e0.homed s (fun slot s => grantSlot die t slot s) with
    | .error x => .error x
    | .ok s =>
      let s := forList e0.homed s (fun slot s => setDevBelay (e0.belay 88 slot) 0 (setDevBelay (e0.belay 86 slot) 0 s))
      match activeExch die t s with
      | none => .ok s
      | some e =>
        let sum := (List.range e.spd).flatMap (fun k => summaryEntry (tget {} e.slots (e.own * e.spd + k)))
        match tryWr (e.who die) (e.fld 78 6) sum false s with
        | .error x => .error x
        | .ok s =>
          let s := signalBy (520 + die) true (e.fld 84 2) false 0 s
          let s := noteChunks die t (modExch die t (fun e => { e with granted := true }) s)
          sendGrants die t s

/-- GRANT_PHASE for a tag whose counts are complete. -/
def grantStep (die : Nat) (t : BitVec 32) (s : State) : State :=
  match activeExch die t s with
  | none => s
  | some e =>
    if e.granted || ! e.countsComplete then s
    else runAccess (e.who die) (grantAll die e.tag s) (fun _ _ s => s) s

/-- GRANT_PHASE (R72). -/
def execGrantPhase (die : Nat) (tag : BitVec 32) (s : State) : Host.Outcome State Fault Refusal :=
  runIf (decide (die < 8)) (grantStep die tag) s

/-! Bulk and return messages (R78 to R84). -/

/-- The stream whose turn it is after stream `last` of its phase: round robin by message over active tags and streams (R80). -/
def nextStream (last : Nat) (keys : List Nat) : Option Nat :=
  match (keys.filter (fun k => decide (last < k))).foldl (fun m k => match m with | none => some k | some x => some (min x k)) (none : Option Nat) with
  | some k => some k
  | none => keys.foldl (fun m k => match m with | none => some k | some x => some (min x k)) none

/-- The number of a stream among those of every tag. -/
def streamKey (e : Exch) (k : Nat) : Nat := e.tag.toNat / 16 * 2 ^ 18 + k + 1

/-- The fixed line of the exchange's plan to a destination for a phase: its number (R79, R157). DESIGN CHOICE (log 69): of several
such lines the one in the lowest entry. -/
def planLine (e : Exch) (dest : Option (BitVec 16)) (phase : Nat) (s : State) : Option Nat :=
  let plan := e.fld 67 1
  match dest with
  | none => none
  | some a =>
    if 64 ≤ plan then none
    else
      let bank := if (getR .SW_PLAN_BANK [] s).getLsbD plan then 1 else 0
      let dir : BitVec 64 := tget 0 s.tables.planDir (plan * 2 + bank)
      (List.range (bits 26 16 dir)).findSome? (fun i =>
        let x : BitVec 128 := tget 0 s.tables.planLine ((plan * 2 + bank) * 1024 + i)
        if bits 11 0 dir = ropeJob e.rope s ∧ nbits 27 16 x.toNat = ropeJob e.rope s ∧ nbits 47 32 x.toNat = a.toNat ∧
           nbits 55 48 x.toNat = 0x10 ∧ nbits 88 88 x.toNat = phase then some (nbits 9 0 x.toNat) else none)

/-- Hand a message of an exchange to the device (R78, R79, R83): on a line, adaptive, or ordered; FLOW off a line names the
addressed die (log 12), on a line packets carry at most 3,952 bytes (R156). -/
def sendBulk (die : Nat) (e : Exch) (u : MsgUnit) (k phase : Nat) (handle : BitVec 32) (off : Nat) (ws : Words) (s : State) :
    State :=
  let line := planLine e (rankAddr e.rope (k / e.d) s) phase s
  let rep := repro e.rope s
  let flow := BitVec.ofNat 16 (k % e.d)
  let t : Packet := {
    ty := 1, job := BitVec.ofNat 16 (ropeJob e.rope s), tag := e.tag ||| BitVec.ofNat 32 (8 * phase), handle := handle,
    vc := if line.isSome then 5 else if rep then 0 else 1, fixedLine := line.isSome, ordered := line.isNone && rep,
    flow := match line with | some l => BitVec.ofNat 16 (e.fld 67 1 * 1024 + l) | none => flow }
  let s := addF (if line.isSome then F.XE_LINE_BYTES_COUNT else F.XE_ADAPT_BYTES_COUNT) [die] (16 * ws.length) s
  let s := addF F.XE_STATUS_MSGS [die] 1 (modXe die (fun x =>
    if phase = 0 then { x with lastStream := streamKey e k } else { x with lastReturn := streamKey e k }) s)
  let n := if line.isSome then 247 else 256
  queueMsg ⟨u, some (e.rope, k / e.d), 0, 16 + die, packBy n t off ws, flow⟩ s

/-- The runs an exchange can send now: index, run (R78). -/
def Exch.sendable (e : Exch) : List (Nat × XRun) :=
  ((e.runs.zipIdx).map (fun x => (x.2, x.1))).filter (fun x =>
    let k := e.streamOf x.2
    decide (0 < (e.grantOf x.2).admitted) && e.streamsDone.contains k && ! e.cutOut k && ! e.sentRuns.contains x.1)

/-- BULK_MESSAGE_SEND: the next run in the round robin, while fewer than 4,096 messages are in flight. -/
def bulkStep (die : Nat) (s : State) : State :=
  if 4096 ≤ getF F.XE_STATUS_MSGS [die] s then s
  else
    let live := (xeOf die s).active.filter (fun e => e.finished.isNone)
    let cands := live.flatMap (fun e => e.sendable.map (fun x => (streamKey e (e.streamOf x.2), e, x)))
    match nextStream (xeOf die s).lastStream (cands.map (fun c => c.1)) with
    | none => s
    | some key =>
      match cands.find? (fun c => decide (c.1 = key)) with
      | none => s
      | some (_, e, i, r) =>
        let g := e.grantOf r
        let rows := (List.range (min g.admitted r.count)).map (fun j => e.fld 16 6 + e.row (r.first + j) * (e.fld 22 2 * 16))
        runAccess (e.who die)
          (match gatherRows (e.who die) (e.rowB / 16) rows s with
          | .error x => .error x
          | .ok ws =>
            let s := modExch die e.tag (fun e => { e with sentRuns := insertNat i e.sentRuns }) s
            .ok (sendBulk die e (.xeBulk die e.tag i) (e.streamOf r) 0 g.handle (g.offset * e.rowB) ws s))
          (fun _ _ s => s) s

/-- BULK_MESSAGE_SEND (R78). -/
def execBulkMessageSend (die : Nat) (s : State) : Host.Outcome State Fault Refusal := runIf (decide (die < 8)) (bulkStep die) s

/-- The return messages an exchange can send now: slot, chunk, origin (R82, R83, R91). -/
def Exch.returnable (e : Exch) (s : State) : List (Nat × Nat × Nat) :=
  e.slots.flatMap (fun x =>
    if x.2.ans.isNone then []
    else
      let n := min (devBelay (e.belay 88 x.1) s).toNat x.2.chunks
      ((e.owed x.2).filter (fun c => decide (c.1 < n) && ! x.2.sent.contains c)).map (fun c => (x.1, c.1, c.2)))

/-- The dispatch-list position, at an origin on this device, of the first of its rows from receive offset `row` on (R83): a slot's
rows are those of the origin's run for it, from offset `off` on. -/
def ownPos (e : Exch) (slot o row off : Nat) (s : State) : Option Nat :=
  let rank := (ropeOf e.rope s).rank
  if o / e.d ≠ rank then none
  else
    match (ropeDies e.rope s)[o % e.d]? with
    | none => none
    | some d =>
      match activeExch d e.tag s with
      | none => none
      | some x => (x.runs.find? (fun r => decide (r.rank = rank) && decide (r.slot = slot))).map (fun r => r.first + (row - off))

/-- RETURN_MESSAGE_SEND: the next answered chunk of an origin; `pos` is the list position of its first record at an origin on
another device. -/
def returnStep (die : Nat) (pos : BitVec 32) (s : State) : State :=
  if 4096 ≤ getF F.XE_STATUS_MSGS [die] s then s
  else
    let live := (xeOf die s).active.filter (fun e => e.finished.isNone)
    let cands := live.flatMap (fun e => (e.returnable s).map (fun x => (streamKey e x.2.2, e, x)))
    match nextStream (xeOf die s).lastReturn (cands.map (fun c => c.1)) with
    | none => s
    | some key =>
      match cands.find? (fun c => decide (c.1 = key)) with
      | none => s
      | some (_, e, slot, chunk, o) =>
        let x := tget ({} : SlotRx) e.slots slot
        let h := x.ans.getD noHandle
        let lo := max (chunk * 128) (x.off.getD o 0)
        let hi := min (chunk * 128 + 128) (x.off.getD o 0 + x.adm.getD o 0)
        let base := bufferAddr (handlePool h) (handleIdx h) s
        let rows := (List.range (hi - lo)).map (fun j => base + (lo + j) * e.ansB)
        runAccess (e.who die)
          (match gatherRows (e.who die) (e.ansB / 16) rows s with
          | .error y => .error y
          | .ok ws =>
            let s := modSlot die e.tag slot (fun x => { x with sent := x.sent ++ [(chunk, o)] }) s
            let at_ := match ownPos e slot o lo (x.off.getD o 0) s with | some p => BitVec.ofNat 32 p | none => pos
            let s := sendBulk die e (.xeReturn die e.tag slot chunk o) o 1 at_ 0 ws s
            freeSlot die e.tag slot s)
          (fun _ _ s => s) s

/-- RETURN_MESSAGE_SEND (R83). -/
def execReturnMessageSend (die : Nat) (pos : BitVec 32) (s : State) : Host.Outcome State Fault Refusal :=
  runIf (decide (die < 8)) (returnStep die pos) s

/-! What reaches the engine from the fabric (R81, R84, R86 to R89, R171). -/

/-- The slot and origin a dispatch-phase packet lands in: the receive buffer its HANDLE names, the admitted rows its OFFSET
lies in. -/
def landing (e : Exch) (p : Packet) : Option (Nat × Nat) :=
  match e.slots.find? (fun x => decide (x.2.rx = some p.handle)) with
  | none => none
  | some x =>
    let row := p.offset.toNat / e.rowB
    match findIdxFrom (fun (a : Nat × Nat) => decide (a.2 ≤ row ∧ row < a.2 + a.1)) (x.2.adm.zip x.2.off) 0 with
    | none => none
    | some o =>
      if p.offset.toNat + p.payload.length ≤ (x.2.off.getD o 0 + x.2.adm.getD o 0) * e.rowB then some (x.1, o) else none

/-- The exchange a packet belongs to; none for a malformed or unknown tag (R66, R89). -/
def packetExch (die : Nat) (p : Packet) (s : State) : Option Exch :=
  if p.tag.toNat % 8 ≠ 0 then none else activeExch die p.tag s

/-- The list position of the first record a return packet carries bytes of (R83). -/
def answerPos (e : Exch) (p : Packet) : Nat := p.handle.toNat + p.offset.toNat / e.ansB

/-- A counted packet of an exchange: its payload is written to its buffer (R81, R87, R164), or it is discarded and counted
(R89). In fast mode an answer is kept with its message until that is complete (R86). -/
def xePacket (die : Nat) (p : Packet) (s : State) : Except Stop State :=
  match packetExch die p s with
  | none => .ok (countR (if p.tag.getLsbD 3 then .XE_RET_DISCARDED else .XE_RX_DISCARDED) [die] s)
  | some e =>
    if p.tag.getLsbD 3 then
      if ! repro e.rope s then .ok s
      else if tget 0 e.outcome (answerPos e p) ≠ 0 ∨ e.nrec ≤ answerPos e p then .ok s
      else
        putWords (e.who die) (e.fld 44 6 + p.handle.toNat * e.ansB + p.offset.toNat) (payloadWords p) s
    else
      match landing e p with
      | none => .ok (countR .XE_RX_DISCARDED [die] s)
      | some (slot, o) =>
        if e.cutIn o ∨ (tget ({} : SlotRx) e.slots slot).landed.contains o then .ok s
        else
          putWords (e.who die) (bufferAddr (handlePool p.handle) (handleIdx p.handle) s + p.offset.toNat) (payloadWords p) s

/-- A complete message of rows: they have landed (R81). -/
def xeLanded (die : Nat) (e : Exch) (p : Packet) (s : State) : Except Stop State :=
  match landing e p with
  | none => .ok s
  | some (slot, o) =>
    if e.cutIn o ∨ (tget ({} : SlotRx) e.slots slot).landed.contains o then .ok s
    else
      let n := (tget ({} : SlotRx) e.slots slot).adm.getD o 0
      .ok (noteChunks die e.tag (addF F.XE_RX_ROWS_COUNT [die] n
        (modSlot die e.tag slot (fun x => { x with landed := insertNat o x.landed }) s)))

/-- The answer rows of a complete return message: position and words (R83). -/
def answerRows (e : Exch) (parts : List Packet) : List (Nat × Words) :=
  let ps := sortBy (fun (a b : Packet) => decide (a.offset.toNat < b.offset.toNat)) parts
  let ws := ps.flatMap payloadWords
  match ps with
  | [] => []
  | p :: _ =>
    (List.range (16 * ws.length / e.ansB)).map (fun i =>
      (answerPos e p + i, (ws.drop (i * (e.ansB / 16))).take (e.ansB / 16)))

/-- A complete return message (R86, R87). -/
def xeAnswered (die : Nat) (e : Exch) (parts : List Packet) (s : State) : Except Stop State :=
  let rows := (answerRows e parts).filter (fun x => decide (x.1 < e.nrec) && decide (tget 0 e.outcome x.1 = 0))
  if repro e.rope s then
    let s := modExch die e.tag (fun e => { e with answered := rows.foldl (fun o x => tset 0 o x.1 1) e.answered }) s
    resolveTokens die e.tag (rows.map (fun x => e.row x.1)) s
  else foldE rows s (fun x s => combineRec die e.tag x.1 x.2 s)

/-- A message of an exchange is complete. -/
def xeMessage (die : Nat) (parts : List Packet) (s : State) : Except Stop State :=
  match parts with
  | [] => .ok s
  | p :: _ =>
    match packetExch die p s with
    | none => .ok s
    | some e => if p.tag.getLsbD 3 then xeAnswered die e parts s else xeLanded die e p s

/-- A message or a cell of this engine is acknowledged (R80, R84, R95). -/
def xeAcked (u : MsgUnit) (s : State) : Except Stop State :=
  match u with
  | .xeBulk die _ _ => .ok (subF F.XE_STATUS_MSGS [die] 1 s)
  | .xeReturn die t slot _ _ =>
    freeSlot die t slot (modSlot die t slot (fun x => { x with acked := x.acked + 1 }) (subF F.XE_STATUS_MSGS [die] 1 s))
  | .xeCell die t _ => .ok (modExch die t (fun e => { e with cells := e.cells - 1 }) s)
  | _ => .ok s

/-- The stream of a unit of this engine. -/
def unitStream (e : Exch) : MsgUnit → Nat
  | .xeBulk _ _ run => (e.runs[run]?.map e.streamOf).getD 0
  | .xeReturn _ _ _ _ o => o
  | .xeCell _ _ k => k
  | _ => 0

/-- A message or a cell of this engine failed: its rank is lost (R141, R171). -/
def xeLost (u : MsgUnit) (s : State) : Except Stop State :=
  let go := fun (die : Nat) (t : BitVec 32) (s : State) =>
    match activeExch die t s with
    | none => Except.ok s
    | some e =>
      match memberLost die t (unitStream e u / e.d) s with
      | .error x => .error x
      | .ok s => freeSlots die t s
  match u with
  | .xeBulk die t _ => go die t (subF F.XE_STATUS_MSGS [die] 1 s)
  | .xeReturn die t slot _ _ =>
    go die t (modSlot die t slot (fun x => { x with acked := x.acked + 1 }) (subF F.XE_STATUS_MSGS [die] 1 s))
  | .xeCell die t _ => go die t (modExch die t (fun e => { e with cells := e.cells - 1 }) s)
  | _ => .ok s

/-! Timeout and completion (R92, R95, R96). -/

/-- EXCHANGE_TIMEOUT (R92): the exchange has not completed within XE_TIMEOUT; the clock stands while the rope is suspended. -/
def execExchangeTimeout (die : Nat) (tag : BitVec 32) (s : State) : Host.Outcome State Fault Refusal :=
  runIf (decide (die < 8)) (fun s =>
    match activeExch die tag s with
    | none => s
    | some e =>
      if ropeState e.rope s = RopeSt.suspended then s
      else runAccess (e.who die) (cancelExch die e.tag St.timeout true s) (fun _ _ s => s) s) s

/-- The status of a finished exchange: the first of R96 that applies. -/
def Exch.status (e : Exch) : Nat :=
  if e.lost.isSome then St.memberLost
  else if e.finished = some St.timeout then St.timeout
  else if e.finished.isSome ∨ 0 < e.countOf 3 then St.cancelled
  else if e.poisoned then St.poison
  else if e.poolEmpty then St.poolEmpty
  else if e.declined then St.declined
  else St.ok

/-- The completion record (R95). -/
def Exch.record (e : Exch) : List Byte :=
  natLe 1 e.status ++ zeros 3 ++ natLe 4 e.nrec ++ natLe 4 (e.countOf 1) ++ natLe 4 (e.countOf 2) ++ natLe 4 (e.countOf 3) ++
  natLe 4 e.rxAdm ++ natLe 4 e.rxDecl ++ natLe 4 (e.lost.getD 0xFFFFFFFF)

/-- The conditions of R95 for an active tag; its receiver role has granted. -/
def Exch.complete (e : Exch) : Bool :=
  e.granted && decide (e.resolved = e.nrec) && decide (e.cells = 0) &&
  e.slots.all (fun x => x.2.rx.isNone && x.2.ans.isNone)

/-- Write the completion record, retire the tag and signal (R95). -/
def completeExch (die : Nat) (e : Exch) (s : State) : Except Stop State :=
  match tryWr (e.who die) (e.fld 90 6) e.record false s with
  | .error x => .error x
  | .ok s =>
    let gone := fun (x : Xe) => { x with
      active := match findIdxFrom (fun (y : Exch) => decide (y = e)) x.active 0 with | some i => dropAt x.active i | none => x.active }
    let s := modXe die gone s
    let s := if e.finished.isSome then s
      else retireTag die e.tag (if e.lost.isSome then countR .XE_CANCELS [die] s else s)
    let s := noteXe die (setF F.XE_STATUS_LAST_STATUS [die] e.status s)
    let s := if e.status = St.ok then s
      else raiseEvent { status := e.status, cls := 3, source := 0x03, rope := some e.rope, tag := e.tag.toNat, unit := die,
                        detail := natLe 4 e.tag.toNat ++ natLe 2 (e.lost.getD 0) } s
    .ok (signalEntry (520 + die) e.rope e.core e.ent s)

/-- EXCHANGE_COMPLETE for a tag. -/
def exchangeEnd (die : Nat) (t : BitVec 32) (s : State) : State :=
  match (xeOf die s).active.find? (fun e => e.finished.isSome && sameTag e.tag t) with
  | some e => runAccess (e.who die) (completeExch die e s) (fun _ _ s => s) s
  | none =>
    match activeExch die t s with
    | none => s
    | some e =>
      runAccess (e.who die)
        (match freeSlots die t s with
        | .error x => .error x
        | .ok s =>
          match activeExch die t s with
          | none => .ok s
          | some e => if e.complete then completeExch die e s else .ok s)
        (fun _ _ s => s) s

/-- EXCHANGE_COMPLETE (R95). -/
def execExchangeComplete (die : Nat) (tag : BitVec 32) (s : State) : Host.Outcome State Fault Refusal :=
  runIf (decide (die < 8)) (exchangeEnd die tag) s

end Sys2Proof.Machine
end

