-- ==== Sys2Proof/Machine/Prefetch.lean ====
section
/-! DEFINITION. The prefetch sequencers (R361 to R366): the schedule and its activation, demand and speculative fills, landing,
release, popularity history. -/

namespace Sys2Proof.Machine

open Sys2Proof

/-! The schedule (R361, R362). -/

/-- The sequencer that serves die `die`, as a unit of rope `r`. -/
def pfWho (r die : Nat) : Who := { reach := .die, rope := r, core := 0, id := 552 + die }

/-- The active schedule of rope `r`. -/
def schedOf (r : Nat) (s : State) : Option Sched :=
  let x := tget (⟨[], [], [], []⟩ : Sched) s.sched r
  if x.header.isEmpty then none else some x

/-- Read good bytes; what cannot be read breaks the schedule. -/
def schedRead (w : Who) (a n : Nat) (s : State) : Except Stop (Option (List Byte)) :=
  match rdSoft w a n s with
  | .error (.fault _ _) => .ok none
  | .error e => .error e
  | .ok (bs, f) => .ok (if f = 0 then some bs else none)

/-- Read `n` records of `size` bytes from an address. -/
def schedRecords (w : Who) (size : Nat) : Nat → Nat → State → Except Stop (Option (List (List Byte)))
  | 0, _, _ => .ok (some [])
  | n + 1, a, s =>
    match schedRead w a size s with
    | .error e => .error e
    | .ok none => .ok none
    | .ok (some b) =>
      match schedRecords w size n (a + size) s with
      | .error e => .error e
      | .ok none => .ok none
      | .ok (some t) => .ok (some (b :: t))

/-- Read the slot records of each layer. -/
def schedSlots (w : Who) (s : State) : List (List Byte) → Except Stop (Option (List (List (List Byte))))
  | [] => .ok (some [])
  | l :: t =>
    match schedRecords w 64 (fieldAt l 2 2) (fieldAt l 4 6) s with
    | .error e => .error e
    | .ok none => .ok none
    | .ok (some b) =>
      match schedSlots w s t with
      | .error e => .error e
      | .ok none => .ok none
      | .ok (some x) => .ok (some (b :: x))

/-- Read a schedule whole (R361). -/
def readSched (w : Who) (a : Nat) (s : State) : Except Stop (Option Sched) :=
  match schedRead w a 64 s with
  | .error e => .error e
  | .ok none => .ok none
  | .ok (some h) =>
    if 256 < fieldAt h 2 2 ∨ 8 < fieldAt h 4 1 then .ok none
    else
      match schedRecords w 32 (fieldAt h 2 2) (fieldAt h 14 6) s with
      | .error e => .error e
      | .ok none => .ok none
      | .ok (some ls) =>
        match schedSlots w s ls with
        | .error e => .error e
        | .ok none => .ok none
        | .ok (some rs) =>
          match schedRecords w 528 (fieldAt h 4 1) (fieldAt h 20 6) s with
          | .error e => .error e
          | .ok none => .ok none
          | .ok (some bs) => .ok (some ⟨h, ls, rs, bs⟩)

def Sched.d (x : Sched) : Nat := fieldAt x.header 4 1
def Sched.nl (x : Sched) : Nat := x.layers.length
/-- WARM_STEPS; 0 stands for the default (R361). -/
def Sched.warmSteps (x : Sched) : Nat := if fieldAt x.header 6 2 = 0 then 16 else fieldAt x.header 6 2
def Sched.hist (x : Sched) : Nat := fieldAt x.header 8 6
def Sched.layer (x : Sched) (i : Nat) : List Byte := x.layers.getD i []
def Sched.slotBins (x : Sched) (i : Nat) : Nat := fieldAt (x.layer i) 2 2
def Sched.belay (x : Sched) (i slot : Nat) : Nat := fieldAt (x.layer i) 16 2 + slot
def Sched.slotRec (x : Sched) (i slot : Nat) : List Byte := (x.slots.getD i []).getD slot []
def Sched.pieces (x : Sched) (i slot : Nat) : Nat := fieldAt (x.slotRec i slot) 0 1
def Sched.pieceAddr (x : Sched) (i slot j : Nat) : Nat := fieldAt (x.slotRec i slot) (4 + 12 * j) 6
def Sched.pieceBytes (x : Sched) (i slot j : Nat) : Nat := fieldAt (x.slotRec i slot) (10 + 12 * j) 4
/-- The rope die index of a slot's home (R62). -/
def Sched.home (x : Sched) (i slot : Nat) : Nat := slot / ((x.slotBins i + x.d - 1) / x.d)
/-- The slots of a layer homed on a rope die. -/
def Sched.homed (x : Sched) (i k : Nat) : List Nat :=
  (List.range (x.slotBins i)).filter (fun slot => decide (x.home i slot = k))
def Sched.bufTable (x : Sched) (k : Nat) : List Byte := x.bufs.getD k []
/-- Bytes of a group's buffers. -/
def Sched.groupSize (x : Sched) (k g : Nat) : Nat := fieldAt (x.bufTable k) g 1 * 65536
def Sched.bufCount (x : Sched) (k : Nat) : Nat := fieldAt (x.bufTable k) 4 1
def Sched.bufAddr (x : Sched) (k b : Nat) : Nat := fieldAt (x.bufTable k) (16 + 8 * b) 6
def Sched.bufGroup (x : Sched) (k b : Nat) : Nat := fieldAt (x.bufTable k) (22 + 8 * b) 1 % 4
/-- Units of 64 KiB of a die's buffers. -/
def Sched.bufUnits (x : Sched) (k : Nat) : Nat :=
  ((List.range (x.bufCount k)).map (fun b => fieldAt (x.bufTable k) (x.bufGroup k b) 1)).sum

/-- All bytes are zero. -/
def allZero (bs : List Byte) : Bool := bs.all (fun b => decide (b = 0))

/-- A range lies in the cluster stores of a physical die of the rope. -/
def onDie (r die a n : Nat) (s : State) : Bool :=
  decide (0x80000000 ≤ a) &&
  (List.range ((a % 2 ^ 24 + n + 2 ^ 24 - 1) / 2 ^ 24)).all (fun i =>
    match (ropeClusters r s)[(a - 0x80000000) / 2 ^ 24 + i]? with
    | some q => decide (q / 8 = die)
    | none => false)

/-- The buffer table of rope die `k` keeps the rules of R361 and R362. -/
def Sched.bufsOk (x : Sched) (r k : Nat) (s : State) : Bool :=
  let t := x.bufTable k
  let bs := List.range (x.bufCount k)
  let size := fun b => x.groupSize k (x.bufGroup k b)
  decide (1 ≤ x.bufCount k ∧ x.bufCount k ≤ 64) && allZero ((t.drop 5).take 11) &&
  bs.all (fun b => decide (fieldAt t (22 + 8 * b) 2 < 4) && onDie r ((ropeDies r s).getD k 8) (x.bufAddr k b) (size b) s) &&
  bs.all (fun b => bs.all (fun c => decide (b ≤ c) ||
    decide (x.bufAddr k b + size b ≤ x.bufAddr k c ∨ x.bufAddr k c + size c ≤ x.bufAddr k b)))

/-- A slot record keeps the rules of R361 and R362. -/
def Sched.slotOk (x : Sched) (i slot : Nat) : Bool :=
  let b := x.slotRec i slot
  decide (x.pieces i slot ≤ 4) && decide (fieldAt b 1 1 = 0) &&
  (List.range (x.pieces i slot)).all (fun j =>
    decide (x.pieceBytes i slot j ≤ x.groupSize (x.home i slot) j) && decide (fieldAt b (14 + 12 * j) 2 = 0) &&
    decide (0x010000000000 ≤ x.pieceAddr i slot j))

/-- Two stretches of device belays share one. -/
def beltsMeet (a n b m : Nat) : Bool := decide (a < b + m ∧ b < a + n)

/-- Layer entry `i` keeps the rules of R361 and R362. -/
def Sched.layerOk (x : Sched) (i : Nat) : Bool :=
  let l := x.layer i
  let j := (i + 1) % x.nl
  decide (fieldAt l 1 1 < 2) && decide (1 ≤ x.slotBins i ∧ x.slotBins i ≤ 16384) && decide (x.belay i (x.slotBins i) ≤ 4096) &&
  allZero (l.drop 18) && (List.range (x.slotBins i)).all (fun slot => x.slotOk i slot) &&
  (decide (j = i) || ! beltsMeet (x.belay i 0) (x.slotBins i) (x.belay j 0) (x.slotBins j))

/-- The schedule keeps the rules of this section; the CLUSTER quota apart (R361, R362). -/
def Sched.ok (x : Sched) (r a : Nat) (s : State) : Bool :=
  let h := x.header
  decide (a % 64 = 0) && decide (fieldAt h 0 2 = 1) && decide (1 ≤ x.nl) && decide (x.d = (ropeDies r s).length) &&
  decide (fieldAt h 5 1 < 2) && decide (fieldAt h 6 2 < 256) && allZero (h.drop 26) &&
  (List.range x.nl).all (fun i => x.layerOk i) && (List.range x.d).all (fun k => x.bufsOk r k s)

/-- H: bytes of a layer's history record (R366). -/
def Sched.histBytes (x : Sched) : Nat :=
  (64 + 4 * ((List.range x.nl).map (fun i => x.slotBins i)).foldl max 0 + 63) / 64 * 64

/-! The sequencers' work. -/

/-- The index of a rope's work on a die. -/
def pfIdx (r die : Nat) : Nat := r * 8 + die

/-- The sequencer's work for rope `r` on a die. -/
def pfOf (r die : Nat) (s : State) : PfDie := tget {} s.pf (pfIdx r die)

/-- Change the sequencer's work for rope `r` on a die. -/
def modPf (r die : Nat) (f : PfDie → PfDie) (s : State) : State := { s with pf := tmod {} s.pf (pfIdx r die) f }

/-- Put a schedule in place, or none; fills of the earlier one are forgotten. -/
def setSched (r : Nat) (x : Option Sched) (s : State) : State :=
  let s := { s with sched := tset (⟨[], [], [], []⟩ : Sched) s.sched r (x.getD ⟨[], [], [], []⟩) }
  let s := forN 8 s (fun die s => modPf r die (fun p => { seen := p.seen }) s)
  setF F.MEM_QUOTA_USED [r, 3]
    (match x with | some x => ((List.range x.d).map (fun k => x.bufUnits k)).foldl max 0 | none => 0) s

/-- A schedule is not activated (R361). -/
def schedRefused (r status : Nat) (s : State) : State :=
  raiseEvent { status := status, cls := 3, source := 0x07, rope := some r } (setF F.MEM_PF_CTRL_STATUS [r] status s)

/-- Change to the pending schedule at a step boundary (R361, R362, R366). -/
def activateSchedule (r : Nat) (s : State) : Except Stop State :=
  if getF F.MEM_PF_CTRL_PENDING [r] s = 0 then .ok s
  else
    let a := getF F.MEM_PF_CTRL_SCHED [r] s
    let t := setF F.MEM_PF_CTRL_PENDING [r] 0 s
    if a = 0 then .ok (setF F.MEM_PF_CTRL_STATUS [r] 0 (setSched r none t))
    else
      match readSched (pfWho r 0) a s with
      | .error e => .error e
      | .ok none => .ok (schedRefused r St.notPermitted t)
      | .ok (some x) =>
        if ! x.ok r a s then .ok (schedRefused r St.notPermitted t)
        else if (List.range x.d).any (fun k => decide (getF F.MEM_QUOTA_LIMIT [r, 3] s < x.bufUnits k)) then
          .ok (schedRefused r St.quotaExceeded t)
        else
          match (if fieldAt x.header 5 1 = 1 then wr (pfWho r 0) x.hist (zeros (x.nl * x.histBytes)) t else Except.ok t) with
          | .error (.fault _ _) => .ok (schedRefused r St.notPermitted t)
          | .error e => .error e
          | .ok t => .ok (setF F.MEM_PF_CTRL_STATUS [r] 0 (setSched r (some x) t))

/-- A write of SCHED (R361). -/
def writeSched (r a : Nat) (s : State) : State := setF F.MEM_PF_CTRL_SCHED [r] a (setF F.MEM_PF_CTRL_PENDING [r] 1 s)

/-- SCHEDULE_WRITE (R361). -/
def execScheduleWrite (fn : Requester) (rope : Nat) (addr : BitVec 48) (s : State) : Host.Outcome State Fault Refusal :=
  runIf (decide (rope < 16) && fnAllowed fn (regOff .MEM_PF_CTRL [rope]) s) (writeSched rope addr.toNat) s

/-! History (R366). -/

/-- Address of layer entry `i`'s history record. -/
def Sched.histAddr (x : Sched) (i : Nat) : Nat := x.hist + i * x.histBytes

/-- Read a number of the history; what cannot be read counts as 0. -/
def histRead (w : Who) (a n : Nat) (s : State) : Except Stop Nat :=
  match tryRd w a n s with
  | .error e => .error e
  | .ok (bs, bad) => .ok (if bad then 0 else leNat bs)

/-- The h of each slot for the orderings: 0 while the layer is cold. -/
def histOf (w : Who) (x : Sched) (i : Nat) (s : State) : List Nat → Except Stop (List (Nat × Nat))
  | [] => .ok []
  | slot :: t =>
    match histRead w (x.histAddr i) 2 s with
    | .error e => .error e
    | .ok n =>
      match (if n < x.warmSteps then Except.ok 0 else histRead w (x.histAddr i + 64 + 4 * slot) 4 s) with
      | .error e => .error e
      | .ok h =>
        match histOf w x i s t with
        | .error e => .error e
        | .ok l => .ok ((slot, h) :: l)

/-- One slot's update: h + ((c << 8) − h) / 8 with the division of R12. -/
def histStep (h c : Nat) : Nat :=
  (BitVec.ofInt 32 ((h : Int) + Int.tdiv ((min c (2 ^ 23) : Nat) * 256 - (h : Int)) 8)).toNat

/-- Update the history of the slots homed here, then the layer's count (R366). -/
def histUpdate (w : Who) (x : Sched) (i : Nat) (counts : List (Nat × Nat)) (s : State) : Except Stop State :=
  match foldE counts s (fun c s =>
      match histRead w (x.histAddr i + 64 + 4 * c.1) 4 s with
      | .error e => .error e
      | .ok h => tryWr w (x.histAddr i + 64 + 4 * c.1) (natLe 4 (histStep h c.2)) false s) with
  | .error e => .error e
  | .ok s =>
    match histRead w (x.histAddr i) 2 s with
    | .error e => .error e
    | .ok n => tryWr w (x.histAddr i) (natLe 2 (min 65535 (n + 1))) false s

/-! Release (R365). -/

/-- The fill's slot is released: the tag retired, the grant admits no rows, or the answers are given. -/
def fillOver (die : Nat) (f : Fill) (s : State) : Bool :=
  match f.tag with
  | none => false
  | some t =>
    match activeExch die t s with
    | none => true
    | some e =>
      let x := tget ({} : SlotRx) e.slots f.slot
      e.granted && (decide (x.admitted = 0) || decide (x.chunks ≤ (devBelay (e.belay 88 f.slot) s).toNat))

/-- Free the buffers of released fills; one in flight waits until it lands, and the landed pieces of its slot stay known. -/
def dropFills (fs : List Fill) : List Fill :=
  fs.filter (fun f => ! (f.released && f.landed &&
    ! fs.any (fun g => decide (g.layer = f.layer) && decide (g.slot = f.slot) && decide (g.tag = f.tag) && ! g.landed)))

/-- Bring the releases of rope `r` on a die up to date; the demand of a retired tag ends. -/
def releaseFills (r die : Nat) (s : State) : State :=
  let p := pfOf r die s
  let gone := fun (t : BitVec 32) => (activeExch die t s).isNone
  modPf r die (fun q => { q with
    fills := dropFills (q.fills.map (fun f => { f with released := f.released || fillOver die f s })),
    seen := q.seen.filter (fun t => ! gone t),
    served := q.served.filter (fun x => ! gone x.1),
    todo := match p.served.getLast? with | some x => (if gone x.1 then [] else q.todo) | none => [] }) s

/-- Buffers of a die that no fill holds, of a group, ascending (R363). -/
def freeBuffers (x : Sched) (k g : Nat) (fs : List Fill) : List Nat :=
  (List.range (x.bufCount k)).filter (fun b =>
    decide (x.bufGroup k b = g) && ! fs.any (fun f => decide (f.buf = b) && ! (f.released && f.landed)))

/-! Demand (R363). -/

/-- The layer entry of a tag. -/
def Sched.layerOf (x : Sched) (t : BitVec 32) : Option Nat :=
  findIdxFrom (fun l => decide (fieldAt l 0 1 = nbits 27 20 t.toNat)) x.layers 0

/-- Set the weight belays of a layer's slots homed here to 0 (R363). -/
def activateLayer (x : Sched) (i k : Nat) (s : State) : State :=
  forList (x.homed i k) s (fun slot s => setDevBelay (x.belay i slot) 0 s)

/-- Serve a tag whose counts are complete (R363 to R366). DESIGN CHOICE (log 70): the history that breaks ties (R20) is read before the
tag's own update of it. -/
def serveTag (die : Nat) (e : Exch) (x : Sched) (i : Nat) (s : State) : Except Stop State :=
  let r := e.rope
  let k := (indexOf (ropeDies r s) die).getD 0
  let w := pfWho r die
  let p := pfOf r die s
  let counts := (x.homed i k).map (fun slot => (slot, (e.offers slot).sum))
  let got := fun (slot : Nat) => ((counts.find? (fun c => decide (c.1 = slot))).map (fun c => c.2)).getD 0
  match histOf w x i s ((counts.filter (fun c => decide (0 < c.2))).map (fun c => c.1)) with
  | .error err => .error err
  | .ok hs =>
    let order := sortBy (fun a b => decide (got b.1 < got a.1) || (decide (got a.1 = got b.1) && decide (b.2 < a.2))) hs
    let s := if p.activated.contains i then s else activateLayer x i k s
    let spec := p.fills.filter (fun f => decide (f.layer = i) && f.tag.isNone && ! f.released)
    let kept := spec.filter (fun f => decide (0 < got f.slot))
    let s := addF F.MEM_PF_COUNTS_SPEC_USED [r] kept.length (addF F.MEM_PF_COUNTS_SPEC_WASTED [r] (spec.length - kept.length) s)
    let todo := order.flatMap (fun o => ((List.range (x.pieces i o.1)).map (fun j => (o.1, j))).filter (fun y =>
      ! kept.any (fun f => decide (f.slot = y.1) && decide (f.piece = y.2))))
    let s := modPf r die (fun q => { q with
      seen := q.seen ++ [e.tag], served := q.served ++ [(e.tag, i)], todo := todo,
      activated := q.activated.filter (fun a => decide (a ≠ i)),
      fills := dropFills (q.fills.map (fun f =>
        if f.layer = i ∧ f.tag.isNone ∧ ! f.released then
          (if 0 < got f.slot then { f with tag := some e.tag } else { f with released := true })
        else f)) }) s
    histUpdate w x i counts s

/-- Every exchange of the rope this engine accepted earlier, of a layer of the schedule, has been handled. -/
def earlierHandled (die : Nat) (e : Exch) (x : Sched) (s : State) : Bool :=
  ((xeOf die s).active.takeWhile (fun a => ! decide (a.tag = e.tag))).all (fun a =>
    decide (a.rope ≠ e.rope) || a.finished.isSome || (x.layerOf a.tag).isNone || (pfOf e.rope die s).seen.contains a.tag)

/-- The sequencer of a die handles a tag: served, or skipped when its layer is being served. -/
def demandStep (die : Nat) (tag : BitVec 32) (s : State) : State :=
  match activeExch die tag s with
  | none => s
  | some e =>
    let s := releaseFills e.rope die s
    match schedOf e.rope s with
    | none => s
    | some x =>
      match x.layerOf e.tag with
      | none => s
      | some i =>
        let p := pfOf e.rope die s
        if ! e.countsComplete || p.seen.contains e.tag || ! p.todo.isEmpty || ! earlierHandled die e x s then s
        else if p.served.any (fun y => decide (y.2 = i)) then
          addF F.MEM_PF_COUNTS_SKIPPED [e.rope] 1 (modPf e.rope die (fun q => { q with seen := q.seen ++ [e.tag] }) s)
        else runAccess (pfWho e.rope die) (serveTag die e x i s) (fun _ _ s => s) s

/-- PREFETCH_DEMAND (R363). -/
def execPrefetchDemand (die : Nat) (tag : BitVec 32) (s : State) : Host.Outcome State Fault Refusal :=
  runIf (decide (die < 8)) (demandStep die tag) s

/-- Bring the releases of every rope on a die up to date. -/
def releaseAll (die : Nat) (s : State) : State := forN 16 s (fun r s => releaseFills r die s)

/-- The next demand piece of rope `r` on a die and the buffer it takes. -/
def nextDemand (r die : Nat) (s : State) : Option Fill :=
  match schedOf r s, (pfOf r die s).todo, (pfOf r die s).served.getLast? with
  | some x, (slot, j) :: _, some (t, i) =>
    ((freeBuffers x ((indexOf (ropeDies r s) die).getD 0) j (pfOf r die s).fills).head?).map (fun b =>
      { layer := i, slot := slot, piece := j, buf := b, tag := some t })
  | _, _, _ => none

/-- Start the next demand piece of the lowest rope that can (R363). -/
def pieceIssue (die : Nat) (s : State) : State :=
  let s := releaseAll die s
  match (List.range 16).findSome? (fun r => (nextDemand r die s).map (fun f => (r, f))) with
  | none => s
  | some (r, f) => modPf r die (fun q => { q with todo := q.todo.tail, fills := q.fills ++ [f] }) s

/-- PREFETCH_PIECE_ISSUE (R363). -/
def execPrefetchPieceIssue (die : Nat) (s : State) : Host.Outcome State Fault Refusal :=
  runIf (decide (die < 8)) (pieceIssue die) s

/-! Speculation (R363). -/

/-- The layer entry that may be filled speculatively for rope `r` on a die. -/
def specLayer (r die : Nat) (x : Sched) (s : State) : Option Nat :=
  let p := pfOf r die s
  match p.served.getLast? with
  | none => none
  | some (_, i) =>
    let n := (i + 1) % x.nl
    if getF F.MEM_PF_CTRL_PENDING [r] s = 0 ∧ p.todo.isEmpty ∧ fieldAt (x.layer n) 1 1 % 2 = 1 ∧
       ! p.served.any (fun y => decide (y.2 = n)) then some n
    else none

/-- The slots of a layer in the order of speculation. -/
def specOrder (w : Who) (x : Sched) (i k : Nat) (s : State) : Except Stop (List Nat) :=
  match histRead w (x.histAddr i) 2 s with
  | .error e => .error e
  | .ok n =>
    if n < x.warmSteps then
      .ok (sortBy (fun a b => decide (fieldAt (x.slotRec i a) 2 2 < fieldAt (x.slotRec i b) 2 2)) (x.homed i k))
    else
      match histOf w x i s (x.homed i k) with
      | .error e => .error e
      | .ok hs => .ok ((sortBy (fun a b => decide (b.2 < a.2)) hs).map (fun a => a.1))

/-- Start one speculative fill for rope `r`: the first missing piece that has a free buffer. -/
def specFill (r die : Nat) (x : Sched) (i : Nat) (s : State) : Except Stop State :=
  let k := (indexOf (ropeDies r s) die).getD 0
  let p := pfOf r die s
  match specOrder (pfWho r die) x i k s with
  | .error e => .error e
  | .ok slots =>
    let cand := slots.flatMap (fun slot => (List.range (x.pieces i slot)).filterMap (fun j =>
      if p.fills.any (fun f => decide (f.layer = i) && decide (f.slot = slot) && decide (f.piece = j)) then none
      else ((freeBuffers x k j p.fills).head?).map (fun b => ({ layer := i, slot := slot, piece := j, buf := b } : Fill))))
    match cand with
    | [] => .ok s
    | f :: _ =>
      let s := if p.activated.contains i then s else activateLayer x i k s
      .ok (modPf r die (fun q => { q with activated := insertNat i q.activated, fills := q.fills ++ [f] }) s)

/-- The lowest rope that may begin a speculative fill on a die. -/
def specStep (die : Nat) (s : State) : State :=
  let s := releaseAll die s
  let cand := (List.range 16).findSome? (fun r =>
    match schedOf r s with
    | none => none
    | some x => (specLayer r die x s).map (fun i => (r, x, i)))
  match cand with
  | none => s
  | some (r, x, i) => runAccess (pfWho r die) (specFill r die x i s) (fun _ _ s => s) s

/-- SPECULATIVE_FILL (R363). -/
def execSpeculativeFill (die : Nat) (s : State) : Host.Outcome State Fault Refusal :=
  runIf (decide (die < 8)) (specStep die) s

/-! Landing (R363, R364). -/

/-- Leading pieces of a slot that have landed for one tag. -/
def leadingLanded (fs : List Fill) (f : Fill) : Nat :=
  let has := fun j => fs.any (fun g =>
    decide (g.layer = f.layer) && decide (g.slot = f.slot) && decide (g.tag = f.tag) && decide (g.piece = j) && g.landed)
  ((List.range 4).takeWhile has).length

/-- The status and the data of a piece: what fails is POISON (R364). -/
def pieceRead (w : Who) (a n : Nat) (s : State) : Except Stop (List Byte × Nat) :=
  match rdSoft w a n s with
  | .error (.fault _ _) => .ok (zeros n, St.poison)
  | r => r

/-- A piece lands: its buffer, its weight-directory entry, its slot's weight belay (R363, R364). -/
def landPiece (r die pos : Nat) (x : Sched) (f : Fill) (s : State) : Except Stop State :=
  let w := pfWho r die
  let k := (indexOf (ropeDies r s) die).getD 0
  let b := x.bufAddr k f.buf
  match pieceRead w (x.pieceAddr f.layer f.slot f.piece) (x.pieceBytes f.layer f.slot f.piece) s with
  | .error e => .error e
  | .ok (bs, st) =>
    match tryWr w b bs (decide (st ≠ 0)) s with
    | .error e => .error e
    | .ok s =>
      match tryWr w (fieldAt (x.layer f.layer) 10 6 + 32 * f.slot + 8 * f.piece) (natLe 6 b ++ natLe 2 st) false s with
      | .error e => .error e
      | .ok s =>
        let fs := setAt (pfOf r die s).fills pos { f with landed := true }
        let s := modPf r die (fun q => { q with fills := dropFills fs }) s
        let s := signalBy w.id true (x.belay f.layer f.slot) true (BitVec.ofNat 64 (leadingLanded fs f)) s
        .ok (if st = 0 then s
          else raiseEvent { status := st, cls := 3, source := 0x07, rope := some r, unit := die,
                            detail := natLe 4 (f.tag.getD 0).toNat ++ natLe 2 f.slot } s)

/-- The piece at a place of a rope's fills on a die lands; `idx` is rope × 1,024 + place. -/
def landStep (die idx : Nat) (s : State) : State :=
  let r := idx / 1024
  match schedOf r s, (pfOf r die s).fills[idx % 1024]? with
  | some x, some f =>
    if f.landed then s
    else releaseFills r die (runAccess (pfWho r die) (landPiece r die (idx % 1024) x f s) (fun _ _ s => s) s)
  | _, _ => s

/-- PIECE_LAND (R363). -/
def execPieceLand (die : Nat) (idx : Nat) (s : State) : Host.Outcome State Fault Refusal :=
  runIf (decide (die < 8) && decide (idx / 1024 < 16)) (landStep die idx) s

end Sys2Proof.Machine
end

