-- ==== Sys2Proof/Machine/Fabric.lean ====
section
/-! DEFINITION. Messages in flight (R162 to R171): how units are told of acknowledgements and losses, starting messages, the
message table, acknowledgements, timeouts, the traffic hold. -/

namespace Sys2Proof.Machine

open Sys2Proof

/-! A row that tells units may find that one needs lent memory first; the row is then run again as a whole. -/

/-- A result that stopped for one unit's access. -/
abbrev Told : Type := Except (Who × Stop) State

/-- What a unit does, with the unit named where it stops. -/
def asUnit (w : Who) (r : Except Stop State) : Told :=
  match r with
  | .ok s => .ok (endAccess w.id 0 s)
  | .error e => .error (w, e)

/-- Run a row of units' effects. -/
def runTold (r : Told) (s : State) : State :=
  match r with
  | .ok t => t
  | .error (w, .need l h off) => askLender w l h off s
  | .error (_, .fault _ _) => s

/-- Tell units one after the other. -/
def tellAll {α : Type} (l : List α) (s : State) (f : α → State → Told) : Told :=
  match l with
  | [] => .ok s
  | a :: t =>
    match f a s with
    | .error e => .error e
    | .ok s => tellAll t s f

/-- An exchange engine as a unit of a tag's rope. -/
def xeUnit (die : Nat) (t : BitVec 32) : Who := { reach := .die, rope := tagRope t, core := 0, id := 520 + die }

/-- A unit's message (or cell) is acknowledged. -/
def unitAcked (cell : Bool) (u : MsgUnit) (s : State) : Told :=
  match u with
  | .xeBulk die t _ => asUnit (xeUnit die t) (xeAcked u s)
  | .xeReturn die t _ _ _ => asUnit (xeUnit die t) (xeAcked u s)
  | .xeCell die t _ => asUnit (xeUnit die t) (xeAcked u s)
  | .coll c q => .ok (if cell then s else collMsgDone c q s)
  | .read _ => .ok s
  | .write _ _ _ _ => .ok s
  | .lender _ => .ok s
  | .basecamp => .ok s

/-- The rank of a running collective's rope at an address. -/
def collRank (c : Nat) (rank : Option (Nat × Nat)) (dest : BitVec 16) (s : State) : Nat :=
  match rank with
  | some (_, k) => k
  | none =>
    match (chanOf c s).run with
    | some r => (addrRank r.desc.rope dest s).getD 0
    | none => 0

/-- A unit's message (or cell) failed with MEMBER_LOST (R141, R171). -/
def unitLost (cell : Bool) (u : MsgUnit) (rank : Option (Nat × Nat)) (dest : BitVec 16) (s : State) : Told :=
  match u with
  | .xeBulk die t _ => asUnit (xeUnit die t) (xeLost u s)
  | .xeReturn die t _ _ _ => asUnit (xeUnit die t) (xeLost u s)
  | .xeCell die t _ => asUnit (xeUnit die t) (xeLost u s)
  | .coll c q => .ok (collLost c q (collRank c rank dest s) (if cell then s else collMsgDone c q s))
  | .read _ => .ok (lendLost u dest s)
  | .write _ _ _ _ => .ok (lendLost u dest s)
  | .lender _ => .ok s
  | .basecamp => .ok s

/-- Launch the cells that may go; those that fail at once are told (R169, R171). -/
def pump (s : State) : Told :=
  let (lost, s) := pumpCells s
  tellAll lost s (fun c s => unitLost true c.unit none c.dest s)

/-- After acknowledgements or losses: held signals and waiting cells go on. -/
def settleUnits (r : Told) : Told :=
  match r with
  | .ok s => pump (settleSlots (releaseSignals s))
  | .error e => .error e

/-! Starting (R163). -/

/-- The message whose turn it is starts, or fails at once. -/
def messageStep (s : State) : Told :=
  match startMsg s with
  | (none, s) => .ok s
  | (some m, s) => settleUnits (unitLost false m.unit m.rank m.addr s)

/-- MESSAGE_START (R163). -/
def execMessageStart (s : State) : Host.Outcome State Fault Refusal := runIf true (fun s => runTold (messageStep s) s) s

/-! The message table (R164, R165). -/

def idTry (p : Packet) : Nat := nbits 31 30 p.msgid.toNat
def idCred (p : Packet) : Nat := nbits 29 26 p.msgid.toNat
def idGen (p : Packet) : Nat := nbits 25 12 p.msgid.toNat

/-- The index of the entry a packet names. -/
def entryIdx (p : Packet) : Nat := p.src.toNat * 16 + idCred p

/-- GEN `a` is newer than `b` (R164). -/
def genNewer (a b : Nat) : Bool := decide (1 ≤ (a + 16384 - b) % 16384 ∧ (a + 16384 - b) % 16384 ≤ 8191)

/-- Change a table entry. -/
def setEntry (i : Nat) (e : MsgEntry) (s : State) : State := modMsgs (fun m => { m with table := tset {} m.table i e }) s

/-- The rows of R164: what a packet does to its entry. -/
inductive Arrival where
  | restart (abandoned : Bool)
  | count
  | done
  | stale
  deriving DecidableEq, Repr

/-- The first row of R164 that matches. -/
def arrivalOf (p : Packet) (e : MsgEntry) : Arrival :=
  if e.state = 0 ∨ genNewer (idGen p) e.gen then .restart (decide (e.state = 1))
  else if idGen p = e.gen ∧ e.state = 2 then .done
  else if idGen p = e.gen ∧ e.try_ < idTry p then .restart false
  else if idGen p = e.gen ∧ idTry p = e.try_ then .count
  else .stale

/-- The entry with one more packet counted. -/
def countPacket (p : Packet) (e : MsgEntry) : MsgEntry :=
  { e with state := 1, gen := idGen p, try_ := idTry p, count := e.count + 1, parts := e.parts ++ [p],
           total := if p.last then some p.total.toNat else e.total }

/-- The receive buffers of a channel's collective, as a unit. -/
def collUnit (p : Packet) (s : State) : Who :=
  match (chanOf (p.tag.toNat / 2 ^ 28) s).run with
  | some r => r.desc.who
  | none => { reach := .die, rope := 0, core := 0, id := 528 }

/-- A counted packet's payload is written where it goes (R164). -/
def landPacket (unit : Nat) (p : Packet) (s : State) : Told :=
  match p.ty.toNat with
  | 1 => asUnit (xeUnit (unit - 16) p.tag) (xePacket (unit - 16) p s)
  | 2 => asUnit (collUnit p s) (collPacket p s)
  | 3 => .ok (mwritePacket p s)
  | _ => .ok s

/-- The bytes of a KEM_INIT: HANDLE names its kind, OFFSET each packet's place (R461). -/
def handshakeBytes : Nat → List Packet → Option (List Byte)
  | _, [] => some []
  | off, p :: t =>
    if nbits 31 24 p.handle.toNat = 1 ∧ p.offset.toNat = off then (handshakeBytes (off + p.payload.length) t).map (p.payload ++ ·)
    else none

/-- A complete message is handed to its unit (R165). -/
def landMessage (unit : Nat) (p : Packet) (parts : List Packet) (s : State) : Told :=
  match p.ty.toNat with
  | 1 => asUnit (xeUnit (unit - 16) p.tag) (xeMessage (unit - 16) parts s)
  | 2 => .ok (collMessage parts s)
  | 3 => .ok (mwriteMessage parts s)
  | 4 => .ok (mrespMessage parts s)
  | _ =>
    let parts := sortBy (fun a b => decide (a.pseq.toNat < b.pseq.toNat)) parts
    match handshakeBytes 0 parts with
    | some bytes => .ok { s with bc := { s.bc with handshake := s.bc.handshake ++ [(p.src.toNat, bytes)] } }
    | none => .ok s

/-- Acknowledge a message (R166). -/
def ackMessage (p : Packet) (s : State) : State := sendAck p.src 0x10 [p.msgid.toNat] s

/-- Count a packet, write its payload, and complete its message when it is the last to arrive (R164, R165). -/
def takePacket (unit : Nat) (p : Packet) (e : MsgEntry) (s : State) : Told :=
  let e := countPacket p e
  match landPacket unit p (setEntry (entryIdx p) e s) with
  | .error x => .error x
  | .ok s =>
    if e.total = some e.count then
      match landMessage unit p e.parts (setEntry (entryIdx p) { e with state := 2, parts := [] } s) with
      | .error x => .error x
      | .ok s => .ok (ackMessage p s)
    else .ok s

/-- A bulk packet reaches its destination unit; a multicast one is no part of the message table: its payload goes to the unit, and
nothing is counted or acknowledged (R186; log 72). -/
def packetStep (unit : Nat) (s : State) : Told :=
  match takeDelivered unit (fun p => ! p.isCell) s with
  | none => .ok s
  | some ((p, _), s) =>
    let e := tget ({} : MsgEntry) s.msgs.table (entryIdx p)
    if p.multicast then landPacket unit p s
    else match arrivalOf p e with
    | .restart ab => takePacket unit p {} (if ab then countR .SW_MSG_ABANDONED [] s else s)
    | .count => takePacket unit p e s
    | .done => .ok ((if p.last then ackMessage p else id) (countR .SW_STALE_DISCARDS [] s))
    | .stale => .ok (countR .SW_STALE_DISCARDS [] s)

/-- PACKET_ARRIVE (R164). -/
def execPacketArrive (unit : Nat) (s : State) : Host.Outcome State Fault Refusal :=
  runIf (decide (unit < 48)) (fun s => runTold (packetStep unit s) s) s

/-- MSG_ENTRY_EXPIRE (R168). -/
def execMsgEntryExpire (srcAddr : BitVec 16) (cred : Nat) (s : State) : Host.Outcome State Fault Refusal :=
  runIf (decide (cred < 16)) (setEntry (srcAddr.toNat * 16 + cred) {}) s

/-! Acknowledgements (R166, R169). -/

/-- The 32-bit words an acknowledgement cell carries. -/
def ackWords (p : Packet) : List Nat := (List.range (min 12 p.tag.toNat)).map (fun i => fieldAt p.payload (4 * i) 4)

/-- An MSGID acknowledges an outstanding message: any TRY up to the current one (R166). -/
def ackMatches (src : BitVec 16) (id : Nat) (m : OutMsg) : Bool :=
  decide (m.dest = src) && decide (m.cred = nbits 29 26 id) && decide (m.gen = nbits 25 12 id) && decide (nbits 31 30 id ≤ m.try_)

/-- Take one acknowledged MSGID. -/
def takeMack (src : BitVec 16) (id : Nat) (s : State) : Told :=
  match s.msgs.outst.find? (ackMatches src id) with
  | none => .ok s
  | some m =>
    let s := modMsgs (fun k => { k with outst := k.outst.filter (fun x => ! ackMatches src id x) }) s
    let s := setR .SW_MSG_OUTSTANDING [] (getR .SW_MSG_OUTSTANDING [] s - 1) (countR .SW_MSG_ACKED [] s)
    unitAcked false m.unit s

/-- Take the oldest MACK. -/
def mackStep (s : State) : Told :=
  match takeDelivered 26 (isKind 0x10) s with
  | none => .ok s
  | some ((p, _), s) => settleUnits (tellAll (ackWords p) s (takeMack p.src))

/-- MACK_RECEIVE (R166). -/
def execMackReceive (s : State) : Host.Outcome State Fault Refusal := runIf true (fun s => runTold (mackStep s) s) s

/-- An entry of a CACK names an unacknowledged cell (R169). -/
def cackMatches (src : BitVec 16) (w : Nat) (c : OutCell) : Bool :=
  decide (c.dest = src) && decide (c.kind = w % 256) && decide (c.seq = w / 256 % 256)

/-- Take one entry of a CACK. -/
def takeCack (src : BitVec 16) (w : Nat) (s : State) : Told :=
  match s.msgs.cells.find? (cackMatches src w) with
  | none => .ok s
  | some c =>
    unitAcked true c.unit (modMsgs (fun k => { k with cells := k.cells.filter (fun x => ! cackMatches src w x) }) s)

/-- Take the oldest CACK. -/
def cackStep (s : State) : Told :=
  match takeDelivered 26 (isKind 0x11) s with
  | none => .ok s
  | some ((p, _), s) => settleUnits (tellAll (ackWords p) s (takeCack p.src))

/-- CACK_RECEIVE (R169). -/
def execCackReceive (s : State) : Host.Outcome State Fault Refusal := runIf true (fun s => runTold (cackStep s) s) s

/-! Timeouts (R167, R169, R171). -/

/-- A message of an exchange engine that is sent no further: its tag is not active, or its stream is cut (R90, R91). -/
def stopped (u : MsgUnit) (s : State) : Bool :=
  match u with
  | .xeBulk die t run =>
    (match activeExch die t s with
    | none => true
    | some e => (match e.runs[run]? with | some r => e.cutOut (e.streamOf r) | none => false))
  | .xeReturn die t _ _ o => (match activeExch die t s with | none => true | some e => e.cutIn o)
  | _ => false

/-- A message times out: it is resent whole with the next TRY, or fails and marks its destination; one that is sent no further fails
without a mark (log 69). -/
def messageExpire (dest : BitVec 16) (cred : Nat) (s : State) : Told :=
  let isIt := fun (m : OutMsg) => decide (m.dest = dest) && decide (m.cred = cred)
  match s.msgs.outst.find? isIt with
  | none => .ok s
  | some m =>
    if m.try_ < resendLimit s && ! stopped m.unit s then
      let m := { m with try_ := m.try_ + 1, packets := resendPackets m }
      let s := modMsgs (fun k => { k with outst := k.outst.map (fun x => if isIt x then m else x) }) (bumpEpoch s)
      .ok (sendPackets m (countR .SW_MSG_RESENDS [] s))
    else
      let s := modMsgs (fun k => { k with outst := k.outst.filter (fun x => ! isIt x) }) s
      let s := setR .SW_MSG_OUTSTANDING [] (getR .SW_MSG_OUTSTANDING [] s - 1) (countR .SW_MSG_FAILED [] s)
      settleUnits (if stopped m.unit s then unitAcked false m.unit s else unitLost false m.unit none dest (markUnreachable dest s))

/-- MESSAGE_TIMEOUT (R167). -/
def execMessageTimeout (dest : BitVec 16) (cred : Nat) (s : State) : Host.Outcome State Fault Refusal :=
  runIf (decide (cred < 16)) (fun s => runTold (messageExpire dest cred s) s) s

/-- A cell times out: it is resent with RETX and its SEQ, which raises the path epoch (R152), or fails; an XCOUNT has no limit (R169). -/
def cellExpire (dest : BitVec 16) (kind seq : Nat) (s : State) : Told :=
  let isIt := fun (c : OutCell) => decide (c.dest = dest) && decide (c.kind = kind) && decide (c.seq = seq)
  match s.msgs.cells.find? isIt with
  | none => .ok s
  | some c =>
    if kind = 1 ∨ c.tries < resendLimit s then
      let c := { c with tries := c.tries + 1, pkt := { c.pkt with retx := true } }
      .ok (inject c.inp c.pkt (modMsgs (fun k => { k with cells := k.cells.map (fun x => if isIt x then c else x) }) (bumpEpoch s)))
    else
      let s := modMsgs (fun k => { k with cells := k.cells.filter (fun x => ! isIt x) }) s
      settleUnits (unitLost true c.unit none dest (markUnreachable dest s))

/-- CELL_TIMEOUT (R169). -/
def execCellTimeout (dest : BitVec 16) (kind : Nat) (seq : BitVec 8) (s : State) : Host.Outcome State Fault Refusal :=
  runIf true (fun s => runTold (cellExpire dest kind seq.toNat s) s) s

/-- TRAFFIC_HOLD_EXPIRE (R168). -/
def execTrafficHoldExpire (s : State) : Host.Outcome State Fault Refusal :=
  runIf true (fun s => runTold (pump (modMsgs (fun k => { k with hold := false }) s)) s) s

end Sys2Proof.Machine
end

