-- ==== Sys2Proof/Machine/Records.lean ====
section
/-! DEFINITION. Command queues and records (R383 to R391, R297 to R299): windows, the order of taking and completing, conditions
and signals, rejection, the status mirror, and how one record is run. -/

namespace Sys2Proof.Machine

open Sys2Proof

/-! Queues (R383 to R386). -/

abbrev Qs.disabled : Nat := 0
abbrev Qs.running : Nat := 1
abbrev Qs.stopped : Nat := 2

/-- A command queue beside its registers. -/
def queueOf (q : Nat) (s : State) : CmdQ := tget {} s.queues q

/-- Change a command queue; its mirror is due. -/
def modQueue (q : Nat) (f : CmdQ → CmdQ) (s : State) : State :=
  { s with queues := tmod {} s.queues q (fun k => { f k with mirrorDue := true }) }

/-- The state of a queue. -/
def queueState (q : Nat) (s : State) : Nat := getF F.CMD_Q_STATUS_STATE [q] s

/-- NEXT of a queue. -/
def queueNext (q : Nat) (s : State) : Nat := getF F.CMD_Q_STATUS_NEXT [q] s

/-- The function that owns a queue; none for a reserved code. -/
def queueOwner (q : Nat) (s : State) : Option Requester :=
  let o := getF F.CMD_Q_CFG_OWNER [q] s
  if o < 16 then some (.vf o) else if o = 16 then some .pf else none

/-- All 64 bytes of a slot are present (R384). -/
def slotFull (k : CmdQ) (i : Nat) : Bool := (List.range 64).all (fun j => tget false k.have_ (64 * i + j))

/-- The bytes of a slot. -/
def slotBytes (k : CmdQ) (i : Nat) : List Byte := (List.range 64).map (fun j => tget 0 k.slots (64 * i + j))

/-- Empty a slot. -/
def clearSlot (i : Nat) (k : CmdQ) : CmdQ :=
  { k with have_ := tfilter (fun b => decide (b / 64 ≠ i)) k.have_, slots := tfilter (fun b => decide (b / 64 ≠ i)) k.slots }

/-- Take records in sequence while the next one is complete (R384; `fuel` at most). -/
def takeRecords (q : Nat) : Nat → State → State
  | 0, s => s
  | n + 1, s =>
    let k := queueOf q s
    let next := queueNext q s
    let bs := slotBytes k (next % 64)
    if slotFull k (next % 64) ∧ fieldAt bs 0 4 = next then
      takeRecords q n (setF F.CMD_Q_STATUS_NEXT [q] (next + 1)
        (modQueue q (fun k => clearSlot (next % 64) { k with recs := k.recs ++ [⟨BitVec.ofNat 32 next, bs, false, false, false⟩] }) s))
    else s

/-- A complete record whose SEQ is out of range (R385). -/
def badSlot (q : Nat) (s : State) : Bool :=
  let k := queueOf q s
  (List.range 64).any (fun i =>
    slotFull k i && decide (64 ≤ (fieldAt (slotBytes k i) 0 4 + 2 ^ 32 - queueNext q s) % 2 ^ 32))

/-- Put the bytes of a write into a window from `off`. -/
def putBytes (k : CmdQ) (off : Nat) (bs : List Byte) : CmdQ :=
  (bs.zipIdx).foldl (fun k b =>
    { k with have_ := tset false k.have_ (off + b.2) true, slots := tset 0 k.slots (off + b.2) b.1 }) k

/-- A write to the window of queue `q` (R384, R385). -/
def windowWrite (q off : Nat) (bs : List Byte) (s : State) : State :=
  let s := { s with queues := tmod {} s.queues q (fun k => putBytes k off bs) }
  if badSlot q s then
    setF F.CMD_Q_STATUS_STATE [q] Qs.stopped (setF F.CMD_Q_STATUS_FAIL_STATUS [q] St.notPermitted (modQueue q id s))
  else takeRecords q 64 s

/-- Writes to command windows are taken (R434, R447, R478). -/
def windowsTaken (s : State) : Bool := decide (Dv.idle ≤ deviceState s) && ! s.bc.removing

/-- A write to BAR2 of a function, window by window (`fuel` windows at most): only the running queues it owns take it (R487). -/
def bar2Write (fn : Requester) : Nat → Nat → List Byte → State → State
  | 0, _, _, s => s
  | n + 1, off, bs, s =>
    if bs.isEmpty then s
    else
      let q := off / 4096
      let k := 4096 - off % 4096
      let s :=
        if q < 64 ∧ queueOwner q s = some fn ∧ queueState q s = Qs.running then windowWrite q (off % 4096) (bs.take k) s else s
      bar2Write fn n (off + k) (bs.drop k) s

/-- COMMAND_WINDOW_WRITE (R384). -/
def execCommandWindowWrite (fn : Requester) (off : Nat) (data : List (BitVec 8)) (s : State) : Host.Outcome State Fault Refusal :=
  runIf (fn.wf && windowsTaken s && (match fn with | .vf v => decide (v < s.pcie.numVfs) | _ => true))
    (bar2Write fn (data.length / 4096 + 2) off data) s

/-- Setting ENABLE (R385): NEXT becomes SEQ_START and the slots are empty; records taken before go on. -/
def queueEnable (q : Nat) (s : State) : State :=
  if getF F.CMD_Q_CFG_ENABLE [q] s = 1 then s
  else
    let start := getF F.CMD_Q_CFG_SEQ_START [q] s
    let s := setF F.CMD_Q_CFG_ENABLE [q] 1 (setF F.CMD_Q_STATUS_NEXT [q] start (setF F.CMD_Q_STATUS_STATE [q] Qs.running s))
    modQueue q (fun k => { k with have_ := [], slots := [], recs := k.recs.map (fun r => { r with old := true }),
                                  done := BitVec.ofNat 32 start, rejected := 0, irqs := [] }) s

/-- Clearing ENABLE (R385). -/
def queueDisable (q : Nat) (s : State) : State :=
  if getF F.CMD_Q_CFG_ENABLE [q] s = 0 then s
  else
    let s := setF F.CMD_Q_CFG_ENABLE [q] 0 (setF F.CMD_Q_STATUS_STATE [q] Qs.disabled s)
    modQueue q (fun k => { k with have_ := [], slots := [] }) s

/-- QUEUE_ENABLE. -/
def execQueueEnable (fn : Requester) (q : Nat) (s : State) : Host.Outcome State Fault Refusal :=
  runIf (decide (q < 64) && fnAllowed fn (regOff .CMD_Q_CFG [q]) s) (queueEnable q) s

/-- QUEUE_DISABLE. -/
def execQueueDisable (fn : Requester) (q : Nat) (s : State) : Host.Outcome State Fault Refusal :=
  runIf (decide (q < 64) && fnAllowed fn (regOff .CMD_Q_CFG [q]) s) (queueDisable q) s

/-- The 64 bytes of a status mirror (R386). -/
def mirrorBytes (q : Nat) (s : State) : List Byte :=
  let k := queueOf q s
  natLe 4 (queueNext q s) ++ natLe 4 k.done.toNat ++ natLe 1 (queueState q s) ++
  natLe 1 (getF F.CMD_Q_STATUS_FAIL_STATUS [q] s) ++ zeros 2 ++ natLe 4 k.rejSeq.toNat ++ natLe 8 (timeNow s).toNat ++
  natLe 8 k.rejected ++ zeros 32

/-- Write a due status mirror, and raise the queue's vector for the records with IRQ it shows complete (R386). -/
def writeMirror (q : Nat) (s : State) : State :=
  let a := getF F.CMD_Q_MIRROR_ADDR [q] s * 64
  let k := queueOf q s
  if ! k.mirrorDue ∨ a = 0 then s
  else
    let s := hostWriteBy (match queueOwner q s with | some f => fnIdx f | none => 16) a (mirrorBytes q s) s
    let s := { s with queues := tmod {} s.queues q (fun k => { k with mirrorDue := false, irqs := [] }) }
    if k.irqs.isEmpty then s
    else
      match queueOwner q s with
      | some f => raiseVector (fnIdx f) (getF F.CMD_Q_CFG_VECTOR [q] s % 64) s
      | none => s

/-- MIRROR_WRITE (R386). -/
def execMirrorWrite (q : Nat) (s : State) : Host.Outcome State Fault Refusal := runIf (decide (q < 64)) (writeMirror q) s

/-! Completion (R386, R388, R390). -/

/-- The command processor as a unit of a rope. -/
def cmdWho (r : Nat) : Who := { reach := .die, rope := r, core := 0, id := 544 }

/-- The function for which the command processor uses host memory: the owner of the queue a record came from (R389). -/
def waiterFn (w : Waiter) (s : State) : Nat :=
  match w with
  | .window q _ => (match queueOwner q s with | some f => fnIdx f | none => 16)
  | .instr _ => 16

/-- Apply the signal of a record's header (R387, R388). -/
def recordSignal (bs : List Byte) (s : State) : State :=
  let b := fieldAt bs 12 2
  if 4096 ≤ b then s
  else settleSlots (signalBy 544 true b (decide (fieldAt bs 14 1 % 2 = 1)) (BitVec.ofNat 64 (fieldAt bs 32 8)) s)

/-- Take complete records off the front of a queue: DONE passes them, their interrupts are due (R386; `fuel` at most). -/
def popDone : Nat → CmdQ → CmdQ
  | 0, k => k
  | n + 1, k =>
    match k.recs with
    | r :: t =>
      if ! r.done then k
      else if r.old then popDone n { k with recs := t }
      else popDone n { k with recs := t, done := r.seq + 1,
                              irqs := if fieldAt r.bytes 5 1 % 2 = 1 then k.irqs ++ [r.seq] else k.irqs }
    | [] => k

/-- Change the first record of a list that satisfies `p`. -/
def modFirst (p : Rec → Bool) (f : Rec → Rec) : List Rec → List Rec
  | [] => []
  | r :: t => if p r then f r :: t else r :: modFirst p f t

/-- A record that has begun to run completes. -/
def finishRec (q : Nat) (p : Rec → Bool) (s : State) : State :=
  modQueue q (fun k =>
    let l := modFirst p (fun r => { r with started := true, done := true }) k.recs
    popDone l.length { k with recs := l }) s

/-- A record, or an instruction's command, completes: its signal is applied (R388). -/
def completeWaiter (w : Waiter) (s : State) : State :=
  match w with
  | .window q seq =>
    let isIt := fun (r : Rec) => decide (r.seq = seq) && r.started && ! r.done
    (match (queueOf q s).recs.find? isIt with
    | some r => recordSignal r.bytes (finishRec q isIt s)
    | none => s)
  | .instr c => if c.rec_.isEmpty then s else recordSignal c.rec_ s

/-- Complete several. -/
def completeAll (l : List Waiter) (s : State) : State := forList l s completeWaiter

/-- The next record of a queue to run is rejected (R390). -/
def rejectRec (q status : Nat) (s : State) : State :=
  let isIt := fun (r : Rec) => ! r.started
  match (queueOf q s).recs.find? isIt with
  | none => s
  | some r =>
    let s := modQueue q (fun k => { k with rejSeq := r.seq, rejected := k.rejected + 1 }) (finishRec q isIt s)
    raiseEvent { status := status, cls := 3, source := 0x01, unit := q } (setF F.CMD_Q_STATUS_FAIL_STATUS [q] status s)

/-! Running a record (R388 to R391). -/

/-- A record about to run: who waits for it, its bytes, its queue's owner, and the rope and core of the instruction that
passed it. -/
structure Job where
  waiter : Waiter
  bytes : List Byte
  owner : Requester
  byInstr : Option (Nat × Nat) := none

/-- A field of a record. -/
def Job.fld (j : Job) (off n : Nat) : Nat := fieldAt j.bytes off n
def Job.op (j : Job) : Nat := j.fld 4 1
/-- The rope a body names. -/
def Job.rope (j : Job) : Nat := j.fld 40 1

/-- The one rope a record may name, where it is not the physical function's (R391). -/
def Job.ownRope (j : Job) (s : State) : Option (Option Nat) :=
  match j.byInstr, j.owner with
  | some (r, _), _ => some (some r)
  | none, .vf v => some (vfRope v s)
  | none, _ => none

/-- The record may name rope `r`. -/
def Job.mayName (j : Job) (r : Nat) (s : State) : Bool :=
  decide (r < 16) && (match j.ownRope s with | none => true | some o => decide (o = some r))

/-- A belay the record may name: any for the physical function, else one of its rope (R388). -/
def Job.belayOk (j : Job) (b : Nat) (s : State) : Bool :=
  decide (b = 0xFFFF) || (decide (b < 4096) &&
    (match j.ownRope s with
    | none => true
    | some (some r) => decide ((ropeOf r s).belayFirst ≤ b ∧ b < (ropeOf r s).belayFirst + (ropeOf r s).belayCount)
    | some none => false))

/-- The header keeps the rules of R387 and R388. -/
def Job.headerOk (j : Job) (s : State) : Bool :=
  decide (j.fld 5 1 < 2) && decide (j.fld 6 2 = 0) && decide (j.fld 14 1 < 2) && decide (j.fld 15 1 = 0) &&
  (if j.byInstr.isSome then decide (j.fld 8 2 = 0xFFFF ∧ j.fld 10 2 = 0xFFFF) else j.belayOk (j.fld 8 2) s && j.belayOk (j.fld 10 2) s) &&
  j.belayOk (j.fld 12 2) s

/-- Body bytes from `lo` to before `hi` are zero. -/
def Job.zeroBody (j : Job) (lo hi : Nat) : Bool := ((j.bytes.drop lo).take (hi - lo)).all (fun b => decide (b = 0))

/-- One condition of a record holds (R261, R388). -/
def recordWait (b thr : Nat) (s : State) : Bool := decide (4096 ≤ b) || decide (thr ≤ (devBelay b s).toNat)

/-- Both conditions of a record hold. -/
def Job.waitsHold (j : Job) (s : State) : Bool :=
  recordWait (j.fld 8 2) (j.fld 16 8) s && recordWait (j.fld 10 2) (j.fld 24 8) s

/-- How a command begun by a record stands: complete, rejected with a status, going on, or not to be begun yet. -/
inductive Act where
  | done (s : State)
  | reject (status : Nat)
  | going (s : State)
  | later

/-- What a command does. -/
abbrev Cmd := Job → State → Except Stop Act

/-- The operations of R391. -/
def knownOp (op : Nat) : Bool := decide (1 ≤ op ∧ op ≤ 0x0F)

/-- Mark the record about to run as begun. -/
def startRec (q : Nat) (s : State) : State :=
  modQueue q (fun k => { k with recs := modFirst (fun r => ! r.started) (fun r => { r with started := true }) k.recs }) s

/-- Run the next record of a queue when it is command `op` (R388, R390); one with a reserved OP is rejected whichever command
is asked for. -/
def runWindow (q op : Nat) (f : Cmd) (s : State) : State :=
  match (queueOf q s).recs.find? (fun r => ! r.started), queueOwner q s with
  | some r, some owner =>
    let j : Job := { waiter := .window q r.seq, bytes := r.bytes, owner := owner }
    if ! knownOp j.op then rejectRec q St.notPermitted s
    else if j.op ≠ op then s
    else if ! j.headerOk s then rejectRec q St.notPermitted s
    else if ! j.waitsHold s then s
    else
      match f j s with
      | .error (.need l h off) => askLender (cmdWho (j.rope % 16)) l h off s
      | .error (.fault st _) => rejectRec q st (endAccess 544 st s)
      | .ok (.reject st) => rejectRec q st (dropReads 544 s)
      | .ok .later => s
      | .ok (.going t) => startRec q (dropReads 544 t)
      | .ok (.done t) => completeWaiter j.waiter (startRec q (dropReads 544 t))
  | _, _ => s

/-- The command an instruction's operation passes (R297). -/
def instrOp (op : Nat) : Nat :=
  match op with
  | 1 => 0x0A
  | 2 => 0x0B
  | 3 => 0x08
  | _ => 0x09

/-- The commands that come before command `i` of a list and from its core. -/
def firstOfCore (l : List InstrCmd) (i : Nat) : Bool :=
  match l[i]? with
  | some c => ! (l.take i).any (fun d => decide (d.core = c.core))
  | none => false

/-- The places of the commands of operation `op` that no earlier command of their core precedes, oldest first: cores are ordered by
belays alone (R298). -/
def instrTurns (op : Nat) (l : List InstrCmd) : List Nat :=
  (List.range l.length).filter (fun i =>
    firstOfCore l i && (match l[i]? with | some c => decide (instrOp c.op = op) | none => false))

/-- The first of them. -/
def nextInstr (op : Nat) (l : List InstrCmd) : Option Nat := (instrTurns op l).head?

/-- The signal an instruction carries (R297). -/
def instrSignal (c : InstrCmd) (s : State) : State :=
  match belay7 c.rope c.sb s with
  | some b => settleSlots (signalDes 544 c.core b c.sop c.sig s)
  | none => s

/-- Run the command at place `i` that an instruction passed: the record or descriptor is read, the signal applied; a rejected one
stops the rope (R297, R299). None: it has to wait. -/
def tryInstr (op : Nat) (f : Cmd) (i : Nat) (s : State) : Option State :=
  match s.instrCmds[i]? with
  | none => none
  | some c =>
    let w := cmdWho c.rope
    let rest := fun (s : State) => endAccess 544 0 { s with instrCmds := dropAt s.instrCmds i }
    let fail := fun (st : Nat) =>
      if ropeState c.rope s = RopeSt.none then rest s else engineFault c.rope c.core 7 c.tag c.pc st 0 (rest s)
    let byRecord := decide (op = 0x08 ∨ op = 0x09)
    match (if byRecord then rdGood w c.reg.toNat 64 s else Except.ok []) with
    | .error (.need l h off) => if readWaits w l h off s then none else some (askLender w l h off s)
    | .error (.fault st _) => some (fail st)
    | .ok bs =>
      let cmd := { c with rec_ := bs }
      let j : Job := { waiter := .instr cmd, bytes := bs, owner := .pf, byInstr := some (c.rope, c.core) }
      if byRecord ∧ (j.op ≠ op ∨ ! j.headerOk s) then some (fail St.notPermitted)
      else
        match f j s with
        | .error (.need l h off) => if readWaits w l h off s then none else some (askLender w l h off s)
        | .error (.fault st _) => some (fail st)
        | .ok (.reject st) => some (fail st)
        | .ok .later => none
        | .ok (.going t) => some (instrSignal c (rest t))
        | .ok (.done t) => some (completeWaiter j.waiter (instrSignal c (rest t)))

/-- Run the first command of operation `op` passed by an instruction that does not have to wait (R298). -/
def runInstr (op : Nat) (f : Cmd) (s : State) : State := ((instrTurns op s.instrCmds).findSome? (fun i => tryInstr op f i s)).getD s

/-- Run a command from where its record lies. -/
def runRecord (src : CmdSrc) (op : Nat) (f : Cmd) (s : State) : Host.Outcome State Fault Refusal :=
  runIf src.wf (match src with | .window q => runWindow q op f | .instr => runInstr op f) s

/-- Read what a record names by DESC or SRC: host memory for a window, the rope's for an instruction (R389); poison is a
fault. -/
def Job.read (j : Job) (a n : Nat) (s : State) : Except Stop (List Byte) :=
  match j.byInstr with
  | some (r, _) => rdGood (cmdWho r) a n s
  | none => if s.mem.anyPoison (hostPlace a) n then .error (.fault St.poison a) else .ok (hostBytes s a n)

/-- The host read of a record that takes effect, with its requester (R389). -/
def Job.note (j : Job) (a n : Nat) (s : State) : State := if j.byInstr.isSome then s else emit (.hostRead (fnIdx j.owner) a n) s

/-- NOP: from a virtual function's queue it names its own rope (R391, R395). -/
def cmdNop : Cmd := fun j s =>
  if j.byInstr.isSome || ! j.zeroBody 41 64 || ! j.mayName j.rope s then .ok (.reject St.notPermitted) else .ok (.done s)

/-- NOP_COMMAND (R388). -/
def execNopCommand (src : CmdSrc) (s : State) : Host.Outcome State Fault Refusal := runRecord src 0x01 cmdNop s

end Sys2Proof.Machine
end

