-- ==== Sys2Proof/Machine/Tables.lean ====
section
/-! DEFINITION. Host-built tables (R25, R44 to R52, R140, R157 to R160, R393, R394): writes to shadow banks and to the tier map,
commits, flips, copy-back, deferred writes. -/

namespace Sys2Proof.Machine

open Sys2Proof

/-! Banks. Commit targets: 0 placement region and layer directory of a rope, 1 rank map of a rope, 2 plan (R394). -/

/-- Change the tables. -/
def modTables (f : Tables → Tables) (s : State) : State := { s with tables := f s.tables }

/-- The active bank of a commit target. -/
def bankOf (target i : Nat) (s : State) : Nat :=
  let bit := match target with
    | 0 => (getF F.RTE_PT_ACTIVE_BANK [] s).testBit i
    | 1 => (getF F.SW_RANKMAP_BANKS_BANK [] s).testBit i
    | _ => (getR .SW_PLAN_BANK [] s).getLsbD i
  if bit then 1 else 0

/-- A commit of a target waits for its flip. -/
def pendingOf (target i : Nat) (s : State) : Bool :=
  match target with
  | 0 => (getF F.RTE_PT_ACTIVE_PENDING [] s).testBit i
  | 1 => (getF F.SW_RANKMAP_BANKS_PENDING [] s).testBit i
  | _ => (getR .SW_PLAN_PENDING [] s).getLsbD i

/-- A number with bit `i` set or cleared. -/
def withBit (n i : Nat) (b : Bool) : Nat := if n.testBit i = b then n else n ^^^ 2 ^ i

/-- Set or clear a target's pending bit. -/
def setPending (target i : Nat) (b : Bool) (s : State) : State :=
  match target with
  | 0 => setF F.RTE_PT_ACTIVE_PENDING [] (withBit (getF F.RTE_PT_ACTIVE_PENDING [] s) i b) s
  | 1 => setF F.SW_RANKMAP_BANKS_PENDING [] (withBit (getF F.SW_RANKMAP_BANKS_PENDING [] s) i b) s
  | _ => setR .SW_PLAN_PENDING [] (BitVec.ofNat 64 (withBit (getR .SW_PLAN_PENDING [] s).toNat i b)) s

/-- Give a target an active bank. -/
def setBank (target i b : Nat) (s : State) : State :=
  match target with
  | 0 => setF F.RTE_PT_ACTIVE_BANK [] (withBit (getF F.RTE_PT_ACTIVE_BANK [] s) i (decide (b = 1))) s
  | 1 => setF F.SW_RANKMAP_BANKS_BANK [] (withBit (getF F.SW_RANKMAP_BANKS_BANK [] s) i (decide (b = 1))) s
  | _ => setR .SW_PLAN_BANK [] (BitVec.ofNat 64 (withBit (getR .SW_PLAN_BANK [] s).toNat i (decide (b = 1)))) s

/-- The commit target a table of R393 belongs to. -/
def commitClass (table : Nat) : Nat := if table < 2 then 0 else if table = 2 then 1 else 2

/-- Whether a held write belongs to a commit target. -/
def Deferred.of (d : Deferred) (target i : Nat) : Bool := decide (commitClass d.target = target) && decide (d.index = i)

/-- A write of a table waits for a flip or a copy-back (R52), or behind one of its target that waits. -/
def writeHeld (table i : Nat) (s : State) : Bool :=
  pendingOf (commitClass table) i s || s.tables.copyBack.contains (commitClass table, i) ||
  s.tables.deferred.any (fun d => d.of (commitClass table) i)

/-- A held write may land: the flip it waited for has happened, and no copy-back of its target is under way (R52). -/
def Deferred.free (d : Deferred) (s : State) : Bool := ! d.flip && ! s.tables.copyBack.contains (commitClass d.target, d.index)

/-- Bytes of an entry of a table (R393). -/
def entryBytes (table : Nat) : Nat := match table with | 0 => 16 | 1 => 8 | 2 => 4 | 3 => 8 | _ => 16

/-- Put one entry into a bank of a table. -/
def putEntry (table i bank first : Nat) (bs : List Byte) (t : Tables) : Tables :=
  let v := leNat bs
  match table with
  | 0 => { t with placement := tset 0 t.placement (bank * 262144 + first) (BitVec.ofNat 128 v) }
  | 1 => { t with layerDir := tset 0 t.layerDir ((i * 2 + bank) * 256 + first) (BitVec.ofNat 64 v) }
  | 2 => { t with rankMap := tset 0 t.rankMap ((i * 2 + bank) * 32768 + first) (BitVec.ofNat 32 v) }
  | 3 => { t with planDir := tset 0 t.planDir (i * 2 + bank) (BitVec.ofNat 64 v) }
  | _ => { t with planLine := tset 0 t.planLine ((i * 2 + bank) * 1024 + first) (BitVec.ofNat 128 v) }

/-- Write entries into the shadow bank of a table. -/
def shadowWrite (table i first : Nat) (es : List (List Byte)) (s : State) : State :=
  let b := 1 - bankOf (commitClass table) i s
  let s := if table = 0 then cleanEntries (b * 262144 + first) es.length s else s
  modTables (fun t => (es.zipIdx).foldl (fun t e => putEntry table i b (first + e.2) e.1 t) t) s

/-- Change the indexes of a table from one block to another: what lies in block `a` of `n` entries is copied to block `b`. -/
def copyBlock {α : Type} [DecidableEq α] (d : α) (n a b : Nat) (t : Tab α) : Tab α :=
  let src := t.filter (fun e => decide (a ≤ e.1 ∧ e.1 < a + n))
  src.foldr (fun e o => tset d o (e.1 - a + b) e.2) (tfilter (fun k => ! decide (b ≤ k ∧ k < b + n)) t)

/-- Empty a block of a table. -/
def dropBlock {α : Type} (n a : Nat) (t : Tab α) : Tab α := tfilter (fun k => ! decide (a ≤ k ∧ k < a + n)) t

/-- Entries of the placement table are copied with their poison. -/
def copyEntryPoison (n a b : Nat) (s : State) : State :=
  let src := (s.mem.poison.filter (fun w => decide (hubWord a ≤ w) && decide (w < hubWord (a + n)))).map (fun w => w - hubWord a)
  let s := cleanEntries b n s
  { s with mem := src.foldl (fun m i => m.setPoison (16 * hubWord (b + i))) s.mem }

/-- Copy the active bank of a target into its shadow bank (R52). -/
def copyBackNow (target i : Nat) (s : State) : State :=
  let a := bankOf target i s
  let b := 1 - a
  let k := ropeOf i s
  let s := if target = 0 then
      copyEntryPoison k.ptSize (a * 262144 + k.ptBase) (b * 262144 + k.ptBase) (findTableErrors (a * 262144 + k.ptBase) k.ptSize s)
    else s
  modTables (fun t =>
    match target with
    | 0 =>
      let base := (ropeOf i s).ptBase
      { t with placement := copyBlock 0 (ropeOf i s).ptSize (a * 262144 + base) (b * 262144 + base) t.placement,
               layerDir := copyBlock 0 256 ((i * 2 + a) * 256) ((i * 2 + b) * 256) t.layerDir }
    | 1 => { t with rankMap := copyBlock 0 32768 ((i * 2 + a) * 32768) ((i * 2 + b) * 32768) t.rankMap }
    | _ => { t with planDir := copyBlock 0 1 (i * 2 + a) (i * 2 + b) t.planDir,
                    planLine := copyBlock 0 1024 ((i * 2 + a) * 1024) ((i * 2 + b) * 1024) t.planLine }) s

/-! Plans and calendar slots (R157 to R160). -/

/-- The directory entry of a plan's bank: JOB and LINES. -/
def planDirAt (p b : Nat) (s : State) : Nat × Nat :=
  let d : BitVec 64 := tget 0 s.tables.planDir (p * 2 + b)
  (bits 11 0 d, bits 26 16 d)

/-- The calendar slots a bank of a plan needs: port × 256 + slot, and line. -/
def planSlots (p b : Nat) (s : State) : List (Nat × Nat) :=
  (List.range (min 1024 (planDirAt p b s).2)).flatMap (fun i =>
    let e := (tget (0 : BitVec 128) s.tables.planLine ((p * 2 + b) * 1024 + i)).toNat
    let out := nbits 63 56 e
    if 16 ≤ out then []
    else (List.range (nbits 79 72 e)).map (fun j => (out * 256 + (nbits 71 64 e + j * nbits 87 80 e) % 256, nbits 9 0 e)))

/-- The calendar slot is FREE or HELD by the plan (R159). -/
def slotPasses (p x : Nat) (s : State) : Bool :=
  match s.tables.calendar.find? (fun e => decide (e.1 = x)) with
  | none => true
  | some (_, c) => ! c.draining && decide (c.plan = p)

/-- Every slot HELD by a plan that is not needed drains (R159, R160). -/
def drainPlan (p : Nat) (need : List Nat) (s : State) : State :=
  modTables (fun t => { t with calendar := t.calendar.map (fun (e : Nat × CalSlot) =>
    if e.2.plan = p ∧ ! e.2.draining ∧ ! need.contains e.1 then (e.1, { e.2 with draining := true }) else e) }) s

/-- A slot that is not FREE, put into the calendar by its index. -/
def putSlot (x : Nat) (c : CalSlot) : List (Nat × CalSlot) → List (Nat × CalSlot)
  | [] => [(x, c)]
  | e :: t => if x < e.1 then (x, c) :: e :: t else if x = e.1 then (x, c) :: t else e :: putSlot x c t

/-- Flip a plan, or report SLOTS_BUSY (R159). -/
def flipPlan (p : Nat) (s : State) : Nat × State :=
  let b := 1 - bankOf 2 p s
  let need := planSlots p b s
  let s := setPending 2 p false s
  if ! need.all (fun x => slotPasses p x.1 s) then (St.slotsBusy, s)
  else
    let job := (planDirAt p b s).1
    let s := drainPlan p (need.map (fun x => x.1)) s
    let s := modTables (fun t => { t with
      calendar := need.foldl (fun c x => putSlot x.1 ⟨false, job, p, x.2⟩ c) t.calendar }) s
    (St.ok, setBank 2 p b s)

/-- The job whose rope a plan's flip waits for (R158): the new bank's, or the old one's when the plan is cleared. -/
def planJob (p : Nat) (s : State) : Nat :=
  let b := 1 - bankOf 2 p s
  if (planDirAt p b s).2 = 0 then (planDirAt p (1 - b) s).1 else (planDirAt p b s).1

/-! Flips (R51, R394). -/

/-- Flip a target; the status is OK or SLOTS_BUSY. -/
def flipNow (target i : Nat) (s : State) : Nat × State :=
  match target with
  | 0 =>
    let s := setBank 0 i (1 - bankOf 0 i s) (setPending 0 i false s)
    (St.ok, modRope i (fun r => { r with commitCount := r.commitCount + 1 }) (countR .RTE_PT_COMMITS [] s))
  | 1 => (St.ok, setBank 1 i (1 - bankOf 1 i s) (setPending 1 i false s))
  | _ => flipPlan i s

/-- Write a commit's status word (R394). -/
def commitStatus (c : Commit) (st : Nat) (s : State) : Except Stop State :=
  match c.status, c.byRope with
  | none, _ => .ok s
  | some a, none => .ok (hostWriteBy (waiterFn c.who s) a (natLe 4 st) s)
  | some a, some r => tryWr (cmdWho r) a (natLe 4 st) false s

/-- The commits of a target. -/
def commitsOf (target i : Nat) (s : State) : List Commit :=
  s.tables.commits.filter (fun c => decide (c.target = target) && decide (c.index = i))

/-- A pending commit's flip has to wait: an earlier write of its queue has not landed (R25, R51), or a copy-back of its target is
under way (log 68). -/
def commitWaits (target i : Nat) (s : State) : Bool :=
  pendingOf target i s && (s.tables.copyBack.contains (target, i) ||
    (match commitsOf target i s with
    | c :: _ => c.after.any (fun w => s.tables.deferred.any (fun d => decide (d.who = w)))
    | [] => false))

/-- A pending commit takes effect: flip, copy-back if the first record asked for it, status words, completions (R51, R52, R394). -/
def applyCommit (target i : Nat) (s : State) : Except Stop State :=
  if ! pendingOf target i s || commitWaits target i s then .ok s
  else
    let mine := commitsOf target i s
    let (st, s) := flipNow target i s
    let back := decide (st = St.ok) && (match mine with | c :: _ => c.copyBack | [] => false)
    let s := modTables (fun t => { t with
      commits := t.commits.filter (fun c => ! (decide (c.target = target) && decide (c.index = i))),
      deferred := t.deferred.map (fun d => if d.of target i then { d with flip := false } else d),
      copyBack := if back then t.copyBack ++ [(target, i)] else t.copyBack }) s
    foldE mine s (fun c s =>
      match commitStatus c st s with
      | .error e => .error e
      | .ok s => .ok (completeWaiter c.who s))

/-- Every pending commit that waits for rope `r`'s step boundary takes effect (R25, R404). -/
def applyCommits (r : Nat) (s : State) : Except Stop State :=
  match applyCommit 0 r s with
  | .error e => .error e
  | .ok s =>
    match applyCommit 1 r s with
    | .error e => .error e
    | .ok s =>
      foldE (List.range 64) s (fun p s =>
        if pendingOf 2 p s ∧ jobRope (planJob p s) s = some r then applyCommit 2 p s else .ok s)

/-- A boundary of rope `r` has to wait for a commit's earlier writes or copy-back (R51). -/
def flipsWait (r : Nat) (s : State) : Bool :=
  commitWaits 0 r s || commitWaits 1 r s ||
  (List.range 64).any (fun p => commitWaits 2 p s && decide (jobRope (planJob p s) s = some r))

/-- The commits of READY ropes take effect as soon as they are pending (R394). -/
def readyCommits (s : State) : Except Stop State :=
  foldE ((List.range 16).filter (fun r => decide (ropeState r s = RopeSt.ready))) s (fun r s => applyCommits r s)

/-- Run what follows a command that may leave a READY rope with pending commits. -/
def settleReady (s : State) : State :=
  match readyCommits s with
  | .ok t => endAccess 544 0 t
  | .error (.need l h off) => askLender (cmdWho 0) l h off s
  | .error (.fault _ _) => s

/-- COPY_BACK_COMPLETE (R52): the `idx`-th copy-back under way finishes. -/
def execCopyBackComplete (idx : Nat) (s : State) : Host.Outcome State Fault Refusal :=
  runIf true (fun s =>
    match s.tables.copyBack[idx]? with
    | none => s
    | some (target, i) => settleReady (modTables (fun t => { t with copyBack := dropAt t.copyBack idx }) (copyBackNow target i s))) s

/-- PLAN_FLIP (R158, R159): a pending commit of a plan whose job has no rope here, or a READY one. -/
def planFlipStep (p : Nat) (s : State) : State :=
  let go := match jobRope (planJob p s) s with
    | none => true
    | some r => decide (ropeState r s = RopeSt.ready)
  if go then runAccess (cmdWho 0) (applyCommit 2 p s) (fun _ _ s => s) s else s

/-- PLAN_FLIP. -/
def execPlanFlip (plan : Nat) (s : State) : Host.Outcome State Fault Refusal := runIf (decide (plan < 64)) (planFlipStep plan) s

/-! TABLE_WRITE (R393). -/

/-- A rope's state takes table commands (R395). -/
def takesTables (r : Nat) (s : State) : Bool :=
  let st := ropeState r s
  decide (st = RopeSt.ready ∨ st = RopeSt.running ∨ st = RopeSt.stopped ∨ st = RopeSt.suspended)

/-- A record may write or commit a plan (R158): the physical function any; a rope one whose directory names its job or has no
lines. -/
def planAllowed (j : Job) (p : Nat) (s : State) : Bool :=
  decide (p < 64) &&
  (match j.ownRope s with
  | none => true
  | some none => false
  | some (some r) => takesTables r s && (decide ((planDirAt p (bankOf 2 p s) s).2 = 0) ||
      decide ((planDirAt p (bankOf 2 p s) s).1 = ropeJob r s)))

/-- The range of a TABLE_WRITE is one R393 allows. -/
def rangeOk (table i first n : Nat) (s : State) : Bool :=
  match table with
  | 0 => decide ((ropeOf i s).ptBase ≤ first ∧ first + n ≤ (ropeOf i s).ptBase + (ropeOf i s).ptSize)
  | 1 => decide (first + n ≤ 256)
  | 2 => decide (first + n ≤ getF F.SW_RANKMAP_SIZE [i] s)
  | 3 => decide (first = 0 ∧ n = 1)
  | 4 => decide (first + n ≤ 1024)
  | 5 => decide (first + n ≤ (ropeOf i s).tmapPages)
  | _ => false

/-- Cut bytes into entries of `n` (`fuel` at most). -/
def entriesOf (n : Nat) : Nat → List Byte → List (List Byte)
  | 0, _ => []
  | k + 1, bs => if bs.isEmpty then [] else bs.take n :: entriesOf n k (bs.drop n)

/-- An access translated through a tier-map entry of `n` from page `first` of rope `r` is on its way to a lender or back (R359). -/
def pagesBusy (r first n : Nat) (s : State) : Bool :=
  let hit := fun (u : MsgUnit) => match u with
    | .write _ q a _ => decide (q = r) &&
        decide (0x010000000000 + first * 2 ^ 21 ≤ a ∧ a < 0x010000000000 + (first + n) * 2 ^ 21)
    | _ => false
  let old := (s.tables.tierMap.filter (fun (e : Nat × BitVec 128) =>
    decide (r * 4194304 + first ≤ e.1 ∧ e.1 < r * 4194304 + first + n))).map (fun e => e.2)
  s.msgs.waiting.any (fun m => hit m.unit) || s.msgs.outst.any (fun m => hit m.unit) ||
  s.reads.any (fun q => q.answer.isNone && ! q.lost &&
    old.any (fun e => namesLender q.lender e && decide (nbits 63 32 e.toNat = q.lhandle)))

/-- TABLE_WRITE. -/
def cmdTableWrite : Cmd := fun j s =>
  let table := j.fld 40 1
  let i := j.fld 41 1
  let first := j.fld 44 4
  let n := j.fld 48 4
  let allowed :=
    if table = 3 ∨ table = 4 then planAllowed j i s
    else j.mayName i s && takesTables i s && (decide (table ≠ 5) || decide (j.ownRope s = none))
  if ! (decide (table < 6) && allowed && decide (1 ≤ n ∧ n ≤ 4194304) && rangeOk table i first n s &&
        j.zeroBody 42 44 && j.zeroBody 58 64) then .ok (.reject St.notPermitted)
  else
    match j.read (j.fld 52 6) (n * entryBytes table) s with
    | .error e => .error e
    | .ok bs =>
      let es := entriesOf (entryBytes table) n bs
      if table = 5 then
        if pagesBusy i first n s then .ok .later
        else
          match tierMapWrite i first (es.map (fun b => BitVec.ofNat 128 (leNat b))) s with
          | (0, s) => .ok (.done (j.note (j.fld 52 6) (n * entryBytes table) s))
          | (st, _) => .ok (.reject st)
      else
      let s := j.note (j.fld 52 6) (n * entryBytes table) s
      if writeHeld table i s then
        .ok (.going (modTables (fun t => { t with
          deferred := t.deferred ++ [⟨table, i, first, es, j.waiter, pendingOf (commitClass table) i s⟩] }) s))
      else .ok (.done (shadowWrite table i first es s))

/-- TABLE_WRITE. -/
def execTableWrite (src : CmdSrc) (s : State) : Host.Outcome State Fault Refusal := runRecord src 0x08 cmdTableWrite s

/-- TABLE_WRITE_DEFERRED (R52): the oldest write held whose flip and copy-back are over lands. -/
def execTableWriteDeferred (s : State) : Host.Outcome State Fault Refusal :=
  runIf true (fun s =>
    match findIdxFrom (fun (d : Deferred) => d.free s) s.tables.deferred 0 with
    | none => s
    | some k =>
      match s.tables.deferred[k]? with
      | none => s
      | some d =>
        let s := modTables (fun t => { t with deferred := dropAt t.deferred k }) s
        settleReady (completeWaiter d.who (shadowWrite d.target d.index d.first d.entries s))) s

/-- Two records came by the same queue: one window, or one core's instructions. -/
def sameQueue (a b : Waiter) : Bool :=
  match a, b with
  | .window p _, .window q _ => decide (p = q)
  | .instr c, .instr d => decide (c.core = d.core)
  | _, _ => false

/-- TABLE_COMMIT (R394): the pending bit is set; for a READY rope the flip follows at once. -/
def cmdTableCommit : Cmd := fun j s =>
  let target := j.fld 40 1
  let i := j.fld 41 1
  let a := j.fld 44 6
  let allowed := if target = 2 then planAllowed j i s else j.mayName i s && takesTables i s
  if ! (decide (target < 3) && allowed && decide (j.fld 42 1 < 2) && j.zeroBody 43 44 && j.zeroBody 50 64) then
    .ok (.reject St.notPermitted)
  else
    let c : Commit := ⟨target, i, decide (j.fld 42 1 = 1), if a = 0 then none else some a, j.byInstr.map (fun x => x.1), j.waiter,
      (s.tables.deferred.filter (fun d => sameQueue d.who j.waiter)).map (fun d => d.who)⟩
    .ok (.going (modTables (fun t => { t with commits := t.commits ++ [c] }) (setPending target i true s)))

/-- TABLE_COMMIT. -/
def execTableCommit (src : CmdSrc) (s : State) : Host.Outcome State Fault Refusal :=
  match runRecord src 0x09 cmdTableCommit s with
  | .next t => .next (settleReady t)
  | o => o

end Sys2Proof.Machine
end

