-- ==== Sys2Proof/Machine/Steps.lean ====
section
/-! DEFINITION. Step boundaries (R404, R425) and the step composer (R405 to R409). -/

namespace Sys2Proof.Machine

open Sys2Proof

/-! Lock-step states (AUD_LS_STATUS). -/

abbrev Ls.off : Nat := 0
abbrev Ls.running : Nat := 1
abbrev Ls.digesting : Nat := 2
abbrev Ls.waiting : Nat := 3
abbrev Ls.bisecting : Nat := 4
abbrev Ls.frozen : Nat := 5

/-- What the audit unit keeps of a rope's lock-step. -/
def lsOf (r : Nat) (s : State) : LockStep := tget {} s.lockstep r

/-- Change it. -/
def modLs (r : Nat) (f : LockStep → LockStep) (s : State) : State := { s with lockstep := tmod {} s.lockstep r f }

/-- Lock-step is armed for rope `r`. -/
def lsArmed (r : Nat) (s : State) : Bool := decide (getF F.AUD_LS_CTRL_ENABLE [r] s = 1)

/-- The next boundary of rope `r` is a checkpoint (R425). -/
def checkpointDue (r : Nat) (s : State) : Bool :=
  lsArmed r s && decide (((lsOf r s).steps + 1) % max 1 (getF F.AUD_LS_CTRL_EVERY [r] s) = 0)

/-! The composer (R405 to R407). -/

/-- The composer of rope `r` is enabled. -/
def composerOn (r : Nat) (s : State) : Bool := decide (getF F.CMD_COMPOSER_ENABLED [r] s = 1)

/-- Change the composer of rope `r`; its register follows. -/
def modComposer (r : Nat) (f : Composer → Composer) (s : State) : State :=
  let s := modRope r (fun k => { k with composer := f k.composer }) s
  setF F.CMD_COMPOSER_PENDING [r] (ropeOf r s).composer.pend.length
    (setF F.CMD_COMPOSER_ACTIVE [r] (ropeOf r s).composer.act.length s)

/-- The first pending sequence of the highest priority, and the others (R407). -/
def popPending (l : List Seq) : Option (Seq × List Seq) :=
  match l with
  | [] => none
  | _ =>
    let top := (l.map (fun q => q.prio)).foldl max 0
    match findIdxFrom (fun (q : Seq) => decide (q.prio = top)) l 0 with
    | none => none
    | some i => (l[i]?).map (fun q => (q, dropAt l i))

/-- The lowest slot no active sequence holds. -/
def lowestSlot (act : List Seq) : Nat :=
  ((List.range (act.length + 1)).find? (fun k => ! act.any (fun q => decide (q.slot = k)))).getD act.length

/-- Admission (R407; `fuel` sequences at most). -/
def admitSeqs (maxSeqs : Nat) : Nat → List Seq → List Seq → List Seq × List Seq
  | 0, act, pend => (act, pend)
  | n + 1, act, pend =>
    if maxSeqs ≤ act.length then (act, pend)
    else
      match popPending pend with
      | none => (act, pend)
      | some (q, rest) => admitSeqs maxSeqs n (act ++ [{ q with slot := lowestSlot act, done := 0, pos := 0, decoding := false }]) rest

/-- Token steps, rotated by the step, `s + i` in 32 bits (R12): entries, tokens left, sequences deferred (R407). -/
def tokenSteps (step : Nat) (dec : List Seq) (left : Nat) : List StepEntry × Nat × Nat :=
  (List.range dec.length).foldl (fun (a : List StepEntry × Nat × Nat) i =>
    match dec[(step + i) % 2 ^ 32 % dec.length]? with
    | none => a
    | some q => if a.2.1 = 0 then (a.1, 0, a.2.2 + 1) else (a.1 ++ [⟨q.id, q.slot, 0, false, q.pos, 1⟩], a.2.1 - 1, a.2.2))
    ([], left, 0)

/-- Prompt chunks: no short partial chunk; the first sequence that cannot go on ends them (R407). -/
def promptChunks (chunk : Nat) : List Seq → Nat → List StepEntry
  | [], _ => []
  | q :: t, left =>
    let rest := q.prompt - q.done
    let c := min (min rest chunk) left
    if c = 0 ∨ (c < rest ∧ c < 512) then []
    else ⟨q.id, q.slot, 1, decide (c = rest), q.done, c⟩ :: promptChunks chunk t (left - c)

/-- The bytes of an entry of a step buffer (R406). -/
def stepEntryBytes (e : StepEntry) : List Byte :=
  natLe 4 e.id.toNat ++ natLe 2 e.slot ++ natLe 1 e.kind ++ natLe 1 (if e.final then 1 else 0) ++ natLe 4 e.pos ++ natLe 4 e.count

/-- The bytes of a step buffer (R406). -/
def stepBytes (step epoch : Nat) (es : List StepEntry) : List Byte :=
  natLe 4 step ++ natLe 2 epoch ++ zeros 2 ++ natLe 4 es.length ++ natLe 4 (es.map (fun e => e.count)).sum ++ zeros 48 ++
  es.flatMap stepEntryBytes

/-- Compose step `step` of rope `r` (R407): cancelled sequences leave, others are admitted, the entries are chosen, the buffer
is written and READY_BELAY set; with no entry it waits for the next SEQ_ADD. -/
def compose (r step : Nat) (s : State) : Except Stop State :=
  let k := (ropeOf r s).composer
  let live := fun (l : List Seq) => l.filter (fun q => ! q.cancelled)
  let (act, pend) := admitSeqs k.maxSeqs k.maxSeqs (live k.act) (live k.pend)
  let (toks, left, deferred) := tokenSteps step (act.filter (fun q => q.decoding)) k.budget
  let pre := sortBy (fun a b => decide (b.prio < a.prio)) (act.filter (fun q => ! q.decoding))
  let es := toks ++ promptChunks k.chunk pre left
  let s := modComposer r (fun k => { k with act := act, pend := pend, entries := es, step := step, empty := es.isEmpty }) s
  let s := addF F.CMD_COMPOSER_STEP_DEFERRED [r] deferred s
  if es.isEmpty then .ok s
  else
    match tryWr (cmdWho r) (k.stepArea + step % 2 * 0x110000)
        (stepBytes step (getF F.CMD_ROPE_STATE_STEP [r] s) es) false s with
    | .error e => .error e
    | .ok s => .ok (signalBy 544 true k.readyB true (BitVec.ofNat 64 (step + 1)) (setF F.CMD_COMPOSER_STEP_STEP [r] step s))

/-- What one entry's result does to its sequence (R408); none when the sequence ends. -/
def applyResult (e : StepEntry) (fin : Bool) (q : Seq) : Option Seq :=
  if q.id ≠ e.id ∨ q.cancelled then some q
  else if e.kind = 0 then (if fin then none else some { q with pos := q.pos + 1 })
  else if e.final then (if fin then none else some { q with done := q.done + e.count, decoding := true, pos := q.prompt })
  else some { q with done := q.done + e.count }

/-- Apply the results of the step composed last (R408). -/
def applyResults (r : Nat) (s : State) : Except Stop State :=
  let k := (ropeOf r s).composer
  match tryRd (cmdWho r) (k.resultArea + k.step % 2 * 0x10000) k.entries.length s with
  | .error e => .error e
  | .ok (bs, bad) =>
    let act := (k.entries.zipIdx).foldl (fun (l : List Seq) e =>
      l.filterMap (applyResult e.1 (! bad && (bs.getD e.2 0).getLsbD 0))) k.act
    .ok (modComposer r (fun k => { k with act := act, entries := [] }) s)

/-! Boundaries (R404). -/

/-- RTE instructions of rope `r` that a boundary waits for: queued, or saved by a suspend; those accepted after the partner
agreed start after it (R400, R425). -/
def rteBusy (r : Nat) (s : State) : Bool :=
  s.rtes.any (fun e => e.2.queue.any (fun d => decide (d.rope = r) && ! d.late)) || decide (0 < (ropeOf r s).rteHeld) ||
  s.heldSigs.any (fun h => decide (512 ≤ h.who ∧ h.who < 520) &&
    (match h.core with | some c => decide (ropeOfCore c s = some r) | none => false))

/-- RTE instructions of rope `r` no longer wait for a boundary. -/
def clearLate (r : Nat) (s : State) : State :=
  { s with rtes := tmapAll {} (fun _ e => { e with queue := e.queue.map (fun d => if d.rope = r then { d with late := false } else d) }) s.rtes }

/-- The indivisible action at a boundary: flips, the schedule, STEP (R404). -/
def boundaryAction (r : Nat) (s : State) : Except Stop State :=
  match applyCommits r s with
  | .error e => .error e
  | .ok s =>
    match activateSchedule r s with
    | .error e => .error e
    | .ok s =>
      let n := (lsOf r s).steps + 1
      .ok (addF F.CMD_ROPE_STATE_STEP [r] 1 (clearLate r (if lsArmed r s then modLs r (fun k => { k with steps := n }) s else s)))

/-- What the boundary was for: one STEP_MARK completes; the composer goes on with results and the next step. -/
def boundaryAfter (r : Nat) (b : Boundary) (s : State) : Except Stop State :=
  let rest := b.marks.drop 1
  let s := modRope r (fun k => { k with boundary := if rest.isEmpty then none else some { marks := rest } }) s
  let s := completeAll (b.marks.take 1) s
  if b.compose0 then compose r 0 s
  else if b.composer then
    match applyResults r s with
    | .error e => .error e
    | .ok s => compose r (((ropeOf r s).composer.step + 1) % 2 ^ 32) s
  else .ok s

/-- The checkpoint of a boundary ends with it (R425, R430). -/
def checkpointOver (r : Nat) (s : State) : State :=
  let s := modLs r (fun k => { steps := k.steps, outTotal := k.outTotal, inbox := k.inbox, part := k.part }) s
  addF F.AUD_LS_STATUS_CHECKPOINT [r] 1 (setF F.AUD_LS_STATUS_STATE [r] (if lsArmed r s then Ls.running else Ls.off) s)

/-- Apply the boundary of rope `r`. -/
def boundaryApply (r : Nat) (b : Boundary) (s : State) : Except Stop State :=
  match boundaryAction r s with
  | .error e => .error e
  | .ok s => boundaryAfter r b (if b.held then checkpointOver r s else s)

/-- A boundary of rope `r` is tried: it waits for the rope's RTE instructions, a checkpoint is begun and held, or it is
applied (R404, R425). -/
def tryBoundary (r : Nat) (s : State) : Except Stop State :=
  match (ropeOf r s).boundary with
  | none => .ok s
  | some b =>
    let st := ropeState r s
    if ! decide (st = RopeSt.running ∨ st = RopeSt.suspended ∨ st = RopeSt.ready) || rteBusy r s || flipsWait r s then .ok s
    else if b.held then (if b.agreed then boundaryApply r b s else .ok s)
    else if checkpointDue r s then
      .ok (setF F.AUD_LS_STATUS_STATE [r] Ls.digesting (modRope r (fun k => { k with boundary := some { b with held := true } }) s))
    else boundaryApply r b s

/-- Ask for a boundary. -/
def askBoundary (r : Nat) (f : Boundary → Boundary) (s : State) : State :=
  modRope r (fun k => { k with boundary := some (f (k.boundary.getD {})) }) s

/-- Run boundary work of a rope. -/
def runRope (r : Nat) (x : Except Stop State) (s : State) : State := runAccess (cmdWho r) x (fun _ _ s => s) s

/-- STEP_BOUNDARY (R404). -/
def execStepBoundary (rope : Nat) (s : State) : Host.Outcome State Fault Refusal :=
  runIf (decide (rope < 16)) (fun s => runRope rope (tryBoundary rope s) s) s

/-- STEP_MARK (R404). -/
def cmdStepMark : Cmd := fun j s =>
  let r := j.rope
  let st := ropeState r s
  if ! (j.byInstr.isNone && j.mayName r s && decide (st = RopeSt.running ∨ st = RopeSt.suspended) && ! composerOn r s &&
        j.zeroBody 41 64) then .ok (.reject St.notPermitted)
  else .ok (.going (askBoundary r (fun b => { b with marks := b.marks ++ [j.waiter] }) s))

/-- STEP_MARK. -/
def execStepMark (src : CmdSrc) (s : State) : Host.Outcome State Fault Refusal := runRecord src 0x0C cmdStepMark s

/-- A rope's state takes composer commands, and the composer goes on (R395). -/
def takesComposer (r : Nat) (s : State) : Bool :=
  decide (ropeState r s = RopeSt.ready ∨ ropeState r s = RopeSt.running)

/-- COMPOSER_STEP (R408): DONE_BELAY has reached the step composed last. The composer serves a READY or RUNNING rope; from
SUSPENDING to the end of the resume it holds (R400, R401), and a STOPPED rope reaches no boundary (R404). -/
def composerStep (r : Nat) (s : State) : State :=
  let k := (ropeOf r s).composer
  if ! composerOn r s ∨ ! takesComposer r s ∨ k.empty ∨ k.entries.isEmpty ∨
     (devBelay k.doneB s).toNat < k.step + 1 ∨ (ropeOf r s).boundary.isSome then s
  else runRope r (tryBoundary r (askBoundary r (fun b => { b with composer := true }) s)) s

/-- COMPOSER_STEP. -/
def execComposerStep (rope : Nat) (s : State) : Host.Outcome State Fault Refusal :=
  runIf (decide (rope < 16)) (composerStep rope) s

/-! Composer commands (R405, R409). -/

/-- A belay in a rope's range. -/
def ropeBelay (r b : Nat) (s : State) : Bool :=
  decide ((ropeOf r s).belayFirst ≤ b ∧ b < (ropeOf r s).belayFirst + (ropeOf r s).belayCount)

/-- The composer descriptor keeps the rules of R405. -/
def composerOk (r : Nat) (d : List Byte) (s : State) : Bool :=
  let f := fieldAt d
  decide (512 ≤ f 2 2 ∧ f 2 2 ≤ 8192) && decide (1 ≤ f 4 2 ∧ f 4 2 ≤ 16384) && ropeBelay r (f 6 2) s && ropeBelay r (f 8 2) s &&
  decide (f 16 6 % 65536 = 0 ∧ f 24 6 % 65536 = 0) && decide (0x010000000000 ≤ f 16 6 ∧ 0x010000000000 ≤ f 24 6) &&
  decide (f 10 6 = 0 ∧ f 22 2 = 0) && (d.drop 30).all (fun b => decide (b = 0))

/-- Drop a composer's sequences and disable it (R402, R405). -/
def composerOff (r : Nat) (s : State) : State :=
  setF F.CMD_COMPOSER_ENABLED [r] 0 (modComposer r (fun _ => {}) s)

/-- COMPOSE_CFG: the composer is set up, its belays zeroed, a boundary asked for and step 0 begun (R405). -/
def cmdComposeCfg : Cmd := fun j s =>
  let r := j.rope
  if ! (j.byInstr.isNone && j.mayName r s && takesComposer r s && j.zeroBody 41 44 && j.zeroBody 50 64) then
    .ok (.reject St.notPermitted)
  else if j.fld 44 6 = 0 then .ok (.done (composerOff r s))
  else
    match j.read (j.fld 44 6) 64 s with
    | .error e => .error e
    | .ok d =>
      if ! composerOk r d s then .ok (.reject St.notPermitted)
      else
        let f := fieldAt d
        let s := modComposer r (fun _ => {
          budget := f 0 2 + 1, chunk := f 2 2, maxSeqs := f 4 2, readyB := f 6 2, doneB := f 8 2,
          stepArea := f 16 6, resultArea := f 24 6 }) s
        let s := setR .CMD_COMPOSER_STEP [r] 0 (setF F.CMD_COMPOSER_ENABLED [r] 1 s)
        let s := setDevBelay (f 8 2) 0 (setDevBelay (f 6 2) 0 s)
        match tryBoundary r (askBoundary r (fun b => { b with compose0 := true }) s) with
        | .error e => .error e
        | .ok s => .ok (.done (j.note (j.fld 44 6) 64 s))

/-- COMPOSE_CFG. -/
def execComposeCfg (src : CmdSrc) (s : State) : Host.Outcome State Fault Refusal := runRecord src 0x0D cmdComposeCfg s

/-- A sequence is listed, active or pending. -/
def seqListed (id : Nat) (k : Composer) : Bool :=
  k.act.any (fun q => decide (q.id.toNat = id)) || k.pend.any (fun q => decide (q.id.toNat = id))

/-- SEQ_ADD (R409); a composer that emitted nothing composes again (R407). -/
def cmdSeqAdd : Cmd := fun j s =>
  let r := j.rope
  let id := j.fld 44 4
  let n := j.fld 48 4
  let k := (ropeOf r s).composer
  if ! (j.byInstr.isNone && j.mayName r s && takesComposer r s && composerOn r s && decide (j.fld 41 1 < 4) &&
        decide (1 ≤ n ∧ n ≤ 16777216) && j.zeroBody 42 44 && j.zeroBody 52 64 && ! seqListed id k) then
    .ok (.reject St.notPermitted)
  else if 65536 ≤ k.pend.length then .ok (.reject St.quotaExceeded)
  else
    let s := modComposer r (fun k => { k with pend := k.pend ++ [{ id := BitVec.ofNat 32 id, prio := j.fld 41 1, prompt := n }] }) s
    if ! k.empty then .ok (.done s)
    else
      match compose r k.step s with
      | .error e => .error e
      | .ok s => .ok (.done s)

/-- SEQ_ADD. -/
def execSeqAdd (src : CmdSrc) (s : State) : Host.Outcome State Fault Refusal := runRecord src 0x0E cmdSeqAdd s

/-- SEQ_CANCEL (R409): marked now, removed at the next composition. -/
def cmdSeqCancel : Cmd := fun j s =>
  let r := j.rope
  if ! (j.byInstr.isNone && j.mayName r s && takesComposer r s && j.zeroBody 41 44 && j.zeroBody 48 64) then
    .ok (.reject St.notPermitted)
  else
    let mark := fun (l : List Seq) => l.map (fun q => if q.id.toNat = j.fld 44 4 then { q with cancelled := true } else q)
    .ok (.done (modComposer r (fun k => { k with act := mark k.act, pend := mark k.pend }) s))

/-- SEQ_CANCEL. -/
def execSeqCancel (src : CmdSrc) (s : State) : Host.Outcome State Fault Refusal := runRecord src 0x0F cmdSeqCancel s

end Sys2Proof.Machine
end

