-- ==== Sys2Proof/Machine/Ropes.lean ====
section
/-! DEFINITION. The life of a rope (R287, R395 to R399, R402, R403): creation, start, the end of its program, reset, destruction;
COLLECTIVE and COLL_ABORT (R195, R221). -/

namespace Sys2Proof.Machine

open Sys2Proof

/-! Creation (R396, R397). -/

/-- Bytes of a descriptor from `lo` on are zero. -/
def zeroFrom (lo : Nat) (d : List Byte) : Bool := (d.drop lo).all (fun b => decide (b = 0))

/-- The physical clusters of a bit mask, ascending. -/
def clustersOf (m : Nat) : List Nat := (List.range 64).filter (fun q => m.testBit q)

/-- A cluster has an enabled core. -/
def clusterAlive (q : Nat) (s : State) : Bool := (List.range 8).any (fun k => coreEnabled (q * 8 + k) s)

/-- The ropes that exist. -/
def existing (s : State) : List Nat := (List.range 16).filter (fun r => decide (ropeState r s ≠ RopeSt.none))

/-- Two ranges share an element. -/
def rangesMeet (a n b m : Nat) : Bool := decide (a < b + m ∧ b < a + n ∧ 0 < n ∧ 0 < m)

/-- The rope descriptor keeps the ranges of R396. -/
def ropeDescOk (d : List Byte) : Bool :=
  let f := fieldAt d
  decide (f 8 1 < 2) && decide (f 9 1 < 16 ∨ f 9 1 = 0x1F) && decide (f 10 2 < 32768) && decide (1 ≤ f 12 4 ∧ f 12 4 ≤ 32768) &&
  decide (f 20 4 ≤ 262144 ∧ f 16 4 + f 20 4 ≤ 262144) && decide (1 ≤ f 26 2 ∧ f 24 2 + f 26 2 ≤ 4096) &&
  decide (f 28 4 ≤ 4194304) && zeroFrom 48 d

/-- The descriptor takes nothing that another rope holds, and every cluster has an enabled core (R397). -/
def ropeDescFree (job : Nat) (d : List Byte) (s : State) : Bool :=
  let f := fieldAt d
  let cl := clustersOf (f 0 8)
  ! cl.isEmpty && cl.all (fun q => clusterAlive q s && (ropeOfCluster q s).isNone) &&
  (existing s).all (fun o =>
    let k := ropeOf o s
    ! rangesMeet (f 16 4) (f 20 4) k.ptBase k.ptSize && ! rangesMeet (f 24 2) (f 26 2) k.belayFirst k.belayCount &&
    decide (ropeJob o s ≠ job) && (decide (f 9 1 = 0x1F) || decide (getF F.CMD_ROPE_STATE_VF [o] s ≠ f 9 1)))

/-- Ropes a client may have: other values of LIMIT are taken as 16 (R410). -/
def clientLimit (c : Nat) (s : State) : Nat := min 16 (getF F.CMD_CLIENT_LIMIT [c] s)

/-- Empty the tables of rope `r`: both banks of its placement region, layer directory and rank map (R397). -/
def clearTables (r base size : Nat) (s : State) : State :=
  let s := cleanEntries base size (cleanEntries (262144 + base) size s)
  let s := modTables (fun t => { t with
    placement := dropBlock size base (dropBlock size (262144 + base) t.placement),
    layerDir := dropBlock 512 (r * 512) t.layerDir,
    rankMap := dropBlock 65536 (r * 65536) t.rankMap }) s
  setBank 0 r 0 (setPending 0 r false (setBank 1 r 0 (setPending 1 r false s)))

/-- The ledger of rope `r` on every XE, and its quotas and usage, are cleared (R94, R370). -/
def clearCounts (r : Nat) (s : State) : State :=
  let s := forN 8 s (fun d s => dropLatch [regOff .XE_LEDGER_DISPATCHED [d, r], regOff .XE_LEDGER_COMBINED [d, r],
    regOff .XE_LEDGER_DECLINED [d, r], regOff .XE_LEDGER_CANCELLED [d, r], regOff .XE_LEDGER_INFLIGHT [d, r]] s)
  let s := forN 8 s (fun d s => setR .XE_LEDGER_DISPATCHED [d, r] 0 (setR .XE_LEDGER_COMBINED [d, r] 0 (setR .XE_LEDGER_DECLINED [d, r] 0
    (setR .XE_LEDGER_CANCELLED [d, r] 0 (setR .XE_LEDGER_INFLIGHT [d, r] 0 s)))))
  forN 4 s (fun q s => setR .MEM_QUOTA [r, q] 0 s)

/-- Set the device belays of a range to 0. -/
def zeroBelays (first n : Nat) (s : State) : State := forN n s (fun i s => setDevBelay (first + i) 0 s)

/-- A slice cache tagged with rope `r` is invalid. -/
def dropSlices (r : Nat) (s : State) : State :=
  { s with rtes := tmapAll {} (fun _ (e : Rte) =>
      match e.tag with | some (o, _, _) => if o = r then { e with tag := none, slice := [] } else e | none => e) s.rtes }

/-- The registers of a rope that exists. -/
def ropeRegs (r job client : Nat) (d : List Byte) (s : State) : State :=
  let f := fieldAt d
  let s := setR .CMD_ROPE_CLUSTERS [r] (BitVec.ofNat 64 (f 0 8)) s
  let s := setF F.RTE_PT_REGION_SIZE [r] (f 20 4) (setF F.RTE_PT_REGION_BASE [r] (f 16 4) s)
  let s := setF F.SW_RANKMAP_SIZE [r] (f 12 4) (setF F.SW_RANKMAP_JOB [r] job s)
  let s := setF F.CMD_ROPE_STATE_STEP [r] 0 (setF F.CMD_ROPE_STATE_REPRO [r] (f 8 1) (setF F.CMD_ROPE_STATE_VF [r] (f 9 1) s))
  setRopeState r RopeSt.ready (setF F.CMD_ROPE_STATE_JOB [r] job (setF F.CMD_ROPE_STATE_CLIENT [r] client s))

/-- Create rope `r` from its descriptor (R397). -/
def createRope (r job client : Nat) (d : List Byte) (s : State) : State :=
  let f := fieldAt d
  let w := fun (off : Nat) => BitVec.ofNat 64 (f off 8)
  let s := ropeRegs r job client d s
  let s := modRope r (fun _ => {
    rank := f 10 2, ranks := f 12 4, ptBase := f 16 4, ptSize := f 20 4, belayFirst := f 24 2, belayCount := f 26 2,
    tmapPages := f 28 4, seed := w 32, seed0 := w 32, nctrl := w 40 &&& nctrlMask, nctrl0 := w 40 &&& nctrlMask }) s
  let s := zeroBelays (f 24 2) (f 26 2) (clearCounts r (dropSlices r (clearTables r (f 16 4) (f 20 4) s)))
  addF F.CMD_CLIENT_COUNT [client] 1 s

/-- ROPE_CREATE. -/
def cmdRopeCreate : Cmd := fun j s =>
  let r := j.rope
  let job := j.fld 42 2
  let client := j.fld 41 1
  if ! (j.byInstr.isNone && decide (j.owner = .pf) && decide (r < 16) && decide (ropeState r s = RopeSt.none) && decide (job < 4096) &&
        j.zeroBody 50 64) then .ok (.reject St.notPermitted)
  else
    match j.read (j.fld 44 6) 64 s with
    | .error e => .error e
    | .ok d =>
      if ! (ropeDescOk d && ropeDescFree job d s) then .ok (.reject St.notPermitted)
      else if clientLimit client s ≤ getF F.CMD_CLIENT_COUNT [client] s then .ok (.reject St.quotaExceeded)
      else .ok (.done (j.note (j.fld 44 6) 64 (createRope r job client d s)))

/-- ROPE_CREATE (R397). -/
def execRopeCreate (src : CmdSrc) (s : State) : Host.Outcome State Fault Refusal := runRecord src 0x02 cmdRopeCreate s

/-! Start and end (R268, R287, R399). -/

/-- The cores of a rope as its program starts (R268). -/
def startCores (r pc : Nat) (s : State) : State :=
  forList (ropeCores r s) s (fun c s => modCore c (fun _ => { pc := BitVec.ofNat 48 pc, running := true }) s)

/-- Start rope `r` (R399). -/
def startRope (r pc : Nat) (endB : Option Nat) (s : State) : State :=
  let s := forList (ropeClusters r s) s (fun q s => wakeCluster q s)
  let s := modRope r (fun k => { k with endBelay := endB, seed := k.seed0, nctrl := k.nctrl0, stop := none, cycles := [] }) s
  setRopeState r RopeSt.running (startCores r pc s)

/-- ROPE_START. -/
def cmdRopeStart : Cmd := fun j s =>
  let r := j.rope
  let pc := j.fld 44 6
  let b := j.fld 50 2
  if ! (j.byInstr.isNone && j.mayName r s && decide (ropeState r s = RopeSt.ready) && j.zeroBody 41 44 && j.zeroBody 52 64 &&
        decide (0x010000000000 ≤ pc) && j.belayOk b s) then .ok (.reject St.notPermitted)
  else .ok (.done (startRope r pc (if b = 0xFFFF then none else some b) s))

/-- ROPE_START (R399). -/
def execRopeStart (src : CmdSrc) (s : State) : Host.Outcome State Fault Refusal := runRecord src 0x03 cmdRopeStart s

/-- END (R287): it retires, and nothing more is fetched. -/
def execEndProgram (core : Nat) (s : State) : Host.Outcome State Fault Refusal :=
  seqRun core (fun op => match op with
    | .stopProgram => some (fxCore core (fun k => { k with ended := true, running := false }))
    | _ => none) s

/-- A rope's clusters that run become DROWSY. -/
def drowseRope (r : Nat) (s : State) : State :=
  forList (ropeClusters r s) s (fun q s => if clusterState q s = Cl.running then setF F.BC_CLUSTER_STATE [q] Cl.drowsy s else s)

/-- Every enabled core of the rope has completed (R287). -/
def programDone (r : Nat) (s : State) : Bool := (ropeCores r s).all (fun c => coreDone c s)

/-- The rope's program is complete (R399): READY, clusters DROWSY, END_BELAY increments. -/
def programComplete (r : Nat) (s : State) : State :=
  if ropeState r s ≠ RopeSt.running ∨ ! programDone r s then s
  else
    let s := drowseRope r (setRopeState r RopeSt.ready s)
    let s := match (ropeOf r s).endBelay with | some b => signalBy 544 true b false 0 s | none => s
    settleReady s

/-- PROGRAM_COMPLETE (R399). -/
def execProgramComplete (rope : Nat) (s : State) : Host.Outcome State Fault Refusal :=
  runIf (decide (rope < 16)) (programComplete rope) s

/-! Reset (R402). -/

/-- A reset is recorded: kind and trigger (R471, R476). -/
def resetRecord (kind trigger : Nat) (rope : Option Nat) (s : State) : State :=
  let s := setF F.ERR_RESET_STATUS_LAST_KIND [] kind (setF F.ERR_RESET_STATUS_LAST_TRIGGER [] trigger s)
  raiseEvent { status := St.ok, cls := 4, source := 0x0F, rope := rope, detail := natLe 1 kind ++ natLe 1 trigger } s

/-- Lock-step of rope `r` ends without its boundary (R424). -/
def lockstepOff (r : Nat) (s : State) : State :=
  let s := setF F.AUD_LS_STATUS_STATE [r] Ls.off (setF F.AUD_LS_CTRL_ENABLE [r] 0 s)
  modLs r (fun k => { inbox := k.inbox, part := k.part }) s

/-- The seal that runs over rope `r` ends with CANCELLED. -/
def cancelSeal (r : Nat) (s : State) : State :=
  match s.sealing with
  | some k => if fieldAt k.req.desc 0 1 = r ∧ k.ended = none then { s with sealing := some { k with ended := some St.cancelled } } else s
  | none => s

/-- The records that wait for the rope's boundary, suspend or resume complete (R401). -/
def dropWaiters (r : Nat) (s : State) : State :=
  let k := ropeOf r s
  let l := (match k.boundary with | some b => b.marks | none => []) ++ (k.suspend.map (fun x => x.who)).toList ++
    (k.resume.map (fun x => x.who)).toList
  completeAll l (modRope r (fun k => { k with boundary := none, suspend := none, resume := none }) s)

/-- The answered reads of the units of a rope are forgotten. -/
def dropRopeReads (r : Nat) (s : State) : State :=
  let s := forList (ropeCores r s) s (fun c s => dropReads c (dropReads (1024 + c) (dropReads (2048 + c) s)))
  forList (ropeDies r s) s (fun d s => dropReads (512 + d) (dropReads (520 + d) s))

/-- The signals that wait for writes of the rope's units, and what is open of those writes, are gone. -/
def dropRopeSignals (r : Nat) (s : State) : State :=
  let k := ropeOf r s
  let cores := ropeCores r s
  { s with
    heldSigs := s.heldSigs.filter (fun h =>
      ! (cores.contains h.who || (match h.core with | some c => cores.contains c | none => false) ||
         (h.device && decide (k.belayFirst ≤ h.idx ∧ h.idx < k.belayFirst + k.belayCount)))),
    writes := s.writes.filter (fun x => decide (x.rope ≠ r)) }

/-- The rope's own compute state: stop record, queues, accumulators, core belays, device belays (R402). -/
def clearCompute (r : Nat) (s : State) : State :=
  let k := ropeOf r s
  let cores := ropeCores r s
  let s := dropRopeSignals r (emptyDieQueues r (haltRope r s).2)
  let s := { s with instrCmds := s.instrCmds.filter (fun c => decide (c.rope ≠ r)) }
  let s := forList cores (dropRopeReads r s) (fun c s => modCore c (fun _ => {}) s)
  let s := modRope r (fun k => { k with stop := none, rteHeld := 0, endBelay := none }) s
  zeroBelays k.belayFirst k.belayCount (forList (ropeClusters r s) s (fun q s => gateCluster q s))

/-- Offset of the core store images of a rope of `n` clusters (R272). -/
def saveX (n : Nat) : Nat := 0x10000 + 8 * n * 0x40000
/-- Offset of the cluster store images. -/
def saveY (n : Nat) : Nat := saveX n + 8 * n * 0x200000
/-- Bytes of the save area of a rope of `n` clusters. -/
def saveBytes (n : Nat) (spill : Bool) : Nat := if spill then saveY n + n * 0x1000000 else saveX n

/-- A reset during a suspend or a resume leaves the contents of the save area undefined: free bytes (R401). -/
def voidSave (r : Nat) (s : State) : State :=
  let k := ropeOf r s
  match k.suspend.or k.resume with
  | none => s
  | some x =>
    let spill := x.spill || (match rd (cmdWho r) (x.save + 8) 1 s with | .ok (b, _) => decide (leNat b = 1) | .error _ => false)
    let n := saveBytes (ropeClusters r s).length spill
    match wr (cmdWho r) x.save ((List.range n).map (fun i => Config.freeByte (s.fresh + i))) s with
    | .ok t => { t with fresh := s.fresh + n }
    | .error _ => s

/-- Reset the compute state of rope `r` (R402); it becomes READY, whatever its last writes met. A compute reset reclaims no pool
(R380). -/
def resetRopeWith (reclaim : Bool) (r : Nat) (s : State) : State :=
  let stopped := (ropeOf r s).stop
  let s := abortRopeColls r (resetExchanges r (voidSave r s))
  let s := composerOff r (if reclaim then reclaimRopePools r s else s)
  let s := cancelSeal r (lockstepOff r (clearCompute r s))
  let s := match stopped with
    | some sr => raiseEvent { status := St.ok, cls := 0, source := 0x01, rope := some r, detail := (stopBytes sr).take 16 } s
    | none => s
  settleReady (dropWaiters r (setRopeState r RopeSt.ready s))

/-- ROPE_RESET resets a rope with its pools (R402). -/
def resetRope (r : Nat) (s : State) : State := resetRopeWith true r s

/-- ROPE_RESET. -/
def cmdRopeReset : Cmd := fun j s =>
  let r := j.rope
  if ! (j.byInstr.isNone && j.mayName r s && decide (ropeState r s ≠ RopeSt.none) && j.zeroBody 41 64) then
    .ok (.reject St.notPermitted)
  else .ok (.done (resetRecord 1 0x01 (some r) (resetRope r s)))

/-- ROPE_RESET (R402). -/
def execRopeReset (src : CmdSrc) (s : State) : Host.Outcome State Fault Refusal := runRecord src 0x06 cmdRopeReset s

/-! Destruction (R403). -/

/-- The rope owns a page in state ROPE. -/
def ownsPages (r : Nat) (s : State) : Bool :=
  s.tables.pages.any (fun e => decide (entryState e.2 = Pg.rope) && decide (entryIndex e.2 = r))

/-- The rope owns an enabled pool. -/
def ownsPools (r : Nat) (s : State) : Bool := (List.range 64).any (fun p => poolBusy p s && decide (poolRope p s = r))

/-- Clear the plans whose directory names a job: their slots drain (R403). -/
def clearPlans (job : Nat) (s : State) : State :=
  forN 64 s (fun p s =>
    let d := planDirAt p (bankOf 2 p s) s
    if d.1 ≠ job ∨ d.2 = 0 then s
    else modTables (fun t => { t with planDir := tset 0 t.planDir (p * 2 + bankOf 2 p s) 0 }) (drainPlan p [] s))

/-- Free the tier map of a rope: the pages it maps count one mapping less. -/
def clearTierMap (r : Nat) (s : State) : State :=
  let mine := s.tables.tierMap.filter (fun e => decide (e.1 / 4194304 = r))
  let s := forList mine s (fun e s =>
    if tmValid e.2 ∧ tmTier e.2 = 0 then setMaps (tmPage e.2) (entryMaps (pageEntry (tmPage e.2) s) - 1) s else s)
  modTables (fun t => { t with tierMap := dropBlock 4194304 (r * 4194304) t.tierMap }) s

/-- Release the channels of a rope. -/
def releaseChans (r : Nat) (s : State) : State :=
  forN 16 s (fun c s => if chanOwnedBy c r s then setF F.COL_CHAN_CTRL_OWNED [c] 0 s else s)

/-- Destroy rope `r` (R403). DESIGN CHOICE (log 68): a table write that waits for a copy-back, and a copy-back under way, go on. -/
def destroyRope (r : Nat) (s : State) : State :=
  let k := ropeOf r s
  let client := getF F.CMD_ROPE_STATE_CLIENT [r] s
  let s := clearPlans (ropeJob r s) s
  let s := releaseChans r (clearTierMap r (clearTables r k.ptBase k.ptSize s))
  let s := subF F.CMD_CLIENT_COUNT [client] 1 (cancelSeal r (lockstepOff r s))
  let s := forList (ropeClusters r s) s (fun q s => gateCluster q s)
  let s := setSched r none (composerOff r s)
  let s := setR .MEM_PF_CTRL [r] 0 (setR .RTE_PT_REGION [r] 0 (setR .SW_RANKMAP [r] 0 s))
  let s := dropWaiters r s
  let s := modRope r (fun _ => {}) s
  setR .CMD_ROPE_STATE [r] (regReset .CMD_ROPE_STATE [r]) (setR .CMD_ROPE_CLUSTERS [r] 0 s)

/-- ROPE_DESTROY. -/
def cmdRopeDestroy : Cmd := fun j s =>
  let r := j.rope
  if ! (j.byInstr.isNone && decide (j.owner = .pf) && decide (r < 16) && decide (ropeState r s = RopeSt.ready) && ! ownsPages r s &&
        ! ownsPools r s && j.zeroBody 41 64) then .ok (.reject St.notPermitted)
  else .ok (.done (destroyRope r s))

/-- ROPE_DESTROY (R403). -/
def execRopeDestroy (src : CmdSrc) (s : State) : Host.Outcome State Fault Refusal := runRecord src 0x07 cmdRopeDestroy s

/-! Collectives (R195, R221, R297, R299). -/

/-- A rope's state takes COLLECTIVE and COLL_ABORT (R395). -/
def takesColls (r : Nat) (s : State) : Bool := decide (ropeState r s = RopeSt.running ∨ ropeState r s = RopeSt.suspended)

/-- The register an instruction's command captured. -/
def Job.reg (j : Job) : Nat := match j.waiter with | .instr c => c.reg.toNat | .window _ _ => 0

/-- COLLECTIVE: the descriptor lies at an address of the body, or at the register of the instruction. -/
def cmdCollective : Cmd := fun j s =>
  let named := match j.byInstr with
    | some (r, _) => (r, j.reg, true)
    | none => (j.rope, j.fld 44 6, j.zeroBody 41 44 && j.zeroBody 50 64 && j.mayName j.rope s)
  let r := named.1
  let a := named.2.1
  if ! (named.2.2 && takesColls r s && decide (a % 64 = 0)) then .ok (.reject St.notPermitted)
  else
    match j.read a 128 s with
    | .error e => .error e
    | .ok d =>
      match acceptCollective r d s with
      | none => .ok .later
      | some (st, t) => if st = St.ok then .ok (.done (j.note a 128 t)) else .ok (.reject st)

/-- COLLECTIVE (R195). -/
def execCollective (src : CmdSrc) (s : State) : Host.Outcome State Fault Refusal := runRecord src 0x0A cmdCollective s

/-- COLL_ABORT: a channel of the rope; of an instruction's register bits 3 to 0 name it (R292, R297). -/
def cmdCollAbort : Cmd := fun j s =>
  let named := match j.byInstr with
    | some (r, _) => (r, j.reg % 16, true)
    | none => (j.rope, j.fld 41 1, j.zeroBody 42 64 && j.mayName j.rope s)
  let r := named.1
  let c := named.2.1
  if ! (named.2.2 && takesColls r s && decide (c < 16) && chanOwnedBy c r s) then .ok (.reject St.notPermitted)
  else .ok (.done (cancelColl c s))

/-- COLL_ABORT (R221). -/
def execCollAbort (src : CmdSrc) (s : State) : Host.Outcome State Fault Refusal := runRecord src 0x0B cmdCollAbort s

end Sys2Proof.Machine
end

