-- ==== Sys2Proof/Machine/Suspend.lean ====
section
/-! DEFINITION. Suspend and resume of a rope (R269 to R274, R400, R401): the save area, what it must look like to be resumed, and
how the rope goes on. -/

namespace Sys2Proof.Machine

open Sys2Proof

/-! The save area (R272, R273). -/

/-- A queue entry of a core block (R273). -/
def entryImage (e : QEntry) : List Byte :=
  natLe 4 e.w0.toNat ++ natLe 4 e.w1.toNat ++ natLe 4 e.tag.toNat ++ zeros 4 ++ natLe 8 e.th0.toNat ++ natLe 8 e.th1.toNat ++
  natLe 8 e.sig.toNat ++ natLe 8 e.nctrl.toNat ++ natLe 8 e.seed.toNat ++ zeros 8 ++ natLe 16 e.opA.toNat ++ natLe 16 e.opB.toNat ++
  natLe 16 e.opC.toNat ++ zeros 16

/-- An RTE or XE entry of the header (R272). -/
def dieImage (e : QEntry) : List Byte :=
  natLe 4 e.w0.toNat ++ natLe 4 e.w1.toNat ++ natLe 4 e.tag.toNat ++ zeros 4 ++ natLe 8 e.opA.toNat ++ natLe 8 e.th0.toNat ++
  natLe 8 e.th1.toNat ++ natLe 8 e.sig.toNat ++ zeros 16

/-- Bytes filled up with zeros. -/
def padTo (n : Nat) (bs : List Byte) : List Byte := bs ++ zeros (n - bs.length)

/-- The state word of an accumulator point (R273). -/
def pointWord (p : AccPoint) : Nat :=
  let b := fun (x : Bool) (i : Nat) => if x then 2 ^ i else 0
  (match p.m with | some m => (BitVec.ofInt 16 m).toNat + 2 ^ 16 | none => 0) +
  b p.sticky 17 + b p.nan 18 + b p.posInf 19 + b p.negInf 20

/-- An accumulator point from its state word and window. -/
def pointOf (v : Nat) (win : Nat) : AccPoint where
  win := BitVec.ofNat 192 win
  m := if v.testBit 16 then some (BitVec.ofNat 16 v).toInt else none
  sticky := v.testBit 17
  nan := v.testBit 18
  posInf := v.testBit 19
  negInf := v.testBit 20

/-- Where a core stands: a program that has ended stands at its END, which runs again (R270). -/
def savedPc (k : Core) : BitVec 48 := if k.ended then k.pc - 4 else k.pc
def savedIssue (k : Core) : BitVec 23 := if k.ended then k.issue - 1 else k.issue

/-- A core block (R273). -/
def coreBlock (k : Core) : List Byte :=
  let words := fun (n : Nat) (f : Nat → Nat) (m : Nat) => (List.range m).flatMap (fun i => natLe n (f i))
  let queue := fun (q : List QEntry) => padTo 0x1000 (q.flatMap entryImage)
  padTo 0x400 (words 8 (fun i => (k.getG i).toNat) 32 ++ words 16 (fun i => (k.getT i).toNat) 32 ++
    natLe 8 (k.p.toNat ||| 1) ++ natLe 8 (savedPc k).toNat ++ natLe 8 k.nstat.toNat ++ natLe 8 (savedIssue k).toNat ++
    natLe 1 k.mxeQ.length ++ natLe 1 k.vxeQ.length ++ natLe 1 k.mgeQ.length ++ natLe 5 k.dmvQ.length ++
    natLe 4 k.terms ++ natLe 4 ((if k.tileNan then 1 else 0) + (if k.tileSpan then 2 else 0))) ++
  padTo 0x200 (words 8 (fun i => (tget 0 k.belays i).toNat) 64) ++
  padTo 0xA00 (match k.fault with | some f => stopBytes f | none => []) ++
  queue k.mxeQ ++ queue k.vxeQ ++ queue k.mgeQ ++ padTo 0x4000 (queue k.dmvQ) ++
  words 4 (fun i => pointWord (tget {} k.acc i)) 8192 ++ words 24 (fun i => (tget ({} : AccPoint) k.acc i).win.toNat) 8192

/-- The enabled cores of a cluster as a mask byte. -/
def coreMask (q : Nat) (s : State) : Nat :=
  ((List.range 8).map (fun k => if coreEnabled (q * 8 + k) s then 2 ^ k else 0)).sum

/-- The rope's entries of a die's RTE and XE queues. -/
def rteEntries (r d : Nat) (s : State) : List QEntry :=
  ((tget ({} : Rte) s.rtes d).queue.filter (fun e => decide (e.rope = r))).map (fun e => e.e)
def xeEntries (r d : Nat) (s : State) : List QEntry :=
  ((tget ({} : Xe) s.xes d).queue.filter (fun e => decide (e.rope = r))).map (fun e => e.e)

/-- The rope header (R272); `kept` is RETAINED. -/
def saveHeader (r : Nat) (spill : Bool) (kept : Nat) (s : State) : List Byte :=
  let cl := ropeClusters r s
  let ds := ropeDies r s
  let k := ropeOf r s
  padTo 0x100 (natLe 2 1 ++ natLe 6 (r + ropeJob r s * 16) ++ natLe 8 ((if spill then 1 else 0) + cl.length * 256) ++
    natLe 8 k.seed.toNat ++ natLe 8 k.nctrl.toNat ++ (match k.stop with | some x => stopBytes x | none => zeros 32) ++ natLe 8 kept ++
    padTo 8 (ds.flatMap (fun d => natLe 1 (rteEntries r d s).length)) ++
    padTo 8 (ds.flatMap (fun d => natLe 1 (xeEntries r d s).length))) ++
  padTo 0xF00 (cl.flatMap (fun q => natLe 1 (coreMask q s))) ++
  padTo 0x4000 (ds.flatMap (fun d => padTo 0x800 ((rteEntries r d s).flatMap dieImage))) ++
  padTo 0xB000 (ds.flatMap (fun d => padTo 0x800 ((xeEntries r d s).flatMap dieImage)))

/-! Which clusters a SPILL keeps (R271). -/

/-- The areas of an accepted collective: address and bytes of IN, OUT and WORK. -/
def collAreas (d : CollDesc) : List (Nat × Nat) :=
  let full := d.count * d.esize
  let shard := 16 * d.npitch * d.shard
  [(d.fld 16 6, if d.op = 2 then shard else full), (d.fld 24 6, if d.op = 1 then shard else full),
   (d.fld 32 6, if d.op = 2 then 0 else 4 * d.levels * d.wpitch)]

/-- The unfinished collectives of rope `r`. -/
def openColls (r : Nat) (s : State) : List CollDesc :=
  s.chans.flatMap (fun c => (c.2.queue ++ (c.2.run.map (fun x => x.desc)).toList).filter (fun d => decide (d.rope = r)))

/-- The store of rope cluster `i` holds IN, OUT or WORK of an unfinished collective. -/
def holdsColl (r i : Nat) (s : State) : Bool :=
  (openColls r s).any (fun d => (collAreas d).any (fun a => rangesMeet a.1 a.2 (0x80000000 + i * 0x1000000) 0x1000000))

/-- Rope cluster `i` is kept in place. -/
def keptCluster (r i : Nat) (spill : Bool) (s : State) : Bool := ! spill || holdsColl r i s

/-- RETAINED (R272). -/
def keptMask (r : Nat) (spill : Bool) (s : State) : Nat :=
  ((List.range (ropeClusters r s).length).map (fun i => if keptCluster r i spill s then 2 ^ i else 0)).sum

/-! Suspending (R270, R400). -/

/-- ROPE_SUSPEND. -/
def cmdRopeSuspend : Cmd := fun j s =>
  let r := j.rope
  let a := j.fld 44 6
  let spill := decide (j.fld 41 1 = 1)
  if ! (j.byInstr.isNone && j.mayName r s && decide (ropeState r s = RopeSt.running) && decide (j.fld 41 1 < 2) && j.zeroBody 42 44 &&
        j.zeroBody 50 64 && decide (a % 65536 = 0 ∧ 0x010000000000 ≤ a) &&
        writable (cmdWho r) a (saveBytes (ropeClusters r s).length spill) s) then .ok (.reject St.notPermitted)
  else
    let s := modRope r (fun k => { k with suspend := some { save := a, spill := spill, who := j.waiter } }) s
    .ok (.going (setRopeState r RopeSt.suspending s))

/-- ROPE_SUSPEND (R400). -/
def execRopeSuspend (src : CmdSrc) (s : State) : Host.Outcome State Fault Refusal := runRecord src 0x04 cmdRopeSuspend s

/-- Write the images of the stores of rope cluster `i`, physical cluster `q` (R271, R272). -/
def saveStores (w : Who) (a n i q : Nat) (s : State) : Except Stop State :=
  match foldE (List.range 8) s (fun k s =>
      if coreEnabled (q * 8 + k) s then
        let s := findErrors (corePlace (q * 8 + k) 0) 0x200000 s
        putWords w (a + saveX n + (i * 8 + k) * 0x200000) (memWords (corePlace (q * 8 + k) 0) 0x20000 s) s
      else tryWr w (a + saveX n + (i * 8 + k) * 0x200000) (zeros 0x200000) false s) with
  | .error e => .error e
  | .ok s =>
    let s := findErrors (clusterPlace q 0) 0x1000000 s
    putWords w (a + saveY n + i * 0x1000000) (memWords (clusterPlace q 0) 0x100000 s) s

/-- Write the save area (R272): header, core blocks, and the images of stores that are not kept. -/
def writeSave (r : Nat) (k : Suspend) (s : State) : Except Stop State :=
  let w := cmdWho r
  let cl := ropeClusters r s
  match tryWr w k.save (saveHeader r k.spill (keptMask r k.spill s) s) false s with
  | .error e => .error e
  | .ok s =>
    match foldE (List.range (8 * cl.length)) s (fun i s =>
        let q := cl.getD (i / 8) 0
        let b := if coreEnabled (q * 8 + i % 8) s then coreBlock (coreOf (q * 8 + i % 8) s) else zeros 0x40000
        tryWr w (k.save + 0x10000 + i * 0x40000) b false s) with
    | .error e => .error e
    | .ok s =>
      foldE (cl.zipIdx) s (fun x s => if keptCluster r x.2 k.spill s then .ok s else saveStores w k.save cl.length x.2 x.1 s)

/-- The rope has left the device's engines: its cores and queues are empty, its clusters DROWSY or GATED (R271, R400). -/
def leaveEngines (r : Nat) (spill : Bool) (s : State) : State :=
  let cl := ropeClusters r s
  let kept := cl.zipIdx.map (fun x => (x.1, keptCluster r x.2 spill s))
  let held := ((ropeDies r s).map (fun d => (rteEntries r d s).length)).sum
  let s := dropRopeSignals r (emptyDieQueues r (haltRope r (dropRopeReads r s)).2)
  let s := forList (ropeCores r s) s (fun c s => modCore c (fun _ => {}) s)
  let s := forList kept s (fun x s => if x.2 then setF F.BC_CLUSTER_STATE [x.1] Cl.drowsy s else gateCluster x.1 s)
  modRope r (fun k => { k with suspend := none, stop := none, rteHeld := held }) s

/-- The save area is visible: the rope is SUSPENDED, the record completes (R400, step 5). -/
def suspended (r : Nat) (k : Suspend) (s : State) : State :=
  completeWaiter k.who (setRopeState r RopeSt.suspended (leaveEngines r k.spill s))

/-- The save area of a suspending rope is written once its engines are drained and have signalled, and the rope is SUSPENDED when
the last byte is visible (R270, R400). -/
def suspendSave (r : Nat) (s : State) : State :=
  match ropeState r s == RopeSt.suspending, (ropeOf r s).suspend with
  | true, some k =>
    if k.written then (if writesOut 544 s then s else suspended r k s)
    else if ropeBusy r s then s
    else
      runAccess (cmdWho r)
        (match writeSave r k s with
        | .error e => .error e
        | .ok t =>
          .ok (if writesOut 544 t then modRope r (fun x => { x with suspend := some { k with written := true } }) t
            else suspended r k t))
        (fun _ _ s => s) s
  | _, _ => s

/-- SUSPEND_SAVE (R400). -/
def execSuspendSave (rope : Nat) (s : State) : Host.Outcome State Fault Refusal :=
  runIf (decide (rope < 16)) (suspendSave rope) s

/-! Checking a save area (R274). -/

/-- Bytes `lo` to before `hi` are zero. -/
def zeroIn (bs : List Byte) (lo hi : Nat) : Bool := ((bs.drop lo).take (hi - lo)).all (fun b => decide (b = 0))

/-- The other bytes of the used entries of a queue image are zero: entries of `size` bytes from `off`. -/
def entriesClean (bs : List Byte) (off size n : Nat) (gaps : List (Nat × Nat)) : Bool :=
  (List.range n).all (fun i => gaps.all (fun g => zeroIn bs (off + i * size + g.1) (off + i * size + g.2)))

/-- The reserved bits of a stop record are zero. -/
def stopClean (bs : List Byte) : Bool := decide (fieldAt bs 2 2 < 512) && zeroIn bs 14 16

/-- A saved numeric control word with no reserved bit set (R246). -/
def nctrlClean (v : Nat) : Bool := decide (BitVec.ofNat 64 v &&& nctrlMask = BitVec.ofNat 64 v)

/-- The captured control words of the used entries of a queue image have no reserved bit set (R246, R273). -/
def entriesNctrl (bs : List Byte) (off n : Nat) : Bool :=
  (List.range n).all (fun i => nctrlClean (fieldAt bs (off + i * 128 + 40) 8))

/-- A core block with no reserved field set. -/
def coreBlockOk (b : List Byte) : Bool :=
  let n := fun (i : Nat) => fieldAt b (0x320 + i) 1
  zeroIn b 0x301 0x308 && zeroIn b 0x30E 0x310 && decide (fieldAt b 0x310 8 < 32) && decide (fieldAt b 0x318 8 < 2 ^ 23) &&
  (List.range 4).all (fun i => decide (n i ≤ 32)) && zeroIn b 0x324 0x328 &&
  decide (fieldAt b 0x328 4 < 2 ^ 25) && decide (fieldAt b 0x32C 4 < 4) && zeroIn b 0x330 0x400 && stopClean (b.drop 0x600) &&
  zeroIn b 0x620 0x1000 && zeroIn b 0x5000 0x8000 &&
  (List.range 4).all (fun i => entriesClean b (0x1000 + i * 0x1000) 128 (n i) [(12, 16), (56, 64), (112, 128)] &&
    entriesNctrl b (0x1000 + i * 0x1000) (n i)) &&
  (List.range 8192).all (fun i => decide (fieldAt b (0x8000 + 4 * i) 4 < 2 ^ 21))

/-- The header suits the rope and has no reserved field set. -/
def saveHeaderOk (r : Nat) (h : List Byte) (s : State) : Bool :=
  let n := (ropeClusters r s).length
  let ds := (ropeDies r s).length
  decide (fieldAt h 0 2 = 1) && decide (fieldAt h 2 2 = r + ropeJob r s * 16) && zeroIn h 4 8 && decide (fieldAt h 8 1 < 2) &&
  decide (fieldAt h 9 1 = n) && zeroIn h 10 16 && nctrlClean (fieldAt h 0x18 8) && stopClean (h.drop 0x20) && decide (fieldAt h 0x40 8 < 2 ^ n) &&
  (List.range 8).all (fun d => decide (fieldAt h (0x48 + d) 1 ≤ (if d < ds then 32 else 0)) &&
    decide (fieldAt h (0x50 + d) 1 ≤ (if d < ds then 32 else 0)) &&
    entriesClean h (0x1000 + d * 0x800) 64 (fieldAt h (0x48 + d) 1) [(12, 16), (48, 64)] &&
    entriesClean h (0x5000 + d * 0x800) 64 (fieldAt h (0x50 + d) 1) [(12, 16), (48, 64)]) &&
  zeroIn h 0x58 0x100 && zeroIn h (0x100 + n) 0x1000 && zeroIn h 0x9000 0x10000

/-- Clusters on each die that holds some, in die order: the shape of R274. -/
def dieShape (cl : List Nat) : List Nat :=
  ((List.range 8).map (fun d => (cl.filter (fun q => decide (q / 8 = d))).length)).filter (fun n => decide (0 < n))

/-- The clusters a rope resumes on suit its save area: the same ones, or, for one fully spilled, free ones of the same shape; the
enabled cores are those saved (R274, R401). -/
def resumeShapeOk (r : Nat) (h : List Byte) (new : List Nat) (s : State) : Bool :=
  let old := ropeClusters r s
  let spilled := decide (fieldAt h 8 1 = 1 ∧ fieldAt h 0x40 8 = 0)
  (decide (new = old) || spilled) && decide (dieShape new = dieShape old) &&
  new.all (fun q => decide (ropeOfCluster q s = none ∨ ropeOfCluster q s = some r)) &&
  new.zipIdx.all (fun x => decide (fieldAt h (0x100 + x.2) 1 = coreMask x.1 s))

/-- The core blocks of a save area, enabled slots only, have no reserved field set; disabled ones are zero. -/
def coreBlocksOk (w : Who) (a : Nat) (h : List Byte) (s : State) : List Nat → Except Stop Bool
  | [] => .ok true
  | i :: t =>
    match rdGood w (a + 0x10000 + i * 0x40000) 0x40000 s with
    | .error e => .error e
    | .ok b =>
      if (if (fieldAt h (0x100 + i / 8) 1).testBit (i % 8) then coreBlockOk b else zeroFrom 0 b) then coreBlocksOk w a h s t
      else .ok false

/-- A save area can be resumed on the clusters. -/
def saveOk (r a : Nat) (new : List Nat) (s : State) : Except Stop Bool :=
  match rdGood (cmdWho r) a 0x10000 s with
  | .error e => .error e
  | .ok h =>
    if saveHeaderOk r h s && resumeShapeOk r h new s then
      coreBlocksOk (cmdWho r) a h s (List.range (8 * new.length))
    else .ok false

/-! Resuming (R274, R401). -/

/-- ROPE_RESUME. -/
def cmdRopeResume : Cmd := fun j s =>
  let r := j.rope
  let a := j.fld 44 6
  let new := if j.fld 56 8 = 0 then ropeClusters r s else clustersOf (j.fld 56 8)
  if ! (j.byInstr.isNone && j.mayName r s && decide (ropeState r s = RopeSt.suspended) && j.zeroBody 41 44 && j.zeroBody 50 56 &&
        decide (a % 65536 = 0 ∧ 0x010000000000 ≤ a)) then .ok (.reject St.notPermitted)
  else
    match saveOk r a new s with
    | .error e => .error e
    | .ok false => .ok (.reject St.notPermitted)
    | .ok true =>
      let s := setR .CMD_ROPE_CLUSTERS [r] (BitVec.ofNat 64 (new.map (fun q => 2 ^ q)).sum) s
      let s := modRope r (fun k => { k with resume := some { save := a, spill := false, who := j.waiter } }) s
      let s := setRopeState r RopeSt.resuming s
      .ok (.going (forList new s (fun q s => wakeCluster q s)))

/-- ROPE_RESUME (R401). -/
def execRopeResume (src : CmdSrc) (s : State) : Host.Outcome State Fault Refusal := runRecord src 0x05 cmdRopeResume s

/-- A saved queue entry; the PC of the instruction is not saved, `pc` stands for it. -/
def entryOf (bs : List Byte) (pc : Word) : QEntry where
  w0 := BitVec.ofNat 32 (fieldAt bs 0 4)
  w1 := BitVec.ofNat 32 (fieldAt bs 4 4)
  tag := BitVec.ofNat 32 (fieldAt bs 8 4)
  pc := pc.setWidth 48
  th0 := BitVec.ofNat 64 (fieldAt bs 16 8)
  th1 := BitVec.ofNat 64 (fieldAt bs 24 8)
  sig := BitVec.ofNat 64 (fieldAt bs 32 8)
  nctrl := BitVec.ofNat 64 (fieldAt bs 40 8)
  seed := BitVec.ofNat 64 (fieldAt bs 48 8)
  opA := BitVec.ofNat 128 (fieldAt bs 64 16)
  opB := BitVec.ofNat 128 (fieldAt bs 80 16)
  opC := BitVec.ofNat 128 (fieldAt bs 96 16)

/-- A saved RTE or XE entry; the header's seed and numeric control word go with it. -/
def dieEntryOf (bs : List Byte) (seed nctrl pc : Word) : QEntry where
  w0 := BitVec.ofNat 32 (fieldAt bs 0 4)
  w1 := BitVec.ofNat 32 (fieldAt bs 4 4)
  tag := BitVec.ofNat 32 (fieldAt bs 8 4)
  pc := pc.setWidth 48
  opA := BitVec.ofNat 128 (fieldAt bs 16 8)
  th0 := BitVec.ofNat 64 (fieldAt bs 24 8)
  th1 := BitVec.ofNat 64 (fieldAt bs 32 8)
  sig := BitVec.ofNat 64 (fieldAt bs 40 8)
  nctrl := nctrl
  seed := seed

/-- The `n` entries of a saved queue. -/
def queueOfImage (bs : List Byte) (off n fresh : Nat) : List QEntry :=
  (List.range n).map (fun i => entryOf (bs.drop (off + 128 * i)) (Config.freeWord (fresh + i)))

/-- A table of the values of a function that differ from `d`. -/
def tabOf {α : Type} [DecidableEq α] (d : α) (n : Nat) (f : Nat → α) : Tab α :=
  (List.range n).filterMap (fun i => if f i = d then none else some (i, f i))

/-- A core from its block (R273); it runs unless the rope is stopped. -/
def coreOfBlock (b : List Byte) (running : Bool) (fresh : Nat) : Core :=
  let n := fun (i : Nat) => fieldAt b (0x320 + i) 1
  let fault := (b.drop 0x600).take 32
  { g := tabOf 0 32 (fun i => if i = 0 then 0 else BitVec.ofNat 64 (fieldAt b (8 * i) 8)),
    p := BitVec.ofNat 8 (fieldAt b 0x300 1) ||| 1,
    t := tabOf 0 32 (fun i => BitVec.ofNat 128 (fieldAt b (0x100 + 16 * i) 16)),
    pc := BitVec.ofNat 48 (fieldAt b 0x308 6), issue := BitVec.ofNat 23 (fieldAt b 0x318 3),
    nstat := BitVec.ofNat 64 (fieldAt b 0x310 8),
    belays := tabOf 0 64 (fun i => BitVec.ofNat 64 (fieldAt b (0x400 + 8 * i) 8)),
    running := running,
    mxeQ := queueOfImage b 0x1000 (n 0) fresh, vxeQ := queueOfImage b 0x2000 (n 1) (fresh + 32),
    mgeQ := queueOfImage b 0x3000 (n 2) (fresh + 64), dmvQ := queueOfImage b 0x4000 (n 3) (fresh + 96),
    acc := tabOf {} 8192 (fun i => pointOf (fieldAt b (0x8000 + 4 * i) 4) (fieldAt b (0x10000 + 24 * i) 24)),
    terms := fieldAt b 0x328 4, tileNan := (fieldAt b 0x32C 1).testBit 0, tileSpan := (fieldAt b 0x32C 1).testBit 1,
    fault := if zeroFrom 0 fault then none else some (stopOfBytes fault) }

/-- Put words back at a place of the device. -/
def putPlace (p : Nat) : Words → State → State
  | [], s => s
  | x :: t, s => putPlace (p + 16) t { s with mem := if x.2 then s.mem.setPoison p else s.mem.write p x.1 }

/-- Read the stores of rope cluster `i` back into physical cluster `q`. -/
def restoreStores (w : Who) (a n i q : Nat) (s : State) : Except Stop State :=
  match foldE ((List.range 8).filter (fun k => coreEnabled (q * 8 + k) s)) s (fun k s =>
      match gatherWords w 0x20000 (a + saveX n + (i * 8 + k) * 0x200000) s with
      | .error e => .error e
      | .ok ws => .ok (putPlace (corePlace (q * 8 + k) 0) ws s)) with
  | .error e => .error e
  | .ok s =>
    match gatherWords w 0x100000 (a + saveY n + i * 0x1000000) s with
    | .error e => .error e
    | .ok ws => .ok (putPlace (clusterPlace q 0) ws s)

/-- The core that issued an instruction, from its tag (R263). -/
def coreOfTag (r : Nat) (t : BitVec 32) (s : State) : Nat := (physCore r (t.toNat / 2 ^ 23) s).getD 0

/-- Every die has room in its queues for the rope's saved entries (R29). -/
def queuesHaveRoom (r : Nat) (h : List Byte) (s : State) : Bool :=
  (ropeDies r s).zipIdx.all (fun x =>
    decide ((tget ({} : Rte) s.rtes x.1).queue.length + fieldAt h (0x48 + x.2) 1 ≤ 32) &&
    decide ((tget ({} : Xe) s.xes x.1).queue.length + fieldAt h (0x50 + x.2) 1 ≤ 32))

/-- Put the saved entries of one die back: rope die `i`, compute die `d`. -/
def restoreDie (r : Nat) (h : List Byte) (d i : Nat) (s : State) : State :=
  let k := ropeOf r s
  let make := fun (off j : Nat) => dieEntryOf (h.drop (off + 64 * j)) k.seed k.nctrl (Config.freeWord (s.fresh + off + j))
  let ofQ := fun (e : QEntry) => (⟨r, coreOfTag r e.tag s, e, false⟩ : DieEntry)
  let rs := (List.range (fieldAt h (0x48 + i) 1)).map (fun j => ofQ (make (0x1000 + i * 0x800) j))
  let xs := (List.range (fieldAt h (0x50 + i) 1)).map (fun j => ofQ (make (0x5000 + i * 0x800) j))
  let s := { s with
    rtes := tmod {} s.rtes d (fun x => { x with queue := x.queue ++ rs }),
    xes := tmod {} s.xes d (fun x => { x with queue := x.queue ++ xs }) }
  setF F.XE_STATUS_QUEUED [d] (tget {} s.xes d).queue.length (setF F.RTE_STATUS_QUEUED [d] (tget {} s.rtes d).queue.length s)

/-- Restore the cores of a rope: indexes `l` of rope cores that are enabled. -/
def restoreCores (w : Who) (a : Nat) (running : Bool) (r : Nat) (s : State) : Except Stop State :=
  foldE (List.range (8 * (ropeClusters r s).length)) s (fun i s =>
    match physCore r i s with
    | none => .ok s
    | some c =>
      match rdGood w (a + 0x10000 + i * 0x40000) 0x40000 s with
      | .error e => .error e
      | .ok b => .ok { modCore c (fun _ => coreOfBlock b running s.fresh) s with fresh := s.fresh + 128 })

/-- Restore the rope from its save area (R274): everything but its state. -/
def restoreRope (r a : Nat) (h : List Byte) (s : State) : Except Stop State :=
  let w := cmdWho r
  let cl := ropeClusters r s
  let saved := (h.drop 0x20).take 32
  let s := modRope r (fun k => { k with
    seed := BitVec.ofNat 64 (fieldAt h 0x10 8), nctrl := BitVec.ofNat 64 (fieldAt h 0x18 8) &&& nctrlMask,
    stop := if zeroFrom 0 saved then k.stop else some (stopOfBytes saved), resume := none, rteHeld := 0 }) s
  match restoreCores w a (ropeOf r s).stop.isNone r s with
  | .error e => .error e
  | .ok s =>
    match foldE cl.zipIdx s (fun x s =>
        if fieldAt h 8 1 = 0 ∨ (fieldAt h 0x40 8).testBit x.2 then .ok s else restoreStores w a cl.length x.2 x.1 s) with
    | .error e => .error e
    | .ok s =>
      let s := forList (ropeDies r s).zipIdx s (fun x s => restoreDie r h x.1 x.2 s)
      .ok { s with fresh := s.fresh + 0x10000 }

/-- The rope's cores are restored: it is RUNNING, or STOPPED when its stop record says so, and the record completes (R391). -/
def resumeComplete (r : Nat) (s : State) : State :=
  match ropeState r s == RopeSt.resuming, (ropeOf r s).resume with
  | true, some k =>
    runAccess (cmdWho r)
      (match rdGood (cmdWho r) k.save 0x10000 s with
      | .error e => .error e
      | .ok h =>
        if ! queuesHaveRoom r h s then .ok s
        else
          match restoreRope r k.save h s with
          | .error e => .error e
          | .ok t =>
            let st := if (ropeOf r t).stop.isNone then RopeSt.running else RopeSt.stopped
            .ok (completeWaiter k.who (setRopeState r st t)))
      (fun _ _ s => s) s
  | _, _ => s

/-- RESUME_COMPLETE (R274). -/
def execResumeComplete (rope : Nat) (s : State) : Host.Outcome State Fault Refusal :=
  runIf (decide (rope < 16)) (resumeComplete rope) s

end Sys2Proof.Machine
end

