-- ==== Sys2Proof/Machine/Audit.lean ====
section
/-! DEFINITION. The audit unit (R418 to R430): streams and their digests, seals and cairns, lock-step with its checkpoints, the
relay of records, and bisection. -/

namespace Sys2Proof.Machine

open Sys2Proof

/-- The audit unit as a unit of a rope. -/
def auditWho (r : Nat) : Who := { reach := .all, rope := r, core := 0, id := 545 }

/-! Streams (R418, R419). -/

/-- The extents of a list of 16-byte records: address and length. -/
def extentsOf (bs : List Byte) : List (Nat × Nat) :=
  (List.range (bs.length / 16)).map (fun i => (fieldAt bs (16 * i) 6, fieldAt bs (16 * i + 8) 8))

/-- The extents keep R419. -/
def extentsOk (bs : List Byte) : Bool :=
  (List.range (bs.length / 16)).all (fun i => decide (fieldAt bs (16 * i + 6) 2 = 0)) &&
  (extentsOf bs).all (fun e => decide (e.1 % 16 = 0) && decide (e.2 % 16 = 0) && decide (16 ≤ e.2 ∧ e.2 ≤ 2 ^ 46) && decide (0x200000 ≤ e.1))

/-- Bytes of a stream. -/
def streamLen (es : List (Nat × Nat)) : Nat := (es.map (fun e => e.2)).sum

/-- The part of a stream from `off`, `n` bytes. -/
def subStream : Nat → Nat → List (Nat × Nat) → List (Nat × Nat)
  | _, _, [] => []
  | off, n, (a, l) :: t =>
    if n = 0 then []
    else if l ≤ off then subStream (off - l) n t
    else (a + off, min n (l - off)) :: subStream 0 (n - min n (l - off)) t

/-- Read the words of a stream; what cannot be read is poison. -/
def streamWords (w : Who) (s : State) : List (Nat × Nat) → Except Stop Words
  | [] => .ok []
  | (a, l) :: t =>
    match gatherWords w (l / 16) a s with
    | .error e => .error e
    | .ok x =>
      match streamWords w s t with
      | .error e => .error e
      | .ok y => .ok (x ++ y)

/-- The stream offset of the first poisoned word. -/
def poisonAt (ws : Words) : Option Nat := (findIdxFrom (fun (x : List Byte × Bool) => x.2) ws 0).map (fun i => 16 * i)

/-- Stream bytes have been hashed. -/
def noteHashed (n : Nat) (s : State) : State := addF F.AUD_BYTES_BYTES [] n s

/-- An event record of the audit unit (R471). -/
def auditEvent (r status off : Nat) (s : State) : State :=
  raiseEvent { status := status, cls := 3, source := 0x0A, rope := some r, detail := natLe 8 off } s

/-! Seals (R420 to R423). -/

/-- A function's seal status. -/
def sealStatus (f : Requester) (s : State) : Word := (tget {} s.fns (fnIdx f)).sealStatus

/-- Set it. -/
def setSealStatus (f : Requester) (v : Word) (s : State) : State :=
  { s with fns := tmod {} s.fns (fnIdx f) (fun k => { k with sealStatus := v }) }

/-- A function's seal ends with a status. -/
def endSeal (f : Requester) (status : Nat) (s : State) : State :=
  setSealStatus f (withBits 15 8 status (withBits 0 0 0 (sealStatus f s))) s

/-- The extent list of an object of a seal: host address and count. -/
def sealObject (d : List Byte) (i : Nat) : Nat × Nat := (fieldAt d (32 + 16 * i) 8, fieldAt d (40 + 16 * i) 4)

/-- The seal descriptor keeps R420, its lists R419. -/
def sealOk (f : Requester) (d : List Byte) (s : State) : Bool :=
  let r := fieldAt d 0 1
  decide (r < 16) && decide (ropeState r s ≠ RopeSt.none) &&
  (match f with | .vf v => decide (vfRope v s = some r) | _ => true) &&
  decide (fieldAt d 1 1 < 2) && zeroIn d 2 8 && decide (fieldAt d 8 8 % 64 = 0) && zeroIn d 16 32 && zeroFrom 96 d &&
  (List.range 4).all (fun i =>
    let o := sealObject d i
    decide (o.2 ≤ 65536) && zeroIn d (44 + 16 * i) (48 + 16 * i) && extentsOk (hostBytes s o.1 (16 * o.2)))

/-- Poison in the descriptor or in one of its extent lists. -/
def sealPoison (a : Nat) (s : State) : Bool :=
  let d := hostBytes s a 128
  s.mem.anyPoison (hostPlace a) 128 ||
  (List.range 4).any (fun i => s.mem.anyPoison (hostPlace (sealObject d i).1) (16 * (sealObject d i).2))

/-- A write of AUD_SEAL_REQ: the seal is queued or refused (R421). -/
def sealRequest (f : Requester) (v : Word) (s : State) : State :=
  let a := v.toNat / 64 * 64
  let d := hostBytes s a 128
  if (sealStatus f s).getLsbD 0 then setSealStatus f (withBits 15 8 St.notPermitted (sealStatus f s)) s
  else
  let s := emit (.hostRead (fnIdx f) a 128) s
  if sealPoison a s then endSeal f St.poison s
  else if ! sealOk f d s then endSeal f St.notPermitted s
  else { setSealStatus f (withBits 0 0 1 (sealStatus f s)) s with seals := s.seals ++ [⟨f, d⟩] }

/-- SEAL_REQUEST (R421). -/
def execSealRequest (fn : Requester) (addr : BitVec 64) (s : State) : Host.Outcome State Fault Refusal :=
  runIf (fnAllowed fn (regOff .AUD_SEAL_REQ []) s) (sealRequest fn addr) s

/-- Digest the present objects of a seal, in order: their digests, the bytes hashed, and the stream offset of poison. -/
def sealDigests (r : Nat) (d : List Byte) (s : State) : List Nat → Except Stop (List (Option (List Byte)) × Nat × Option Nat)
  | [] => .ok ([], 0, none)
  | i :: t =>
    let o := sealObject d i
    let es := extentsOf (hostBytes s o.1 (16 * o.2))
    match streamWords (auditWho r) s es with
    | .error e => .error e
    | .ok ws =>
      match poisonAt ws with
      | some off => .ok ([], 0, some off)
      | none =>
        match sealDigests r d s t with
        | .error e => .error e
        | .ok (ds, n, p) => .ok ((if o.2 = 0 then none else some (treeDigest (wordBytes ws))) :: ds, n + streamLen es, p)

/-- The next accepted seal starts: its objects are digested, for which the device is ACTIVE (R421, R433). -/
def sealRun (s : State) : State :=
  match s.sealing, s.seals with
  | none, q :: t =>
    let r := fieldAt q.desc 0 1
    let run := fun (ds : List (Option (List Byte))) (ended : Option Nat) (s : State) =>
      { s with seals := t, sealing := some (⟨q, ds, ended⟩ : SealRun) }
    if ropeState r s = RopeSt.none then run [] (some St.cancelled) s
    else
      runAccess (auditWho r)
        (match sealDigests r q.desc s [0, 1, 2, 3] with
        | .error e => .error e
        | .ok (ds, n, none) => .ok (noteHashed n (run ds none (wakeActive s)))
        | .ok (_, _, some off) => .ok (auditEvent r St.poison off (run [] (some St.poison) (wakeActive s))))
        (fun _ _ s => s) s
  | _, _ => s

/-- SEAL_RUN (R421). -/
def execSealRun (s : State) : Host.Outcome State Fault Refusal := runIf true sealRun s

/-- The seed of the device attestation key (R455). -/
def attSeed (s : State) : List Byte :=
  match s.bc.secret with
  | some k => (sha3_512 (0x10 :: natLe 32 k.toNat)).take 32
  | none => []

/-- The 64 bytes of ID_ATT_KEYHASH. -/
def keyHash (s : State) : List Byte := (List.range 8).flatMap (fun i => natLe 8 (getR .ID_ATT_KEYHASH [i] s).toNat)

/-- The bytes of an ASCII text. -/
def ascii (t : String) : List Byte := t.toList.map (fun c => BitVec.ofNat 8 c.toNat)

/-- The enabled-core mask, one byte per rope cluster, 64 bytes. -/
def maskBytes (r : Nat) (s : State) : List Byte := padTo 64 ((ropeClusters r s).flatMap (fun q => natLe 1 (coreMask q s)))

/-- Bytes 0 to 511 of a cairn (R422). -/
def cairnBody (k : SealRun) (s : State) : List Byte :=
  let d := k.req.desc
  let r := fieldAt d 0 1
  let p := ropeOf r s
  let has := fun (i : Nat) => if (k.digests.getD i none).isSome then 2 ^ (i + 2) else 0
  let flags := fieldAt d 1 1 + (if repro r s then 2 else 0) + has 0 + has 1 + has 2 + has 3
  natLe 2 1 ++ natLe 1 flags ++ natLe 1 r ++ natLe 2 (ropeJob r s) ++ natLe 2 (getF F.CMD_ROPE_STATE_STEP [r] s) ++
  natLe 8 (getF F.AUD_CAIRN_SEQ_SEQ [] s) ++ natLe 8 (timeNow s).toNat ++ natLe 2 (ownAddr s).toNat ++ natLe 2 p.rank ++
  natLe 4 (getF F.ID_VUOLA_VERSION [] s) ++ keyHash s ++ sha3_512 s.bc.cfgRecord ++ natLe 8 (getR .CMD_ROPE_CLUSTERS [r] s).toNat ++
  maskBytes r s ++ natLe 8 p.seed.toNat ++ natLe 8 p.nctrl.toNat ++ zeros 8 ++
  (List.range 4).flatMap (fun i => (k.digests.getD i none).getD (zeros 64))

/-- Write the cairn of a seal, signed if asked for, and set the function's status (R421 to R423). -/
def writeCairn (k : SealRun) (s : State) : State :=
  let d := k.req.desc
  let f := k.req.fn
  let seq := getF F.AUD_CAIRN_SEQ_SEQ [] s
  let body := cairnBody k s
  let bs := if fieldAt d 1 1 = 1 then padTo 5184 (body ++ Config.mldsaSign (attSeed s) (ascii "DV1-cairn") body) else body
  let s := addF F.AUD_CAIRN_SEQ_SEQ [] 1 (hostWriteBy (fnIdx f) (fieldAt d 8 8) bs s)
  endSeal f St.ok (setSealStatus f (withBits 63 16 seq (sealStatus f s)) s)

/-- The running seal ends (R422, R423). -/
def sealComplete (s : State) : State :=
  match s.sealing with
  | none => s
  | some k =>
    let t := { s with sealing := none }
    match k.ended with
    | none => writeCairn k t
    | some st => endSeal k.req.fn st t

/-- SEAL_COMPLETE (R422). -/
def execSealComplete (s : State) : Host.Outcome State Fault Refusal := runIf true sealComplete s

/-! Lock-step (R424 to R430). -/

/-- The extent list of a rope's checkpoint stream. -/
def lsExtents (r : Nat) (s : State) : Except Stop (List Byte) :=
  rdGood (auditWho r) (getF F.AUD_LS_EXTENTS_LIST [r] s) (16 * getF F.AUD_LS_EXTENTS_COUNT [r] s) s

/-- Every byte of a range of device memory is mapped. -/
def mappedDevice (r a n : Nat) (s : State) : Bool :=
  decide (0x010000000000 ≤ a ∧ a + n ≤ 2 ^ 48) && (List.range (n / 2 ^ 21 + 2)).all (fun i =>
    let b := if i = 0 then a else a / 2 ^ 21 * 2 ^ 21 + i * 2 ^ 21
    decide (a + n ≤ b) || (match locate (auditWho r) b false s with | .unmapped => false | _ => true))

/-- Leaves of a stream of `n` bytes. -/
def leafCount (n : Nat) : Nat := max 1 ((n + 0xFFFFF) / 0x100000)

/-- The conditions for arming (R424). -/
def lsConditions (r : Nat) (bs : List Byte) (s : State) : Bool :=
  let es := extentsOf bs
  let t := getF F.AUD_LS_TREE_TREE [r] s
  decide (ropeState r s ≠ RopeSt.none) && repro r s && ! es.isEmpty && extentsOk bs &&
  es.all (fun e => mappedDevice r e.1 e.2 s) && decide (t % 64 = 0) && writable (auditWho r) t (128 * leafCount (streamLen es)) s

/-- Arm lock-step under the conditions on the extent list, or refuse with NOT_PERMITTED (R424). -/
def lsArmWith (r : Nat) (s : State) : Except Stop State :=
  match lsExtents r s with
  | .error e => .error e
  | .ok bs =>
    if ! lsConditions r bs s then .ok (setF F.AUD_LS_STATUS_STATUS [r] St.notPermitted s)
    else
      let s := setR .AUD_LS_STATUS [r] 0 (setF F.AUD_LS_CTRL_ENABLE [r] 1 s)
      .ok (modLs r (fun k => { inbox := k.inbox, part := k.part }) (setF F.AUD_LS_STATUS_STATE [r] Ls.running s))

/-- Setting ENABLE arms lock-step, or is ignored with STATUS NOT_PERMITTED (R424). -/
def lsArm (r : Nat) (s : State) : State :=
  if lsArmed r s then s
  else atOnce (ownNeeds s) (auditWho r) (lsArmWith r) (fun _ _ s => setF F.AUD_LS_STATUS_STATUS [r] St.notPermitted s) s

/-- LOCKSTEP_ARM (R424). -/
def execLockstepArm (fn : Requester) (rope : Nat) (s : State) : Host.Outcome State Fault Refusal :=
  runIf (decide (rope < 16) && fnAllowed fn (regOff .AUD_LS_CTRL [rope]) s) (lsArm rope) s

/-- A boundary that a checkpoint holds may apply: it waits only for the rope's RTE instructions (R425, R430). -/
def freeBoundary (r : Nat) (s : State) : State :=
  let t := modRope r (fun k => { k with boundary := k.boundary.map (fun b => if b.held then { b with agreed := true } else b) }) s
  runRope r (tryBoundary r t) t

/-- Clearing ENABLE ends lock-step and lets the held boundary apply (R430). -/
def lsDisarm (r : Nat) (s : State) : State :=
  if ! lsArmed r s then s
  else
    let s := setF F.AUD_LS_CTRL_ENABLE [r] 0 s
    match (ropeOf r s).boundary with
    | some b => if b.held then freeBoundary r s else setF F.AUD_LS_STATUS_STATE [r] Ls.off s
    | none => setF F.AUD_LS_STATUS_STATE [r] Ls.off s

/-- LOCKSTEP_DISARM (R430). -/
def execLockstepDisarm (fn : Requester) (rope : Nat) (s : State) : Host.Outcome State Fault Refusal :=
  runIf (decide (rope < 16) && fnAllowed fn (regOff .AUD_LS_CTRL [rope]) s) (lsDisarm rope) s

/-- The lock-step state of rope `r`. -/
def lsState (r : Nat) (s : State) : Nat := getF F.AUD_LS_STATUS_STATE [r] s

/-- Writing RELEASE: a frozen rope's boundary may apply (R430). -/
def lsRelease (r : Nat) (s : State) : State :=
  if lsState r s = Ls.frozen ∨ lsState r s = Ls.bisecting then freeBoundary r s else s

/-- LOCKSTEP_RELEASE (R430). -/
def execLockstepRelease (fn : Requester) (rope : Nat) (s : State) : Host.Outcome State Fault Refusal :=
  runIf (decide (rope < 16) && fnAllowed fn (regOff .AUD_LS_CTRL [rope]) s) (lsRelease rope) s

/-! Records (R426, R427). -/

/-- The conditions block (R426). -/
def conditionsBlock (r : Nat) (s : State) : List Byte :=
  natLe 4 (getF F.ID_VUOLA_VERSION [] s) ++ padTo 72 ((s.bc.cfgRecord.drop (8192 + 72)).take 72) ++
  padTo 8 ((dieShape (ropeClusters r s)).flatMap (natLe 1)) ++ maskBytes r s ++ natLe 4 (ropeOf r s).ranks ++
  natLe 1 (if repro r s then 1 else 0) ++ zeros 7

/-- A CHECKPOINT record (R426). -/
def checkpointRecord (r len : Nat) (root : List Byte) (s : State) : List Byte :=
  padTo 256 (natLe 4 1 ++ natLe 4 (getF F.AUD_LS_STATUS_CHECKPOINT [r] s) ++ natLe 2 (getF F.CMD_ROPE_STATE_STEP [r] s) ++ zeros 6 ++
    natLe 8 len ++ zeros 40 ++ root ++ sha3_512 (conditionsBlock r s))

/-- A PROBE record (R426). -/
def probeRecord (r : Nat) (k : LockStep) (left : List Byte) (right : Option (List Byte)) (s : State) : List Byte :=
  padTo 256 (natLe 4 2 ++ natLe 4 (getF F.AUD_LS_STATUS_CHECKPOINT [r] s) ++ natLe 2 k.round ++ zeros 6 ++ natLe 8 k.start ++
    natLe 8 k.len ++ natLe 32 (if right.isNone then 1 else 0) ++ left ++ right.getD (zeros 64))

/-- Write the next record to the outbox (R427). -/
def outboxWrite (r : Nat) (bs : List Byte) (s : State) : State :=
  let k := lsOf r s
  let s := hostWrite (getF F.AUD_LS_OUTBOX_ADDR [r] s * 4096 + k.outTotal % 16 * 256) bs s
  addF F.AUD_LS_STATUS_OUT_COUNT [r] 1 (modLs r (fun k => { k with outTotal := k.outTotal + 1 }) s)

/-- Freeze the rope with a status (R428, R430). -/
def lsFreeze (r status off : Nat) (s : State) : State :=
  auditEvent r status off (setF F.AUD_LS_STATUS_STATE [r] Ls.frozen (setF F.AUD_LS_STATUS_STATUS [r] status s))

/-! Bisection (R428, R429). -/

/-- Bisection ends: the offset, and whether it names a 4 KiB block. -/
def bisectEnd (r off : Nat) (exact : Bool) (s : State) : State :=
  let s := setF F.AUD_LS_DIFF_OFFSET [r] off (setF F.AUD_LS_DIFF_EXACT [r] (if exact then 1 else 0) (setF F.AUD_LS_DIFF_VALID [r] 1 s))
  setF F.AUD_LS_STATUS_STATE [r] Ls.frozen (modLs r (fun k => { k with probe := none }) s)

/-- The bytes of the left part of a range inside a leaf: the largest power of two below its length. -/
def halfOf (len : Nat) : Nat := 2 ^ ((List.range 20).filter (fun i => decide (2 ^ i < len))).length / 2

/-- The digest of a part of the stream, and whether it could be read. -/
def partDigest (r off n : Nat) (es : List (Nat × Nat)) (s : State) : Except Stop (List Byte × Option Nat) :=
  match streamWords (auditWho r) s (subStream off n es) with
  | .error e => .error e
  | .ok ws => .ok (sha3_512 (0x03 :: wordBytes ws), (poisonAt ws).map (fun o => off + o))

/-- Publish a PROBE and wait for the partner's. -/
def publish (r : Nat) (left : List Byte) (right : Option (List Byte)) (s : State) : State :=
  let bs := probeRecord r (lsOf r s) left right s
  outboxWrite r bs (modLs r (fun k => { k with probe := some bs }) s)

/-- Go on with the node or range of the current round: the digests of its two parts are published, or it is 4 KiB and
bisection ends (R429). -/
def probeRound (r : Nat) (es : List (Nat × Nat)) (s : State) : Except Stop State :=
  let k := lsOf r s
  if 0 < k.level then
    let below := k.tree.getD (k.level - 1) []
    .ok (publish r (below.getD (2 * k.index) []) below[2 * k.index + 1]? s)
  else if k.len ≤ 4096 then .ok (bisectEnd r k.start true s)
  else
    let h := halfOf k.len
    match partDigest r k.start h es s with
    | .error e => .error e
    | .ok (a, p) =>
      match partDigest r (k.start + h) (k.len - h) es s with
      | .error e => .error e
      | .ok (b, q) =>
        match p.orElse (fun _ => q) with
        | some off => .ok (lsFreeze r St.poison off s)
        | none => .ok (publish r a (some b) (noteHashed k.len s))

/-- The tree of the first `m` bytes of the own stream: its leaves are those of the whole stream but for the last. -/
def prefixTree (r m : Nat) (es : List (Nat × Nat)) (tree : List (List (List Byte))) (s : State) :
    Except Stop (List (List (List Byte)) × Option Nat) :=
  let whole := (tree.headD []).take (m / 0x100000)
  if m % 0x100000 = 0 then .ok (treeLevels whole.length whole, none)
  else
    match streamWords (auditWho r) s (subStream (m / 0x100000 * 0x100000) (m % 0x100000) es) with
    | .error e => .error e
    | .ok ws =>
      let leaves := whole ++ [sha3_512 (0x00 :: wordBytes ws)]
      .ok (treeLevels leaves.length leaves, (poisonAt ws).map (fun o => m / 0x100000 * 0x100000 + o))

/-- Bisection starts at the root over the first `m` bytes (R428, R429). -/
def bisectStart (r m : Nat) (s : State) : Except Stop State :=
  match lsExtents r s with
  | .error e => .error e
  | .ok bs =>
    let es := extentsOf bs
    let own := fieldAt ((lsOf r s).own.getD []) 16 8
    match (if m = own then Except.ok ((lsOf r s).tree, none) else prefixTree r m es (lsOf r s).tree s) with
    | .error e => .error e
    | .ok (_, some off) => .ok (lsFreeze r St.poison off s)
    | .ok (tree, none) =>
      let s := modLs r (fun k => { k with tree := tree, round := 0, start := 0, len := m, level := tree.length - 1, index := 0 }) s
      probeRound r es (setF F.AUD_LS_STATUS_STATE [r] Ls.bisecting s)

/-- The partner's PROBE for the current round: descend, or stop (R429). -/
def takeProbe (r : Nat) (bs : List Byte) (s : State) : Except Stop State :=
  let k := lsOf r s
  let mine := k.probe.getD []
  let cut := fun (l : List Byte) (o : Nat) => (l.drop o).take 64
  let left := decide (cut mine 64 = cut bs 64)
  let right := decide (cut mine 128 = cut bs 128)
  if left ∧ right then
    let len := fun (o : Option (List Byte)) => fieldAt (o.getD []) 16 8
    let m := min (len k.own) (len k.peer)
    if k.round = 0 ∧ len k.own ≠ len k.peer then .ok (bisectEnd r (m / 4096 * 4096) true s)
    else .ok (bisectEnd r k.start false s)
  else
    let half := if 0 < k.level then 2 ^ (k.level - 1) * 0x100000 else halfOf k.len
    let s := modLs r (fun k => { k with
      round := k.round + 1, level := k.level - 1, index := if left then 2 * k.index + 1 else 2 * k.index,
      start := if left then k.start + half else k.start,
      len := if left then k.len - half else min half k.len, probe := none }) s
    match lsExtents r s with
    | .error e => .error e
    | .ok bs => probeRound r (extentsOf bs) s

/-- The own and the partner's CHECKPOINT are compared (R428). -/
def compareCheckpoints (r : Nat) (s : State) : Except Stop State :=
  match (lsOf r s).own, (lsOf r s).peer with
  | some a, some b =>
    let cut := fun (l : List Byte) (o n : Nat) => (l.drop o).take n
    if cut a 128 64 ≠ cut b 128 64 then .ok (lsFreeze r St.notPermitted 0 s)
    else if cut a 64 64 ≠ cut b 64 64 ∨ cut a 16 8 ≠ cut b 16 8 then
      bisectStart r (min (fieldAt a 16 8) (fieldAt b 16 8)) (lsFreeze r St.digestMismatch 0 s)
    else
      tryBoundary r (modRope r (fun k => { k with boundary := k.boundary.map (fun x => { x with agreed := true }) }) s)
  | _, _ => .ok s

/-- Free bytes for the tree area: where it keeps its nodes is not stated. -/
def freeBytes (n : Nat) (s : State) : List Byte × State :=
  ((List.range n).map (fun i => Config.freeByte (s.fresh + i)), { s with fresh := s.fresh + n })

/-- The checkpoint digest finishes: the tree area is written, a CHECKPOINT published, and a partner's record that came first is
compared (R425, R427); poison freezes the rope (R430). -/
def checkpointDone (r : Nat) (s : State) : Except Stop State :=
  match lsExtents r s with
  | .error e => .error e
  | .ok bs =>
    let es := extentsOf bs
    match streamWords (auditWho r) s es with
    | .error e => .error e
    | .ok ws =>
      match poisonAt ws with
      | some off => .ok (lsFreeze r St.poison off s)
      | none =>
        let tree := streamTree (wordBytes ws)
        let (area, s) := freeBytes (128 * leafCount (streamLen es)) s
        match tryWr (auditWho r) (getF F.AUD_LS_TREE_TREE [r] s) area false s with
        | .error e => .error e
        | .ok s =>
          let bs := checkpointRecord r (streamLen es) (treeRoot (streamLen es) tree) s
          let s := modLs r (fun k => { k with own := some bs, tree := tree }) (noteHashed (streamLen es) s)
          compareCheckpoints r (outboxWrite r bs (setF F.AUD_LS_STATUS_STATE [r] Ls.waiting s))

/-- CHECKPOINT_DIGEST_DONE (R425). -/
def execCheckpointDigestDone (rope : Nat) (s : State) : Host.Outcome State Fault Refusal :=
  runIf (decide (rope < 16)) (fun s =>
    if lsState rope s = Ls.digesting then
      runAccess (auditWho rope) (checkpointDone rope s) (fun _ _ s => lsFreeze rope St.poison 0 s) s
    else s) s

/-- A record is discarded (R427). -/
def lsDiscard (r : Nat) (s : State) : State :=
  setF F.AUD_LS_STATUS_DISCARDS [r] (min 255 (getF F.AUD_LS_STATUS_DISCARDS [r] s + 1)) s

/-- Take a record from the inbox (R427). -/
def takeRecord (r : Nat) (bs : List Byte) (s : State) : Except Stop State :=
  let k := lsOf r s
  let st := lsState r s
  if ! lsArmed r s then .ok (lsDiscard r s)
  else if fieldAt bs 0 1 = 1 then
    if fieldAt bs 4 4 ≠ getF F.AUD_LS_STATUS_CHECKPOINT [r] s then .ok (lsDiscard r s)
    else if k.peer.isSome ∨ st = Ls.frozen ∨ st = Ls.bisecting then .ok s
    else compareCheckpoints r (modLs r (fun k => { k with peer := some bs }) s)
  else if fieldAt bs 0 1 = 2 ∧ st = Ls.bisecting ∧ fieldAt bs 4 4 = getF F.AUD_LS_STATUS_CHECKPOINT [r] s ∧
      fieldAt bs 8 2 = k.round ∧ fieldAt bs 16 8 = k.start ∧ fieldAt bs 24 8 = k.len then takeProbe r bs s
  else .ok (lsDiscard r s)

/-- Inbox word `i` after a write of the bits of mask `m`: it is there once each of its bits has been written (R7, R427). -/
def LockStep.putWord (k : LockStep) (i : Nat) (m v : Word) : LockStep :=
  let old := match tget none k.inbox i with | some w => (w, wordMax) | none => tget (0, 0) k.part i
  let w := mix old.1 m v
  if old.2 ||| m = wordMax then { k with inbox := tset none k.inbox i (some w), part := tset (0, 0) k.part i (0, 0) }
  else { k with part := tset (0, 0) k.part i (w, old.2 ||| m) }

/-- A write of an inbox word, or of half of it; the record is taken when all 32 words are there. -/
def inboxWrite (r i : Nat) (m v : Word) (s : State) : State :=
  let s := modLs r (fun k => k.putWord i m v) s
  let k := lsOf r s
  let words := (List.range 32).map (fun i => tget none k.inbox i)
  if ! words.all (fun w => w.isSome) then s
  else
    let bs := words.flatMap (fun w => natLe 8 (w.getD 0).toNat)
    let taken := modLs r (fun k => { k with inbox := [], part := [] })
    atOnce (ownNeeds s) (auditWho r) (fun s => takeRecord r bs (taken s)) (fun _ _ s => lsFreeze r St.poison 0 (taken s)) s

/-- LOCKSTEP_INBOX_WRITE (R427). -/
def execLockstepInboxWrite (fn : Requester) (rope idx : Nat) (data : BitVec 64) (s : State) : Host.Outcome State Fault Refusal :=
  runIf (decide (rope < 16) && decide (idx < 32) && fnAllowed fn (regOff .AUD_LS_INBOX [rope, idx]) s)
    (inboxWrite rope idx wordMax data) s

end Sys2Proof.Machine
end

