-- ==== Sys2Proof/Machine/Power.lean ====
section
/-! DEFINITION. Power domains, device and cluster states, throttling, thermal limits, input power, removal (R431 to R447). -/

namespace Sys2Proof.Machine

open Sys2Proof

/-! What each loss keeps (R431, R474). -/

/-- Registers a device reset keeps: identity and basecamp, the errors-and-events registers of the basecamp domain, the XE ledgers
(R94, R474). -/
def keptReg (off : Nat) : Bool :=
  decide (off < 0x200000) || decide (0xB00000 ≤ off ∧ off < 0xB00040) || decide (0xB00100 ≤ off ∧ off < 0xB00128) ||
  (decide (0x400000 ≤ off ∧ off < 0x480000) && decide (0x200 ≤ off % 0x10000 ∧ off % 0x10000 < 0x600))

/-- What lies outside the device or in its flash keeps its contents: places from 2^46, not the words of the hub's tables. -/
def keptMem (m : Mem) : Mem where
  cells := tfilter (fun p => decide (2 ^ 46 ≤ p)) m.cells
  poison := m.poison.filter (fun w => decide (2 ^ 42 ≤ w) && decide (w < hubWord 0))

/-- Every domain but the basecamp loses its state (R431, R474), and records in flight count as cancelled (R93); `hold` is the traffic
hold of R168. -/
def resetDomains (hold : Bool) (s : State) : State :=
  let s := cancelRecords s
  let t : State := { State.reset with
    pending := s.pending, regs := tfilter keptReg s.regs,
    latch := tfilter (fun k => keptReg (k % 2 ^ 26)) s.latch, mem := keptMem s.mem, msgs := { hold := hold },
    fns := tmapAll {} (fun _ (k : Fn) => { quoteStatus := k.quoteStatus }) s.fns,
    bc := { s.bc with trained := [], full := [], ddrReady := false, handshake := [] }, pins := s.pins, pcie := s.pcie, events := s.events,
    out := s.out, fresh := s.fresh }
  forN 64 t (fun q t => setF F.BC_CLUSTER_STATE [q] Cl.gated t)

/-- The basecamp after its own reset or a power-on: what flash and the slots hold is kept. -/
def freshBasecamp (b : Basecamp) (stage : Nat) : Basecamp where
  stage := stage
  dimms := b.dimms
  cache := b.cache
  imgCounter := b.imgCounter
  cfgCounter := b.cfgCounter
  prefImg := b.prefImg
  prefCfg := b.prefCfg
  managers := b.managers

/-- The whole module without power, or just powered: only flash, what lies outside, and the input contacts are kept. -/
def freshDevice (stage : Nat) (s : State) : State :=
  { State.reset with
    pending := s.pending, mem := keptMem s.mem, bc := freshBasecamp s.bc stage,
    pins := { perst := s.pins.perst, pwrDis := s.pins.pwrDis, flashExt := s.pins.flashExt, thermTrip := s.pins.thermTrip },
    out := s.out, fresh := s.fresh }

/-! Device states (R22, R433, R434). -/

/-- FLASH_EXT# takes effect while the device is in STANDBY (R493). -/
def flashCheck (s : State) : State :=
  if s.pins.flashExt && decide (deviceState s = Dv.standby) then { s with pins := { s.pins with flashOut := true } } else s

/-- The host link goes down. -/
def linkDown (s : State) : State := setR .ID_HOST_LINK [] 0 s

/-- Leave IDLE for STANDBY: DOWN_NOTICE with a cause, and every domain but the basecamp without power (R434, R442). -/
def enterStandby (cause : Nat) (s : State) : State :=
  flashCheck (setDeviceState Dv.standby (resetDomains false (stopPorts cause s)))

/-- Enter IDLE: the ports train (R104, R434, R445). -/
def enterIdle (s : State) : State :=
  trainPorts (setDeviceState Dv.idle (setF F.BC_STATE_BOOT [] 0 s))

/-- Some cluster is awake. -/
def clustersAwake (s : State) : Bool := (List.range 64).any (fun q => decide (clusterState q s ≠ Cl.gated))

/-- Work of RTE, XE, adders, audit unit or prefetch sequencers (R433). -/
def enginesBusy (s : State) : Bool :=
  s.rtes.any (fun e => ! e.2.queue.isEmpty) || s.xes.any (fun e => ! e.2.queue.isEmpty || e.2.active.any (fun x => x.finished.isNone)) ||
  s.chans.any (fun c => c.2.run.isSome) || s.sealing.isSome || ! s.seals.isEmpty ||
  (List.range 16).any (fun r => decide (lsState r s = Ls.digesting)) ||
  s.pf.any (fun e => ! e.2.todo.isEmpty || e.2.fills.any (fun f => ! f.landed))

/-- DEVICE_WAKE_ACTIVE (R433). -/
def execDeviceWakeActive (s : State) : Host.Outcome State Fault Refusal := runIf true wakeActive s

/-- After 1 ms without work: LENDER with a lending window open, else IDLE (R433). -/
def idleTimeout (s : State) : State :=
  let st := deviceState s
  if (st = Dv.active ∨ st = Dv.lender) ∧ ! clustersAwake s ∧ ! enginesBusy s then
    setDeviceState (if windowsOpen s then Dv.lender else Dv.idle) s
  else s

/-- DEVICE_IDLE_TIMEOUT (R433). -/
def execDeviceIdleTimeout (s : State) : Host.Outcome State Fault Refusal := runIf true idleTimeout s

/-- STANDBY written 1 (R434); the field reads what was written last, also where the request is refused (R9). -/
def standbyEnter (s : State) : State :=
  let t := setF F.BC_CTRL_STANDBY [] 1 s
  if deviceState s ≤ Dv.standby then t
  else if (existing s).isEmpty ∧ ! windowsOpen s then enterStandby 0 t
  else setF F.BC_STATE_REFUSED [] St.notPermitted t

/-- STANDBY_ENTER (R434). -/
def execStandbyEnter (fn : Requester) (s : State) : Host.Outcome State Fault Refusal :=
  runIf (fnAllowed fn (regOff .BC_CTRL []) s) standbyEnter s

/-- STANDBY written 0: back to IDLE; the ports and DDR5 train again (R433). With no module to train the device stays (R350). -/
def standbyExit (s : State) : State :=
  let t := setF F.BC_CTRL_STANDBY [] 0 s
  if deviceState s = Dv.standby ∧ s.bc.stage = 3 ∧ getF F.BC_STATE_BOOT [] s = 0 ∧ ! s.bc.removing ∧ (List.range 24).any (fun c => accepted c s) then
    enterIdle (ddrStart t)
  else t

/-- STANDBY_EXIT (R433). -/
def execStandbyExit (fn : Requester) (s : State) : Host.Outcome State Fault Refusal :=
  runIf (fnAllowed fn (regOff .BC_CTRL []) s) standbyExit s

/-- The rollback counters rise to the SVN of what booted (R454). -/
def raiseCounters (s : State) : State :=
  let up := fun (old : BitVec 32) (svn : Nat) => if old.toNat < svn then BitVec.ofNat 32 svn else old
  let b := s.bc
  let s := { s with bc := { b with imgCounter := up b.imgCounter (fieldAt b.imgHeader 8 4), cfgCounter := up b.cfgCounter (fieldAt b.cfgRecord 8 4) } }
  setF F.BC_BOOT_IMG_COUNTER [] s.bc.imgCounter.toNat (setF F.BC_BOOT_CFG_COUNTER [] s.bc.cfgCounter.toNat s)

/-- The booted device enters IDLE for the first time, unless HOLD keeps it in STANDBY or it has no channel to use (R350, R446,
R454). -/
def bootedIdle (s : State) : State :=
  if s.bc.stage = 3 ∧ getF F.BC_STATE_BOOT [] s = 1 ∧ getF F.BC_CTRL_HOLD [] s = 0 ∧ channelsLeft s then raiseCounters (enterIdle s) else s

/-- HOLD_RELEASE (R446). -/
def execHoldRelease (fn : Requester) (s : State) : Host.Outcome State Fault Refusal :=
  runIf (fnAllowed fn (regOff .BC_CTRL []) s) (fun s => bootedIdle (setF F.BC_CTRL_HOLD [] 0 s)) s

/-! The end of DDR5 training (R350, R352). -/

/-- Every accepted channel has its result: memory is zeroed and usable (R351, R352), and Vuola rewrites the training cache, at once
if it runs; with no channel trained the device goes to STANDBY, where it stays (R350). -/
def ddrFinish (s : State) : State :=
  if (List.range 24).any (fun c => trainingDue c s) then s
  else if lmaPages s = 0 then (if deviceState s ≤ Dv.standby then s else enterStandby 0 s)
  else
    let s := { s with mem := s.mem.clear 0 (2 ^ 43), bc := { s.bc with ddrReady := true } }
    let s := setF F.MEM_SYSTEM_PAGES [] (lmaPages s) (setF F.MEM_SYSTEM_SYS_PAGE [] (lmaPages s - 1024) s)
    let s := doIf (decide (s.bc.stage = 3)) writeCache s
    forN 2 s (fun m s => setF F.MEM_STATUS_READY [m] 1 s)

/-- A channel ends step 3 (`cached`: it has a valid cache entry; one that fails goes on to step 4) or step 4, training in full. -/
def channelTrained (ch : Nat) (cached ok : Bool) (s : State) : State :=
  let t := tget 0 s.bc.trained ch
  let due := if cached then decide (t = 0) && cacheValid ch s else decide (t = 3) || (decide (t = 0) && ! cacheValid ch s)
  if getF F.MEM_STATUS_SPEED [ch / 12] s = 0 || ! accepted ch s || ! due then s
  else
    let result := fun (v : Nat) => { s with bc := { s.bc with trained := tset 0 s.bc.trained ch v } }
    if cached && ! ok then result 3
    else
      let s := result (if ok then 1 else 2)
      let s :=
        if ok then
          let s := setF F.MEM_STATUS_USABLE [ch / 12] (getF F.MEM_STATUS_USABLE [ch / 12] s ||| 2 ^ (ch % 12)) s
          if cached then setF F.MEM_STATUS_CACHED [ch / 12] 1 s else { s with bc := { s.bc with full := s.bc.full ++ [ch] } }
        else memEvent St.timeout 2 ch 0xFF 0 s
      ddrFinish s

/-- DDR5_CHANNEL_TRAINED (R352). -/
def execDdr5ChannelTrained (ch : Nat) (cached ok : Bool) (s : State) : Host.Outcome State Fault Refusal :=
  runIf (decide (ch < 24)) (channelTrained ch cached ok) s

/-! Clusters (R436). -/

/-- A core is idle: its sequencer neither fetches nor issues, its engine queues are empty. -/
def coreIdle (c : Nat) (s : State) : Bool :=
  let k := coreOf c s
  decide (coreQueued k = 0) && (! k.running || (! k.waiting.isEmpty && ! k.waiting.all (fun x => condHolds c x s)))

/-- A RUNNING cluster has been idle for DROWSY_US. -/
def clusterIdle (q : Nat) (s : State) : State :=
  if clusterState q s = Cl.running ∧ (List.range 8).all (fun k => coreIdle (q * 8 + k) s) then setF F.BC_CLUSTER_STATE [q] Cl.drowsy s
  else s

/-- CLUSTER_IDLE_TIMEOUT (R436). -/
def execClusterIdleTimeout (cluster : Nat) (s : State) : Host.Outcome State Fault Refusal :=
  runIf (decide (cluster < 64)) (clusterIdle cluster) s

/-! Power limit (R438 to R440). -/

/-- The power limit in force, within its bounds (R439). -/
def limitW (s : State) : Nat := min 2500 (max 800 (getF F.BC_POWER_LIMIT_LIMIT_W [] s))

/-- Module power as an event's detail: die, step, watts (R471). -/
def powerEvent (status cls step : Nat) (s : State) : State :=
  raiseEvent { status := status, cls := cls, source := 0x0B,
               detail := natLe 1 (getF F.BC_THERMAL_HOT_DIE [] s) ++ natLe 1 step ++ natLe 2 (getF F.BC_POWER_MODULE_W [] s) } s

/-- The caps of power, memory dies and modules combine to the lowest (R440, R442). -/
def noteCaps (s : State) : State :=
  setF F.BC_THROTTLE_DDR_CAP [] (max s.bc.powerCap (max s.bc.memCap (if s.bc.dimmCap then 2 else 0))) s

/-- Every cluster's step is the larger of POWER_STEP and its die's thermal step (R439). -/
def noteSteps (s : State) : State :=
  forN 64 s (fun q s =>
    let p := getF F.BC_THROTTLE_POWER_STEP [] s
    let t := tget 0 s.bc.thermal (q / 8)
    setF F.BC_CLUSTER_STEP [q] (max p t) (setF F.BC_CLUSTER_THERMAL [q] (if p < t then 1 else 0) s))

/-- A sample of module power, package power and input voltage. -/
def powerSample (moduleW packageW inputMv : Nat) (s : State) : State :=
  let s := setF F.BC_POWER_MODULE_W [] moduleW (setF F.BC_POWER_PACKAGE_W [] packageW (setF F.BC_POWER_INPUT_MV [] inputMv s))
  { s with bc := { s.bc with samples := (moduleW :: s.bc.samples).take 100 } }

/-- POWER_SAMPLE (R439). -/
def execPowerSample (moduleW packageW inputMv : Nat) (s : State) : Host.Outcome State Fault Refusal :=
  runIf (decide (s.bc.stage = 3) && decide (moduleW < 4096) && decide (packageW < 4096) && decide (inputMv < 65536))
    (powerSample moduleW packageW inputMv) s

/-- One decision of the power controller (R439, R440). -/
def powerDecide (s : State) : State :=
  let lim := limitW s
  let step := getF F.BC_THROTTLE_POWER_STEP [] s
  let cap := s.bc.powerCap
  let overLim := match s.bc.samples with | w :: _ => decide (lim < w) | [] => false
  let low := decide (100 ≤ s.bc.samples.length) && s.bc.samples.all (fun w => decide (100 * w < 95 * lim))
  if overLim then
    if step < 9 then
      let s := addF F.BC_THROTTLE_EVENTS [] 1 (setF F.BC_THROTTLE_POWER_STEP [] (step + 1) s)
      noteSteps (if step = 8 then powerEvent St.ok 2 9 s else s)
    else if cap < 3 then noteCaps (addF F.BC_THROTTLE_EVENTS [] 1 { s with bc := { s.bc with powerCap := cap + 1 } })
    else s
  else if low then
    if 0 < cap then noteCaps { s with bc := { s.bc with powerCap := cap - 1 } }
    else noteSteps (setF F.BC_THROTTLE_POWER_STEP [] (step - 1) s)
  else s

/-- POWER_DECISION (R439). -/
def execPowerDecision (s : State) : Host.Outcome State Fault Refusal := runIf (decide (s.bc.stage = 3)) powerDecide s

/-! Thermal limits (R442). -/

/-- A compute die's thermal step after a reading. -/
def thermalDie (d t : Nat) (s : State) : State :=
  let step := tget 0 s.bc.thermal d
  let cool := tget 0 s.bc.coolFor d
  let set := fun (step cool : Nat) (s : State) =>
    { s with bc := { s.bc with thermal := tset 0 s.bc.thermal d step, coolFor := tset 0 s.bc.coolFor d cool } }
  if t < 95 then (if 9 ≤ cool then set (step - 1) 0 s else set step (cool + 1) s)
  else if t ≤ 105 then
    let s := set (min 9 (step + 1)) 0 s
    if step = 8 then powerEvent St.ok 2 9 s else s
  else
    let s := set 9 0 s
    if step < 9 then powerEvent St.ok 2 9 s else s

/-- A die other than a compute die between its limits: an event record, when a minute has passed. -/
def warmDie (d t : Nat) (notice : Bool) (s : State) : State :=
  if notice ∧ 8 ≤ d ∧ 95 ≤ t ∧ t ≤ 105 then
    raiseEvent { status := St.ok, cls := 0, source := 0x0B,
                 detail := natLe 1 d ++ natLe 1 0 ++ natLe 2 (getF F.BC_POWER_MODULE_W [] s) } s
  else s

/-- A thermal trip (R442): everything but the basecamp loses power. -/
def thermalTrip (s : State) : State :=
  let s := powerEvent St.ok 4 9 s
  let s := linkDown (enterStandby 1 s)
  addF F.BC_THERMAL_TRIPS [] 1 { s with pins := { s.pins with thermTrip := true } }

/-- Readings of the 13 dies and the hottest module; `sustained`: a die has read above 110 °C for 1 ms; `notice`: a minute has passed
since the last record. -/
def thermalSample (dies : List Nat) (dimm : Nat) (sustained notice : Bool) (s : State) : State :=
  let top := dies.foldl max 0
  let s := setF F.BC_THERMAL_JMAX [] top (setF F.BC_THERMAL_DIMM_MAX [] dimm
    (setF F.BC_THERMAL_HOT_DIE [] ((indexOf dies top).getD 0) s))
  let s := if 105 < top then setF F.BC_THERMAL_HOT [] 1 s else s
  let s := forN 8 s (fun d s => thermalDie d (dies.getD d 0) s)
  let s := forN 13 s (fun d s => warmDie d (dies.getD d 0) notice s)
  let mem := decide (105 < dies.getD 8 0 ∨ 105 < dies.getD 9 0)
  let s := noteSteps (noteCaps { s with bc := { s.bc with memCap := if mem then 3 else 0, dimmCap := decide (95 < dimm) } })
  if (sustained ∧ 110 < top) ∨ 115 < top then thermalTrip s else s

/-- THERMAL_SAMPLE (R442). -/
def execThermalSample (dies : List Nat) (dimm : Nat) (sustained notice : Bool) (s : State) : Host.Outcome State Fault Refusal :=
  runIf (decide (Dv.idle ≤ deviceState s) && decide (dies.length = 13) && dies.all (fun t => decide (t < 256)) && decide (dimm < 256))
    (thermalSample dies dimm sustained notice) s

/-! Input power, insertion (R443 to R445). -/

/-- Input power is lost: the event, DOWN_NOTICE with cause 2, and the module without power (R444). -/
def loseInput (s : State) : State :=
  if s.bc.stage = 0 then s
  else setDeviceState Dv.off (setF F.BC_STATE_BOOT [] 0 (freshDevice 0 (stopPorts 2 (powerEvent St.ok 4 0 s))))

/-- HOT_SWAP_OPEN (R443). -/
def execHotSwapOpen (s : State) : Host.Outcome State Fault Refusal := runIf true loseInput s

/-- INPUT_LOSS (R444). -/
def execInputLoss (s : State) : Host.Outcome State Fault Refusal := runIf true loseInput s

/-- Power comes: power-on state, STANDBY with BOOT (R445, R474). -/
def powerOn (s : State) : State :=
  let s := freshDevice 1 s
  { s with pins := { s.pins with thermTrip := false } }

/-- INSERTION (R445): the power blades make contact; the modules fitted are seen. -/
def execInsertion (modules : List (Option Dimm)) (s : State) : Host.Outcome State Fault Refusal :=
  runIf (decide (modules.length ≤ 24) && decide (s.bc.stage ≤ 1) && ! s.pins.pwrDis) (fun s =>
    let s := powerOn s
    { s with bc := { s.bc with dimms := modules } }) s

/-- INPUT_RESTORED (R445, R475). -/
def execInputRestored (s : State) : Host.Outcome State Fault Refusal :=
  runIf (decide (s.bc.stage = 0) && ! s.pins.pwrDis) powerOn s

/-- PWR_DIS_ASSERT (R493): the hot-swap controller opens. -/
def execPwrDisAssert (s : State) : Host.Outcome State Fault Refusal :=
  runIf true (fun s => loseInput { s with pins := { s.pins with pwrDis := true } }) s

/-- PWR_DIS_DEASSERT (R493): power-on. -/
def execPwrDisDeassert (s : State) : Host.Outcome State Fault Refusal :=
  runIf s.pins.pwrDis (fun s => powerOn { s with pins := { s.pins with pwrDis := false } }) s

/-! Removal (R447). -/

/-- Orderly removal: records are discarded, ropes reset, ports DISABLED after DOWN_NOTICE with cause 2, the package unpowered. -/
def startRemoval (s : State) : State :=
  if s.bc.removing then s
  else
    let s := { s with bc := { s.bc with removing := true } }
    let s := forList (existing s) s (fun r s => resetRope r s)
    linkDown (enterStandby 2 s)

/-- ORDERLY_REMOVAL (R447). -/
def execOrderlyRemoval (fn : Requester) (s : State) : Host.Outcome State Fault Refusal :=
  runIf (fnAllowed fn (regOff .BC_CTRL []) s) startRemoval s

/-- HOTPLUG_ATTENTION_REQUEST (R447). -/
def execHotplugAttentionRequest (s : State) : Host.Outcome State Fault Refusal :=
  runIf (decide (Dv.standby ≤ deviceState s)) startRemoval s

/-- REMOVAL_COMPLETE (R447): flash writes are finished. -/
def execRemovalComplete (s : State) : Host.Outcome State Fault Refusal :=
  runIf s.bc.removing (fun s => setF F.BC_STATE_REMOVE_READY [] 1 { s with pins := { s.pins with removeReady := true } }) s

end Sys2Proof.Machine
end

