-- ==== Sys2Proof/Machine/Boot.lean ====
section
/-! DEFINITION. Signed objects in flash, boot, identity and attestation, firmware update (R449 to R460, R492, R496). -/

namespace Sys2Proof.Machine

open Sys2Proof

/-! Signed objects (R449 to R451). -/

/-- Bytes of the flash. -/
def flashBytes (off n : Nat) (s : State) : List Byte := s.mem.bytes (flashPlace off) n

/-- Where a slot lies: component 1 image, 2 configuration record; slot false A, true B (R496). -/
def slotBase (comp : Nat) (b : Bool) : Nat := (comp - 1) * 0x2000000 + (if b then 0x1000000 else 0)

/-- The context string of a component's signature. -/
def slotContext (comp : Nat) : List Byte := ascii (if comp = 1 then "DV1-vuola" else "DV1-confg")

/-- The rollback counter of a component. -/
def slotCounter (comp : Nat) (s : State) : Nat := if comp = 1 then s.bc.imgCounter.toNat else s.bc.cfgCounter.toNat

/-- LENGTH of an envelope. -/
def envLen (h : List Byte) : Nat := fieldAt h 12 4

/-- The fields of an envelope other than key, signature and digest. -/
def envFields (comp off : Nat) (h : List Byte) (s : State) : Bool :=
  decide (fieldAt h 0 2 = 1) && decide (fieldAt h 2 2 = comp) && decide (envLen h ≤ 16769024) && zeroIn h 16 32 && zeroFrom 96 h &&
  zeroFrom 0 (flashBytes (off + 7475) 717 s)

/-- Check the envelope of a slot (R450): OK, DIGEST_MISMATCH for key, signature or digest, NOT_PERMITTED for the rest. -/
def checkSlot (comp : Nat) (b : Bool) (s : State) : Nat :=
  let off := slotBase comp b
  let h := flashBytes off 256 s
  let key := flashBytes (off + 256) 2592 s
  if sha3_512 key ≠ Config.kryverKeyHash then St.digestMismatch
  else if ! Config.mldsaVerify key (slotContext comp) h (flashBytes (off + 2848) 4627 s) then St.digestMismatch
  else if sha3_512 (flashBytes (off + 8192) (min 16769024 (envLen h)) s) ≠ (h.drop 32).take 64 then St.digestMismatch
  else if ! envFields comp off h s ∨ fieldAt h 8 4 < slotCounter comp s then St.notPermitted
  else St.ok

/-- The body of a configuration record suits this device (R451). -/
def cfgBodyOk (body : List Byte) (s : State) : Bool :=
  decide (body.take 64 = keyHash s) && decide (fieldAt body 64 1 = 0xB0) && zeroIn body 65 72 && zeroFrom 1296 body

/-- Check a configuration slot as boot does. -/
def checkCfg (b : Bool) (s : State) : Nat :=
  let off := slotBase 2 b
  let st := checkSlot 2 b s
  if st = St.ok ∧ ! cfgBodyOk (flashBytes (off + 8192) (envLen (flashBytes off 256 s)) s) s then St.notPermitted else st

/-- The slot to use, the preferred one first; the status of the preferred one when neither is valid. -/
def chooseSlot (pref : Bool) (check : Bool → Nat) : Except Nat Bool :=
  if check pref = St.ok then .ok pref else if check (! pref) = St.ok then .ok (! pref) else .error (check pref)

/-! Boot (R452, R453, R492). -/

/-- An event record of boot (R471). -/
def bootEvent (status cls comp : Nat) (s : State) : State :=
  raiseEvent { status := status, cls := cls, source := 0x0C, detail := natLe 2 comp } s

/-- Boot stops: STATUS says why (R453). -/
def bootStop (status comp : Nat) (s : State) : State :=
  bootEvent status 4 comp (setF F.BC_BOOT_STATUS [] status { s with bc := { s.bc with stage := 4 } })

/-- Use a configuration record: the units it enables (R451). -/
def useCfg (b : Bool) (s : State) : State :=
  let off := slotBase 2 b
  let rec_ := flashBytes off (8192 + envLen (flashBytes off 256 s)) s
  let body := rec_.drop 8192
  let s := { s with bc := { s.bc with cfgRecord := rec_ } }
  let s := setR .ID_CLUSTERS [] (BitVec.ofNat 64 (fieldAt body 72 8)) (setF F.BC_BOOT_CFG_SLOT [] (if b then 1 else 0) s)
  forN 8 s (fun d s => setR .ID_CORES [d] (BitVec.ofNat 64 (fieldAt body (80 + 8 * d) 8)) s)

/-- Run an image. -/
def useImage (b : Bool) (s : State) : State :=
  let h := flashBytes (slotBase 1 b) 256 s
  let s := { s with bc := { s.bc with imgHeader := h } }
  setF F.BC_BOOT_IMG_SLOT [] (if b then 1 else 0) (setF F.ID_VUOLA_VERSION [] (fieldAt h 4 4) (setF F.ID_VUOLA_SVN [] (fieldAt h 8 4) s))

/-- The 17 straps are together odd. -/
def strapsOdd (straps : BitVec 17) : Bool := decide (((List.range 17).filter (fun i => straps.getLsbD i)).length % 2 = 1)

/-- The straps are sampled: bits 15:0 the address, bit 16 ADDR_PAR (R492). -/
def sampleStraps (straps : BitVec 17) (s : State) : State :=
  let ok := strapsOdd straps
  let s := setF F.ID_ADDR_PARITY_OK [] (if ok then 1 else 0) (setF F.ID_ADDR_ADDR [] straps.toNat { s with bc := { s.bc with parity := ok } })
  if ok then s else bootEvent St.notPermitted 4 0 s

/-- The host link is up after boot or PERST# (R483). -/
def linkUp (gen width : Nat) (s : State) : State :=
  setF F.ID_HOST_LINK_FLIT [] (if gen = 6 then 1 else 0) (setF F.ID_HOST_LINK_WIDTH [] width (setF F.ID_HOST_LINK_GEN [] gen s))

/-- The link trains at boot with what both ends support, which the device does not set. -/
def trainHostLink (s : State) : State :=
  if s.pins.perst then s
  else
    let (w, s) := takeFree s
    linkUp (3 + bits 1 0 w) (([1, 4, 8, 16] : List Nat).getD (bits 3 2 w) 1) s

/-- The device secret and the hash of the attestation key (R455). -/
def useSecret (k : BitVec 256) (s : State) : State :=
  let s := { s with bc := { s.bc with secret := some k } }
  let h := sha3_512 (Config.mldsaPublicKey (attSeed s))
  forN 8 s (fun i s => setR .ID_ATT_KEYHASH [i] (BitVec.ofNat 64 (fieldAt h (8 * i) 8)) s)

/-- The boot ROM runs: straps, DDR5 training, secret, configuration record, host link (R452, R453). -/
def bootRom (puf : Option (BitVec 256)) (straps : BitVec 17) (s : State) : State :=
  let s := { s with bc := { s.bc with stage := 2 } }
  let s := setF F.BC_BOOT_IMG_COUNTER [] s.bc.imgCounter.toNat (setF F.BC_BOOT_CFG_COUNTER [] s.bc.cfgCounter.toNat s)
  let s := trainHostLink (ddrStart (sampleStraps straps s))
  match puf with
  | none => bootStop St.poison 0 s
  | some k =>
    let s := useSecret k s
    match chooseSlot s.bc.prefCfg (fun b => checkCfg b s) with
    | .error st => bootStop st 2 s
    | .ok b => bootEvent St.ok 0 2 (useCfg b s)

/-- BOOT_ROM_START (R452). -/
def execBootRomStart (puf : Option (BitVec 256)) (straps : BitVec 17) (s : State) : Host.Outcome State Fault Refusal :=
  runIf (decide (s.bc.stage = 1)) (bootRom puf straps) s

/-- Vuola runs from the image it checked and writes the training cache (R352); the device enters IDLE unless HOLD keeps it (R445, R452). -/
def vuolaStart (s : State) : State :=
  match chooseSlot s.bc.prefImg (fun b => checkSlot 1 b s) with
  | .error st => bootStop st 1 s
  | .ok b =>
    let s := useImage b s
    let s := bootEvent St.ok 0 1 { s with bc := { s.bc with stage := 3 } }
    bootedIdle (doIf s.bc.ddrReady writeCache s)

/-- VUOLA_START (R452). -/
def execVuolaStart (s : State) : Host.Outcome State Fault Refusal := runIf (decide (s.bc.stage = 2)) vuolaStart s

/-! Quotes (R457). -/

/-- A function's quote status. -/
def quoteStatus (f : Requester) (s : State) : Word := (tget {} s.fns (fnIdx f)).quoteStatus

/-- Set it. -/
def setQuoteStatus (f : Requester) (v : Word) (s : State) : State :=
  { s with fns := tmod {} s.fns (fnIdx f) (fun k => { k with quoteStatus := v }) }

/-- A write of BC_QUOTE_REQ: at most 16 requests wait behind the one that runs. -/
def quoteRequest (f : Requester) (v : Word) (s : State) : State :=
  if s.bc.stage ≠ 3 ∨ 16 < s.bc.quotes.length then setQuoteStatus f (withBits 15 8 St.notPermitted (quoteStatus f s)) s
  else setQuoteStatus f (withBits 0 0 1 (quoteStatus f s)) { s with bc := { s.bc with quotes := s.bc.quotes ++ [⟨f, v.toNat / 64 * 64⟩] } }

/-- QUOTE_REQUEST (R457). -/
def execQuoteRequest (fn : Requester) (addr : BitVec 64) (s : State) : Host.Outcome State Fault Refusal :=
  runIf (fnAllowed fn (regOff .BC_QUOTE_REQ []) s) (quoteRequest fn addr) s

/-- The body of a quote. -/
def quoteBody (nonce : List Byte) (s : State) : List Byte :=
  natLe 2 1 ++ natLe 1 (getF F.BC_TIME_STATUS_SYNCED [] s + 2 * getF F.BC_BOOT_IMG_SLOT [] s) ++ zeros 1 ++
  natLe 4 (getF F.ID_VUOLA_VERSION [] s) ++ natLe 4 (getF F.ID_VUOLA_SVN [] s) ++ natLe 4 (fieldAt s.bc.cfgRecord 8 4) ++
  natLe 8 (timeNow s).toNat ++ natLe 2 (ownAddr s).toNat ++ zeros 6 ++ nonce ++ sha3_512 s.bc.imgHeader ++
  sha3_512 (s.bc.cfgRecord.take 256) ++ natLe 4 s.bc.imgCounter.toNat ++ natLe 4 s.bc.cfgCounter.toNat ++ zeros 24

/-- A quote: body and signature. -/
def quoteBytes (nonce : List Byte) (s : State) : List Byte :=
  quoteBody nonce s ++ Config.mldsaSign (attSeed s) (ascii "DV1-quote") (quoteBody nonce s)

/-- The request that runs is answered. -/
def quoteDone (s : State) : State :=
  match s.bc.quotes with
  | [] => s
  | q :: t =>
    let s := { s with bc := { s.bc with quotes := t } }
    let bad := s.mem.anyPoison (hostPlace q.addr) 64
    let s := emit (.hostRead (fnIdx q.fn) q.addr 64) s
    let s := if bad then s else hostWriteBy (fnIdx q.fn) (q.addr + 64) (quoteBytes (hostBytes s q.addr 64) s) s
    let more := t.any (fun x => decide (x.fn = q.fn))
    setQuoteStatus q.fn (withBits 15 8 (if bad then St.poison else St.ok) (withBits 0 0 (if more then 1 else 0) (quoteStatus q.fn s))) s

/-- QUOTE_COMPLETE (R457). -/
def execQuoteComplete (s : State) : Host.Outcome State Fault Refusal := runIf true quoteDone s

/-! Host-side management (R458 to R460). The endpoint answers once Vuola runs. -/

/-- Answer a management message. -/
def answer (bs : List Byte) (s : State) : State := emit (.mgmtAnswer bs) s

/-- Answer with a status. -/
def answerStatus (st : Nat) (s : State) : State := answer (natLe 1 st) s

/-- Vuola runs. -/
def mgmtUp (s : State) : Bool := decide (s.bc.stage = 3)

/-- MCTP_CONTROL (R458). -/
def execMctpControl (msg : List (BitVec 8)) (s : State) : Host.Outcome State Fault Refusal :=
  runIf (mgmtUp s) (answer (Config.mctpAnswer msg)) s

/-- PLDM_BASE (R458). -/
def execPldmBase (msg : List (BitVec 8)) (s : State) : Host.Outcome State Fault Refusal :=
  runIf (mgmtUp s) (answer (Config.mctpAnswer msg)) s

/-- The slot of a component that did not boot (R459). -/
def otherSlot (comp : Nat) (s : State) : Bool :=
  decide (getF (if comp = 1 then F.BC_BOOT_IMG_SLOT else F.BC_BOOT_CFG_SLOT) [] s = 0)

/-- A piece of a firmware component is written; another component's update is refused while one is in progress (R459). -/
def fwTransfer (comp off : Nat) (data : List Byte) (s : State) : State :=
  let mine := match s.bc.pldm with | none => true | some (c, _) => decide (c = comp)
  if ! mine ∨ comp = 0 ∨ 2 < comp ∨ 0x1000000 < off + data.length then answerStatus St.notPermitted s
  else
    answerStatus St.ok (memWrite (flashPlace (slotBase comp (otherSlot comp s) + off)) data
      { s with bc := { s.bc with pldm := some (comp, false) } })

/-- PLDM_FW_TRANSFER (R459). -/
def execPldmFwTransfer (comp off : Nat) (data : List (BitVec 8)) (s : State) : Host.Outcome State Fault Refusal :=
  runIf (mgmtUp s) (fwTransfer comp off data) s

/-- The written slot is checked under R450. -/
def fwVerify (s : State) : State :=
  match s.bc.pldm with
  | none => answerStatus St.notPermitted s
  | some (c, _) =>
    let st := checkSlot c (otherSlot c s) s
    answerStatus st { s with bc := { s.bc with pldm := some (c, decide (st = St.ok)) } }

/-- PLDM_FW_VERIFY (R459). -/
def execPldmFwVerify (s : State) : Host.Outcome State Fault Refusal := runIf (mgmtUp s) fwVerify s

/-- The verified slot becomes the preferred one; it takes effect at the next device reset or power-on. -/
def fwActivate (s : State) : State :=
  match s.bc.pldm with
  | some (c, true) =>
    let b := s.bc
    answerStatus St.ok { s with bc := { b with
      pldm := none, prefImg := if c = 1 then otherSlot 1 s else b.prefImg, prefCfg := if c = 2 then otherSlot 2 s else b.prefCfg } }
  | _ => answerStatus St.notPermitted s

/-- PLDM_FW_ACTIVATE (R459). -/
def execPldmFwActivate (s : State) : Host.Outcome State Fault Refusal := runIf (mgmtUp s) fwActivate s

/-- GET_CERT (R456, R460): a part of the certificate's 7,307 bytes. -/
def execGetCert (off len : Nat) (s : State) : Host.Outcome State Fault Refusal :=
  runIf (mgmtUp s) (fun s =>
    if 1024 < len then answerStatus St.notPermitted s
    else answer (flashBytes (0x4010000 + off) (min len (7307 - off)) s) s) s

/-- GET_QUOTE (R457, R460): part 0 makes a quote, the later parts go on with it. -/
def getQuote (nonce : List Byte) (part : Nat) (s : State) : State :=
  if nonce.length ≠ 64 ∨ 5 ≤ part ∨ (part = 0 ∧ 16 < s.bc.quotes.length) then answerStatus St.notPermitted s
  else
    let s := if part = 0 then { s with bc := { s.bc with quote := quoteBytes nonce s } } else s
    answer ((s.bc.quote.drop (1024 * part)).take 1024) s

/-- GET_QUOTE (R460). -/
def execGetQuote (nonce : List (BitVec 8)) (part : Nat) (s : State) : Host.Outcome State Fault Refusal :=
  runIf (mgmtUp s) (getQuote nonce part) s

/-- SET_MANAGERS (R460): refused while a management session is open. -/
def setManagers (hashes : List (List Byte)) (s : State) : State :=
  if ! s.bc.sessions.isEmpty ∨ 4 < hashes.length ∨ ! hashes.all (fun h => decide (h.length = 64)) then answerStatus St.notPermitted s
  else answerStatus St.ok { s with bc := { s.bc with managers := hashes } }

/-- SET_MANAGERS (R460). -/
def execSetManagers (hashes : List (List (BitVec 8))) (s : State) : Host.Outcome State Fault Refusal :=
  runIf (mgmtUp s) (setManagers hashes) s

end Sys2Proof.Machine
end

