-- ==== Sys2Proof/Machine/Tiles.lean ====
section
/-! DEFINITION. What the core engines share: running the head of an engine queue (R257 to R265), tile access by rope address
(R300 to R303), the bytes an instruction is about to write, conversion and quantisation into a tile (R233, R321). -/

namespace Sys2Proof.Machine

open Sys2Proof

/-! The bytes an instruction has written so far. It reads through them (R317, R324); they reach memory together when it ends. -/

/-- Written bytes by rope address, rising; none for a byte of a poisoned word (R265). -/
abbrev ByteMap := List (Nat × Option Byte)

/-- The written byte at an address. -/
def bmGet : ByteMap → Nat → Option (Option Byte)
  | [], _ => none
  | (b, v) :: t, a => if a = b then some v else if a < b then none else bmGet t a

/-- Write one byte. -/
def bmPut : ByteMap → Nat → Option Byte → ByteMap
  | [], a, v => [(a, v)]
  | (b, w) :: t, a, v => if a < b then (a, v) :: (b, w) :: t else if a = b then (a, v) :: t else (b, w) :: bmPut t a v

/-- Write bytes from an address. -/
def bmPutList (m : ByteMap) (a : Nat) (l : List (Option Byte)) : ByteMap :=
  (l.zipIdx).foldl (fun m e => bmPut m (a + e.2) e.1) m

/-- Runs of consecutive written bytes. -/
def bmRuns : ByteMap → List (Nat × List (Option Byte))
  | [] => []
  | (a, v) :: t =>
    match bmRuns t with
    | [] => [(a, [v])]
    | (b, l) :: rest => if b = a + 1 then (a, v :: l) :: rest else (a, [v]) :: (b, l) :: rest

/-- Poison the bytes of a run that are none, `fuel` stretches at most. -/
def poisonRun (w : Who) : Nat → Nat → List (Option Byte) → State → Except Stop State
  | 0, _, _, s => .ok s
  | fuel + 1, a, l, s =>
    let k := (l.takeWhile Option.isSome).length
    let n := ((l.drop k).takeWhile Option.isNone).length
    if n = 0 then .ok s
    else
      match wrPoison w (a + k) n s with
      | .error e => .error e
      | .ok s => poisonRun w fuel (a + k + n) (l.drop (k + n)) s

/-- Write the runs to memory. -/
def applyRuns (w : Who) : List (Nat × List (Option Byte)) → State → Except Stop State
  | [], s => .ok s
  | (a, l) :: t, s =>
    match wr w a (l.map (fun b => b.getD 0)) s with
    | .error e => .error e
    | .ok s =>
      match poisonRun w l.length a l s with
      | .error e => .error e
      | .ok s => applyRuns w t s

/-- The own core store under the address other cores know it by (R252), so that both names of a byte meet. -/
def normAddr (w : Who) (a : Nat) (s : State) : Nat :=
  if a < 0x200000 then 0x40000000 + ropeCoreIdx w.rope w.core s * 2 ^ 21 + a else a

/-- Read bytes through what the instruction has written: the bytes and 0, or the status of poison among them. -/
def vread (w : Who) (m : ByteMap) (a n : Nat) (s : State) : Except Stop (List Byte × Nat) :=
  match rdSoft w a n s with
  | .error e => .error e
  | .ok (bs, f) =>
    if m.isEmpty then .ok (bs, f)
    else
      let k := normAddr w a s
      let overl := (List.range n).map (fun i => bmGet m (k + i))
      let out := (bs.zip overl).map (fun e => match e.2 with | some (some v) => v | _ => e.1)
      .ok (out, if overl.any (fun o => decide (o = some none)) then St.poison else if overl.all Option.isSome then 0 else f)

/-! Running an engine instruction. -/

/-- How an engine instruction ends: done with the numeric flags it raises, a fault with what it has done, or waiting for lent
memory. -/
inductive EngOut where
  | done (t : State) (flags : Word)
  | fail (t : State) (status addr : Nat)
  | need (lender lhandle off : Nat)

/-- What an engine instruction does, from its rope, its queue entry and the state without it at the head of its queue. -/
abbrev EngFx := Nat → QEntry → State → EngOut

/-- An instruction that reads, then writes bytes, then ends. -/
def engOf (r : Except Stop (State × Word)) (s : State) : EngOut :=
  match r with
  | .ok (t, f) => .done t f
  | .error (.fault st a) => .fail s st a
  | .error (.need l h o) => .need l h o

/-- The queue of an engine of a core: 1 MXE, 2 VXE, 3 MGE, 4 DMV. -/
def engQueue (src : Nat) (k : Core) : List QEntry :=
  match src with
  | 1 => k.mxeQ
  | 2 => k.vxeQ
  | 3 => k.mgeQ
  | _ => k.dmvQ

/-- Take the head off that queue. -/
def popEngine (src c : Nat) (s : State) : State :=
  modCore c (fun k => match src with
    | 1 => { k with mxeQ := k.mxeQ.tail }
    | 2 => { k with vxeQ := k.vxeQ.tail }
    | 3 => { k with mgeQ := k.mgeQ.tail }
    | _ => { k with dmvQ := k.dmvQ.tail }) s

/-- The head of that queue has begun. -/
def beginEngine (src c : Nat) (s : State) : State :=
  let go := fun (q : List QEntry) => match q with | e :: t => e.begun :: t | [] => []
  modCore c (fun k => match src with
    | 1 => { k with mxeQ := go k.mxeQ }
    | 2 => { k with vxeQ := go k.vxeQ }
    | 3 => { k with mgeQ := go k.mgeQ }
    | _ => { k with dmvQ := go k.dmvQ }) s

/-- An engine of core `c` as a unit: the DMV reaches everything (R254). -/
def engWho (src r c : Nat) : Who :=
  if src = 4 then { reach := .all, rope := r, core := c, id := 1024 + c } else { reach := .core, rope := r, core := c, id := 2048 + c }

/-- The engine as the unit of one instruction (R263). -/
def engWhoOf (src r c : Nat) (e : QEntry) : Who := { engWho src r c with tag := e.tag, pc := e.pc }

/-- Raise bits of a core's numeric status word (R247). -/
def raiseNstat (c : Nat) (f : Word) (s : State) : State := modCore c (fun k => { k with nstat := k.nstat ||| f }) s

/-- The end of an instruction that ran: its flags, TRAP_NAN for the MXE, VXE and DMV (R246), its signal (R262). -/
def endEngine (src r c : Nat) (e : QEntry) (flags : Word) (s : State) : State :=
  let s := endAccess (engWho src r c).id 0 (raiseNstat c flags s)
  if flags.getLsbD 0 && e.nctrl.getLsbD 4 && decide (src ≠ 3) then engineFault r c src e.tag e.pc St.nanSeen 0 s
  else settleSlots (signalEntry (engWho src r c).id r c e s)

/-- An engine command of core `c`: the head of the queue runs when it is operation `op` and its waits hold (R259, R261). One that
waits for what it reads has begun, and is finished though its rope stops or is suspended (R267, R270). -/
def engineStep (src op c : Nat) (fx : Nat → QEntry → State → EngOut) (s : State) : State :=
  match ropeOfCore c s, engQueue src (coreOf c s) with
  | some r, e :: _ =>
    if ! mayRun r e.started s ∨ wf32 e.w0 27 20 ≠ op ∨ ! (e.started || waitsHold r c e s) then s
    else
      match fx r e (popEngine src c s) with
      | .need l h o => askLender (engWho src r c) l h o (beginEngine src c s)
      | .done t f => endEngine src r c e f t
      | .fail t st a => engineFault r c src e.tag e.pc st a (endAccess (engWho src r c).id st t)
  | _, _ => s

/-- Run an engine command of a core of the device. -/
def engineRun (src op c : Nat) (fx : Nat → QEntry → State → EngOut) (s : State) : Host.Outcome State Fault Refusal :=
  runIf (decide (c < 512)) (engineStep src op c fx) s

/-- The rounding mode of an instruction (R234, R292): its own, or RMODE of the captured control word, whose 3 is 0. -/
def modeOf (e : QEntry) : Nat :=
  let rm := wf32 e.w0 4 3
  let m := if rm = 3 then nbits 1 0 e.nctrl.toNat else rm
  if m = 3 then 0 else m

/-- The rounding of the element at a byte address and bit offset (R235). -/
def roundAt (e : QEntry) (byte bit : Nat) : Rounding :=
  ⟨modeOf e, if modeOf e = 2 then srDraw e.seed (byte * 8 + bit) else 0⟩

/-! Tiles. -/

/-- The line an element is in and its place along the line (R302). -/
def Tile.place (t : Tile) (r c : Nat) : Nat × Nat := if t.layout = 1 then (c, r) else (r, c)

/-- Byte address and bit offset of element `i` of line `l` (R231, R302). -/
def Tile.addrOf (t : Tile) (l i : Nat) : Nat × Nat :=
  let b := i * fmtBits t.format
  (t.base + l * t.stride + b / 8, b % 8)

/-- Byte address and bit offset of element (r, c). -/
def Tile.elemAddr (t : Tile) (r c : Nat) : Nat × Nat := t.addrOf (t.place r c).1 (t.place r c).2

/-- Address of the scale of block `j` of line `l` (R302). -/
def Tile.scaleAddr (t : Tile) (l j : Nat) : Nat :=
  if t.layout = 2 then t.base + l * t.stride + t.lineBytes + j
  else t.base + t.soff + l * ((t.lineLen + 31) / 32) + j

/-- Every byte of a range lies within the unit's reach (R254). -/
def reachable (w : Who) (wr : Bool) (a n : Nat) (s : State) : Bool :=
  (List.range (n / 2 ^ 21 + 2)).all (fun i =>
    let b := if i = 0 then a else a / 2 ^ 21 * 2 ^ 21 + i * 2 ^ 21
    decide (a + n ≤ b) || decide (locate w b wr s ≠ .unmapped))

/-- Every byte of a dense tile and of its scales lies within reach (R303). -/
def Tile.reach (t : Tile) (w : Who) (wr : Bool) (s : State) : Bool :=
  (List.range t.lines).all (fun l => reachable w wr (t.base + l * t.stride) t.lineSpan s) &&
  (! isBlock t.format || decide (t.layout = 2) ||
    reachable w wr (t.base + t.soff) (t.lines * ((t.lineLen + 31) / 32)) s)

/-- A dense descriptor passes R303 for a unit. -/
def Tile.ok (t : Tile) (w : Who) (wr : Bool) (s : State) : Bool := t.denseOk && t.reach w wr s

/-- A format with a numeric value: FP32, BF16, FP16 or a block format. -/
def isNumFmt (f : Nat) : Bool := decide (f = 1 ∨ f = 2 ∨ f = 3) || isBlock f

/-- An element as stored: its bits and its block's scale byte, each with the poison found in its word and its address. -/
structure Raw where
  bits : Nat
  scale : Nat := 0
  flag : Nat := 0
  addr : Nat := 0
  sflag : Nat := 0
  saddr : Nat := 0
  deriving DecidableEq, Repr

/-- The poison of an element with its scale, its own first. -/
def Raw.poison (x : Raw) : Nat := if x.flag = 0 then x.sflag else x.flag

/-- Where that poison lies. -/
def Raw.badAddr (x : Raw) : Nat := if x.flag = 0 then x.saddr else x.addr

/-- Read `n` bits from a byte address and bit offset. -/
def readBits (w : Who) (m : ByteMap) (a bit n : Nat) (s : State) : Except Stop (Nat × Nat) :=
  match vread w m a ((bit + n + 7) / 8) s with
  | .error e => .error e
  | .ok (bs, f) => .ok (nbits (bit + n - 1) bit (leNat bs), f)

/-- Read an element and its scale, if the format has one. -/
def readRaw (w : Who) (m : ByteMap) (code a bit : Nat) (sc : Nat) (s : State) : Except Stop Raw :=
  match readBits w m a bit (fmtBits code) s with
  | .error e => .error e
  | .ok (v, f) =>
    if isBlock code then
      match vread w m sc 1 s with
      | .error e => .error e
      | .ok (b, g) => .ok ⟨v, leNat b, f, a, g, sc⟩
    else .ok ⟨v, 0, f, a, 0, a⟩

/-- Element (r, c) of a dense tile. -/
def Tile.raw (t : Tile) (w : Who) (m : ByteMap) (s : State) (r c : Nat) : Except Stop Raw :=
  let a := t.elemAddr r c
  readRaw w m t.format a.1 a.2 (t.scaleAddr (t.place r c).1 ((t.place r c).2 / 32)) s

/-- The value of an element (R227, R230). -/
def Raw.value (x : Raw) (code : Nat) : FNum := if isBlock code then blockDecode code x.bits x.scale else (elemOf code).decode x.bits

/-- The value of an element that must be good (R265). -/
def Raw.good (x : Raw) (code : Nat) : Except Stop FNum :=
  if x.poison = 0 then .ok (x.value code) else .error (.fault x.poison x.badAddr)

/-- An element counts as non-zero (R326). -/
def Raw.nonZero (x : Raw) (code : Nat) : Bool := (isBlock code && decide (x.scale = 0xFF)) || ! isZeroCode code x.bits

/-- The value of element (r, c), which must be good. -/
def Tile.num (t : Tile) (w : Who) (m : ByteMap) (s : State) (r c : Nat) : Except Stop FNum :=
  match t.raw w m s r c with
  | .error e => .error e
  | .ok x => x.good t.format

/-! Compressed tiles (R327 to R334). -/

/-- The slot size Z (R328). -/
def slotSize (rows code : Nat) : Nat :=
  64 + (rows * (16 * fmtBits code + (if isBlock code then 4 else 0)) + 63) / 64 * 64

/-- Columns of panel `p`. -/
def Tile.panelCols (t : Tile) (p : Nat) : Nat := min 128 (t.cols - 128 * p)

/-- Number of panels. -/
def Tile.panels (t : Tile) : Nat := (t.cols + 127) / 128

/-- A compressed descriptor passes R303 and R327 for a unit. -/
def Tile.compOk (t : Tile) (w : Who) (wr : Bool) (s : State) : Bool :=
  t.comp && ! t.rsvd && isNumFmt t.format && decide (t.rows ≤ 128) && decide (t.base % 64 = 0) &&
  decide (t.stride = 0 ∧ t.layout = 0 ∧ t.soff = 0) && (! isBlock t.format || decide (t.cols % 32 = 0)) &&
  reachable w wr t.base (t.panels * slotSize t.rows t.format) s

/-- A panel as its header gives it (R330): slot address, columns, stored dense, NNZ. -/
structure Panel where
  slot : Nat
  cols : Nat
  dense : Bool
  nnz : Nat
  deriving DecidableEq, Repr

/-- The number of 1 bits of a byte list. -/
def popBytes (bs : List Byte) : Nat := (bs.map (fun b => ((List.range 8).filter (fun i => b.getLsbD i)).length)).sum

/-- The header of a panel breaks R333. -/
def headerBad (h : List Byte) (t : Tile) (p : Nat) : Bool :=
  let n := leNat h
  decide (nbits 5 0 n ≠ t.format) || n.testBit 7 || decide (nbits 14 8 n + 1 ≠ t.rows) || n.testBit 15 ||
  decide (nbits 22 16 n + 1 ≠ t.panelCols p) || n.testBit 23 || decide (nbits 31 24 n ≠ 0) ||
  decide (nbits 63 32 n ≠ slotSize t.rows t.format) || decide (nbits 127 112 n ≠ 0)

/-- Read and check the header of panel `p` (R333). `strict`: poison faults (R265); otherwise a poisoned header breaks R333. -/
def readPanel (w : Who) (m : ByteMap) (t : Tile) (strict : Bool) (p : Nat) (s : State) : Except Stop Panel :=
  let slot := t.base + p * slotSize t.rows t.format
  match vread w m slot 16 s with
  | .error e => .error e
  | .ok (h, f) =>
    if f ≠ 0 ∧ strict then .error (.fault f slot)
    else if f ≠ 0 ∨ headerBad h t p then .error (.fault St.notPermitted slot)
    else
      let n := leNat h
      let pan : Panel := ⟨slot, t.panelCols p, n.testBit 6, nbits 79 64 n⟩
      if pan.dense then .ok pan
      else
        match vread w m (slot + 64) (16 * t.rows) s with
        | .error e => .error e
        | .ok (b, g) =>
          if g ≠ 0 ∧ strict then .error (.fault g (slot + 64))
          else if pan.nnz < popBytes b then .error (.fault St.notPermitted slot)
          else .ok pan

/-- Read and check every header. -/
def readPanels (w : Who) (m : ByteMap) (t : Tile) (strict : Bool) (s : State) : Nat → Except Stop (List Panel)
  | 0 => .ok []
  | k + 1 =>
    match readPanels w m t strict s k with
    | .error e => .error e
    | .ok l =>
      match readPanel w m t strict k s with
      | .error e => .error e
      | .ok p => .ok (l ++ [p])

/-- Bytes of a row of a panel stored dense (R331). -/
def denseRow (code cols : Nat) : Nat := cols * fmtBits code / 8 + (if isBlock code then (cols + 31) / 32 else 0)

/-- Element (r, c) of a compressed tile (R329, R331, R334). -/
def compRaw (w : Who) (m : ByteMap) (t : Tile) (pans : List Panel) (s : State) (r c : Nat) : Except Stop Raw :=
  match pans[c / 128]? with
  | none => .ok ⟨0, 0, 0, 0, 0, 0⟩
  | some p =>
    let j := c % 128
    let wd := fmtBits t.format
    let nb := if isBlock t.format then (p.cols + 31) / 32 else 0
    if p.dense then
      let row := p.slot + 64 + r * denseRow t.format p.cols
      readRaw w m t.format (row + j * wd / 8) (j * wd % 8) (row + p.cols * wd / 8 + j / 32) s
    else
      let v := p.slot + 64 + 16 * t.rows
      match vread w m (p.slot + 64) (16 * (r + 1)) s with
      | .error e => .error e
      | .ok (bm, f) =>
        let row := leNat (bm.drop (16 * r))
        let idx := popBytes (bm.take (16 * r)) + popBytes (natLe 16 (row % 2 ^ j))
        let scale := v + (p.nnz * wd + 127) / 128 * 16 + r * nb + j / 32
        if f = 0 && row.testBit j then readRaw w m t.format (v + idx * wd / 8) (idx * wd % 8) scale s
        else if isBlock t.format then
          match vread w m scale 1 s with
          | .error e => .error e
          | .ok (b, g) => .ok ⟨0, leNat b, f, p.slot + 64, g, scale⟩
        else .ok ⟨0, 0, f, p.slot + 64, 0, 0⟩

/-- Element (r, c) of a dense tile, or of a compressed one whose headers have been read. -/
def Tile.rawAny (t : Tile) (w : Who) (m : ByteMap) (pans : List Panel) (s : State) (r c : Nat) : Except Stop Raw :=
  if t.comp then compRaw w m t pans s r c else t.raw w m s r c

/-! Writing. -/

/-- Bytes to write at an address. -/
abbrev Puts := List (Nat × List (Option Byte))

/-- Good bytes. -/
def putGood (bs : List Byte) : List (Option Byte) := bs.map some

/-- Take an instruction's writes into the map, under the names other cores use. -/
def bmPuts (w : Who) (s : State) (m : ByteMap) (p : Puts) : ByteMap :=
  p.foldl (fun m e => bmPutList m (normAddr w e.1 s) e.2) m

/-- Run `f` over the positions of one group, all reading the same bytes, and collect what they write. -/
def runGroup (f : ByteMap → Nat → Nat → Except Stop (Puts × Word)) (m : ByteMap) :
    List (Nat × Nat) → Except Stop (Puts × Word)
  | [] => .ok ([], 0)
  | x :: t =>
    match f m x.1 x.2 with
    | .error e => .error e
    | .ok (p, fl) =>
      match runGroup f m t with
      | .error e => .error e
      | .ok (q, gl) => .ok (p ++ q, fl ||| gl)

/-- Run over all positions in groups of `n`, each group read whole before it is written (R317, R324). -/
def runGroups (w : Who) (s : State) (n : Nat) (f : ByteMap → Nat → Nat → Except Stop (Puts × Word)) :
    Nat → ByteMap → List (Nat × Nat) → Except Stop (ByteMap × Word)
  | 0, m, _ => .ok (m, 0)
  | k + 1, m, l =>
    if l.isEmpty then .ok (m, 0)
    else
      match runGroup f m (l.take n) with
      | .error e => .error e
      | .ok (p, fl) =>
        match runGroups w s n f k (bmPuts w s m p) (l.drop n) with
        | .error e => .error e
        | .ok (m, gl) => .ok (m, fl ||| gl)

/-- Positions in ascending row order and then ascending column order. -/
def positions (rows cols : Nat) : List (Nat × Nat) :=
  (List.range rows).flatMap (fun r => (List.range cols).map (fun c => (r, c)))

/-- Run over the positions of a shape and write what results. -/
def runTile (w : Who) (s : State) (rows cols n : Nat) (f : ByteMap → Nat → Nat → Except Stop (Puts × Word)) :
    Except Stop (State × Word) :=
  match runGroups w s n f (rows * cols) [] (positions rows cols) with
  | .error e => .error e
  | .ok (m, fl) =>
    match applyRuns w (bmRuns m) s with
    | .error e => .error e
    | .ok t => .ok (t, fl)

/-- A source value: its number with flags, or poison. -/
abbrev SrcVal := Except Stop (NumF × Nat)

/-- Write one value as element (r, c) of a tile without blocks (R236); poison stays poison (R265). -/
def putNum (e : QEntry) (t : Tile) (r c : Nat) (v : SrcVal) : Except Stop (Puts × Word) :=
  let a := t.elemAddr r c
  match v with
  | .error x => .error x
  | .ok ((u, fl), p) =>
    let n := fmtBits t.format / 8
    if p ≠ 0 then .ok ([(a.1, List.replicate n none)], 0)
    else
      let (b, gl) := (elemOf t.format).encode (roundAt e a.1 a.2) 0 u
      .ok ([(a.1, putGood (natLe n b))], fl ||| gl)

/-- 32 encodings packed into one bit string (R231). -/
def packBits (wd : Nat) (l : List Nat) : List Byte :=
  natLe ((l.length * wd + 7) / 8) (l.foldr (fun b acc => b % 2 ^ wd + acc * 2 ^ wd) 0)

/-- Quantise a block of values: scale byte, encodings, flags (R233). `rnd` gives the rounding of each element. -/
def quantise (code : Nat) (rnd : Nat → Rounding) (vs : List FNum) : Nat × List Nat × Word :=
  match blockScale code vs with
  | none => (0xFF, vs.map (fun _ => 0), Ns.nan)
  | some (sc, ex) =>
    let l := (vs.zipIdx).map (fun e => (elemOf code).encode (rnd e.2) ex e.1)
    (sc, l.map Prod.fst, l.foldl (fun f e => f ||| e.2) 0)

/-- Write block `j` of line `l` of a block-format tile from its 32 values; one that is poison poisons the block (log 15). -/
def putBlock (e : QEntry) (t : Tile) (l j : Nat) (vs : List (NumF × Nat)) : Puts × Word :=
  let a := t.addrOf l (32 * j)
  let wd := fmtBits t.format
  let sc := t.scaleAddr l j
  if vs.any (fun v => decide (v.2 ≠ 0)) then ([(a.1, List.replicate (4 * wd) none), (sc, [none])], 0)
  else
    let rnd := fun i => let x := t.addrOf l (32 * j + i); roundAt e x.1 x.2
    let (s8, bits, fl) := quantise t.format rnd (vs.map (fun v => v.1.1))
    ([(a.1, putGood (packBits wd bits)), (sc, [some (BitVec.ofNat 8 s8)])], vs.foldl (fun f v => f ||| v.1.2) fl)

/-- Values read whose block is not complete yet, latest first, each with its line and block. -/
abbrev HeldVals := List ((Nat × Nat) × (NumF × Nat))

/-- The values held for block `j` of line `l`, in the order they were read. -/
def heldBlock (h : HeldVals) (l j : Nat) : List (NumF × Nat) :=
  ((h.filter (fun x => decide (x.1 = (l, j)))).map Prod.snd).reverse

/-- Read one group of elements for a block tile; a block is quantised when its last element has been read. -/
def holdGroup (e : QEntry) (t : Tile) (src : Nat → Nat → SrcVal) : List (Nat × Nat) → HeldVals → Except Stop (Puts × Word × HeldVals)
  | [], h => .ok ([], 0, h)
  | x :: rest, h =>
    match src x.1 x.2 with
    | .error y => .error y
    | .ok v =>
      let p := t.place x.1 x.2
      let h := ((p.1, p.2 / 32), v) :: h
      if p.2 % 32 ≠ 31 then holdGroup e t src rest h
      else
        let (ps, fl) := putBlock e t p.1 (p.2 / 32) (heldBlock h p.1 (p.2 / 32))
        match holdGroup e t src rest (h.filter (fun y => decide (y.1 ≠ (p.1, p.2 / 32)))) with
        | .error y => .error y
        | .ok (qs, gl, h) => .ok (ps ++ qs, fl ||| gl, h)

/-- Convert into a block tile: elements are read in groups of `n`, each group whole before anything is written, and a block is
written with the group that holds its last element (R317, R321, R324). -/
def holdGroups (w : Who) (e : QEntry) (t : Tile) (n : Nat) (src : ByteMap → Nat → Nat → SrcVal) (s : State) :
    Nat → ByteMap → HeldVals → List (Nat × Nat) → Except Stop (ByteMap × Word)
  | 0, m, _, _ => .ok (m, 0)
  | k + 1, m, h, l =>
    if l.isEmpty then .ok (m, 0)
    else
      match holdGroup e t (src m) (l.take n) h with
      | .error y => .error y
      | .ok (p, fl, h) =>
        match holdGroups w e t n src s k (bmPuts w s m p) h (l.drop n) with
        | .error y => .error y
        | .ok (m, gl) => .ok (m, fl ||| gl)

/-- Convert values into a tile in groups of `n` (R245, R310, R317, R321). -/
def convertTile (w : Who) (e : QEntry) (t : Tile) (n : Nat) (src : ByteMap → Nat → Nat → SrcVal) (s : State) :
    Except Stop (State × Word) :=
  if isBlock t.format then
    match holdGroups w e t n src s (t.rows * t.cols) [] [] (positions t.rows t.cols) with
    | .error x => .error x
    | .ok (m, fl) =>
      match applyRuns w (bmRuns m) s with
      | .error x => .error x
      | .ok u => .ok (u, fl)
  else runTile w s t.rows t.cols n (fun m r c => putNum e t r c (src m r c))

/-- A stored element as a value to convert into format `dst`: decoding a block to FP32 goes by R232, any other destination takes
the exact decoded value (R321). -/
def Raw.src (x : Raw) (code dst : Nat) : NumF × Nat :=
  if x.poison ≠ 0 then ((.nan, 0), x.poison)
  else if isBlock code ∧ dst = 0x01 then (clampF32 (x.value code), 0)
  else ((x.value code, 0), 0)

end Sys2Proof.Machine
end

