-- ==== Sys2Proof/Machine/Dmv.lean ====
section
/-! DEFINITION. The data mover (R324, R325, R326 to R334, R337, R340) and the merge engine (R338, R339, R341 to R343). -/

namespace Sys2Proof.Machine

open Sys2Proof

/-- The source of a move: dense in any format, or compressed (R324, R327). -/
def moveSrcOk (t : Tile) (w : Who) (s : State) : Bool := if t.comp then t.compOk w false s else t.ok w false s

/-- Blocks run the same way in two dense layouts (log 18). -/
def sameRun (a b : Nat) : Bool := decide ((a = 1) = (b = 1))

/-- A move copies bit for bit: equal formats, and blocks that run the same way (R324; log 18). -/
def copyBits (ta tb : Tile) : Bool :=
  decide (ta.format = tb.format) && (! isBlock ta.format || sameRun ta.layout (if tb.comp then 0 else tb.layout))

/-- The bytes from the first to past the last of a dense tile's elements. -/
def Tile.span (t : Tile) : Nat × Nat := (t.base, t.base + (t.lines - 1) * t.stride + t.lineSpan)

/-- Two tiles share bytes. -/
def spansMeet (a b : Nat × Nat) : Bool := decide (a.1 < b.2 ∧ b.1 < a.2)

/-- The old bytes under an element narrower than a byte, which matter to a source that overlaps the destination (R324). -/
def oldBits (w : Who) (m : ByteMap) (meet : Bool) (a n : Nat) (s : State) : Except Stop (List Byte × Nat) :=
  if meet then vread w m a n s
  else .ok ((List.range n).map (fun i => match bmGet m (normAddr w a s + i) with | some (some b) => b | _ => 0), 0)

/-- Write an element bit for bit, NaN as the canonical NaN (R228, R324); poison stays poison, and so does a byte that an earlier
element of it poisoned. -/
def putRaw (w : Who) (m : ByteMap) (meet : Bool) (s : State) (t : Tile) (r c : Nat) (x : Raw) : Except Stop (Puts × Word) :=
  let a := t.elemAddr r c
  let wd := fmtBits t.format
  let n := (a.2 + wd + 7) / 8
  if x.flag ≠ 0 then .ok ([(a.1, List.replicate n none)], 0)
  else
    let v := canonBits t.format x.bits
    let fl := if isNanCode t.format x.bits then Ns.nan else 0
    if wd % 8 = 0 then .ok ([(a.1, putGood (natLe n v))], fl)
    else
      match oldBits w m meet a.1 n s with
      | .error e => .error e
      | .ok (bs, _) =>
        let old := leNat bs
        let v := old % 2 ^ a.2 + v % 2 ^ wd * 2 ^ a.2 + old / 2 ^ (a.2 + wd) * 2 ^ (a.2 + wd)
        let out := ((natLe n v).zipIdx).map (fun b => if bmGet m (normAddr w a.1 s + b.2) = some none then none else some b.1)
        .ok ([(a.1, out)], fl)

/-- The scale of a block, copied bit for bit with the block's last element (log 66). -/
def putScale (t : Tile) (r c : Nat) (x : Raw) : Puts × Word :=
  let p := t.place r c
  if isBlock t.format ∧ p.2 % 32 = 31 then
    ([(t.scaleAddr p.1 (p.2 / 32), [if x.sflag = 0 then some (BitVec.ofNat 8 x.scale) else none])],
      if x.sflag = 0 ∧ x.scale = 0xFF then Ns.nan else 0)
  else ([], 0)

/-- Copy one element, and its block's scale after the last element (R324). -/
def putCopy (w : Who) (m : ByteMap) (meet : Bool) (s : State) (t : Tile) (r c : Nat) (x : Raw) : Except Stop (Puts × Word) :=
  match putRaw w m meet s t r c x with
  | .error e => .error e
  | .ok (p, fl) => .ok (p ++ (putScale t r c x).1, fl ||| (putScale t r c x).2)

/-- Elements one after the other. -/
def gatherRaw (f : Nat → Except Stop Raw) : List Nat → Except Stop (List Raw)
  | [] => .ok []
  | i :: t =>
    match f i with
    | .error e => .error e
    | .ok v => match gatherRaw f t with | .error e => .error e | .ok l => .ok (v :: l)

/-- DMOVE (R324, R333, R334). -/
def dmoveFx (core : Nat) : EngFx :=
  fun r e s =>
    let w := engWhoOf 4 r core e
    let ta := tileOf e.opA
    let tb := tileOf e.opB
    if ! (ta.ok w true s && moveSrcOk tb w s && decide (ta.rows = tb.rows) && decide (ta.cols = tb.cols) &&
        (decide (ta.format = tb.format) || (isNumFmt ta.format && isNumFmt tb.format))) then .fail s St.notPermitted ta.base
    else
      match (if tb.comp then readPanels w [] tb false s tb.panels else .ok []) with
      | .error (.fault st a) => .fail s st a
      | .error (.need l h o) => .need l h o
      | .ok pans =>
        let raw := fun (m : ByteMap) (i j : Nat) => tb.rawAny w m pans s i j
        engOf (
          if ! copyBits ta tb then
            convertTile w e ta 1 (fun m i j =>
              match raw m i j with
              | .error x => .error x
              | .ok v => .ok (v.src tb.format ta.format)) s
          else runTile w s ta.rows ta.cols 1 (fun m i j =>
              match raw m i j with
              | .error x => .error x
              | .ok v => putCopy w m (! tb.comp && spansMeet ta.span tb.span) s ta i j v)) s

/-- DMOVE. -/
def execDmove (core : Nat) (s : State) : Host.Outcome State Fault Refusal := engineRun 4 0x01 core (dmoveFx core) s

/-- DFILL (R325). -/
def dfillFx (core : Nat) : EngFx :=
  fun r e s =>
    let w := engWhoOf 4 r core e
    let t := tileOf e.opA
    let v := e.opC.toNat
    let wd := fmtBits t.format
    if ! t.ok w true s then .fail s St.notPermitted t.base
    else
      let x : Raw := ⟨v % 2 ^ wd, if isBlock t.format then nbits 15 8 v else 0, 0, 0, 0, 0⟩
      engOf (runTile w s t.rows t.cols 1 (fun m i j => putCopy w m false s t i j x)) s

/-- DFILL. -/
def execDfill (core : Nat) (s : State) : Host.Outcome State Fault Refusal := engineRun 4 0x04 core (dfillFx core) s

/-! Compression (R329 to R332). -/

/-- A panel being packed: values so far, its zero bits row by row, scales, flags. -/
structure Packing where
  vals : List Nat := []
  bits : List Bool := []
  scales : List (Nat × Bool) := []
  flags : Word := 0
  deriving DecidableEq, Repr

/-- An encoding counts as non-zero under its scale (R326). -/
def codeNonZero (code b scale : Nat) : Bool := (isBlock code && decide (scale = 0xFF)) || ! isZeroCode code b

/-- Take one element into a packing: the value is stored when it is non-zero. -/
def Packing.add (code : Nat) (p : Packing) (b scale : Nat) (fl : Word) : Packing :=
  let nz := codeNonZero code b scale
  { p with vals := if nz then p.vals ++ [b] else p.vals, bits := p.bits ++ [nz], flags := p.flags ||| fl }

/-- Convert the values of one row chunk (a block, or a single element) and pack them. `addr` gives the byte and bit address of
the i-th element from the values stored so far. -/
def packChunk (e : QEntry) (code : Nat) (copy : Bool) (srcCode : Nat) (addr : Packing → Nat → Nat × Nat) (p : Packing)
    (xs : List Raw) : Packing :=
  if copy then
    let p := if isBlock code then { p with scales := p.scales ++ [((xs.head?.map (fun x => x.scale)).getD 0, true)] } else p
    xs.foldl (fun p x => p.add code (canonBits code x.bits) x.scale
      (if isNanCode code x.bits ∨ (isBlock code ∧ x.scale = 0xFF) then Ns.nan else 0)) p
  else
    let vs := xs.map (fun x => (x.src srcCode code).1)
    let fl := vs.foldl (fun f v => f ||| v.2) 0
    if isBlock code then
      match blockScale code (vs.map Prod.fst) with
      | none =>
        let p := { p with scales := p.scales ++ [(0xFF, true)] }
        vs.foldl (fun p _ => p.add code 0 0xFF (fl ||| Ns.nan)) p
      | some (sc, ex) =>
        let p := { p with scales := p.scales ++ [(sc, true)] }
        (vs.zipIdx).foldl (fun p v =>
          let a := addr p v.2
          let (b, g) := (elemOf code).encode (roundAt e a.1 a.2) ex v.1.1
          p.add code b sc (fl ||| g)) p
    else
      (vs.zipIdx).foldl (fun p v =>
        let a := addr p v.2
        let (b, g) := (elemOf code).encode (roundAt e a.1 a.2) 0 v.1.1
        p.add code b 0 (fl ||| g)) p

/-- The chunks of a row: blocks of 32 for a block format, else single elements. -/
def chunksOf (n : Nat) : Nat → List Raw → List (List Raw)
  | 0, _ => []
  | k + 1, l => if l.isEmpty then [] else l.take n :: chunksOf n k (l.drop n)

/-- The header of a panel (R330). -/
def panelHeader (code rows cols : Nat) (dense : Bool) (z nnz smin smax stored : Nat) : List Byte :=
  natLe 1 (code + (if dense then 64 else 0)) ++ natLe 1 (rows - 1) ++ natLe 1 (cols - 1) ++ [0] ++ natLe 4 z ++
  natLe 2 nnz ++ natLe 1 smin ++ natLe 1 smax ++ natLe 2 stored ++ [0, 0]

/-- The smallest and largest scale byte of blocks that hold a non-zero and are not NaN (R330). -/
def scaleRange (bits : List Bool) (scales : List (Nat × Bool)) : Nat × Nat :=
  let used := ((scales.zipIdx).filter (fun e => e.1.2 && decide (e.1.1 ≠ 0xFF) &&
    ((bits.drop (32 * e.2)).take 32).any id)).map (fun e => e.1.1)
  match used with
  | [] => (0, 0)
  | a :: t => (t.foldl min a, t.foldl max a)

/-- Bits as bytes, first bit lowest. -/
def bitBytes (l : List Bool) : List Byte := packBits 1 (l.map (fun b => if b then 1 else 0))

/-- A list padded to a multiple of 64. -/
def pad64 (l : List (Option Byte)) : List (Option Byte) := l ++ List.replicate ((64 - l.length % 64) % 64) (some 0)

/-- The compressed form of a panel (R329). -/
def compForm (code rows cols z : Nat) (p : Packing) : List (Option Byte) :=
  let wd := fmtBits code
  let vals := pad16 (packBits wd p.vals)
  let bm := (List.range rows).flatMap (fun r => (bitBytes ((p.bits.drop (r * cols)).take cols) ++ zeros 16).take 16)
  let body := zeros 48 ++ bm ++ vals ++ p.scales.map (fun x => BitVec.ofNat 8 x.1)
  let len := (16 + body.length + 63) / 64
  let (lo, hi) := scaleRange p.bits p.scales
  pad64 (putGood (panelHeader code rows cols false z p.vals.length lo hi len ++ body))

/-- A row of the dense form: elements and scales, poison at its places (R331). -/
def denseLine (code : Nat) (els : List (Option Nat)) (scales : List (Option Nat)) : List (Option Byte) :=
  let wd := fmtBits code
  let good := packBits wd (els.map (fun b => b.getD 0))
  let bad := packBits wd (els.map (fun b => match b with | none => 2 ^ wd - 1 | some _ => 0))
  (good.zip bad).map (fun e => if e.2 = 0 then some e.1 else none) ++
  scales.map (fun x => x.map (fun v => BitVec.ofNat 8 v))

/-- One element of the dense form: its bits and its block's scale, each none for poison. -/
abbrev DenseEl := Option Nat × Option Nat

/-- Convert a chunk for the dense form; a chunk with poison is poison where its elements and its scale are, or whole when it is
quantised (log 15). -/
def denseChunk (e : QEntry) (code : Nat) (copy : Bool) (srcCode : Nat) (addr : Nat → Nat × Nat) (xs : List Raw) :
    List DenseEl × Word :=
  if copy then
    (xs.map (fun x => (if x.flag = 0 then some (canonBits code x.bits) else none, if x.sflag = 0 then some x.scale else none)),
      if xs.any (fun x => (decide (x.flag = 0) && isNanCode code x.bits) ||
        (isBlock code && decide (x.sflag = 0 ∧ x.scale = 0xFF))) then Ns.nan else 0)
  else if isBlock code then
    if xs.any (fun x => decide (x.poison ≠ 0)) then (xs.map (fun _ => (none, none)), 0)
    else
      let vs := xs.map (fun x => (x.src srcCode code).1)
      let (sc, bs, fl) := quantise code (fun i => roundAt e (addr i).1 (addr i).2) (vs.map Prod.fst)
      (bs.map (fun b => (some b, some sc)), vs.foldl (fun f v => f ||| v.2) fl)
  else
    (xs.zipIdx).foldl (fun acc x =>
      if x.1.poison ≠ 0 then (acc.1 ++ [(none, some 0)], acc.2)
      else
        let a := addr x.2
        let v := (x.1.src srcCode code).1
        let (b, g) := (elemOf code).encode (roundAt e a.1 a.2) 0 v.1
        (acc.1 ++ [(some b, some 0)], acc.2 ||| v.2 ||| g)) ([], 0)

/-- The scales of a dense row: of each block, none where the scale is poison. -/
def denseScales (code : Nat) : Nat → List DenseEl → List (Option Nat)
  | 0, _ => []
  | k + 1, l =>
    if ! isBlock code ∨ l.isEmpty then []
    else (match l.head? with | some x => x.2 | none => none) :: denseScales code k (l.drop 32)

/-- The dense form of a panel (R331). -/
def denseForm (e : QEntry) (code srcCode : Nat) (copy : Bool) (slot rows cols z : Nat) (src : List (List Raw)) :
    List (Option Byte) × Word :=
  let n := if isBlock code then 32 else 1
  let wd := fmtBits code
  let conv := (src.zipIdx).map (fun row =>
    let base := slot + 64 + row.2 * denseRow code cols
    ((chunksOf n cols row.1).zipIdx).foldl (fun (acc : List DenseEl × Word) ch =>
      let x := denseChunk e code copy srcCode (fun i => let b := (ch.2 * n + i) * wd; (base + b / 8, b % 8)) ch.1
      (acc.1 ++ x.1, acc.2 ||| x.2)) ([], 0))
  let els := conv.flatMap (fun x => x.1)
  let fl := conv.foldl (fun f x => f ||| x.2) 0
  let nz := els.map (fun x => match x.1 with | some b => codeNonZero code b (x.2.getD 0) | none => false)
  let scs := conv.flatMap (fun x => denseScales code cols x.1)
  let (lo, hi) := scaleRange nz (scs.map (fun x => (x.getD 0, x.isSome)))
  let body := conv.flatMap (fun x => denseLine code (x.1.map Prod.fst) (denseScales code cols x.1))
  let len := (64 + body.length + 63) / 64
  (pad64 (putGood (panelHeader code rows cols true z (nz.filter id).length lo hi len ++ zeros 48) ++ body), fl)

/-- The bytes of one panel (R331, R332). -/
def panelBytes (e : QEntry) (code srcCode : Nat) (copy : Bool) (slot rows cols : Nat) (src : List (List Raw)) :
    List (Option Byte) × Word :=
  let z := slotSize rows code
  let wd := fmtBits code
  if src.any (fun row => row.any (fun x => decide (x.poison ≠ 0))) then denseForm e code srcCode copy slot rows cols z src
  else
    let v := slot + 64 + 16 * rows
    let n := if isBlock code then 32 else 1
    let p := src.foldl (fun p row => (chunksOf n cols row).foldl (packChunk e code copy srcCode (fun p _ =>
      let b := p.vals.length * wd; (v + b / 8, b % 8))) p) ({} : Packing)
    let c := compForm code rows cols z p
    if c.length ≤ z then (c, p.flags) else denseForm e code srcCode copy slot rows cols z src

/-- The rows of a panel of a dense tile. -/
def panelRows (t : Tile) (w : Who) (m : ByteMap) (s : State) (p cols : Nat) : List Nat → Except Stop (List (List Raw))
  | [] => .ok []
  | r :: l =>
    match gatherRaw (fun j => t.raw w m s r (128 * p + j)) (List.range cols) with
    | .error e => .error e
    | .ok row => match panelRows t w m s p cols l with | .error e => .error e | .ok x => .ok (row :: x)

/-- DCOMP (R332). -/
def dcompFx (core : Nat) : EngFx :=
  fun r e s =>
    let w := engWhoOf 4 r core e
    let ta := tileOf e.opA
    let tb := tileOf e.opB
    if ! (ta.compOk w true s && tb.ok w false s && decide (ta.rows = tb.rows) && decide (ta.cols = tb.cols) &&
        (decide (ta.format = tb.format) || isNumFmt tb.format)) then .fail s St.notPermitted ta.base
    else
      let copy := decide (ta.format = tb.format) && (! isBlock ta.format || sameRun 0 tb.layout)
      engOf (runTile w s ta.panels 1 1 (fun m p _ =>
        let cols := ta.panelCols p
        let slot := ta.base + p * slotSize ta.rows ta.format
        match panelRows tb w m s p cols (List.range ta.rows) with
        | .error x => .error x
        | .ok src =>
          let (bs, fl) := panelBytes e ta.format tb.format copy slot ta.rows cols src
          .ok ([(slot, bs)], fl))) s

/-- DCOMP. -/
def execDcomp (core : Nat) (s : State) : Host.Outcome State Fault Refusal := engineRun 4 0x02 core (dcompFx core) s

/-- DHIST (R337). -/
def dhistFx (core : Nat) : EngFx :=
  fun r e s =>
    let w := engWhoOf 4 r core e
    let ta := tileOf e.opA
    let tb := tileOf e.opB
    if ! (ta.ok w true s && tb.ok w false s && decide (ta.format = 0x11) && decide (ta.cols = 1) &&
        decide (ta.rows = tb.rows)) then .fail s St.notPermitted ta.base
    else
      engOf (runTile w s ta.rows 1 1 (fun m i _ =>
        match gatherRaw (fun j => tb.raw w m s i j) (List.range tb.cols) with
        | .error x => .error x
        | .ok xs =>
          let a := (ta.elemAddr i 0).1
          if xs.any (fun x => decide (x.poison ≠ 0)) then .ok ([(a, [none, none])], 0)
          else .ok ([(a, putGood (natLe 2 (min 65535 (xs.filter (fun x => x.nonZero tb.format)).length)))], 0))) s

/-- DHIST. -/
def execDhist (core : Nat) (s : State) : Host.Outcome State Fault Refusal := engineRun 4 0x05 core (dhistFx core) s

/-! Index lists (R339, R340). -/

/-- Bytes of an index-list entry. -/
def listEntryBytes (t : Tile) : Nat := if t.format = 0x11 then 2 else 4

/-- Entries a slot can hold. -/
def listCap (t : Tile) : Nat := (t.stride - 4) / listEntryBytes t

/-- An index-list descriptor (R339), or the U32 pair list of R342. -/
def listOk (t : Tile) (w : Who) (wr pair : Bool) (s : State) : Bool :=
  (if pair then decide (t.format = 0x13) else decide (t.format = 0x11 ∨ t.format = 2 ∨ t.format = 3)) &&
  decide (t.layout = 0 ∧ t.soff = 0 ∧ t.base % 16 = 0) && ! t.comp && ! t.rsvd &&
  (List.range t.rows).all (fun r => reachable w wr (t.base + r * t.stride) t.stride s)

/-- DILIST (R340). -/
def dilistFx (core : Nat) : EngFx :=
  fun r e s =>
    let w := engWhoOf 4 r core e
    let ta := tileOf e.opA
    let tb := tileOf e.opB
    if ! (listOk ta w true false s && tb.ok w false s && isNumFmt tb.format && decide (ta.rows = tb.rows) &&
        decide (ta.cols = tb.cols) && decide (ta.cols ≤ listCap ta)) then .fail s St.notPermitted ta.base
    else
      engOf (runTile w s ta.rows 1 1 (fun m i _ =>
        match gatherRaw (fun j => tb.raw w m s i j) (List.range tb.cols) with
        | .error x => .error x
        | .ok xs =>
          let slot := ta.base + i * ta.stride
          if xs.any (fun x => decide (x.poison ≠ 0)) then .ok ([(slot, List.replicate ta.stride none)], 0)
          else
            let step := fun (acc : List (Nat × Nat) × Word) (x : Raw × Nat) =>
              if ta.format = 0x11 then (if x.1.nonZero tb.format then (acc.1 ++ [(x.2, 0)], acc.2) else acc)
              else
                let (b, g) :=
                  if ta.format = tb.format then
                    (canonBits ta.format x.1.bits, if isNanCode ta.format x.1.bits then Ns.nan else 0)
                  else
                    let v := (x.1.src tb.format ta.format).1
                    let (b, g) := (elemOf ta.format).encode (roundAt e (slot + 4 + 4 * acc.1.length + 2) 0) 0 v.1
                    (b, v.2 ||| g)
                (if isZeroCode ta.format b then acc.1 else acc.1 ++ [(x.2, b)], acc.2 ||| g)
            let (ents, fl) := (xs.zipIdx).foldl step ([], 0)
            .ok ([(slot, putGood (natLe 4 ents.length ++ ents.flatMap (fun x =>
              natLe 2 x.1 ++ (if ta.format = 0x11 then [] else natLe 2 x.2))))], fl))) s

/-- DILIST. -/
def execDilist (core : Nat) (s : State) : Host.Outcome State Fault Refusal := engineRun 4 0x03 core (dilistFx core) s

/-! The merge engine. -/

/-- Place a row index by descending count, equal counts by ascending index (R338). -/
def groupInsert (x : Nat × Nat) : List (Nat × Nat) → List (Nat × Nat)
  | [] => [x]
  | y :: t => if y.2 < x.2 then x :: y :: t else y :: groupInsert x t

/-- MGROUP (R338). -/
def mgroupFx (core : Nat) : EngFx :=
  fun r e s =>
    let w := engWho 3 r core
    let ta := tileOf e.opA
    let tb := tileOf e.opB
    if ! (ta.ok w true s && tb.ok w false s && decide (ta.format = 0x11) && decide (tb.format = 0x11) &&
        decide (ta.cols = 1) && decide (tb.cols = 1) && decide (ta.rows = tb.rows)) then .fail s St.notPermitted ta.base
    else
      match gatherRaw (fun i => tb.raw w [] s i 0) (List.range tb.rows) with
      | .error (.fault st a) => .fail s st a
      | .error (.need l h o) => .need l h o
      | .ok xs =>
        match xs.find? (fun x => decide (x.poison ≠ 0)) with
        | some x => .fail s x.poison x.badAddr
        | none =>
          let order := (xs.zipIdx).foldl (fun l x => groupInsert (x.2, x.1.bits) l) []
          engOf (runTile w s ta.rows 1 (ta.rows) (fun _ i _ =>
            .ok ([((ta.elemAddr i 0).1, putGood (natLe 2 ((order.getD i (0, 0)).1)))], 0))) s

/-- MGROUP. -/
def execMgroup (core : Nat) (s : State) : Host.Outcome State Fault Refusal := engineRun 3 0x03 core (mgroupFx core) s

/-- An index-list entry: its index, value bits and address. -/
structure IdxEnt where
  idx : Nat
  val : Nat
  addr : Nat
  deriving DecidableEq, Repr

/-- Read `n` entries from entry `i`, checking that each index is below L and above the one before (R341). -/
def readEnts (w : Who) (t : Tile) (slot : Nat) (s : State) : Nat → Nat → Option Nat → Except Stop (List IdxEnt)
  | 0, _, _ => .ok []
  | n + 1, i, prev =>
    let a := slot + 4 + i * listEntryBytes t
    match rdGood w a (listEntryBytes t) s with
    | .error e => .error e
    | .ok bs =>
      let idx := fieldAt bs 0 2
      if decide (t.cols ≤ idx) || (match prev with | some p => decide (idx ≤ p) | none => false) then .error (.fault St.indexFault a)
      else
        match readEnts w t slot s n (i + 1) (some idx) with
        | .error e => .error e
        | .ok l => .ok (⟨idx, fieldAt bs 2 2, a⟩ :: l)

/-- Read and check one row of an index list (R339, R341). -/
def readList (w : Who) (t : Tile) (r : Nat) (s : State) : Except Stop (List IdxEnt) :=
  let slot := t.base + r * t.stride
  match rdGood w slot 4 s with
  | .error e => .error e
  | .ok bs =>
    let n := nbits 16 0 (leNat bs)
    if listCap t < n then .error (.fault St.indexFault slot) else readEnts w t slot s n 0 none

/-- The matched entries of two rows, with their entry numbers (R342). -/
def matches_ (b c : List IdxEnt) : List ((IdxEnt × Nat) × (IdxEnt × Nat)) :=
  (b.zipIdx).flatMap (fun x => ((c.zipIdx).filter (fun y => decide (y.1.idx = x.1.idx))).map (fun y => (x, y)))

/-- The merged entries of two rows of value format `code`: index, bits, flags (R343). -/
def unionRow (e : QEntry) (code : Nat) (slot : Nat) : Nat → Nat → List IdxEnt → List IdxEnt → List (Nat × Nat × Word)
  | 0, _, _, _ => []
  | _ + 1, _, [], [] => []
  | k + 1, i, b :: bt, [] => (b.idx, canonBits code b.val, if isNanCode code b.val then Ns.nan else 0) ::
      unionRow e code slot k (i + 1) bt []
  | k + 1, i, [], c :: ct => (c.idx, canonBits code c.val, if isNanCode code c.val then Ns.nan else 0) ::
      unionRow e code slot k (i + 1) [] ct
  | k + 1, i, b :: bt, c :: ct =>
    if b.idx < c.idx then
      (b.idx, canonBits code b.val, if isNanCode code b.val then Ns.nan else 0) :: unionRow e code slot k (i + 1) bt (c :: ct)
    else if c.idx < b.idx then
      (c.idx, canonBits code c.val, if isNanCode code c.val then Ns.nan else 0) :: unionRow e code slot k (i + 1) (b :: bt) ct
    else
      let v := numAdd ((elemOf code).decode b.val) ((elemOf code).decode c.val)
      let x := (elemOf code).encode (roundAt e (slot + 4 + 4 * i + 2) 0) 0 v.1
      (b.idx, x.1, v.2 ||| x.2) :: unionRow e code slot k (i + 1) bt ct

/-- The checked rows of B and C, row after row, B's before C's (R341): C has B's rows or one row for all. -/
def mergeRowsOf (w : Who) (tb tc : Tile) (s : State) : List Nat → Except Stop (List (List IdxEnt × List IdxEnt))
  | [] => .ok []
  | r :: l =>
    match readList w tb r s with
    | .error e => .error e
    | .ok b =>
      match readList w tc (if tc.rows = 1 then 0 else r) s with
      | .error e => .error e
      | .ok c => match mergeRowsOf w tb tc s l with | .error e => .error e | .ok x => .ok ((b, c) :: x)

/-- All of them. -/
def mergeRows (w : Who) (tb tc : Tile) (s : State) : Except Stop (List (List IdxEnt × List IdxEnt)) :=
  mergeRowsOf w tb tc s (List.range tb.rows)

/-- The shapes and formats of B and C (R341). -/
def mergeOk (w : Who) (tb tc : Tile) (s : State) : Bool :=
  listOk tb w false false s && listOk tc w false false s && decide (tb.cols = tc.cols) && decide (tb.format = tc.format) &&
  (decide (tc.rows = tb.rows) || decide (tc.rows = 1))

/-- MINTER (R342). -/
def minterFx (core : Nat) : EngFx :=
  fun r e s =>
    let w := engWho 3 r core
    let ta := tileOf e.opA
    let tb := tileOf e.opB
    let tc := tileOf e.opC
    let pairs := decide (ta.format = 0x13)
    let aOk := if pairs then
        listOk ta w true true s && decide (ta.rows = tb.rows) && decide (ta.cols = tb.cols) &&
        decide (min (listCap tb) (listCap tc) ≤ listCap ta)
      else ta.ok w true s && isNumFmt ta.format && ! isBlock ta.format && decide (ta.cols = 1) && decide (ta.rows = tb.rows) &&
        decide (tb.format ≠ 0x11)
    if ! (mergeOk w tb tc s && aOk) then .fail s St.notPermitted ta.base
    else
      match mergeRows w tb tc s with
      | .error (.fault st a) => .fail s st a
      | .error (.need l h o) => .need l h o
      | .ok rows =>
        engOf (runTile w s ta.rows 1 ta.rows (fun _ i _ =>
          let row := rows.getD i ([], [])
          let ms := matches_ row.1 row.2
          if pairs then
            .ok ([(ta.base + i * ta.stride, putGood (natLe 4 ms.length ++ ms.flatMap (fun x =>
              natLe 2 x.1.2 ++ natLe 2 x.2.2)))], 0)
          else
            let el := elemOf tb.format
            let p := ms.foldl (fun (p : AccPoint × Word) x =>
              let y := p.1.mac (el.decode x.1.1.val) (el.decode x.2.1.val)
              (y.1, p.2 ||| y.2)) ({}, 0)
            let v := p.1.value
            putNum e ta i 0 (.ok ((v.1, p.2 ||| v.2 ||| (if p.1.sticky then Ns.span else 0)), 0)))) s

/-- MINTER. -/
def execMinter (core : Nat) (s : State) : Host.Outcome State Fault Refusal := engineRun 3 0x01 core (minterFx core) s

/-- MUNION (R343). -/
def munionFx (core : Nat) : EngFx :=
  fun r e s =>
    let w := engWho 3 r core
    let ta := tileOf e.opA
    let tb := tileOf e.opB
    let tc := tileOf e.opC
    if ! (mergeOk w tb tc s && listOk ta w true false s && decide (ta.format = tb.format) && decide (ta.rows = tb.rows) &&
        decide (ta.cols = tb.cols) && decide (min ta.cols (listCap tb + listCap tc) ≤ listCap ta)) then
      .fail s St.notPermitted ta.base
    else
      match mergeRows w tb tc s with
      | .error (.fault st a) => .fail s st a
      | .error (.need l h o) => .need l h o
      | .ok rows =>
        engOf (runTile w s ta.rows 1 ta.rows (fun _ i _ =>
          let row := rows.getD i ([], [])
          let slot := ta.base + i * ta.stride
          let l := unionRow e ta.format slot (row.1.length + row.2.length) 0 row.1 row.2
          .ok ([(slot, putGood (natLe 4 l.length ++ l.flatMap (fun x =>
            natLe 2 x.1 ++ (if ta.format = 0x11 then [] else natLe 2 x.2.1))))],
            if ta.format = 0x11 then 0 else l.foldl (fun f x => f ||| x.2.2) 0))) s

/-- MUNION. -/
def execMunion (core : Nat) (s : State) : Host.Outcome State Fault Refusal := engineRun 3 0x02 core (munionFx core) s

end Sys2Proof.Machine
end

