-- ==== Sys2Proof/Machine/Resets.lean ====
section
/-! DEFINITION. The event ring's enable and moderation, the belay query, resets of the compute dies, the device, the basecamp and
the functions (R469, R473 to R479, R481, R485), PERST# and FLASH_EXT# (R493). -/

namespace Sys2Proof.Machine

open Sys2Proof

/-! Event ring and belay query. -/

/-- ENABLE of ERR_RING_CFG goes from 0 to 1: the ring written to the registers is in force and starts at 0 (R469). -/
def ringEnable (s : State) : State :=
  if getF F.ERR_RING_CFG_ENABLE [] s = 1 then s
  else
    let log2 := min 16 (max 6 (getF F.ERR_RING_CFG_ENTRIES_LOG2 [] s))
    let s := { s with events := { s.events with base := getF F.ERR_RING_BASE_ADDR [] s * 4096, log2 := log2 } }
    setF F.ERR_RING_CFG_ENABLE [] 1 (setF F.ERR_RING_HEAD_HEAD [] 0 (setF F.ERR_RING_TAIL_TAIL [] 0 s))

/-- EVENT_RING_ENABLE (R469). -/
def execEventRingEnable (fn : Requester) (s : State) : Host.Outcome State Fault Refusal :=
  runIf (fnAllowed fn (regOff .ERR_RING_CFG []) s) ringEnable s

/-- The moderation period ends: the vector is raised again if records qualified during it, and a new period begins (R473). -/
def moderationEnd (s : State) : State :=
  if ! s.events.moderating then s
  else if s.events.again then
    let s := raiseVector 16 (getF F.ERR_RING_CFG_VECTOR [] s) s
    { s with events := { s.events with again := false, moderating := decide (getF F.ERR_RING_CFG_MODERATION_US [] s ≠ 0) } }
  else { s with events := { s.events with moderating := false } }

/-- MODERATION_EXPIRE (R473). -/
def execModerationExpire (s : State) : Host.Outcome State Fault Refusal := runIf true moderationEnd s

/-- A write of ERR_BELAY_QUERY latches the value and the signal count of the belay it names (R481). -/
def belayQuery (i : Nat) (s : State) : State :=
  setR .ERR_BELAY_SIGNALS [] (devSince i s) (setR .ERR_BELAY_VALUE [] (devBelay i s) (setF F.ERR_BELAY_QUERY_INDEX [] i s))

/-- BELAY_QUERY (R481). -/
def execBelayQuery (fn : Requester) (idx : BitVec 12) (s : State) : Host.Outcome State Fault Refusal :=
  runIf (fnAllowed fn (regOff .ERR_BELAY_QUERY []) s) (belayQuery idx.toNat) s

/-! Compute reset (R477). -/

/-- The RTE and the XE of a die hold nothing. -/
def emptyDie (d : Nat) (s : State) : State :=
  let s := { s with
    rtes := tmod {} s.rtes d (fun e => { e with queue := [] }),
    xes := tmod {} s.xes d (fun e => { e with queue := [], active := [], early := [] }) }
  noteXe d (setF F.RTE_STATUS_QUEUED [d] 0 (setF F.XE_STATUS_QUEUED [d] 0 s))

/-- A die of the set. -/
def dieIn (dies : BitVec 8) (d : Nat) : Bool := decide (d < 8) && dies.getLsbD d

/-- A compute reset of a die set: R402 for every rope with a cluster there, the engines emptied, what they injected and has not started
discarded (R191), the other clusters gated. -/
def computeReset (trigger : Nat) (dies : BitVec 8) (s : State) : State :=
  let hit := (existing s).filter (fun r => (ropeDies r s).any (fun d => dieIn dies d))
  let s := forList hit s (fun r s => resetRopeWith false r s)
  let s := forList ((List.range 8).filter (fun d => dieIn dies d)) s (fun d s => dropInjected (16 + d) true (fun _ => true) (emptyDie d s))
  let s := forList ((List.range 64).filter (fun q => dieIn dies (q / 8) && (ropeOfCluster q s).isNone)) s (fun q s => gateCluster q s)
  resetRecord 2 trigger none s

/-- COMPUTE_RESET (R477). -/
def execComputeReset (fn : Requester) (dies : BitVec 8) (s : State) : Host.Outcome State Fault Refusal :=
  runIf (fnAllowed fn (regOff .ERR_RESET []) s) (computeReset 0x04 dies) s

/-- VUOLA_COMPUTE_RESET (R475). -/
def execVuolaComputeReset (dies : BitVec 8) (s : State) : Host.Outcome State Fault Refusal :=
  runIf (decide (Dv.idle ≤ deviceState s) && decide (s.bc.stage = 3)) (computeReset 0x05 dies) s

/-! Device reset (R478). -/

/-- Management sessions close (R463). -/
def closeSessions (s : State) : State :=
  setF F.BC_MGMT_OPEN [] 0 { s with bc := { s.bc with sessions := [], handshake := [] } }

/-- An activated slot that passes its checks takes effect (R459). -/
def takeActivated (s : State) : State :=
  let s := if getF F.BC_BOOT_CFG_SLOT [] s ≠ (if s.bc.prefCfg then 1 else 0) ∧ checkCfg s.bc.prefCfg s = St.ok then useCfg s.bc.prefCfg s else s
  if getF F.BC_BOOT_IMG_SLOT [] s ≠ (if s.bc.prefImg then 1 else 0) ∧ checkSlot 1 s.bc.prefImg s = St.ok then useImage s.bc.prefImg s else s

/-- Steps 1 and 2 as far as the record: save areas in use become undefined (R401), windows closed, DOWN_NOTICE, the DEVICE record and
the count of resets. -/
def resetBegin (kind trigger : Nat) (s : State) : State :=
  let s := forList (existing s) s (fun r s => voidSave r s)
  addF F.ERR_RESET_STATUS_DEVICE_RESETS [] 1 (resetRecord kind trigger none (stopPorts 1 s))

/-- A device reset, steps 1 to 5: a device that was IDLE or more is IDLE again, its ports and DDR5 in training. -/
def deviceReset (trigger : Nat) (s : State) : State :=
  let up := decide (Dv.idle ≤ deviceState s)
  let s := closeSessions (resetDomains true (resetBegin 3 trigger s))
  let s := { s with pcie := { s.pcie with msix := [] } }
  if up then trainPorts (ddrStart (raiseCounters (takeActivated (setDeviceState Dv.idle s)))) else s

/-- DEVICE_RESET (R478). -/
def execDeviceReset (fn : Requester) (s : State) : Host.Outcome State Fault Refusal :=
  runIf (fnAllowed fn (regOff .ERR_RESET []) s) (deviceReset 0x06) s

/-- The SR-IOV capability returns to its reset value: no virtual function is enabled. -/
def noVfs (s : State) : State := { s with pcie := { s.pcie with numVfs := 0 } }

/-- PF_FUNCTION_LEVEL_RESET (R475). -/
def execPfFunctionLevelReset (s : State) : Host.Outcome State Fault Refusal :=
  runIf (decide (Dv.standby ≤ deviceState s)) (fun s => noVfs (deviceReset 0x07 s)) s

/-- PCIE_HOT_RESET (R475). -/
def execPcieHotReset (s : State) : Host.Outcome State Fault Refusal :=
  runIf (decide (Dv.standby ≤ deviceState s)) (fun s => noVfs (deviceReset 0x08 s)) s

/-- PERST# goes active: a device reset, and the PCIe controller is reset as well (R493). -/
def perstOn (s : State) : State :=
  let s := { s with pins := { s.pins with perst := true } }
  if deviceState s < Dv.standby then s else linkDown (noVfs (deviceReset 0x09 s))

/-- PERST_ASSERT (R493). -/
def execPerstAssert (s : State) : Host.Outcome State Fault Refusal := runIf (! s.pins.perst) perstOn s

/-- PERST_DEASSERT (R493, R483): the link retrains to a generation and width both ends support, once the boot ROM has run. -/
def execPerstDeassert (gen width : Nat) (s : State) : Host.Outcome State Fault Refusal :=
  runIf (s.pins.perst && decide (3 ≤ gen ∧ gen ≤ 6) && decide (width ∈ [1, 4, 8, 16])) (fun s =>
    let s := { s with pins := { s.pins with perst := false } }
    if s.bc.stage < 2 then s else linkUp gen width s) s

/-! Basecamp reset (R479). -/

/-- What a basecamp reset keeps of the registers (R474). -/
def keptByBasecamp (old s : State) : State :=
  let ledger := fun (off : Nat) => decide (0x400000 ≤ off ∧ off < 0x480000) && keptReg off
  let s := { s with regs := tfilter ledger old.regs, latch := tfilter (fun k => ledger (k % 2 ^ 26)) old.latch }
  let s := forN 5 s (fun c s => setR .ERR_CLASS_COUNT [c] (getR .ERR_CLASS_COUNT [c] old) s)
  setF F.BC_THERMAL_TRIPS [] (getF F.BC_THERMAL_TRIPS [] old)
    (setF F.ERR_RESET_STATUS_DEVICE_RESETS [] (getF F.ERR_RESET_STATUS_DEVICE_RESETS [] old) s)

/-- A basecamp reset: steps 1 and 2 of a device reset, then the basecamp; it boots again from the boot ROM step. -/
def basecampReset (trigger : Nat) (s : State) : State :=
  let s := cancelRecords (resetBegin 4 trigger s)
  setF F.ERR_RESET_STATUS_LAST_KIND [] 4 (setF F.ERR_RESET_STATUS_LAST_TRIGGER [] trigger (keptByBasecamp s (freshDevice 1 s)))

/-- BASECAMP_RESET (R479). -/
def execBasecampReset (fn : Requester) (s : State) : Host.Outcome State Fault Refusal :=
  runIf (fnAllowed fn (regOff .ERR_RESET []) s) (basecampReset 0x0B) s

/-- WATCHDOG_EXPIRE (R475): a device reset; a second expiry within 60 s is a basecamp reset. -/
def execWatchdogExpire (second : Bool) (s : State) : Host.Outcome State Fault Refusal :=
  runIf (decide (s.bc.stage = 3)) (if second then basecampReset 0x0C else deviceReset 0x0A) s

/-! Virtual functions (R475, R485). -/

/-- A function-level reset of virtual function `v`: its rope is reset, its queues disabled, its own state as at reset. -/
def vfReset (trigger v : Nat) (s : State) : State :=
  let s := match vfRope v s with
    | some r => resetRecord 1 trigger (some r) (resetRope r s)
    | none => s
  let s := forList ((List.range 64).filter (fun q => decide (getF F.CMD_Q_CFG_ENABLE [q] s = 1 ∧ getF F.CMD_Q_CFG_OWNER [q] s = v))) s
    (fun q s => queueDisable q s)
  { s with fns := tset {} s.fns v {}, pcie := { s.pcie with msix := tfilter (fun k => decide (k / 256 ≠ v)) s.pcie.msix } }

/-- VF_FUNCTION_LEVEL_RESET (R475). -/
def execVfFunctionLevelReset (vf : Nat) (s : State) : Host.Outcome State Fault Refusal :=
  runIf (decide (vf < s.pcie.numVfs)) (vfReset 0x02 vf) s

/-- NumVFs is lowered: each function that goes is reset first (R485). -/
def lowerVfs (n : Nat) (s : State) : State :=
  let s := forList ((List.range 16).filter (fun v => decide (n ≤ v ∧ v < s.pcie.numVfs))) s (fun v s => vfReset 0x03 v s)
  { s with pcie := { s.pcie with numVfs := n } }

/-- NUMVFS_LOWER (R485). -/
def execNumvfsLower (n : Nat) (s : State) : Host.Outcome State Fault Refusal :=
  runIf (decide (n < s.pcie.numVfs)) (lowerVfs n) s

/-- NUMVFS_RAISE (R485). -/
def execNumvfsRaise (n : Nat) (s : State) : Host.Outcome State Fault Refusal :=
  runIf (decide (s.pcie.numVfs < n ∧ n ≤ 16)) (fun s => { s with pcie := { s.pcie with numVfs := n } }) s

/-! FLASH_EXT# (R493). -/

/-- FLASH_EXT_ASSERT (R493): honoured in STANDBY only; elsewhere it takes effect on the next entry into STANDBY. -/
def execFlashExtAssert (s : State) : Host.Outcome State Fault Refusal :=
  runIf true (fun s => flashCheck { s with pins := { s.pins with flashExt := true } }) s

/-- FLASH_EXT_DEASSERT (R493): a basecamp reset where it was honoured. -/
def execFlashExtDeassert (s : State) : Host.Outcome State Fault Refusal :=
  runIf true (fun s =>
    let s := { s with pins := { s.pins with flashExt := false } }
    if s.pins.flashOut then basecampReset 0x00 s else s) s

end Sys2Proof.Machine
end

