-- ==== Sys2Proof/Machine/HostIf.lean ====
section
/-! DEFINITION. The aperture onto local memory (R480, R486, R488, R489). A posted write takes effect when its command runs, so the
order of R489 is that of the commands. -/

namespace Sys2Proof.Machine

open Sys2Proof

/-- log₂ of the aperture size A. -/
def apertureLog2 (s : State) : Nat := getF F.BC_BAR4_WINDOW_APERTURE_LOG2 [] s

/-- The LMA that an offset reaches: WINDOW × A + x, with the bits of WINDOW that count (R488). -/
def bar4Lma (off : Nat) (s : State) : Nat :=
  getF F.BC_BAR4_WINDOW_WINDOW [] s % 2 ^ (44 - apertureLog2 s) * 2 ^ apertureLog2 s + off

/-- An access lies in the aperture. -/
def inAperture (off n : Nat) (s : State) : Bool := decide (off + n ≤ 2 ^ apertureLog2 s)

/-- Local memory answers an access: DDR5 is ready, and the access reaches neither the system region nor an LMA beyond PAGES. -/
def bar4Reaches (off n : Nat) (s : State) : Bool :=
  let a := bar4Lma off s
  s.bc.ddrReady && decide (a + n ≤ getF F.MEM_SYSTEM_SYS_PAGE [] s * 2 ^ 21) && decide (a + n ≤ getF F.MEM_SYSTEM_PAGES [] s * 2 ^ 21)

/-- The Read Completion Boundary. -/
def rcb : Nat := if Config.rcb128 then 128 else 64

/-- The completions of a read: each ends at a Read Completion Boundary; one that covers poison has EP and all ones (R480). -/
def completions : Nat → Nat → Nat → State → List (List Byte × Bool)
  | 0, _, _, _ => []
  | fuel + 1, a, n, s =>
    if n = 0 then []
    else
      let k := min n (rcb - a % rcb)
      (if s.mem.anyPoison a k then (List.replicate k 0xFF, true) else (s.mem.bytes a k, false)) :: completions fuel (a + k) (n - k) s

/-- The completions of a read that gives zeros. -/
def zeroCompletions : Nat → Nat → Nat → List (List Byte × Bool)
  | 0, _, _ => []
  | fuel + 1, a, n =>
    if n = 0 then []
    else
      let k := min n (rcb - a % rcb)
      (zeros k, false) :: zeroCompletions fuel (a + k) (n - k)

/-- A host read through BAR4. -/
def bar4Read (off n : Nat) (s : State) : State :=
  if bar4Reaches off n s then
    let s := findErrors (bar4Lma off s) n s
    emit (.bar4Data (completions (n + 1) (bar4Lma off s) n s)) (wakeActive s)
  else emit (.bar4Data (zeroCompletions (n + 1) off n)) s

/-- BAR4_READ (R480, R488). -/
def execBar4Read (off len : Nat) (s : State) : Host.Outcome State Fault Refusal :=
  runIf (decide (Dv.standby ≤ deviceState s) && inAperture off len s) (bar4Read off len) s

/-- A host write through BAR4: data, or poison over the words it touches when EP is set. -/
def bar4Write (off : Nat) (bs : List Byte) (ep : Bool) (s : State) : State :=
  if bar4Reaches off bs.length s then
    let a := bar4Lma off s
    let s := findEdges a bs.length (wakeActive s)
    { s with mem := if ep then Mem.poisonRange (bs.length + 1) s.mem a bs.length else s.mem.write a bs }
  else s

/-- BAR4_WRITE (R480, R488). -/
def execBar4Write (off : Nat) (data : List (BitVec 8)) (ep : Bool) (s : State) : Host.Outcome State Fault Refusal :=
  runIf (decide (Dv.standby ≤ deviceState s) && inAperture off data.length s) (bar4Write off data ep) s

/-- BAR4_RESIZE (R486): a Resizable BAR write sets the size, 16 GiB to 8 TiB. -/
def execBar4Resize (log2 : Nat) (s : State) : Host.Outcome State Fault Refusal :=
  runIf (decide (34 ≤ log2 ∧ log2 ≤ 43)) (setF F.BC_BAR4_WINDOW_APERTURE_LOG2 [] log2) s

end Sys2Proof.Machine
end

