-- ==== Sys2Proof/Machine/RegAccess.lean ====
section
/-! DEFINITION. Register accesses through BAR0 (R7 to R10, R487, R490, R499). A write goes to the fields its half covers; a field
that has a row of its own acts as that row does. -/

namespace Sys2Proof.Machine

open Sys2Proof

/-! The shape of an access (R7). -/

/-- The bits an access covers and its data in their places: an aligned access of 8 bytes, or of 4 to either half. -/
def placedWrite (off size : Nat) (data : Word) : Option (Word × Word) :=
  if size = 8 ∧ off % 8 = 0 then some (wordMax, data)
  else if size = 4 ∧ off % 8 = 0 then some (0xFFFFFFFF, data &&& 0xFFFFFFFF)
  else if size = 4 ∧ off % 8 = 4 then some (0xFFFFFFFF00000000, data <<< 32)
  else none

/-- The bits [hi:lo]. -/
def spanMask (hi lo : Nat) : Word := BitVec.ofNat 64 ((2 ^ (hi + 1 - lo) - 1) * 2 ^ lo)

/-- The bits of a register whose fields satisfy a test. -/
def typeMask (r : Reg) (p : FieldType → Bool) : Word :=
  (regDesc r).fields.foldl (fun m f => if p f.ty then m ||| spanMask f.hi f.lo else m) 0

/-- RW fields take what is written, W1C bits written 1 clear, everything else stays (R9, R10). -/
def plainWrite (r : Reg) (ix : List Nat) (m d : Word) (s : State) : State :=
  let rw := m &&& typeMask r (fun t => decide (t = .rw))
  let w1c := m &&& d &&& typeMask r (fun t => decide (t = .w1c))
  setR r ix (mix (getR r ix s) rw d &&& ~~~w1c) s

/-- A bit is written 1. -/
def wrote1 (m d : Word) (b : Nat) : Bool := m.getLsbD b && d.getLsbD b

/-- A bit is written 0. -/
def wrote0 (m d : Word) (b : Nat) : Bool := m.getLsbD b && ! d.getLsbD b

/-- A write covers some of the bits [hi:lo]. -/
def covers (m : Word) (hi lo : Nat) : Bool := decide (m &&& spanMask hi lo ≠ 0)

/-! Registers whose writes act. -/

/-- LNK_CTRL: RATES and WIDTH_MIN, then ENABLE, then RETRAIN (R104, R108, R134). -/
def writeLinkCtrl (n : Nat) (m d : Word) (s : State) : State :=
  let s := plainWrite .LNK_CTRL [n] (m &&& ~~~(spanMask 0 0)) d s
  let s := doIf (wrote0 m d 0) (portDisableStep n) (doIf (wrote1 m d 0) (portEnableStep n) s)
  doIf (wrote1 m d 1) (plannedRetrainStep n) s

/-- SW_E2E_QUERY: ADDR, then CLEAR for it (R171). -/
def writeE2eQuery (m d : Word) (s : State) : State :=
  doIf (wrote1 m d 25) (fun s => { s with msgs := { s.msgs with unreach := tset false s.msgs.unreach (getF F.SW_E2E_QUERY_ADDR [] s) false } })
    (plainWrite .SW_E2E_QUERY [] m d s)

/-- COL_CHAN_CTRL: WATCHDOG_US, then OWNER and OWNED, then ABORT (R213, R221). -/
def writeChanCtrl (c : Nat) (m d : Word) (s : State) : State :=
  let owned := decide (getF F.COL_CHAN_CTRL_OWNED [c] s = 1)
  let t := plainWrite .COL_CHAN_CTRL [c] m d s
  let t := doIf (wrote1 m d 4 && ! owned) (ownChannel c (getF F.COL_CHAN_CTRL_OWNER [c] t)) t
  doIf (wrote1 m d 5) (cancelColl c) t

/-- MEM_LEND_CTRL: JOB, BORROWER and WRITE, then ENABLE (R367). -/
def writeLendCtrl (w : Nat) (m d : Word) (s : State) : State :=
  let was := decide (getF F.MEM_LEND_CTRL_ENABLE [w] s = 1)
  let s := plainWrite .MEM_LEND_CTRL [w] (m &&& ~~~(spanMask 0 0)) d s
  doIf (wrote0 m d 0) (setF F.MEM_LEND_CTRL_ENABLE [w] 0) (doIf (wrote1 m d 0 && ! was) (lendOpen w) s)

/-- BPM_POOL_CFG: the configuration while ENABLE is 0, then RECLAIM or ENABLE (R373, R374, R380). -/
def writePoolCfg (p : Nat) (m d : Word) (s : State) : State :=
  let s := doIf (! poolEnabled p s) (plainWrite .BPM_POOL_CFG [p] (m &&& ~~~(spanMask 63 63)) d) s
  if wrote1 m d 62 then poolStop p true s
  else doIf (wrote0 m d 63) (poolStop p false) (doIf (wrote1 m d 63) (poolEnableNow p) s)

/-- BPM_REQ: the low half alone holds its HANDLE for the function; a write of the high half starts the request (R379). -/
def writeBpmReq (f : Requester) (m d : Word) (s : State) : State :=
  let i := fnIdx f
  let low := d.setWidth 32
  if ! covers m 63 62 then { s with fns := tmod {} s.fns i (fun k => { k with bpmHeld := low }) }
  else if bits 63 62 d = 0 then s
  else
    let h := if covers m 31 0 then low else (tget {} s.fns i).bpmHeld
    startRequest (.fn f) (bits 63 62 d) (bits 39 32 d) h s

/-- CMD_Q_CFG: OWNER and VECTOR, SEQ_START while ENABLE is 0, then ENABLE (R385). -/
def writeQueueCfg (q : Nat) (m d : Word) (s : State) : State :=
  let keep := spanMask 63 63 ||| (if getF F.CMD_Q_CFG_ENABLE [q] s = 1 then spanMask 31 0 else 0)
  let s := plainWrite .CMD_Q_CFG [q] (m &&& ~~~keep) d s
  doIf (wrote0 m d 63) (queueDisable q) (doIf (wrote1 m d 63) (queueEnable q) s)

/-- AUD_LS_CTRL: EVERY, then ENABLE, then RELEASE (R424, R430). -/
def writeLsCtrl (r : Nat) (m d : Word) (s : State) : State :=
  let s := plainWrite .AUD_LS_CTRL [r] (m &&& ~~~(spanMask 63 63)) d s
  let s := doIf (wrote0 m d 63) (lsDisarm r) (doIf (wrote1 m d 63) (lsArm r) s)
  doIf (wrote1 m d 62) (lsRelease r) s

/-- BC_CTRL: HOLD, then STANDBY, then REMOVE (R434, R446, R447). -/
def writeBcCtrl (m d : Word) (s : State) : State :=
  let s := doIf (wrote1 m d 1) (setF F.BC_CTRL_HOLD [] 1) s
  let s := doIf (wrote0 m d 1) (fun s => bootedIdle (setF F.BC_CTRL_HOLD [] 0 s)) s
  let s := doIf (wrote0 m d 0) standbyExit (doIf (wrote1 m d 0) standbyEnter s)
  doIf (wrote1 m d 2) startRemoval s

/-- BC_TIME_CTRL: a write of ENABLE 1 makes the rule of the first Sync apply again (R467). -/
def writeTimeCtrl (m d : Word) (s : State) : State :=
  let s := plainWrite .BC_TIME_CTRL [] m d s
  doIf (wrote1 m d 63) (fun s => { s with bc := { s.bc with timeArmed := true } }) s

/-- ERR_RING_CFG: ENTRIES_LOG2 while ENABLE is 0, the rest, then ENABLE (R469). -/
def writeRingCfg (m d : Word) (s : State) : State :=
  let keep := spanMask 63 63 ||| (if getF F.ERR_RING_CFG_ENABLE [] s = 1 then spanMask 4 0 else 0)
  let s := plainWrite .ERR_RING_CFG [] (m &&& ~~~keep) d s
  doIf (wrote0 m d 63) (setF F.ERR_RING_CFG_ENABLE [] 0) (doIf (wrote1 m d 63) ringEnable s)

/-- ERR_RING_TAIL: a value beyond HEAD is taken as HEAD (R472). -/
def writeRingTail (m d : Word) (s : State) : State :=
  let s := plainWrite .ERR_RING_TAIL [] m d s
  let head := getF F.ERR_RING_HEAD_HEAD [] s
  if (head + 2 ^ 32 - getF F.ERR_RING_TAIL_TAIL [] s) % 2 ^ 32 < 2 ^ 31 then s else setF F.ERR_RING_TAIL_TAIL [] head s

/-- ERR_RESET: of several resets asked for at once the greatest takes place (R475, R479). -/
def writeReset (m d : Word) (s : State) : State :=
  if wrote1 m d 18 then basecampReset 0x0B s
  else if wrote1 m d 17 then deviceReset 0x06 s
  else doIf (wrote1 m d 16) (computeReset 0x04 (d.setWidth 8)) s

/-- BC_BAR4_WINDOW: bits of WINDOW above 43 − APERTURE_LOG2 are ignored (R488). -/
def writeBar4Window (m d : Word) (s : State) : State :=
  plainWrite .BC_BAR4_WINDOW [] (m &&& spanMask (43 - apertureLog2 s) 0) d s

/-- A write of a register by a function: the mask of the bits covered, and the data in their places. -/
def writeReg (f : Requester) (r : Reg) (ix : List Nat) (m d : Word) (s : State) : State :=
  match r, ix with
  | .LNK_CTRL, [n] => writeLinkCtrl n m d s
  | .SW_GEOMETRY, _ => writeGeometry (mix (getR .SW_GEOMETRY [] s) m d) s
  | .SW_PATH_EPOCH, _ => doIf (wrote1 m d 16) bumpEpoch s
  | .SW_E2E_QUERY, _ => writeE2eQuery m d s
  | .SW_CTRL, _ => noteService (plainWrite .SW_CTRL [] m d s)
  | .SW_FWD_MODE, [p] => doIf (decide (p < 16)) (plainWrite .SW_FWD_MODE [p] m d) s
  | .SW_OUTBUF, [p] => doIf (wrote1 m d 63) (fun s => setF F.SW_OUTBUF_PEAK [p] (getF F.SW_OUTBUF_USED [p] s) s) s
  | .COL_CHAN_CTRL, [c] => writeChanCtrl c m d s
  | .MEM_PAGE_CMD, _ => writePageCmd (mix (getR .MEM_PAGE_CMD [] s) m d) s
  | .MEM_PF_CTRL, [r] => doIf (covers m 47 0) (writeSched r (bits 47 0 (mix (getR .MEM_PF_CTRL [r] s) m d))) s
  | .MEM_LEND_CTRL, [w] => writeLendCtrl w m d s
  | .BPM_POOL_CFG, [p] => writePoolCfg p m d s
  | .BPM_POOL_BASE, [p] => doIf (! poolEnabled p s) (plainWrite .BPM_POOL_BASE [p] m d) s
  | .BPM_POOL_RING, [p] => doIf (! poolEnabled p s) (plainWrite .BPM_POOL_RING [p] m d) s
  | .BPM_REQ, _ => writeBpmReq f m d s
  | .CMD_Q_CFG, [q] => writeQueueCfg q m d s
  | .AUD_SEAL_REQ, _ => sealRequest f d s
  | .AUD_LS_CTRL, [r] => writeLsCtrl r m d s
  | .AUD_LS_INBOX, [r, i] => inboxWrite r i m d s
  | .BC_CTRL, _ => writeBcCtrl m d s
  | .BC_QUOTE_REQ, _ => quoteRequest f d s
  | .BC_TIME_CTRL, _ => writeTimeCtrl m d s
  | .ERR_RING_BASE, _ => doIf (decide (getF F.ERR_RING_CFG_ENABLE [] s = 0)) (plainWrite .ERR_RING_BASE [] m d) s
  | .ERR_RING_CFG, _ => writeRingCfg m d s
  | .ERR_RING_TAIL, _ => writeRingTail m d s
  | .ERR_RESET, _ => writeReset m d s
  | .ERR_BELAY_QUERY, _ => belayQuery (bits 11 0 (mix (getR .ERR_BELAY_QUERY [] s) m d)) s
  | .BC_BAR4_WINDOW, _ => writeBar4Window m d s
  | r, ix => plainWrite r ix m d s

/-! MSI-X tables (R486, R490). -/

/-- The word of a function's MSI-X structures at a BAR0 offset: the table's 128 words, then the pending bits (word 128). -/
def msixSlot (off : Nat) : Option Nat :=
  if 0xC00000 ≤ off ∧ off < 0xC00400 then some ((off - 0xC00000) / 8) else if off / 8 = 0xC01000 / 8 then some 128 else none

/-- A write of an MSI-X table word; an entry unmasked with its pending bit set sends its message (log 9). -/
def writeMsix (f : Requester) (k : Nat) (m d : Word) (s : State) : State :=
  if 128 ≤ k then s
  else
    let i := fnIdx f
    let keep : Word := if k % 2 = 1 then 0x1FFFFFFFF else 0xFFFFFFFFFFFFFFFC
    let s := setMsixWord i k (mix (msixWord i k s) m d &&& keep) s
    let v := k / 2
    if k % 2 = 1 ∧ (msixWord i 128 s).getLsbD v ∧ ! (msixWord i k s).getLsbD 32 then
      emit (.msix i v) (setMsixWord i 128 (msixWord i 128 s &&& ~~~(BitVec.ofNat 64 (2 ^ v))) s)
    else s

/-- A write of a BAR0 offset: of a register, of an MSI-X table, or of nothing (R8). -/
def writeBar0 (f : Requester) (off size : Nat) (data : Word) (s : State) : State :=
  match placedWrite off size data with
  | none => s
  | some (m, d) =>
    match msixSlot off with
    | some k => writeMsix f k m d s
    | none =>
      match findReg (off / 8 * 8) with
      | some (r, ix) => writeReg f r ix m d s
      | none => s

/-- REGISTER_WRITE (R9). -/
def execRegisterWrite (fn : Requester) (off size : Nat) (data : BitVec 64) (s : State) : Host.Outcome State Fault Refusal :=
  runIf (fnAllowed fn off s) (writeBar0 fn off size data) s

/-! Reads (R7, R9, R499). -/

/-- What a function may read: the physical function everything; a virtual function identity, the registers that act for it, its
MSI-X table and pending bits (R487); the manager the blocks of R464. -/
def mayRead (f : Requester) (off : Nat) : Bool :=
  match f with
  | .pf => true
  | .vf _ => decide (off < 0x100000) || decide (off / 16 = 0x901000 / 16) || decide (off / 16 = 0xA00000 / 16) ||
      decide (0x101008 ≤ off ∧ off < 0x101018) || decide (0xC00000 ≤ off ∧ off < 0xC01008)
  | .manager => decide (off < 0x200000) || decide (0x600000 ≤ off ∧ off < 0x800000) || decide (0xB00000 ≤ off ∧ off < 0xC00000)

/-- The sets of R499: a latching register with the other registers of its set. -/
def latchedSet (r : Reg) (ix : List Nat) : List Nat :=
  match r with
  | .XE_LEDGER_DISPATCHED =>
    [regOff .XE_LEDGER_COMBINED ix, regOff .XE_LEDGER_DECLINED ix, regOff .XE_LEDGER_CANCELLED ix, regOff .XE_LEDGER_INFLIGHT ix]
  | .LNK_VC_STATE => [regOff .LNK_VC_USED ix, regOff .LNK_VC_RETURNED ix, regOff .LNK_VC_FREED ix]
  | .SW_MSG_STARTED => [regOff .SW_MSG_ACKED [], regOff .SW_MSG_FAILED [], regOff .SW_MSG_OUTSTANDING []]
  | .BPM_POOL_STATE => [regOff .BPM_POOL_ALLOCS ix, regOff .BPM_POOL_FREES ix, regOff .BPM_POOL_LOST ix]
  | _ => []

/-- A register whose reads give captured values. -/
def latchedMember (r : Reg) : Bool :=
  match r with
  | .XE_LEDGER_COMBINED | .XE_LEDGER_DECLINED | .XE_LEDGER_CANCELLED | .XE_LEDGER_INFLIGHT | .LNK_VC_USED | .LNK_VC_RETURNED
  | .LNK_VC_FREED | .SW_MSG_ACKED | .SW_MSG_FAILED | .SW_MSG_OUTSTANDING | .BPM_POOL_ALLOCS | .BPM_POOL_FREES | .BPM_POOL_LOST => true
  | _ => false

/-- What a function has captured of a register. -/
def captured (f : Requester) (off : Nat) (s : State) : Word := tget 0 s.latch (latchKey (fnIdx f) off)

/-- Capture a register for a function. -/
def captureReg (f : Requester) (off : Nat) (v : Word) (s : State) : State :=
  { s with latch := tset 0 s.latch (latchKey (fnIdx f) off) v }

/-- The value of a register by its offset. -/
def offValue (off : Nat) (s : State) : Word :=
  match findReg off with | some (r, ix) => getR r ix s | none => 0

/-- A function's last request has not completed: it waits for a refill or for lent memory. -/
def requestOpen (f : Requester) (s : State) : Bool :=
  (tget ({} : Fn) s.fns (fnIdx f)).bpmReq.isSome || (List.range 64).any (fun p => (poolOf p s).waiting.contains (.fn f))

/-- The refills a function's waiting allocation needs (`fuel` at most). -/
def settleAlloc (f : Requester) : Nat → State → State
  | 0, s => s
  | fuel + 1, s =>
    match (List.range 64).find? (fun p => (poolOf p s).waiting.contains (.fn f)) with
    | some p => settleAlloc f fuel (refillDone p s)
    | none => s

/-- A function's last request completes, if nothing lent has to be asked for first, before BPM_RESULT is read (R379). -/
def settleRequest (f : Requester) (s : State) : State :=
  let s := match (tget ({} : Fn) s.fns (fnIdx f)).bpmReq with
    | some (op, owner, h) => bpmRequest (.fn f) op owner h s
    | none => s
  match (List.range 64).find? (fun p => (poolOf p s).waiting.contains (.fn f)) with
  | some p => settleAlloc f ((poolOf p s).ringLen + 1) s
  | none => s

/-- The values of a register as a function reads it: WO and reserved fields zero; what is kept per function, counted on demand, or
measured on the line and stated by no command (a free value). -/
def readReg (f : Requester) (r : Reg) (ix : List Nat) (s : State) : Word × State :=
  match r with
  | .BPM_RESULT => let s := settleRequest f s; ((tget {} s.fns (fnIdx f)).bpmResult, s)
  | .AUD_SEAL_STATUS => (sealStatus f s, s)
  | .BC_QUOTE_STATUS => (quoteStatus f s, s)
  | .SW_E2E_QUERY =>
    let a := getF F.SW_E2E_QUERY_ADDR [] s
    (BitVec.ofNat 64 (a + freeE2e (BitVec.ofNat 16 a) s * 2 ^ 16 + (if tget false s.msgs.unreach a then 2 ^ 24 else 0)), s)
  | .LNK_LANE => let (w, s) := takeFree s; (mix (getR r ix s) (spanMask 47 32 ||| spanMask 23 16) w, s)
  | r => (getR r ix s &&& typeMask r (fun t => decide (t ≠ .wo ∧ t ≠ .rsv)), s)

/-- A read of a register of a latched set, or of any other (R499): the mask says which bits the access covers. -/
def latchedRead (f : Requester) (r : Reg) (ix : List Nat) (m : Word) (s : State) : Word × State :=
  let off := regOff r ix
  if latchedMember r then (captured f off s, s)
  else if (latchedSet r ix).isEmpty then readReg f r ix s
  else if covers m 31 0 then
    let (v, s) := readReg f r ix s
    (v, forList (latchedSet r ix) (captureReg f off v s) (fun o t => captureReg f o (offValue o s) t))
  else (captured f off s, s)

/-- The requester is there: its PCIe link is up and, for a virtual function, NumVFs enables it. -/
def functionThere (f : Requester) (s : State) : Bool :=
  match f with
  | .pf => decide (getF F.ID_HOST_LINK_GEN [] s ≠ 0)
  | .vf v => decide (getF F.ID_HOST_LINK_GEN [] s ≠ 0) && decide (v < s.pcie.numVfs)
  | .manager => true

/-- The bits of a word that an access covers, at its low end. -/
def readHalf (off size : Nat) (v : Word) : Word :=
  if size = 8 then v else if off % 8 = 0 then v &&& 0xFFFFFFFF else v >>> 32

/-- The value of a BAR0 read. -/
def readBar0 (f : Requester) (off size : Nat) (s : State) : Word × State :=
  match placedWrite off size wordMax with
  | none => (0, s)
  | some (m, _) =>
    if ! (mayRead f off && blockUp off s) then (0, s)
    else
      match msixSlot off with
      | some k => (readHalf off size (msixWord (fnIdx f) k s), s)
      | none =>
        match findReg (off / 8 * 8) with
        | none => (0, s)
        | some (r, ix) => let (v, s) := latchedRead f r ix m s; (readHalf off size v, s)

/-- A read of BPM_RESULT that has to wait: it stalls, and is made again (R379; log 67). -/
def readStalls (f : Requester) (off size : Nat) (s : State) : Bool :=
  (placedWrite off size wordMax).isSome && decide (off / 8 * 8 = regOff .BPM_RESULT []) && mayRead f off && blockUp off s && requestOpen f s

/-- A host read and its answer: zero from BAR2 (R383), the register from BAR0, all ones where the function is not there. -/
def registerRead (f : Requester) (addr : HostAddr) (size : Nat) (s : State) : State :=
  match addr with
  | .bar2 off => emit (.readData f off size (if functionThere f s then 0 else wordMax)) s
  | .bar0 off =>
    if functionThere f s then
      let (v, s) := readBar0 f off size s
      if readStalls f off size s then s else emit (.readData f off size v) s
    else emit (.readData f off size wordMax) s

/-- LATCHED_SET_CAPTURE (R499); every other read of BAR0, and of BAR2, goes the same way. -/
def execLatchedSetCapture (fn : Requester) (addr : HostAddr) (size : Nat) (s : State) : Host.Outcome State Fault Refusal :=
  runIf fn.wf (registerRead fn addr size) s

end Sys2Proof.Machine
end

