-- ==== Sys2Proof/Machine/Mgmt.lean ====
section
/-! DEFINITION. The management channel (R461 to R464) and time (R465 to R467). -/

namespace Sys2Proof.Machine

open Sys2Proof

/-! Sessions (R461). -/

/-- The lowest session number that is not open. -/
def freeSession (s : State) : Option Nat := (List.range 4).find? (fun k => ! s.bc.sessions.any (fun e => decide (e.1 = k)))

/-- OPEN of BC_MGMT follows the open sessions. -/
def noteSessions (s : State) : State :=
  setF F.BC_MGMT_OPEN [] ((s.bc.sessions.map (fun e => 2 ^ e.1)).sum) s

/-- A KEM_INIT is accepted: its length, a listed manager key, its signature (R461). -/
def kemInitOk (m : List Byte) (s : State) : Bool :=
  let key := (m.drop 1600).take 2592
  decide (m.length = 8832) && zeroFrom 8819 m && s.bc.managers.contains (sha3_512 key) &&
  Config.mldsaVerify key (ascii "DV1-mgr") (m.take 4192) ((m.drop 4192).take 4627)

/-- Open session `k` and answer KEM_REPLY (R461). -/
def openSession (k src : Nat) (m : List Byte) (s : State) : State :=
  let (ct, secret) := Config.mlkemEncaps (m.take 1568) s.fresh
  let nonce := (List.range 32).map (fun i => Config.freeByte (s.fresh + 1 + i))
  let s := { s with fresh := s.fresh + 33 }
  let head := natLe 1 k ++ ct ++ nonce
  let t := sha3_512 (m.take 8819 ++ head)
  let block := sha3_512 (0x05 :: (secret ++ t))
  let reply := head ++ Config.mldsaSign (attSeed s) (ascii "DV1-mgmt") t
  let s := noteSessions { s with bc := { s.bc with
    sessions := s.bc.sessions ++ [(k, { keyIn := block.take 32, keyOut := (block.drop 32).take 32 })] } }
  let h : Packet := { ty := 5, vc := 1, handle := 0x02000000 }
  queueMsg ⟨.basecamp, none, BitVec.ofNat 16 src, 26, makePackets h (cutData 3 4096 0 (pad16 reply)), 0⟩ s

/-- The next session request is accepted, or refused with nothing. -/
def kemInit (s : State) : State :=
  match s.bc.handshake with
  | [] => s
  | (src, m) :: t =>
    let s := { s with bc := { s.bc with handshake := t } }
    match freeSession s with
    | some k => if kemInitOk m s then openSession k src m s else s
    | none => s

/-- KEM_INIT (R461). -/
def execKemInit (s : State) : Host.Outcome State Fault Refusal := runIf (mgmtUp s) kemInit s

/-! Register operations (R462 to R464). -/

/-- A management cell of a kind. -/
def isMgmtKind (k : Nat) (p : Packet) : Bool := p.ty = 9 && decide (p.kind.toNat = k)

/-- The additional data: the cell header with VC, MIRROR_COPY and CRC16 zero. -/
def mopHeader (p : Packet) : List Byte := ({ p with vc := 0, mirror := false } : Packet).body 0 |>.take 16

/-- The nonce: payload bytes 0 to 7 and four zero bytes. -/
def mopNonce (payload : List Byte) : List Byte := payload.take 8 ++ zeros 4

/-- Session `k`, if it is open. -/
def sessionOf (k : Nat) (s : State) : Option Session := (s.bc.sessions.find? (fun e => decide (e.1 = k))).map (fun e => e.2)

/-- Change an open session. -/
def modSession (k : Nat) (f : Session → Session) (s : State) : State :=
  { s with bc := { s.bc with sessions := s.bc.sessions.map (fun e => if e.1 = k then (e.1, f e.2) else e) } }

/-- A session closes (R463). -/
def closeSession (k : Nat) (s : State) : State :=
  noteSessions { s with bc := { s.bc with sessions := s.bc.sessions.filter (fun e => decide (e.1 ≠ k)) } }

/-- A counter that a session takes: above the highest seen less 64, and not seen (R463). -/
def counterOk (c : Nat) (k : Session) : Bool :=
  (match k.high with | some h => decide (h < c + 64) | none => true) && ! k.seen.contains c

/-- A counter is taken. -/
def takeCounter (c : Nat) (k : Session) : Session :=
  let h := max c (k.high.getD 0)
  { k with high := some h, seen := (c :: k.seen).filter (fun x => decide (h < x + 64)) }

/-- The plaintext of a cell that R463 lets in. -/
def openMop (p : Packet) (k : Session) : Option (List Byte) :=
  let b := p.payload
  if fieldAt b 1 1 = 0 ∧ counterOk (fieldAt b 2 6) k then
    Config.gcmOpen k.keyIn (mopNonce b) (mopHeader p) ((b.drop 8).take 24) ((b.drop 32).take 16)
  else none

/-- Do a register operation: its status and the value of the answer; a write's answer has a value the spec does not state (log
5). -/
def mopRun (op : List Byte) (s : State) : Nat × Word × State :=
  let off := fieldAt op 4 4
  let ok := zeroIn op 1 4
  if ok ∧ fieldAt op 0 1 = 1 ∧ mayRead .manager off then
    let (v, s) := readBar0 .manager off 8 s
    (St.ok, v, s)
  else
    let (v, s) := takeFree s
    if ok ∧ fieldAt op 0 1 = 2 ∧ mayWrite .manager off then
      (St.ok, v, doIf (fnAllowed .manager off s) (writeBar0 .manager off 8 (BitVec.ofNat 64 (fieldAt op 8 8))) s)
    else (St.notPermitted, v, s)

/-- Send an answer in session `k`, under the next record counter. -/
def sendAnswer (k : Nat) (p : Packet) (plain : List Byte) (s : State) : State :=
  match sessionOf k s with
  | none => s
  | some x =>
    let (q, s) := takeCellSeq p.src 0x30 s
    let first := natLe 1 k ++ natLe 1 1 ++ natLe 6 x.outCount
    let c : Packet := { ty := 9, vc := 4, dest := p.src, src := ownAddr s, kind := 0x30, seq := BitVec.ofNat 8 q, tag := p.tag }
    let (ct, tag) := Config.gcmSeal x.keyOut (mopNonce first) (mopHeader c) plain
    let s := inject 26 { c with payload := (first ++ ct ++ tag ++ zeros 48).take 48 } s
    let s := modSession k (fun x => { x with outCount := x.outCount + 1 }) s
    if 2 ^ 40 ≤ x.outCount + 1 then closeSession k s else s

/-- An operation of an open session: done once, answered as often as it is asked (R463). -/
def mopAnswer (k : Nat) (p : Packet) (op : List Byte) (s : State) : State :=
  let id := BitVec.ofNat 64 (fieldAt op 16 8)
  match ((sessionOf k s).map (fun x => x.answers)).getD [] |>.find? (fun a => decide (a.1 = id)) with
  | some a => sendAnswer k p a.2 s
  | none =>
    let (st, v, s) := mopRun op s
    let plain := op.take 1 ++ natLe 1 st ++ zeros 2 ++ (op.drop 4).take 4 ++ natLe 8 v.toNat ++ (op.drop 16).take 8
    sendAnswer k p plain (modSession k (fun x => { x with answers := ((id, plain) :: x.answers).take 256 }) s)

/-- The next MOP cell: discarded and counted, or performed and answered. -/
def mop (s : State) : State :=
  match takeDelivered 26 (isMgmtKind 0x30) s with
  | none => s
  | some ((p, _), s) =>
    let k := fieldAt p.payload 0 1
    match (sessionOf k s).bind (openMop p) with
    | none => addF F.BC_MGMT_REJECTED [] 1 s
    | some op => mopAnswer k p op (modSession k (takeCounter (fieldAt p.payload 2 6)) s)

/-- MOP (R462). -/
def execMop (s : State) : Host.Outcome State Fault Refusal := runIf (mgmtUp s) mop s

/-- SESSION_EXPIRE (R463): 24 hours, or the record limit. -/
def execSessionExpire (session : Nat) (s : State) : Host.Outcome State Fault Refusal := runIf true (closeSession session) s

/-! Time (R465 to R467). -/

/-- A Sync the device accepts: one-step, from the address and domain of BC_TIME_CTRL (R466). -/
def syncOk (p : Packet) (s : State) : Bool :=
  let b := p.payload
  decide (getF F.BC_TIME_CTRL_ENABLE [] s = 1) && decide (p.src.toNat = getF F.BC_TIME_CTRL_GM_ADDR [] s) &&
  decide (fieldAt b 4 1 = getF F.BC_TIME_CTRL_DOMAIN [] s) && decide (fieldAt b 0 1 % 16 = 0) &&
  ! (BitVec.ofNat 8 (fieldAt b 6 1)).getLsbD 1 && zeroIn b 44 48

/-- t2 − (t1 + C + L) in ns: `arrival` is t2 − L; the fraction of C is rounded down (R467). -/
def syncOffset (p : Packet) : Int :=
  let b := p.payload
  let t1 : Int := beNat ((b.drop 34).take 6) * 1000000000 + beNat ((b.drop 40).take 4)
  let c : Int := (BitVec.ofNat 64 (beNat ((b.drop 8).take 8))).toInt
  ((p.arrival.toInt - t1) * 65536 - c) / 65536

/-- The 32 bits of OFFSET: two's complement, saturating. -/
def offsetField (o : Int) : Nat := (BitVec.ofInt 32 (max (-2147483648) (min 2147483647 o))).toNat

/-- The servo takes an offset; a hold lasts for the nanoseconds by which TIME is ahead (R467). -/
def takeOffset (o : Int) (s : State) : State :=
  let b := s.bc
  let small := decide (-1000 < o ∧ o < 1000)
  let good := if small then min 8 (b.good + 1) else 0
  let s := if b.timeArmed ∧ o < -1000000 then setR .BC_TIME [] (timeNow s + BitVec.ofInt 64 (-o)) s else s
  let hold := if (b.timeArmed ∧ 1000000 < o) ∨ (0 < b.timeHold ∧ 0 < o) then o.toNat else 0
  let s := { s with bc := { s.bc with timeArmed := false, timeHold := hold, good := good } }
  let s := setF F.BC_TIME_STATUS_HOLDOVER [] 0 (setF F.BC_TIME_STATUS_OFFSET [] (offsetField o) s)
  if ! small then setF F.BC_TIME_STATUS_SYNCED [] 0 s
  else if good = 8 then setF F.BC_TIME_STATUS_SYNCED [] 1 s
  else s

/-- The next SYNC cell. -/
def syncReceive (s : State) : State :=
  match takeDelivered 26 Packet.isSync s with
  | none => s
  | some ((p, _), s) => if syncOk p s then takeOffset (syncOffset p) s else s

/-- SYNC_RECEIVE (R467). -/
def execSyncReceive (s : State) : Host.Outcome State Fault Refusal := runIf (mgmtUp s) syncReceive s

/-- No accepted Sync for SYNC_TIMEOUT: holdover (R467). -/
def syncTimeout (s : State) : State :=
  setF F.BC_TIME_STATUS_SYNCED [] 0 (setF F.BC_TIME_STATUS_HOLDOVER [] 1 { s with bc := { s.bc with good := 0 } })

/-- SYNC_TIMEOUT (R467). -/
def execSyncTimeout (s : State) : Host.Outcome State Fault Refusal :=
  runIf (mgmtUp s && decide (getF F.BC_TIME_CTRL_ENABLE [] s = 1)) syncTimeout s

end Sys2Proof.Machine
end

