-- ==== Sys2Proof/Machine/Mxe.lean ====
section
/-! DEFINITION. The matrix engine (R306 to R313, R333 to R335) over the long accumulator (R239 to R245). -/

namespace Sys2Proof.Machine

open Sys2Proof

/-- Point (i, j) of a core's accumulator. -/
def accPoint (k : Core) (i j : Nat) : AccPoint := tget {} k.acc (i * 128 + j)

/-- A clear: every point, the term count and the tile flags (R240, R309). -/
def Core.clearAcc (k : Core) : Core := { k with acc := [], terms := 0, tileNan := false, tileSpan := false }

/-- Add one product to a point; a set sticky bit sets the tile's SPAN (R242). -/
def Core.macAt (i j : Nat) (a b : FNum) (x : Core × Word) : Core × Word :=
  let p := (accPoint x.1 i j).mac a b
  ({ x.1 with acc := tset {} x.1.acc (i * 128 + j) p.1, tileSpan := x.1.tileSpan || p.1.sticky }, x.2 ||| p.2)

/-- The largest term count of an accumulator tile (R241). -/
abbrev termLimit : Nat := 16777216

/-- MCLR (R309). -/
def mclrFx (core : Nat) : EngFx :=
  fun _ _ s => .done (modCore core Core.clearAcc s) 0

/-- MCLR. -/
def execMclr (core : Nat) (s : State) : Host.Outcome State Fault Refusal := engineRun 1 0x01 core (mclrFx core) s

/-- The shape and format of an MLD source or MST destination (R307, R309). -/
def accTileOk (w : Who) (t : Tile) (wr : Bool) (s : State) : Bool :=
  t.ok w wr s && isNumFmt t.format && decide (t.rows ≤ 64) && decide (t.cols ≤ 128)

/-- Read the values at some positions, all of which must be good. -/
def readNums (f : Nat → Nat → Except Stop FNum) : List (Nat × Nat) → Except Stop (List ((Nat × Nat) × FNum))
  | [] => .ok []
  | x :: t =>
    match f x.1 x.2 with
    | .error e => .error e
    | .ok v => match readNums f t with | .error e => .error e | .ok l => .ok ((x, v) :: l)

/-- The number one. -/
abbrev numOne : FNum := .fin false 1 0

/-- MLD (R309): each element is one product; the term count grows by 1 (R241). -/
def mldFx (core : Nat) : EngFx :=
  fun r e s =>
    let w := engWho 1 r core
    let t := tileOf e.opA
    if ! accTileOk w t false s then .fail s St.notPermitted t.base
    else if termLimit < (coreOf core s).terms + 1 then .fail s St.windowOverflow 0
    else
      match readNums (t.num w [] s) (positions t.rows t.cols) with
      | .error (.fault st a) => .fail s st a
      | .error (.need l h o) => .need l h o
      | .ok l =>
        let x := l.foldl (fun x y => Core.macAt y.1.1 y.1.2 y.2 numOne x) (coreOf core s, (0 : Word))
        .done (modCore core (fun _ => { x.1 with terms := x.1.terms + 1 }) s) x.2

/-- MLD. -/
def execMld (core : Nat) (s : State) : Host.Outcome State Fault Refusal := engineRun 1 0x02 core (mldFx core) s

/-- The operands of a matrix multiply. -/
structure MmaShape where
  a : Tile
  b : Tile
  mask : Tile
  k : Nat
  structured : Nat
  deriving DecidableEq, Repr

/-- K elements consumed per cycle by a format, counted whole: 4, 2 or 1 (R314). -/
def rateOf (f : Nat) : Nat := if f = 0x0C ∨ f = 0x0E then 4 else if isBlock f then 2 else 1

/-- The width of a K-step (R311, R314); formats slower than one element a cycle step by one element (log 16). -/
def MmaShape.step (x : MmaShape) : Nat :=
  let r := min (rateOf x.a.format) (rateOf x.b.format)
  if x.structured = 0 ∨ r = 1 then r else 2 * r

/-- Stored values per group of four: all four, two or one. -/
def MmaShape.slots (x : MmaShape) : Nat := if x.structured = 0 then 4 else x.structured

/-- Shapes, formats, layouts and reach (R307, R308, R312, R327). -/
def MmaShape.ok (x : MmaShape) (w : Who) (s : State) : Bool :=
  (if x.a.comp then x.a.compOk w false s
   else x.a.ok w false s && (if isBlock x.a.format then decide (x.a.layout ≠ 1) else decide (x.a.layout ≠ 2))) &&
  isNumFmt x.a.format && decide (x.a.rows ≤ 64) && decide (x.b.cols ≤ 128) && x.b.ok w false s && isNumFmt x.b.format &&
  (if x.structured = 0 then
     (if isBlock x.b.format then decide (x.b.layout = 1) else decide (x.b.layout ≠ 2)) && decide (x.k = x.b.rows)
   else
     decide (x.b.format ≠ 1) && decide (x.b.layout = 1) && decide (x.b.rows * 4 = x.k * x.structured) &&
     decide (x.k % (if isBlock x.b.format then 128 / x.structured else 16) = 0) &&
     x.mask.ok w false s && decide (x.mask.format = 0x11) && decide (x.mask.layout = 1) &&
     decide (x.mask.rows * 16 = x.k) && decide (x.mask.cols = x.b.cols))

/-- The mask of group `g` of column `j`, and the element's address (R312). -/
def maskOf (x : MmaShape) (w : Who) (s : State) (g j : Nat) : Except Stop (Nat × Nat) :=
  match x.mask.raw w [] s (g / 4) j with
  | .error e => .error e
  | .ok v =>
    if v.poison ≠ 0 then .error (.fault v.poison v.badAddr)
    else .ok (nbits (4 * (g % 4) + 3) (4 * (g % 4)) v.bits, v.addr)

/-- How many of the low `n` bits of a mask are set. -/
def maskCount (mask n : Nat) : Nat := ((List.range n).filter (fun i => mask.testBit i)).length

/-- Check the spare slots `i`, `i` + 1, … below `n` of a group (R313). -/
def spareOk (x : MmaShape) (w : Who) (s : State) (g j : Nat) : List Nat → Except Stop Unit
  | [] => .ok ()
  | i :: t =>
    match x.b.raw w [] s (g * x.structured + i) j with
    | .error e => .error e
    | .ok v => if v.nonZero x.b.format then .error (.fault St.structFault v.addr) else spareOk x w s g j t

/-- Read every stored slot of a group for poison. -/
def slotsGood (x : MmaShape) (w : Who) (s : State) (g j : Nat) : List Nat → Except Stop Unit
  | [] => .ok ()
  | i :: t =>
    match x.b.num w [] s (g * x.structured + i) j with
    | .error e => .error e
    | .ok _ => slotsGood x w s g j t

/-- Check the groups `gs` of a K-step in column `j`: poison, then structure (R311, R313). -/
def groupsOk (x : MmaShape) (w : Who) (s : State) (j : Nat) : List Nat → Except Stop Unit
  | [] => .ok ()
  | g :: t =>
    match maskOf x w s g j, slotsGood x w s g j (List.range x.structured) with
    | .error e, _ => .error e
    | _, .error e => .error e
    | .ok (mk, a), .ok _ =>
      let n := maskCount mk 4
      if x.structured < n then .error (.fault St.structFault a)
      else
        match spareOk x w s g j ((List.range x.structured).drop n) with
        | .error e => .error e
        | .ok _ => groupsOk x w s j t

/-- The weight for logical row `k` of column `j`: none when a structured group keeps none (R312). -/
def weightAt (x : MmaShape) (w : Who) (s : State) (k j : Nat) : Except Stop (Option FNum) :=
  if x.structured = 0 then
    match x.b.num w [] s k j with
    | .error e => .error e
    | .ok v => .ok (some v)
  else
    match maskOf x w s (k / 4) j with
    | .error e => .error e
    | .ok (mk, _) =>
      if mk.testBit (k % 4) then
        match x.b.num w [] s (k / 4 * x.structured + maskCount mk (k % 4)) j with
        | .error e => .error e
        | .ok v => .ok (some v)
      else .ok none

/-- Read the weights of some positions. -/
def readWeights (x : MmaShape) (w : Who) (s : State) : List (Nat × Nat) → Except Stop (List ((Nat × Nat) × Option FNum))
  | [] => .ok []
  | p :: t =>
    match weightAt x w s p.1 p.2 with
    | .error e => .error e
    | .ok v => match readWeights x w s t with | .error e => .error e | .ok l => .ok ((p, v) :: l)

/-- Every group of a K-step is in order, column by column. -/
def stepOk (x : MmaShape) (w : Who) (s : State) (gs : List Nat) : List Nat → Except Stop Unit
  | [] => .ok ()
  | j :: t =>
    match groupsOk x w s j gs with
    | .error e => .error e
    | .ok _ => stepOk x w s gs t

/-- An element of operand A, dense or compressed. -/
def actAt (x : MmaShape) (w : Who) (pans : List Panel) (s : State) (i k : Nat) : Except Stop FNum :=
  match x.a.rawAny w [] pans s i k with
  | .error e => .error e
  | .ok v => v.good x.a.format

/-- The operands of one K-step, all checked before any product is added (R311). -/
def readStep (x : MmaShape) (w : Who) (pans : List Panel) (s : State) (ks : List Nat) :
    Except Stop (List ((Nat × Nat) × FNum) × List ((Nat × Nat) × Option FNum)) :=
  match readNums (actAt x w pans s) ((List.range x.a.rows).flatMap (fun i => ks.map (fun k => (i, k)))) with
  | .error e => .error e
  | .ok as =>
    let lo := ks.headD 0 / 4
    let gs := if x.structured = 0 then [] else (List.range (ks.getLastD 0 / 4 + 1 - lo)).map (fun i => lo + i)
    match stepOk x w s gs (List.range x.b.cols) with
    | .error e => .error e
    | .ok _ =>
      match readWeights x w s (ks.flatMap (fun k => (List.range x.b.cols).map (fun j => (k, j)))) with
      | .error e => .error e
      | .ok bs => .ok (as, bs)

/-- Add the products of one K-step. -/
def addStep (x : Core × Word) (as : List ((Nat × Nat) × FNum)) (bs : List ((Nat × Nat) × Option FNum)) : Core × Word :=
  bs.foldl (fun x b => match b.2 with
    | none => x
    | some v => as.foldl (fun x a => if a.1.2 = b.1.1 then Core.macAt a.1.1 b.1.2 a.2 v x else x) x) x

/-- K-step after K-step; a fault leaves the products of the steps before it (R311). -/
def runSteps (x : MmaShape) (w : Who) (pans : List Panel) (s : State) : List Nat → Core × Word → Core × Word × Option Stop
  | [], z => (z.1, z.2, none)
  | q :: t, z =>
    let ks := ((List.range x.step).map (fun i => q * x.step + i)).filter (fun k => decide (k < x.k))
    match readStep x w pans s ks with
    | .error e => (z.1, z.2, some e)
    | .ok (as, bs) => runSteps x w pans s t (addStep z as bs)

/-- MMA, MMA24 and MMA14 (R308, R311 to R313, R335): `st` is 0, 2 or 1 stored values per group of four. -/
def mmaFx (core st : Nat) (r : Nat) (e : QEntry) (s : State) : EngOut :=
  let w := engWho 1 r core
  let a := tileOf e.opA
  let x : MmaShape := ⟨a, tileOf e.opB, tileOf e.opC, a.cols, st⟩
  if ! x.ok w s then .fail s St.notPermitted a.base
  else if termLimit < (coreOf core s).terms + x.k then .fail s St.windowOverflow 0
  else
    match (if a.comp then readPanels w [] a true s a.panels else .ok []) with
    | .error (.fault st a) => .fail s st a
    | .error (.need l h o) => .need l h o
    | .ok pans =>
      match runSteps x w pans s (List.range ((x.k + x.step - 1) / x.step)) (coreOf core s, 0) with
      | (k, fl, none) => .done (modCore core (fun _ => { k with terms := k.terms + x.k }) s) fl
      | (k, fl, some (.fault st a)) => .fail (raiseNstat core fl (modCore core (fun _ => k) s)) st a
      | (_, _, some (.need l h o)) => .need l h o

/-- MMA (R308). -/
def execMma (core : Nat) (s : State) : Host.Outcome State Fault Refusal := engineRun 1 0x10 core (mmaFx core 0) s

/-- MMA24 (R312). -/
def execMma24 (core : Nat) (s : State) : Host.Outcome State Fault Refusal := engineRun 1 0x11 core (mmaFx core 2) s

/-- MMA14 (R312). -/
def execMma14 (core : Nat) (s : State) : Host.Outcome State Fault Refusal := engineRun 1 0x12 core (mmaFx core 1) s

/-- Write-out (R245, R309, R310): a point that writes NaN sets the tile's NAN, the tile's flags go into the status word, and the
flags of this write-out itself are what TRAP_NAN looks at (R246). -/
def mstFx (core r : Nat) (e : QEntry) (s : State) : EngOut :=
  let w := engWho 1 r core
  let t := tileOf e.opA
  let k := coreOf core s
  if ! accTileOk w t true s then .fail s St.notPermitted t.base
  else
    let nan := (positions t.rows t.cols).any (fun p => decide ((accPoint k p.1 p.2).value.1 = .nan))
    match convertTile w e t (t.rows * t.cols) (fun _ i j => .ok ((accPoint k i j).value, 0)) s with
    | .error (.fault st a) => .fail s st a
    | .error (.need l h o) => .need l h o
    | .ok (s, fl) =>
      let tn := k.tileNan || nan
      .done (raiseNstat core ((if tn then Ns.nan else 0) ||| (if k.tileSpan then Ns.span else 0))
        (modCore core (fun k => { k with tileNan := tn }) s)) fl

/-- MST (R309). -/
def execMst (core : Nat) (s : State) : Host.Outcome State Fault Refusal := engineRun 1 0x20 core (mstFx core) s

/-- MSTC (R309). -/
def mstcFx (core : Nat) : EngFx :=
  fun r e s =>
    match mstFx core r e s with
    | .done t fl => .done (modCore core Core.clearAcc t) fl
    | o => o

/-- MSTC. -/
def execMstc (core : Nat) (s : State) : Host.Outcome State Fault Refusal := engineRun 1 0x21 core (mstcFx core) s

end Sys2Proof.Machine
end

