-- ==== Sys2Proof/Machine/Rte.lean ====
section
/-! DEFINITION. The routing engine (R28 to R59): validation, slice load, scores, selection, weights, lookup, sort, outputs. -/

namespace Sys2Proof.Machine

open Sys2Proof

/-- A route descriptor (R31). -/
structure RouteDesc where
  logits : Nat
  lstride : Nat
  bias : Nat
  e : Nat
  out : Nat
  tokens : Nat
  work : Nat
  k : Nat
  layer : Nat
  counts : Nat
  groups : Nat
  tokenBase : Nat
  topg : Nat
  func : Nat
  slotBins : Nat
  scale : Nat
  tokmap : Nat
  rankBins : Nat
  flags : Nat
  rsvd : Nat
  deriving DecidableEq, Repr

/-- The descriptor in 64 bytes (R31). -/
def routeDesc (b : List Byte) : RouteDesc :=
  { logits := fieldAt b 0 6, lstride := fieldAt b 6 2, bias := fieldAt b 8 6, e := fieldAt b 14 2, out := fieldAt b 16 6,
    tokens := fieldAt b 22 2 + 1, work := fieldAt b 24 6, k := fieldAt b 30 1, layer := fieldAt b 31 1,
    counts := fieldAt b 32 6, groups := fieldAt b 38 2, tokenBase := fieldAt b 40 4, topg := fieldAt b 44 1 + 1,
    func := fieldAt b 45 1, slotBins := fieldAt b 46 2, scale := fieldAt b 48 4, tokmap := fieldAt b 52 6,
    rankBins := fieldAt b 58 2, flags := fieldAt b 60 1, rsvd := fieldAt b 61 3 }

/-- The score function, group score and normalisation of FUNC. -/
def RouteDesc.score (d : RouteDesc) : Nat := nbits 1 0 d.func
def RouteDesc.gmode (d : RouteDesc) : Nat := nbits 3 2 d.func
def RouteDesc.norm (d : RouteDesc) : Nat := nbits 5 4 d.func

/-- The two-pass sort applies (R54). -/
def RouteDesc.twoPass (d : RouteDesc) : Bool := decide (65536 < d.rankBins * d.slotBins)

/-- The fields are within the ranges of R31 and R32 that the descriptor alone shows. -/
def RouteDesc.ok (d : RouteDesc) : Bool :=
  [d.logits, d.bias, d.out, d.work, d.counts, d.tokmap].all (fun a => decide (a % 64 = 0)) &&
  decide (1 ≤ d.e ∧ d.e ≤ 16384) && decide (d.e * 4 ≤ d.lstride * 64) && decide (1 ≤ d.lstride) &&
  decide (1 ≤ d.k ∧ d.k ≤ 32) && decide (1 ≤ d.groups ∧ d.groups ≤ 256) && decide (d.e % d.groups = 0) &&
  decide (d.topg ≤ d.groups) && decide (d.score ≠ 3) && decide (d.gmode ≤ 1) && decide (d.norm ≤ 1) &&
  decide (nbits 7 6 d.func = 0) && decide (1 ≤ d.slotBins ∧ d.slotBins ≤ 16384) && ! (fp32.decode d.scale).special &&
  decide (1 ≤ d.rankBins ∧ d.rankBins ≤ 32768) && decide (d.flags ≤ 1) && decide (d.rsvd = 0) &&
  decide (d.tokens * d.k ≤ 262144) && decide (d.logits ≠ 0 ∧ d.out ≠ 0 ∧ d.counts ≠ 0) &&
  ! (decide (d.gmode = 1) && decide (d.e / d.groups = 1)) && decide (d.k ≤ d.topg * (d.e / d.groups)) &&
  (! d.twoPass || decide (d.work ≠ 0))

/-- The further limits of ROUTE_F (R58). -/
def RouteDesc.okF (d : RouteDesc) : Bool :=
  decide (d.e ≤ 256) && decide (d.k ≤ 8) && decide (d.groups = 1) && decide (d.topg = 1) && decide (d.score = 0) &&
  decide (d.norm = 1) && decide (d.bias = 0 ∧ d.work = 0 ∧ d.rankBins = 1 ∧ d.flags = 0)

/-- The exact sum rounded once into FP32; the sum of nothing is +0 (R34, R41). -/
def f32Sum (l : List FNum) : FNum :=
  match l with
  | [] => .fin false 0 0
  | a :: t => toF32 (t.foldl (fun x y => (numAdd x y).1) a)

/-- One rounded FP32 operation. -/
def f32Op (f : FNum → FNum → NumF) (a b : FNum) : FNum := toF32 (f a b).1

/-- a > b in the ordinary comparison, −0 equal to +0 (R37). -/
def numGt (a b : FNum) : Bool :=
  let z := fun v => match v with | .fin _ 0 _ => FNum.fin false 0 0 | v => v
  numLt (z b) (z a)

/-- The scores of a row of logits (R34, R35). -/
def scoresOf (fn : Nat) (xs : List FNum) : List FNum :=
  match fn with
  | 0 =>
    match xs.filter (fun x => ! x.special) with
    | [] => xs.map (fun x => if x = .nan ∨ x = .inf false then .nan else .fin false 0 0)
    | a :: t =>
      let m := t.foldl numMax a
      let es := xs.map (fun x => if x = .nan ∨ x = .inf false then .nan else f32Exp (f32Op numAdd x (numNeg m)))
      let d := f32Sum (es.filter (fun x => decide (x ≠ .nan)))
      es.map (fun x => if x = .nan then .nan else if d = .fin false 0 0 then .fin false 0 0 else f32Op numDiv x d)
  | 1 => xs.map (fun x => if x = .nan then .nan else f32Op numDiv (.fin false 1 0) (f32Op numAdd (.fin false 1 0) (f32Exp (numNeg x))))
  | _ => xs.map (fun x => if x.special then .nan else x)

/-- An expert of a token: index, score, key, placed, NaN-scored (R36, R38). -/
structure Cand where
  i : Nat
  score : FNum
  key : FNum
  placed : Bool
  nan : Bool
  deriving DecidableEq, Repr

/-- Expert a beats expert b (R37). -/
def Cand.beats (a b : Cand) : Bool := numGt a.key b.key || (! numGt b.key a.key && decide (a.i < b.i))

/-- The experts of a token, with their keys (R36). -/
def candsOf (fn : Nat) (logits bias : List FNum) (placed : List Bool) : List Cand :=
  ((scoresOf fn logits).zipIdx).map (fun x =>
    let b := bias.getD x.2 (.fin false 0 0)
    let nan := decide (x.1 = .nan) || b.special
    ⟨x.2, x.1, if nan then .inf true else f32Op numAdd x.1 b, placed.getD x.2 true, nan⟩)

/-- The score of a group: its placed experts, best first, give it (R39). -/
def groupScore (gmode : Nat) (best : List Cand) : FNum :=
  match best with
  | [] => .inf true
  | [a] => a.key
  | a :: b :: _ =>
    if gmode = 0 then a.key
    else
      let v := f32Op numAdd a.key b.key
      if v = .nan then .inf true else v

/-- The experts a token selects, in selection order (R39). -/
def selectOf (d : RouteDesc) (cs : List Cand) : List Cand :=
  let gsize := d.e / d.groups
  let grp := (List.range d.groups).map (fun q =>
    let best := sortBy Cand.beats (((cs.drop (q * gsize)).take gsize).filter (fun c => c.placed))
    (q, groupScore d.gmode best, best))
  let kept := (sortBy (fun a b => numGt a.2.1 b.2.1) grp).take d.topg
  (sortBy Cand.beats (kept.flatMap (fun g => g.2.2))).take d.k

/-- The weights of the selected experts (R41, R42). -/
def weightsOf (d : RouteDesc) (sel : List Cand) : List FNum :=
  let scale := fp32.decode d.scale
  let sum := f32Sum ((sel.filter (fun c => ! c.nan)).map (fun c => c.score))
  let zero := match sum with | .fin _ 0 _ => true | _ => false
  sel.map (fun c =>
    if c.nan then .fin false 0 0
    else if d.norm = 0 then f32Op numMul c.score scale
    else if zero then .fin false 0 0
    else f32Op numMul (f32Op numDiv c.score sum) scale)

/-- The valid replicas of a placement entry: words before the first invalid one (R46). -/
def replicasOf (e : BitVec 128) : List Nat :=
  ((List.range 4).map (fun j => nbits (32 * j + 31) (32 * j) e.toNat)).takeWhile (fun w => w.testBit 31)

/-- The rank and slot of a replica word (R46). -/
def repRank (w : Nat) : Nat := nbits 14 0 w
def repSlot (w : Nat) : Nat := nbits 29 16 w

/-- The replica function of R48. -/
def replicaPick (t e l n : Nat) : Nat :=
  let h : BitVec 32 := BitVec.ofNat 32 t ^^^ (BitVec.ofNat 32 e * 0x9E3779B9) ^^^ BitVec.ofNat 32 (l * 2 ^ 24)
  let h := (h ^^^ (h >>> 16)) * 0x85EBCA6B
  let h := (h ^^^ (h >>> 13)) * 0xC2B2AE35
  let h := h ^^^ (h >>> 16)
  h.toNat % n

/-- The replica chosen for expert `e` (R48). -/
def chooseReplica (d : RouteDesc) (rank t e : Nat) (reps : List Nat) : Nat :=
  if reps.length = 1 then 0
  else
    match (if d.flags = 1 then findIdxFrom (fun w => decide (repRank w = rank)) reps 0 else none) with
    | some i => i
    | none => replicaPick t e d.layer reps.length

/-- A record before its sort. -/
structure RouteRec where
  token : Nat
  row : Nat
  j : Nat
  expert : Nat
  rank : Nat
  slot : Nat
  weight : FNum
  nan : Bool
  rep : Nat
  self : Bool
  deriving DecidableEq, Repr

/-- The 16 bytes of a dispatch record (R55). -/
def RouteRec.bytes (x : RouteRec) : List Byte :=
  natLe 4 x.token ++ natLe 2 x.rank ++ natLe 2 x.slot ++ natLe 4 (fp32.round rne x.weight).1 ++ zeros 3 ++
  natLe 1 ((if x.nan then 1 else 0) + (if x.self then 4 else 0) + 8 * x.rep)

/-- The 8 bytes of a record of ROUTE_F (R59). -/
def RouteRec.bytesF (x : RouteRec) : List Byte :=
  natLe 4 x.token ++ natLe 1 x.expert ++ natLe 1 (if x.nan then 1 else 0) ++ natLe 2 (bf16.round rne x.weight).1

/-- The order of R53. -/
def sortRecs (l : List RouteRec) : List RouteRec :=
  sortBy (fun a b => decide (a.rank < b.rank) || (decide (a.rank = b.rank) && decide (a.slot < b.slot))) l

/-- Neighbours with the same key, joined: the key, the place of the first, how many (R56). -/
def runsBy (key : RouteRec → Nat) : Nat → List RouteRec → List (Nat × Nat × Nat)
  | _, [] => []
  | i, a :: t =>
    match runsBy key (i + 1) t with
    | [] => [(key a, i, 1)]
    | x :: rest => if x.1 = key a then (key a, i, x.2.2 + 1) :: rest else (key a, i, 1) :: x :: rest

/-- The count output (R56). -/
def countOutput (rank : Nat) (recs : List RouteRec) : List Byte :=
  let runs := runsBy (fun x => x.rank * 16384 + x.slot) 0 recs
  let dests := runsBy (fun x => x.rank) 0 recs
  natLe 4 dests.length ++ natLe 4 runs.length ++ natLe 4 recs.length ++ natLe 4 (recs.filter (fun x => x.nan)).length ++
  dests.flatMap (fun x => natLe 2 x.1 ++ natLe 2 (if x.1 = rank then 1 else 0) ++ natLe 4 x.2.1 ++ natLe 4 x.2.2 ++
    natLe 4 (runs.filter (fun y => decide (y.1 / 16384 < x.1))).length) ++
  runs.flatMap (fun y => natLe 2 (y.1 % 16384) ++ zeros 2 ++ natLe 4 y.2.2)

/-- The token map (R57). -/
def tokenMap (tokens k : Nat) (recs : List RouteRec) : List Byte :=
  (List.range tokens).flatMap (fun r => (List.range k).flatMap (fun j =>
    natLe 4 ((findIdxFrom (fun (x : RouteRec) => decide (x.row = r) && decide (x.j = j)) recs 0).getD 0xFFFFFFFF)))

/-- Read FP32 values, none of which may be poisoned (R33). -/
def readF32s (w : Who) (a n : Nat) (s : State) : Except Stop (List FNum) :=
  match rd w a (4 * n) s with
  | .error e => .error e
  | .ok (bs, f) =>
    if f ≠ 0 then .error (.fault St.poison a) else .ok ((List.range n).map (fun i => fp32.decode (fieldAt bs (4 * i) 4)))

/-- The logits of every token. -/
def readLogits (w : Who) (d : RouteDesc) (s : State) : List Nat → Except Stop (List (List FNum))
  | [] => .ok []
  | r :: t =>
    match readF32s w (d.logits + r * d.lstride * 64) d.e s with
    | .error e => .error e
    | .ok x => match readLogits w d s t with | .error e => .error e | .ok y => .ok (x :: y)

/-- What a ROUTE finds: its records in input order, the rows that see a NaN-scored expert, and its short tokens. -/
structure RouteFound where
  recs : List RouteRec := []
  nanRows : List Nat := []
  short : Nat := 0
  deriving DecidableEq, Repr

/-- Score, select, weigh and look up every token (R34 to R48). `reps` gives an expert's replicas. -/
def routeTokens (d : RouteDesc) (rank : Nat) (logits : List (List FNum)) (bias : List FNum) (reps : List (List Nat)) : RouteFound :=
  let placed := reps.map (fun l => ! l.isEmpty)
  (logits.zipIdx).foldl (fun acc row =>
    let cs := candsOf d.score row.1 bias placed
    let sel := selectOf d cs
    let t := (d.tokenBase + row.2) % 2 ^ 32
    let recs := ((sel.zip (weightsOf d sel)).zipIdx).map (fun x =>
      let c := x.1.1
      let rs := reps.getD c.i []
      let i := chooseReplica d rank t c.i rs
      let w := rs.getD i 0
      (⟨t, row.2, x.2, c.i, repRank w, repSlot w, x.1.2, c.nan, i, decide (repRank w = rank)⟩ : RouteRec))
    { recs := acc.recs ++ recs,
      nanRows := if cs.any (fun c => c.nan) then acc.nanRows ++ [t] else acc.nanRows,
      short := if sel.length < d.k then acc.short + 1 else acc.short }) {}

/-- Bank bit of rope `r`'s placement (R50). -/
def ptBank (r : Nat) (s : State) : Nat := if (getF F.RTE_PT_ACTIVE_BANK [] s).testBit r then 1 else 0

/-- Load the slice cache when its tag differs (R49). -/
def loadSlice (die r layer base n : Nat) (s : State) : State :=
  let q := tget ({} : Rte) s.rtes die
  let tag := some (r, layer, (ropeOf r s).commitCount)
  if q.tag = tag then s
  else
    let b := ptBank r s
    let s := findTableErrors (b * 262144 + base) n s
    let bad := if s.mem.poison.isEmpty then []
      else (List.range n).filter (fun i => s.mem.poisoned (16 * hubWord (b * 262144 + base + i)))
    let sl := (List.range n).map (fun i => tget (0 : BitVec 128) s.tables.placement (b * 262144 + base + i))
    setF F.RTE_STATUS_SLICE_BANK [die] b (addF F.RTE_SLICE_LOADS_COUNT [die] 1
      { s with rtes := tset {} s.rtes die { q with tag := tag, slice := sl, sliceBad := bad } })

/-- The layer's directory entry in the active bank: BASE and EXPERTS (R45). -/
def layerEntry (r layer : Nat) (s : State) : Nat × Nat :=
  let w : BitVec 64 := tget 0 s.tables.layerDir ((r * 2 + ptBank r s) * 256 + layer)
  (nbits 17 0 w.toNat, nbits 46 32 w.toNat)

/-- The layer's entries lie in the rope's placement region (R32, R45). -/
def inRegion (r base n : Nat) (s : State) : Bool :=
  let b := getF F.RTE_PT_REGION_BASE [r] s
  decide (b ≤ base) && decide (base + n ≤ b + getF F.RTE_PT_REGION_SIZE [r] s)

/-- What an instruction leaves behind: the state after its writes, what it found. -/
abbrev RouteDone := State × RouteFound

/-- Write outputs one after the other; an empty one is not written. -/
def writeAll (w : Who) : List (Nat × List Byte) → State → Except Stop State
  | [], s => .ok s
  | x :: t, s =>
    match wr w x.1 x.2 s with
    | .error e => .error e
    | .ok s => writeAll w t s

/-- Read the inputs and find the records. -/
def routeWork (w : Who) (d : RouteDesc) (rank : Nat) (reps : List (List Nat)) (s : State) : Except Stop RouteFound :=
  match readLogits w d s (List.range d.tokens) with
  | .error e => .error e
  | .ok logits =>
    match (if d.bias = 0 then .ok [] else readF32s w d.bias d.e s) with
    | .error e => .error e
    | .ok bias => .ok (routeTokens d rank logits bias reps)

/-- ROUTE over a valid descriptor (R32 to R57). -/
def routeFull (w : Who) (die r : Nat) (d : RouteDesc) (s : State) : Except Stop RouteDone :=
  let (base, n) := layerEntry r d.layer s
  if n ≠ d.e ∨ ! inRegion r base n s then .error (.fault St.notPermitted 0)
  else
    let s := loadSlice die r d.layer base n s
    let reps := (tget ({} : Rte) s.rtes die).slice.map replicasOf
    if ! (tget ({} : Rte) s.rtes die).sliceBad.isEmpty then .error (.fault St.poison 0)
    else if reps.any (fun l => l.any (fun x => decide (d.rankBins ≤ repRank x) || decide (d.slotBins ≤ repSlot x))) then
      .error (.fault St.notPermitted 0)
    else
      match routeWork w d (ropeOf r s).rank reps s with
      | .error e => .error e
      | .ok f =>
        let recs := sortRecs f.recs
        let work := if d.twoPass then
            [(d.work, (sortBy (fun (a b : RouteRec) => decide (a.slot < b.slot)) f.recs).flatMap RouteRec.bytes)] else []
        let tm := if d.tokmap = 0 then [] else [(d.tokmap, tokenMap d.tokens d.k recs)]
        match writeAll w (work ++ [(d.out, recs.flatMap RouteRec.bytes), (d.counts, countOutput (ropeOf r s).rank recs)] ++ tm) s with
        | .error e => .error e
        | .ok s => .ok (s, f)

/-- ROUTE_F over a valid descriptor (R58, R59). -/
def routeLocal (w : Who) (d : RouteDesc) (s : State) : Except Stop RouteDone :=
  let reps := (List.range d.e).map (fun e => [2 ^ 31 + e * 2 ^ 16])
  match routeWork w d 0 reps s with
  | .error e => .error e
  | .ok f =>
    let recs := sortRecs f.recs
    let counts := (List.range d.e).flatMap (fun e => natLe 4 (recs.filter (fun x => decide (x.expert = e))).length)
    let tm := if d.tokmap = 0 then [] else [(d.tokmap, tokenMap d.tokens d.k recs)]
    match writeAll w ([(d.out, recs.flatMap RouteRec.bytesF), (d.counts, counts)] ++ tm) s with
    | .error e => .error e
    | .ok s => .ok (s, f)

/-- The effect of an RTE instruction from its descriptor address. -/
def routeFx (local_ : Bool) (die r : Nat) (x : DieEntry) (s : State) : Except Stop RouteDone :=
  let w : Who := { reach := .die, rope := r, core := x.core, id := 512 + die, tag := x.e.tag, pc := x.e.pc }
  let a := x.e.opA.toNat
  if a % 64 ≠ 0 then .error (.fault St.notPermitted a)
  else
    match rd w a 64 s with
    | .error e => .error e
    | .ok (bs, f) =>
      if f ≠ 0 then .error (.fault St.poison a)
      else
        let d := routeDesc bs
        if ! d.ok ∨ (local_ ∧ ! d.okF) then .error (.fault St.notPermitted 0)
        else if local_ then routeLocal w d s else routeFull w die r d s

/-- The slice load that a ROUTE makes before its first lookup, whether or not it faults later (R49). -/
def routeSlice (die r : Nat) (x : DieEntry) (s : State) : State :=
  match rd { reach := .die, rope := r, core := x.core, id := 512 + die } x.e.opA.toNat 64 s with
  | .error _ => s
  | .ok (bs, f) =>
    let d := routeDesc bs
    let b := layerEntry r d.layer s
    if f ≠ 0 ∨ x.e.opA.toNat % 64 ≠ 0 ∨ ! d.ok ∨ b.2 ≠ d.e ∨ ! inRegion r b.1 b.2 s then s
    else loadSlice die r d.layer b.1 b.2 s

/-- The instruction an RTE takes next: none begins before the one before it has signalled (R29, R261; log 19). -/
def pickDie (die : Nat) (s : State) : Option (Nat × DieEntry) :=
  let q := tget ({} : Rte) s.rtes die
  pickEntry q.lastRope (signalWaits (512 + die) s) (fun _ => true) q.queue s

/-- An instruction of an RTE as a unit (R263). -/
def rteWho (die : Nat) (x : DieEntry) : Who :=
  { reach := .die, rope := x.rope, core := x.core, id := 512 + die, tag := x.e.tag, pc := x.e.pc }

/-- Entry `i` of an RTE's queue has begun. -/
def beginRte (die i : Nat) (s : State) : State :=
  { s with rtes := tmod {} s.rtes die (fun q => { q with queue := beginAt i q.queue }) }

/-- R43: a ROUTE that saw a NaN-scored expert. -/
def routeNan (die r : Nat) (tag : BitVec 32) (f : RouteFound) (s : State) : State :=
  match f.nanRows with
  | [] => s
  | a :: t =>
    let first := t.foldl min a
    let s := if getF F.RTE_NAN_VALID [die] s = 1 then s
      else setF F.RTE_NAN_VALID [die] 1 (setF F.RTE_NAN_ROPE [die] r (setF F.RTE_NAN_FIRST_TOKEN [die] first s))
    let s := addF F.RTE_NAN_RECORDS_COUNT [die] (f.recs.filter (fun x => x.nan)).length s
    raiseEvent { status := St.nanSeen, cls := 3, source := 0x02, rope := some r, tag := tag.toNat, unit := die,
                 detail := natLe 4 first } s

/-- A fault of an RTE instruction (R32, R33). -/
def routeFault (die r : Nat) (x : DieEntry) (st a : Nat) (s : State) : State :=
  let s := setF F.RTE_STATUS_LAST_STATUS [die] st (setF F.RTE_STATUS_ROPE [die] r s)
  let s := addF F.RTE_ROUTES_FAULTED [die] 1 s
  let s := if getF F.RTE_FAULT_VALID [die] s = 1 then s
    else setF F.RTE_FAULT_VALID [die] 1 (setF F.RTE_FAULT_ROPE [die] r (setF F.RTE_FAULT_STATUS [die] st
      (setF F.RTE_FAULT_TAG [die] x.e.tag.toNat s)))
  engineFault r x.core 5 x.e.tag x.e.pc st a s

/-- The end of an RTE instruction that ran (R30, R40, R43). -/
def routeEnd (die r : Nat) (x : DieEntry) (f : RouteFound) (s : State) : State :=
  let s := setF F.RTE_STATUS_LAST_STATUS [die] 0 (setF F.RTE_STATUS_ROPE [die] r s)
  let s := addF F.RTE_RECORDS_RECORDS [die] f.recs.length (addF F.RTE_SHORT_TOKENS_COUNT [die] f.short s)
  let s := routeNan die r x.e.tag f (addF F.RTE_ROUTES_DONE [die] 1 s)
  settleSlots (signalEntry (512 + die) r x.core x.e s)

/-- Take entry `i` off an RTE's queue. -/
def popRte (die i r : Nat) (s : State) : State :=
  let q := tget ({} : Rte) s.rtes die
  setF F.RTE_STATUS_QUEUED [die] (q.queue.length - 1)
    { s with rtes := tset {} s.rtes die { q with queue := dropAt q.queue i, lastRope := r } }

/-- An RTE command of a die: the instruction whose turn it is runs when it is this operation. -/
def routeStep (local_ : Bool) (op die : Nat) (s : State) : State :=
  match pickDie die s with
  | none => s
  | some (i, x) =>
    if wf32 x.e.w0 27 20 ≠ op then s
    else
      let w := rteWho die x
      let p := popRte die i x.rope s
      let p := if local_ then p else routeSlice die x.rope x p
      match routeFx local_ die x.rope x p with
      | .error (.need l h o) => askLender w l h o (beginRte die i s)
      | .error (.fault st a) => routeFault die x.rope x st a (endAccess w.id st p)
      | .ok (t, f) => routeEnd die x.rope x f (endAccess w.id 0 t)

/-- ROUTE (R31). -/
def execRoute (die : Nat) (s : State) : Host.Outcome State Fault Refusal := runIf (decide (die < 8)) (routeStep false 0x01 die) s

/-- ROUTE_F (R58). -/
def execRouteF (die : Nat) (s : State) : Host.Outcome State Fault Refusal := runIf (decide (die < 8)) (routeStep true 0x02 die) s

end Sys2Proof.Machine
end

