-- ==== Sys2Proof/Machine/Vxe.lean ====
section
/-! DEFINITION. The vector engine (R316 to R322) and the VATADD rounds of reproducible mode (R415). -/

namespace Sys2Proof.Machine

open Sys2Proof

/-- Formats of vector arithmetic (R316). -/
def isArith (f : Nat) : Bool := decide (f = 1 ∨ f = 2 ∨ f = 3)

/-- The values an element-wise operation works on: its elements of A, B and C, and B's bits and format. -/
structure VArgs where
  a : FNum
  b : FNum
  c : FNum
  bits : Nat
  fmt : Nat
  deriving DecidableEq, Repr

/-- Which operands an operation reads as tiles. -/
structure VUses where
  a : Bool := false
  b : Bool := true
  c : Bool := false
  deriving DecidableEq, Repr

/-- Read an element if the operation uses that operand. -/
def readIf (use : Bool) (t : Tile) (w : Who) (m : ByteMap) (s : State) (r c : Nat) : Except Stop (FNum × Nat) :=
  if use then
    match t.raw w m s r c with
    | .error e => .error e
    | .ok x => match x.good t.format with | .error e => .error e | .ok v => .ok (v, x.bits)
  else .ok (.fin false 0 0, 0)

/-- Read the values of one element. -/
def readArgs (u : VUses) (ta tb tc : Tile) (w : Who) (m : ByteMap) (s : State) (r c : Nat) : Except Stop VArgs :=
  match readIf u.b tb w m s r c, readIf u.c tc w m s r c, readIf u.a ta w m s r c with
  | .error e, _, _ => .error e
  | _, .error e, _ => .error e
  | _, _, .error e => .error e
  | .ok b, .ok c, .ok a => .ok ⟨a.1, b.1, c.1, b.2, tb.format⟩

/-- The checks of an element-wise instruction (R303, R316). `exact`: it does not round. -/
def elemOk (u : VUses) (exact : Bool) (ta tb tc : Tile) (w : Who) (s : State) : Bool :=
  let srcs := (if u.a then [ta] else []) ++ (if u.b then [tb] else []) ++ (if u.c then [tc] else [])
  ta.ok w true s && isArith ta.format &&
  srcs.all (fun t => t.ok w false s && isArith t.format && decide (t.rows = ta.rows) && decide (t.cols = ta.cols) &&
    (! exact || decide (ta.format = 1) || decide (t.format = ta.format)))

/-- Every tile of an instruction is 16 bits wide or narrower (R323). -/
def narrow (l : List Tile) : Bool := l.all (fun t => decide (fmtBits t.format ≤ 16))

/-- An element-wise instruction (R316, R317, R318). `n32` and `n16` are its lanes (R323). -/
def elemFx (core : Nat) (u : VUses) (exact : Bool) (n32 n16 : Nat) (f : QEntry → VArgs → NumF) (r : Nat) (e : QEntry)
    (s : State) : EngOut :=
  let w := engWho 2 r core
  let ta := tileOf e.opA
  let tb := tileOf e.opB
  let tc := tileOf e.opC
  if ! elemOk u exact ta tb tc w s then .fail s St.notPermitted ta.base
  else
    let n := if narrow ([ta, tb] ++ (if u.c then [tc] else [])) then n16 else n32
    engOf (runTile w s ta.rows ta.cols n (fun m i j =>
      match readArgs u ta tb tc w m s i j with
      | .error x => .error x
      | .ok v => putNum e ta i j (.ok (f e v, 0)))) s

/-- An operation on B and C. -/
abbrev vBC : VUses := ⟨false, true, true⟩

/-- An operation on B. -/
abbrev vB : VUses := ⟨false, true, false⟩

/-- VADD (R318). -/
def vaddFx (core : Nat) : EngFx :=
  elemFx core vBC false 64 128 (fun _ v => numAdd v.b v.c)

/-- VADD. -/
def execVadd (core : Nat) (s : State) : Host.Outcome State Fault Refusal := engineRun 2 0x01 core (vaddFx core) s

/-- VSUB (R318). -/
def vsubFx (core : Nat) : EngFx :=
  elemFx core vBC false 64 128 (fun _ v => numAdd v.b (numNeg v.c))

/-- VSUB. -/
def execVsub (core : Nat) (s : State) : Host.Outcome State Fault Refusal := engineRun 2 0x02 core (vsubFx core) s

/-- VMUL (R318). -/
def vmulFx (core : Nat) : EngFx :=
  elemFx core vBC false 64 128 (fun _ v => numMul v.b v.c)

/-- VMUL. -/
def execVmul (core : Nat) (s : State) : Host.Outcome State Fault Refusal := engineRun 2 0x03 core (vmulFx core) s

/-- VFMA: A + B × C with one rounding (R318). -/
def vfmaFx (core : Nat) : EngFx :=
  elemFx core ⟨true, true, true⟩ false 64 128 (fun _ v => numFma v.a v.b v.c)

/-- VFMA. -/
def execVfma (core : Nat) (s : State) : Host.Outcome State Fault Refusal := engineRun 2 0x04 core (vfmaFx core) s

/-- VDIV (R318). -/
def vdivFx (core : Nat) : EngFx :=
  elemFx core vBC false 16 16 (fun _ v => numDiv v.b v.c)

/-- VDIV. -/
def execVdiv (core : Nat) (s : State) : Host.Outcome State Fault Refusal := engineRun 2 0x05 core (vdivFx core) s

/-- VMAX (R318, R237). -/
def vmaxFx (core : Nat) : EngFx :=
  elemFx core vBC true 64 128 (fun _ v => (numMax v.b v.c, 0))

/-- VMAX. -/
def execVmax (core : Nat) (s : State) : Host.Outcome State Fault Refusal := engineRun 2 0x06 core (vmaxFx core) s

/-- VMIN (R318, R237). -/
def vminFx (core : Nat) : EngFx :=
  elemFx core vBC true 64 128 (fun _ v => (numMin v.b v.c, 0))

/-- VMIN. -/
def execVmin (core : Nat) (s : State) : Host.Outcome State Fault Refusal := engineRun 2 0x07 core (vminFx core) s

/-- VABS (R318). -/
def vabsFx (core : Nat) : EngFx :=
  elemFx core vB true 64 128 (fun _ v => (numAbs v.b, 0))

/-- VABS. -/
def execVabs (core : Nat) (s : State) : Host.Outcome State Fault Refusal := engineRun 2 0x08 core (vabsFx core) s

/-- VNEG (R318). -/
def vnegFx (core : Nat) : EngFx :=
  elemFx core vB true 64 128 (fun _ v => (numNeg v.b, 0))

/-- VNEG. -/
def execVneg (core : Nat) (s : State) : Host.Outcome State Fault Refusal := engineRun 2 0x09 core (vnegFx core) s

/-- VSQRT (R318). -/
def vsqrtFx (core : Nat) : EngFx :=
  elemFx core vB false 16 16 (fun _ v => numSqrt v.b)

/-- VSQRT. -/
def execVsqrt (core : Nat) (s : State) : Host.Outcome State Fault Refusal := engineRun 2 0x0A core (vsqrtFx core) s

/-- A function of R319 of B. -/
def approxOf (op : Nat) (v : VArgs) : NumF := vxeFn op (op + 8 * v.fmt) (BitVec.ofNat 32 v.bits) v.b

/-- VRSQRT (R319). -/
def vrsqrtFx (core : Nat) : EngFx :=
  elemFx core vB false 16 16 (fun _ v => approxOf 2 v)

/-- VRSQRT. -/
def execVrsqrt (core : Nat) (s : State) : Host.Outcome State Fault Refusal := engineRun 2 0x0B core (vrsqrtFx core) s

/-- VEXP (R319). -/
def vexpFx (core : Nat) : EngFx :=
  elemFx core vB false 32 32 (fun _ v => approxOf 0 v)

/-- VEXP. -/
def execVexp (core : Nat) (s : State) : Host.Outcome State Fault Refusal := engineRun 2 0x0C core (vexpFx core) s

/-- VLOG (R319). -/
def vlogFx (core : Nat) : EngFx :=
  elemFx core vB false 32 32 (fun _ v => approxOf 1 v)

/-- VLOG. -/
def execVlog (core : Nat) (s : State) : Host.Outcome State Fault Refusal := engineRun 2 0x0D core (vlogFx core) s

/-- VTANH (R319). -/
def vtanhFx (core : Nat) : EngFx :=
  elemFx core vB false 32 32 (fun _ v => approxOf 3 v)

/-- VTANH. -/
def execVtanh (core : Nat) (s : State) : Host.Outcome State Fault Refusal := engineRun 2 0x0E core (vtanhFx core) s

/-- VSIGM (R319). -/
def vsigmFx (core : Nat) : EngFx :=
  elemFx core vB false 32 32 (fun _ v => approxOf 4 v)

/-- VSIGM. -/
def execVsigm (core : Nat) (s : State) : Host.Outcome State Fault Refusal := engineRun 2 0x0F core (vsigmFx core) s

/-- VSILU (R319). -/
def vsiluFx (core : Nat) : EngFx :=
  elemFx core vB false 16 16 (fun _ v => approxOf 5 v)

/-- VSILU. -/
def execVsilu (core : Nat) (s : State) : Host.Outcome State Fault Refusal := engineRun 2 0x10 core (vsiluFx core) s

/-- VGELU (R319). -/
def vgeluFx (core : Nat) : EngFx :=
  elemFx core vB false 16 16 (fun _ v => approxOf 6 v)

/-- VGELU. -/
def execVgelu (core : Nat) (s : State) : Host.Outcome State Fault Refusal := engineRun 2 0x11 core (vgeluFx core) s

/-- VMULS: B times the FP32 value in the low half of a g register (R318). -/
def vmulsFx (core : Nat) : EngFx :=
  elemFx core vB false 64 128 (fun e v => numMul v.b (fp32.decode (e.opC.toNat % 2 ^ 32)))

/-- VMULS. -/
def execVmuls (core : Nat) (s : State) : Host.Outcome State Fault Refusal := engineRun 2 0x12 core (vmulsFx core) s

/-! Reductions (R320). -/

/-- One level of the tree: neighbours are combined, a lone last node passes up. -/
def treeLevel (f : FNum → FNum → NumF) : List NumF → List NumF
  | a :: b :: t =>
    let x := f a.1 b.1
    (x.1, a.2 ||| b.2 ||| x.2) :: treeLevel f t
  | l => l

/-- The tree of R320, level after level. -/
def treeReduce (f : FNum → FNum → NumF) : Nat → List NumF → NumF
  | _, [a] => a
  | 0, _ => (.fin false 0 0, 0)
  | k + 1, l => treeReduce f k (treeLevel f l)

/-- Read a row of B, which must be good. -/
def readRow (t : Tile) (w : Who) (m : ByteMap) (s : State) (r : Nat) : List Nat → Except Stop (List NumF)
  | [] => .ok []
  | c :: l =>
    match t.num w m s r c with
    | .error e => .error e
    | .ok v => match readRow t w m s r l with | .error e => .error e | .ok x => .ok ((v, 0) :: x)

/-- A reduction of each row of B into the one column of A. -/
def reduceFx (core : Nat) (exact : Bool) (f : FNum → FNum → NumF) (r : Nat) (e : QEntry) (s : State) : EngOut :=
  let w := engWho 2 r core
  let ta := tileOf e.opA
  let tb := tileOf e.opB
  if ! (ta.ok w true s && tb.ok w false s && isArith ta.format && isArith tb.format && decide (ta.rows = tb.rows) &&
      decide (ta.cols = 1) && (! exact || decide (ta.format = 1) || decide (ta.format = tb.format))) then
    .fail s St.notPermitted ta.base
  else
    engOf (runTile w s ta.rows 1 1 (fun m i j =>
      match readRow tb w m s i (List.range tb.cols) with
      | .error x => .error x
      | .ok l => putNum e ta i j (.ok (treeReduce f 17 l, 0)))) s

/-- VRSUM (R320). -/
def vrsumFx (core : Nat) : EngFx :=
  reduceFx core false f32Add

/-- VRSUM. -/
def execVrsum (core : Nat) (s : State) : Host.Outcome State Fault Refusal := engineRun 2 0x18 core (vrsumFx core) s

/-- VRMAX (R320). -/
def vrmaxFx (core : Nat) : EngFx :=
  reduceFx core true (fun a b => (numMax a b, 0))

/-- VRMAX. -/
def execVrmax (core : Nat) (s : State) : Host.Outcome State Fault Refusal := engineRun 2 0x19 core (vrmaxFx core) s

/-- VRMIN (R320). -/
def vrminFx (core : Nat) : EngFx :=
  reduceFx core true (fun a b => (numMin a b, 0))

/-- VRMIN. -/
def execVrmin (core : Nat) (s : State) : Host.Outcome State Fault Refusal := engineRun 2 0x1A core (vrminFx core) s

/-- VCVT (R321). -/
def vcvtFx (core : Nat) : EngFx :=
  fun r e s =>
    let w := engWho 2 r core
    let ta := tileOf e.opA
    let tb := tileOf e.opB
    if ! (ta.ok w true s && tb.ok w false s && isNumFmt ta.format && isNumFmt tb.format && decide (ta.rows = tb.rows) &&
        decide (ta.cols = tb.cols)) then .fail s St.notPermitted ta.base
    else
      engOf (convertTile w e ta (if narrow [ta, tb] then 128 else 64) (fun m i j =>
        match tb.raw w m s i j with
        | .error x => .error x
        | .ok v => if v.poison = 0 then .ok (v.src tb.format ta.format) else .error (.fault v.poison v.badAddr)) s) s

/-- VCVT. -/
def execVcvt (core : Nat) (s : State) : Host.Outcome State Fault Refusal := engineRun 2 0x20 core (vcvtFx core) s

/-! Atomics (R322, R415). -/

/-- A ← A op B, element by element. -/
abbrev vAtomic : VUses := ⟨true, true, false⟩

/-- VATMAX (R322). -/
def vatmaxFx (core : Nat) : EngFx :=
  elemFx core vAtomic true 32 32 (fun _ v => (numMax v.a v.b, 0))

/-- VATMAX. -/
def execVatmax (core : Nat) (s : State) : Host.Outcome State Fault Refusal := engineRun 2 0x29 core (vatmaxFx core) s

/-- VATADD in fast mode: its adds reach the store when it runs (R322). -/
def vataddFx (core r : Nat) (e : QEntry) (s : State) : EngOut :=
  elemFx core vAtomic false 32 32 (fun _ v => numAdd v.a v.b) r e s

/-- Core `c` has a VATADD at the head of its VXE queue with its waits satisfied. -/
def vatReady (r c : Nat) (s : State) : Option QEntry :=
  match (coreOf c s).vxeQ with
  | e :: _ => if wf32 e.w0 27 20 = 0x28 ∧ waitsHold r c e s then some e else none
  | [] => none

/-- One element a VATADD adds to: its address, the rope core index, the core, the entry, its place in the tile. -/
structure VatPart where
  addr : Nat
  idx : Nat
  core : Nat
  e : QEntry
  row : Nat
  col : Nat
  deriving DecidableEq, Repr

/-- Insert by element address and then by rope core index (R415). -/
def vatInsert (x : VatPart) : List VatPart → List VatPart
  | [] => [x]
  | y :: t => if x.addr < y.addr ∨ (x.addr = y.addr ∧ x.idx < y.idx) then x :: y :: t else y :: vatInsert x t

/-- The elements a core's VATADD adds to. -/
def vatParts (r c : Nat) (e : QEntry) (s : State) : List VatPart :=
  let t := tileOf e.opA
  (positions t.rows t.cols).map (fun p =>
    ⟨normAddr (engWho 2 r c) (t.elemAddr p.1 p.2).1 s, ropeCoreIdx r c s, c, e, p.1, p.2⟩)

/-- Apply the parts of a round in order: the bytes written and the flags by core. -/
def vatApply (r : Nat) (s : State) : List VatPart → ByteMap → Tab Word → ByteMap × Tab Word
  | [], m, fl => (m, fl)
  | x :: t, m, fl =>
    let w := engWho 2 r x.core
    let ta := tileOf x.e.opA
    match readArgs vAtomic ta (tileOf x.e.opB) (tileOf x.e.opC) w m s x.row x.col with
    | .error _ => vatApply r s t m fl
    | .ok v =>
      match putNum x.e ta x.row x.col (.ok (numAdd v.a v.b, 0)) with
      | .error _ => vatApply r s t m fl
      | .ok (p, f) => vatApply r s t (bmPuts w s m p) (tset 0 fl x.core (tget 0 fl x.core ||| f))

/-- A round of a cluster of rope `r` (R415): it starts when every enabled core has its VATADD at the head or has completed. -/
def vatRound (r q : Nat) (s : State) : State :=
  let cores := (ropeCores r s).filter (fun c => decide (c / 8 = q))
  let heads := cores.filterMap (fun c => (vatReady r c s).map (fun e => (c, e)))
  if ! cores.all (fun c => coreDone c s || (vatReady r c s).isSome) then s
  else
    let res := heads.map (fun h => (h.1, h.2, vataddFx h.1 r h.2 s))
    match res.findSome? (fun h => match h.2.2 with | .need l k o => some (h.1, l, k, o) | _ => none) with
    | some (c, l, k, o) => askLender (engWho 2 r c) l k o s
    | none =>
    let good := res.filter (fun h => match h.2.2 with | .done _ _ => true | _ => false)
    let parts := (good.flatMap (fun h => vatParts r h.1 h.2.1 s)).foldl (fun l x => vatInsert x l) []
    let (m, fl) := vatApply r s parts [] []
    let s := forList heads s (fun h => popEngine 2 h.1)
    let s := match applyRuns { reach := .all, rope := r, core := q * 8, id := 3072 + q } (bmRuns m) s with | .ok t => t | .error _ => s
    let s := forList good s (fun h => endEngine 2 r h.1 h.2.1 (tget 0 fl h.1))
    forList res s (fun h s => match h.2.2 with
      | .fail _ st a => engineFault r h.1 2 h.2.1.tag h.2.1.pc st a s
      | _ => s)

/-- VATADD (R322): at once in fast mode, in rounds of its cluster in reproducible mode (R415). -/
def execVatadd (core : Nat) (s : State) : Host.Outcome State Fault Refusal :=
  match ropeOfCore core s with
  | some r =>
    if repro r s then
      runIf (decide (core < 512)) (fun s =>
        if ropeState r s = RopeSt.running ∧ (vatReady r core s).isSome then vatRound r (core / 8) s else s) s
    else engineRun 2 0x28 core (vataddFx core) s
  | none => engineRun 2 0x28 core (vataddFx core) s

end Sys2Proof.Machine
end

