-- ==== Sys2Proof/Machine/Dispatch.lean ====
section
/-! DEFINITION. Every command to its meaning: one arm per constructor of `Instr`. -/

namespace Sys2Proof.Machine

open Sys2Proof

/-- The effect of a command on everything but the queue. -/
def exec (i : Instr) (s : State) : Host.Outcome State Fault Refusal :=
  match i with
  | .registerWrite fn off size data => Sys2Proof.Machine.execRegisterWrite fn off size data s
  | .latchedSetCapture fn addr size => Sys2Proof.Machine.execLatchedSetCapture fn addr size s
  | .nop core => Sys2Proof.Machine.execNop core s
  | .alu core => Sys2Proof.Machine.execAlu core s
  | .addi core => Sys2Proof.Machine.execAddi core s
  | .andi core => Sys2Proof.Machine.execAndi core s
  | .ori core => Sys2Proof.Machine.execOri core s
  | .xori core => Sys2Proof.Machine.execXori core s
  | .shli core => Sys2Proof.Machine.execShli core s
  | .shrli core => Sys2Proof.Machine.execShrli core s
  | .shrai core => Sys2Proof.Machine.execShrai core s
  | .muli core => Sys2Proof.Machine.execMuli core s
  | .ins16 core => Sys2Proof.Machine.execIns16 core s
  | .li core => Sys2Proof.Machine.execLi core s
  | .cmp core => Sys2Proof.Machine.execCmp core s
  | .plog core => Sys2Proof.Machine.execPlog core s
  | .ld8u core => Sys2Proof.Machine.execLd8u core s
  | .ld16u core => Sys2Proof.Machine.execLd16u core s
  | .ld32u core => Sys2Proof.Machine.execLd32u core s
  | .ld64 core => Sys2Proof.Machine.execLd64 core s
  | .ld8s core => Sys2Proof.Machine.execLd8s core s
  | .ld16s core => Sys2Proof.Machine.execLd16s core s
  | .ld32s core => Sys2Proof.Machine.execLd32s core s
  | .st8 core => Sys2Proof.Machine.execSt8 core s
  | .st16 core => Sys2Proof.Machine.execSt16 core s
  | .st32 core => Sys2Proof.Machine.execSt32 core s
  | .st64 core => Sys2Proof.Machine.execSt64 core s
  | .br core => Sys2Proof.Machine.execBr core s
  | .call core => Sys2Proof.Machine.execCall core s
  | .jmpr core => Sys2Proof.Machine.execJmpr core s
  | .endProgram core => Sys2Proof.Machine.execEndProgram core s
  | .icinv core => Sys2Proof.Machine.execIcinv core s
  | .mfc core => Sys2Proof.Machine.execMfc core s
  | .mtc core => Sys2Proof.Machine.execMtc core s
  | .wait core => Sys2Proof.Machine.execWait core s
  | .signal core => Sys2Proof.Machine.execSignal core s
  | .brd core => Sys2Proof.Machine.execBrd core s
  | .tld core => Sys2Proof.Machine.execTld core s
  | .tst core => Sys2Proof.Machine.execTst core s
  | .tset core => Sys2Proof.Machine.execTset core s
  | .tget core => Sys2Proof.Machine.execTget core s
  | .tadd core => Sys2Proof.Machine.execTadd core s
  | .engineInstructionIssue core => Sys2Proof.Machine.execEngineInstructionIssue core s
  | .queueCommandIssue core => Sys2Proof.Machine.execQueueCommandIssue core s
  | .mclr core => Sys2Proof.Machine.execMclr core s
  | .mld core => Sys2Proof.Machine.execMld core s
  | .mma core => Sys2Proof.Machine.execMma core s
  | .mma24 core => Sys2Proof.Machine.execMma24 core s
  | .mma14 core => Sys2Proof.Machine.execMma14 core s
  | .mst core => Sys2Proof.Machine.execMst core s
  | .mstc core => Sys2Proof.Machine.execMstc core s
  | .vadd core => Sys2Proof.Machine.execVadd core s
  | .vsub core => Sys2Proof.Machine.execVsub core s
  | .vmul core => Sys2Proof.Machine.execVmul core s
  | .vfma core => Sys2Proof.Machine.execVfma core s
  | .vdiv core => Sys2Proof.Machine.execVdiv core s
  | .vmax core => Sys2Proof.Machine.execVmax core s
  | .vmin core => Sys2Proof.Machine.execVmin core s
  | .vabs core => Sys2Proof.Machine.execVabs core s
  | .vneg core => Sys2Proof.Machine.execVneg core s
  | .vsqrt core => Sys2Proof.Machine.execVsqrt core s
  | .vrsqrt core => Sys2Proof.Machine.execVrsqrt core s
  | .vexp core => Sys2Proof.Machine.execVexp core s
  | .vlog core => Sys2Proof.Machine.execVlog core s
  | .vtanh core => Sys2Proof.Machine.execVtanh core s
  | .vsigm core => Sys2Proof.Machine.execVsigm core s
  | .vsilu core => Sys2Proof.Machine.execVsilu core s
  | .vgelu core => Sys2Proof.Machine.execVgelu core s
  | .vmuls core => Sys2Proof.Machine.execVmuls core s
  | .vrsum core => Sys2Proof.Machine.execVrsum core s
  | .vrmax core => Sys2Proof.Machine.execVrmax core s
  | .vrmin core => Sys2Proof.Machine.execVrmin core s
  | .vcvt core => Sys2Proof.Machine.execVcvt core s
  | .vatadd core => Sys2Proof.Machine.execVatadd core s
  | .vatmax core => Sys2Proof.Machine.execVatmax core s
  | .minter core => Sys2Proof.Machine.execMinter core s
  | .munion core => Sys2Proof.Machine.execMunion core s
  | .mgroup core => Sys2Proof.Machine.execMgroup core s
  | .dmove core => Sys2Proof.Machine.execDmove core s
  | .dcomp core => Sys2Proof.Machine.execDcomp core s
  | .dilist core => Sys2Proof.Machine.execDilist core s
  | .dfill core => Sys2Proof.Machine.execDfill core s
  | .dhist core => Sys2Proof.Machine.execDhist core s
  | .route die => Sys2Proof.Machine.execRoute die s
  | .routeF die => Sys2Proof.Machine.execRouteF die s
  | .exchange die => Sys2Proof.Machine.execExchange die s
  | .cancelBatch die => Sys2Proof.Machine.execCancelBatch die s
  | .xcountReceive die => Sys2Proof.Machine.execXcountReceive die s
  | .earlyCellExpire die idx => Sys2Proof.Machine.execEarlyCellExpire die idx s
  | .grantPhase die tag => Sys2Proof.Machine.execGrantPhase die tag s
  | .xgrantReceive die => Sys2Proof.Machine.execXgrantReceive die s
  | .xcancelReceive die => Sys2Proof.Machine.execXcancelReceive die s
  | .bulkMessageSend die => Sys2Proof.Machine.execBulkMessageSend die s
  | .returnMessageSend die pos => Sys2Proof.Machine.execReturnMessageSend die pos s
  | .exchangeTimeout die tag => Sys2Proof.Machine.execExchangeTimeout die tag s
  | .exchangeComplete die tag => Sys2Proof.Machine.execExchangeComplete die tag s
  | .portEnable fn port => Sys2Proof.Machine.execPortEnable fn port s
  | .portDisable fn port => Sys2Proof.Machine.execPortDisable fn port s
  | .trainingComplete port cable lanes params delay => Sys2Proof.Machine.execTrainingComplete port cable lanes params delay s
  | .trainingAttemptTimeout attempt => Sys2Proof.Machine.execTrainingAttemptTimeout attempt s
  | .trainingPassRestart port => Sys2Proof.Machine.execTrainingPassRestart port s
  | .downHoldoffExpire port => Sys2Proof.Machine.execDownHoldoffExpire port s
  | .plannedRetrain fn port => Sys2Proof.Machine.execPlannedRetrain fn port s
  | .retrainReq port kind width => Sys2Proof.Machine.execRetrainReq port kind width s
  | .retrainAck port => Sys2Proof.Machine.execRetrainAck port s
  | .retrainComplete port => Sys2Proof.Machine.execRetrainComplete port s
  | .retrainTimeout port => Sys2Proof.Machine.execRetrainTimeout port s
  | .laneDrop port lane => Sys2Proof.Machine.execLaneDrop port lane s
  | .flitReceive port lanes fec => Sys2Proof.Machine.execFlitReceive port lanes fec s
  | .nakRepeat port => Sys2Proof.Machine.execNakRepeat port s
  | .nakReceive port ack => Sys2Proof.Machine.execNakReceive port ack s
  | .replayTimerExpire port => Sys2Proof.Machine.execReplayTimerExpire port s
  | .lossOfSignal port => Sys2Proof.Machine.execLossOfSignal port s
  | .downNoticeReceive port cause => Sys2Proof.Machine.execDownNoticeReceive port cause s
  | .linkPacketReceive port => Sys2Proof.Machine.execLinkPacketReceive port s
  | .switchAdmit inp vc => Sys2Proof.Machine.execSwitchAdmit inp vc s
  | .outputSchedule out => Sys2Proof.Machine.execOutputSchedule out s
  | .calendarSlotStart port => Sys2Proof.Machine.execCalendarSlotStart port s
  | .congestionSample => Sys2Proof.Machine.execCongestionSample s
  | .recoveryEnd => Sys2Proof.Machine.execRecoveryEnd s
  | .peakClear fn out => Sys2Proof.Machine.execPeakClear fn out s
  | .geometryWrite fn value => Sys2Proof.Machine.execGeometryWrite fn value s
  | .ringNoticeReceive => Sys2Proof.Machine.execRingNoticeReceive s
  | .ringNoticeRepeat idx => Sys2Proof.Machine.execRingNoticeRepeat idx s
  | .pathEpochBump fn => Sys2Proof.Machine.execPathEpochBump fn s
  | .messageStart => Sys2Proof.Machine.execMessageStart s
  | .packetArrive unit => Sys2Proof.Machine.execPacketArrive unit s
  | .mackReceive => Sys2Proof.Machine.execMackReceive s
  | .messageTimeout dest cred => Sys2Proof.Machine.execMessageTimeout dest cred s
  | .cackReceive => Sys2Proof.Machine.execCackReceive s
  | .cellTimeout dest kind seq => Sys2Proof.Machine.execCellTimeout dest kind seq s
  | .msgEntryExpire srcAddr cred => Sys2Proof.Machine.execMsgEntryExpire srcAddr cred s
  | .trafficHoldExpire => Sys2Proof.Machine.execTrafficHoldExpire s
  | .unreachableClear fn addr => Sys2Proof.Machine.execUnreachableClear fn addr s
  | .planFlip plan => Sys2Proof.Machine.execPlanFlip plan s
  | .slotDrainComplete port slot => Sys2Proof.Machine.execSlotDrainComplete port slot s
  | .collectiveStart chan => Sys2Proof.Machine.execCollectiveStart chan s
  | .collStepSend chan level sub gather part pitch => Sys2Proof.Machine.execCollStepSend chan level sub gather part pitch s
  | .collMessageProcess port => Sys2Proof.Machine.execCollMessageProcess port s
  | .colCreditReceive port => Sys2Proof.Machine.execColCreditReceive port s
  | .colAbortReceive port => Sys2Proof.Machine.execColAbortReceive port s
  | .collWatchdogExpire chan level sub credit => Sys2Proof.Machine.execCollWatchdogExpire chan level sub credit s
  | .collComplete chan => Sys2Proof.Machine.execCollComplete chan s
  | .channelOwn fn chan owner => Sys2Proof.Machine.execChannelOwn fn chan owner s
  | .channelAbort fn chan => Sys2Proof.Machine.execChannelAbort fn chan s
  | .commandWindowWrite fn off data => Sys2Proof.Machine.execCommandWindowWrite fn off data s
  | .mirrorWrite q => Sys2Proof.Machine.execMirrorWrite q s
  | .queueEnable fn q => Sys2Proof.Machine.execQueueEnable fn q s
  | .queueDisable fn q => Sys2Proof.Machine.execQueueDisable fn q s
  | .nopCommand src => Sys2Proof.Machine.execNopCommand src s
  | .ropeCreate src => Sys2Proof.Machine.execRopeCreate src s
  | .ropeStart src => Sys2Proof.Machine.execRopeStart src s
  | .ropeSuspend src => Sys2Proof.Machine.execRopeSuspend src s
  | .suspendSave rope => Sys2Proof.Machine.execSuspendSave rope s
  | .ropeResume src => Sys2Proof.Machine.execRopeResume src s
  | .resumeComplete rope => Sys2Proof.Machine.execResumeComplete rope s
  | .ropeReset src => Sys2Proof.Machine.execRopeReset src s
  | .ropeDestroy src => Sys2Proof.Machine.execRopeDestroy src s
  | .tableWrite src => Sys2Proof.Machine.execTableWrite src s
  | .tableWriteDeferred => Sys2Proof.Machine.execTableWriteDeferred s
  | .tableCommit src => Sys2Proof.Machine.execTableCommit src s
  | .copyBackComplete idx => Sys2Proof.Machine.execCopyBackComplete idx s
  | .collective src => Sys2Proof.Machine.execCollective src s
  | .collAbort src => Sys2Proof.Machine.execCollAbort src s
  | .stepMark src => Sys2Proof.Machine.execStepMark src s
  | .stepBoundary rope => Sys2Proof.Machine.execStepBoundary rope s
  | .composeCfg src => Sys2Proof.Machine.execComposeCfg src s
  | .seqAdd src => Sys2Proof.Machine.execSeqAdd src s
  | .seqCancel src => Sys2Proof.Machine.execSeqCancel src s
  | .composerStep rope => Sys2Proof.Machine.execComposerStep rope s
  | .programComplete rope => Sys2Proof.Machine.execProgramComplete rope s
  | .ddr5ChannelTrained ch cached ok => Sys2Proof.Machine.execDdr5ChannelTrained ch cached ok s
  | .patrolScrubRead m upset word => Sys2Proof.Machine.execPatrolScrubRead m upset word s
  | .pageCommand fn value => Sys2Proof.Machine.execPageCommand fn value s
  | .pageScrubComplete => Sys2Proof.Machine.execPageScrubComplete s
  | .scheduleWrite fn rope addr => Sys2Proof.Machine.execScheduleWrite fn rope addr s
  | .prefetchDemand die tag => Sys2Proof.Machine.execPrefetchDemand die tag s
  | .prefetchPieceIssue die => Sys2Proof.Machine.execPrefetchPieceIssue die s
  | .speculativeFill die => Sys2Proof.Machine.execSpeculativeFill die s
  | .pieceLand die idx => Sys2Proof.Machine.execPieceLand die idx s
  | .lendWindowOpen fn win => Sys2Proof.Machine.execLendWindowOpen fn win s
  | .lendWindowClose fn win => Sys2Proof.Machine.execLendWindowClose fn win s
  | .mreadReceive m => Sys2Proof.Machine.execMreadReceive m s
  | .bpmAllocate who pool => Sys2Proof.Machine.execBpmAllocate who pool s
  | .bpmFree who handle => Sys2Proof.Machine.execBpmFree who handle s
  | .bpmHandOff who handle owner => Sys2Proof.Machine.execBpmHandOff who handle owner s
  | .bpmRefill pool => Sys2Proof.Machine.execBpmRefill pool s
  | .poolEnable fn pool => Sys2Proof.Machine.execPoolEnable fn pool s
  | .poolInitComplete pool => Sys2Proof.Machine.execPoolInitComplete pool s
  | .poolDisable fn pool => Sys2Proof.Machine.execPoolDisable fn pool s
  | .poolReclaim fn pool => Sys2Proof.Machine.execPoolReclaim fn pool s
  | .sealRequest fn addr => Sys2Proof.Machine.execSealRequest fn addr s
  | .sealRun => Sys2Proof.Machine.execSealRun s
  | .sealComplete => Sys2Proof.Machine.execSealComplete s
  | .lockstepArm fn rope => Sys2Proof.Machine.execLockstepArm fn rope s
  | .lockstepDisarm fn rope => Sys2Proof.Machine.execLockstepDisarm fn rope s
  | .lockstepRelease fn rope => Sys2Proof.Machine.execLockstepRelease fn rope s
  | .checkpointDigestDone rope => Sys2Proof.Machine.execCheckpointDigestDone rope s
  | .lockstepInboxWrite fn rope idx data => Sys2Proof.Machine.execLockstepInboxWrite fn rope idx data s
  | .deviceWakeActive => Sys2Proof.Machine.execDeviceWakeActive s
  | .deviceIdleTimeout => Sys2Proof.Machine.execDeviceIdleTimeout s
  | .standbyEnter fn => Sys2Proof.Machine.execStandbyEnter fn s
  | .standbyExit fn => Sys2Proof.Machine.execStandbyExit fn s
  | .holdRelease fn => Sys2Proof.Machine.execHoldRelease fn s
  | .clusterIdleTimeout cluster => Sys2Proof.Machine.execClusterIdleTimeout cluster s
  | .powerSample moduleW packageW inputMv => Sys2Proof.Machine.execPowerSample moduleW packageW inputMv s
  | .powerDecision => Sys2Proof.Machine.execPowerDecision s
  | .thermalSample dies dimm sustained notice => Sys2Proof.Machine.execThermalSample dies dimm sustained notice s
  | .hotSwapOpen => Sys2Proof.Machine.execHotSwapOpen s
  | .inputLoss => Sys2Proof.Machine.execInputLoss s
  | .insertion modules => Sys2Proof.Machine.execInsertion modules s
  | .bootRomStart puf straps => Sys2Proof.Machine.execBootRomStart puf straps s
  | .vuolaStart => Sys2Proof.Machine.execVuolaStart s
  | .orderlyRemoval fn => Sys2Proof.Machine.execOrderlyRemoval fn s
  | .hotplugAttentionRequest => Sys2Proof.Machine.execHotplugAttentionRequest s
  | .removalComplete => Sys2Proof.Machine.execRemovalComplete s
  | .quoteRequest fn addr => Sys2Proof.Machine.execQuoteRequest fn addr s
  | .quoteComplete => Sys2Proof.Machine.execQuoteComplete s
  | .mctpControl msg => Sys2Proof.Machine.execMctpControl msg s
  | .pldmBase msg => Sys2Proof.Machine.execPldmBase msg s
  | .pldmFwTransfer comp off data => Sys2Proof.Machine.execPldmFwTransfer comp off data s
  | .pldmFwVerify => Sys2Proof.Machine.execPldmFwVerify s
  | .pldmFwActivate => Sys2Proof.Machine.execPldmFwActivate s
  | .getCert off len => Sys2Proof.Machine.execGetCert off len s
  | .getQuote nonce part => Sys2Proof.Machine.execGetQuote nonce part s
  | .setManagers hashes => Sys2Proof.Machine.execSetManagers hashes s
  | .kemInit => Sys2Proof.Machine.execKemInit s
  | .mop => Sys2Proof.Machine.execMop s
  | .sessionExpire session => Sys2Proof.Machine.execSessionExpire session s
  | .syncReceive => Sys2Proof.Machine.execSyncReceive s
  | .syncTimeout => Sys2Proof.Machine.execSyncTimeout s
  | .eventRingEnable fn => Sys2Proof.Machine.execEventRingEnable fn s
  | .moderationExpire => Sys2Proof.Machine.execModerationExpire s
  | .belayQuery fn idx => Sys2Proof.Machine.execBelayQuery fn idx s
  | .computeReset fn dies => Sys2Proof.Machine.execComputeReset fn dies s
  | .vuolaComputeReset dies => Sys2Proof.Machine.execVuolaComputeReset dies s
  | .deviceReset fn => Sys2Proof.Machine.execDeviceReset fn s
  | .basecampReset fn => Sys2Proof.Machine.execBasecampReset fn s
  | .pfFunctionLevelReset => Sys2Proof.Machine.execPfFunctionLevelReset s
  | .vfFunctionLevelReset vf => Sys2Proof.Machine.execVfFunctionLevelReset vf s
  | .pcieHotReset => Sys2Proof.Machine.execPcieHotReset s
  | .perstAssert => Sys2Proof.Machine.execPerstAssert s
  | .watchdogExpire second => Sys2Proof.Machine.execWatchdogExpire second s
  | .numvfsLower n => Sys2Proof.Machine.execNumvfsLower n s
  | .pwrDisAssert => Sys2Proof.Machine.execPwrDisAssert s
  | .pwrDisDeassert => Sys2Proof.Machine.execPwrDisDeassert s
  | .flashExtAssert => Sys2Proof.Machine.execFlashExtAssert s
  | .flashExtDeassert => Sys2Proof.Machine.execFlashExtDeassert s
  | .bar4Read off len => Sys2Proof.Machine.execBar4Read off len s
  | .bar4Write off data ep => Sys2Proof.Machine.execBar4Write off data ep s
  | .perstDeassert gen width => Sys2Proof.Machine.execPerstDeassert gen width s
  | .inputRestored => Sys2Proof.Machine.execInputRestored s
  | .numvfsRaise n => Sys2Proof.Machine.execNumvfsRaise n s
  | .bar4Resize log2 => Sys2Proof.Machine.execBar4Resize log2 s

end Sys2Proof.Machine
end

