-- ==== Sys2Proof/Machine/Tick.lean ====
section
/-! DEFINITION. What passes while no command waits: time and core cycles (R250, R465, log 1). -/

namespace Sys2Proof.Machine

open Sys2Proof

/-- The clock of a throttle step in MHz (R438). -/
def clockMhz (step : Nat) : Nat := 1200 - 100 * min step 9

/-- The clocks of a rope's RUNNING clusters run for 1 ns: thousandths of a core cycle, by rope cluster (R250, R432, R438). -/
def ropeCycles (r : Nat) (s : State) : Tab Nat :=
  ((ropeClusters r s).zipIdx.filter (fun x => decide (clusterState x.1 s = Cl.running))).foldl
    (fun t x => tset 0 t x.2 (tget 0 t x.2 + clockMhz (getF F.BC_CLUSTER_STEP [x.1] s))) (ropeOf r s).cycles

/-- Core cycles of every rope that is not suspended (R250). -/
def countCycles (s : State) : State :=
  forList ((List.range 16).filter (fun r => ropeState r s ≠ RopeSt.none ∧ ropeState r s ≠ RopeSt.suspended)) s
    (fun r s => modRope r (fun k => { k with cycles := ropeCycles r s }) s)

/-- The block idles for 1 ns: the cycle counters advance, and TIME while the device is powered, unless the servo holds it still
for the nanoseconds that are left (R250, R465, R467, log 1, log 58). -/
def tick (s : State) : State :=
  let s := countCycles s
  if s.bc.stage = 0 then s
  else if 0 < s.bc.timeHold then { s with bc := { s.bc with timeHold := s.bc.timeHold - 1 } }
  else setR .BC_TIME [] (getR .BC_TIME [] s + 1) s

end Sys2Proof.Machine
end

