-- ==== Sys2Proof/Safety.lean ====
section
/-! DEFINITION. The terms the claims use: what a command leaves unchanged, when a core stands at an instruction, and what it is
to retire one. Nothing faults (Machine/State.lean), so a safe step is one that keeps memory in its canonical form. -/

namespace Sys2Proof.Machine

open Sys2Proof

/-! Frames. -/

/-- The parts of the state, but for the queue and what is sent out. -/
inductive Part where
  | regs
  | latch
  | fns
  | mem
  | cores
  | ropes
  | rtes
  | xes
  | msgs
  | ports
  | switch
  | chans
  | queues
  | instrCmds
  | tables
  | pools
  | belays
  | pf
  | sched
  | reads
  | readSeq
  | writes
  | heldSigs
  | seals
  | sealing
  | lockstep
  | bc
  | pins
  | pcie
  | events
  | scrubPos
  | fresh
  deriving DecidableEq, Repr

/-- The two states agree on a part. -/
def Part.same (s t : State) : Part → Prop
  | .regs => t.regs = s.regs
  | .latch => t.latch = s.latch
  | .fns => t.fns = s.fns
  | .mem => t.mem = s.mem
  | .cores => t.cores = s.cores
  | .ropes => t.ropes = s.ropes
  | .rtes => t.rtes = s.rtes
  | .xes => t.xes = s.xes
  | .msgs => t.msgs = s.msgs
  | .ports => t.ports = s.ports
  | .switch => t.switch = s.switch
  | .chans => t.chans = s.chans
  | .queues => t.queues = s.queues
  | .instrCmds => t.instrCmds = s.instrCmds
  | .tables => t.tables = s.tables
  | .pools => t.pools = s.pools
  | .belays => t.belays = s.belays
  | .pf => t.pf = s.pf
  | .sched => t.sched = s.sched
  | .reads => t.reads = s.reads
  | .readSeq => t.readSeq = s.readSeq
  | .writes => t.writes = s.writes
  | .heldSigs => t.heldSigs = s.heldSigs
  | .seals => t.seals = s.seals
  | .sealing => t.sealing = s.sealing
  | .lockstep => t.lockstep = s.lockstep
  | .bc => t.bc = s.bc
  | .pins => t.pins = s.pins
  | .pcie => t.pcie = s.pcie
  | .events => t.events = s.events
  | .scrubPos => t.scrubPos = s.scrubPos
  | .fresh => t.fresh = s.fresh

/-- From `s` to `t` nothing changed but the parts named and what is sent out: the queue and every other part are as before. -/
def Only (ps : List Part) (s t : State) : Prop := t.pending = s.pending ∧ ∀ p, p ∉ ps → p.same s t

/-- Every BAR0 register but those named reads as before. -/
def RegsOnly (l : List (Reg × List Nat)) (s t : State) : Prop :=
  ∀ r ix, regOff r ix ∉ l.map (fun e => regOff e.1 e.2) → getR r ix t = getR r ix s

/-- The command is done and nothing but what is sent out has changed: it sends nothing. -/
def Quiet (s : State) : State := { s with out := [] }

/-- The canonical form of memory (R346, R349): the invariant every step keeps. -/
def MemOk (s : State) : Prop := s.mem.wf = true

/-! The sequencer (R248, R249, R275). -/

/-- Core `c` of running rope `r` stands at the fetched instruction `f`, which decodes to `op`; `s'` is the state after the
fetch, which only fills the instruction cache. -/
structure AtOp (c r : Nat) (f : Fetched) (op : SeqOp) (s s' : State) : Prop where
  core : c < 512
  rope : ropeOfCore c s = some r
  running : ropeState r s = RopeSt.running
  active : (coreOf c s).running = true
  fetch : fetchInstr r c (Quiet s) = .ok (f, s')
  decoded : f.op = some op

/-- The same, with a predicate that is 1 (R249, R279). -/
structure Runs (c r : Nat) (f : Fetched) (op : SeqOp) (s s' : State) : Prop extends AtOp c r f op s s' where
  pred : (coreOf c s').getP f.pred = true

/-- The PC that follows the instruction. -/
def pcAfter (c : Nat) (f : Fetched) (s : State) : BitVec 48 := (coreOf c s).pc + BitVec.ofNat 48 f.len

/-- Core `c` retired an instruction: its registers are those of `k` but for the PC, an issue number one higher, no wait, and
what the fetch cached; every other core is as before (R248, R249). -/
def Retired (c : Nat) (pc : BitVec 48) (k : Core) (s t : State) : Prop :=
  coreOf c t = { k with pc := pc, issue := (coreOf c s).issue + 1, waiting := [], icache := (coreOf c t).icache } ∧
  ∀ e, e ≠ c → coreOf e t = coreOf e s

/-- The command that runs a decoded instruction on core `c` (R281, R292). -/
def seqCommand (c : Nat) : SeqOp → Instr
  | .nop => .nop c
  | .alu .. => .alu c
  | .addi .. => .addi c
  | .andi .. => .andi c
  | .ori .. => .ori c
  | .xori .. => .xori c
  | .shli .. => .shli c
  | .shrli .. => .shrli c
  | .shrai .. => .shrai c
  | .muli .. => .muli c
  | .ins16 .. => .ins16 c
  | .li .. => .li c
  | .cmp .. => .cmp c
  | .plog .. => .plog c
  | .load 1 false .. => .ld8u c
  | .load 2 false .. => .ld16u c
  | .load 4 false .. => .ld32u c
  | .load 1 true .. => .ld8s c
  | .load 2 true .. => .ld16s c
  | .load 4 true .. => .ld32s c
  | .load .. => .ld64 c
  | .store 1 .. => .st8 c
  | .store 2 .. => .st16 c
  | .store 4 .. => .st32 c
  | .store .. => .st64 c
  | .br .. => .br c
  | .call .. => .call c
  | .jmpr .. => .jmpr c
  | .stopProgram => .endProgram c
  | .icinv => .icinv c
  | .mfc .. => .mfc c
  | .mtc .. => .mtc c
  | .wait .. => .wait c
  | .signal .. => .signal c
  | .brd .. => .brd c
  | .tld .. => .tld c
  | .tst .. => .tst c
  | .tset .. => .tset c
  | .tget .. => .tget c
  | .tadd .. => .tadd c
  | .engine .. => .engineInstructionIssue c
  | .queue .. => .queueCommandIssue c

end Sys2Proof.Machine
end

