-- ==== Sys2Proof/Certificates/Slice0/Obligations.lean ====
section
/-! DEFINITION. The statements for the provers: what the commands of the opcode table do, by the rules of the spec. Each statement's
docstring names the rules and the rows it completes. -/

open Sys2Proof Sys2Proof.Machine

/-! ## The sequencer -/

/-- The integer functions of R282 and R283, written on numbers: what ALU puts into g[d]; none for a reserved function. -/
def aluResult (fn : Nat) (a b : Word) : Option Word :=
  match fn with
  | 0x00 => some (BitVec.ofInt 64 (a.toInt + b.toInt))
  | 0x01 => some (BitVec.ofInt 64 (a.toInt - b.toInt))
  | 0x02 => some (BitVec.ofNat 64 (a.toNat * b.toNat))
  | 0x03 => some (BitVec.ofNat 64 (a.toNat * b.toNat / 2 ^ 64))
  | 0x04 => some (BitVec.ofInt 64 (a.toInt * b.toInt / 2 ^ 64))
  | 0x05 => some (if b.toNat = 0 then 0xFFFFFFFFFFFFFFFF else BitVec.ofNat 64 (a.toNat / b.toNat))
  | 0x06 => some (if b.toNat = 0 then 0xFFFFFFFFFFFFFFFF else BitVec.ofInt 64 (a.toInt.tdiv b.toInt))
  | 0x07 => some (if b.toNat = 0 then a else BitVec.ofNat 64 (a.toNat % b.toNat))
  | 0x08 => some (if b.toNat = 0 then a else BitVec.ofInt 64 (a.toInt.tmod b.toInt))
  | 0x09 => some (a &&& b)
  | 0x0A => some (a ||| b)
  | 0x0B => some (a ^^^ b)
  | 0x0C => some (BitVec.ofNat 64 (a.toNat * 2 ^ (b.toNat % 64)))
  | 0x0D => some (BitVec.ofNat 64 (a.toNat / 2 ^ (b.toNat % 64)))
  | 0x0E => some (BitVec.ofInt 64 (a.toInt / 2 ^ (b.toNat % 64)))
  | 0x0F => some (if a.toInt ≤ b.toInt then a else b)
  | 0x10 => some (if a.toInt ≤ b.toInt then b else a)
  | 0x11 => some (if a.toNat ≤ b.toNat then a else b)
  | 0x12 => some (if a.toNat ≤ b.toNat then b else a)
  | _ => none

/-- Halfword `h` of a register replaced, the others as before (R281, INS16). -/
def isIns16 (h imm : Nat) (old new : Word) : Prop :=
  ∀ j, j < 64 → new.getLsbD j = if j / 16 = h then imm.testBit (j % 16) else old.getLsbD j

/-- The conditions of R284 on numbers; none for a reserved value. -/
def cmpResult (cc : Nat) (a b : Word) : Option Bool :=
  match cc with
  | 0 => some (decide (a.toNat = b.toNat))
  | 1 => some (decide (a.toNat ≠ b.toNat))
  | 2 => some (decide (a.toNat < b.toNat))
  | 3 => some (decide (b.toNat ≤ a.toNat))
  | 4 => some (decide (a.toInt < b.toInt))
  | 5 => some (decide (b.toInt ≤ a.toInt))
  | _ => none

/-- The functions of PLOG (R284); none for a reserved value. -/
def plogResult (fn : Nat) (a b : Bool) : Option Bool :=
  match fn with
  | 0 => some (a && b)
  | 1 => some (a || b)
  | 2 => some (a != b)
  | 3 => some (a && ! b)
  | 4 => some (! a)
  | _ => none

/-- Model's choice (log 10): a sequencer command runs nothing but its own instruction, and nothing where no sequencer runs. -/
def Obligations.CommandForAnotherInstruction : Prop :=
  (∀ (c r : Nat) (f : Fetched) (op other : SeqOp) (s s' : State), AtOp c r f op s s' →
    seqCommand c other ≠ seqCommand c op → exec (seqCommand c other) s = .next (Quiet s)) ∧
  (∀ (c : Nat) (op : SeqOp) (s : State), c < 512 →
    (ropeOfCore c s = none ∨ (∃ r, ropeOfCore c s = some r ∧ ropeState r s ≠ RopeSt.running) ∨
      (coreOf c s).running = false) → exec (seqCommand c op) s = .next (Quiet s))

/-- ALU (R282, R283): completes row ALU. -/
def Obligations.AluWritesItsFunction : Prop :=
  ∀ (c r : Nat) (f : Fetched) (fn d a b : Nat) (v : Word) (s s' : State), Runs c r f (.alu fn d a b) s s' →
    aluResult fn ((coreOf c s).getG a) ((coreOf c s).getG b) = some v →
    ∃ t, exec (.alu c) s = .next t ∧ Only [.cores, .reads] s t ∧
      Retired c (pcAfter c f s) ((coreOf c s).setG d v) s t

/-- The register-immediate instructions, NOP, CMP and PLOG, and what a predicate of 0 leaves (R249, R281, R284): completes rows NOP,
ADDI, ANDI, ORI, XORI, SHLI, SHRLI, SHRAI, MULI, INS16, LI, CMP, PLOG. -/
def Obligations.RegisterAndPredicateInstructions : Prop :=
  (∀ (c r : Nat) (f : Fetched) (d a n h : Nat) (imm : Word) (s s' : State),
    let k := coreOf c s
    let done := fun (i : Instr) (k' : Core) =>
      ∃ t, exec i s = .next t ∧ Only [.cores, .reads] s t ∧ Retired c (pcAfter c f s) k' s t
    (Runs c r f .nop s s' → done (.nop c) k) ∧
    (Runs c r f (.addi d a imm) s s' → done (.addi c) (k.setG d (BitVec.ofInt 64 ((k.getG a).toInt + imm.toInt)))) ∧
    (Runs c r f (.andi d a imm) s s' → done (.andi c) (k.setG d (k.getG a &&& imm))) ∧
    (Runs c r f (.ori d a imm) s s' → done (.ori c) (k.setG d (k.getG a ||| imm))) ∧
    (Runs c r f (.xori d a imm) s s' → done (.xori c) (k.setG d (k.getG a ^^^ imm))) ∧
    (Runs c r f (.shli d a n) s s' → done (.shli c) (k.setG d (BitVec.ofNat 64 ((k.getG a).toNat * 2 ^ n)))) ∧
    (Runs c r f (.shrli d a n) s s' → done (.shrli c) (k.setG d (BitVec.ofNat 64 ((k.getG a).toNat / 2 ^ n)))) ∧
    (Runs c r f (.shrai d a n) s s' → done (.shrai c) (k.setG d (BitVec.ofInt 64 ((k.getG a).toInt / 2 ^ n)))) ∧
    (Runs c r f (.muli d a imm) s s' → done (.muli c) (k.setG d (BitVec.ofInt 64 ((k.getG a).toInt * imm.toInt)))) ∧
    (Runs c r f (.ins16 h d n) s s' → h < 4 → n < 65536 →
      ∃ v, isIns16 h n (k.getG d) v ∧ done (.ins16 c) (k.setG d v)) ∧
    (Runs c r f (.li d imm) s s' → done (.li c) (k.setG d imm))) ∧
  (∀ (c r : Nat) (f : Fetched) (fn pd x y : Nat) (op : SeqOp) (s s' : State),
    let k := coreOf c s
    (Runs c r f (.cmp fn pd x y) s s' → ∀ v, cmpResult fn (k.getG x) (k.getG y) = some v →
      ∃ t, exec (.cmp c) s = .next t ∧ Only [.cores, .reads] s t ∧ Retired c (pcAfter c f s) (k.setP pd v) s t) ∧
    (Runs c r f (.plog fn pd x y) s s' → ∀ v, plogResult fn (k.getP x) (k.getP y) = some v →
      ∃ t, exec (.plog c) s = .next t ∧ Only [.cores, .reads] s t ∧ Retired c (pcAfter c f s) (k.setP pd v) s t) ∧
    (AtOp c r f op s s' → k.getP f.pred = false →
      ∃ t, exec (seqCommand c op) s = .next t ∧ Only [.cores, .reads] s t ∧ Retired c (pcAfter c f s) k s t))

/-- The loads (R281, R285): completes rows LD8U, LD16U, LD32U, LD64, LD8S, LD16S, LD32S, TLD. -/
def Obligations.LoadsReadMemory : Prop :=
  ∀ (c r : Nat) (f : Fetched) (size d a : Nat) (signed : Bool) (imm : Word) (bs : List Byte) (s s' : State),
    let k := coreOf c s
    let at_ := fun (n : Nat) => (k.getG a + imm * BitVec.ofNat 64 n).toNat
    ((size, signed) ∈ [(1, false), (2, false), (4, false), (8, false), (1, true), (2, true), (4, true)] →
      Runs c r f (.load size signed d a imm) s s' → at_ size % size = 0 → rdGood (seqWho r c) (at_ size) size s' = .ok bs →
      ∃ t, exec (seqCommand c (.load size signed d a imm)) s = .next t ∧ Only [.cores, .reads] s t ∧
        Retired c (pcAfter c f s)
          (k.setG d (if signed then (BitVec.ofNat (8 * size) (leNat bs)).signExtend 64
            else (BitVec.ofNat (8 * size) (leNat bs)).setWidth 64)) s t) ∧
    (Runs c r f (.tld d a imm) s s' → at_ 16 % 16 = 0 → rdGood (seqWho r c) (at_ 16) 16 s' = .ok bs →
      ∃ t, exec (.tld c) s = .next t ∧ Only [.cores, .reads] s t ∧
        Retired c (pcAfter c f s) (k.setT d (BitVec.ofNat 128 (leNat bs))) s t)

/-- What a store leaves when its address lies at place `p`: the bytes `bs` there, every other byte as before. -/
def StoredAt (p : Nat) (bs : List Byte) (s t : State) : Prop :=
  (∀ i, (h : i < bs.length) → (s.mem.poisoned (p + i) = false ∨ (bs.length = 16 ∧ p % 16 = 0)) →
    t.mem.byte (p + i) = bs[i] ∧ t.mem.poisoned (p + i) = false) ∧
  ∀ q, (q < p ∨ p + bs.length ≤ q) → t.mem.byte q = s.mem.byte q ∧ t.mem.poisoned q = s.mem.poisoned q

/-- A store of the bytes `bs` at rope address `addr` retires (R285). -/
def StoreCompletes (c r : Nat) (f : Fetched) (i : Instr) (addr : Nat) (bs : List Byte) (s s' : State) : Prop :=
  (∀ p, locate (storeWho r c s') addr true s' = .place p → s.mem.errs = [] →
    ∃ t, exec i s = .next t ∧ Only [.cores, .reads, .mem] s t ∧ Retired c (pcAfter c f s) (coreOf c s) s t ∧
      StoredAt p bs s t) ∧
  (∀ l h o u, locate (storeWho r c s') addr true s' = .neighbour l h o → wr (storeWho r c s') addr bs s' = .ok u →
    ∃ t, exec i s = .next t ∧ t.mem = s.mem ∧ Retired c (pcAfter c f s) (coreOf c s) s t) ∧
  (locate (storeWho r c s') addr true s' = .lost → (ropeOf r s).stop = none → r < 16 →
    ∃ sr t, exec i s = .next t ∧ t.mem = s.mem ∧ (coreOf c t).pc = pcAfter c f s ∧
      (coreOf c t).issue = (coreOf c s).issue + 1 ∧ ropeState r t = RopeSt.stopped ∧ (ropeOf r t).stop = some sr ∧
      sr.status = St.lenderLost ∧ sr.source = 0 ∧ sr.pc = (coreOf c s).pc ∧ sr.addr = BitVec.ofNat 64 addr ∧
      sr.tag = mkTag (ropeCoreIdx r c s) (coreOf c s).issue.toNat)

/-- The stores (R281, R285): completes rows ST8, ST16, ST32, ST64, TST. -/
def Obligations.StoresWriteMemory : Prop :=
  ∀ (c r : Nat) (f : Fetched) (size x a : Nat) (imm : Word) (s s' : State),
    let k := coreOf c s
    let at_ := fun (n : Nat) => (k.getG a + imm * BitVec.ofNat 64 n).toNat
    (size ∈ [1, 2, 4, 8] → Runs c r f (.store size x a imm) s s' → at_ size % size = 0 →
      StoreCompletes c r f (seqCommand c (.store size x a imm)) (at_ size) (natLe size (k.getG x).toNat) s s') ∧
    (Runs c r f (.tst x a imm) s s' → at_ 16 % 16 = 0 →
      StoreCompletes c r f (.tst c) (at_ 16) (natLe 16 (k.getT x).toNat) s s')

/-- Bits [hi:lo] of a tile register hold `v` modulo their width; the other bits are those of `old` (R291, R300). -/
def isTileField (hi lo v : Nat) (old new : BitVec 128) : Prop :=
  ∀ j, j < 128 → new.getLsbD j = if lo ≤ j ∧ j ≤ hi then v.testBit (j - lo) else old.getLsbD j

/-- The bits of the descriptor fields of R291, from the layout of R300. -/
def fieldBits (n : Nat) : Option (Nat × Nat) :=
  [(47, 0), (63, 48), (79, 64), (95, 80), (101, 96), (103, 102), (104, 104), (127, 106)][n]?

/-- Control flow and tile registers (R281, R286, R291): completes rows BR, CALL, JMPR, ICINV, TSET, TGET, TADD. -/
def Obligations.BranchesAndTileRegisters : Prop :=
  ∀ (c r : Nat) (f : Fetched) (d a n hi lo : Nat) (off : BitVec 48) (s s' : State),
    let k := coreOf c s
    let done := fun (i : Instr) (pc : BitVec 48) (k' : Core) =>
      ∃ t, exec i s = .next t ∧ Only [.cores, .reads] s t ∧ Retired c pc k' s t
    let link := (k.pc + 4).setWidth 64
    (Runs c r f (.br off) s s' → done (.br c) (k.pc + off) k) ∧
    (Runs c r f (.call off) s s' → done (.call c) (k.pc + off) (k.setG 31 link)) ∧
    (Runs c r f (.jmpr d a) s s' → (k.getG a).toNat % 4 = 0 →
      done (.jmpr c) ((k.getG a).setWidth 48) (k.setG d link)) ∧
    (Runs c r f .icinv s s' → ∃ t, exec (.icinv c) s = .next t ∧ Only [.cores, .reads] s t ∧
      Retired c (pcAfter c f s) k s t ∧ (coreOf c t).icache = []) ∧
    (Runs c r f (.tset n d a) s s' → fieldBits n = some (hi, lo) →
      ∃ v, isTileField hi lo (k.getG a).toNat (k.getT d) v ∧ done (.tset c) (pcAfter c f s) (k.setT d v)) ∧
    (Runs c r f (.tget n d a) s s' → fieldBits n = some (hi, lo) →
      done (.tget c) (pcAfter c f s) (k.setG d (BitVec.ofNat 64 ((k.getT a).toNat / 2 ^ lo % 2 ^ (hi + 1 - lo))))) ∧
    (Runs c r f (.tadd d a) s s' →
      ∃ v, isTileField 47 0 ((k.getT d).toNat % 2 ^ 48 + (k.getG a).toNat) (k.getT d) v ∧
        done (.tadd c) (pcAfter c f s) (k.setT d v))

/-- What MFC reads for control register `n` (R250), for the fields of each; CYCLES are whole cycles of the count of the core's cluster. -/
def ControlReads (r c n : Nat) (s : State) (v : Word) : Prop :=
  let q := indexOf (ropeClusters r s) (c / 8)
  match n with
  | 0x00 => v.toNat = ropeCoreIdx r c s
  | 0x01 => bits 5 0 v = q.getD 0 ∧ bits 13 8 v = c / 8 ∧ v.toNat < 2 ^ 14
  | 0x02 => bits 2 0 v = (indexOf (ropeDies r s) (c / 64)).getD 0 ∧ bits 6 4 v = c / 64 ∧
      bits 11 8 v = (ropeDies r s).length ∧ v.toNat < 2 ^ 12
  | 0x03 => bits 9 0 v = (ropeCores r s).length ∧ bits 22 16 v = (ropeClusters r s).length ∧ v.toNat < 2 ^ 23
  | 0x04 => bits 3 0 v = r ∧ bits 27 16 v = ropeJob r s ∧ v.toNat < 2 ^ 28
  | 0x05 => v = BitVec.ofNat 64 (ropeOf r s).rank
  | 0x06 => v = (ropeOf r s).seed
  | 0x07 => v = (ropeOf r s).nctrl
  | 0x08 => v = (coreOf c s).nstat
  | 0x09 => v.toNat = (coreOf c s).issue.toNat
  | 0x0A => v = BitVec.ofNat 64 (tget 0 (ropeOf r s).cycles (q.getD 0) / 1000)
  | 0x0B => v = getR .BC_TIME [] s
  | 0x0C => v = BitVec.ofNat 64 ((ropeOf r s).belayFirst + (ropeOf r s).belayCount * 2 ^ 16)
  | _ => False

/-- MFC and MTC (R250, R251, R288): completes rows MFC, MTC. The clocks that CYCLES counts and the bits of NCTRL beyond those R246
names rest on log 1 and log 10. -/
def Obligations.ControlRegisterMoves : Prop :=
  ∀ (c r : Nat) (f : Fetched) (d n a : Nat) (s s' : State),
    let k := coreOf c s
    (Runs c r f (.mfc d n) s s' → n ≤ 0x0C →
      ∃ v t, ControlReads r c n s v ∧ exec (.mfc c) s = .next t ∧ Only [.cores, .reads] s t ∧
        Retired c (pcAfter c f s) (k.setG d v) s t) ∧
    (Runs c r f (.mtc 0x06 a) s s' →
      ∃ t, exec (.mtc c) s = .next t ∧ Only [.cores, .reads, .ropes] s t ∧ Retired c (pcAfter c f s) k s t ∧
        ropeOf r t = { ropeOf r s with seed := k.getG a } ∧ ∀ e, e ≠ r → ropeOf e t = ropeOf e s) ∧
    (Runs c r f (.mtc 0x07 a) s s' →
      ∃ t, exec (.mtc c) s = .next t ∧ Only [.cores, .reads, .ropes] s t ∧ Retired c (pcAfter c f s) k s t ∧
        ropeOf r t = { ropeOf r s with nctrl := k.getG a &&& 0x13 } ∧ ∀ e, e ≠ r → ropeOf e t = ropeOf e s) ∧
    (Runs c r f (.mtc 0x08 a) s s' →
      ∃ t, exec (.mtc c) s = .next t ∧ Only [.cores, .reads] s t ∧
        ∃ v, (∀ j, j < 64 → v.getLsbD j = (k.nstat.getLsbD j && ! (k.getG a).getLsbD j)) ∧
          Retired c (pcAfter c f s) { k with nstat := v } s t)

/-- The belay a 13-bit designator names (R289): a core belay, or a device belay inside the rope's range. -/
def Names13 (r des : Nat) (s : State) (device : Bool) (i : Nat) : Prop :=
  (des < 64 ∧ device = false ∧ i = des) ∨
  (4096 ≤ des ∧ des - 4096 < (ropeOf r s).belayCount ∧ device = true ∧ i = (ropeOf r s).belayFirst + (des - 4096))

/-- One more, absorbed at 2^64 − 1 (R262). -/
def absorbedInc (v : Word) : Word := BitVec.ofNat 64 (min (v.toNat + 1) (2 ^ 64 - 1))

/-- No active exchange holds a buffer that its answer belays have freed (R84). -/
def NoBufferDue (s : State) : Prop := ∀ x ∈ s.xes, ∀ e ∈ x.2.active, e.due s = false

/-- WAIT, SIGNAL, BRD (R261, R262, R290): completes rows WAIT, SIGNAL, BRD. -/
def Obligations.BelayInstructions : Prop :=
  ∀ (c r : Nat) (f : Fetched) (x des i : Nat) (set device : Bool) (s s' : State), Names13 r des s device i →
    let k := coreOf c s
    let counter := if device then devBelay i s else coreBelay c i s
    (Runs c r f (.wait x des) s s' → (k.getG x).toNat ≤ counter.toNat →
      ∃ t, exec (.wait c) s = .next t ∧ Only [.cores, .reads] s t ∧ Retired c (pcAfter c f s) k s t) ∧
    (Runs c r f (.wait x des) s s' → counter.toNat < (k.getG x).toNat →
      ∃ t, exec (.wait c) s = .next t ∧ Only [.cores] s t ∧
        coreOf c t = { k with waiting := [⟨device, i, k.getG x⟩], icache := (coreOf c t).icache } ∧
        ∀ e, e ≠ c → coreOf e t = coreOf e s) ∧
    (Runs c r f (.brd x des) s s' →
      ∃ t, exec (.brd c) s = .next t ∧ Only [.cores, .reads] s t ∧ Retired c (pcAfter c f s) (k.setG x counter) s t) ∧
    (Runs c r f (.signal x des set) s s' → writesOut c s = false →
      ∃ u t, exec (.signal c) s = .next (dropReads c (retire c (pcAfter c f s) (settleSlots u))) ∧
        (NoBufferDue u → settleSlots u = u) ∧ t = dropReads c (retire c (pcAfter c f s) u) ∧
        Only [.cores, .reads, .belays, .regs] s t ∧
        ((∀ e ∈ s.cores, e.2.waiting = []) → t.regs = s.regs) ∧
        (device = true → Retired c (pcAfter c f s) k s t ∧
          devBelay i t = (if set then k.getG x else absorbedInc counter) ∧
          devSince i t = (if set then 0 else absorbedInc (devSince i s)) ∧
          ∀ j, j ≠ i → devBelay j t = devBelay j s ∧ devSince j t = devSince j s) ∧
        (device = false → t.belays = s.belays ∧
          Retired c (pcAfter c f s)
            { k with belays := tset 0 k.belays i (if set then k.getG x else absorbedInc counter) } s t)) ∧
    (Runs c r f (.signal x des set) s s' → writesOut c s = true →
      ∃ u t, exec (.signal c) s = .next (dropReads c (retire c (pcAfter c f s) (settleSlots u))) ∧
        (NoBufferDue u → settleSlots u = u) ∧ t = dropReads c (retire c (pcAfter c f s) u) ∧
        Only [.cores, .reads, .heldSigs] s t ∧ Retired c (pcAfter c f s) k s t ∧
        t.heldSigs = s.heldSigs ++
          [{ who := c, device := device, idx := if device then i else c * 64 + i, set := set, val := k.getG x }])

/-- What the queue entry of R258 captures at core `c` of rope `r`. -/
def Captured (c r : Nat) (w0 w1 : BitVec 32) (s : State) (e : QEntry) : Prop :=
  let k := coreOf c s
  let w := fun (hi lo : Nat) (v : BitVec 32) => v.toNat / 2 ^ lo % 2 ^ (hi + 1 - lo)
  let operand := fun (kind i : Nat) (v : BitVec 128) =>
    (kind = 1 → v = k.getT i) ∧ (kind = 2 → v = (k.getG i).setWidth 128) ∧ (kind = 0 → v = 0)
  e.w0 = w0 ∧ e.w1 = w1 ∧ e.pc = k.pc ∧ e.tag = mkTag (ropeCoreIdx r c s) k.issue.toNat ∧
  e.th0 = k.getG (w 24 20 w1) ∧
  (w 0 0 w1 = 0 → e.th1 = k.getG (w 12 8 w1)) ∧ (w 0 0 w1 = 1 → e.sig = k.getG (w 12 8 w1)) ∧
  e.nctrl = (ropeOf r s).nctrl ∧ e.seed = (ropeOf r s).seed ∧
  ∀ ka kb kc, opKinds (w 30 28 w0) (w 27 20 w0) = some (ka, kb, kc) →
    operand ka (w 19 15 w0) e.opA ∧ operand kb (w 14 10 w0) e.opB ∧ operand kc (w 9 5 w0) e.opC

/-- The queue an engine instruction of core `c` goes to (R257, R292). -/
def issueQueue (tgt c : Nat) (s : State) : List QEntry :=
  match tgt with
  | 0 => (coreOf c s).mxeQ
  | 1 => (coreOf c s).vxeQ
  | 2 => (coreOf c s).mgeQ
  | 3 => (coreOf c s).dmvQ
  | 4 => (tget ({} : Rte) s.rtes (c / 64)).queue.map (fun d => d.e)
  | _ => (tget ({} : Xe) s.xes (c / 64)).queue.map (fun d => d.e)

/-- Every belay field of a second word names a belay of the rope or none (R294). -/
def BelaysNamed (r : Nat) (w1 : BitVec 32) (s : State) : Prop :=
  ∀ v ∈ [w1.toNat / 2 ^ 25, w1.toNat / 2 ^ 13 % 128, w1.toNat / 2 % 128],
    v = 0x7F ∨ v < 0x40 ∨ v - 0x40 < (ropeOf r s).belayCount

/-- Issue (R258): completes row ENGINE_INSTRUCTION_ISSUE. -/
def Obligations.EngineIssueCaptures : Prop :=
  ∀ (c r : Nat) (f : Fetched) (w0 w1 : BitVec 32) (s s' : State), Runs c r f (.engine w0 w1) s s' →
    let tgt := w0.toNat / 2 ^ 28 % 8
    (BelaysNamed r w1 s → (issueQueue tgt c s).length < 32 →
      ∃ e t, Captured c r w0 w1 s e ∧ exec (.engineInstructionIssue c) s = .next t ∧
        issueQueue tgt c t = issueQueue tgt c s ++ [e] ∧
        (∀ q, q < 6 → q ≠ tgt → issueQueue q c t = issueQueue q c s) ∧
        Only [.cores, .reads, .rtes, .xes, .regs] s t ∧ (tgt < 4 → Only [.cores, .reads] s t) ∧
        (coreOf c t).pc = pcAfter c f s ∧ (coreOf c t).issue = (coreOf c s).issue + 1 ∧
        (∀ i, (coreOf c t).getG i = (coreOf c s).getG i) ∧ (∀ i, (coreOf c t).getT i = (coreOf c s).getT i) ∧
        ∀ q, q ≠ c → coreOf q t = coreOf q s) ∧
    (BelaysNamed r w1 s → 32 ≤ (issueQueue tgt c s).length → exec (.engineInstructionIssue c) s = .next s') ∧
    (¬ BelaysNamed r w1 s → exec (.engineInstructionIssue c) s = .next (preciseException r c St.notPermitted 0 s'))

/-- Both wait conditions of a second word hold for core `c` (R261, R294, R295), with their thresholds as they stand. -/
def QueueWaitsHold (c r : Nat) (w1 : BitVec 32) (s : State) : Prop :=
  let k := coreOf c s
  let value := fun (v : Nat) => if v < 0x40 then coreBelay c v s else devBelay ((ropeOf r s).belayFirst + (v - 0x40)) s
  let holds := fun (v : Nat) (thr : Word) => v = 0x7F ∨ thr.toNat ≤ (value v).toNat
  holds (w1.toNat / 2 ^ 25) (k.getG (w1.toNat / 2 ^ 20 % 32)) ∧
  (w1.toNat % 2 = 1 ∨ holds (w1.toNat / 2 ^ 13 % 128) (k.getG (w1.toNat / 2 ^ 8 % 32)))

/-- A queue command (R297): completes row QUEUE_COMMAND_ISSUE. -/
def Obligations.QueueCommandPassed : Prop :=
  ∀ (c r : Nat) (f : Fetched) (w0 w1 : BitVec 32) (s s' : State), Runs c r f (.queue w0 w1) s s' → BelaysNamed r w1 s →
    (QueueWaitsHold c r w1 s →
      ∃ (cmd : InstrCmd) (t : State), exec (.queueCommandIssue c) s = .next t ∧
        Only [.cores, .reads, .instrCmds] s t ∧ Retired c (pcAfter c f s) (coreOf c s) s t ∧
        t.instrCmds = s.instrCmds ++ [cmd] ∧ cmd.rope = r ∧ cmd.core = c ∧ cmd.op = w0.toNat / 2 ^ 20 % 256 ∧
        cmd.tag = mkTag (ropeCoreIdx r c s) (coreOf c s).issue.toNat ∧ cmd.pc = (coreOf c s).pc ∧
        (opKinds 6 (w0.toNat / 2 ^ 20 % 256) = some (2, 0, 0) → w0.toNat / 2 ^ 28 % 8 = 6 →
          cmd.reg = (coreOf c s).getG (w0.toNat / 2 ^ 15 % 32))) ∧
    (¬ QueueWaitsHold c r w1 s →
      ∃ t, exec (.queueCommandIssue c) s = .next t ∧ Only [.cores] s t ∧
        (coreOf c t).pc = (coreOf c s).pc ∧ (coreOf c t).issue = (coreOf c s).issue ∧ (coreOf c t).waiting ≠ [] ∧
        ∀ e, e ≠ c → coreOf e t = coreOf e s)

/-- The causes of R264: what each command answers is the exception alone, on the state after the fetch, where the core's answered reads are
gone and those of a lost lender counted (R369). -/
def Obligations.PreciseExceptions : Prop :=
  ∀ (c r : Nat) (f : Fetched) (op : SeqOp) (size x a n des : Nat) (signed set : Bool) (imm : Word) (st addr : Nat)
    (s s' : State),
    let k := coreOf c s
    let at_ := fun (m : Nat) => (k.getG a + imm * BitVec.ofNat 64 m).toNat
    let traps := fun (i : Instr) (status where_ : Nat) => exec i s = .next (preciseException r c status where_ (endAccess c status s'))
    (c < 512 → ropeOfCore c s = some r → ropeState r s = RopeSt.running → k.running = true →
      (fetchInstr r c (Quiet s) = .error (.fault st addr) →
        exec (seqCommand c op) s = .next (preciseException r c st addr (endAccess c st (Quiet s)))) ∧
      (k.pc.toNat % 4 ≠ 0 → fetchInstr r c (Quiet s) = .error (.fault St.notPermitted k.pc.toNat)) ∧
      (fetchInstr r c (Quiet s) = .ok (f, s') → f.op = none →
        exec (seqCommand c op) s = .next (preciseException r c St.notPermitted 0 s'))) ∧
    ((size, signed) ∈ [(1, false), (2, false), (4, false), (8, false), (1, true), (2, true), (4, true)] →
      Runs c r f (.load size signed x a imm) s s' →
      (at_ size % size ≠ 0 → traps (seqCommand c (.load size signed x a imm)) St.notPermitted (at_ size)) ∧
      (at_ size % size = 0 → rdGood (seqWho r c) (at_ size) size s' = .error (.fault st addr) →
        traps (seqCommand c (.load size signed x a imm)) st addr)) ∧
    (size ∈ [1, 2, 4, 8] → Runs c r f (.store size x a imm) s s' →
      (at_ size % size ≠ 0 → traps (seqCommand c (.store size x a imm)) St.notPermitted (at_ size)) ∧
      (at_ size % size = 0 → locate (seqWho r c) (at_ size) true s' = .unmapped →
        traps (seqCommand c (.store size x a imm)) St.notPermitted (at_ size))) ∧
    (Runs c r f (.tld x a imm) s s' → at_ 16 % 16 ≠ 0 → traps (.tld c) St.notPermitted (at_ 16)) ∧
    (Runs c r f (.tst x a imm) s s' → at_ 16 % 16 ≠ 0 → traps (.tst c) St.notPermitted (at_ 16)) ∧
    (Runs c r f (.jmpr x a) s s' → (k.getG a).toNat % 4 ≠ 0 → traps (.jmpr c) St.notPermitted (k.getG a).toNat) ∧
    (Runs c r f (.mfc x n) s s' → 0x0C < n → traps (.mfc c) St.notPermitted 0) ∧
    (Runs c r f (.mtc n a) s s' → n ∉ [0x06, 0x07, 0x08] → traps (.mtc c) St.notPermitted 0) ∧
    (4096 ≤ des → (ropeOf r s).belayCount ≤ des - 4096 →
      (Runs c r f (.wait x des) s s' → traps (.wait c) St.notPermitted 0) ∧
      (Runs c r f (.signal x des set) s s' → traps (.signal c) St.notPermitted 0) ∧
      (Runs c r f (.brd x des) s s' → traps (.brd c) St.notPermitted 0))

/-- Taking a precise exception (R264, R266, R267). -/
def Obligations.FaultStopsRope : Prop :=
  ∀ (r c status addr : Nat) (s : State), r < 16 → ropeOfCore c s = some r →
    let t := preciseException r c status addr s
    ((ropeOf r s).stop = none → ropeState r s = RopeSt.running → (coreOf c s).fault = none →
      (∃ sr, (ropeOf r t).stop = some sr ∧ (coreOf c t).fault = some { sr with later := 0, discarded := 0 } ∧
        sr.status = status ∧ sr.source = 0 ∧ sr.core = ropeCoreIdx r c s ∧
        sr.tag.toNat = ropeCoreIdx r c s % 512 * 2 ^ 23 + (coreOf c s).issue.toNat ∧
        sr.pc = (coreOf c s).pc ∧ sr.addr = BitVec.ofNat 64 addr ∧ sr.later = 0 ∧
        sr.discarded = BitVec.ofNat 32 (haltRope r s).1) ∧
      ropeState r t = RopeSt.stopped ∧
      (∀ d ∈ ropeCores r s, (coreOf d t).running = false ∧
        (coreOf d t).mxeQ = (coreOf d s).mxeQ.filter (fun e => e.started) ∧
        (coreOf d t).vxeQ = (coreOf d s).vxeQ.filter (fun e => e.started) ∧
        (coreOf d t).mgeQ = (coreOf d s).mgeQ.filter (fun e => e.started) ∧
        (coreOf d t).dmvQ = (coreOf d s).dmvQ.filter (fun e => e.started)) ∧
      (∀ d ∈ ropeCores r s, (coreOf d t).getG = (coreOf d s).getG ∧ (coreOf d t).pc = (coreOf d s).pc) ∧
      (∀ d, ∀ e, e ∈ (tget ({} : Rte) t.rtes d).queue ↔
        e ∈ (tget ({} : Rte) s.rtes d).queue ∧ (e.rope ≠ r ∨ e.e.started = true)) ∧
      (∀ d, ∀ e, e ∈ (tget ({} : Xe) t.xes d).queue ↔
        e ∈ (tget ({} : Xe) s.xes d).queue ∧ (e.rope ≠ r ∨ e.e.started = true))) ∧
    (∀ old, (ropeOf r s).stop = some old →
      Only [.cores, .ropes] s t ∧ (ropeOf r t).stop = some { old with later := old.later + 1 } ∧
      ∀ d, coreQueued (coreOf d t) = coreQueued (coreOf d s))

/-! ## Command queues and records -/

/-- Memory below the placement table's words is as before, and so is what its bytes read. -/
def PlainMemory (s t : State) : Prop :=
  ∀ p, p / 16 < hubWord 0 → t.mem.byte p = s.mem.byte p ∧ t.mem.poisoned p = s.mem.poisoned p

/-- The record about to run, as its command sees it. -/
def jobOf (q : Nat) (rec : Rec) (owner : Requester) : Job := { waiter := .window q rec.seq, bytes := rec.bytes, owner := owner }

/-- The next record of window `q` to run is `rec`, a command `op` with a good header whose conditions hold (R387, R388). -/
structure RecordAt (q op : Nat) (rec : Rec) (owner : Requester) (s : State) : Prop where
  queue : q < 64
  next : (queueOf q s).recs.find? (fun r => ! r.started) = some rec
  own : queueOwner q s = some owner
  code : fieldAt rec.bytes 4 1 = op
  fresh : rec.done = false
  known : 1 ≤ op ∧ op ≤ 15
  header : (jobOf q rec owner).headerOk s = true
  waits : recordWait (fieldAt rec.bytes 8 2) (fieldAt rec.bytes 16 8) s = true ∧
    recordWait (fieldAt rec.bytes 10 2) (fieldAt rec.bytes 24 8) s = true

/-- The record's command had effect `u` and the record completed (R388). -/
def completed (q : Nat) (rec : Rec) (u : State) : State := completeWaiter (.window q rec.seq) (startRec q (dropReads 544 u))

/-- A field of a record. -/
def recField (rec : Rec) (off n : Nat) : Nat := fieldAt rec.bytes off n

/-- Body bytes of a record, from `lo` to before `hi`, are zero (R387). -/
def bodyZero (rec : Rec) (lo hi : Nat) : Prop := ∀ i, lo ≤ i → i < hi → rec.bytes.getD i 0 = 0

/-- A record of this owner may name rope `r` (R391): any for the physical function, its own for a virtual one. -/
def mayName (owner : Requester) (r : Nat) (s : State) : Prop :=
  r < 16 ∧ ∀ v, owner = .vf v → vfRope v s = some r

/-- COMMAND_WINDOW_WRITE (R384, R385): completes row COMMAND_WINDOW_WRITE. -/
def Obligations.WindowWritesTakeRecords : Prop :=
  ∀ (fn : Requester) (q o : Nat) (data : List Byte) (s : State),
    let next := queueNext q s
    let seq := fieldAt data 0 4
    q < 64 → o + data.length ≤ 4096 → data ≠ [] → fn.wf = true → windowsTaken s = true →
    (∀ v, fn = .vf v → v < s.pcie.numVfs) →
    (queueOwner q s = some fn → queueState q s = Qs.running → (queueOf q s).have_ = [] → (queueOf q s).slots = [] →
      ∃ t, exec (.commandWindowWrite fn (q * 4096 + o) data) s = .next t ∧
        Only [.queues, .regs] s t ∧ RegsOnly [(.CMD_Q_STATUS, [q])] s t ∧ (∀ p, p ≠ q → queueOf p t = queueOf p s) ∧
        (data.length = 64 → o = 64 * (next % 64) → seq = next →
          (queueOf q t).recs = (queueOf q s).recs ++ [⟨BitVec.ofNat 32 next, data, false, false, false⟩] ∧
          (queueOf q t).have_ = [] ∧ (queueOf q t).slots = [] ∧ queueNext q t = (next + 1) % 2 ^ 32 ∧
          queueState q t = Qs.running) ∧
        (data.length < 64 →
          (queueOf q t).recs = (queueOf q s).recs ∧ queueNext q t = next ∧ queueState q t = Qs.running ∧
          ∀ i, (h : i < data.length) →
            tget false (queueOf q t).have_ (o + i) = true ∧ tget 0 (queueOf q t).slots (o + i) = data[i]) ∧
        (data.length = 64 → o % 64 = 0 → 64 ≤ (seq + 2 ^ 32 - next) % 2 ^ 32 →
          (queueOf q t).recs = (queueOf q s).recs ∧ queueNext q t = next ∧ queueState q t = Qs.stopped ∧
          getF F.CMD_Q_STATUS_FAIL_STATUS [q] t = St.notPermitted)) ∧
    (queueOwner q s ≠ some fn ∨ queueState q s ≠ Qs.running →
      exec (.commandWindowWrite fn (q * 4096 + o) data) s = .next (Quiet s))

/-- QUEUE_ENABLE, QUEUE_DISABLE, MIRROR_WRITE (R385, R386): completes those three rows. -/
def Obligations.QueuesEnableAndReport : Prop :=
  (∀ (fn : Requester) (q : Nat) (s : State), q < 64 → fnAllowed fn (regOff .CMD_Q_CFG [q]) s = true →
    let start := getF F.CMD_Q_CFG_SEQ_START [q] s
    (getF F.CMD_Q_CFG_ENABLE [q] s = 0 → ∃ t, exec (.queueEnable fn q) s = .next t ∧ Only [.regs, .queues] s t ∧
      RegsOnly [(.CMD_Q_CFG, [q]), (.CMD_Q_STATUS, [q])] s t ∧ (∀ p, p ≠ q → queueOf p t = queueOf p s) ∧
      getF F.CMD_Q_CFG_ENABLE [q] t = 1 ∧ queueState q t = Qs.running ∧ queueNext q t = start ∧
      (queueOf q t).done = BitVec.ofNat 32 start ∧ (queueOf q t).rejected = 0 ∧ (queueOf q t).have_ = [] ∧
      (queueOf q t).recs.length = (queueOf q s).recs.length) ∧
    (getF F.CMD_Q_CFG_ENABLE [q] s = 1 → ∃ t, exec (.queueDisable fn q) s = .next t ∧ Only [.regs, .queues] s t ∧
      RegsOnly [(.CMD_Q_CFG, [q]), (.CMD_Q_STATUS, [q])] s t ∧ (∀ p, p ≠ q → queueOf p t = queueOf p s) ∧
      getF F.CMD_Q_CFG_ENABLE [q] t = 0 ∧ queueState q t = Qs.disabled ∧ queueNext q t = queueNext q s ∧
      (queueOf q t).recs = (queueOf q s).recs ∧ (queueOf q t).have_ = [])) ∧
  (∀ (q : Nat) (s : State), q < 64 → (queueOf q s).mirrorDue = true → getF F.CMD_Q_MIRROR_ADDR [q] s ≠ 0 →
    let k := queueOf q s
    let a := getF F.CMD_Q_MIRROR_ADDR [q] s * 64
    ∃ (bs : List Byte) (t : State), exec (.mirrorWrite q) s = .next t ∧
      bs.length = 64 ∧ fieldAt bs 0 4 = queueNext q s ∧ fieldAt bs 4 4 = k.done.toNat ∧ fieldAt bs 8 1 = queueState q s ∧
      fieldAt bs 9 1 = getF F.CMD_Q_STATUS_FAIL_STATUS [q] s ∧ fieldAt bs 12 4 = k.rejSeq.toNat ∧
      fieldAt bs 16 8 = (getR .BC_TIME [] s).toNat ∧ fieldAt bs 24 8 = k.rejected % 2 ^ 64 ∧ fieldAt bs 10 2 = 0 ∧
      (∀ i, 32 ≤ i → i < 64 → bs.getD i 0 = 0) ∧
      t.mem = s.mem.write (hostPlace a) bs ∧ (queueOf q t).mirrorDue = false ∧ (queueOf q t).recs = k.recs ∧
      Only [.mem, .queues, .pcie] s t ∧ (∀ p, p < hostPlace a ∨ hostPlace a + 64 ≤ p → t.mem.byte p = s.mem.byte p) ∧
      (k.irqs = [] → t.pcie = s.pcie ∧ t.out = [.hostWrite (match queueOwner q s with | some f => fnIdx f | none => 16) a bs]))

/-- How a record ends (R388, R390), for any command. -/
def Obligations.RecordsCompleteOrAreRejected : Prop :=
  ∀ (q op : Nat) (rec : Rec) (rest : List Rec) (owner : Requester) (f : Cmd) (s u : State), RecordAt q op rec owner s →
    (queueOf q s).recs = rec :: rest → rec.old = false → (∀ x ∈ rest, x.done = false) →
    let b := recField rec 12 2
    (f (jobOf q rec owner) (Quiet s) = .ok (.done u) → u.queues = s.queues → u.belays = s.belays →
      ∃ t, runRecord (.window q) op f s = .next (if b < 4096 then settleSlots t else t) ∧
        (NoBufferDue t → settleSlots t = t) ∧
        (queueOf q t).recs = rest ∧ (queueOf q t).done = rec.seq + 1 ∧ (queueOf q t).mirrorDue = true ∧
        (queueOf q t).irqs = (queueOf q s).irqs ++ (if recField rec 5 1 % 2 = 1 then [rec.seq] else []) ∧
        (∀ p, p ≠ q → queueOf p t = queueOf p s) ∧ t.mem = u.mem ∧ t.cores = u.cores ∧ t.tables = u.tables ∧
        (4096 ≤ b → t.belays = s.belays ∧ t.regs = u.regs) ∧
        (b < 4096 → writesOut 544 u = false →
          devBelay b t = (if recField rec 14 1 = 1 then BitVec.ofNat 64 (recField rec 32 8) else absorbedInc (devBelay b s)) ∧
          ∀ j, j ≠ b → devBelay j t = devBelay j s)) ∧
    (∀ st, f (jobOf q rec owner) (Quiet s) = .ok (.reject st) → st < 256 →
      ∃ t, runRecord (.window q) op f s = .next t ∧
        (queueOf q t).recs = rest ∧ (queueOf q t).done = rec.seq + 1 ∧ (queueOf q t).rejSeq = rec.seq ∧
        (queueOf q t).rejected = (queueOf q s).rejected + 1 ∧ getF F.CMD_Q_STATUS_FAIL_STATUS [q] t = st ∧
        queueState q t = queueState q s ∧ (∀ p, p ≠ q → queueOf p t = queueOf p s) ∧
        t.belays = s.belays ∧ t.cores = s.cores ∧ t.ropes = s.ropes ∧ t.tables = s.tables)

/-- NOP, ROPE_CREATE, ROPE_START (R391, R397, R399): completes rows NOP_COMMAND, ROPE_CREATE, ROPE_START. -/
def Obligations.RopesAreCreatedAndStarted : Prop :=
  ∀ (q : Nat) (rec : Rec) (owner : Requester) (s : State),
    let r := recField rec 40 1
    (RecordAt q 0x01 rec owner s → mayName owner r s → bodyZero rec 41 64 →
      exec (.nopCommand (.window q)) s = .next (completed q rec (Quiet s))) ∧
    (RecordAt q 0x02 rec owner s → owner = .pf → r < 16 → ropeState r s = RopeSt.none → recField rec 42 2 < 4096 →
      rec.bytes.length = 64 → bodyZero rec 50 64 → s.mem.anyPoison (hostPlace (recField rec 44 6)) 64 = false →
      let d := hostBytes s (recField rec 44 6) 64
      let g := fun (off n : Nat) => fieldAt d off n
      ropeDescOk d = true → ropeDescFree (recField rec 42 2) d s = true →
      getF F.CMD_CLIENT_COUNT [recField rec 41 1] s < min 16 (getF F.CMD_CLIENT_LIMIT [recField rec 41 1] s) →
      ∃ u, exec (.ropeCreate (.window q)) s = .next (completed q rec u) ∧
        ropeState r u = RopeSt.ready ∧ ropeJob r u = recField rec 42 2 ∧
        getF F.CMD_ROPE_STATE_CLIENT [r] u = recField rec 41 1 ∧ getF F.CMD_ROPE_STATE_VF [r] u = g 9 1 ∧
        getF F.CMD_ROPE_STATE_REPRO [r] u = g 8 1 ∧ getR .CMD_ROPE_CLUSTERS [r] u = BitVec.ofNat 64 (g 0 8) ∧
        getF F.RTE_PT_REGION_BASE [r] u = g 16 4 % 2 ^ 18 ∧ getF F.RTE_PT_REGION_SIZE [r] u = g 20 4 ∧
        ropeOf r u = { rank := g 10 2, ranks := g 12 4, ptBase := g 16 4, ptSize := g 20 4, belayFirst := g 24 2,
                       belayCount := g 26 2, tmapPages := g 28 4, seed := BitVec.ofNat 64 (g 32 8),
                       seed0 := BitVec.ofNat 64 (g 32 8), nctrl := BitVec.ofNat 64 (g 40 8) &&& 0x13,
                       nctrl0 := BitVec.ofNat 64 (g 40 8) &&& 0x13 } ∧
        (∀ i, g 24 2 ≤ i → i < g 24 2 + g 26 2 → devBelay i u = 0) ∧
        (∀ i, i < g 24 2 ∨ g 24 2 + g 26 2 ≤ i → devBelay i u = devBelay i s) ∧
        getF F.CMD_CLIENT_COUNT [recField rec 41 1] u = getF F.CMD_CLIENT_COUNT [recField rec 41 1] s + 1 ∧
        (∀ o, o ≠ r → ropeOf o u = ropeOf o s) ∧ PlainMemory s u ∧ u.cores = s.cores ∧ u.queues = s.queues) ∧
    (RecordAt q 0x03 rec owner s → mayName owner r s → ropeState r s = RopeSt.ready → bodyZero rec 41 44 →
      bodyZero rec 52 64 → rec.bytes.length = 64 → 0x010000000000 ≤ recField rec 44 6 →
      (jobOf q rec owner).belayOk (recField rec 50 2) s = true →
      ∃ u, exec (.ropeStart (.window q)) s = .next (completed q rec u) ∧
        ropeState r u = RopeSt.running ∧
        (∀ c ∈ ropeCores r s, coreOf c u = { pc := BitVec.ofNat 48 (recField rec 44 6), running := true }) ∧
        (∀ p ∈ ropeClusters r s, clusterState p u = Cl.running) ∧
        (ropeOf r u).seed = (ropeOf r s).seed0 ∧ (ropeOf r u).nctrl = (ropeOf r s).nctrl0 ∧ (ropeOf r u).stop = none ∧
        (ropeOf r u).endBelay = (if recField rec 50 2 = 0xFFFF then none else some (recField rec 50 2)) ∧
        (∀ o, o ≠ r → ropeOf o u = ropeOf o s) ∧
        (∀ c, c / 8 ∉ ropeClusters r s → coreOf c u = coreOf c s) ∧ u.queues = s.queues ∧ u.belays = s.belays)

/-- No commit is pending (R394). -/
def NoCommitPending (s : State) : Prop :=
  getF F.RTE_PT_ACTIVE_PENDING [] s = 0 ∧ getF F.SW_RANKMAP_BANKS_PENDING [] s = 0 ∧ getR .SW_PLAN_PENDING [] s = 0

/-- END and PROGRAM_COMPLETE (R287, R399): completes rows END, PROGRAM_COMPLETE. -/
def Obligations.ProgramsEnd : Prop :=
  (∀ (c r : Nat) (f : Fetched) (s s' : State), Runs c r f .stopProgram s s' →
    ∃ t, exec (.endProgram c) s = .next t ∧ Only [.cores, .reads] s t ∧
      Retired c (pcAfter c f s) { coreOf c s with ended := true, running := false } s t) ∧
  (∀ (r : Nat) (s : State), r < 16 → ropeState r s = RopeSt.running →
    (∀ c ∈ ropeCores r s, coreDone c s = true) → NoCommitPending s → writesOut 544 s = false →
    (∀ e ∈ s.cores, e.2.waiting = []) →
    ∃ t, exec (.programComplete r) s = .next t ∧ Only [.regs, .belays, .reads] s t ∧ ropeState r t = RopeSt.ready ∧
      (∀ p ∈ ropeClusters r s, clusterState p t = if clusterState p s = Cl.running then Cl.drowsy else clusterState p s) ∧
      (∀ b, (ropeOf r s).endBelay = some b →
        devBelay b t = absorbedInc (devBelay b s) ∧ ∀ j, j ≠ b → devBelay j t = devBelay j s) ∧
      ((ropeOf r s).endBelay = none → t.belays = s.belays)) ∧
  (∀ (r : Nat) (s : State), r < 16 → ropeState r s ≠ RopeSt.running → exec (.programComplete r) s = .next (Quiet s))

/-! ## Tables, steps, suspending -/

/-- The value at a raw index of a table of R393: 0 placement, 1 layer directory, 2 rank map, 3 plan directory, 4 plan lines. -/
def tableAt (table x : Nat) (s : State) : Nat :=
  match table with
  | 0 => (tget 0 s.tables.placement x).toNat
  | 1 => (tget 0 s.tables.layerDir x).toNat
  | 2 => (tget 0 s.tables.rankMap x).toNat
  | 3 => (tget 0 s.tables.planDir x).toNat
  | _ => (tget 0 s.tables.planLine x).toNat

/-- The raw index of entry 0 of bank `b` of a table, for rope or plan `i`; bytes of its entries (R393). -/
def tableBase (table i b : Nat) : Nat :=
  match table with
  | 0 => b * 262144
  | 1 => (i * 2 + b) * 256
  | 2 => (i * 2 + b) * 32768
  | 3 => i * 2 + b
  | _ => (i * 2 + b) * 1024

def tableEntryBytes (table : Nat) : Nat := if table = 0 ∨ table = 4 then 16 else if table = 2 then 4 else 8

/-- The commit target a table belongs to (R394). -/
def tableTarget (table : Nat) : Nat := if table ≤ 1 then 0 else if table = 2 then 1 else 2

/-- Entries `first` on of a bank hold the bytes `bs`, every other entry of every table is as before. -/
def TableWritten (table i bank first n : Nat) (bs : List Byte) (s t : State) : Prop :=
  let lo := tableBase table i bank + first
  let w := tableEntryBytes table
  (∀ x, tableAt table x t = if lo ≤ x ∧ x < lo + n then fieldAt bs ((x - lo) * w) w else tableAt table x s) ∧
  ∀ o, o < 5 → o ≠ table → ∀ x, tableAt o x t = tableAt o x s

/-- No rope is READY, so no commit takes effect outside a boundary (R394). -/
def NoneReady (s : State) : Prop := ∀ r, r < 16 → ropeState r s ≠ RopeSt.ready

/-- The record or instruction of a waiter signals nothing when it completes. -/
def SignalsNothing (w : Waiter) (s : State) : Prop :=
  match w with
  | .window q seq => ∀ rec ∈ (queueOf q s).recs, rec.seq = seq → 4096 ≤ recField rec 12 2
  | .instr c => c.rec_ = [] ∨ 4096 ≤ fieldAt c.rec_ 12 2

/-- What completes frees no buffer of an exchange (R84): none is active, or nothing is signalled. -/
def FreesNothing (l : List Waiter) (s : State) : Prop :=
  (∀ x ∈ s.xes, x.2.active = []) ∨ ∀ w ∈ l, SignalsNothing w s

/-- Block `a` of `n` entries of a table reads as block `b` does; the rest is as before. -/
def BlockCopied (table n a b : Nat) (s t : State) : Prop :=
  ∀ x, tableAt table x t = if b ≤ x ∧ x < b + n then tableAt table (a + (x - b)) s else tableAt table x s

/-- The table rows (R393, R394): completes rows TABLE_WRITE (targets 0 to 4), TABLE_WRITE_DEFERRED, TABLE_COMMIT, PLAN_FLIP,
COPY_BACK_COMPLETE. -/
def Obligations.TablesAreWrittenAndFlipped : Prop :=
  (∀ (q : Nat) (rec : Rec) (owner : Requester) (s : State), RecordAt q 0x08 rec owner s →
    let table := recField rec 40 1
    let i := recField rec 41 1
    let first := recField rec 44 4
    let n := recField rec 48 4
    let bs := hostBytes s (recField rec 52 6) (n * tableEntryBytes table)
    table < 5 → (table < 3 → mayName owner i s ∧ takesTables i s = true) →
    (3 ≤ table → planAllowed (jobOf q rec owner) i s = true) → 1 ≤ n → n ≤ 4194304 → rangeOk table i first n s = true →
    bodyZero rec 42 44 → bodyZero rec 58 64 →
    s.mem.anyPoison (hostPlace (recField rec 52 6)) (n * tableEntryBytes table) = false →
    (writeHeld table i s = false →
      ∃ u, exec (.tableWrite (.window q)) s = .next (completed q rec u) ∧ Only [.tables, .mem] s u ∧
        PlainMemory s u ∧ (table ≠ 0 → u.mem = s.mem) ∧
        (table = 0 → ∀ x, x < n → let w := hubWord (tableBase 0 i (1 - bankOf 0 i s) + first + x)
          u.mem.poisoned (16 * w) = false ∧ tget 0 u.mem.errs w = 0) ∧
        TableWritten table i (1 - bankOf (tableTarget table) i s) first n bs s u ∧
        u.tables.tierMap = s.tables.tierMap ∧ u.tables.pages = s.tables.pages) ∧
    (writeHeld table i s = true →
      ∃ (d : Deferred) (u : State), exec (.tableWrite (.window q)) s = .next (startRec q (dropReads 544 u)) ∧
        Only [.tables] s u ∧ u.tables = { s.tables with deferred := s.tables.deferred ++ [d] } ∧ d.target = table ∧
        d.index = i ∧ d.first = first ∧ d.entries.length = n ∧ d.who = .window q rec.seq ∧
        d.flip = pendingOf (tableTarget table) i s ∧
        ∀ k, k < n → leNat (d.entries.getD k []) = fieldAt bs (k * tableEntryBytes table) (tableEntryBytes table))) ∧
  (∀ (s : State) (l r : List Deferred) (d : Deferred), s.tables.deferred = l ++ d :: r →
    (∀ x ∈ l, x.free s = false) → d.free s = true → d.target < 5 →
    rangeOk d.target d.index d.first d.entries.length s = true →
    ∃ u, exec .tableWriteDeferred s = .next (settleReady (completeWaiter d.who u)) ∧ Only [.tables, .mem] s u ∧
      PlainMemory s u ∧ u.tables.deferred = l ++ r ∧
      (NoneReady s → settleReady (completeWaiter d.who u) = endAccess 544 0 (completeWaiter d.who u)) ∧
      TableWritten d.target d.index (1 - bankOf (tableTarget d.target) d.index s) d.first d.entries.length
        (d.entries.flatMap (fun e => natLe (tableEntryBytes d.target) (leNat e))) s u) ∧
  (∀ (q : Nat) (rec : Rec) (owner : Requester) (s : State), RecordAt q 0x09 rec owner s →
    let target := recField rec 40 1
    let i := recField rec 41 1
    target < 2 → mayName owner i s → takesTables i s = true → recField rec 42 1 < 2 → bodyZero rec 43 44 →
    bodyZero rec 50 64 →
    (NoneReady s →
      ∃ t, exec (.tableCommit (.window q)) s = .next t ∧ pendingOf target i t = true ∧ bankOf target i t = bankOf target i s ∧
        (∀ x, x < 5 → ∀ y, tableAt x y t = tableAt x y s) ∧
        ((queueOf q t).recs.find? (fun r => decide (r.seq = rec.seq) && r.started && ! r.done)).isSome = true) ∧
    (ropeState i s = RopeSt.ready → NoCommitPending s → s.tables.commits = [] → s.tables.copyBack = [] →
      recField rec 44 6 = 0 → recField rec 42 1 = 0 → (queueOf q s).recs = [rec] →
      (∀ d ∈ s.tables.deferred, sameQueue d.who (.window q rec.seq) = false) → FreesNothing [.window q rec.seq] s →
      ∃ t, exec (.tableCommit (.window q)) s = .next t ∧ pendingOf target i t = false ∧
        bankOf target i t = 1 - bankOf target i s ∧ (∀ x, x < 5 → ∀ y, tableAt x y t = tableAt x y s) ∧
        (queueOf q t).recs = [] ∧ (target = 0 → (ropeOf i t).commitCount = (ropeOf i s).commitCount + 1))) ∧
  (∀ (p : Nat) (s : State), p < 64 → pendingOf 2 p s = true →
    (∀ r, jobRope (planJob p s) s = some r → ropeState r s = RopeSt.ready) →
    (∀ c ∈ s.tables.commits, c.target = 2 → c.index = p → c.status = none) →
    let need := planSlots p (1 - bankOf 2 p s) s
    let mine := s.tables.commits.filter (fun c => decide (c.target = 2 ∧ c.index = p))
    (commitWaits 2 p s = true → exec (.planFlip p) s = .next (endAccess 544 0 (Quiet s))) ∧
    (commitWaits 2 p s = false →
     ∃ t, exec (.planFlip p) s = .next (endAccess 544 0 (completeAll (mine.map (fun c => c.who)) t)) ∧
      pendingOf 2 p t = false ∧
      (∀ x, x < 5 → ∀ y, tableAt x y t = tableAt x y s) ∧ t.mem = s.mem ∧
      ((∀ x ∈ need, slotPasses p x.1 s = true) → bankOf 2 p t = 1 - bankOf 2 p s ∧
        ∀ x ∈ need, ∃ c, t.tables.calendar.find? (fun e => decide (e.1 = x.1)) = some (x.1, c) ∧ c.draining = false ∧ c.plan = p) ∧
      ((∃ x ∈ need, slotPasses p x.1 s = false) → bankOf 2 p t = bankOf 2 p s ∧ t.tables.calendar = s.tables.calendar))) ∧
  (∀ (k target i : Nat) (s : State), s.tables.copyBack[k]? = some (target, i) → target < 3 → i < 64 →
    s.mem.errs = [] →
    let a := bankOf target i s
    let b := 1 - a
    ∃ t, exec (.copyBackComplete k) s = .next (settleReady t) ∧ (NoneReady s → settleReady t = endAccess 544 0 t) ∧
      Only [.tables, .mem] s t ∧ PlainMemory s t ∧ (target ≠ 0 → t.mem = s.mem) ∧
      t.tables.copyBack = dropAt s.tables.copyBack k ∧
      (target = 0 → ∀ x, x < (ropeOf i s).ptSize →
        t.mem.poisoned (16 * hubWord (tableBase 0 i b + (ropeOf i s).ptBase + x)) =
          s.mem.poisoned (16 * hubWord (tableBase 0 i a + (ropeOf i s).ptBase + x))) ∧
      (target = 0 → BlockCopied 0 (ropeOf i s).ptSize (tableBase 0 i a + (ropeOf i s).ptBase)
          (tableBase 0 i b + (ropeOf i s).ptBase) s t ∧ BlockCopied 1 256 (tableBase 1 i a) (tableBase 1 i b) s t) ∧
      (target = 1 → BlockCopied 2 32768 (tableBase 2 i a) (tableBase 2 i b) s t) ∧
      (target = 2 → BlockCopied 3 1 (tableBase 3 i a) (tableBase 3 i b) s t ∧
          BlockCopied 4 1024 (tableBase 4 i a) (tableBase 4 i b) s t))

/-- From `w`, whose save area is written, rope `r` has left the engines (R270, R271, R400): `u`, but for the record. -/
def LeftEngines (r : Nat) (k : Suspend) (s w u : State) : Prop :=
  ropeState r u = RopeSt.suspended ∧ (ropeOf r u).suspend = none ∧ (ropeOf r u).stop = none ∧
  (∀ c ∈ ropeCores r s, coreOf c u = {}) ∧
  (∀ d, ∀ e ∈ (tget ({} : Rte) u.rtes d).queue, e.rope ≠ r) ∧ (∀ d, ∀ e ∈ (tget ({} : Xe) u.xes d).queue, e.rope ≠ r) ∧
  (k.spill = false → u.mem = w.mem ∧ ∀ p ∈ ropeClusters r s, clusterState p u = Cl.drowsy) ∧
  (k.spill = true → openColls r w = [] → ∀ p ∈ ropeClusters r s, clusterState p u = Cl.gated)

/-- Suspending and resuming (R400, R401): completes rows ROPE_SUSPEND, SUSPEND_SAVE, ROPE_RESUME, RESUME_COMPLETE. -/
def Obligations.SuspendAndResume : Prop :=
  (∀ (q : Nat) (rec : Rec) (owner : Requester) (s : State), RecordAt q 0x04 rec owner s →
    let r := recField rec 40 1
    let a := recField rec 44 6
    let spill := decide (recField rec 41 1 = 1)
    mayName owner r s → ropeState r s = RopeSt.running → recField rec 41 1 < 2 → bodyZero rec 42 44 → bodyZero rec 50 64 →
    a % 65536 = 0 → 0x010000000000 ≤ a → writable (cmdWho r) a (saveBytes (ropeClusters r s).length spill) s = true →
    ∃ u, exec (.ropeSuspend (.window q)) s = .next (startRec q (dropReads 544 u)) ∧ Only [.regs, .ropes] s u ∧
      RegsOnly [(.CMD_ROPE_STATE, [r])] s u ∧ ropeState r u = RopeSt.suspending ∧ ropeJob r u = ropeJob r s ∧
      ropeOf r u = { ropeOf r s with suspend := some ⟨a, spill, .window q rec.seq, false⟩ } ∧ ∀ o, o ≠ r → ropeOf o u = ropeOf o s) ∧
  (∀ (r : Nat) (k : Suspend) (s w : State), r < 16 → ropeState r s = RopeSt.suspending → (ropeOf r s).suspend = some k →
    (k.written = false → ropeBusy r s = true → exec (.suspendSave r) s = .next (Quiet s)) ∧
    (k.written = false → ropeBusy r s = false → writeSave r k (Quiet s) = .ok w → ropeClusters r w = ropeClusters r s →
      ropeCores r w = ropeCores r s →
      (writesOut 544 w = true → exec (.suspendSave r) s =
        .next (endAccess 544 0 (modRope r (fun x => { x with suspend := some { k with written := true } }) w))) ∧
      (writesOut 544 w = false →
        ∃ u, exec (.suspendSave r) s = .next (endAccess 544 0 (completeWaiter k.who u)) ∧ LeftEngines r k s w u)) ∧
    (k.written = true →
      (writesOut 544 s = true → exec (.suspendSave r) s = .next (Quiet s)) ∧
      (writesOut 544 s = false →
        ∃ u, exec (.suspendSave r) s = .next (completeWaiter k.who u) ∧ LeftEngines r k s s u))) ∧
  (∀ (q : Nat) (rec : Rec) (owner : Requester) (s : State), RecordAt q 0x05 rec owner s →
    let r := recField rec 40 1
    let a := recField rec 44 6
    let new := if recField rec 56 8 = 0 then ropeClusters r s else clustersOf (recField rec 56 8)
    mayName owner r s → ropeState r s = RopeSt.suspended → bodyZero rec 41 44 → bodyZero rec 50 56 → a % 65536 = 0 →
    0x010000000000 ≤ a → saveOk r a new (Quiet s) = .ok true →
    ∃ u, exec (.ropeResume (.window q)) s = .next (startRec q (dropReads 544 u)) ∧ ropeState r u = RopeSt.resuming ∧
      ropeClusters r u = new ∧ (∀ p ∈ new, clusterState p u = Cl.running) ∧
      ropeOf r u = { ropeOf r s with resume := some ⟨a, false, .window q rec.seq, false⟩ } ∧ ∀ o, o ≠ r → ropeOf o u = ropeOf o s) ∧
  (∀ (r : Nat) (k : Suspend) (h : List Byte) (s w : State), r < 16 → ropeState r s = RopeSt.resuming →
    (ropeOf r s).resume = some k → rdGood (cmdWho r) k.save 0x10000 (Quiet s) = .ok h →
    queuesHaveRoom r h (Quiet s) = true → restoreRope r k.save h (Quiet s) = .ok w →
    ∃ u, exec (.resumeComplete r) s = .next (endAccess 544 0 (completeWaiter k.who u)) ∧ Only [.regs] w u ∧
      RegsOnly [(.CMD_ROPE_STATE, [r])] w u ∧
      ropeState r u = (if (ropeOf r w).stop = none then RopeSt.running else RopeSt.stopped)) ∧
  (∀ (r : Nat) (s : State), r < 16 →
    (ropeState r s ≠ RopeSt.suspending → exec (.suspendSave r) s = .next (Quiet s)) ∧
    (ropeState r s ≠ RopeSt.resuming → exec (.resumeComplete r) s = .next (Quiet s)))

/-- What a core block keeps (R273, R274). -/
def Obligations.SavedCoreIsRestored : Prop :=
  ∀ (k : Core) (run : Bool) (n : Nat), k.ended = false →
    (∀ q ∈ [k.mxeQ, k.vxeQ, k.mgeQ, k.dmvQ], q.length ≤ 32 ∧ ∀ e ∈ q, e.started = false) →
    let b := coreBlock k
    let t := coreOfBlock b run n
    b.length = 0x40000 ∧
    (∀ i, i < 32 → t.getG i = k.getG i) ∧ (∀ i, i < 32 → t.getT i = k.getT i) ∧ (∀ i, i < 8 → t.getP i = k.getP i) ∧
    t.pc = k.pc ∧ t.issue = k.issue ∧ t.nstat = k.nstat ∧ (∀ i, i < 64 → tget 0 t.belays i = tget 0 k.belays i) ∧
    t.running = run ∧
    (let same := fun (x y : List QEntry) => x.length = y.length ∧ ∀ i, i < y.length →
        { (x.getD i {}) with pc := 0 } = { (y.getD i {}) with pc := 0 }
     same t.mxeQ k.mxeQ ∧ same t.vxeQ k.vxeQ ∧ same t.mgeQ k.mgeQ ∧ same t.dmvQ k.dmvQ)

/-- STEP_MARK and STEP_BOUNDARY (R404): completes those rows. -/
def Obligations.StepBoundaries : Prop :=
  (∀ (q : Nat) (rec : Rec) (owner : Requester) (s : State), RecordAt q 0x0C rec owner s →
    let r := recField rec 40 1
    mayName owner r s → (ropeState r s = RopeSt.running ∨ ropeState r s = RopeSt.suspended) → composerOn r s = false →
    bodyZero rec 41 64 →
    ∃ (u : State) (b : Boundary), exec (.stepMark (.window q)) s = .next (startRec q (dropReads 544 u)) ∧ Only [.ropes] s u ∧
      ropeOf r u = { ropeOf r s with boundary := some b } ∧
      b.marks = (((ropeOf r s).boundary.map (fun x => x.marks)).getD []) ++ [.window q rec.seq] ∧
      ∀ o, o ≠ r → ropeOf o u = ropeOf o s) ∧
  (∀ (r : Nat) (s : State), r < 16 → ((ropeOf r s).boundary = none ∨ rteBusy r s = true ∨ flipsWait r s = true) →
    exec (.stepBoundary r) s = .next (endAccess 544 0 (Quiet s))) ∧
  (∀ (r : Nat) (b : Boundary) (s : State), r < 16 → (ropeOf r s).boundary = some b → b.held = false → b.composer = false →
    b.compose0 = false → (ropeState r s = RopeSt.running ∨ ropeState r s = RopeSt.suspended) → rteBusy r s = false →
    flipsWait r s = false → FreesNothing (b.marks.take 1 ++ s.tables.commits.map (fun c => c.who)) s →
    checkpointDue r s = false → getF F.MEM_PF_CTRL_PENDING [r] s = 0 → getR .SW_PLAN_PENDING [] s = 0 →
    (∀ c ∈ s.tables.commits, c.status = none) →
    ∃ t, exec (.stepBoundary r) s = .next t ∧
      getF F.CMD_ROPE_STATE_STEP [r] t = (getF F.CMD_ROPE_STATE_STEP [r] s + 1) % 65536 ∧
      (∀ target, target < 2 → pendingOf target r t = false ∧
        bankOf target r t = if pendingOf target r s then 1 - bankOf target r s else bankOf target r s) ∧
      (∀ o, o < 16 → o ≠ r → ∀ target, target < 2 → bankOf target o t = bankOf target o s ∧
        pendingOf target o t = pendingOf target o s) ∧
      (ropeOf r t).boundary = (if b.marks.drop 1 = [] then none else some { marks := b.marks.drop 1 }) ∧
      ropeState r t = ropeState r s ∧ t.mem = s.mem ∧ t.cores = s.cores ∧
      (∀ x, x < 5 → ∀ y, tableAt x y t = tableAt x y s))

/-- The composer (R405 to R409): completes rows COMPOSE_CFG, SEQ_ADD, SEQ_CANCEL, COMPOSER_STEP. -/
def Obligations.ComposerCommands : Prop :=
  let free := fun (r : Nat) (s : State) => (ropeOf r s).boundary = none ∧ rteBusy r s = false ∧ checkpointDue r s = false ∧
    NoCommitPending s ∧ getF F.MEM_PF_CTRL_PENDING [r] s = 0
  (∀ (q : Nat) (rec : Rec) (owner : Requester) (s : State), RecordAt q 0x0D rec owner s →
    let r := recField rec 40 1
    mayName owner r s → (ropeState r s = RopeSt.ready ∨ ropeState r s = RopeSt.running) → bodyZero rec 41 44 →
    bodyZero rec 50 64 →
    (recField rec 44 6 = 0 →
      ∃ u, exec (.composeCfg (.window q)) s = .next (completed q rec u) ∧ composerOn r u = false ∧
        ropeOf r u = { ropeOf r s with composer := {} } ∧ Only [.ropes, .regs] s u) ∧
    (recField rec 44 6 ≠ 0 → s.mem.anyPoison (hostPlace (recField rec 44 6)) 64 = false →
      let d := hostBytes s (recField rec 44 6) 64
      composerOk r d s = true → free r s →
      ∃ u, exec (.composeCfg (.window q)) s = .next (completed q rec u) ∧ composerOn r u = true ∧
        (ropeOf r u).composer = {
          budget := fieldAt d 0 2 + 1, chunk := fieldAt d 2 2, maxSeqs := fieldAt d 4 2,
          readyB := fieldAt d 6 2, doneB := fieldAt d 8 2, stepArea := fieldAt d 16 6, resultArea := fieldAt d 24 6,
          empty := true } ∧
        (ropeOf r u).boundary = none ∧
        getF F.CMD_ROPE_STATE_STEP [r] u = (getF F.CMD_ROPE_STATE_STEP [r] s + 1) % 65536 ∧
        devBelay (fieldAt d 6 2) u = 0 ∧ devBelay (fieldAt d 8 2) u = 0 ∧ u.mem = s.mem ∧ u.cores = s.cores)) ∧
  (∀ (q : Nat) (rec : Rec) (owner : Requester) (s : State), RecordAt q 0x0E rec owner s →
    let r := recField rec 40 1
    let k := (ropeOf r s).composer
    mayName owner r s → (ropeState r s = RopeSt.ready ∨ ropeState r s = RopeSt.running) → composerOn r s = true →
    recField rec 41 1 < 4 → 1 ≤ recField rec 48 4 → recField rec 48 4 ≤ 16777216 → bodyZero rec 42 44 →
    bodyZero rec 52 64 → (∀ x ∈ k.act ++ k.pend, x.id.toNat ≠ recField rec 44 4) → k.pend.length < 65536 → k.empty = false →
    ∃ u, exec (.seqAdd (.window q)) s = .next (completed q rec u) ∧ Only [.ropes, .regs] s u ∧
      RegsOnly [(.CMD_COMPOSER, [r])] s u ∧
      ropeOf r u = { ropeOf r s with composer := { k with pend := k.pend ++
        [{ id := BitVec.ofNat 32 (recField rec 44 4), prio := recField rec 41 1, prompt := recField rec 48 4 }] } }) ∧
  (∀ (q : Nat) (rec : Rec) (owner : Requester) (s : State), RecordAt q 0x0F rec owner s →
    let r := recField rec 40 1
    let mark := fun (x : Seq) => if x.id.toNat = recField rec 44 4 then { x with cancelled := true } else x
    mayName owner r s → (ropeState r s = RopeSt.ready ∨ ropeState r s = RopeSt.running) → bodyZero rec 41 44 →
    bodyZero rec 48 64 →
    ∃ u, exec (.seqCancel (.window q)) s = .next (completed q rec u) ∧ Only [.ropes, .regs] s u ∧
      RegsOnly [(.CMD_COMPOSER, [r])] s u ∧
      (ropeOf r u).composer = { (ropeOf r s).composer with
        act := (ropeOf r s).composer.act.map mark, pend := (ropeOf r s).composer.pend.map mark }) ∧
  (∀ (r : Nat) (s : State), r < 16 → (devBelay (ropeOf r s).composer.doneB s).toNat < (ropeOf r s).composer.step + 1 →
    exec (.composerStep r) s = .next (Quiet s)) ∧
  (∀ (r : Nat) (x : Seq) (e : StepEntry) (v : Byte) (s : State),
    let k := (ropeOf r s).composer
    r < 16 → composerOn r s = true → (ropeState r s = RopeSt.ready ∨ ropeState r s = RopeSt.running) → free r s →
    k.empty = false →
    k.entries = [e] → e.kind = 0 → k.act = [x] → x.id = e.id → x.cancelled = false → k.pend = [] →
    k.step + 1 ≤ (devBelay k.doneB s).toNat →
    rd (cmdWho r) (k.resultArea + k.step % 2 * 0x10000) 1 s = .ok ([v], 0) → v.getLsbD 0 = true →
    ∃ t, exec (.composerStep r) s = .next t ∧ (ropeOf r t).composer.act = [] ∧ (ropeOf r t).composer.empty = true ∧
      (ropeOf r t).composer.step = (k.step + 1) % 2 ^ 32 ∧ (ropeOf r t).boundary = none ∧
      getF F.CMD_ROPE_STATE_STEP [r] t = (getF F.CMD_ROPE_STATE_STEP [r] s + 1) % 65536 ∧ t.mem = s.mem ∧
      t.belays = s.belays)

/-! ## The engines -/

/-- A row of the engine commands: command, engine, operation, effect. -/
abbrev EngineRow : Type := (Nat → Instr) × Nat × Nat × (Nat → EngFx)

/-- The engine commands: command, engine (R257), operation (R292), effect. -/
def engineRows : List EngineRow :=
  ([(.mclr, 1, 0x01, mclrFx), (.mld, 1, 0x02, mldFx), (.mma, 1, 0x10, fun c => mmaFx c 0), (.mma24, 1, 0x11, fun c => mmaFx c 2),
    (.mma14, 1, 0x12, fun c => mmaFx c 1), (.mst, 1, 0x20, mstFx), (.mstc, 1, 0x21, mstcFx)] : List EngineRow) ++
  ([(.vadd, 2, 0x01, vaddFx), (.vsub, 2, 0x02, vsubFx), (.vmul, 2, 0x03, vmulFx), (.vfma, 2, 0x04, vfmaFx), (.vdiv, 2, 0x05, vdivFx),
    (.vmax, 2, 0x06, vmaxFx), (.vmin, 2, 0x07, vminFx), (.vabs, 2, 0x08, vabsFx), (.vneg, 2, 0x09, vnegFx),
    (.vsqrt, 2, 0x0A, vsqrtFx), (.vrsqrt, 2, 0x0B, vrsqrtFx), (.vexp, 2, 0x0C, vexpFx), (.vlog, 2, 0x0D, vlogFx),
    (.vtanh, 2, 0x0E, vtanhFx), (.vsigm, 2, 0x0F, vsigmFx), (.vsilu, 2, 0x10, vsiluFx), (.vgelu, 2, 0x11, vgeluFx),
    (.vmuls, 2, 0x12, vmulsFx)] : List EngineRow) ++
  ([(.vrsum, 2, 0x18, vrsumFx), (.vrmax, 2, 0x19, vrmaxFx), (.vrmin, 2, 0x1A, vrminFx), (.vcvt, 2, 0x20, vcvtFx),
    (.vatadd, 2, 0x28, vataddFx), (.vatmax, 2, 0x29, vatmaxFx), (.minter, 3, 0x01, minterFx), (.munion, 3, 0x02, munionFx),
    (.mgroup, 3, 0x03, mgroupFx), (.dmove, 4, 0x01, dmoveFx), (.dcomp, 4, 0x02, dcompFx), (.dilist, 4, 0x03, dilistFx),
    (.dfill, 4, 0x04, dfillFx), (.dhist, 4, 0x05, dhistFx)] : List EngineRow)

/-- Core `c` of rope `r` has `e`, of operation `op`, at the head of engine `src`'s queue, and it may run: the rope runs and its waits
are satisfied, or it has started already and its rope only stops or suspends (R261, R267, R270). -/
structure HeadReady (src op c r : Nat) (e : QEntry) (s : State) : Prop where
  rope : ropeOfCore c s = some r
  runs : mayRun r e.started s = true
  head : (engQueue src (coreOf c s)).head? = some e
  op : wf32 e.w0 27 20 = op
  waits : e.started = true ∨ waitsHold r c e s = true

/-- The signal of R262 of entry `e`, from the state `u` to `t`: none, to a core belay, to a device belay, or held back. -/
def SignalGiven (who r c : Nat) (e : QEntry) (u t : State) : Prop :=
  let v := e.w1.toNat / 2 % 128
  let set := e.w1.toNat % 2 = 1
  let dev := (ropeOf r u).belayFirst + (v - 0x40)
  (v = 0x7F → t.belays = u.belays ∧ t.heldSigs = u.heldSigs) ∧
  (v < 0x40 → writesOut who u = false → t.belays = u.belays ∧
    ((set → coreBelay c v t = e.sig) ∧ (¬ set → coreBelay c v t = absorbedInc (coreBelay c v u)))) ∧
  (0x40 ≤ v → v < 0x7F → v - 0x40 < (ropeOf r u).belayCount → writesOut who u = false →
    ((set → devBelay dev t = e.sig) ∧ (¬ set → devBelay dev t = absorbedInc (devBelay dev u))) ∧
    ∀ j, j ≠ dev → devBelay j t = devBelay j u) ∧
  (v < 0x40 → writesOut who u = true → t.belays = u.belays ∧
    ∃ x, t.heldSigs = u.heldSigs ++ [⟨who, false, c * 64 + v, x, e.sig, some c, e.tag⟩] ∧ (x = true ↔ set))

/-- The engine commands (R257 to R262, R265, R246): completes the 39 rows of the MXE, VXE, MGE and DMV. Where no such head stands
the command does nothing: the model's choice (log 10). -/
def Obligations.EnginesRunTheirHead : Prop :=
  ∀ (i : Nat → Instr) (src op c : Nat) (fx : Nat → EngFx) (s : State), (i, src, op, fx) ∈ engineRows →
    (∀ (r : Nat) (e : QEntry), HeadReady src op c r e s → (i c = .vatadd c → repro r s = false) →
      let w := engWho src r c
      (∀ (u : State) (fl : Word), fx c r e (popEngine src c (Quiet s)) = .done u fl →
        let traps := fl.getLsbD 0 = true ∧ e.nctrl.getLsbD 4 = true ∧ src ≠ 3
        (¬ traps → ∃ t, exec (i c) s = .next (settleSlots t) ∧ (NoBufferDue t → settleSlots t = t) ∧ t.mem = u.mem ∧ (coreOf c t).nstat = (coreOf c u).nstat ||| fl ∧
          engQueue src (coreOf c t) = engQueue src (coreOf c u) ∧ SignalGiven w.id r c e u t) ∧
        (traps → exec (i c) s =
          .next (engineFault r c src e.tag e.pc St.nanSeen 0 (endAccess w.id 0 (raiseNstat c fl u))))) ∧
      (∀ (u : State) (st a : Nat), fx c r e (popEngine src c (Quiet s)) = .fail u st a →
        exec (i c) s = .next (engineFault r c src e.tag e.pc st a (endAccess w.id st u))) ∧
      (∀ (l h o : Nat), fx c r e (popEngine src c (Quiet s)) = .need l h o →
        exec (i c) s = .next (askLender w l h o (beginEngine src c (Quiet s))))) ∧
    ((∀ (r : Nat) (e : QEntry), ¬ HeadReady src op c r e s) → exec (i c) s = .next (Quiet s))

/-- A descriptor of a dense tile of one row of `cols` elements of format `f` at address `a` (R300, R301). -/
def IsRow (v : BitVec 128) (a cols f : Nat) : Prop :=
  ∃ stride, tileOf v = ⟨a, 1, cols, stride, f, 0, false, false, 0⟩ ∧ a % 16 = 0 ∧ f ∈ [1, 2, 3]

/-- The bytes of an element of FP32, BF16 or FP16. -/
def elemBytes (f : Nat) : Nat := if f = 1 then 4 else 2

/-- The row of `cols` elements of format `f` at core-store address `a` of core `c` lies in the store and is not poisoned. -/
def RowReads (c a cols f : Nat) (s : State) : Prop :=
  a + cols * elemBytes f ≤ 0x200000 ∧ s.mem.anyPoison (corePlace c a) (cols * elemBytes f) = false

/-- The bits of element `i` of that row. -/
def rowBits (c a f i : Nat) (s : State) : Nat := leNat (s.mem.bytes (corePlace c a + i * elemBytes f) (elemBytes f))

/-- The value of element `i` of that row (R227). -/
def rowNum (c a f i : Nat) (s : State) : FNum := (elemOf f).decode (rowBits c a f i s)

/-- What an engine instruction that writes the bytes `bs` at core-store address `a` and raises the flags `fl` leaves (R247, R262):
the bytes stored, the flags ORed into the status word, the entry off its queue, where no stored word holds an error not yet found;
then buffers that the signal frees go back (R84). -/
def EngineWrites (src c : Nat) (e : QEntry) (i : Instr) (a : Nat) (bs : List Byte) (fl : Word) (s : State) : Prop :=
  (fl.getLsbD 0 = false ∨ e.nctrl.getLsbD 4 = false ∨ src = 3) → coreEnabled c s = true → a + bs.length ≤ 0x200000 →
  s.mem.errs = [] →
  ∃ t, exec i s = .next (settleSlots t) ∧ (NoBufferDue t → settleSlots t = t) ∧ StoredAt (corePlace c a) bs s t ∧ (coreOf c t).nstat = (coreOf c s).nstat ||| fl ∧
    engQueue src (coreOf c t) = (engQueue src (coreOf c s)).tail ∧
    Only [.mem, .cores, .reads, .belays, .regs, .heldSigs] s t

/-- The same for one value written as an element of format `f`: rounded once in the active mode (R234, R236). -/
def ElementWritten (src c : Nat) (e : QEntry) (i : Instr) (a f : Nat) (v : NumF) (s : State) : Prop :=
  let x := (elemOf f).encode (roundAt e a 0) 0 v.1
  EngineWrites src c e i a (natLe (elemBytes f) x.1) (v.2 ||| x.2) s

/-- An element-wise vector instruction: command, operation, the operands read as tiles, whether it does not round, its function. -/
abbrev ElementRow : Type := (Nat → Instr) × Nat × VUses × Bool × (QEntry → VArgs → FNum × Word)

/-- The element-wise vector instructions: command, operation, the operands read as tiles, whether it does not round (R316), and its
function of the elements of A, B and C (R318, R319, R322). -/
def elementRows : List ElementRow :=
  ([(.vadd, 0x01, vBC, false, fun _ v => numAdd v.b v.c), (.vsub, 0x02, vBC, false, fun _ v => numAdd v.b (numNeg v.c)),
    (.vmul, 0x03, vBC, false, fun _ v => numMul v.b v.c),
    (.vfma, 0x04, ⟨true, true, true⟩, false, fun _ v => numFma v.a v.b v.c), (.vdiv, 0x05, vBC, false, fun _ v => numDiv v.b v.c),
    (.vmax, 0x06, vBC, true, fun _ v => (numMax v.b v.c, 0)), (.vmin, 0x07, vBC, true, fun _ v => (numMin v.b v.c, 0)),
    (.vabs, 0x08, vB, true, fun _ v => (numAbs v.b, 0)), (.vneg, 0x09, vB, true, fun _ v => (numNeg v.b, 0)),
    (.vsqrt, 0x0A, vB, false, fun _ v => numSqrt v.b),
    (.vrsqrt, 0x0B, vB, false, fun _ v => vxeFn 2 (2 + 8 * v.fmt) (BitVec.ofNat 32 v.bits) v.b),
    (.vexp, 0x0C, vB, false, fun _ v => vxeFn 0 (8 * v.fmt) (BitVec.ofNat 32 v.bits) v.b),
    (.vlog, 0x0D, vB, false, fun _ v => vxeFn 1 (1 + 8 * v.fmt) (BitVec.ofNat 32 v.bits) v.b)] : List ElementRow) ++
  ([(.vtanh, 0x0E, vB, false, fun _ v => vxeFn 3 (3 + 8 * v.fmt) (BitVec.ofNat 32 v.bits) v.b),
    (.vsigm, 0x0F, vB, false, fun _ v => vxeFn 4 (4 + 8 * v.fmt) (BitVec.ofNat 32 v.bits) v.b),
    (.vsilu, 0x10, vB, false, fun _ v => vxeFn 5 (5 + 8 * v.fmt) (BitVec.ofNat 32 v.bits) v.b),
    (.vgelu, 0x11, vB, false, fun _ v => vxeFn 6 (6 + 8 * v.fmt) (BitVec.ofNat 32 v.bits) v.b),
    (.vmuls, 0x12, vB, false, fun e v => numMul v.b (fp32.decode (e.opC.toNat % 2 ^ 32))),
    (.vatadd, 0x28, vAtomic, false, fun _ v => numAdd v.a v.b), (.vatmax, 0x29, vAtomic, true, fun _ v => (numMax v.a v.b, 0))] : List ElementRow)

/-- The element-wise vector instructions (R316 to R319, R322): completes VADD, VSUB, VMUL, VFMA, VDIV, VMAX, VMIN, VABS, VNEG, VSQRT,
VRSQRT, VEXP, VLOG, VTANH, VSIGM, VSILU, VGELU, VMULS, VATADD and VATMAX. -/
def Obligations.VectorElements : Prop :=
  ∀ (i : Nat → Instr) (op c r a b d fa fb fd : Nat) (u : VUses) (exact : Bool) (fn : QEntry → VArgs → NumF) (e : QEntry)
    (s : State), (i, op, u, exact, fn) ∈ elementRows → HeadReady 2 op c r e s → (i c = .vatadd c → repro r s = false) →
    IsRow e.opA a 1 fa → (u.a = true → RowReads c a 1 fa s) → IsRow e.opB b 1 fb → RowReads c b 1 fb s →
    (u.c = true → IsRow e.opC d 1 fd ∧ RowReads c d 1 fd s) →
    (exact = true → fa = 1 ∨ (fb = fa ∧ (u.c = true → fd = fa))) →
    ElementWritten 2 c e (i c) a fa
      (fn e ⟨rowNum c a fa 0 s, rowNum c b fb 0 s, rowNum c d fd 0 s, rowBits c b fb 0 s, fb⟩) s

/-- Reductions, conversion and the special inputs of R319 (R320, R321): completes VRSUM, VRMAX, VRMIN, VCVT. -/
def Obligations.ReductionsAndConversion : Prop :=
  (∀ (c r a b fa fb : Nat) (e : QEntry) (s : State),
    IsRow e.opA a 1 fa → IsRow e.opB b 2 fb → RowReads c b 2 fb s →
    let x := rowNum c b fb 0 s
    let y := rowNum c b fb 1 s
    let sum := fp32.round rne (numAdd x y).1
    (HeadReady 2 0x18 c r e s →
      ElementWritten 2 c e (.vrsum c) a fa (fp32.decode sum.1, (numAdd x y).2 ||| (sum.2 &&& Ns.inf)) s) ∧
    (HeadReady 2 0x19 c r e s → (fa = 1 ∨ fa = fb) → ElementWritten 2 c e (.vrmax c) a fa (numMax x y, 0) s) ∧
    (HeadReady 2 0x1A c r e s → (fa = 1 ∨ fa = fb) → ElementWritten 2 c e (.vrmin c) a fa (numMin x y, 0) s)) ∧
  (∀ (c r a b fa fb : Nat) (e : QEntry) (s : State), HeadReady 2 0x20 c r e s → IsRow e.opA a 1 fa → IsRow e.opB b 1 fb →
    RowReads c b 1 fb s → ElementWritten 2 c e (.vcvt c) a fa (rowNum c b fb 0 s, 0) s) ∧
  (∀ (key m : Nat) (x : Int) (n : Bool) (bits : BitVec 32), 0 < m →
    let f := fun (op : Nat) (v : FNum) => vxeFn op key bits v
    (∀ op, op < 7 → f op .nan = (.nan, 0)) ∧
    f 0 (.inf true) = (.fin false 0 0, 0) ∧ f 0 (.inf false) = (.inf false, 0) ∧
    f 1 (.fin n 0 x) = (.inf true, Ns.inf) ∧ f 1 (.fin true m x) = (.nan, Ns.invalid) ∧ f 1 (.inf false) = (.inf false, 0) ∧
    f 2 (.fin n 0 x) = (.inf n, Ns.inf) ∧ f 2 (.fin true m x) = (.nan, Ns.invalid) ∧ f 2 (.inf false) = (.fin false 0 0, 0) ∧
    f 3 (.fin n 0 x) = (.fin n 0 0, 0) ∧ f 3 (.inf n) = (.fin n 1 0, 0) ∧
    f 4 (.inf false) = (.fin false 1 0, 0) ∧ f 4 (.inf true) = (.fin false 0 0, 0) ∧
    (∀ op, op = 5 ∨ op = 6 → f op (.fin n 0 x) = (.fin n 0 0, 0) ∧ f op (.inf false) = (.inf false, 0) ∧
      f op (.inf true) = (.fin true 0 0, 0)))

/-- VATADD in reproducible mode (R322, R415). -/
def Obligations.ReproducibleAtomicsRunInRounds : Prop :=
  (∀ (r c d : Nat) (e : QEntry) (s : State), HeadReady 2 0x28 c r e s → repro r s = true → d ∈ ropeCores r s → d / 8 = c / 8 →
    coreDone d s = false → vatReady r d s = none → exec (.vatadd c) s = .next (Quiet s)) ∧
  (∀ (r c1 c2 i off b1 b2 : Nat) (e1 e2 : QEntry) (s : State), HeadReady 2 0x28 c1 r e1 s → HeadReady 2 0x28 c2 r e2 s →
    ropeState r s = RopeSt.running → waitsHold r c1 e1 s = true → waitsHold r c2 e2 s = true →
    repro r s = true → r < 16 → c1 / 8 = c2 / 8 → c1 < c2 → coreEnabled c1 s = true → coreEnabled c2 s = true →
    (∀ d ∈ ropeCores r s, d / 8 = c1 / 8 → d ≠ c1 → d ≠ c2 → coreDone d s = true) →
    indexOf (ropeClusters r s) (c1 / 8) = some i → off + 4 ≤ 2 ^ 24 → off % 16 = 0 →
    let a := 0x80000000 + i * 2 ^ 24 + off
    let p := clusterPlace (c1 / 8) off
    IsRow e1.opA a 1 1 → IsRow e2.opA a 1 1 → IsRow e1.opB b1 1 1 → IsRow e2.opB b2 1 1 → RowReads c1 b1 1 1 s →
    RowReads c2 b2 1 1 s → s.mem.anyPoison p 4 = false → s.mem.errs = [] →
    let v := numAdd (fp32.decode (leNat (s.mem.bytes p 4))) (rowNum c1 b1 1 0 s)
    let x := fp32.round (roundAt e1 a 0) v.1
    let w := numAdd (fp32.decode x.1) (rowNum c2 b2 1 0 s)
    let y := fp32.round (roundAt e2 a 0) w.1
    ∀ c, c = c1 ∨ c = c2 → ∃ u, exec (.vatadd c) s =
        .next (endEngine 2 r c2 e2 (w.2 ||| y.2) (endEngine 2 r c1 e1 (v.2 ||| x.2) u)) ∧
      Only [.mem, .cores] s u ∧ StoredAt p (natLe 4 y.1) s u ∧
      (coreOf c1 u).vxeQ = (coreOf c1 s).vxeQ.tail ∧ (coreOf c2 u).vxeQ = (coreOf c2 s).vxeQ.tail)

/-! ## Numbers -/

/-- The value of a finite number. -/
def numRat : FNum → Rat
  | .fin n m e => (if n then -1 else 1) * (m : Rat) * (2 : Rat) ^ e
  | _ => 0

/-- A number is finite. -/
def isFin (x : FNum) : Bool := ! x.special

/-- Among the finite encodings of format `f` the one with magnitude bits `code` is nearest to a magnitude: for every other, `below m`
says that the magnitude is at most `m`, `above m` that it is at least `m`, and on a tie the code is even (R234). -/
def NearestEven (f : FloatFmt) (code : Nat) (below above : Rat → Prop) : Prop :=
  code ≤ f.maxCode ∧ ∀ c, c ≤ f.maxCode → c ≠ code →
    let mid := (numRat (f.decode code) + numRat (f.decode c)) / 2
    (code < c → below mid ∧ (above mid → code % 2 = 0)) ∧ (c < code → above mid ∧ (below mid → code % 2 = 0))

/-- The magnitude bits of an encoding, and its sign. -/
def magBits (f : FloatFmt) (b : Nat) : Nat := b % 2 ^ (f.ebits + f.fbits)

/-- One rounding of the exact value (R234, R235, R237, R318). -/
def Obligations.RoundingIsNearestEven : Prop :=
  ∀ (f : FloatFmt), f ∈ [fp32, bf16, fp16] →
    (∀ (n : Bool) (m : Nat) (e : Int), 0 < m →
      let v := (m : Rat) * (2 : Rat) ^ e
      ((f.round rne (.fin n m e)).2 = 0 → (f.round rne (.fin n m e)).1.testBit (f.ebits + f.fbits) = n ∧
        NearestEven f (magBits f (f.round rne (.fin n m e)).1) (fun x => v ≤ x) (fun x => x ≤ v)) ∧
      (∀ z, z = (f.round ⟨1, 0⟩ (.fin n m e)).1 →
        z.testBit (f.ebits + f.fbits) = n ∧ numRat (f.decode (magBits f z)) ≤ v ∧
        ∀ c, c ≤ f.maxCode → numRat (f.decode c) ≤ v → c ≤ magBits f z) ∧
      (∀ d, (f.round ⟨2, d⟩ (.fin n m e)).2 = 0 →
        let z := magBits f (f.round ⟨2, d⟩ (.fin n m e)).1
        z = magBits f (f.round ⟨1, 0⟩ (.fin n m e)).1 ∨
          (z = magBits f (f.round ⟨1, 0⟩ (.fin n m e)).1 + 1 ∧ numRat (f.decode (z - 1)) < v))) ∧
    (∀ (x y : Bool) (m n : Nat) (e k : Int), 0 < m → 0 < n →
      let q := (m : Rat) / (n : Rat) * (2 : Rat) ^ (e - k)
      let z := f.round rne (numDiv (.fin x m e) (.fin y n k)).1
      (numDiv (.fin x m e) (.fin y n k)).2 = 0 ∧
      (z.2 = 0 → z.1.testBit (f.ebits + f.fbits) = (x != y) ∧ NearestEven f (magBits f z.1) (fun x => q ≤ x) (fun x => x ≤ q))) ∧
    (∀ (m : Nat) (e : Int), 0 < m →
      let v := (m : Rat) * (2 : Rat) ^ e
      let z := f.round rne (numSqrt (.fin false m e)).1
      (numSqrt (.fin false m e)).2 = 0 ∧
      (z.2 = 0 → z.1.testBit (f.ebits + f.fbits) = false ∧
        NearestEven f (magBits f z.1) (fun x => v ≤ x * x) (fun x => x * x ≤ v)))

/-- Exact arithmetic and special values (R227, R228, R237, R318). -/
def Obligations.ArithmeticIsExact : Prop :=
  (∀ (x y z : FNum), isFin x → isFin y → isFin z →
    isFin (numAdd x y).1 ∧ numRat (numAdd x y).1 = numRat x + numRat y ∧ (numAdd x y).2 = 0 ∧
    isFin (numMul x y).1 ∧ numRat (numMul x y).1 = numRat x * numRat y ∧ (numMul x y).2 = 0 ∧
    isFin (numFma x y z).1 ∧ numRat (numFma x y z).1 = numRat x + numRat y * numRat z ∧ (numFma x y z).2 = 0 ∧
    numRat (numNeg x) = - numRat x ∧ numRat (numAbs x) = (numRat x).abs ∧
    (∃ e, (numAdd x (numNeg x)).1 = .fin false 0 e) ∧
    (numMax x y = x ∨ numMax x y = y) ∧ numRat x ≤ numRat (numMax x y) ∧ numRat y ≤ numRat (numMax x y) ∧
    (numMin x y = x ∨ numMin x y = y) ∧ numRat (numMin x y) ≤ numRat x ∧ numRat (numMin x y) ≤ numRat y) ∧
  (∀ (d e : Int), numMax (.fin true 0 d) (.fin false 0 e) = .fin false 0 e ∧ numMax (.fin false 0 d) (.fin true 0 e) = .fin false 0 d ∧
    numMin (.fin true 0 d) (.fin false 0 e) = .fin true 0 d ∧ numMin (.fin false 0 d) (.fin true 0 e) = .fin true 0 e) ∧
  (∀ x : FNum, (∀ g ∈ [numAdd, numMul, numDiv], g .nan x = (.nan, 0) ∧ g x .nan = (.nan, 0)) ∧ (numFma .nan x x).1 = .nan ∧
    numMax .nan x = .nan ∧ numMax x .nan = .nan ∧ numMin .nan x = .nan ∧ numMin x .nan = .nan ∧ numSqrt .nan = (.nan, 0)) ∧
  (∀ (a b : Bool) (m : Nat) (d e : Int), 0 < m →
    numAdd (.inf a) (.inf (! a)) = (.nan, Ns.invalid) ∧ numMul (.fin a 0 e) (.inf b) = (.nan, Ns.invalid) ∧
    numMul (.inf b) (.fin a 0 e) = (.nan, Ns.invalid) ∧ numDiv (.fin a 0 d) (.fin b 0 e) = (.nan, Ns.invalid) ∧
    numDiv (.inf a) (.inf b) = (.nan, Ns.invalid) ∧ numSqrt (.fin true m e) = (.nan, Ns.invalid) ∧
    numSqrt (.inf true) = (.nan, Ns.invalid) ∧ numDiv (.fin a m d) (.fin b 0 e) = (.inf (a != b), Ns.inf) ∧
    (∃ k, numSqrt (.fin true 0 e) = (.fin true 0 k, 0))) ∧
  (∀ (f : FloatFmt) (r : Rounding) (a : Bool), f ∈ [fp32, bf16, fp16, w48] →
    f.round r .nan = (f.nanCode, Ns.nan) ∧ f.decode f.nanCode = .nan ∧ f.nanCode.testBit (f.ebits + f.fbits) = false ∧
    (f.round r (.inf a)).2 = 0 ∧ f.decode (f.round r (.inf a)).1 = .inf a)

/-- The products of a list added to a point one after the other, from a cleared point (R239 to R242). -/
def accumulated (l : List FNum) : AccPoint :=
  l.foldl (fun p v => match v with | .fin n m e => p.addProduct n m e | _ => p) {}

/-- The long accumulator (R239 to R243, R245). -/
def Obligations.AccumulationIsExact : Prop :=
  (∀ (l : List FNum) (top : Int), (∀ v ∈ l, isFin v) → l.length ≤ 16777216 →
    (∀ (n : Bool) (m : Nat) (e : Int), FNum.fin n m e ∈ l → 0 < m → magExp m e ≤ top ∧ top - 166 ≤ e) →
    (∀ (n : Bool) (m : Nat) (e : Int), FNum.fin n m e ∈ l → m = 0) ∨
      (∃ n m e, FNum.fin n m e ∈ l ∧ 0 < m ∧ magExp m e = top) →
    (accumulated l).sticky = false ∧ (accumulated l).value.2 = 0 ∧ isFin (accumulated l).value.1 ∧
    numRat (accumulated l).value.1 = (l.map numRat).sum ∧
    ((∀ (n : Bool) (m : Nat) (e : Int), FNum.fin n m e ∈ l → m = 0) → (accumulated l).value.1 = .fin false 0 0)) ∧
  (∀ (p : AccPoint) (n : Bool) (m : Nat) (e : Int), p.sticky = true → (p.addProduct n m e).sticky = true) ∧
  (∀ (p : AccPoint) (n : Bool) (m : Nat) (e k : Int), p.m = some k → magExp m e ≤ k → e < k - 166 →
    m % 2 ^ (k - 166 - e).toNat ≠ 0 → (p.addProduct n m e).sticky = true)

/-- The descriptor of a dense tile of one column of `rows` elements of format `f` at address `a`, packed along the column (LAYOUT 1). -/
def IsColumn (v : BitVec 128) (a rows f : Nat) : Prop :=
  ∃ stride, tileOf v = ⟨a, rows, 1, stride, f, 1, false, false, 0⟩ ∧ a % 16 = 0

/-- How many of the bits of the mask `mk` of group `h` below its bit `n` are set (R312). -/
def maskRank (mk h n : Nat) : Nat := ((List.range n).filter (fun i => mk.testBit (4 * h + i))).length

/-- The activation and the weight of each set mask bit, in ascending K: `st` stored weights per group of four (R308, R312). -/
def keptPairs (c a f b g st mk : Nat) (s : State) : List (FNum × FNum) :=
  ((List.range 16).filter (fun k => mk.testBit k)).map (fun k =>
    (rowNum c a f k s, rowNum c b g (k / 4 * st + maskRank mk (k / 4) (k % 4)) s))

/-- The matrix engine (R240 to R245, R309, R311 to R313): completes MCLR, MLD, MMA, MMA24, MMA14, MST, MSTC. -/
def Obligations.MatrixEngineAccumulates : Prop :=
  ∀ (c r : Nat) (e : QEntry) (s : State),
    let k := coreOf c s
    let runs := fun (i : Instr) (m : Core → Core) (fl : Word) => (fl.getLsbD 0 = false ∨ e.nctrl.getLsbD 4 = false) → s.mem.errs = [] →
      ∃ t k', exec i s = .next (settleSlots t) ∧ (NoBufferDue t → settleSlots t = t) ∧ t.mem = s.mem ∧ coreOf c t = { k' with belays := (coreOf c t).belays } ∧
        k' = { m k with mxeQ := k.mxeQ.tail, nstat := k.nstat ||| fl }
    let add := fun (x : AccPoint) (span : Bool) (q : Core) =>
      { q with acc := tset {} q.acc 0 x, terms := q.terms + 1, tileSpan := q.tileSpan || span }
    (HeadReady 1 0x01 c r e s → runs (.mclr c) (fun q => { q with acc := [], terms := 0, tileNan := false, tileSpan := false }) 0) ∧
    (∀ (a f : Nat), IsRow e.opA a 1 f → RowReads c a 1 f s → HeadReady 1 0x02 c r e s → k.terms < 16777216 →
      let x := (accPoint k 0 0).mac (rowNum c a f 0 s) numOne
      runs (.mld c) (add x.1 x.1.sticky) x.2) ∧
    (∀ (a b f g : Nat), IsRow e.opA a 1 f → RowReads c a 1 f s → IsRow e.opB b 1 g → RowReads c b 1 g s →
      HeadReady 1 0x10 c r e s → k.terms < 16777216 →
      let x := (accPoint k 0 0).mac (rowNum c a f 0 s) (rowNum c b g 0 s)
      runs (.mma c) (add x.1 x.1.sticky) x.2) ∧
    (∀ (a b m f g st : Nat), st = 1 ∨ st = 2 → IsRow e.opA a 16 f → RowReads c a 16 f s → g ∈ [2, 3] →
      IsColumn e.opB b (4 * st) g → RowReads c b (4 * st) g s → IsColumn e.opC m 1 0x11 → RowReads c m 1 0x11 s →
      let mk := rowBits c m 0x11 0 s
      let z := fun (q : Core) => (keptPairs c a f b g st mk s).foldl (fun y p => Core.macAt 0 0 p.1 p.2 y) (q, (0 : Word))
      HeadReady 1 (if st = 2 then 0x11 else 0x12) c r e s → k.terms + 16 ≤ 16777216 → (∀ h, h < 4 → maskRank mk h 4 ≤ st) →
      (∀ h i, h < 4 → maskRank mk h 4 ≤ i → i < st → isZeroCode g (rowBits c b g (h * st + i) s) = true) →
      runs (if st = 2 then .mma24 c else .mma14 c) (fun q => { (z q).1 with terms := q.terms + 16 }) (z k).2) ∧
    (∀ (a f op : Nat), IsRow e.opA a 1 f → (op = 0x20 ∨ op = 0x21) → HeadReady 1 op c r e s → coreEnabled c s = true →
      a + elemBytes f ≤ 0x200000 → s.mem.errs = [] →
      let v := (accPoint k 0 0).value
      let x := (elemOf f).encode (roundAt e a 0) 0 v.1
      ((v.2 ||| x.2).getLsbD 0 = false ∨ e.nctrl.getLsbD 4 = false) →
      let nan := k.tileNan || decide (v.1 = .nan)
      ∃ t, exec (if op = 0x20 then .mst c else .mstc c) s = .next (settleSlots t) ∧ (NoBufferDue t → settleSlots t = t) ∧ StoredAt (corePlace c a) (natLe (elemBytes f) x.1) s t ∧
        (coreOf c t).nstat = k.nstat ||| v.2 ||| x.2 ||| (if nan then Ns.nan else 0) ||| (if k.tileSpan then Ns.span else 0) ∧
        (op = 0x20 → (coreOf c t).acc = k.acc ∧ (coreOf c t).terms = k.terms ∧ (coreOf c t).tileNan = nan ∧
          (coreOf c t).tileSpan = k.tileSpan) ∧
        (op = 0x21 → (coreOf c t).acc = [] ∧ (coreOf c t).terms = 0 ∧ (coreOf c t).tileNan = false ∧
          (coreOf c t).tileSpan = false)) ∧
    (∀ (a b f g : Nat), IsRow e.opA a 1 f → RowReads c a 1 f s → IsRow e.opB b 1 g → RowReads c b 1 g s → 16777216 ≤ k.terms →
      (HeadReady 1 0x02 c r e s → exec (.mld c) s = .next (engineFault r c 1 e.tag e.pc St.windowOverflow 0
        (endAccess (2048 + c) St.windowOverflow (popEngine 1 c (Quiet s))))) ∧
      (HeadReady 1 0x10 c r e s → exec (.mma c) s = .next (engineFault r c 1 e.tag e.pc St.windowOverflow 0
        (endAccess (2048 + c) St.windowOverflow (popEngine 1 c (Quiet s))))))

/-! ## The data mover and the merge engine -/

/-- The descriptor of a dense one-row tile or index list of any format (R300, R339). -/
def IsLine (v : BitVec 128) (a cols stride f : Nat) : Prop := tileOf v = ⟨a, 1, cols, stride, f, 0, false, false, 0⟩ ∧ a % 16 = 0

/-- The bits DMOVE and DCOMP write for an element of the same format: a NaN as the canonical NaN (R228, R324). -/
def copied (f b : Nat) : Nat := canonBits f b

/-- NAN of the status word when some of the bits are a NaN of the format (R238). -/
def nanFlag (f : Nat) (l : List Nat) : Word := if l.any (isNanCode f) then Ns.nan else 0

/-- The compressed form of a panel of one row of elements of a format without blocks (R329, R330): `els` are the bits of its
columns. -/
def onePanel (f : Nat) (els : List Nat) : List Byte :=
  let nz := els.filter (fun b => ! isZeroCode f b)
  let values := nz.flatMap (natLe (elemBytes f))
  let pad := zeros ((16 - values.length % 16) % 16)
  let body := zeros 48 ++ natLe 16 (((List.range els.length).filter (fun j => ! isZeroCode f (els.getD j 0))).map (2 ^ ·)).sum ++
    values ++ pad
  let blocks := (16 + body.length + 63) / 64
  [BitVec.ofNat 8 f, 0, BitVec.ofNat 8 (els.length - 1), 0] ++ natLe 4 (64 + 16 * (8 * elemBytes f)) ++ natLe 2 nz.length ++
    [0, 0] ++ natLe 2 blocks ++ [0, 0] ++ body ++ zeros (blocks * 64 - 16 - body.length)

/-- The data mover (R324, R325, R329, R330, R332, R337, R340): completes DMOVE, DFILL, DHIST, DILIST, DCOMP. -/
def Obligations.DataMoverWrites : Prop :=
  ∀ (c r : Nat) (e : QEntry) (s : State),
    (∀ a f, HeadReady 4 0x04 c r e s → IsRow e.opA a 1 f →
      let v := e.opC.toNat % 2 ^ (8 * elemBytes f)
      EngineWrites 4 c e (.dfill c) a (natLe (elemBytes f) (copied f v)) (nanFlag f [v]) s) ∧
    (∀ a b f g, HeadReady 4 0x01 c r e s → IsRow e.opA a 1 f → IsRow e.opB b 1 g →
      (RowReads c b 1 g s → f = g →
        EngineWrites 4 c e (.dmove c) a (natLe (elemBytes f) (copied f (rowBits c b g 0 s))) (nanFlag f [rowBits c b g 0 s]) s) ∧
      (RowReads c b 1 g s → f ≠ g → ElementWritten 4 c e (.dmove c) a f (rowNum c b g 0 s, 0) s) ∧
      (b + elemBytes g ≤ 0x200000 → s.mem.anyPoison (corePlace c b) (elemBytes g) = true → coreEnabled c s = true →
        a + elemBytes f ≤ 0x200000 → s.mem.errs = [] →
        ∃ t, exec (.dmove c) s = .next (settleSlots t) ∧ (NoBufferDue t → settleSlots t = t) ∧
          t.mem.poisoned (corePlace c a) = true)) ∧
    (∀ a b n st g, HeadReady 4 0x05 c r e s → IsLine e.opA a 1 st 0x11 → IsRow e.opB b n g → 1 ≤ n → RowReads c b n g s →
      EngineWrites 4 c e (.dhist c) a
        (natLe 2 (min 65535 ((List.range n).filter (fun i => ! isZeroCode g (rowBits c b g i s))).length)) 0 s) ∧
    (∀ a b n st f g, HeadReady 4 0x03 c r e s → IsLine e.opA a n st f → f ∈ [2, 3, 0x11] → a + st ≤ 0x200000 →
      IsRow e.opB b n g → 1 ≤ n → RowReads c b n g s → n * (if f = 0x11 then 2 else 4) + 4 ≤ st → modeOf e ≠ 2 →
      e.nctrl.getLsbD 4 = false →
      let conv := fun (i : Nat) =>
        if f = 0x11 then rowBits c b g i s
        else if f = g then copied f (rowBits c b g i s)
        else ((elemOf f).encode ⟨modeOf e, 0⟩ 0 (rowNum c b g i s)).1
      let out := (List.range n).filter (fun i => ! isZeroCode (if f = 0x11 then g else f) (conv i))
      ∃ fl, EngineWrites 4 c e (.dilist c) a (natLe 4 out.length ++ out.flatMap (fun i =>
        natLe 2 i ++ (if f = 0x11 then [] else natLe 2 (conv i)))) fl s) ∧
    (∀ a b n f, HeadReady 4 0x02 c r e s → tileOf e.opA = ⟨a, 1, n, 0, f, 0, true, false, 0⟩ → a % 64 = 0 →
      a + 64 + 128 * elemBytes f ≤ 0x200000 → IsRow e.opB b n f → 1 ≤ n → n ≤ 64 → RowReads c b n f s →
      let els := (List.range n).map (fun i => rowBits c b f i s)
      EngineWrites 4 c e (.dcomp c) a (onePanel f (els.map (copied f))) (nanFlag f els) s)

/-- The index list of one row that descriptor `v` names, read and checked by the merge engine of core `c` (R339, R341). -/
def ListRow (c r : Nat) (v : BitVec 128) (a cols stride f : Nat) (s : State) (l : List IdxEnt) : Prop :=
  IsLine v a cols stride f ∧ a + stride ≤ 0x200000 ∧ f ∈ [2, 3, 0x11] ∧
  readList (engWho 3 r c) (tileOf v) 0 s = .ok l

/-- The merge engine (R338 to R343): completes MINTER, MUNION, MGROUP. -/
def Obligations.MergeEngineWrites : Prop :=
  ∀ (c r : Nat) (e : QEntry) (s : State),
    (∀ a b d L sa sb sd f (lb lc : List IdxEnt), HeadReady 3 0x01 c r e s → ListRow c r e.opB b L sb f s lb →
      ListRow c r e.opC d L sd f s lc →
      (IsLine e.opA a L sa 0x13 → a + sa ≤ 0x200000 → min (listCap (tileOf e.opB)) (listCap (tileOf e.opC)) ≤ (sa - 4) / 4 →
        ∃ out : List (Nat × Nat),
          (∀ x y, (x, y) ∈ out ↔ ∃ p q, lb[x]? = some p ∧ lc[y]? = some q ∧ p.idx = q.idx) ∧
          out.Pairwise (fun m n => m.1 < n.1) ∧
          EngineWrites 3 c e (.minter c) a (natLe 4 out.length ++ out.flatMap (fun x => natLe 2 x.1 ++ natLe 2 x.2)) 0 s) ∧
      (∀ g, IsRow e.opA a 1 g → f ≠ 0x11 →
        let el := elemOf f
        let p := (matches_ lb lc).foldl (fun (p : AccPoint × Word) x =>
          ((p.1.mac (el.decode x.1.1.val) (el.decode x.2.1.val)).1,
            p.2 ||| (p.1.mac (el.decode x.1.1.val) (el.decode x.2.1.val)).2)) ({}, 0)
        ElementWritten 3 c e (.minter c) a g
          (p.1.value.1, p.2 ||| p.1.value.2 ||| (if p.1.sticky then Ns.span else 0)) s)) ∧
    (∀ a b d L sa sb sd f (lb lc : List IdxEnt), HeadReady 3 0x02 c r e s → ListRow c r e.opB b L sb f s lb →
      ListRow c r e.opC d L sd f s lc → IsLine e.opA a L sa f → a + sa ≤ 0x200000 →
      min L (listCap (tileOf e.opB) + listCap (tileOf e.opC)) ≤ listCap (tileOf e.opA) →
      ∃ (out : List (Nat × Nat)) (fl : Word),
        (∀ i, i ∈ out.map Prod.fst ↔ (∃ p ∈ lb, p.idx = i) ∨ ∃ q ∈ lc, q.idx = i) ∧
        (out.map Prod.fst).Pairwise (· < ·) ∧
        (f ≠ 0x11 → ∀ k i v, out[k]? = some (i, v) →
          (∀ p ∈ lb, p.idx = i → (∀ q ∈ lc, q.idx ≠ i) → v = copied f p.val) ∧
          (∀ q ∈ lc, q.idx = i → (∀ p ∈ lb, p.idx ≠ i) → v = copied f q.val) ∧
          (∀ p ∈ lb, ∀ q ∈ lc, p.idx = i → q.idx = i →
            v = ((elemOf f).encode (roundAt e (a + 4 + 4 * k + 2) 0) 0
              (numAdd ((elemOf f).decode p.val) ((elemOf f).decode q.val)).1).1)) ∧
        EngineWrites 3 c e (.munion c) a (natLe 4 out.length ++ out.flatMap (fun x =>
          natLe 2 x.1 ++ (if f = 0x11 then [] else natLe 2 x.2))) fl s) ∧
    (∀ a b L sa sb f sd d st w (t : State), HeadReady 3 0x02 c r e s → t = popEngine 3 c (Quiet s) →
      IsLine e.opB b L sb f → b + sb ≤ 0x200000 → f ∈ [2, 3, 0x11] → IsLine e.opC d L sd f → d + sd ≤ 0x200000 →
      IsLine e.opA a L sa f → a + sa ≤ 0x200000 →
      min L (listCap (tileOf e.opB) + listCap (tileOf e.opC)) ≤ listCap (tileOf e.opA) →
      readList (engWho 3 r c) (tileOf e.opB) 0 t = .error (.fault st w) →
      exec (.munion c) s = .next (engineFault r c 3 e.tag e.pc st w (endAccess (2048 + c) st t))) ∧
    (∀ a b n sa sb, HeadReady 3 0x03 c r e s → tileOf e.opA = ⟨a, n, 1, sa, 0x11, 0, false, false, 0⟩ →
      tileOf e.opB = ⟨b, n, 1, sb, 0x11, 0, false, false, 0⟩ → 1 ≤ n → a % 16 = 0 → b % 16 = 0 → 16 ≤ sa → 16 ≤ sb →
      sa % 16 = 0 → sb % 16 = 0 → a + n * sa ≤ 0x200000 → b + n * sb ≤ 0x200000 → coreEnabled c s = true →
      (∀ i, i < n → s.mem.anyPoison (corePlace c (b + i * sb)) 2 = false ∧ s.mem.anyPoison (corePlace c (a + i * sa)) 2 = false) →
      s.mem.errs = [] →
      let count := fun (i : Nat) => leNat (s.mem.bytes (corePlace c (b + i * sb)) 2)
      ∃ (order : Nat → Nat) (t : State), exec (.mgroup c) s = .next (settleSlots t) ∧ (NoBufferDue t → settleSlots t = t) ∧
        (∀ i, i < n → order i < n ∧ t.mem.bytes (corePlace c (a + i * sa)) 2 = natLe 2 (order i)) ∧
        (∀ i j, i < j → j < n → count (order j) < count (order i) ∨ (count (order j) = count (order i) ∧ order i < order j)) ∧
        (∀ p, (∀ i, i < n → p < corePlace c (a + i * sa) ∨ corePlace c (a + i * sa) + 2 ≤ p) →
          t.mem.byte p = s.mem.byte p ∧ t.mem.poisoned p = s.mem.poisoned p))

/-! ## The routing engine -/

/-- A counter field grew by `n`, modulo its width (log 8). -/
def Grew (f : Fld) (ix : List Nat) (n : Nat) (s t : State) : Prop :=
  getF f ix t = (getF f ix s + n) % 2 ^ (f.hi + 1 - f.lo)

/-- The RTE (R29 to R33, R40, R43, R49): completes rows ROUTE and ROUTE_F. -/
def Obligations.RoutesRun : Prop :=
  ∀ (die : Nat) (s : State), die < 8 →
    let q := tget ({} : Rte) s.rtes die
    (∀ (i : Nat) (x : DieEntry) (local_ : Bool), pickDie die s = some (i, x) →
      wf32 x.e.w0 27 20 = (if local_ then 2 else 1) →
      let cmd := if local_ then Instr.routeF die else Instr.route die
      let w := rteWho die x
      let o := popRte die i x.rope (Quiet s)
      let p := if local_ then o else routeSlice die x.rope x o
      (∀ (u : State) (f : RouteFound), routeFx local_ die x.rope x p = .ok (u, f) →
        ∃ t, exec cmd s = .next (settleSlots t) ∧ (NoBufferDue t → settleSlots t = t) ∧ (f.nanRows = [] → t.mem = u.mem) ∧
          getF F.RTE_STATUS_LAST_STATUS [die] t = 0 ∧ getF F.RTE_STATUS_ROPE [die] t = x.rope % 16 ∧
          Grew F.RTE_ROUTES_DONE [die] 1 u t ∧ Grew F.RTE_RECORDS_RECORDS [die] f.recs.length u t ∧
          Grew F.RTE_SHORT_TOKENS_COUNT [die] f.short u t ∧
          (f.nanRows = [] → SignalGiven w.id x.rope x.core x.e u t) ∧ t.rtes = u.rtes) ∧
      (∀ (st a : Nat), routeFx local_ die x.rope x p = .error (.fault st a) →
        exec cmd s = .next (routeFault die x.rope x st a (endAccess w.id st p))) ∧
      (∀ (l h off : Nat), routeFx local_ die x.rope x p = .error (.need l h off) →
        exec cmd s = .next (askLender w l h off (beginRte die i (Quiet s)))) ∧
      (tget ({} : Rte) o.rtes die).queue = dropAt q.queue i ∧ (tget ({} : Rte) o.rtes die).lastRope = x.rope ∧
      (x.e.opA.toNat % 64 ≠ 0 → routeFx local_ die x.rope x p = .error (.fault St.notPermitted x.e.opA.toNat)) ∧
      (∀ bs, x.e.opA.toNat % 64 = 0 → rd w x.e.opA.toNat 64 p = .ok (bs, 0) →
        ((routeDesc bs).ok = false ∨ (local_ = true ∧ (routeDesc bs).okF = false)) →
        routeFx local_ die x.rope x p = .error (.fault St.notPermitted 0))) ∧
    (signalWaits (512 + die) s = true → (∀ x ∈ q.queue, x.e.started = false) → pickDie die s = none) ∧
    ((pickDie die s = none ∨ ∃ i x, pickDie die s = some (i, x) ∧ wf32 x.e.w0 27 20 ≠ 1) →
      exec (.route die) s = .next (Quiet s)) ∧
    ((pickDie die s = none ∨ ∃ i x, pickDie die s = some (i, x) ∧ wf32 x.e.w0 27 20 ≠ 2) →
      exec (.routeF die) s = .next (Quiet s))

/-- Selection, replicas, sort and records (R36 to R59). -/
def Obligations.RoutingSelectsTheBest : Prop :=
  (∀ (d : RouteDesc) (cs : List Cand), d.groups = 1 → d.topg = 1 → cs.map (fun c => c.i) = List.range d.e →
    (∀ c ∈ cs, c.key ≠ .nan) →
    let sel := selectOf d cs
    sel.length = min d.k (cs.filter (fun c => c.placed)).length ∧ (∀ c ∈ sel, c ∈ cs ∧ c.placed = true) ∧
    sel.Pairwise (fun a b => a.beats b = true) ∧
    ∀ c ∈ cs, c.placed = true → c ∉ sel → ∀ b ∈ sel, b.beats c = true) ∧
  (∀ (fn : Nat) (logits bias : List FNum) (placed : List Bool), ∀ c ∈ candsOf fn logits bias placed,
    (c.nan = true ↔ c.score = .nan ∨ (bias.getD c.i (.fin false 0 0)).special = true) ∧ (c.nan = true → c.key = .inf true)) ∧
  (∀ (d : RouteDesc) (sel : List Cand) (i : Nat) (c : Cand), sel[i]? = some c → c.nan = true →
    (weightsOf d sel)[i]? = some (.fin false 0 0)) ∧
  (∀ (l : List RouteRec), (sortRecs l).Perm l ∧
    (sortRecs l).Pairwise (fun a b => a.rank < b.rank ∨ (a.rank = b.rank ∧ a.slot ≤ b.slot)) ∧
    ∀ rank slot, (sortRecs l).filter (fun x => decide (x.rank = rank ∧ x.slot = slot)) =
      l.filter (fun x => decide (x.rank = rank ∧ x.slot = slot))) ∧
  (∀ (d : RouteDesc) (rank t e : Nat) (reps : List Nat), reps ≠ [] → chooseReplica d rank t e reps < reps.length ∧
    (1 < reps.length → d.flags = 1 → (∃ w ∈ reps, repRank w = rank) →
      repRank (reps.getD (chooseReplica d rank t e reps) 0) = rank ∧
      ∀ j, j < chooseReplica d rank t e reps → repRank (reps.getD j 0) ≠ rank)) ∧
  (∀ (x : RouteRec), x.rank < 65536 → x.rep < 4 → x.expert < 256 →
    x.bytes.length = 16 ∧ fieldAt x.bytes 0 4 = x.token % 2 ^ 32 ∧ fieldAt x.bytes 4 2 = x.rank ∧
    fieldAt x.bytes 6 2 = x.slot % 65536 ∧ fieldAt x.bytes 8 4 = (fp32.round rne x.weight).1 % 2 ^ 32 ∧
    (fieldAt x.bytes 15 1).testBit 0 = x.nan ∧ (fieldAt x.bytes 15 1).testBit 2 = x.self ∧ fieldAt x.bytes 15 1 / 8 = x.rep ∧
    x.bytesF.length = 8 ∧ fieldAt x.bytesF 0 4 = x.token % 2 ^ 32 ∧ fieldAt x.bytesF 4 1 = x.expert ∧
    (fieldAt x.bytesF 5 1).testBit 0 = x.nan ∧ fieldAt x.bytesF 6 2 = (bf16.round rne x.weight).1 % 65536)

/-! ## The exchange engine -/

/-- The unit of exchange engine `die` (R254). -/
abbrev xeId (die : Nat) : Nat := 520 + die

/-- Exchange engine `die` has entry `x` at place `i` of its queue to take next, of operation `op` (R64). -/
def XeTurn (die i op : Nat) (x : DieEntry) (s : State) : Prop :=
  die < 8 ∧ pickXe die s = some (i, x) ∧ wf32 x.e.w0 27 20 = op

/-- The first cell at the engine's delivery port is `p`, of kind `k`; `t` is the state without it. -/
def XeCell (die k : Nat) (p : Packet) (s t : State) : Prop := die < 8 ∧ headCell die k (Quiet s) = some (p, t)

/-- Exchanges (R64 to R68, R89 to R96): completes EXCHANGE, CANCEL_BATCH, EXCHANGE_TIMEOUT, EXCHANGE_COMPLETE. -/
def Obligations.ExchangesStartAndEnd : Prop :=
  (∀ (die i : Nat) (x : DieEntry) (s : State), XeTurn die i 1 x s →
    let q := Quiet s
    let p := popXe die i x.rope q
    let done := fun (u : State) => exec (.exchange die) s = .next (endAccess (xeId die) 0 u)
    (∀ e u, readExch die x q = .ok e → acceptExch die e p = .ok u → done u) ∧
    (∀ e u, readExch die x q = .ok e → isRetired die e.tag p = true → zeroOut die e p = .ok u → e.outcome = [] → e.rope < 16 →
      (xeOf die p).active.all (fun y => y.finished.isSome || ! sameTag y.tag e.tag) = true →
      ∃ t, exec (.exchange die) s = .next t ∧ t.mem = u.mem ∧ t.msgs = u.msgs ∧
        getF F.XE_LEDGER_DISPATCHED_DISPATCHED [die, e.rope] t =
          (getF F.XE_LEDGER_DISPATCHED_DISPATCHED [die, e.rope] s + e.nrec) % 2 ^ 64 ∧
        getF F.XE_LEDGER_CANCELLED_CANCELLED [die, e.rope] t =
          (getF F.XE_LEDGER_CANCELLED_CANCELLED [die, e.rope] s + e.nrec) % 2 ^ 64 ∧
        getF F.XE_LEDGER_INFLIGHT_INFLIGHT [die, e.rope] t = getF F.XE_LEDGER_INFLIGHT_INFLIGHT [die, e.rope] s ∧
        ∃ y ∈ (xeOf die t).active, y.tag = e.tag ∧ y.finished = some St.cancelled) ∧
    (x.e.opA.toNat % 64 ≠ 0 → exec (.exchange die) s =
      .next (endAccess (xeId die) St.notPermitted (exchangeFault die x St.notPermitted x.e.opA.toNat p))) ∧
    (∀ bs, x.e.opA.toNat % 64 = 0 → rdGood (xeWho die x) x.e.opA.toNat 128 q = .ok bs →
      (let e : Exch := { tag := BitVec.ofNat 32 (fieldAt bs 0 4), rope := x.rope, ent := x.e, core := x.core, desc := bs }
       e.descOk (repro x.rope s) = false ∨ e.belaysOk s = false ∨ indexOf (ropeDies x.rope s) die ≠ some e.own ∨ (activeExch die e.tag s).isSome ∨ e.pools 70 s = [] ∨ e.pools 74 s = []) →
      exec (.exchange die) s = .next (endAccess (xeId die) St.notPermitted (exchangeFault die x St.notPermitted 0 p)))) ∧
  (∀ (die i : Nat) (x : DieEntry) (s u : State), XeTurn die i 2 x s →
    let tag := BitVec.ofNat 32 x.e.opA.toNat
    let p := popXe die i x.rope (Quiet s)
    (cancelTag die x.rope tag p = .ok u →
      ∃ t, exec (.cancelBatch die) s = .next t ∧ t.mem = u.mem ∧ t.xes = u.xes ∧ SignalGiven (xeId die) x.rope x.core x.e u t ∧
        getF F.XE_STATUS_LAST_STATUS [die] t = 0 ∧
        (tagRope tag = x.rope → activeExch die tag t = none ∧ isRetired die tag t = true)) ∧
    (tagRope tag ≠ x.rope → cancelTag die x.rope tag p = .ok p) ∧
    (tagRope tag = x.rope → activeExch die tag s = none → ∃ v, cancelTag die x.rope tag p = .ok v ∧
      (xeOf die v).early = (xeOf die s).early.filter (fun c => ! sameTag c.tag tag) ∧
      getR .XE_CANCELS [die] v = getR .XE_CANCELS [die] s + 1 ∧ v.mem = s.mem)) ∧
  (∀ (die : Nat) (tag : BitVec 32) (e : Exch) (s u : State), die < 8 → activeExch die tag s = some e →
    (ropeState e.rope s = RopeSt.suspended → exec (.exchangeTimeout die tag) s = .next (Quiet s)) ∧
    (ropeState e.rope s ≠ RopeSt.suspended → cancelExch die e.tag St.timeout true (Quiet s) = .ok u →
      exec (.exchangeTimeout die tag) s = .next (endAccess (xeId die) 0 u) ∧ activeExch die tag u = none ∧
        isRetired die tag u = true ∧ ∃ y ∈ (xeOf die u).active, sameTag y.tag tag = true ∧ y.finished = some St.timeout)) ∧
  (∀ (die a place : Nat) (tag : BitVec 32) (e : Exch) (s : State), die < 8 → activeExch die tag s = some e →
    (∀ y ∈ (xeOf die s).active, y.finished.isSome = true → sameTag y.tag tag = false) → e.complete = true → e.status = St.ok →
    a = e.fld 90 6 → locate (e.who die) a true s = .place place → a % 64 = 0 → place < 2 ^ 64 → s.mem.errs = [] →
    ∃ t, exec (.exchangeComplete die tag) s = .next t ∧ e.record.length = 32 ∧ StoredAt place e.record s t ∧
      isRetired die e.tag t = true ∧ (xeOf die t).active.length + 1 = (xeOf die s).active.length ∧
      getF F.XE_STATUS_LAST_STATUS [die] t = 0 ∧ SignalGiven (xeId die) e.rope e.core e.ent s t) ∧
  (∀ (die : Nat) (tag : BitVec 32) (s : State), activeExch die tag s = none →
    exec (.exchangeTimeout die tag) s = .next (Quiet s) ∧
    ((∀ y ∈ (xeOf die s).active, y.finished.isSome = true → sameTag y.tag tag = false) →
      exec (.exchangeComplete die tag) s = .next (Quiet s))) ∧
  (∀ (die : Nat) (s : State), pickXe die s = none →
    exec (.exchange die) s = .next (Quiet s) ∧ exec (.cancelBatch die) s = .next (Quiet s))

/-- Cells of the exchange engine (R66 to R71, R77, R89, R91): completes XCOUNT_RECEIVE, EARLY_CELL_EXPIRE, XGRANT_RECEIVE,
XCANCEL_RECEIVE. -/
def Obligations.ExchangeCellsAreTaken : Prop :=
  (∀ (die : Nat) (p : Packet) (s t : State), XeCell die 1 p s t →
    let run := fun (u : State) => exec (.xcountReceive die) s = .next u
    let gone := fun (u : State) => getR .XE_CELL_DISCARDED [die] u = getR .XE_CELL_DISCARDED [die] s + 1 ∧ u.xes = s.xes
    (p.tag.toNat % 8 ≠ 0 → ∃ u, run (ackCell p u) ∧ gone u ∧ Only [.switch, .regs] s u) ∧
    (p.tag.toNat % 8 = 0 → ∀ e k, activeExch die p.tag s = some e → cellStream e p 0 s = some k →
      ∃ u, run (ackCell p u) ∧ activeExch die p.tag u = some (takeCount e k p) ∧ Only [.switch, .xes] s u) ∧
    (p.tag.toNat % 8 = 0 → activeExch die p.tag s = none →
      (isRetired die p.tag s = true → ∃ u, run (ackCell p u) ∧ gone u ∧ Only [.switch, .regs] s u) ∧
      (isRetired die p.tag s = false → (xeOf die s).early.length < 1024 →
        ∃ u, run (ackCell p u) ∧ (xeOf die u).early = (xeOf die s).early ++ [p] ∧ Only [.switch, .xes] s u) ∧
      (isRetired die p.tag s = false → 1024 ≤ (xeOf die s).early.length → run (Quiet s)))) ∧
  (∀ (die idx : Nat) (s : State), die < 8 →
    (idx < (xeOf die s).early.length →
      ∃ u, exec (.earlyCellExpire die idx) s = .next u ∧ (xeOf die u).early = dropAt (xeOf die s).early idx ∧
        getR .XE_CELL_DISCARDED [die] u = getR .XE_CELL_DISCARDED [die] s + 1 ∧ Only [.xes, .regs] s u) ∧
    ((xeOf die s).early.length ≤ idx → exec (.earlyCellExpire die idx) s = .next (Quiet s))) ∧
  (∀ (die : Nat) (p : Packet) (s t : State), XeCell die 2 p s t →
    let run := fun (u : State) => exec (.xgrantReceive die) s = .next u
    ((activeExch die p.tag s = none ∨ p.tag.toNat % 8 ≠ 0) → ∃ u, run (ackCell p u) ∧
      getR .XE_CELL_DISCARDED [die] u = getR .XE_CELL_DISCARDED [die] s + 1 ∧ Only [.switch, .regs] s u) ∧
    (∀ e k, p.tag.toNat % 8 = 0 → activeExch die p.tag s = some e → cellStream e p 1 s = some k → e.cutOut k = false →
      k ∉ e.streamsDone →
      (allSeen (takeGrant e k p).grSeen (takeGrant e k p).grTotal k = false →
        ∃ u, run (ackCell p u) ∧ activeExch die p.tag u = some (takeGrant e k p) ∧ Only [.switch, .xes] s u) ∧
      (∀ v, allSeen (takeGrant e k p).grSeen (takeGrant e k p).grTotal k = true →
        grantDone die p.tag k (modExch die p.tag (fun e => takeGrant e k p) t) = .ok v →
        run (endAccess (xeId die) 0 (ackCell p v))))) ∧
  (∀ (die : Nat) (p : Packet) (s t : State), XeCell die 3 p s t →
    let run := fun (u : State) => exec (.xcancelReceive die) s = .next u
    ((activeExch die p.tag s = none ∨ p.tag.toNat % 8 ≠ 0) → run (ackCell p t)) ∧
    (∀ e k, p.tag.toNat % 8 = 0 → activeExch die p.tag s = some e → cellStream e p 0 s = some k →
      (∀ v, fieldAt p.payload 0 1 / 128 = 1 → freeSlots die p.tag (cutReceiver die p.tag k t) = .ok v →
        run (endAccess (xeId die) 0 (ackCell p v))) ∧
      (∀ v, fieldAt p.payload 0 1 / 128 ≠ 1 → cutOrigin die p.tag k t = .ok v → run (endAccess (xeId die) 0 (ackCell p v)) ∧
        (e.cutOut k = false → ∃ y, activeExch die p.tag v = some y ∧ y.cutOut k = true)))) ∧
  (∀ (die k : Nat) (i : Nat → Instr) (s : State),
    (i, k) ∈ [(Instr.xcountReceive, 1), (Instr.xgrantReceive, 2), (Instr.xcancelReceive, 3)] → headCell die k (Quiet s) = none →
    exec (i die) s = .next (Quiet s)) ∧
  (∀ (p : Packet) (s : State), ∃ c, inQ 26 3 (ackCell p s) = inQ 26 3 s ++ [c] ∧ c.ty = 8 ∧ c.kind = 0x11 ∧ c.dest = p.src ∧
    fieldAt c.payload 0 1 = p.kind.toNat ∧ fieldAt c.payload 1 1 = p.seq.toNat ∧ c.code = c.crc)

/-- Granting and sending (R72 to R83): completes GRANT_PHASE, BULK_MESSAGE_SEND, RETURN_MESSAGE_SEND. -/
def Obligations.RowsAreGrantedAndSent : Prop :=
  (∀ (c : List Nat) (cap epoch : Nat), c ≠ [] →
    let a := admitRows c cap epoch
    a.length = c.length ∧ a.sum = min cap c.sum ∧ (∀ i, a.getD i 0 ≤ c.getD i 0) ∧
    (∀ i j, i < c.length → j < c.length → a.getD j 0 < c.getD j 0 → a.getD i 0 ≤ a.getD j 0 + 1) ∧
    (∀ i, i < c.length → (offsetsOf 0 a)[i]? = some (a.take i).sum)) ∧
  (∀ (die : Nat) (tag : BitVec 32) (e : Exch) (s : State), die < 8 → activeExch die tag s = some e →
    ((e.granted = true ∨ e.countsComplete = false) → exec (.grantPhase die tag) s = .next (Quiet s)) ∧
    (∀ v, e.granted = false → e.countsComplete = true → grantAll die e.tag (Quiet s) = .ok v →
      exec (.grantPhase die tag) s = .next (endAccess (xeId die) 0 v) ∧ ∃ y, activeExch die tag v = some y ∧ y.granted = true)) ∧
  (∀ (die : Nat) (tag : BitVec 32) (s : State), activeExch die tag s = none → exec (.grantPhase die tag) s = .next (Quiet s)) ∧
  (∀ (die : Nat) (pos : BitVec 32) (s : State),
    (4096 ≤ getF F.XE_STATUS_MSGS [die] s ∨ ∀ e ∈ (xeOf die s).active, e.finished.isNone = true →
      e.sendable = [] ∧ e.returnable s = []) →
    exec (.bulkMessageSend die) s = .next (Quiet s) ∧ exec (.returnMessageSend die pos) s = .next (Quiet s)) ∧
  (∀ (die i : Nat) (e : Exch) (r : XRun) (ws : Words) (s : State), die < 8 → getF F.XE_STATUS_MSGS [die] s < 4096 →
    (xeOf die s).active = [e] → e.finished = none → e.sendable = [(i, r)] →
    let k := e.streamOf r
    let rows := (List.range (min (e.grantOf r).admitted r.count)).map (fun j => e.fld 16 6 + e.row (r.first + j) * (e.fld 22 2 * 16))
    gatherRows (e.who die) (e.rowB / 16) rows s = .ok ws →
    ∃ (t : State) (ps : List Packet) (f : BitVec 16), exec (.bulkMessageSend die) s = .next t ∧
      t.msgs.waiting = s.msgs.waiting ++ [⟨.xeBulk die e.tag i, some (e.rope, k / e.d), 0, 16 + die, ps, f⟩] ∧
      (∃ y, (xeOf die t).active = [y] ∧ i ∈ y.sentRuns) ∧
      getF F.XE_STATUS_MSGS [die] t = getF F.XE_STATUS_MSGS [die] s + 1 ∧
      ps.flatMap (fun p => p.payload) = wordBytes ws ∧ (∀ p ∈ ps, p.ty = 1 ∧ p.handle = (e.grantOf r).handle ∧
        p.tag = e.tag ∧ p.payload.length ≤ 4096 ∧
        ((planLine e (rankAddr e.rope (k / e.d) s) 0 s).isSome = true → p.payload.length ≤ 3952)) ∧ t.mem = s.mem) ∧
  (∀ (die slot chunk o : Nat) (pos : BitVec 32) (e : Exch) (ws : Words) (s v : State), die < 8 →
    getF F.XE_STATUS_MSGS [die] s < 4096 → (xeOf die s).active = [e] → e.finished = none →
    e.returnable s = [(slot, chunk, o)] →
    let x := tget ({} : SlotRx) e.slots slot
    let h := x.ans.getD noHandle
    let lo := max (chunk * 128) (x.off.getD o 0)
    let hi := min (chunk * 128 + 128) (x.off.getD o 0 + x.adm.getD o 0)
    let base := bufferAddr (handlePool h) (handleIdx h) s
    gatherRows (e.who die) (e.ansB / 16) ((List.range (hi - lo)).map (fun j => base + (lo + j) * e.ansB)) s = .ok ws →
    let s1 := modSlot die e.tag slot (fun x => { x with sent := x.sent ++ [(chunk, o)] }) (Quiet s)
    let first := match ownPos e slot o lo (x.off.getD o 0) s1 with | some p => BitVec.ofNat 32 p | none => pos
    freeSlot die e.tag slot (sendBulk die e (.xeReturn die e.tag slot chunk o) o 1 first 0 ws s1) = .ok v →
    exec (.returnMessageSend die pos) s = .next (endAccess (xeId die) 0 v))

/-! ## Links -/

/-- A link-control message of these bytes leaves first on port `n`, on the lanes active in `s`: 8 idle flits with a right CRC that
carry it (R101, R113). -/
def SentLinkMsg (n : Nat) (msg : List Byte) (s t : State) : Prop :=
  ∃ f, t.out.take 8 = List.replicate 8 (.linkMsg n (onLanes n f s)) ∧ f.length = 256 ∧ (f.drop 4).take msg.length = msg ∧
    fieldAt f 0 4 / 2 ^ 24 % 8 = 6 ∧ crc32c (f.take 252) = BitVec.ofNat 32 (fieldAt f 252 4)

/-- Every other port is as before. -/
def OtherPorts (n : Nat) (s t : State) : Prop := ∀ m, m < 16 → m ≠ n → portOf m t = portOf m s ∧ portState m t = portState m s

/-- Port `n` stopped carrying flits (R135): nothing is kept for replay, queued or to be returned, and it has no credits. -/
def PortEmpty (n : Nat) (t : State) : Prop :=
  (portOf n t).replay = [] ∧ (portOf n t).rx = [] ∧ (portOf n t).tx = [] ∧ (∀ v, v < 6 → outQ n v t = [] ∧ getF F.LNK_VC_STATE_AVAIL [n, v] t = 0) ∧
  getF F.LNK_STATUS_RATE [n] t = 0 ∧ getF F.LNK_STATUS_LANES [n] t = 0

/-- A command takes port `n` DOWN and counts the cause in field `c` (R133 to R135). -/
def GoesDown (i : Instr) (n : Nat) (c : Fld) (s : State) : Prop :=
  ∃ t, exec i s = .next t ∧ portState n t = Ps.down ∧ PortEmpty n t ∧ Grew c [n] 1 s t ∧ OtherPorts n s t

/-- The states of a port (R103 to R109, R133 to R136): completes PORT_ENABLE, PORT_DISABLE, TRAINING_COMPLETE,
TRAINING_ATTEMPT_TIMEOUT, TRAINING_PASS_RESTART, DOWN_HOLDOFF_EXPIRE, PLANNED_RETRAIN, RETRAIN_REQ, RETRAIN_ACK, RETRAIN_COMPLETE,
RETRAIN_TIMEOUT, LANE_DROP, LOSS_OF_SIGNAL, DOWN_NOTICE_RECEIVE. -/
def Obligations.PortsChangeState : Prop :=
  ∀ (n : Nat) (s : State), n < 16 →
    let st := portState n s
    let q := portOf n s
    let does := fun (i : Instr) (P : State → Prop) => ∃ t, exec i s = .next t ∧ OtherPorts n s t ∧ P t
    let idle := fun (i : Instr) => exec i s = .next (Quiet s)
    (∀ fn, linkWrite fn n s = true →
      does (.portEnable fn n) (fun t => getF F.LNK_CTRL_ENABLE [n] t = 1 ∧ Only [.regs, .ports] s t ∧
        portState n t = (if st = Ps.disabled ∧ portsAllowed s = true then Ps.training else st)) ∧
      does (.portDisable fn n) (fun t => getF F.LNK_CTRL_ENABLE [n] t = 0 ∧ portState n t = Ps.disabled ∧
        (st ≠ Ps.disabled → PortEmpty n t) ∧ (st = Ps.up → SentLinkMsg n [3, 0] s t)) ∧
      (st = Ps.up → q.retrain = none → does (.plannedRetrain fn n) (fun t =>
        let w := 2 ^ getF F.LNK_STATUS_WIDTH [n] s
        portOf n t = { q with retrain := some (0, w) } ∧ SentLinkMsg n [1, 0, BitVec.ofNat 8 w] s t ∧ Only [.ports] s t)) ∧
      (st ≠ Ps.up → idle (.plannedRetrain fn n))) ∧
    (∀ (rate w l delay : Nat) (cable : BitVec 3) (lanes : BitVec 4) (params : List Byte),
      let sets := passSets n cable.toNat (fieldAt params 3 1) s
      st = Ps.training → q.passFailed = false → params.length = 32 →
      (combinations sets.2 q.passWidth)[q.attempt]? = some (rate, w) → (fieldAt params 3 1).testBit (rate - 1) →
      lanesOfWidth lanes (2 ^ w) = some (w, l) →
      does (.trainingComplete n cable lanes params delay) (fun t => getF F.LNK_STATUS_RATE [n] t = rate ∧
        getF F.LNK_STATUS_WIDTH [n] t = w ∧ getF F.LNK_STATUS_LANES [n] t = l ∧ t.out = [.params n (ownParams n sets.1 s)] ∧
        (if getF F.SW_FWD_MODE_ANALYSIS [n] s = 1 ∨ neighbourOk n params s = true then
          portState n t = Ps.up ∧ (portOf n t).txSeq = 0 ∧ (portOf n t).rxSeq = 0 ∧ Grew F.LNK_STATUS_EPOCH [n] 1 s t ∧
          ∀ v, v < 6 → getF F.LNK_VC_STATE_AVAIL [n, v] t = fieldAt params (4 + 2 * v) 2 % 2 ^ 13 ∧ getR .LNK_VC_USED [n, v] t = 0
        else portState n t = Ps.miswired))) ∧
    (st = Ps.training → q.passFailed = false → ∀ (cable peer : BitVec 3),
      let sets := passSets n cable.toNat peer.toNat s
      does (.trainingAttemptTimeout ⟨n, cable, peer⟩) (fun t => portState n t = st ∧
        portOf n t = { q with attempt := q.attempt + 1, common := some sets,
                              passFailed := decide ((combinations sets.2 q.passWidth).length ≤ q.attempt + 1) })) ∧
    (st = Ps.training → q.passFailed = true →
      does (.trainingPassRestart n) (fun t => Only [.ports] s t ∧
        portOf n t = { q with attempt := 0, passFailed := false, passRates := getF F.LNK_CTRL_RATES [n] s,
                              passWidth := widthMin n s, common := none })) ∧
    (st = Ps.down → getF F.LNK_CTRL_ENABLE [n] s = 1 → does (.downHoldoffExpire n) (fun t => portState n t = Ps.training)) ∧
    (∀ kind width, st = Ps.up →
      (q.retrain = none → does (.retrainReq n kind width) (fun t => portState n t = Ps.retrain ∧
        portOf n t = { q with retrain := some (kind, width) } ∧
        SentLinkMsg n [2, BitVec.ofNat 8 kind, BitVec.ofNat 8 width] s t)) ∧
      (q.retrain ≠ none → does (.retrainReq n kind width) (fun t => portState n t = Ps.retrain ∧ portOf n t = q))) ∧
    (st = Ps.up → q.retrain ≠ none → does (.retrainAck n) (fun t => portState n t = Ps.retrain ∧ portOf n t = q)) ∧
    (st = Ps.retrain → (∀ w, q.retrain ≠ some (1, w)) → does (.retrainComplete n) (fun t => portState n t = Ps.up ∧
      portOf n t = { q with retrain := none } ∧ Only [.regs, .ports] s t ∧
      getF F.LNK_STATUS_LANES [n] t = getF F.LNK_STATUS_LANES [n] s)) ∧
    (st = Ps.retrain → ∀ w, q.retrain = some (1, w) →
      (∀ k l, lanesOfWidth (keptLanes n s) w = some (k, l) →
        (widthMin n s ≤ k → does (.retrainComplete n) (fun t => portState n t = Ps.up ∧ portOf n t = { q with retrain := none } ∧
          getF F.LNK_STATUS_WIDTH [n] t = k ∧ getF F.LNK_STATUS_LANES [n] t = l)) ∧
        (k < widthMin n s → GoesDown (.retrainComplete n) n F.LNK_DOWN_EVENTS_RETRAIN_FAIL s)) ∧
      (lanesOfWidth (keptLanes n s) w = none → GoesDown (.retrainComplete n) n F.LNK_DOWN_EVENTS_RETRAIN_FAIL s)) ∧
    ((st = Ps.retrain ∨ (st = Ps.up ∧ q.retrain ≠ none)) →
      GoesDown (.retrainTimeout n) n F.LNK_DOWN_EVENTS_RETRAIN_FAIL s) ∧
    (∀ lane, lane < 4 → st = Ps.up → (getF F.LNK_STATUS_LANES [n] s).testBit lane = true → q.retrain = none →
      (∀ t0, t0 = setF F.LNK_LANE_DROPPED [n, lane] 1 (setF F.LNK_LANE_LOCK [n, lane] 0 s) →
        (∀ w l, widestLanes (keptLanes n t0) = some (w, l) → widthMin n s ≤ w →
          does (.laneDrop n lane) (fun t => (portOf n t).retrain = some (1, 2 ^ w) ∧ SentLinkMsg n [1, 1, BitVec.ofNat 8 (2 ^ w)] s t ∧
            getF F.LNK_LANE_DROPPED [n, lane] t = 1 ∧ portState n t = Ps.up)) ∧
        ((∀ w l, widestLanes (keptLanes n t0) = some (w, l) → w < widthMin n s) →
          GoesDown (.laneDrop n lane) n F.LNK_DOWN_EVENTS_RETRAIN_FAIL s))) ∧
    ((st = Ps.up ∨ st = Ps.miswired) → GoesDown (.lossOfSignal n) n F.LNK_DOWN_EVENTS_LOS s ∧
      ∀ cause, GoesDown (.downNoticeReceive n cause) n F.LNK_DOWN_EVENTS_DOWN_NOTICE s) ∧
    (st ≠ Ps.up → st ≠ Ps.miswired → idle (.lossOfSignal n) ∧ ∀ cause, idle (.downNoticeReceive n cause)) ∧
    (st ≠ Ps.up → ∀ kind width, idle (.retrainReq n kind width) ∧ idle (.retrainAck n))

/-- A packet or cell as the wire can carry it (R113, R124, R127). -/
def OnWire (p : Packet) : Prop :=
  p.vc < 16 ∧ p.arrival = 0 ∧ p.group = 0 ∧ p.copied = [] ∧ p.bad = [] ∧ p.stale = false ∧
  (if p.isCell then p.poison = false ∧ p.rsvd = false ∧ p.msgid = 0 ∧ p.pseq = 0 ∧ p.len = 0 ∧ p.handle = 0 ∧
      p.offset = 0 ∧ p.flow = 0 ∧ p.total = 0 ∧ p.payload.length = 48 ∧ p.code.toNat < 65536
    else p.ty ≠ 0 ∧ p.kind = 0 ∧ p.seq = 0 ∧ 1 ≤ p.len.toNat ∧ p.len.toNat ≤ 256 ∧ p.payload.length = 16 * p.len.toNat)

/-- Wire forms (R99, R101, R110, R112, R113, R124, R127). -/
def Obligations.PacketsSurviveTheWire : Prop :=
  (∀ (p : Packet) (rest : List Byte) (k : Nat), OnWire p → parsePacket (zeros (4 * k) ++ p.wire ++ rest) = .got p rest ∧
    p.wire.length = p.size) ∧
  (∀ (seq ack kind cnt : Nat) (payload : List Byte), seq < 4096 → ack < 4096 → kind < 8 → cnt < 32 → payload.length ≤ 248 →
    let f := mkFlit seq ack kind cnt payload
    f.length = 256 ∧ fieldAt f 0 4 % 4096 = seq ∧ fieldAt f 0 4 / 2 ^ 12 % 4096 = ack ∧ fieldAt f 0 4 / 2 ^ 24 % 8 = kind ∧
    fieldAt f 0 4 / 2 ^ 27 = cnt ∧ (f.drop 4).take 248 = payload ++ zeros (248 - payload.length) ∧
    crc32c (f.take 252) = BitVec.ofNat 32 (fieldAt f 252 4)) ∧
  (∀ (n : Nat) (f : List Byte) (s : State) (k : Nat), f.length = 256 → (activeLanes n s).length = k → (k = 1 ∨ k = 2 ∨ k = 4) →
    (onLanes n f s).map Prod.fst = activeLanes n s ∧ offLanes ((onLanes n f s).map Prod.snd) = f ∧
    ∀ (j i : Nat) (l : Nat × List Byte), (onLanes n f s)[j]? = some l → l.2.length = 256 / k ∧
      (i < 256 / k → l.2[i]? = f[4 * (k * (i / 4) + j) + i % 4]?)) ∧
  (∀ h bits : List Bool, descramble h (scramble h bits) = bits)

/-- Retry and receiving (R111 to R117, R121, R126 to R131): completes FLIT_RECEIVE, NAK_REPEAT, NAK_RECEIVE,
REPLAY_TIMER_EXPIRE, LINK_PACKET_RECEIVE. -/
def Obligations.LinksAreReliable : Prop :=
  ∀ (n : Nat) (s : State), n < 16 →
    let q := portOf n s
    let unacked := fun (a : BitVec 12) => if q.replay.any (fun e => decide (e.1 = a)) then
      q.replay.filter (fun e => decide ((e.1 - a - 1).toNat < 2048)) else q.replay
    let resent := fun (l : List (BitVec 12 × List Byte)) (t : State) => t.out.length = l.length ∧
      ∀ (i : Nat) (e : BitVec 12 × List Byte), l[i]? = some e → ∃ f, t.out[i]? = some (Out.flit n (onLanes n f s)) ∧ fieldAt f 0 4 % 4096 = e.1.toNat ∧
        (f.drop 4).take 248 = ((e.2.drop 4).take 248 ++ zeros 248).take 248
    (portState n s = Ps.up → ∀ (lanes : List (List Byte)) (fec : List (Nat × Bool)),
      lanes.length = (activeLanes n s).length → (offLanes lanes).length = 256 →
      let flit := offLanes lanes
      let hdr := fieldAt flit 0 4
      let kind := hdr / 2 ^ 24 % 8
      let good := crc32c (flit.take 252) = BitVec.ofNat 32 (fieldAt flit 252 4) ∧ ∀ x ∈ fec, x.1 ≤ 15
      let counted := fun (t : State) =>
        getR .LNK_FEC_CORR [n] t = getR .LNK_FEC_CORR [n] s +
          BitVec.ofNat 64 ((fec.filter (fun x => x.2 && decide (x.1 ≤ 15))).map Prod.fst).sum ∧
        getR .LNK_FEC_UNCORR [n] t = getR .LNK_FEC_UNCORR [n] s +
          BitVec.ofNat 64 (fec.filter (fun x => x.2 && decide (15 < x.1))).length
      (kind < 6 → good → hdr % 4096 = q.rxSeq.toNat → ∃ t, exec (.flitReceive n lanes fec) s = .next t ∧ counted t ∧
        (portOf n t).rx = q.rx ++ (flit.drop 4).take 248 ∧ (portOf n t).rxSeq = q.rxSeq + 1 ∧ (portOf n t).nakSent = false ∧
        (portOf n t).replay = unacked (BitVec.ofNat 12 (hdr / 2 ^ 12)) ∧
        Grew F.LNK_VC_STATE_AVAIL [n, kind] (hdr / 2 ^ 27) s t ∧
        getR .LNK_VC_RETURNED [n, kind] t = getR .LNK_VC_RETURNED [n, kind] s + BitVec.ofNat 64 (hdr / 2 ^ 27) ∧
        Only [.ports, .regs] s t ∧ OtherPorts n s t ∧ t.out = []) ∧
      (kind < 6 → (¬ good ∨ hdr % 4096 ≠ q.rxSeq.toNat) → ∃ t, exec (.flitReceive n lanes fec) s = .next t ∧ counted t ∧
        getR .LNK_FLIT_BAD [n] t = getR .LNK_FLIT_BAD [n] s + 1 ∧ portOf n t = { q with nakSent := true } ∧
        (q.nakSent = true → t.out = []) ∧
        (q.nakSent = false → ∃ f, t.out = [.flit n (onLanes n f s)] ∧ fieldAt f 0 4 / 2 ^ 24 % 8 = 7) ∧ Only [.ports, .regs] s t)) ∧
    (portState n s = Ps.up → q.nakSent = true → ∃ t f, exec (.nakRepeat n) s = .next t ∧ t.out = [.flit n (onLanes n f s)] ∧
      fieldAt f 0 4 / 2 ^ 24 % 8 = 7 ∧ Only [] s t) ∧
    (q.nakSent = false → exec (.nakRepeat n) s = .next (Quiet s)) ∧
    (portState n s = Ps.up → ∀ (a : BitVec 12), q.failed + 1 < max 4 (min 32 (getF F.LNK_RETRY_RETRY_LIMIT [n] s)) →
      (∃ t, exec (.nakReceive n a) s = .next t ∧ resent (unacked a) t ∧ (portOf n t).replay = unacked a ∧
        getR .LNK_REPLAYS [n] t = getR .LNK_REPLAYS [n] s + 1 ∧ Only [.ports, .regs] s t) ∧
      (q.replay ≠ [] → ∃ t, exec (.replayTimerExpire n) s = .next t ∧ resent q.replay t ∧ (portOf n t).replay = q.replay ∧
        getR .LNK_REPLAYS [n] t = getR .LNK_REPLAYS [n] s + 1 ∧ Only [.ports, .regs] s t)) ∧
    (portState n s = Ps.up → q.replay ≠ [] → q.replayAt = some q.acked →
      max 4 (min 32 (getF F.LNK_RETRY_RETRY_LIMIT [n] s)) ≤ q.failed + 1 →
      GoesDown (.replayTimerExpire n) n F.LNK_DOWN_EVENTS_RETRY_EXHAUSTED s) ∧
    (parsePacket q.rx = .more → exec (.linkPacketReceive n) s = .next (Quiet s)) ∧
    (parsePacket q.rx = .badLen → GoesDown (.linkPacketReceive n) n F.LNK_DOWN_EVENTS_RETRY_EXHAUSTED s) ∧
    (∀ (p : Packet) (rest : List Byte), parsePacket q.rx = .got p rest →
      let unassigned := p.isCell && p.badKind && decide (p.dest = ownAddr s) && ! p.multicast
      let refused := p.malformed || (decide (p.code ≠ p.stompCode) && unassigned)
      let ct := if p.multicast then ! mcastBad (withGroup p s) p.vc && (mcastDue (withGroup p s) s).any (fun o => cutThrough n o p.vc s)
        else match route p n p.vc s with | .port out vc _ => cutThrough n out vc s | _ => false
      ∃ t, exec (.linkPacketReceive n) s = .next t ∧ (portOf n t).rx = rest ∧
        (let freed := (∀ i v, inQ i v t = inQ i v s) ∧
          (p.vc < 6 → getR .LNK_VC_FREED [n, p.vc] t = getR .LNK_VC_FREED [n, p.vc] s + BitVec.ofNat 64 p.credits)
        (refused = true → getR .LNK_PKT_MALFORMED [n] t = getR .LNK_PKT_MALFORMED [n] s + 1 ∧ freed) ∧
        (refused = false → getR .LNK_PKT_MALFORMED [n] t = getR .LNK_PKT_MALFORMED [n] s) ∧
        (refused = false → p.code = p.stompCode → freed) ∧
        (refused = false → p.code = p.crc → p.isSync = false → inQ n p.vc t = inQ n p.vc s ++ [withGroup p s]) ∧
        (refused = false → p.code ≠ p.crc → p.code ≠ p.stompCode →
          (ct = false → Grew F.LNK_E2E_BAD [n] 1 s t ∧ freed) ∧
          (ct = true → Grew F.LNK_E2E_STOMPED [n] 1 s t ∧ (p.isSync = false →
            inQ n p.vc t = inQ n p.vc s ++ [withGroup { p with code := p.stompCode } s])))))

/-! ## The switch core -/

/-- Every output queue but the one named is as before. -/
def OtherOutputs (out vc : Nat) (s t : State) : Prop := ∀ o v, v < 6 → (o, v) ≠ (out, vc) → outQ o v t = outQ o v s

/-- The bytes follow those that wait at port `n` and leave in data flits of 248; what fills none waits, or leaves padded with zeros when
nothing more can start (R111, R112). -/
def SentInFlits (n : Nat) (bytes : List Byte) (s t : State) : Prop :=
  let all := (portOf n s).tx ++ bytes
  (t.out.length = all.length / 248 ∨ t.out.length = (all.length + 247) / 248) ∧
  (portOf n t).tx = all.drop (248 * t.out.length) ∧ (startPacket n t = none → (portOf n t).tx = []) ∧
  ∀ (j : Nat), j < t.out.length → ∃ f, t.out[j]? = some (Out.flit n (onLanes n f s)) ∧ f.length = 256 ∧
    (f.drop 4).take 248 = ((all.drop (248 * j)).take 248 ++ zeros 248).take 248

/-- Admission and scheduling (R172 to R185, R191): completes SWITCH_ADMIT, OUTPUT_SCHEDULE. -/
def Obligations.SwitchMovesPackets : Prop :=
  (∀ (inp vc : Nat) (s : State), inp < 43 → vc < 6 →
    (inQ inp vc s = [] → exec (.switchAdmit inp vc) s = .next (Quiet s)) ∧
    (∀ (p : Packet) (l : List Packet), inQ inp vc s = p :: l →
      let moved := fun (P : State → Prop) => ∃ t, exec (.switchAdmit inp vc) s = .next t ∧ inQ inp vc t = l ∧ t.out = [] ∧ P t
      (p.multicast = false →
        (route p inp vc s = .stay → exec (.switchAdmit inp vc) s = .next (Quiet s)) ∧
        (∀ c, route p inp vc s = .discard c → moved (fun t => getR c [] t = getR c [] s + 1 ∧ t.switch.outq = s.switch.outq)) ∧
        (∀ out v b, (route p inp vc s = .port out v b ∨ (route p inp vc s = .deliver out ∧ v = vc ∧ b = false)) →
          (canAdmit out v p.credits s = true → inTurn out v inp s = true → v < 6 →
            moved (fun t => outQ out v t = outQ out v s ++ [({ p with vc := v, stale := false }, inp, b)] ∧ OtherOutputs out v s t ∧
              tget 0 t.switch.rrIn (out * 8 + v) = (inp + 1) % 43)) ∧
          (canAdmit out v p.credits s = false ∨ inTurn out v inp s = false →
            exec (.switchAdmit inp vc) s = .next (Quiet s)))) ∧
      (p.multicast = true →
        let now := (mcastDue p s).filter (fun o => canAdmit o vc p.credits s && inTurn o vc inp s)
        let copies := fun (t : State) =>
          (∀ o ∈ now, outQ o vc t = outQ o vc s ++ [({ p with vc := vc, group := 0, copied := [], stale := false }, inp, copyEnters inp o)]) ∧
            ∀ o v, v < 6 → (v ≠ vc ∨ o ∉ now) → outQ o v t = outQ o v s
        (mcastBad p vc = true →
          moved (fun t => getR .SW_MCAST_DISCARDS [] t = getR .SW_MCAST_DISCARDS [] s + 1 ∧ t.switch.outq = s.switch.outq)) ∧
        (mcastBad p vc = false → now = mcastDue p s → moved copies) ∧
        (mcastBad p vc = false → now ≠ mcastDue p s →
          ∃ t, exec (.switchAdmit inp vc) s = .next t ∧ inQ inp vc t = { p with copied := p.copied ++ now } :: l ∧
            t.out = [] ∧ copies t)))) ∧
  (∀ (out : Nat) (s : State), out < 16 →
    (portState out s ≠ Ps.up → exec (.outputSchedule out) s = .next (Quiet s)) ∧
    (portState out s = Ps.up → isAnalysis out s = false →
      (∀ vc i step e, pickNext out s = some (vc, i, step) → (outQ out vc s)[i]? = some e → vc < 6 →
        ∃ t, exec (.outputSchedule out) s = .next t ∧ outQ out vc t = dropAt (outQ out vc s) i ∧ OtherOutputs out vc s t ∧
          getF F.LNK_VC_STATE_AVAIL [out, vc] t = (getF F.LNK_VC_STATE_AVAIL [out, vc] s + (2 ^ 13 - e.1.credits)) % 2 ^ 13 ∧
          SentInFlits out (e.1.corrected (timeNow s)).wire s t)) ∧
    (portState out s = Ps.up → isAnalysis out s = true → ∀ p l, tget [] s.switch.mirrorq out = p :: l → p.mirror = true →
      canStart out 1 (p, 0, false) s = true →
      ∃ t, exec (.outputSchedule out) s = .next t ∧ tget [] t.switch.mirrorq out = l ∧ t.switch.outq = s.switch.outq ∧
        getF F.LNK_VC_STATE_AVAIL [out, 1] t = (getF F.LNK_VC_STATE_AVAIL [out, 1] s + (2 ^ 13 - p.credits)) % 2 ^ 13 ∧
        SentInFlits out (p.corrected (timeNow s)).wire s t) ∧
    (portState out s = Ps.up → startPacket out s = none →
      let q := portOf out s
      (q.tx ≠ [] → ∃ t f, exec (.outputSchedule out) s = .next t ∧ t.out = [.flit out (onLanes out f s)] ∧
        (f.drop 4).take 248 = (q.tx ++ zeros 248).take 248 ∧ (portOf out t).tx = [] ∧ Only [.ports] s t) ∧
      (q.tx = [] → (nextReturn q).2 ≠ 0 → q.replay.length < 1024 → ∃ t f, exec (.outputSchedule out) s = .next t ∧
        t.out = [.flit out (onLanes out f s)] ∧ (f.drop 4).take 248 = zeros 248 ∧ Only [.ports] s t) ∧
      (q.tx = [] → ((nextReturn q).2 = 0 ∨ 1024 ≤ q.replay.length) → ∃ t f, exec (.outputSchedule out) s = .next t ∧
        t.out = [.linkMsg out (onLanes out f s)] ∧ fieldAt f 0 4 / 2 ^ 24 % 8 = 6 ∧ fieldAt f 4 1 = 0 ∧ Only [] s t))) ∧
  (∀ (out : Nat) (s : State), 16 ≤ out → out < 43 →
    (pickDelivery out s = none → exec (.outputSchedule out) s = .next (Quiet s)) ∧
    (∀ vc step e l, pickDelivery out s = some (vc, step) → outQ out vc s = e :: l → vc < 6 →
      ∃ t, exec (.outputSchedule out) s = .next t ∧ outQ out vc t = l ∧ OtherOutputs out vc s t ∧ t.out = [] ∧
        (unitGated out s = false → e.1.code ≠ e.1.crc → t.switch.delivered = s.switch.delivered) ∧
        (unitGated out s = false → e.1.code = e.1.crc → tget [] t.switch.delivered (unitOf out) =
          tget [] s.switch.delivered (unitOf out) ++ [(e.1, e.2.1)]) ∧
        (unitGated out s = true → t.switch.delivered = s.switch.delivered ∧
          getR .SW_DELIVERY_DISCARDS [] t = getR .SW_DELIVERY_DISCARDS [] s + 1)))

/-- Routing (R139, R142, R146, R147, R149, R161). -/
def Obligations.RoutesFollowTheRules : Prop :=
  ∀ (p : Packet) (inp vc : Nat) (s : State),
    let r := route p inp vc s
    ((geomValid s = false ∨ vc ≠ 5) → p.dest = ownAddr s → (∃ out, r = .deliver out ∧ 16 ≤ out) ∨ r = .discard .SW_JOB_DISCARDS) ∧
    (geomValid s = true → p.dest ≠ ownAddr s → outside p.dest s = true → r = .discard .SW_PATH_DISCARDS) ∧
    (geomValid s = true → p.dest ≠ ownAddr s → outside p.dest s = false → vc ∈ [0, 2, 3, 4] →
      r = .discard .SW_PATH_DISCARDS ∨
      ∃ n b, r = .port n vc b ∧ n < 16 ∧ portUsable n s = true ∧ (workDims p.dest s).head? = some (n / 4)) ∧
    (geomValid s = true → p.dest ≠ ownAddr s → outside p.dest s = false → vc = 1 →
      r = .discard .SW_PATH_DISCARDS ∨ (r = .stay ∧ adaptivePorts p s = [] ∧ adaptiveWaits p s = true) ∨
      ∃ n v b, r = .port n v b ∧ ((v = 1 ∧ portUp n s = true) ∨ v = 2) ∧ n < 16 ∧ portUsable n s = true ∧
        n / 4 ∈ workDims p.dest s) ∧
    (geomValid s = true → (p.dest = ownAddr s ∨ outside p.dest s = false) → vc = 5 →
      (lineEntry p inp s = none → r = .discard .SW_LINE_DISCARDS) ∧
      ∀ e, lineEntry p inp s = some e → let out := nbits 63 56 e.toNat
        (out = 16 → r = deliverTo p s) ∧
        (out < 16 → portUsable out s = true → ∃ b, r = .port out 5 b) ∧
        (out ≠ 16 → (16 < out ∨ portUsable out s = false) → r = .discard .SW_LINE_DISCARDS)) ∧
    (geomValid s = false → p.dest ≠ ownAddr s →
      (isManagement p = false → r = .discard .SW_PATH_DISCARDS) ∧
      (r = .discard .SW_PATH_DISCARDS ∨ ∃ n b, r = .port n p.vc b ∧ n < 16 ∧ portUp n s = true))

/-- The switch core's controls (R138, R144, R148, R152, R154, R160, R171, R175, R180): completes CALENDAR_SLOT_START,
CONGESTION_SAMPLE, RECOVERY_END, PEAK_CLEAR, GEOMETRY_WRITE, RING_NOTICE_RECEIVE, RING_NOTICE_REPEAT, PATH_EPOCH_BUMP,
UNREACHABLE_CLEAR, SLOT_DRAIN_COMPLETE. -/
def Obligations.SwitchControls : Prop :=
  ∀ (s : State),
    (∀ n, n < 16 → ∃ t, exec (.calendarSlotStart n) s = .next t ∧ Only [.tables, .switch] s t ∧
      tget 0 t.tables.curSlot n = (tget 0 s.tables.curSlot n + 1) % 256 ∧
      (∀ m, m ≠ n → tget 0 t.tables.curSlot m = tget 0 s.tables.curSlot m ∧
        tget false t.switch.armed m = tget false s.switch.armed m) ∧
      tget false t.switch.armed n = (slotPacket n t).isSome) ∧
    (∃ t, exec .congestionSample s = .next t ∧ Only [.regs] s t ∧ RegsOnly ((List.range 16).map (fun n => (.SW_CONG, [n]))) s t ∧
      ∀ n, n < 16 → getF F.SW_CONG_ESTIMATE [n] t = (15 * getF F.SW_CONG_ESTIMATE [n] s + (queuedBytes n s +
        64 * (getF F.LNK_VC_STATE_PEER_ADVERT [n, 1] s - getF F.LNK_VC_STATE_AVAIL [n, 1] s))) / 16 %
        2 ^ (F.SW_CONG_ESTIMATE.hi + 1 - F.SW_CONG_ESTIMATE.lo)) ∧
    (∃ t, exec .recoveryEnd s = .next t ∧ t.switch.recovery = false ∧ Only [.switch, .regs] s t ∧
      RegsOnly [(.SW_STATUS, [])] s t ∧ getF F.SW_STATUS_SERVICE [] t = serviceState t ∧ serviceState t ≠ 3) ∧
    (∀ fn out, out < 27 → fnAllowed fn (regOff .SW_OUTBUF [out]) s = true → ∃ t, exec (.peakClear fn out) s = .next t ∧
      Only [.regs] s t ∧ RegsOnly [(.SW_OUTBUF, [out])] s t ∧ getF F.SW_OUTBUF_PEAK [out] t = getF F.SW_OUTBUF_USED [out] s ∧
      getF F.SW_OUTBUF_USED [out] t = getF F.SW_OUTBUF_USED [out] s) ∧
    (∀ fn v, fnAllowed fn (regOff .SW_GEOMETRY []) s = true → ∃ t, exec (.geometryWrite fn v) s = .next t ∧
      (geomValid t = true ↔ v.getLsbD 63 = true ∧ sizesOk v = true) ∧ ringLen 0 t = v.toNat % 32 ∧
      ringLen 1 t = v.toNat / 2 ^ 8 % 32 ∧ ringLen 2 t = v.toNat / 2 ^ 16 % 32 ∧ ringLen 3 t = v.toNat / 2 ^ 24 % 16 ∧ t.mem = s.mem ∧
      getR .SW_RING_MAP [] t = ringMapAfter (geomValid s && geomValid t) s t ∧
      (getR .SW_RING_MAP [] t = getR .SW_RING_MAP [] s → getF F.SW_PATH_EPOCH_EPOCH [] t = getF F.SW_PATH_EPOCH_EPOCH [] s) ∧
      (getR .SW_RING_MAP [] t ≠ getR .SW_RING_MAP [] s → Grew F.SW_PATH_EPOCH_EPOCH [] 1 s t ∧ t.switch.recovery = true) ∧
      (geomValid t = false → t.switch.notices = [])) ∧
    (∀ p inp u, geomValid s = true → takeDelivered 26 (isKind 0x12) (Quiet s) = some ((p, inp), u) →
      let d := fieldAt p.payload 0 1
      let c := fieldAt p.payload 1 1
      let b := decide (fieldAt p.payload 2 1 = 0)
      (noticeBad p s = true → inp < 16 → ∃ t, exec .ringNoticeReceive s = .next t ∧ Only [.switch, .regs] s t ∧
        getR .LNK_PKT_MALFORMED [inp] t = getR .LNK_PKT_MALFORMED [inp] s + 1) ∧
      (noticeBad p s = false → linkBlocked d c s = b → exec .ringNoticeReceive s = .next u) ∧
      (noticeBad p s = false → linkBlocked d c s ≠ b → c < 16 → ∃ t, exec .ringNoticeReceive s = .next t ∧ linkBlocked d c t = b ∧
        (∀ e x, e < 4 → x < 16 → (e, x) ≠ (d, c) → linkBlocked e x t = linkBlocked e x s) ∧
        Grew F.SW_PATH_EPOCH_EPOCH [] 1 s t ∧ t.switch.recovery = true)) ∧
    (takeDelivered 26 (isKind 0x12) s = none → exec .ringNoticeReceive s = .next (Quiet s)) ∧
    (∀ idx d c x k, s.switch.notices[idx]? = some (d, c, x, k) → ∃ t, exec (.ringNoticeRepeat idx) s = .next t ∧
      t.switch.notices = (if k ≤ 1 then dropAt s.switch.notices idx else setAt s.switch.notices idx (d, c, x, k - 1))) ∧
    (∀ idx, s.switch.notices[idx]? = none → exec (.ringNoticeRepeat idx) s = .next (Quiet s)) ∧
    (∀ fn, fnAllowed fn (regOff .SW_PATH_EPOCH []) s = true → ∃ t, exec (.pathEpochBump fn) s = .next t ∧
      Grew F.SW_PATH_EPOCH_EPOCH [] 1 s t ∧ Only [.regs] s t ∧ RegsOnly [(.SW_PATH_EPOCH, [])] s t) ∧
    (∀ fn a, fnAllowed fn (regOff .SW_E2E_QUERY []) s = true → ∃ t, exec (.unreachableClear fn a) s = .next t ∧
      unreachable a t = false ∧ (∀ b, b ≠ a → unreachable b t = unreachable b s) ∧ Only [.msgs, .regs] s t ∧
      RegsOnly [(.SW_E2E_QUERY, [])] s t) ∧
    (∀ n slot, n < 16 → slot < 256 → ∀ c : CalSlot, s.tables.calendar.find? (fun e => decide (e.1 = n * 256 + slot)) =
      some (n * 256 + slot, c) →
      let used := (outQ n 5 s).any (fun e => decide (e.1.flow.toNat = c.plan * 1024 + c.line) && decide (e.1.job.toNat % 4096 = c.job))
      (c.draining = true → used = false → ∃ t, exec (.slotDrainComplete n slot) s = .next t ∧ Only [.tables] s t ∧
        (∀ e, e ∈ t.tables.calendar ↔ e ∈ s.tables.calendar ∧ e.1 ≠ n * 256 + slot)) ∧
      ((c.draining = false ∨ used = true) → exec (.slotDrainComplete n slot) s = .next (Quiet s)))

/-! ## Ropes -/

/-- No record waits for the rope's boundary, suspend or resume (R401). -/
def NobodyWaits (r : Nat) (s : State) : Prop :=
  (ropeOf r s).boundary = none ∧ (ropeOf r s).suspend = none ∧ (ropeOf r s).resume = none

/-- No pending commit has a status word to write in rope `r`'s own memory (R394). -/
def NoStatusWord (r : Nat) (s : State) : Prop := ∀ c ∈ s.tables.commits, c.byRope = some r → c.status = none

/-- ROPE_RESET and ROPE_DESTROY (R402, R403): completes those rows. -/
def Obligations.RopesAreResetAndDestroyed : Prop :=
  ∀ (q : Nat) (rec : Rec) (owner : Requester) (s : State),
    let r := recField rec 40 1
    let k := ropeOf r s
    (RecordAt q 0x06 rec owner s → mayName owner r s → ropeState r s ≠ RopeSt.none → bodyZero rec 41 64 →
      ∃ u, exec (.ropeReset (.window q)) s = .next (completed q rec u) ∧
        (NoStatusWord r s → ropeState r u = RopeSt.ready ∧ (ropeOf r u).stop = none) ∧ (ropeOf r u).rteHeld = 0 ∧ NobodyWaits r u ∧
        (∀ c, c / 8 ∈ ropeClusters r s → coreOf c u = {}) ∧ (∀ d ∈ ropeClusters r s, clusterState d u = Cl.gated) ∧
        (∀ die, ∀ x ∈ (tget ({} : Rte) u.rtes die).queue, x.rope ≠ r) ∧ (∀ die, ∀ x ∈ (tget ({} : Xe) u.xes die).queue, x.rope ≠ r) ∧
        (∀ die, die < 8 → ∀ e ∈ (tget ({} : Xe) u.xes die).active, e.rope ≠ r) ∧ (∀ c ∈ u.instrCmds, c.rope ≠ r) ∧ (∀ h ∈ u.heldSigs, h.who ∉ ropeCores r s) ∧
        (∀ c, c < 16 → chanOwnedBy c r s = true → (chanOf c u).queue = [] ∧ ∀ x, (chanOf c u).run = some x → x.ended = true) ∧
        getF F.CMD_COMPOSER_ENABLED [r] u = 0 ∧ getF F.AUD_LS_CTRL_ENABLE [r] u = 0 ∧
        getF F.ERR_RESET_STATUS_LAST_KIND [] u = 1 ∧ getF F.ERR_RESET_STATUS_LAST_TRIGGER [] u = 1 ∧
        (NobodyWaits r s → NoCommitPending s → u.tables = s.tables ∧
          ∀ i, k.belayFirst ≤ i → i < k.belayFirst + k.belayCount → devBelay i u = 0)) ∧
    (RecordAt q 0x06 rec owner s → (¬ mayName owner r s ∨ ropeState r s = RopeSt.none ∨ ¬ bodyZero rec 41 64) →
      exec (.ropeReset (.window q)) s = .next (rejectRec q St.notPermitted (dropReads 544 (Quiet s)))) ∧
    (RecordAt q 0x07 rec owner s → owner = .pf → r < 16 → ropeState r s = RopeSt.ready → ownsPages r s = false →
      ownsPools r s = false → bodyZero rec 41 64 →
      let client := getF F.CMD_ROPE_STATE_CLIENT [r] s
      ∃ u, exec (.ropeDestroy (.window q)) s = .next (completed q rec u) ∧
        ropeState r u = RopeSt.none ∧ getF F.CMD_ROPE_STATE_VF [r] u = 31 ∧ getR .CMD_ROPE_CLUSTERS [r] u = 0 ∧ ropeOf r u = {} ∧
        (∀ d ∈ ropeClusters r s, clusterState d u = Cl.gated) ∧ (∀ c, c / 8 ∈ ropeClusters r s → coreOf c u = {}) ∧
        (∀ c, c < 16 → chanOwnedBy c r u = false) ∧
        (∀ i, i / 4194304 = r → tget 0 u.tables.tierMap i = 0) ∧ (∀ i, i / 65536 = r → tget 0 u.tables.rankMap i = 0) ∧
        (∀ i b, b < 2 → k.ptBase ≤ i → i < k.ptBase + k.ptSize → tget 0 u.tables.placement (b * 262144 + i) = 0) ∧
        (∀ p, p < 64 → (planDirAt p (bankOf 2 p s) s).1 = ropeJob r s → (planDirAt p (bankOf 2 p s) s).2 ≠ 0 →
          planDirAt p (bankOf 2 p s) u = (0, 0) ∧ ∀ e ∈ u.tables.calendar, e.2.plan = p → e.2.draining = true) ∧
        getF F.CMD_CLIENT_COUNT [client] u = (getF F.CMD_CLIENT_COUNT [client] s + 31) % 32) ∧
    (RecordAt q 0x07 rec owner s → (owner ≠ .pf ∨ 16 ≤ r ∨ ropeState r s ≠ RopeSt.ready ∨ ownsPages r s = true ∨ ownsPools r s = true) →
      exec (.ropeDestroy (.window q)) s = .next (rejectRec q St.notPermitted (dropReads 544 (Quiet s))))

/-! ## Collectives -/

/-- The status registers that follow channel `c` (R213, R225). -/
def chanRegs (c : Nat) : List (Reg × List Nat) := (.COL_CHAN_STATUS, [c]) :: (List.range 16).map (fun p => (.COL_ADD_STATUS, [p]))

/-- The channels but `c` are as before. -/
def OtherChans (c : Nat) (s t : State) : Prop := ∀ d, d ≠ c → chanOf d t = chanOf d s

/-- A collective of rope `r` whose descriptor has the bytes `bs` keeps the rules of R195 and R213 in `s`. -/
def CollAcceptable (r : Nat) (bs : List Byte) (s : State) : Prop :=
  let d : CollDesc := ⟨bs, r⟩
  collDescOk d s = true ∧ chanOwnedBy d.chan r s = true ∧ d.seq = (chanOf d.chan s).expect

/-- The channel's collectives that are queued or running. -/
def chanLoad (c : Nat) (s : State) : Nat := (chanOf c s).queue.length + (if (chanOf c s).run.isSome then 1 else 0)

/-- The collective is at the end of its channel's queue, and its sequence number plus one is expected next (R213, R214). -/
def CollTaken (r : Nat) (bs : List Byte) (s t : State) : Prop :=
  let d : CollDesc := ⟨bs, r⟩
  chanOf d.chan t = { chanOf d.chan s with queue := (chanOf d.chan s).queue ++ [d], expect := (d.seq + 1) % 2 ^ 28 } ∧
  OtherChans d.chan s t ∧ Only [.chans, .regs] s t ∧ RegsOnly (chanRegs d.chan) s t

/-- Where the OUT of the pitches a collective has not completed begins, and where OUT ends (R199, R222). -/
def outOpen (r : CollRun) (x : Nat) : Prop :=
  let d := r.desc
  d.fld 24 6 + (if d.op = 1 then 16 * (r.pitches * d.shard) else r.pitches * d.pitch) ≤ x ∧ x < d.fld 24 6 + d.outBytes

/-- The running collective of channel `c` aborts with status, level, position and rank `a`: its messages that have not started are
not sent, no byte of memory changes but those of OUT that no complete pitch holds, and the first abort is named in COL_CHAN_NAMED. One
whose last pitch is complete only starts no further message (R221, R222, R223). -/
def CollAborted (c : Nat) (a : Nat × Nat × Nat × Nat) (s t : State) : Prop :=
  ∀ r, (chanOf c s).run = some r → r.ended = false →
    let left := r.msgs - (s.msgs.waiting.filter (fun m => ofColl c m.unit)).length
    OtherChans c s t ∧ (∀ m ∈ t.msgs.waiting, ofColl c m.unit = false) ∧ t.belays = s.belays ∧
    (r.pitches = r.desc.npitch → chanOf c t = { chanOf c s with run := some { r with overrun := true, msgs := left } } ∧ t.mem = s.mem) ∧
    (r.pitches ≠ r.desc.npitch → chanOf c t = { chanOf c s with run := some { r with abort := some a, msgs := left } } ∧
    (s.mem.errs = [] → ∀ p, (∀ x, outOpen r x → locate r.desc.who x true s ≠ .place p) →
      t.mem.byte p = s.mem.byte p ∧ t.mem.poisoned p = s.mem.poisoned p) ∧
    (getF F.COL_CHAN_NAMED_VALID [c] s = 1 → getR .COL_CHAN_NAMED [c] t = getR .COL_CHAN_NAMED [c] s) ∧
    (getF F.COL_CHAN_NAMED_VALID [c] s = 0 → getF F.COL_CHAN_NAMED_VALID [c] t = 1 ∧
      getF F.COL_CHAN_NAMED_STATUS [c] t = a.1 % 256 ∧ getF F.COL_CHAN_NAMED_LEVEL [c] t = a.2.1 % 4 ∧
      getF F.COL_CHAN_NAMED_POSITION [c] t = a.2.2.1 % 16 ∧ getF F.COL_CHAN_NAMED_RANK [c] t = a.2.2.2 % 32768))

/-- COLLECTIVE, COLL_ABORT, CHANNEL_OWN, CHANNEL_ABORT, COLLECTIVE_START (R195, R213, R214, R221): completes those rows. -/
def Obligations.CollectivesAreQueuedAndAborted : Prop :=
  (∀ (q : Nat) (rec : Rec) (owner : Requester) (s : State), RecordAt q 0x0A rec owner s →
    let r := recField rec 40 1
    let a := recField rec 44 6
    let bs := hostBytes s a 128
    mayName owner r s → takesColls r s = true → bodyZero rec 41 44 → bodyZero rec 50 64 → a % 64 = 0 →
    s.mem.anyPoison (hostPlace a) 128 = false →
    (CollAcceptable r bs s → chanLoad (CollDesc.chan ⟨bs, r⟩) s < 16 →
      ∃ u, exec (.collective (.window q)) s = .next (completed q rec u) ∧ CollTaken r bs s u) ∧
    (CollAcceptable r bs s → 16 ≤ chanLoad (CollDesc.chan ⟨bs, r⟩) s → exec (.collective (.window q)) s = .next (Quiet s)) ∧
    (¬ CollAcceptable r bs s →
      exec (.collective (.window q)) s = .next (rejectRec q St.notPermitted (dropReads 544 (Quiet s))))) ∧
  (∀ (i : Nat) (c : InstrCmd) (bs : List Byte) (s : State), nextInstr 0x0A s.instrCmds = some i → s.instrCmds[i]? = some c →
    let rest := fun (t : State) => endAccess 544 0 { t with instrCmds := dropAt s.instrCmds i }
    let stops := exec (.collective .instr) s = .next (engineFault c.rope c.core 7 c.tag c.pc St.notPermitted 0 (rest (Quiet s)))
    ((takesColls c.rope s = false ∨ c.reg.toNat % 64 ≠ 0) → ropeState c.rope s ≠ RopeSt.none → stops) ∧
    (takesColls c.rope s = true → c.reg.toNat % 64 = 0 → rdGood (cmdWho c.rope) c.reg.toNat 128 (Quiet s) = .ok bs →
      (CollAcceptable c.rope bs s → chanLoad (CollDesc.chan ⟨bs, c.rope⟩) s < 16 →
        ∃ u, exec (.collective .instr) s = .next (instrSignal c (rest u)) ∧ CollTaken c.rope bs s u) ∧
      (¬ CollAcceptable c.rope bs s → stops))) ∧
  (∀ (q : Nat) (rec : Rec) (owner : Requester) (s : State), RecordAt q 0x0B rec owner s →
    let r := recField rec 40 1
    let c := recField rec 41 1
    mayName owner r s → takesColls r s = true → bodyZero rec 42 64 → c < 16 → chanOwnedBy c r s = true →
    ∃ u, exec (.collAbort (.window q)) s = .next (completed q rec u) ∧ ((chanOf c s).run = none → u = Quiet s) ∧
      ∀ x, (chanOf c s).run = some x → CollAborted c (St.cancelled, 0, x.desc.pos 0, (ropeOf x.desc.rope s).rank) s u) ∧
  (∀ (i : Nat) (k : InstrCmd) (s : State), nextInstr 0x0B s.instrCmds = some i → s.instrCmds[i]? = some k →
    let c := k.reg.toNat % 16
    takesColls k.rope s = true → chanOwnedBy c k.rope s = true →
    ∃ u, exec (.collAbort .instr) s = .next (instrSignal k (endAccess 544 0 { u with instrCmds := dropAt s.instrCmds i })) ∧
      ∀ x, (chanOf c s).run = some x → CollAborted c (St.cancelled, 0, x.desc.pos 0, (ropeOf x.desc.rope s).rank) s u) ∧
  (∀ (fn : Requester) (c owner : Nat) (s : State), c < 16 → owner < 16 → fnAllowed fn (regOff .COL_CHAN_CTRL [c]) s = true →
    (∃ t, exec (.channelOwn fn c owner) s = .next t ∧ Only [.regs, .chans] s t ∧ chanOwnedBy c owner t = true ∧
      chanOf c t = { chanOf c s with expect := 0, nextCredits := [] } ∧ OtherChans c s t ∧ RegsOnly ((.COL_CHAN_CTRL, [c]) :: chanRegs c) s t) ∧
    ((chanOf c s).run = none → exec (.channelAbort fn c) s = .next (Quiet s)) ∧
    (∀ x, (chanOf c s).run = some x → ∃ t, exec (.channelAbort fn c) s = .next t ∧
      CollAborted c (St.cancelled, 0, x.desc.pos 0, (ropeOf x.desc.rope s).rank) s t)) ∧
  (∀ (c : Nat) (s : State), c < 16 →
    (∀ d l, (chanOf c s).run = none → (chanOf c s).queue = d :: l → ∃ t x, exec (.collectiveStart c) s = .next t ∧
      (chanOf c t).run = some x ∧ x.desc = d ∧ (chanOf c t).queue = l ∧ (chanOf c t).nextCredits = [] ∧
      (∀ k ∈ (chanOf c s).nextCredits, k.1 = d.seq → tget false x.credits k.2 = true) ∧ OtherChans c s t ∧
      (x.ended = false → t.mem = s.mem)) ∧
    (((chanOf c s).run.isSome = true ∨ (chanOf c s).queue = []) → exec (.collectiveStart c) s = .next (Quiet s)))

/-- The rows of a running collective (R200, R205, R211, R215, R220, R221, R224): completes COLL_STEP_SEND, COLL_MESSAGE_PROCESS,
COL_CREDIT_RECEIVE, COL_ABORT_RECEIVE, COLL_WATCHDOG_EXPIRE, COLL_COMPLETE. -/
def Obligations.CollectivesAdvance : Prop :=
  (∀ (c level sub part pitch : Nat) (gather : Bool) (r : CollRun) (s : State), c < 16 → level < 4 → sub < 4 →
    (chanOf c s).run = some r →
    let d := r.desc
    let st : CStep := ⟨level, sub, gather, part, pitch⟩
    let ready := r.ended = false ∧ level < d.levels ∧ pitch < d.npitch ∧ st ∈ d.sends level gather pitch ∧
      tget false r.sent st.handle = false ∧ tget false r.credits (creditKey level sub gather pitch) = true ∧
      r.sendReady st s = true
    (ready → d.dim level < 4 → d.trap = false → ∀ xs es new, r.stepData st (Quiet s) = .ok (xs, es, new) →
      ∃ t x, exec (.collStepSend c level sub gather part pitch) s = .next t ∧ (chanOf c t).run = some x ∧
        tget false x.sent st.handle = true ∧ Grew F.COL_ADD_TX_BYTES_COUNT [d.adder level sub] (xs.length * es) s t ∧
        OtherChans c s t ∧
        (x.ended = false → t.mem = s.mem ∧ ∃ m ∈ t.msgs.waiting, m.unit = .coll c (BitVec.ofNat 32 d.seq) ∧
          m.rank = some (d.rope, d.toRank level sub) ∧ m.inp = 27 + d.adder level sub ∧
          ∀ p ∈ m.packets, p.ty = 2 ∧ p.vc = 0 ∧ p.tag = BitVec.ofNat 32 d.tag ∧ p.handle = BitVec.ofNat 32 st.handle)) ∧
    (¬ ready → exec (.collStepSend c level sub gather part pitch) s = .next (Quiet s))) ∧
  (∀ (port c : Nat) (r : CollRun) (st : CStep) (s : State), port < 16 → c < 16 → (chanOf c s).run = some r →
    (∀ e, e ≠ c → (chanOf e s).run = none) →
    (r.nextStep port s = some st → ∀ u, processStep port c r st (modPort port (fun q => { q with addLast := c }) (Quiet s)) = .ok u →
      ∃ t x, exec (.collMessageProcess port) s = .next t ∧ (chanOf c t).run = some x ∧ tget false x.did st.handle = true ∧
        OtherChans c s t ∧
        (st.gather = false → r.desc.op ≠ 2 → r.desc.trap = false → st.level = r.desc.top → st.part = r.desc.pos st.level →
          ∀ xs new w, r.desc.reduceStep st (r.desc.incoming st) (Quiet s) = .ok (xs, new) →
            writeElems r.desc.who r.desc.esize r.desc.per (r.desc.quarter st).n (r.desc.resultAt st)
              (xs.map (fun x => ((r.desc.dataFmt.round rne (r.desc.wireFmt.decode x.1)).1, x.2))) (Quiet s) = .ok w →
            x.ended = false → t.mem = w.mem)) ∧
    (r.nextStep port s = none → exec (.collMessageProcess port) s = .next (Quiet s))) ∧
  (∀ (port : Nat) (p : Packet) (inp : Nat) (s u : State), port < 16 → takeDelivered (32 + port) (isKind 0x20) (Quiet s) = some ((p, inp), u) →
    let c := p.tag.toNat / 2 ^ 28
    let k := chanOf c s
    let key := creditKey (fieldAt p.payload 0 1 % 4) (fieldAt p.payload 1 1 % 4) (decide (fieldAt p.payload 2 1 = 1))
      (fieldAt p.payload 4 4 % 2 ^ 23)
    let mine := ∃ r, k.run = some r ∧ r.desc.tag = p.tag.toNat ∧ r.ended = false
    ∃ t, exec (.colCreditReceive port) s = .next t ∧ OtherChans c s t ∧ t.mem = s.mem ∧
      (∀ r, k.run = some r → mine → chanOf c t = { k with run := some { r with credits := tset false r.credits key true } }) ∧
      (¬ mine → p.tag.toNat % 2 ^ 28 = nextSeq k → chanOf c t = { k with nextCredits := k.nextCredits ++ [(nextSeq k, key)] }) ∧
      (¬ mine → p.tag.toNat % 2 ^ 28 ≠ nextSeq k → chanOf c t = k ∧
        getR .COL_CHAN_DISCARDS [c] t = getR .COL_CHAN_DISCARDS [c] s + 1)) ∧
  (∀ (port : Nat) (p : Packet) (inp : Nat) (s u : State), port < 16 → takeDelivered (32 + port) (isKind 0x21) (Quiet s) = some ((p, inp), u) →
    let c := p.tag.toNat / 2 ^ 28
    let mine := ∃ r, (chanOf c s).run = some r ∧ r.desc.tag = p.tag.toNat ∧ r.ended = false
    ∃ t, exec (.colAbortReceive port) s = .next t ∧
      (mine → CollAborted c (fieldAt p.payload 0 1, fieldAt p.payload 1 1 % 4, fieldAt p.payload 2 1 % 16,
        fieldAt p.payload 4 4 % 32768) s t) ∧
      (¬ mine → t.chans = s.chans ∧ getR .COL_CHAN_DISCARDS [c] t = getR .COL_CHAN_DISCARDS [c] s + 1)) ∧
  (∀ (c l sub : Nat) (credit : Bool) (r : CollRun) (s : State), c < 16 → l < 4 → sub < 4 → (chanOf c s).run = some r →
    let d := r.desc
    let waits := l < d.levels ∧ r.ended = false ∧ ropeState d.rope s ≠ RopeSt.suspended ∧ r.waitsIn s = false ∧
      (if credit then r.awaitsCredit l sub s else r.awaitsData l sub) = true
    (waits → ∃ t, exec (.collWatchdogExpire c l sub credit) s = .next t ∧
      CollAborted c (if credit then (St.stalled, l, d.ahead l sub, d.toRank l sub)
        else (St.stalled, l, d.behind l sub, d.fromRank l sub)) s t) ∧
    (¬ waits → exec (.collWatchdogExpire c l sub credit) s = .next (Quiet s))) ∧
  (∀ (c : Nat) (r : CollRun) (s : State), c < 16 → (chanOf c s).run = some r →
    let d := r.desc
    r.record.length = 32 ∧ fieldAt r.record 0 1 = r.status % 256 ∧ fieldAt r.record 1 1 = (if r.abort.isSome then 1 else 0) ∧
    fieldAt r.record 16 4 = r.pitches % 2 ^ 32 ∧
    ((r.ended = true ∨ r.allDone = true) → r.msgs = 0 → ∀ w, tryWr d.who (d.fld 40 6) r.record false (Quiet s) = .ok w →
      ∃ t, exec (.collComplete c) s = .next t ∧ chanOf c t = { chanOf c s with run := none } ∧ OtherChans c s t ∧
        getF F.COL_CHAN_STATUS_LAST_STATUS [c] t = r.status % 256 ∧ getF F.COL_CHAN_STATUS_BUSY [c] t = 0 ∧
        Grew (if r.abort.isSome then F.COL_CHAN_COUNTS_ABORTED else F.COL_CHAN_COUNTS_DONE) [c] 1 s t ∧
        (r.status = St.ok → t.mem = w.mem) ∧
        (writesOut (528 + c) w = false → devBelay (d.fld 38 2) t = absorbedInc (devBelay (d.fld 38 2) s) ∧
          ∀ b, b ≠ d.fld 38 2 → devBelay b t = devBelay b s)) ∧
    ((r.ended = false ∧ r.allDone = false ∨ r.msgs ≠ 0) → exec (.collComplete c) s = .next (Quiet s)))

/-! ## Messages and control cells -/

/-- No signal waits for lent writes, no buffer for its answers and no cell to be sent, so that an acknowledgement or a loss lets nothing
else go. -/
def NothingHeld (s : State) : Prop := s.heldSigs = [] ∧ s.msgs.cellWait = [] ∧ NoBufferDue s

/-- The unit is told nothing by an acknowledgement, or by a loss: the basecamp, and the units of lent memory. -/
def NotTold (u : MsgUnit) : Prop := (∃ m, u = .lender m) ∨ u = .basecamp

/-- Messages and cells (R162 to R171): completes MESSAGE_START, PACKET_ARRIVE, MACK_RECEIVE, MESSAGE_TIMEOUT, CACK_RECEIVE,
CELL_TIMEOUT, MSG_ENTRY_EXPIRE, TRAFFIC_HOLD_EXPIRE. -/
def Obligations.MessagesAreDeliveredOrFail : Prop :=
  (∀ (s : State), (pickMsg s = none → exec .messageStart s = .next (Quiet s)) ∧
    ∀ i m, pickMsg s = some i → s.msgs.waiting[i]? = some m →
      (∀ a c, reqDest m s = some a → unreachable a s = false → lowestCredit a s = some c →
        ∃ t o, exec .messageStart s = .next t ∧ t.msgs.waiting = dropAt s.msgs.waiting i ∧ t.msgs.outst = s.msgs.outst ++ [o] ∧
          o.dest = a ∧ o.cred = c ∧ o.try_ = 0 ∧ o.unit = m.unit ∧ o.packets = m.packets ∧
          o.gen = tget 0 s.msgs.gens (a.toNat * 16 + c) ∧ tget 0 t.msgs.gens (a.toNat * 16 + c) = (o.gen + 1) % 16384 ∧
          c < 16 ∧ c ∉ takenCredits a s ∧ (∀ d, d < c → d ∈ takenCredits a s) ∧
          getR .SW_MSG_STARTED [] t = getR .SW_MSG_STARTED [] s + 1 ∧
          getR .SW_MSG_OUTSTANDING [] t = getR .SW_MSG_OUTSTANDING [] s + 1 ∧ t.mem = s.mem) ∧
      ((reqDest m s = none ∨ ∃ a, reqDest m s = some a ∧ unreachable a s = true) → NotTold m.unit → NothingHeld s →
        ∃ t, exec .messageStart s = .next t ∧ Only [.msgs, .regs] s t ∧ RegsOnly [(.SW_MSG_REFUSED, [])] s t ∧
          getR .SW_MSG_REFUSED [] t = getR .SW_MSG_REFUSED [] s + 1 ∧ t.msgs.outst = s.msgs.outst ∧
          t.msgs.waiting = dropAt s.msgs.waiting i)) ∧
  (∀ (unit : Nat) (p : Packet) (inp : Nat) (s u : State), unit < 48 →
    takeDelivered unit (fun p => ! p.isCell) (Quiet s) = some ((p, inp), u) →
    let e := tget ({} : MsgEntry) s.msgs.table (entryIdx p)
    (p.multicast = true → ∀ v, landPacket unit p u = .ok v → exec (.packetArrive unit) s = .next v) ∧
    (p.multicast = false →
    (arrivalOf p e = .stale → exec (.packetArrive unit) s = .next (countR .SW_STALE_DISCARDS [] u)) ∧
    (arrivalOf p e = .done → exec (.packetArrive unit) s =
      .next (if p.last then ackMessage p (countR .SW_STALE_DISCARDS [] u) else countR .SW_STALE_DISCARDS [] u)) ∧
    (∀ e0 base, (arrivalOf p e = .count ∧ e0 = e ∧ base = u) ∨
        (∃ ab, arrivalOf p e = .restart ab ∧ e0 = {} ∧ base = if ab then countR .SW_MSG_ABANDONED [] u else u) →
      let e1 : MsgEntry := ⟨1, idGen p, idTry p, e0.count + 1, if p.last then some p.total.toNat else e0.total, e0.parts ++ [p]⟩
      ∀ v, landPacket unit p (setEntry (entryIdx p) e1 base) = .ok v →
        (e1.total ≠ some e1.count → exec (.packetArrive unit) s = .next v) ∧
        (e1.total = some e1.count →
          ∀ w, landMessage unit p e1.parts (setEntry (entryIdx p) { e1 with state := 2, parts := [] } v) = .ok w →
          exec (.packetArrive unit) s = .next (ackMessage p w))))) ∧
  (∀ (s : State), takeDelivered 26 (isKind 0x10) s = none → exec .mackReceive s = .next (Quiet s)) ∧
  (∀ (s : State), takeDelivered 26 (isKind 0x11) s = none → exec .cackReceive s = .next (Quiet s)) ∧
  (∀ (p : Packet) (inp id : Nat) (s u : State), takeDelivered 26 (isKind 0x10) (Quiet s) = some ((p, inp), u) → ackWords p = [id] →
    NothingHeld s →
    (s.msgs.outst.find? (ackMatches p.src id) = none → exec .mackReceive s = .next u) ∧
    ∀ m, s.msgs.outst.find? (ackMatches p.src id) = some m → NotTold m.unit →
      ∃ t, exec .mackReceive s = .next t ∧ Only [.msgs, .regs, .switch] s t ∧
        t.msgs.outst = s.msgs.outst.filter (fun x => ! ackMatches p.src id x) ∧ t.msgs.waiting = s.msgs.waiting ∧
        getR .SW_MSG_ACKED [] t = getR .SW_MSG_ACKED [] s + 1 ∧
        getR .SW_MSG_OUTSTANDING [] t = getR .SW_MSG_OUTSTANDING [] s - 1) ∧
  (∀ (p : Packet) (inp w : Nat) (s u : State), takeDelivered 26 (isKind 0x11) (Quiet s) = some ((p, inp), u) → ackWords p = [w] →
    NothingHeld s →
    (s.msgs.cells.find? (cackMatches p.src w) = none → exec .cackReceive s = .next u) ∧
    ∀ c, s.msgs.cells.find? (cackMatches p.src w) = some c → (NotTold c.unit ∨ ∃ n q, c.unit = .coll n q) →
      ∃ t, exec .cackReceive s = .next t ∧ Only [.msgs, .switch] s t ∧
        t.msgs.cells = s.msgs.cells.filter (fun x => ! cackMatches p.src w x)) ∧
  (∀ (dest : BitVec 16) (cred : Nat) (s : State), cred < 16 →
    let isIt := fun (m : OutMsg) => decide (m.dest = dest) && decide (m.cred = cred)
    (s.msgs.outst.find? isIt = none → exec (.messageTimeout dest cred) s = .next (Quiet s)) ∧
    ∀ m, s.msgs.outst.find? isIt = some m →
      (m.try_ < getF F.SW_MSG_CTRL_RESEND_LIMIT [] s → stopped m.unit s = false → ∃ t m', exec (.messageTimeout dest cred) s = .next t ∧
        m' = { m with try_ := m.try_ + 1, packets := m'.packets } ∧ m'.packets.length = m.packets.length ∧
        (∀ p ∈ m'.packets, p.retx = true ∧ p.fixedLine = false ∧ p.ordered = m.repro ∧ p.flow = m.aflow ∧ p.vc = if m.repro then 0 else 1) ∧
        t.msgs.outst = s.msgs.outst.map (fun x => if isIt x then m' else x) ∧
        getR .SW_MSG_RESENDS [] t = getR .SW_MSG_RESENDS [] s + 1 ∧ Grew F.SW_PATH_EPOCH_EPOCH [] 1 s t ∧ t.mem = s.mem) ∧
      (getF F.SW_MSG_CTRL_RESEND_LIMIT [] s ≤ m.try_ → NotTold m.unit → NothingHeld s →
        ∃ t, exec (.messageTimeout dest cred) s = .next t ∧ Only [.msgs, .regs] s t ∧
          RegsOnly [(.SW_MSG_FAILED, []), (.SW_MSG_OUTSTANDING, [])] s t ∧
          t.msgs.outst = s.msgs.outst.filter (fun x => ! isIt x) ∧ unreachable dest t = true ∧
          (∀ b, b ≠ dest → unreachable b t = unreachable b s) ∧
          getR .SW_MSG_FAILED [] t = getR .SW_MSG_FAILED [] s + 1 ∧
          getR .SW_MSG_OUTSTANDING [] t = getR .SW_MSG_OUTSTANDING [] s - 1)) ∧
  (∀ (dest : BitVec 16) (kind : Nat) (seq : BitVec 8) (s : State),
    let isIt := fun (c : OutCell) => decide (c.dest = dest) && decide (c.kind = kind) && decide (c.seq = seq.toNat)
    (s.msgs.cells.find? isIt = none → exec (.cellTimeout dest kind seq) s = .next (Quiet s)) ∧
    ∀ c, s.msgs.cells.find? isIt = some c →
      (kind = 1 ∨ c.tries < getF F.SW_MSG_CTRL_RESEND_LIMIT [] s → ∃ t, exec (.cellTimeout dest kind seq) s = .next t ∧
        t.msgs.cells = s.msgs.cells.map (fun x => if isIt x then
          { c with tries := c.tries + 1, pkt := { c.pkt with retx := true } } else x) ∧
        Grew F.SW_PATH_EPOCH_EPOCH [] 1 s t ∧ Only [.msgs, .switch, .regs] s t) ∧
      (kind ≠ 1 → getF F.SW_MSG_CTRL_RESEND_LIMIT [] s ≤ c.tries → NotTold c.unit → NothingHeld s →
        ∃ t, exec (.cellTimeout dest kind seq) s = .next t ∧ Only [.msgs] s t ∧
          t.msgs.cells = s.msgs.cells.filter (fun x => ! isIt x) ∧ unreachable dest t = true)) ∧
  (∀ (a : BitVec 16) (cred : Nat) (s : State), cred < 16 → ∃ t, exec (.msgEntryExpire a cred) s = .next t ∧ Only [.msgs] s t ∧
    tget ({} : MsgEntry) t.msgs.table (a.toNat * 16 + cred) = {} ∧
    ∀ i, i ≠ a.toNat * 16 + cred → tget ({} : MsgEntry) t.msgs.table i = tget {} s.msgs.table i) ∧
  (∀ (s : State),
    (s.msgs.cellWait = [] → exec .trafficHoldExpire s = .next { Quiet s with msgs := { s.msgs with hold := false } }) ∧
    (∀ w, s.msgs.cellWait = [w] → cellDest w s = none → NotTold w.unit →
      exec .trafficHoldExpire s = .next { Quiet s with msgs := { s.msgs with hold := false, cellWait := [] } }) ∧
    (∀ w c, s.msgs.cellWait = [w] → cellDest w s = some c → unreachable c.dest s = false → unackedCells c.dest c.kind s < 128 →
      ∃ t x, exec .trafficHoldExpire s = .next t ∧ t.msgs.hold = false ∧ t.msgs.cellWait = [] ∧ t.msgs.cells = s.msgs.cells ++ [x] ∧
        x.dest = c.dest ∧ x.kind = c.kind ∧ x.unit = c.unit ∧ x.seq = tget 0 s.msgs.cellSeq (c.dest.toNat * 256 + c.kind)))

/-! ## Memory -/

/-- Places below `hi` read as before, poison included. -/
def MemSame (hi : Nat) (s t : State) : Prop := ∀ p, p < hi → t.mem.byte p = s.mem.byte p ∧ t.mem.poisoned p = s.mem.poisoned p

/-- The pages of a range have one entry, every other page has the one it had (R355). -/
def PagesFilled (lo hi : Nat) (v : BitVec 32) (s t : State) : Prop :=
  ∀ p, pageEntry p t = if lo ≤ p ∧ p ≤ hi then v else pageEntry p s

/-- A page command ended with a status and a bad page (R356). -/
def PageResult (status bad : Nat) (t : State) : Prop :=
  getF F.MEM_PAGE_RESULT_STATUS [] t = status ∧ getF F.MEM_PAGE_RESULT_BAD_PAGE [] t = bad ∧ getF F.MEM_PAGE_CMD_GO [] t = 0

/-- The lender answers a request with a message to the borrower whose packets carry TAG `tag` (R368). -/
def LenderAnswers (m tag : Nat) (p : Packet) (ok : List Packet → Prop) (s t : State) : Prop :=
  ∃ x : MsgReq, t.msgs.waiting = s.msgs.waiting ++ [x] ∧ x.unit = .lender m ∧ x.rank = none ∧ x.addr = p.src ∧ x.packets ≠ [] ∧
    (∀ k ∈ x.packets, k.ty = 4 ∧ k.handle = p.tag ∧ k.tag.toNat = tag) ∧ ok x.packets

/-- DDR5_CHANNEL_TRAINED, PATROL_SCRUB_READ, PAGE_COMMAND, PAGE_SCRUB_COMPLETE, and TABLE_WRITE of the tier map (R349, R352,
R354, R356, R358): completes the first four rows. -/
def Obligations.MemoryIsTrainedScrubbedAndPaged : Prop :=
  (∀ (c : Nat) (cached ok : Bool) (s : State), c < 24 →
    let now := tget 0 s.bc.trained c
    let due := accepted c s = true ∧ if cached then now = 0 ∧ cacheValid c s = true else now = 3 ∨ (now = 0 ∧ cacheValid c s = false)
    let others := ∃ k, k < 24 ∧ k ≠ c ∧ trainingDue k s = true
    let runs := fun (P : State → Prop) => ∃ t, exec (.ddr5ChannelTrained c cached ok) s = .next t ∧ P t
    ((getF F.MEM_STATUS_SPEED [c / 12] s = 0 ∨ ¬ due) → exec (.ddr5ChannelTrained c cached ok) s = .next (Quiet s)) ∧
    (getF F.MEM_STATUS_SPEED [c / 12] s ≠ 0 → due → cached = true → ok = false →
      runs (fun t => t = { Quiet s with bc := { s.bc with trained := tset 0 s.bc.trained c 3 } })) ∧
    (getF F.MEM_STATUS_SPEED [c / 12] s ≠ 0 → due → (cached = true → ok = true) →
      runs (fun t =>
        (others ∨ lmaPages t ≠ 0 → tget 0 t.bc.trained c = (if ok then 1 else 2) ∧
          (∀ k, k ≠ c → tget 0 t.bc.trained k = tget 0 s.bc.trained k) ∧
          (ok = true → (getF F.MEM_STATUS_USABLE [c / 12] t).testBit (c % 12) = true) ∧
          (ok = true → cached = true → getF F.MEM_STATUS_CACHED [c / 12] t = 1)) ∧
        (others → MemSame (2 ^ 64) s t ∧ t.bc.ddrReady = s.bc.ddrReady ∧ t.bc.cache = s.bc.cache ∧
          t.bc.full = if ok ∧ ¬ cached then s.bc.full ++ [c] else s.bc.full) ∧
        (¬ others → lmaPages t ≠ 0 → t.bc.ddrReady = true ∧
          getF F.MEM_STATUS_READY [0] t = 1 ∧ getF F.MEM_STATUS_READY [1] t = 1 ∧
          getF F.MEM_SYSTEM_PAGES [] t = lmaPages t % 2 ^ 22 ∧
          (s.bc.stage = 3 → ok = true → cached = false → tget none t.bc.cache c = cacheKey c s ∧ t.bc.full = []) ∧
          ∀ p, p < 2 ^ 43 → t.mem.byte p = 0 ∧ t.mem.poisoned p = false) ∧
        (¬ others → lmaPages t = 0 → Dv.standby < deviceState s → deviceState t = Dv.standby)))) ∧
  (∀ (m : Nat) (upset : BitVec 160) (k line c : Nat) (s : State), m < 2 → getF F.MEM_STATUS_READY [m] s = 1 →
    Dv.lender ≤ deviceState s → nextLine m (lineFuel s) (tget 0 s.scrubPos m) s = some (line, c) → c < 24 → k < 8 →
    s.mem.errs = [] →
    let word := line * 8 + k
    let p := word * 16
    wordExists word s = true → word < 2 ^ 39 →
    (upset = 0 ∨ s.mem.poisoned p = true ∨ readStored 4 false (storedSyms word (upsetWord word upset s)) ≠ .poison ∨
      ∃ t, exec (.patrolScrubRead m upset word) s = .next t ∧ t.mem.poisoned p = true ∧ Grew F.ERR_CLASS_COUNT_COUNT [2] 1 s t) ∧
    (upset = 0 → s.mem.poisoned p = false → ∃ t, exec (.patrolScrubRead m upset word) s = .next t ∧ MemSame (2 ^ 64) s t ∧
      Only [.mem, .regs, .scrubPos] s t ∧ RegsOnly [(.MEM_SCRUB, [m])] s t) ∧
    (∀ j v, j < 20 → 0 < v → v < 256 → upset.toNat = v * 2 ^ (8 * j) → s.mem.poisoned p = false →
      ∃ t, exec (.patrolScrubRead m upset word) s = .next t ∧ MemSame (2 ^ 64) s t ∧ Grew F.MEM_ECC_CORR [c / 12, c % 12] 1 s t ∧
        (getF F.MEM_CE_LOG_VALID [c / 12] s = 0 → getF F.MEM_CE_LOG_VALID [c / 12] t = 1 ∧
          getF F.MEM_CE_LOG_DEVICE [c / 12] t = symDevice j ∧ getF F.MEM_CE_LOG_LINE [c / 12] t = line)) ∧
    (readStored 4 (s.mem.poisoned p) (storedSyms word (upsetWord word upset s)) = .bad → ∃ t, exec (.patrolScrubRead m upset word) s = .next t ∧
      t.mem.poisoned p = true ∧ Grew F.MEM_ECC_UNCORR [c / 12, c % 12] 1 s t ∧
      ∀ q, q < 2 ^ 64 → q / 16 ≠ p / 16 → t.mem.byte q = s.mem.byte q ∧ t.mem.poisoned q = s.mem.poisoned q)) ∧
  (∀ (m : Nat) (upset : BitVec 160) (word : Nat) (s : State), m < 2 → word < 2 ^ 63 →
    (getF F.MEM_STATUS_READY [m] s = 0 ∨ deviceState s < Dv.lender) →
    exec (.patrolScrubRead m upset word) s = .next (upsetWord word upset (Quiet s))) ∧
  (∀ (fn : Requester) (v : BitVec 64) (s : State), fnAllowed fn (regOff .MEM_PAGE_CMD []) s = true →
    let s1 := setR .MEM_PAGE_CMD [] (v &&& 0x83FE0FFFFFFFFFFF) (Quiet s)
    let lo := getF F.MEM_PAGE_CMD_FIRST [] s1
    let hi := lo + getF F.MEM_PAGE_CMD_COUNT [] s1
    let st := getF F.MEM_PAGE_CMD_STATE [] s1
    let ix := getF F.MEM_PAGE_CMD_INDEX [] s1
    let refused := fun (status bad : Nat) => ∃ t, exec (.pageCommand fn v) s = .next t ∧ PageResult status bad t ∧ t.tables = s.tables
    let free := getF F.MEM_PAGE_CMD_GO [] s = 0 ∧ v.getLsbD 63 = true
    (getF F.MEM_PAGE_CMD_GO [] s = 1 → exec (.pageCommand fn v) s = .next (Quiet s)) ∧
    (getF F.MEM_PAGE_CMD_GO [] s = 0 → v.getLsbD 63 = false → exec (.pageCommand fn v) s = .next s1) ∧
    (∀ p, free → badPage lo hi s = some p → refused St.notPermitted (p % 2 ^ 32)) ∧
    (free → badPage lo hi s = none → (st = Pg.scrubbing ∨ Pg.retired < st) → refused St.notPermitted lo) ∧
    (free → badPage lo hi s = none → st = Pg.rope →
      (∀ e ∈ pagesIn lo hi s, ¬ (entryState e.2 = Pg.rope ∧ entryIndex e.2 = ix)) →
      getF F.MEM_QUOTA_LIMIT [ix, 0] s < getF F.MEM_QUOTA_USED [ix, 0] s + (hi + 1 - lo) →
      ∃ bad, refused St.quotaExceeded bad) ∧
    (free → badPage lo hi s = none → st ≠ Pg.scrubbing → st ≤ Pg.retired →
      (st = Pg.rope → getF F.MEM_QUOTA_USED [ix, 0] s + (hi + 1 - lo) ≤ getF F.MEM_QUOTA_LIMIT [ix, 0] s) →
      ∃ t, exec (.pageCommand fn v) s = .next t ∧ t.mem = s.mem ∧
        (st = Pg.free ∧ getF F.MEM_PAGE_CMD_SCRUB [] s1 = 1 → PagesFilled lo hi (mkPage Pg.scrubbing 0 0) s t ∧
          t.tables.scrubbing = some (lo, hi) ∧ getF F.MEM_PAGE_CMD_GO [] t = 1) ∧
        (¬ (st = Pg.free ∧ getF F.MEM_PAGE_CMD_SCRUB [] s1 = 1) → PageResult St.ok 0 t ∧
          PagesFilled lo hi (mkPage st (if st = Pg.rope ∨ st = Pg.lent then ix else 0) 0) s t))) ∧
  (∀ (s : State), (s.tables.scrubbing = none → exec .pageScrubComplete s = .next (Quiet s)) ∧
    ∀ lo hi, s.tables.scrubbing = some (lo, hi) → ∃ t, exec .pageScrubComplete s = .next t ∧ PageResult St.ok 0 t ∧
      PagesFilled lo hi 0 s t ∧ t.tables.scrubbing = none ∧
      (∀ p, lo * 2 ^ 21 ≤ p → p < (hi + 1) * 2 ^ 21 → t.mem.byte p = 0 ∧ t.mem.poisoned p = false) ∧
      (∀ p, (p < lo * 2 ^ 21 ∨ (hi + 1) * 2 ^ 21 ≤ p) → lo ≤ hi → t.mem.byte p = s.mem.byte p ∧ t.mem.poisoned p = s.mem.poisoned p)) ∧
  (∀ (q : Nat) (rec : Rec) (s : State), RecordAt q 0x08 rec .pf s → recField rec 40 1 = 5 →
    let r := recField rec 41 1
    let first := recField rec 44 4
    let n := recField rec 48 4
    let bs := hostBytes s (recField rec 52 6) (n * 16)
    let es := (List.range n).map (fun k => BitVec.ofNat 128 (fieldAt bs (16 * k) 16))
    r < 16 → takesTables r s = true → 1 ≤ n → n ≤ 4194304 → first + n ≤ (ropeOf r s).tmapPages → bodyZero rec 42 44 →
    bodyZero rec 58 64 → s.mem.anyPoison (hostPlace (recField rec 52 6)) (n * 16) = false →
    (pagesBusy r first n s = true → exec (.tableWrite (.window q)) s = .next (Quiet s)) ∧
    (pagesBusy r first n s = false →
    let st := (tierMapWrite r first es (Quiet s)).1
    ((∃ e ∈ es, e.getLsbD 4 = true ∨ (tmValid e = true ∧ tmTier e = 0 ∧ localOk r e s = false)) → st = St.notPermitted) ∧
    (st ≠ 0 → exec (.tableWrite (.window q)) s = .next (rejectRec q st (dropReads 544 (Quiet s)))) ∧
    (st = 0 → ∃ u, exec (.tableWrite (.window q)) s = .next (completed q rec u) ∧ u.mem = s.mem ∧ Only [.tables, .regs] s u ∧
      ∀ x, tget 0 u.tables.tierMap x = if r * 4194304 + first ≤ x ∧ x < r * 4194304 + first + n
        then es.getD (x - (r * 4194304 + first)) 0 else tget 0 s.tables.tierMap x)))

/-- LEND_WINDOW_OPEN, LEND_WINDOW_CLOSE, MREAD_RECEIVE (R367, R368): completes those rows. -/
def Obligations.MemoryIsLent : Prop :=
  (∀ (fn : Requester) (w : Nat) (s : State), w < 16 → fnAllowed fn (regOff .MEM_LEND_CTRL [w]) s = true → twf 0 s.tables.pages = true →
    let lo := getF F.MEM_LEND_RANGE_FIRST [w] s
    let n := getF F.MEM_LEND_RANGE_COUNT [w] s
    let lent := ∀ p, lo ≤ p → p ≤ lo + n → entryState (pageEntry p s) = Pg.lent ∧ entryIndex (pageEntry p s) = w
    (lent → ∃ t, exec (.lendWindowOpen fn w) s = .next t ∧ Only [.regs] s t ∧ RegsOnly [(.MEM_LEND_CTRL, [w]), (.BC_STATE, [])] s t ∧
      getF F.MEM_LEND_CTRL_ENABLE [w] t = 1 ∧ deviceState t = if deviceState s = Dv.idle then Dv.lender else deviceState s) ∧
    (¬ lent → ∃ t, exec (.lendWindowOpen fn w) s = .next t ∧ Only [.regs] s t ∧ RegsOnly [(.MEM_LEND_CTRL, [w])] s t ∧
      getF F.MEM_LEND_CTRL_ENABLE [w] t = 0)) ∧
  (∀ (fn : Requester) (w : Nat) (s : State), w < 16 → fnAllowed fn (regOff .MEM_LEND_CTRL [w]) s = true →
    ∃ t, exec (.lendWindowClose fn w) s = .next t ∧ Only [.regs] s t ∧ RegsOnly [(.MEM_LEND_CTRL, [w])] s t ∧
      getF F.MEM_LEND_CTRL_ENABLE [w] t = 0 ∧ getF F.MEM_LEND_CTRL_BORROWER [w] t = getF F.MEM_LEND_CTRL_BORROWER [w] s) ∧
  (∀ (m : Nat) (s : State), m < 2 → takeDelivered (24 + m) (isKind 0x13) s = none → exec (.mreadReceive m) s = .next (Quiet s)) ∧
  (∀ (m : Nat) (p : Packet) (inp : Nat) (s u : State), m < 2 → takeDelivered (24 + m) (isKind 0x13) (Quiet s) = some ((p, inp), u) →
    let h := fieldAt p.payload 0 4
    let off := fieldAt p.payload 4 4
    let n := fieldAt p.payload 8 4
    let w := h / 2 ^ 28
    let page := h % 2 ^ 28
    let good := 128 ≤ n ∧ n ≤ 65536 ∧ n % 128 = 0 ∧ getF F.MEM_LEND_CTRL_ENABLE [w] s = 1 ∧
      getF F.MEM_LEND_CTRL_BORROWER [w] s = p.src.toNat ∧ getF F.MEM_LEND_CTRL_JOB [w] s = p.job.toNat % 4096 ∧
      page ≤ getF F.MEM_LEND_RANGE_COUNT [w] s ∧ off + n ≤ 2 ^ 21
    let a := (getF F.MEM_LEND_RANGE_FIRST [w] s + page) * 2 ^ 21 + off
    (good → s.mem.errs = [] → ∃ t, exec (.mreadReceive m) s = .next t ∧ t.mem = s.mem ∧
      LenderAnswers m 0 p (fun l => l.flatMap (fun k => k.payload) = s.mem.bytes a n ∧
        (s.mem.anyPoison a n = false → ∀ k ∈ l, k.poison = false)) s t) ∧
    (¬ good → ∃ t, exec (.mreadReceive m) s = .next t ∧ t.mem = s.mem ∧ Grew F.MEM_LEND_COUNTS_REJECTED [] 1 s t ∧
      LenderAnswers m 1 p (fun l => ∀ k ∈ l, k.poison = true) s t))

/-! ## Prefetch -/

/-- The unit's reads of lent memory end when its command goes through. -/
def afterPf (die : Nat) (u : State) : State := endAccess (552 + die) 0 u

/-- The prefetch rows (R361 to R366): completes SCHEDULE_WRITE, PREFETCH_DEMAND, PREFETCH_PIECE_ISSUE, SPECULATIVE_FILL,
PIECE_LAND. -/
def Obligations.PrefetchFillsBuffers : Prop :=
  (∀ (fn : Requester) (r : Nat) (a : BitVec 48) (s : State), r < 16 → fnAllowed fn (regOff .MEM_PF_CTRL [r]) s = true →
    ∃ t, exec (.scheduleWrite fn r a) s = .next t ∧ Only [.regs] s t ∧ RegsOnly [(.MEM_PF_CTRL, [r])] s t ∧
      getF F.MEM_PF_CTRL_SCHED [r] t = a.toNat ∧ getF F.MEM_PF_CTRL_PENDING [r] t = 1 ∧
      getF F.MEM_PF_CTRL_STATUS [r] t = getF F.MEM_PF_CTRL_STATUS [r] s) ∧
  (∀ (die : Nat) (tag : BitVec 32) (s : State), die < 8 →
    (activeExch die tag s = none → exec (.prefetchDemand die tag) s = .next (Quiet s)) ∧
    ∀ e, activeExch die tag s = some e →
      let r := e.rope
      let s1 := releaseFills r die (Quiet s)
      let p := pfOf r die s1
      (schedOf r s = none → exec (.prefetchDemand die tag) s = .next s1) ∧
      ∀ x i, schedOf r s = some x → x.layerOf e.tag = some i →
        let turn := e.countsComplete = true ∧ e.tag ∉ p.seen ∧ p.todo = [] ∧ earlierHandled die e x s1 = true
        let serving := ∃ y ∈ p.served, y.2 = i
        (¬ turn → exec (.prefetchDemand die tag) s = .next s1) ∧
        (turn → serving → ∃ t, exec (.prefetchDemand die tag) s = .next t ∧ (pfOf r die t).seen = p.seen ++ [e.tag] ∧
          (pfOf r die t).served = p.served ∧ (r < 16 → Grew F.MEM_PF_COUNTS_SKIPPED [r] 1 s t) ∧ t.belays = s.belays ∧
          t.mem = s.mem) ∧
        (turn → ¬ serving → ∀ u, serveTag die e x i s1 = .ok u → ∃ t, exec (.prefetchDemand die tag) s = .next t ∧
          t = afterPf die u ∧ e.tag ∈ (pfOf r die t).seen ∧ (pfOf r die t).served = p.served ++ [(e.tag, i)] ∧
          (i ∈ p.activated → t.belays = s.belays) ∧
          (i ∉ p.activated → ∀ slot ∈ x.homed i ((indexOf (ropeDies r s) die).getD 0), devBelay (x.belay i slot) t = 0))) ∧
  (∀ (h c : Nat), h < 2 ^ 32 → (histStep h c : Int) = h + Int.tdiv ((min c (2 ^ 23) : Nat) * 256 - (h : Int)) 8) ∧
  (∀ (die : Nat) (s : State), die < 8 →
    let s1 := releaseAll die (Quiet s)
    ((∀ r, r < 16 → nextDemand r die s1 = none) → exec (.prefetchPieceIssue die) s = .next s1) ∧
    ∀ r f, r < 16 → nextDemand r die s1 = some f → (∀ o, o < r → nextDemand o die s1 = none) →
      ∃ t, exec (.prefetchPieceIssue die) s = .next t ∧ t.mem = s.mem ∧ t.belays = s.belays ∧
        (pfOf r die t).fills = (pfOf r die s1).fills ++ [f] ∧ (pfOf r die t).todo = (pfOf r die s1).todo.tail ∧
        (∀ k, k ≠ pfIdx r die → tget ({} : PfDie) t.pf k = tget {} s1.pf k) ∧
        ∀ x, schedOf r s = some x →
          let free := freeBuffers x ((indexOf (ropeDies r s) die).getD 0) f.piece (pfOf r die s1).fills
          f.buf ∈ free ∧ ∀ b ∈ free, f.buf ≤ b) ∧
  (∀ (die : Nat) (s : State), die < 8 →
    let s1 := releaseAll die (Quiet s)
    ((∀ r x, r < 16 → schedOf r s1 = some x → specLayer r die x s1 = none) → exec (.speculativeFill die) s = .next s1) ∧
    ∀ r x i, r < 16 → schedOf r s1 = some x → specLayer r die x s1 = some i →
      (∀ o y, o < r → schedOf o s1 = some y → specLayer o die y s1 = none) →
      ∀ u, specFill r die x i s1 = .ok u → ∃ t, exec (.speculativeFill die) s = .next t ∧ t = afterPf die u ∧ t.mem = s.mem ∧
        getF F.MEM_PF_CTRL_PENDING [r] s = 0 ∧
        ((pfOf r die t).fills = (pfOf r die s1).fills ∨
          ∃ f, (pfOf r die t).fills = (pfOf r die s1).fills ++ [f] ∧ f.layer = i ∧ f.tag = none ∧ f.landed = false ∧
            f.buf ∈ freeBuffers x ((indexOf (ropeDies r s) die).getD 0) f.piece (pfOf r die s1).fills)) ∧
  (∀ (die idx : Nat) (s : State), die < 8 → idx / 1024 < 16 →
    let r := idx / 1024
    let pos := idx % 1024
    ((schedOf r s = none ∨ (pfOf r die s).fills[pos]? = none ∨ ∃ f, (pfOf r die s).fills[pos]? = some f ∧ f.landed = true) →
      exec (.pieceLand die idx) s = .next (Quiet s)) ∧
    ∀ x f, schedOf r s = some x → (pfOf r die s).fills[pos]? = some f → f.landed = false →
      let w := pfWho r die
      let b := x.bufAddr ((indexOf (ropeDies r s) die).getD 0) f.buf
      let entry := fieldAt (x.layer f.layer) 10 6 + 32 * f.slot + 8 * f.piece
      ∀ bs st v v2, pieceRead w (x.pieceAddr f.layer f.slot f.piece) (x.pieceBytes f.layer f.slot f.piece) (Quiet s) = .ok (bs, st) →
        tryWr w b bs (decide (st ≠ 0)) (Quiet s) = .ok v → tryWr w entry (natLe 6 b ++ natLe 2 st) false v = .ok v2 →
        ∃ t, exec (.pieceLand die idx) s = .next t ∧ (st = 0 → t.mem = v2.mem) ∧
          (∀ p, p < 2 ^ 64 → t.mem.byte p = v2.mem.byte p ∧ t.mem.poisoned p = v2.mem.poisoned p) ∧
          (writesOut (552 + die) v2 = false → devBelay (x.belay f.layer f.slot) t =
            BitVec.ofNat 64 (leadingLanded (setAt (pfOf r die s).fills pos { f with landed := true }) f) ∧
            ∀ k, k ≠ x.belay f.layer f.slot → devBelay k t = devBelay k s))

/-! ## Buffer pools -/

/-- A request's answer, where a function reads it (R379). -/
def Answered (w : BpmClient) (status : Nat) (h : BitVec 32) (t : State) : Prop :=
  ∀ f, w = .fn f → (tget ({} : Fn) t.fns (fnIdx f)).bpmResult = BitVec.ofNat 64 (status * 2 ^ 32 + h.toNat)

/-- The pools but `p` are as before. -/
def OtherPools (p : Nat) (s t : State) : Prop := ∀ q, q ≠ p → poolOf q t = poolOf q s

/-- A counter field lost `n`, modulo its width (log 8). -/
def Fell (f : Fld) (ix : List Nat) (n : Nat) (s t : State) : Prop :=
  getF f ix t = (getF f ix s + (2 ^ (f.hi + 1 - f.lo) - n)) % 2 ^ (f.hi + 1 - f.lo)

/-- A pool whose registers and handles nothing has changed. -/
def PoolKept (p : Nat) (s t : State) : Prop :=
  (poolOf p t).cache = (poolOf p s).cache ∧ (poolOf p t).ringLen = (poolOf p s).ringLen ∧
  getR .BPM_POOL_STATE [p] t = getR .BPM_POOL_STATE [p] s ∧ getR .BPM_POOL_ALLOCS [p] t = getR .BPM_POOL_ALLOCS [p] s ∧
  getR .BPM_POOL_FREES [p] t = getR .BPM_POOL_FREES [p] s

/-- The pool rows (R374 to R382, R501): completes BPM_ALLOCATE, BPM_FREE, BPM_HAND_OFF, BPM_REFILL, POOL_ENABLE,
POOL_INIT_COMPLETE, POOL_DISABLE, POOL_RECLAIM. -/
def Obligations.BuffersAreAllocatedAndFreed : Prop :=
  (∀ (w : BpmClient) (p : Nat) (s : State), p < 64 → bpmClientOk w s = true → (poolOf p s).pend = none →
    let k := poolOf p s
    let free := getF F.BPM_POOL_STATE_FREE [p] s
    let may := poolEnabled p s = true ∧ mayUsePool w p s = true
    (¬ may → ∃ t, exec (.bpmAllocate w p) s = .next t ∧ Only [.fns, .reads, .regs] s t ∧ RegsOnly [(.MEM_LEND_COUNTS, [])] s t ∧
      Answered w St.notPermitted noHandle t) ∧
    (may → free ≤ k.waiting.length → ∃ t, exec (.bpmAllocate w p) s = .next t ∧ Only [.fns, .reads, .regs] s t ∧
      RegsOnly [(.BPM_POOL_FAILS, [p]), (.MEM_LEND_COUNTS, [])] s t ∧ Grew F.BPM_POOL_FAILS_EMPTY [p] 1 s t ∧ Answered w St.poolEmpty noHandle t) ∧
    (may → k.waiting.length < free → (k.cache = [] ∨ k.waiting ≠ []) → ∃ t, exec (.bpmAllocate w p) s = .next t ∧
      Only [.pools, .reads, .fns, .regs] s t ∧ RegsOnly [(.MEM_LEND_COUNTS, [])] s t ∧ OtherPools p s t ∧
      (poolOf p t).waiting = k.waiting ++ [w] ∧ (poolOf p t).cache = k.cache) ∧
    (∀ h l v, may → 0 < free → k.waiting = [] → k.cache = h :: l →
      wr (bpmWho p (bpmUnit w) s) (ownerBase p s + h) [BitVec.ofNat 8 (0x80 + ownerCode w)] (Quiet s) = .ok v →
      ∃ t, exec (.bpmAllocate w p) s = .next t ∧ t.mem = v.mem ∧ Answered w St.ok (mkHandle p h) t ∧ OtherPools p s t ∧
        (poolOf p t).cache = l ∧ Fell F.BPM_POOL_STATE_FREE [p] 1 s t ∧ Grew F.BPM_POOL_STATE_ALLOCATED [p] 1 s t ∧
        Grew F.BPM_POOL_ALLOCS_ALLOCS [p] 1 s t ∧
        (s.mem.errs = [] → RegsOnly [(.BPM_POOL_STATE, [p]), (.BPM_POOL_ALLOCS, [p]), (.MEM_LEND_COUNTS, [])] s t) ∧
        ((poolOf p t).refill = true ↔ k.refill = true ∨ (l.length < 16 ∧ 0 < k.ringLen)))) ∧
  (∀ (w : BpmClient) (h : BitVec 32) (u : Nat) (s : State),
    let p := handlePool h
    (¬ (poolEnabled p s = true ∧ mayUsePool w p s = true ∧ handleIdx h < poolCount p s) → ownCheck w h u s = .ok St.notPermitted) ∧
    (poolEnabled p s = true → mayUsePool w p s = true → handleIdx h < poolCount p s →
      ∀ bs, rdSoft (bpmWho p u s) (ownerBase p s + handleIdx h) 1 s = .ok (bs, 0) →
        ownCheck w h u s = .ok (if leNat bs = 0x80 + ownerCode w then 0 else St.ownerFault))) ∧
  (∀ (w : BpmClient) (h : BitVec 32) (s : State), bpmClientOk w s = true → (poolOf (handlePool h) s).pend = none →
    let p := handlePool h
    let u := bpmUnit w
    let k := poolOf p s
    (ownCheck w h u (Quiet s) = .ok 0 → k.waiting = [] → k.cache.length < 48 → ∀ v, setOwner h (ownerCode w) u (Quiet s) = .ok v →
      ∃ t, exec (.bpmFree w h) s = .next t ∧ t.mem = v.mem ∧ Answered w St.ok noHandle t ∧ OtherPools p s t ∧
        (poolOf p t).cache = k.cache ++ [handleIdx h] ∧ Grew F.BPM_POOL_STATE_FREE [p] 1 s t ∧
        Fell F.BPM_POOL_STATE_ALLOCATED [p] 1 s t ∧ Grew F.BPM_POOL_FREES_FREES [p] 1 s t ∧
        RegsOnly [(.BPM_POOL_STATE, [p]), (.BPM_POOL_FREES, [p]), (.MEM_LEND_COUNTS, [])] s t) ∧
    (∀ st, ownCheck w h u (Quiet s) = .ok st → st ≠ 0 → ∃ t, exec (.bpmFree w h) s = .next t ∧ Answered w st noHandle t ∧
      PoolKept p s t ∧ t.pools = s.pools ∧ (getF F.BPM_FAULT_VALID [] s = 0 → getF F.BPM_FAULT_VALID [] t = 1 ∧
        getF F.BPM_FAULT_STATUS [] t = st % 256 ∧ getF F.BPM_FAULT_HANDLE [] t = h.toNat) ∧
      (st = St.ownerFault → Grew F.BPM_POOL_FAILS_OWNER [p] 1 s t)) ∧
    (∀ o v, ownCheck w h u (Quiet s) = .ok 0 → o < 256 → ownerValid o = true → setOwner h (0x80 + o) u (Quiet s) = .ok v →
      ∃ t, exec (.bpmHandOff w h o) s = .next t ∧ t.mem = v.mem ∧ Answered w St.ok noHandle t ∧ PoolKept p s t ∧
        t.pools = s.pools ∧ RegsOnly [(.MEM_LEND_COUNTS, [])] s t) ∧
    (∀ o st, o < 256 → (ownCheck w h u (Quiet s) = .ok 0 ∧ ownerValid o = false ∧ st = St.notPermitted ∨
        ownCheck w h u (Quiet s) = .ok st ∧ st ≠ 0) →
      ∃ t, exec (.bpmHandOff w h o) s = .next t ∧ Answered w st noHandle t ∧ PoolKept p s t ∧ t.pools = s.pools)) ∧
  (∀ (p : Nat) (s : State), p < 64 →
    let k := poolOf p s
    let n := min 32 k.ringLen
    let head := (k.ringHead + n) % poolCount p s
    let taken := (List.range n).map (fun i => (k.ringHead + i) % poolCount p s)
    (k.refill = false → exec (.bpmRefill p) s = .next (Quiet s)) ∧
    (∀ l, k.refill = true → k.waiting = [] → k.pend = none → ringWords p 546 (Quiet s) taken = .ok (l.map some) →
      let all := k.cache ++ l
      (all.length ≤ 48 →
        ∃ t, exec (.bpmRefill p) s = .next t ∧ Only [.pools, .reads, .regs] s t ∧ RegsOnly [(.MEM_LEND_COUNTS, [])] s t ∧
          OtherPools p s t ∧ (poolOf p t).cache = all ∧ (poolOf p t).ringLen = k.ringLen - n ∧ (poolOf p t).ringHead = head ∧
          ((poolOf p t).refill = true ↔ all.length < 16 ∧ n < k.ringLen)) ∧
      (48 < all.length →
        ∀ v, writeRing p 546 32 (head + (k.ringLen - n)) (all.drop (all.length - 32)) (Quiet s) = .ok (true, v) →
        ∃ t, exec (.bpmRefill p) s = .next t ∧ t.mem = v.mem ∧ OtherPools p s t ∧
          (poolOf p t).cache = all.take (all.length - 32) ∧ (poolOf p t).ringLen = k.ringLen - n + 32 ∧ (poolOf p t).ringHead = head)) ∧
    (∀ ws, k.refill = true → k.waiting = [] → k.pend = none → ringWords p 546 (Quiet s) taken = .ok ws → none ∈ ws →
      let got := ws.filterMap id
      (k.cache ++ got).length ≤ 48 →
      ∃ t, exec (.bpmRefill p) s = .next t ∧ (poolOf p t).cache = k.cache ++ got ∧
        getF F.BPM_POOL_CFG_FAULTED [p] t = 1 ∧ Grew F.BPM_POOL_LOST_LOST [p] (ws.length - got.length) s t ∧
        (getF F.BPM_POOL_STATE_FREE [p] s < 2 ^ 26 → Fell F.BPM_POOL_STATE_FREE [p] (ws.length - got.length) s t))) ∧
  (∀ (fn : Requester) (p : Nat) (s : State), p < 64 → fnAllowed fn (regOff .BPM_POOL_CFG [p]) s = true →
    let k := poolOf p s
    let allocated := getF F.BPM_POOL_STATE_ALLOCATED [p] s
    (poolBusy p s = true → exec (.poolEnable fn p) s = .next (Quiet s)) ∧
    (poolBusy p s = false → poolChecks p s = false → ∃ t, exec (.poolEnable fn p) s = .next t ∧ poolEnabled p t = false ∧
      poolOf p t = {} ∧ OtherPools p s t) ∧
    (poolBusy p s = false → poolChecks p s = true → ∃ t, exec (.poolEnable fn p) s = .next t ∧ Only [.pools, .regs, .latch] s t ∧
      poolOf p t = { init := true } ∧ OtherPools p s t ∧ getR .BPM_POOL_STATE [p] t = 0 ∧ getR .BPM_POOL_ALLOCS [p] t = 0 ∧
      getR .BPM_POOL_FREES [p] t = 0 ∧ getR .BPM_POOL_FAILS [p] t = 0 ∧ getR .BPM_POOL_LOST [p] t = 0) ∧
    (k.init = false → poolEnabled p s = false → exec (.poolDisable fn p) s = .next (Quiet s) ∧ exec (.poolReclaim fn p) s = .next (Quiet s)) ∧
    (k.init = false → poolEnabled p s = true → k.waiting = [] → k.pend = none →
      (allocated = 0 → ∃ t, exec (.poolDisable fn p) s = .next t ∧ Only [.pools, .regs] s t ∧ poolEnabled p t = false ∧
        poolOf p t = {} ∧ OtherPools p s t ∧ RegsOnly [(.BPM_POOL_CFG, [p])] s t) ∧
      (0 < allocated → ∃ t, exec (.poolDisable fn p) s = .next t ∧ Only [.pools] s t ∧ ∀ q, poolOf q t = poolOf q s) ∧
      ∃ t, exec (.poolReclaim fn p) s = .next t ∧ Only [.pools, .regs] s t ∧ poolEnabled p t = false ∧ poolOf p t = {} ∧
        getF F.BPM_POOL_STATE_ALLOCATED [p] t = 0 ∧ Grew F.BPM_POOL_FREES_FREES [p] allocated s t ∧
        Grew F.BPM_POOL_STATE_FREE [p] (allocated + getF F.BPM_POOL_LOST_LOST [p] s) s t ∧
        getF F.BPM_POOL_LOST_LOST [p] t = 0 ∧ getF F.BPM_POOL_CFG_FAULTED [p] t = 0)) ∧
  (∀ (p : Nat) (s : State), p < 64 →
    ((poolOf p s).init = false → exec (.poolInitComplete p) s = .next (Quiet s)) ∧
    (let usable := fun (t : State) => poolEnabled p t = true ∧ getF F.BPM_POOL_STATE_FREE [p] t = poolCount p s ∧
        (poolOf p t).ringLen = poolCount p s ∧ (poolOf p t).cache = [] ∧ (poolOf p t).init = false ∧ OtherPools p s t
    ((poolOf p s).init = true → (poolOf p s).initSent = true →
      (ringWritesOut p s = true → exec (.poolInitComplete p) s = .next (Quiet s)) ∧
      (ringWritesOut p s = false → ∃ t, exec (.poolInitComplete p) s = .next t ∧ t.mem = s.mem ∧ usable t)) ∧
    ((poolOf p s).init = true → (poolOf p s).initSent = false →
      (poolChecks p s = false → ∃ t, exec (.poolInitComplete p) s = .next t ∧ poolEnabled p t = false ∧ poolOf p t = {} ∧
        OtherPools p s t) ∧
      (poolChecks p s = true → ∀ v, writeRingTable p (Quiet s) = .ok v → ∃ t, exec (.poolInitComplete p) s = .next t ∧
        t.mem = v.mem ∧ (ringWritesOut p v = false → usable t) ∧
        (ringWritesOut p v = true → poolEnabled p t = poolEnabled p s ∧ (poolOf p t).initSent = true ∧ OtherPools p s t)))))

/-! ## Audit -/

/-- A status word of a function: its STATUS byte and BUSY as given, every other bit as before (R421, R457). -/
def FnStatus (old new : Word) (status : Nat) (busy : Bool) : Prop :=
  bits 15 8 new = status ∧ new.getLsbD 0 = busy ∧ bits 63 16 new = bits 63 16 old ∧ bits 7 1 new = bits 7 1 old

/-- Nothing of the functions has changed but the seal status of `f`. -/
def SealStatusOnly (f : Requester) (s t : State) : Prop :=
  tget ({} : Fn) t.fns (fnIdx f) = { tget ({} : Fn) s.fns (fnIdx f) with sealStatus := sealStatus f t } ∧
  ∀ i, i ≠ fnIdx f → tget ({} : Fn) t.fns i = tget ({} : Fn) s.fns i

/-- The lock-step of every rope but `r` is as before. -/
def OtherLs (r : Nat) (s t : State) : Prop := ∀ o, o ≠ r → lsOf o t = lsOf o s

/-- The record that word `i` of the inbox completes with `v` (R427). -/
def inboxRecord (r i : Nat) (v : Word) (s : State) : List Byte :=
  (List.range 32).flatMap (fun j => natLe 8 (if j = i then v else (tget none (lsOf r s).inbox j).getD 0).toNat)

/-- The boundary `b` that a checkpoint holds may apply: it waits for the rope's RTE instructions, and where it waits for nothing it
has applied (R404, R430). -/
def BoundaryFreed (r : Nat) (b : Boundary) (armed : Bool) (s t : State) : Prop :=
  (rteBusy r s = true → lsArmed r t = armed ∧ (ropeOf r t).boundary = some { b with agreed := true } ∧ t.mem = s.mem ∧ t.cores = s.cores) ∧
  (rteBusy r s = false → (ropeState r s = RopeSt.running ∨ ropeState r s = RopeSt.suspended) → NoCommitPending s →
    getF F.MEM_PF_CTRL_PENDING [r] s = 0 → b.composer = false → b.compose0 = false →
    getF F.CMD_ROPE_STATE_STEP [r] t = (getF F.CMD_ROPE_STATE_STEP [r] s + 1) % 65536 ∧
    Grew F.AUD_LS_STATUS_CHECKPOINT [r] 1 s t ∧ lsArmed r t = armed ∧ lsState r t = (if armed then Ls.running else Ls.off) ∧
    (ropeOf r t).boundary = (if b.marks.drop 1 = [] then none else some { marks := b.marks.drop 1 }) ∧ (lsOf r t).own = none ∧
    (lsOf r t).peer = none)

/-- Seals (R418 to R423): completes SEAL_REQUEST, SEAL_RUN, SEAL_COMPLETE. -/
def Obligations.SealsAreDigestedAndSigned : Prop :=
  (∀ (fn : Requester) (addr : BitVec 64) (s : State), fnAllowed fn (regOff .AUD_SEAL_REQ []) s = true →
    let a := addr.toNat / 64 * 64
    let d := hostBytes s a 128
    let old := sealStatus fn s
    let answers := fun (status : Nat) (busy : Bool) => ∃ t, exec (.sealRequest fn addr) s = .next t ∧ Only [.fns] s t ∧
      SealStatusOnly fn s t ∧ FnStatus old (sealStatus fn t) status busy
    (old.getLsbD 0 = true → answers St.notPermitted true) ∧
    (old.getLsbD 0 = false → sealPoison a s = true → answers St.poison false) ∧
    (old.getLsbD 0 = false → sealPoison a s = false → sealOk fn d s = false → answers St.notPermitted false) ∧
    (old.getLsbD 0 = false → sealPoison a s = false → sealOk fn d s = true → ∃ t, exec (.sealRequest fn addr) s = .next t ∧
      Only [.fns, .seals] s t ∧ SealStatusOnly fn s t ∧ FnStatus old (sealStatus fn t) (bits 15 8 old) true ∧
      t.seals = s.seals ++ [⟨fn, d⟩])) ∧
  (∀ (s : State), s.sealing.isSome = true ∨ s.seals = [] → exec .sealRun s = .next (Quiet s)) ∧
  (∀ (q : SealReq) (l : List SealReq) (s : State), s.sealing = none → s.seals = q :: l →
    let r := fieldAt q.desc 0 1
    (ropeState r s = RopeSt.none → ∃ t, exec .sealRun s = .next t ∧ Only [.seals, .sealing] s t ∧ t.seals = l ∧
      t.sealing = some ⟨q, [], some St.cancelled⟩) ∧
    (∀ ds n, ropeState r s ≠ RopeSt.none → sealDigests r q.desc (Quiet s) [0, 1, 2, 3] = .ok (ds, n, none) →
      ∃ t, exec .sealRun s = .next t ∧ Only [.seals, .sealing, .regs, .reads] s t ∧ t.seals = l ∧ t.sealing = some ⟨q, ds, none⟩ ∧
        RegsOnly [(.AUD_BYTES, []), (.MEM_LEND_COUNTS, []), (.BC_STATE, [])] s t ∧ Grew F.AUD_BYTES_BYTES [] n s t ∧
        deviceState t = if deviceState s = Dv.idle ∨ deviceState s = Dv.lender then Dv.active else deviceState s) ∧
    (∀ ds n off, ropeState r s ≠ RopeSt.none → sealDigests r q.desc (Quiet s) [0, 1, 2, 3] = .ok (ds, n, some off) →
      ∃ t, exec .sealRun s = .next t ∧ Only [.seals, .sealing, .regs, .reads, .mem, .pcie, .events] s t ∧ t.seals = l ∧
        t.sealing = some ⟨q, [], some St.poison⟩ ∧ Grew F.ERR_CLASS_COUNT_COUNT [3] 1 s t)) ∧
  (∀ (r n : Nat) (d : List Byte) (ds : List (Option (List Byte))) (s : State), sealDigests r d s [0, 1, 2, 3] = .ok (ds, n, none) →
    ds.length = 4 ∧ ∀ i, i < 4 →
      let o := sealObject d i
      ∃ ws, streamWords (auditWho r) s (extentsOf (hostBytes s o.1 (16 * o.2))) = .ok ws ∧ (∀ x ∈ ws, x.2 = false) ∧
        ds[i]? = some (if o.2 = 0 then none else some (treeDigest (wordBytes ws)))) ∧
  (∀ (bs : List Byte), bs.length ≤ 2 ^ 20 →
    treeDigest bs = sha3_512 (0x02 :: (natLe 8 bs.length ++ sha3_512 (0x00 :: bs)))) ∧
  (∀ (bs : List Byte), 2 ^ 20 < bs.length → bs.length ≤ 2 ^ 21 →
    treeDigest bs = sha3_512 (0x02 :: (natLe 8 bs.length ++
      sha3_512 (0x01 :: (sha3_512 (0x00 :: bs.take (2 ^ 20)) ++ sha3_512 (0x00 :: bs.drop (2 ^ 20))))))) ∧
  (∀ (s : State), s.sealing = none → exec .sealComplete s = .next (Quiet s)) ∧
  (∀ (k : SealRun) (st : Nat) (s : State), s.sealing = some k → k.ended = some st → ∃ t, exec .sealComplete s = .next t ∧
    Only [.fns, .sealing] s t ∧ t.sealing = none ∧ SealStatusOnly k.req.fn s t ∧
    FnStatus (sealStatus k.req.fn s) (sealStatus k.req.fn t) (st % 256) false) ∧
  (∀ (k : SealRun) (s : State), s.sealing = some k → k.ended = none → (∀ (i : Nat) (x : List Byte), k.digests[i]? = some (some x) → x.length = 64) →
    let d := k.req.desc
    let r := fieldAt d 0 1
    let seq := getF F.AUD_CAIRN_SEQ_SEQ [] s
    ∃ bs t, exec .sealComplete s = .next t ∧ Only [.mem, .regs, .fns, .sealing] s t ∧ t.sealing = none ∧
      RegsOnly [(.AUD_CAIRN_SEQ, [])] s t ∧ Grew F.AUD_CAIRN_SEQ_SEQ [] 1 s t ∧ SealStatusOnly k.req.fn s t ∧
      bits 15 8 (sealStatus k.req.fn t) = St.ok ∧ (sealStatus k.req.fn t).getLsbD 0 = false ∧
      bits 63 16 (sealStatus k.req.fn t) = seq % 2 ^ 48 ∧ StoredAt (hostPlace (fieldAt d 8 8)) bs s t ∧
      fieldAt bs 0 2 = 1 ∧ fieldAt bs 3 1 = r ∧ fieldAt bs 4 2 = ropeJob r s ∧ fieldAt bs 6 2 = getF F.CMD_ROPE_STATE_STEP [r] s ∧
      fieldAt bs 8 8 = seq ∧ fieldAt bs 16 8 = (timeNow s).toNat ∧ fieldAt bs 24 2 = (ownAddr s).toNat ∧
      (bs.drop 32).take 64 = keyHash s ∧ (bs.drop 96).take 64 = sha3_512 s.bc.cfgRecord ∧
      fieldAt bs 160 8 = (getR .CMD_ROPE_CLUSTERS [r] s).toNat ∧ fieldAt bs 232 8 = (ropeOf r s).seed.toNat ∧
      fieldAt bs 240 8 = (ropeOf r s).nctrl.toNat ∧
      (∀ i, i < 4 → (bs.drop (256 + 64 * i)).take 64 = (k.digests.getD i none).getD (List.replicate 64 0) ∧
        (fieldAt d 1 1 < 2 → (fieldAt bs 2 1).testBit (i + 2) = (k.digests.getD i none).isSome)) ∧
      (fieldAt d 1 1 ≠ 1 → bs.length = 512) ∧
      (fieldAt d 1 1 = 1 →
        let sig := Config.mldsaSign (attSeed s) (ascii "DV1-cairn") (bs.take 512)
        (bs.drop 512).take sig.length = sig))

/-- Lock-step (R424 to R430): completes LOCKSTEP_ARM, LOCKSTEP_DISARM, LOCKSTEP_RELEASE, CHECKPOINT_DIGEST_DONE,
LOCKSTEP_INBOX_WRITE. -/
def Obligations.LockStepComparesCheckpoints : Prop :=
  (∀ (fn : Requester) (r : Nat) (s : State), r < 16 → fnAllowed fn (regOff .AUD_LS_CTRL [r]) s = true →
    let held := (ropeOf r s).boundary
    (lsArmed r s = true → exec (.lockstepArm fn r) s = .next (Quiet s)) ∧
    (∀ bs, lsArmed r s = false → lsExtents r (Quiet s) = .ok bs →
      (lsConditions r bs (Quiet s) = false → ∃ t, exec (.lockstepArm fn r) s = .next t ∧ Only [.regs, .reads] s t ∧
        RegsOnly [(.AUD_LS_STATUS, [r]), (.MEM_LEND_COUNTS, [])] s t ∧ getF F.AUD_LS_STATUS_STATUS [r] t = St.notPermitted ∧ lsState r t = lsState r s) ∧
      (lsConditions r bs (Quiet s) = true → ∃ t, exec (.lockstepArm fn r) s = .next t ∧
        Only [.regs, .reads, .lockstep] s t ∧ RegsOnly [(.AUD_LS_CTRL, [r]), (.AUD_LS_STATUS, [r]), (.MEM_LEND_COUNTS, [])] s t ∧ lsArmed r t = true ∧
        lsState r t = Ls.running ∧ getF F.AUD_LS_STATUS_STATUS [r] t = 0 ∧ getF F.AUD_LS_STATUS_OUT_COUNT [r] t = 0 ∧
        getF F.AUD_LS_STATUS_DISCARDS [r] t = 0 ∧ getF F.AUD_LS_STATUS_CHECKPOINT [r] t = 0 ∧
        getF F.AUD_LS_CTRL_EVERY [r] t = getF F.AUD_LS_CTRL_EVERY [r] s ∧ lsOf r t = { inbox := (lsOf r s).inbox, part := (lsOf r s).part } ∧ OtherLs r s t)) ∧
    (lsArmed r s = false → exec (.lockstepDisarm fn r) s = .next (Quiet s)) ∧
    (lsArmed r s = true → (∀ b, held = some b → b.held = false) → ∃ t, exec (.lockstepDisarm fn r) s = .next t ∧ Only [.regs] s t ∧
      RegsOnly [(.AUD_LS_CTRL, [r]), (.AUD_LS_STATUS, [r])] s t ∧ lsArmed r t = false ∧ lsState r t = Ls.off) ∧
    (∀ b, lsArmed r s = true → held = some b → b.held = true → ∃ t, exec (.lockstepDisarm fn r) s = .next t ∧
      BoundaryFreed r b false s t) ∧
    (lsState r s ≠ Ls.frozen → lsState r s ≠ Ls.bisecting → exec (.lockstepRelease fn r) s = .next (Quiet s)) ∧
    (∀ b, (lsState r s = Ls.frozen ∨ lsState r s = Ls.bisecting) → held = some b → b.held = true →
      ∃ t, exec (.lockstepRelease fn r) s = .next t ∧ BoundaryFreed r b (lsArmed r s) s t)) ∧
  (∀ (r : Nat) (s : State), r < 16 → lsState r s ≠ Ls.digesting → exec (.checkpointDigestDone r) s = .next (Quiet s)) ∧
  (∀ (r : Nat) (bs : List Byte) (ws : Words) (s : State), r < 16 → lsState r s = Ls.digesting → lsExtents r (Quiet s) = .ok bs →
    streamWords (auditWho r) (Quiet s) (extentsOf bs) = .ok ws →
    let n := streamLen (extentsOf bs)
    let k := lsOf r s
    (∀ off, poisonAt ws = some off → ∃ t, exec (.checkpointDigestDone r) s = .next t ∧
      Only [.regs, .reads, .mem, .pcie, .events] s t ∧ lsState r t = Ls.frozen ∧ getF F.AUD_LS_STATUS_STATUS [r] t = St.poison ∧
      Grew F.ERR_CLASS_COUNT_COUNT [3] 1 s t) ∧
    (∀ v, poisonAt ws = none → k.peer = none →
      tryWr (auditWho r) (getF F.AUD_LS_TREE_TREE [r] s) (freeBytes (128 * leafCount n) (Quiet s)).1 false
        (freeBytes (128 * leafCount n) (Quiet s)).2 = .ok v →
      ∃ rec t, exec (.checkpointDigestDone r) s = .next t ∧ lsState r t = Ls.waiting ∧ ropeOf r t = ropeOf r v ∧
        hostBytes t (getF F.AUD_LS_OUTBOX_ADDR [r] s * 4096 + k.outTotal % 16 * 256) 256 = rec ∧ rec.length = 256 ∧
        fieldAt rec 0 4 = 1 ∧ fieldAt rec 4 4 = getF F.AUD_LS_STATUS_CHECKPOINT [r] s ∧
        fieldAt rec 8 2 = getF F.CMD_ROPE_STATE_STEP [r] s ∧ fieldAt rec 16 8 = n % 2 ^ 64 ∧
        (rec.drop 64).take 64 = treeRoot n (streamTree (wordBytes ws)) ∧ (rec.drop 128).take 64 = sha3_512 (conditionsBlock r s) ∧
        lsOf r t = { k with own := some rec, tree := streamTree (wordBytes ws), outTotal := k.outTotal + 1 } ∧ OtherLs r s t ∧
        Grew F.AUD_LS_STATUS_OUT_COUNT [r] 1 s t ∧ Grew F.AUD_BYTES_BYTES [] n s t)) ∧
  (∀ (fn : Requester) (r i j : Nat) (v : Word) (s : State), r < 16 → i < 32 → fnAllowed fn (regOff .AUD_LS_INBOX [r, i]) s = true →
    j < 32 → j ≠ i → tget none (lsOf r s).inbox j = none →
    ∃ t, exec (.lockstepInboxWrite fn r i v) s = .next t ∧ Only [.lockstep] s t ∧ OtherLs r s t ∧
      lsOf r t = { lsOf r s with inbox := (lsOf r t).inbox, part := (lsOf r t).part } ∧
      ∀ x, tget none (lsOf r t).inbox x = (if x = i then some v else tget none (lsOf r s).inbox x) ∧
        tget (0, 0) (lsOf r t).part x = if x = i then (0, 0) else tget (0, 0) (lsOf r s).part x) ∧
  (∀ (fn : Requester) (r i : Nat) (v : Word) (s : State), r < 16 → i < 32 → fnAllowed fn (regOff .AUD_LS_INBOX [r, i]) s = true →
    (∀ j, j < 32 → j ≠ i → tget none (lsOf r s).inbox j ≠ none) →
    let k := lsOf r s
    let msg := inboxRecord r i v s
    let current := getF F.AUD_LS_STATUS_CHECKPOINT [r] s
    let run := fun (P : State → Prop) => ∃ t, exec (.lockstepInboxWrite fn r i v) s = .next t ∧ (lsOf r t).inbox = [] ∧ (lsOf r t).part = [] ∧
      OtherLs r s t ∧ P t
    let fresh := lsArmed r s = true ∧ fieldAt msg 0 1 = 1 ∧ fieldAt msg 4 4 = current ∧ k.peer = none ∧
      (lsState r s = Ls.running ∨ lsState r s = Ls.digesting ∨ lsState r s = Ls.waiting)
    (lsArmed r s = false ∨ (fieldAt msg 0 1 = 1 ∧ fieldAt msg 4 4 ≠ current) ∨
        (fieldAt msg 0 1 = 2 ∧ lsState r s ≠ Ls.bisecting) ∨ fieldAt msg 0 1 ∉ [1, 2] →
      run (fun t => Only [.lockstep, .regs, .reads] s t ∧ RegsOnly [(.AUD_LS_STATUS, [r]), (.MEM_LEND_COUNTS, [])] s t ∧ lsState r t = lsState r s ∧
        getF F.AUD_LS_STATUS_DISCARDS [r] t = min 255 (getF F.AUD_LS_STATUS_DISCARDS [r] s + 1))) ∧
    (fresh → k.own = none → run (fun t => Only [.lockstep, .reads, .regs] s t ∧ RegsOnly [(.MEM_LEND_COUNTS, [])] s t ∧
      lsOf r t = { k with inbox := [], part := [], peer := some msg })) ∧
    (∀ own, fresh → k.own = some own →
      let cut := fun (l : List Byte) (o n : Nat) => (l.drop o).take n
      let conditions := cut own 128 64 = cut msg 128 64
      let digests := cut own 64 64 = cut msg 64 64 ∧ cut own 16 8 = cut msg 16 8
      (¬ conditions → run (fun t => lsState r t = Ls.frozen ∧ getF F.AUD_LS_STATUS_STATUS [r] t = St.notPermitted ∧
        ropeOf r t = ropeOf r s ∧ Grew F.ERR_CLASS_COUNT_COUNT [3] 1 s t)) ∧
      (∀ b, conditions → digests → (ropeOf r s).boundary = some b → b.held = true →
        ∃ t, exec (.lockstepInboxWrite fn r i v) s = .next t ∧ BoundaryFreed r b (lsArmed r s) s t) ∧
      (∀ bs, conditions → ¬ digests → lsExtents r (Quiet s) = .ok bs → fieldAt own 16 8 ≤ fieldAt msg 16 8 → 1 < k.tree.length →
        s.mem.poison = [] → (∀ l ∈ k.tree, ∀ x ∈ l, x.length = 64) → k.tree.getD (k.tree.length - 2) [] ≠ [] →
        (∀ p, tierEntry r p s = 0) →
        run (fun t => lsState r t = Ls.bisecting ∧ getF F.AUD_LS_STATUS_STATUS [r] t = St.digestMismatch ∧ (lsOf r t).round = 0 ∧
          (lsOf r t).start = 0 ∧ (lsOf r t).len = fieldAt own 16 8 ∧ (lsOf r t).index = 0 ∧
          (lsOf r t).level = k.tree.length - 1 ∧ ∃ probe, (lsOf r t).probe = some probe ∧ fieldAt probe 0 1 = 2 ∧
          hostBytes t (getF F.AUD_LS_OUTBOX_ADDR [r] s * 4096 + k.outTotal % 16 * 256) 256 = probe ∧
          some ((probe.drop 64).take 64) = (k.tree.getD (k.tree.length - 2) []).head? ∧
          ropeOf r t = ropeOf r s))))

/-! ## Power, removal, boot and management -/

/-- Nothing is left outside the basecamp domain (R431, R474): no rope, core, queue, table or pool, and every byte of device memory and
of the stores is 0 and good. -/
def Unpowered (t : State) : Prop :=
  t.cores = [] ∧ t.ropes = [] ∧ t.rtes = [] ∧ t.xes = [] ∧ t.switch = {} ∧ t.chans = [] ∧ t.queues = [] ∧ t.instrCmds = [] ∧
  t.tables = {} ∧ t.pools = [] ∧ t.belays = [] ∧ t.pf = [] ∧ t.sched = [] ∧ t.reads = [] ∧ t.heldSigs = [] ∧ t.seals = [] ∧
  t.sealing = none ∧ t.lockstep = [] ∧ t.writes = [] ∧ t.mem.errs = [] ∧
  ∀ p, p < 2 ^ 46 → t.mem.byte p = 0 ∧ t.mem.poisoned p = false

/-- Flash is as before (R431). -/
def FlashKept (s t : State) : Prop :=
  ∀ p, 2 ^ 46 ≤ p → p < 2 ^ 64 → t.mem.byte p = s.mem.byte p ∧ t.mem.poisoned p = s.mem.poisoned p

/-- The cluster registers of the basecamp. -/
def clusterRegs : List (Reg × List Nat) := (List.range 64).map (fun q => (.BC_CLUSTER, [q]))

/-- Every register but those named reads as `keptReg` says: as before, the ledgers with every record in flight counted as cancelled
(R93), or its reset value (R474). -/
def RegsLost (l : List (Reg × List Nat)) (s t : State) : Prop :=
  ∀ r ix, regOff r ix ∉ l.map (fun e => regOff e.1 e.2) →
    getR r ix t = if keptReg (regOff r ix) then getR r ix (cancelRecords s) else regReset r ix

/-- Power has just come (R445, R474): STANDBY with BOOT, every register at its reset value; flash, the slots' contents and the input
contacts as they were. -/
def PoweredOn (dimms : List (Option Dimm)) (pins : Pins) (s t : State) : Prop :=
  Unpowered t ∧ (∀ r ix, getR r ix t = regReset r ix) ∧
  t.bc = { stage := 1, dimms := dimms, cache := s.bc.cache, imgCounter := s.bc.imgCounter, cfgCounter := s.bc.cfgCounter, prefImg := s.bc.prefImg,
           prefCfg := s.bc.prefCfg, managers := s.bc.managers } ∧
  t.pins = { perst := pins.perst, pwrDis := pins.pwrDis, flashExt := pins.flashExt } ∧
  ∀ p, 2 ^ 46 ≤ p → p < 2 ^ 66 → t.mem.byte p = s.mem.byte p ∧ t.mem.poisoned p = s.mem.poisoned p

/-- Power is gone (R444): the device is OFF, and only flash, the slots' contents and the contacts are kept. -/
def PowerLost (pwrDis : Bool) (s t : State) : Prop :=
  Unpowered t ∧ FlashKept s t ∧ deviceState t = Dv.off ∧
  (∀ r ix, regOff r ix ≠ regOff .BC_STATE [] → getR r ix t = regReset r ix) ∧
  t.bc = { stage := 0, dimms := s.bc.dimms, cache := s.bc.cache, imgCounter := s.bc.imgCounter, cfgCounter := s.bc.cfgCounter,
           prefImg := s.bc.prefImg, prefCfg := s.bc.prefCfg, managers := s.bc.managers } ∧ t.pins.pwrDis = pwrDis ∧ t.pcie = {} ∧ t.msgs = {} ∧ t.ports = []

/-- Each cluster's step is the larger of the power step `p` and the thermal step of its die (R439). -/
def ClusterSteps (p : Nat) (t : State) : Prop :=
  ∀ q, q < 64 → getF F.BC_CLUSTER_STEP [q] t = max p (tget 0 t.bc.thermal (q / 8)) % 16 ∧
    (getF F.BC_CLUSTER_THERMAL [q] t = 1 ↔ p < tget 0 t.bc.thermal (q / 8))

/-- Power (R431 to R447, R493): completes DEVICE_WAKE_ACTIVE, DEVICE_IDLE_TIMEOUT, STANDBY_ENTER, STANDBY_EXIT, HOLD_RELEASE,
CLUSTER_IDLE_TIMEOUT, POWER_SAMPLE, POWER_DECISION, THERMAL_SAMPLE, HOT_SWAP_OPEN, INPUT_LOSS, INSERTION, INPUT_RESTORED, PWR_DIS_ASSERT,
PWR_DIS_DEASSERT, ORDERLY_REMOVAL, HOTPLUG_ATTENTION_REQUEST, REMOVAL_COMPLETE. -/
def Obligations.PowerStatesFollowTheRules : Prop :=
  (∀ (s : State),
    let st := deviceState s
    let idle := (st = Dv.active ∨ st = Dv.lender) ∧ clustersAwake s = false ∧ enginesBusy s = false
    let becomes := fun (i : Instr) (v : Nat) => ∃ t, exec i s = .next t ∧ Only [.regs] s t ∧ RegsOnly [(.BC_STATE, [])] s t ∧
      deviceState t = v ∧ getF F.BC_STATE_BOOT [] t = getF F.BC_STATE_BOOT [] s
    ((st = Dv.idle ∨ st = Dv.lender) → becomes .deviceWakeActive Dv.active) ∧
    (st ≠ Dv.idle → st ≠ Dv.lender → exec .deviceWakeActive s = .next (Quiet s)) ∧
    (idle → becomes .deviceIdleTimeout (if windowsOpen s then Dv.lender else Dv.idle)) ∧
    (¬ idle → exec .deviceIdleTimeout s = .next (Quiet s))) ∧
  (∀ (fn : Requester) (s : State), fnAllowed fn (regOff .BC_CTRL []) s = true →
    (deviceState s ≤ Dv.standby → exec (.standbyEnter fn) s = .next (setF F.BC_CTRL_STANDBY [] 1 (Quiet s))) ∧
    (Dv.standby < deviceState s → existing s = [] → windowsOpen s = false →
      ∃ t, exec (.standbyEnter fn) s = .next t ∧ deviceState t = Dv.standby ∧ getF F.BC_CTRL_STANDBY [] t = 1 ∧ Unpowered t ∧
        (∀ p, 2 ^ 46 ≤ p → p < 2 ^ 66 → t.mem.byte p = s.mem.byte p ∧ t.mem.poisoned p = s.mem.poisoned p) ∧
        RegsLost ([(.BC_CTRL, []), (.BC_STATE, [])] ++ clusterRegs) s t ∧ (∀ q, q < 64 → clusterState q t = Cl.gated) ∧
        t.bc = { s.bc with trained := [], full := [], ddrReady := false, handshake := [] } ∧ t.pcie = s.pcie ∧ t.events = s.events ∧
        t.pins = { s.pins with flashOut := s.pins.flashOut || s.pins.flashExt } ∧
        ∀ i, tget ({} : Fn) t.fns i = { quoteStatus := (tget ({} : Fn) s.fns i).quoteStatus }) ∧
    (Dv.standby < deviceState s → (existing s ≠ [] ∨ windowsOpen s = true) → ∃ t, exec (.standbyEnter fn) s = .next t ∧
      Only [.regs] s t ∧ RegsOnly [(.BC_STATE, []), (.BC_CTRL, [])] s t ∧ getF F.BC_STATE_REFUSED [] t = St.notPermitted ∧
      getF F.BC_CTRL_STANDBY [] t = 1 ∧ deviceState t = deviceState s) ∧
    (let wakes := deviceState s = Dv.standby ∧ s.bc.stage = 3 ∧ getF F.BC_STATE_BOOT [] s = 0 ∧ s.bc.removing = false ∧
       ∃ c, c < 24 ∧ accepted c s = true
     (wakes → ∃ t, exec (.standbyExit fn) s = .next t ∧ deviceState t = Dv.idle ∧ getF F.BC_CTRL_STANDBY [] t = 0 ∧
       getF F.BC_STATE_BOOT [] t = 0 ∧ t.bc.ddrReady = false ∧ t.cores = s.cores ∧ t.ropes = s.ropes ∧ t.tables = s.tables ∧
       ∀ n, n < 16 → portState n t = if getF F.LNK_CTRL_ENABLE [n] s = 1 ∧ portState n s = Ps.disabled ∧
         getF F.ID_ADDR_PARITY_OK [] s = 1 then Ps.training else portState n s) ∧
     (¬ wakes → ∃ t, exec (.standbyExit fn) s = .next t ∧ Only [.regs] s t ∧ RegsOnly [(.BC_CTRL, [])] s t ∧
       getF F.BC_CTRL_STANDBY [] t = 0)) ∧
    (let goes := s.bc.stage = 3 ∧ getF F.BC_STATE_BOOT [] s = 1 ∧ channelsLeft s = true
     (goes → ∃ t, exec (.holdRelease fn) s = .next t ∧ Only [.regs, .ports, .bc] s t ∧ getF F.BC_CTRL_HOLD [] t = 0 ∧
       deviceState t = Dv.idle ∧ getF F.BC_STATE_BOOT [] t = 0 ∧
       t.bc.imgCounter.toNat = max s.bc.imgCounter.toNat (fieldAt s.bc.imgHeader 8 4) ∧
       t.bc.cfgCounter.toNat = max s.bc.cfgCounter.toNat (fieldAt s.bc.cfgRecord 8 4) ∧
       getF F.BC_BOOT_IMG_COUNTER [] t = t.bc.imgCounter.toNat ∧ getF F.BC_BOOT_CFG_COUNTER [] t = t.bc.cfgCounter.toNat % 65536) ∧
     (¬ goes → ∃ t, exec (.holdRelease fn) s = .next t ∧ Only [.regs] s t ∧ RegsOnly [(.BC_CTRL, [])] s t ∧
       getF F.BC_CTRL_HOLD [] t = 0 ∧ getF F.BC_CTRL_STANDBY [] t = getF F.BC_CTRL_STANDBY [] s)) ∧
    (s.bc.removing = true → exec (.orderlyRemoval fn) s = .next (Quiet s)) ∧
    (s.bc.removing = false → ∃ t, exec (.orderlyRemoval fn) s = .next t ∧ t.bc.removing = true ∧ Unpowered t ∧
      deviceState t = Dv.standby ∧ getR .ID_HOST_LINK [] t = 0)) ∧
  (∀ (s : State),
    (s.bc.removing = false → Dv.standby ≤ deviceState s → ∃ t, exec .hotplugAttentionRequest s = .next t ∧ t.bc.removing = true ∧
      Unpowered t ∧ deviceState t = Dv.standby ∧ getR .ID_HOST_LINK [] t = 0) ∧
    (s.bc.removing = true → ∃ t, exec .removalComplete s = .next t ∧ Only [.regs, .pins] s t ∧ RegsOnly [(.BC_STATE, [])] s t ∧
      getF F.BC_STATE_REMOVE_READY [] t = 1 ∧ t.pins = { s.pins with removeReady := true } ∧ deviceState t = deviceState s) ∧
    (s.bc.removing = false → exec .removalComplete s = .next (Quiet s))) ∧
  (∀ (q : Nat) (s : State), q < 64 →
    let rests := clusterState q s = Cl.running ∧ ∀ k, k < 8 → coreIdle (q * 8 + k) s = true
    (rests → ∃ t, exec (.clusterIdleTimeout q) s = .next t ∧ Only [.regs] s t ∧ RegsOnly [(.BC_CLUSTER, [q])] s t ∧
      clusterState q t = Cl.drowsy ∧ getF F.BC_CLUSTER_STEP [q] t = getF F.BC_CLUSTER_STEP [q] s) ∧
    (¬ rests → exec (.clusterIdleTimeout q) s = .next (Quiet s))) ∧
  (∀ (w pk mv : Nat) (s : State), s.bc.stage = 3 → w < 4096 → pk < 4096 → mv < 65536 →
    ∃ t, exec (.powerSample w pk mv) s = .next t ∧ Only [.regs, .bc] s t ∧ RegsOnly [(.BC_POWER, [])] s t ∧
      getF F.BC_POWER_MODULE_W [] t = w ∧ getF F.BC_POWER_PACKAGE_W [] t = pk ∧ getF F.BC_POWER_INPUT_MV [] t = mv ∧
      t.bc = { s.bc with samples := (w :: s.bc.samples).take 100 }) ∧
  (∀ (s : State), s.bc.stage = 3 →
    let lim := min 2500 (max 800 (getF F.BC_POWER_LIMIT_LIMIT_W [] s))
    let step := getF F.BC_THROTTLE_POWER_STEP [] s
    let cap := s.bc.powerCap
    let capped := fun (c : Nat) (t : State) => t.bc = { s.bc with powerCap := c } ∧
      getF F.BC_THROTTLE_DDR_CAP [] t = max c (max s.bc.memCap (if s.bc.dimmCap then 2 else 0)) % 4 ∧
      getF F.BC_THROTTLE_POWER_STEP [] t = step ∧ Only [.regs, .bc] s t ∧ RegsOnly [(.BC_THROTTLE, [])] s t
    let overLim := ∃ w, s.bc.samples.head? = some w ∧ lim < w
    let low := 100 ≤ s.bc.samples.length ∧ ∀ w ∈ s.bc.samples, 100 * w < 95 * lim
    (overLim → step < 9 → ∃ t, exec .powerDecision s = .next t ∧ getF F.BC_THROTTLE_POWER_STEP [] t = step + 1 ∧
      Grew F.BC_THROTTLE_EVENTS [] 1 s t ∧ ClusterSteps (step + 1) t ∧ t.bc = s.bc ∧
      (step ≠ 8 → Only [.regs] s t ∧ RegsOnly ((.BC_THROTTLE, []) :: clusterRegs) s t) ∧
      (step = 8 → Grew F.ERR_CLASS_COUNT_COUNT [2] 1 s t)) ∧
    (overLim → 9 ≤ step → cap < 3 → ∃ t, exec .powerDecision s = .next t ∧ capped (cap + 1) t ∧ Grew F.BC_THROTTLE_EVENTS [] 1 s t) ∧
    (overLim → 9 ≤ step → 3 ≤ cap → exec .powerDecision s = .next (Quiet s)) ∧
    (low → 0 < cap → ∃ t, exec .powerDecision s = .next t ∧ capped (cap - 1) t ∧
      getF F.BC_THROTTLE_EVENTS [] t = getF F.BC_THROTTLE_EVENTS [] s) ∧
    (low → cap = 0 → ∃ t, exec .powerDecision s = .next t ∧ getF F.BC_THROTTLE_POWER_STEP [] t = step - 1 ∧
      ClusterSteps (step - 1) t ∧ Only [.regs] s t ∧ RegsOnly ((.BC_THROTTLE, []) :: clusterRegs) s t) ∧
    (¬ overLim → ¬ low → exec .powerDecision s = .next (Quiet s))) ∧
  (∀ (dies : List Nat) (dimm : Nat) (sustained notice : Bool) (s : State), Dv.idle ≤ deviceState s → dies.length = 13 →
    (∀ t ∈ dies, t < 256) → dimm < 256 →
    let top := dies.foldl max 0
    let trip := (sustained = true ∧ 110 < top) ∨ 115 < top
    (¬ trip → ∃ t, exec (.thermalSample dies dimm sustained notice) s = .next t ∧ Only [.regs, .bc, .mem, .pcie, .events] s t ∧
      getF F.BC_THERMAL_JMAX [] t = top ∧ getF F.BC_THERMAL_DIMM_MAX [] t = dimm ∧
      dies.getD (getF F.BC_THERMAL_HOT_DIE [] t) 0 = top ∧ (∀ i, i < getF F.BC_THERMAL_HOT_DIE [] t → dies.getD i 0 < top) ∧
      getF F.BC_THERMAL_HOT [] t = (if 105 < top then 1 else getF F.BC_THERMAL_HOT [] s) ∧
      (∀ d, d < 8 →
        let c := dies.getD d 0
        let old := tget 0 s.bc.thermal d
        let cool := tget 0 s.bc.coolFor d
        tget 0 t.bc.thermal d = (if 105 < c then 9 else if 95 ≤ c then min 9 (old + 1) else if 9 ≤ cool then old - 1 else old) ∧
        tget 0 t.bc.coolFor d = (if 95 ≤ c ∨ 9 ≤ cool then 0 else cool + 1)) ∧
      ClusterSteps (getF F.BC_THROTTLE_POWER_STEP [] s) t ∧ t.bc.memCap = (if 105 < dies.getD 8 0 ∨ 105 < dies.getD 9 0 then 3 else 0) ∧
      (t.bc.dimmCap = true ↔ 95 < dimm) ∧
      getF F.BC_THROTTLE_DDR_CAP [] t = max s.bc.powerCap (max t.bc.memCap (if t.bc.dimmCap then 2 else 0)) % 4 ∧
      getF F.BC_THROTTLE_POWER_STEP [] t = getF F.BC_THROTTLE_POWER_STEP [] s) ∧
    (trip → ∃ t, exec (.thermalSample dies dimm sustained notice) s = .next t ∧ deviceState t = Dv.standby ∧ Unpowered t ∧
      t.pins.thermTrip = true ∧ getR .ID_HOST_LINK [] t = 0 ∧ Grew F.BC_THERMAL_TRIPS [] 1 s t ∧ getF F.BC_THERMAL_JMAX [] t = top)) ∧
  (∀ (s : State),
    (s.bc.stage = 0 → exec .hotSwapOpen s = .next (Quiet s) ∧ exec .inputLoss s = .next (Quiet s) ∧
      exec .pwrDisAssert s = .next { Quiet s with pins := { s.pins with pwrDis := true } }) ∧
    (s.bc.stage ≠ 0 → (∃ t, exec .hotSwapOpen s = .next t ∧ PowerLost s.pins.pwrDis s t) ∧
      (∃ t, exec .inputLoss s = .next t ∧ PowerLost s.pins.pwrDis s t) ∧
      ∃ t, exec .pwrDisAssert s = .next t ∧ PowerLost true s t) ∧
    (s.bc.stage = 0 → s.pins.pwrDis = false → ∃ t, exec .inputRestored s = .next t ∧ PoweredOn s.bc.dimms s.pins s t) ∧
    ((s.bc.stage ≠ 0 ∨ s.pins.pwrDis = true) → exec .inputRestored s = .next (Quiet s)) ∧
    (s.pins.pwrDis = true → ∃ t, exec .pwrDisDeassert s = .next t ∧ PoweredOn s.bc.dimms { s.pins with pwrDis := false } s t) ∧
    (s.pins.pwrDis = false → exec .pwrDisDeassert s = .next (Quiet s)) ∧
    (∀ modules, modules.length ≤ 24 → s.bc.stage ≤ 1 → s.pins.pwrDis = false →
      ∃ t, exec (.insertion modules) s = .next t ∧ PoweredOn modules s.pins s t))

/-- A slot keeps R449 to R451: key, signature, body digest, component, length, rollback counter and the bytes that must be zero. -/
def SlotGood (comp : Nat) (b : Bool) (s : State) : Prop :=
  let off := slotBase comp b
  let h := flashBytes off 256 s
  let key := flashBytes (off + 256) 2592 s
  let n := leNat ((h.drop 12).take 4)
  sha3_512 key = Config.kryverKeyHash ∧ Config.mldsaVerify key (slotContext comp) h (flashBytes (off + 2848) 4627 s) = true ∧
  sha3_512 (flashBytes (off + 8192) n s) = (h.drop 32).take 64 ∧ leNat (h.take 2) = 1 ∧ leNat ((h.drop 2).take 2) = comp ∧
  n ≤ 16769024 ∧ slotCounter comp s ≤ leNat ((h.drop 8).take 4) ∧ (∀ i, 16 ≤ i → i < 32 → h.getD i 0 = 0) ∧
  (∀ i, 96 ≤ i → h.getD i 0 = 0) ∧ ∀ i, 7475 ≤ i → i < 8192 → s.mem.byte (flashPlace (off + i)) = 0

/-- The attestation key's hash that a device secret gives (R455). -/
def attHash (k : BitVec 256) : List Byte :=
  sha3_512 (Config.mldsaPublicKey ((sha3_512 (0x10 :: natLe 32 k.toNat)).take 32))

/-- The body of configuration slot `b`. -/
def cfgBody (b : Bool) (s : State) : List Byte :=
  flashBytes (slotBase 2 b + 8192) (envLen (flashBytes (slotBase 2 b) 256 s)) s

/-- Configuration slot `b` is valid for a device with secret `k` (R451). -/
def CfgGood (k : BitVec 256) (b : Bool) (s : State) : Prop :=
  SlotGood 2 b s ∧ (cfgBody b s).take 64 = attHash k ∧ (cfgBody b s).getD 64 0 = 0xB0 ∧
  ∀ i, (65 ≤ i ∧ i < 72) ∨ 1296 ≤ i → (cfgBody b s).getD i 0 = 0

/-- The preferred slot, or the other one where only that is good. -/
def Chosen (pref b : Bool) (good : Bool → Prop) : Prop := (b = pref ∧ good pref) ∨ (b = ! pref ∧ ¬ good pref ∧ good (! pref))

/-- Nothing of the functions has changed but the quote status of `f`. -/
def QuoteStatusOnly (f : Requester) (s t : State) : Prop :=
  tget ({} : Fn) t.fns (fnIdx f) = { tget ({} : Fn) s.fns (fnIdx f) with quoteStatus := quoteStatus f t } ∧
  ∀ i, i ≠ fnIdx f → tget ({} : Fn) t.fns i = tget ({} : Fn) s.fns i

/-- Boot and management (R449 to R467): completes BOOT_ROM_START, VUOLA_START, QUOTE_REQUEST, QUOTE_COMPLETE, MCTP_CONTROL, PLDM_BASE,
PLDM_FW_TRANSFER, PLDM_FW_VERIFY, PLDM_FW_ACTIVATE, GET_CERT, GET_QUOTE, SET_MANAGERS, KEM_INIT, MOP, SESSION_EXPIRE, SYNC_RECEIVE,
SYNC_TIMEOUT. -/
def Obligations.BootManagementAndTime : Prop :=
  (∀ (comp : Nat) (b : Bool) (s : State), comp = 1 ∨ comp = 2 → (checkSlot comp b s = St.ok ↔ SlotGood comp b s)) ∧
  (∀ (puf : Option (BitVec 256)) (straps : BitVec 17) (s : State),
    (s.bc.stage ≠ 1 → exec (.bootRomStart puf straps) s = .next (Quiet s)) ∧
    (s.bc.stage = 1 → ∃ t, exec (.bootRomStart puf straps) s = .next t ∧ deviceState t = deviceState s ∧
      getF F.ID_ADDR_ADDR [] t = straps.toNat % 65536 ∧
      getF F.ID_ADDR_PARITY_OK [] t = ((List.range 17).filter (fun i => straps.getLsbD i)).length % 2 ∧
      getF F.BC_BOOT_IMG_COUNTER [] t = s.bc.imgCounter.toNat ∧
      (s.pins.perst = false → getF F.ID_HOST_LINK_GEN [] t ∈ [3, 4, 5, 6] ∧ getF F.ID_HOST_LINK_WIDTH [] t ∈ [1, 4, 8, 16]) ∧
      (puf = none → t.bc.stage = 4 ∧ getF F.BC_BOOT_STATUS [] t = St.poison) ∧
      (∀ k, puf = some k → t.bc.secret = some k ∧ keyHash t = attHash k ∧
        (∀ b, Chosen s.bc.prefCfg b (fun b => CfgGood k b s) → t.bc.stage = 2 ∧
          t.bc.cfgRecord = flashBytes (slotBase 2 b) (8192 + envLen (flashBytes (slotBase 2 b) 256 s)) s ∧
          getF F.BC_BOOT_CFG_SLOT [] t = (if b then 1 else 0) ∧
          getR .ID_CLUSTERS [] t = BitVec.ofNat 64 (fieldAt (cfgBody b s) 72 8) ∧
          ∀ d, d < 8 → getR .ID_CORES [d] t = BitVec.ofNat 64 (fieldAt (cfgBody b s) (80 + 8 * d) 8)) ∧
        (¬ CfgGood k false s → ¬ CfgGood k true s → t.bc.stage = 4 ∧ getF F.BC_BOOT_STATUS [] t ∈ [St.digestMismatch, St.notPermitted])))) ∧
  (∀ (s : State),
    (s.bc.stage ≠ 2 → exec .vuolaStart s = .next (Quiet s)) ∧
    (s.bc.stage = 2 → ∃ t, exec .vuolaStart s = .next t ∧
      (∀ b, Chosen s.bc.prefImg b (fun b => SlotGood 1 b s) →
        let h := flashBytes (slotBase 1 b) 256 s
        let starts := getF F.BC_STATE_BOOT [] s = 1 ∧ getF F.BC_CTRL_HOLD [] s = 0 ∧ channelsLeft s = true
        t.bc.stage = 3 ∧ t.bc.imgHeader = h ∧ getF F.ID_VUOLA_VERSION [] t = fieldAt h 4 4 ∧ getF F.ID_VUOLA_SVN [] t = fieldAt h 8 4 ∧
        getF F.BC_BOOT_IMG_SLOT [] t = (if b then 1 else 0) ∧
        (starts → deviceState t = Dv.idle ∧ getF F.BC_STATE_BOOT [] t = 0 ∧
          t.bc.imgCounter.toNat = max s.bc.imgCounter.toNat (fieldAt h 8 4)) ∧
        (¬ starts → deviceState t = deviceState s ∧ t.bc.imgCounter = s.bc.imgCounter)) ∧
      (¬ SlotGood 1 false s → ¬ SlotGood 1 true s → t.bc.stage = 4 ∧
        getF F.BC_BOOT_STATUS [] t ∈ [St.digestMismatch, St.notPermitted] ∧ deviceState t = deviceState s))) ∧
  (∀ (fn : Requester) (addr : BitVec 64) (s : State), fnAllowed fn (regOff .BC_QUOTE_REQ []) s = true →
    let old := quoteStatus fn s
    let full := s.bc.stage ≠ 3 ∨ 16 < s.bc.quotes.length
    (full → ∃ t, exec (.quoteRequest fn addr) s = .next t ∧ Only [.fns] s t ∧ QuoteStatusOnly fn s t ∧
      FnStatus old (quoteStatus fn t) St.notPermitted (old.getLsbD 0)) ∧
    (¬ full → ∃ t, exec (.quoteRequest fn addr) s = .next t ∧ Only [.fns, .bc] s t ∧ QuoteStatusOnly fn s t ∧
      FnStatus old (quoteStatus fn t) (bits 15 8 old) true ∧
      t.bc = { s.bc with quotes := s.bc.quotes ++ [⟨fn, addr.toNat / 64 * 64⟩] })) ∧
  (∀ (q : QuoteReq) (l : List QuoteReq) (s : State),
    let more : Bool := decide (∃ x ∈ l, x.fn = q.fn)
    (s.bc.quotes = [] → exec .quoteComplete s = .next (Quiet s)) ∧
    (s.bc.quotes = q :: l → s.mem.anyPoison (hostPlace q.addr) 64 = true → ∃ t, exec .quoteComplete s = .next t ∧
      Only [.fns, .bc] s t ∧ t.bc = { s.bc with quotes := l } ∧ QuoteStatusOnly q.fn s t ∧
      FnStatus (quoteStatus q.fn s) (quoteStatus q.fn t) St.poison more) ∧
    (s.bc.quotes = q :: l → s.mem.anyPoison (hostPlace q.addr) 64 = false → ∃ bs t, exec .quoteComplete s = .next t ∧
      Only [.fns, .bc, .mem] s t ∧ t.bc = { s.bc with quotes := l } ∧ QuoteStatusOnly q.fn s t ∧
      FnStatus (quoteStatus q.fn s) (quoteStatus q.fn t) St.ok more ∧ StoredAt (hostPlace (q.addr + 64)) bs s t ∧
      fieldAt bs 0 2 = 1 ∧ fieldAt bs 4 4 = getF F.ID_VUOLA_VERSION [] s ∧ fieldAt bs 8 4 = getF F.ID_VUOLA_SVN [] s ∧
      fieldAt bs 16 8 = (timeNow s).toNat ∧ fieldAt bs 24 2 = (ownAddr s).toNat ∧ (bs.drop 32).take 64 = hostBytes s q.addr 64 ∧
      (bs.drop 96).take 64 = sha3_512 s.bc.imgHeader ∧ (bs.drop 160).take 64 = sha3_512 (s.bc.cfgRecord.take 256) ∧
      fieldAt bs 224 4 = s.bc.imgCounter.toNat ∧ fieldAt bs 228 4 = s.bc.cfgCounter.toNat ∧
      bs.drop 256 = Config.mldsaSign (attSeed s) (ascii "DV1-quote") (bs.take 256))) ∧
  (∀ (msg nonce data : List Byte) (hashes : List (List Byte)) (comp off len part : Nat) (s : State),
    let quiet := fun (i : Instr) => exec i s = .next (Quiet s)
    let answers := fun (i : Instr) (b : Basecamp) (bs : List Byte) => exec i s = .next { s with bc := b, out := [.mgmtAnswer bs] }
    let status := fun (i : Instr) (b : Basecamp) (st : Nat) => answers i b [BitVec.ofNat 8 st]
    let b := s.bc
    (b.stage ≠ 3 → quiet (.mctpControl msg) ∧ quiet (.pldmBase msg) ∧ quiet (.pldmFwTransfer comp off data) ∧ quiet .pldmFwVerify ∧
      quiet .pldmFwActivate ∧ quiet (.getCert off len) ∧ quiet (.getQuote nonce part) ∧ quiet (.setManagers hashes)) ∧
    (b.stage = 3 →
      answers (.mctpControl msg) b (Config.mctpAnswer msg) ∧ answers (.pldmBase msg) b (Config.mctpAnswer msg) ∧
      (let mine := (b.pldm = none ∨ ∃ v, b.pldm = some (comp, v)) ∧ (comp = 1 ∨ comp = 2) ∧ off + data.length ≤ 0x1000000
       (¬ mine → status (.pldmFwTransfer comp off data) b St.notPermitted) ∧
       (mine → ∃ t, exec (.pldmFwTransfer comp off data) s = .next t ∧ Only [.bc, .mem] s t ∧ t.out = [.mgmtAnswer [0]] ∧
         t.bc = { b with pldm := some (comp, false) } ∧ StoredAt (flashPlace (slotBase comp (otherSlot comp s) + off)) data s t)) ∧
      (b.pldm = none → status .pldmFwVerify b St.notPermitted) ∧
      (∀ v, b.pldm = some (comp, v) → status .pldmFwVerify
        { b with pldm := some (comp, decide (checkSlot comp (otherSlot comp s) s = St.ok)) } (checkSlot comp (otherSlot comp s) s)) ∧
      (b.pldm = some (1, true) → status .pldmFwActivate { b with pldm := none, prefImg := otherSlot 1 s } St.ok) ∧
      (b.pldm = some (2, true) → status .pldmFwActivate { b with pldm := none, prefCfg := otherSlot 2 s } St.ok) ∧
      (b.pldm = none ∨ b.pldm = some (comp, false) → status .pldmFwActivate b St.notPermitted) ∧
      (1024 < len → status (.getCert off len) b St.notPermitted) ∧
      (len ≤ 1024 → answers (.getCert off len) b (flashBytes (0x4010000 + off) (min len (7307 - off)) s)) ∧
      (nonce.length ≠ 64 ∨ 5 ≤ part ∨ (part = 0 ∧ 16 < b.quotes.length) → status (.getQuote nonce part) b St.notPermitted) ∧
      (nonce.length = 64 → b.quotes.length ≤ 16 →
        answers (.getQuote nonce 0) { b with quote := quoteBytes nonce s } ((quoteBytes nonce s).take 1024)) ∧
      (nonce.length = 64 → 0 < part → part < 5 → answers (.getQuote nonce part) b ((b.quote.drop (1024 * part)).take 1024)) ∧
      (let may := b.sessions = [] ∧ hashes.length ≤ 4 ∧ ∀ h ∈ hashes, h.length = 64
       (may → status (.setManagers hashes) { b with managers := hashes } St.ok) ∧
       (¬ may → status (.setManagers hashes) b St.notPermitted)))) ∧
  (∀ (src : Nat) (m : List Byte) (l : List (Nat × List Byte)) (s : State), s.bc.stage = 3 →
    (s.bc.handshake = [] → exec .kemInit s = .next (Quiet s)) ∧
    (s.bc.handshake = (src, m) :: l → (kemInitOk m s = false ∨ ∀ k, k < 4 → ∃ x, (k, x) ∈ s.bc.sessions) →
      exec .kemInit s = .next { Quiet s with bc := { s.bc with handshake := l } }) ∧
    (∀ k, s.bc.handshake = (src, m) :: l → kemInitOk m s = true → k < 4 → (∀ x, (k, x) ∉ s.bc.sessions) →
      (∀ j, j < k → ∃ x, (j, x) ∈ s.bc.sessions) →
      ∃ x r t, exec .kemInit s = .next t ∧ Only [.bc, .regs, .msgs, .fresh] s t ∧ RegsOnly [(.BC_MGMT, [])] s t ∧
        t.bc = { s.bc with handshake := l, sessions := s.bc.sessions ++ [(k, x)] } ∧
        x.keyIn.length = 32 ∧ x.keyOut.length = 32 ∧ x.high = none ∧ x.outCount = 0 ∧ x.answers = [] ∧
        t.msgs.waiting = s.msgs.waiting ++ [r] ∧ r.addr = BitVec.ofNat 16 src ∧ r.unit = .basecamp)) ∧
  (∀ (k : Nat) (s : State), ∃ t, exec (.sessionExpire k) s = .next t ∧ Only [.bc, .regs] s t ∧ RegsOnly [(.BC_MGMT, [])] s t ∧
    t.bc = { s.bc with sessions := t.bc.sessions } ∧ (∀ e, e ∈ t.bc.sessions ↔ e ∈ s.bc.sessions ∧ e.1 ≠ k) ∧
    ((s.bc.sessions.map (fun e => e.1)).Nodup → (∀ e ∈ s.bc.sessions, e.1 < 4) →
      ∀ j, (getF F.BC_MGMT_OPEN [] t).testBit j ↔ ∃ x, (j, x) ∈ t.bc.sessions)) ∧
  (∀ (p : Packet) (n : Nat) (u s : State), s.bc.stage = 3 → takeDelivered 26 (isMgmtKind 0x30) (Quiet s) = some ((p, n), u) →
    let k := fieldAt p.payload 0 1
    let c := fieldAt p.payload 2 6
    let plainIn := fun (x : Session) =>
      Config.gcmOpen x.keyIn (p.payload.take 8 ++ List.replicate 4 0) (mopHeader p) ((p.payload.drop 8).take 24) ((p.payload.drop 32).take 16)
    let good := ∃ x op, sessionOf k s = some x ∧ fieldAt p.payload 1 1 = 0 ∧ (∀ h, x.high = some h → h < c + 64) ∧ c ∉ x.seen ∧
      plainIn x = some op
    (¬ good → ∃ t, exec .mop s = .next t ∧ Grew F.BC_MGMT_REJECTED [] 1 s t ∧ RegsOnly [(.BC_MGMT, [])] s t ∧ t.bc = s.bc ∧
      Only [.regs, .switch] s t) ∧
    (∀ x op, sessionOf k s = some x → fieldAt p.payload 1 1 = 0 → (∀ h, x.high = some h → h < c + 64) → c ∉ x.seen →
      plainIn x = some op → x.outCount + 1 < 2 ^ 40 →
      let id : Word := BitVec.ofNat 64 (fieldAt op 16 8)
      let off := fieldAt op 4 4
      let reads := (∀ i, 1 ≤ i → i < 4 → op.getD i 0 = 0) ∧ fieldAt op 0 1 = 1 ∧ mayRead .manager off = true
      let writes := (∀ i, 1 ≤ i → i < 4 → op.getD i 0 = 0) ∧ fieldAt op 0 1 = 2 ∧ mayWrite .manager off = true
      (¬ reads → ¬ writes → (∀ a ∈ x.answers, a.1 ≠ id) → ∃ t y v, exec .mop s = .next t ∧ sessionOf k t = some y ∧
        y.outCount = x.outCount + 1 ∧ c ∈ y.seen ∧ t.mem = s.mem ∧
        y.answers.head? = some (id, op.take 1 ++ [0x10, 0, 0] ++ (op.drop 4).take 4 ++ natLe 8 v ++ (op.drop 16).take 8)) ∧
      (let r := mopRun op (modSession k (takeCounter c) u)
       (∀ a ∈ x.answers, a.1 ≠ id) → ∃ t, exec .mop s = .next t ∧ t.mem = r.2.2.mem ∧
        ∀ z, sessionOf k r.2.2 = some z → z.outCount + 1 < 2 ^ 40 → ∃ y cell, sessionOf k t = some y ∧
          y.outCount = z.outCount + 1 ∧ y.answers = ((id, op.take 1 ++ natLe 1 r.1 ++ [0, 0] ++ (op.drop 4).take 4 ++
            natLe 8 r.2.1.toNat ++ (op.drop 16).take 8) :: z.answers).take 256 ∧
          inQ 26 4 t = inQ 26 4 r.2.2 ++ [cell] ∧ cell.dest = p.src ∧ cell.tag = p.tag ∧ cell.kind = 0x30) ∧
      (∀ plain, x.answers.find? (fun a => decide (a.1 = id)) = some (id, plain) → ∃ t y cell, exec .mop s = .next t ∧
        sessionOf k t = some y ∧ y.answers = x.answers ∧ y.outCount = x.outCount + 1 ∧ c ∈ y.seen ∧ t.mem = s.mem ∧
        inQ 26 4 t = inQ 26 4 u ++ [cell] ∧ cell.dest = p.src ∧ cell.tag = p.tag ∧ cell.kind = 0x30))) ∧
  (∀ (op : List Byte) (s : State), op.length = 24 →
    let off := fieldAt op 4 4
    let zero := ∀ i, 1 ≤ i → i < 4 → op.getD i 0 = 0
    (zero → op.getD 0 0 = 1 → mayRead .manager off = true →
      mopRun op s = (St.ok, (readBar0 .manager off 8 s).1, (readBar0 .manager off 8 s).2)) ∧
    (zero → op.getD 0 0 = 2 → mayWrite .manager off = true → fnAllowed .manager off s = true → ∃ v,
      mopRun op s = (St.ok, v, writeBar0 .manager off 8 (BitVec.ofNat 64 (fieldAt op 8 8)) { s with fresh := s.fresh + 1 })) ∧
    (¬ zero ∨ op.getD 0 0 ∉ [1, 2] ∨ (op.getD 0 0 = 1 ∧ mayRead .manager off = false) ∨
        (op.getD 0 0 = 2 ∧ mayWrite .manager off = false) → ∃ v,
      mopRun op s = (St.notPermitted, v, { s with fresh := s.fresh + 1 }))) ∧
  (∀ (p : Packet) (n : Nat) (u s : State), s.bc.stage = 3 → takeDelivered 26 Packet.isSync (Quiet s) = some ((p, n), u) →
    let o := syncOffset p
    let first := s.bc.timeArmed = true
    let small := -1000 < o ∧ o < 1000
    (syncOk p s = false → exec .syncReceive s = .next u) ∧
    (syncOk p s = true → ∃ t, exec .syncReceive s = .next t ∧ RegsOnly [(.BC_TIME, []), (.BC_TIME_STATUS, [])] s t ∧
      Only [.regs, .bc, .switch] s t ∧ getF F.BC_TIME_STATUS_HOLDOVER [] t = 0 ∧
      (BitVec.ofNat 32 (getF F.BC_TIME_STATUS_OFFSET [] t)).toInt = max (-2147483648) (min 2147483647 o) ∧
      (timeNow t = if first ∧ o < -1000000 then timeNow s + BitVec.ofInt 64 (-o) else timeNow s) ∧
      t.bc.timeHold = (if (first ∧ 1000000 < o) ∨ (0 < s.bc.timeHold ∧ 0 < o) then o.toNat else 0) ∧ t.bc.timeArmed = false ∧
      t.bc.good = (if small then min 8 (s.bc.good + 1) else 0) ∧
      getF F.BC_TIME_STATUS_SYNCED [] t =
        (if small then (if 7 ≤ s.bc.good then 1 else getF F.BC_TIME_STATUS_SYNCED [] s) else 0))) ∧
  (∀ (s : State), s.bc.stage = 3 →
    (getF F.BC_TIME_CTRL_ENABLE [] s = 0 → exec .syncTimeout s = .next (Quiet s)) ∧
    (getF F.BC_TIME_CTRL_ENABLE [] s = 1 → ∃ t, exec .syncTimeout s = .next t ∧ Only [.regs, .bc] s t ∧
      RegsOnly [(.BC_TIME_STATUS, [])] s t ∧ getF F.BC_TIME_STATUS_SYNCED [] t = 0 ∧ getF F.BC_TIME_STATUS_HOLDOVER [] t = 1 ∧
      t.bc = { s.bc with good := 0 }))

/-! ## Resets -/

/-- What a device reset leaves (R474 to R478), with trigger code `trigger`: every domain but the basecamp lost, the XE ledgers (records in
flight counted as cancelled) and the identity kept, management sessions closed, the record of the reset, the traffic hold set; a device that was up is IDLE with its ports
in training and what an activated slot gives in force. -/
def DeviceWasReset (trigger : Nat) (s t : State) : Prop :=
  let up := Dv.idle ≤ deviceState s
  Unpowered t ∧ FlashKept s t ∧ t.msgs = { hold := true } ∧ deviceState t = (if up then Dv.idle else deviceState s) ∧
  getF F.ERR_RESET_STATUS_LAST_KIND [] t = 3 ∧ getF F.ERR_RESET_STATUS_LAST_TRIGGER [] t = trigger ∧
  Grew F.ERR_RESET_STATUS_DEVICE_RESETS [] 1 s t ∧ Grew F.ERR_CLASS_COUNT_COUNT [4] 1 s t ∧
  (∀ r ix, 0x400000 ≤ regOff r ix → regOff r ix < 0x480000 →
    getR r ix t = if 0x200 ≤ regOff r ix % 0x10000 ∧ regOff r ix % 0x10000 < 0x600 then getR r ix (cancelRecords s) else regReset r ix) ∧
  (∀ q, q < 64 → clusterState q t = Cl.gated) ∧ t.bc.stage = s.bc.stage ∧ t.bc.secret = s.bc.secret ∧ t.bc.sessions = [] ∧
  t.bc.handshake = [] ∧ getF F.BC_MGMT_OPEN [] t = 0 ∧ getR .ID_ATT_KEYHASH [0] t = getR .ID_ATT_KEYHASH [0] s ∧
  (∀ n, n < 16 → portState n t = if up ∧ getF F.ID_ADDR_PARITY_OK [] s = 1 then Ps.training else Ps.disabled) ∧
  (up → t.bc.ddrReady = false ∧ getF F.BC_BOOT_IMG_SLOT [] t =
    if getF F.BC_BOOT_IMG_SLOT [] s ≠ (if s.bc.prefImg then 1 else 0) ∧ checkSlot 1 s.bc.prefImg s = St.ok then
      (if s.bc.prefImg then 1 else 0) else getF F.BC_BOOT_IMG_SLOT [] s) ∧
  (¬ up → t.pcie.msix = [])

/-- What a basecamp reset leaves (R474, R479): the device boots again from the boot ROM, in STANDBY; only the ledgers, the class
counts, the trips and the record of resets are kept of the registers. -/
def BasecampWasReset (trigger : Nat) (s t : State) : Prop :=
  Unpowered t ∧ FlashKept s t ∧ deviceState t = Dv.standby ∧ getF F.BC_STATE_BOOT [] t = 1 ∧
  t.bc = { stage := 1, dimms := s.bc.dimms, cache := s.bc.cache, imgCounter := s.bc.imgCounter, cfgCounter := s.bc.cfgCounter, prefImg := s.bc.prefImg,
           prefCfg := s.bc.prefCfg, managers := s.bc.managers } ∧
  getF F.ERR_RESET_STATUS_LAST_KIND [] t = 4 ∧ getF F.ERR_RESET_STATUS_LAST_TRIGGER [] t = trigger ∧
  Grew F.ERR_RESET_STATUS_DEVICE_RESETS [] 1 s t ∧ Grew F.ERR_CLASS_COUNT_COUNT [4] 1 s t ∧
  getF F.BC_THERMAL_TRIPS [] t = getF F.BC_THERMAL_TRIPS [] s ∧
  (∀ r ix, 0x400000 ≤ regOff r ix → regOff r ix < 0x480000 →
    getR r ix t = if 0x200 ≤ regOff r ix % 0x10000 ∧ regOff r ix % 0x10000 < 0x600 then getR r ix (cancelRecords s) else regReset r ix) ∧
  ∀ r ix, keptReg (regOff r ix) = false → getR r ix t = regReset r ix

/-- A compute reset of the dies of `m` (R477). -/
def ComputeWasReset (trigger : Nat) (m : BitVec 8) (s t : State) : Prop :=
  let hit := fun (r : Nat) => ∃ d ∈ ropeDies r s, d < 8 ∧ m.getLsbD d = true
  (∀ d, d < 8 → m.getLsbD d = true → (tget ({} : Rte) t.rtes d).queue = [] ∧
    (tget ({} : Xe) t.xes d).queue = [] ∧ (tget ({} : Xe) t.xes d).active = [] ∧ (tget ({} : Xe) t.xes d).early = []) ∧
  (∀ q, q < 64 → m.getLsbD (q / 8) = true → clusterState q t = Cl.gated) ∧
  getF F.ERR_RESET_STATUS_LAST_KIND [] t = 2 ∧ getF F.ERR_RESET_STATUS_LAST_TRIGGER [] t = trigger ∧
  ((∀ r, r < 16 → ropeState r s ≠ RopeSt.none → ¬ hit r) → t.ropes = s.ropes ∧ t.tables = s.tables ∧ t.belays = s.belays ∧
    (∀ r, r < 16 → ropeState r t = ropeState r s) ∧
    (∀ c, m.getLsbD (c / 64) = false ∨ 512 ≤ c → coreOf c t = coreOf c s) ∧
    ∀ d, d < 8 → m.getLsbD d = false → tget ({} : Xe) t.xes d = tget ({} : Xe) s.xes d) ∧
  (∀ r, r < 16 → ropeState r s ≠ RopeSt.none → hit r → (∀ o, o < 16 → ropeState o s ≠ RopeSt.none → hit o → o = r) →
    (NoStatusWord r s → ropeState r t = RopeSt.ready ∧ (ropeOf r t).stop = none) ∧ NobodyWaits r t ∧
    ∀ c, c / 8 ∈ ropeClusters r s → coreOf c t = {})

/-- Resets (R474 to R485, R493): completes COMPUTE_RESET, VUOLA_COMPUTE_RESET, DEVICE_RESET, BASECAMP_RESET, PF_FUNCTION_LEVEL_RESET,
VF_FUNCTION_LEVEL_RESET, PCIE_HOT_RESET, PERST_ASSERT, PERST_DEASSERT, WATCHDOG_EXPIRE, NUMVFS_LOWER, NUMVFS_RAISE, FLASH_EXT_ASSERT,
FLASH_EXT_DEASSERT. -/
def Obligations.ResetsClearWhatTheyName : Prop :=
  (∀ (fn : Requester) (dies : BitVec 8) (s : State), fnAllowed fn (regOff .ERR_RESET []) s = true →
    (∃ t, exec (.computeReset fn dies) s = .next t ∧ ComputeWasReset 0x04 dies s t) ∧
    (∃ t, exec (.deviceReset fn) s = .next t ∧ DeviceWasReset 0x06 s t ∧ t.pcie.numVfs = s.pcie.numVfs ∧ t.pins = s.pins) ∧
    (∃ t, exec (.basecampReset fn) s = .next t ∧ BasecampWasReset 0x0B s t)) ∧
  (∀ (dies : BitVec 8) (s : State),
    (Dv.idle ≤ deviceState s → s.bc.stage = 3 → ∃ t, exec (.vuolaComputeReset dies) s = .next t ∧ ComputeWasReset 0x05 dies s t) ∧
    (deviceState s < Dv.idle ∨ s.bc.stage ≠ 3 → exec (.vuolaComputeReset dies) s = .next (Quiet s))) ∧
  (∀ (s : State),
    (Dv.standby ≤ deviceState s →
      (∃ t, exec .pfFunctionLevelReset s = .next t ∧ DeviceWasReset 0x07 s t ∧ t.pcie.numVfs = 0) ∧
      ∃ t, exec .pcieHotReset s = .next t ∧ DeviceWasReset 0x08 s t ∧ t.pcie.numVfs = 0) ∧
    (deviceState s = Dv.off → exec .pfFunctionLevelReset s = .next (Quiet s) ∧ exec .pcieHotReset s = .next (Quiet s)) ∧
    (s.pins.perst = true → exec .perstAssert s = .next (Quiet s)) ∧
    (s.pins.perst = false → deviceState s = Dv.off →
      exec .perstAssert s = .next { Quiet s with pins := { s.pins with perst := true } }) ∧
    (s.pins.perst = false → Dv.standby ≤ deviceState s → ∃ t, exec .perstAssert s = .next t ∧ DeviceWasReset 0x09 s t ∧
      t.pcie.numVfs = 0 ∧ getR .ID_HOST_LINK [] t = 0 ∧ t.pins = { s.pins with perst := true }) ∧
    (∀ second, s.bc.stage ≠ 3 → exec (.watchdogExpire second) s = .next (Quiet s)) ∧
    (s.bc.stage = 3 → (∃ t, exec (.watchdogExpire false) s = .next t ∧ DeviceWasReset 0x0A s t) ∧
      ∃ t, exec (.watchdogExpire true) s = .next t ∧ BasecampWasReset 0x0C s t) ∧
    (∀ gen width, let may := s.pins.perst = true ∧ gen ∈ [3, 4, 5, 6] ∧ width ∈ [1, 4, 8, 16]
      (¬ may → exec (.perstDeassert gen width) s = .next (Quiet s)) ∧
      (may → s.bc.stage < 2 → exec (.perstDeassert gen width) s = .next { Quiet s with pins := { s.pins with perst := false } }) ∧
      (may → 2 ≤ s.bc.stage → ∃ t, exec (.perstDeassert gen width) s = .next t ∧ Only [.pins, .regs] s t ∧
        RegsOnly [(.ID_HOST_LINK, [])] s t ∧ t.pins = { s.pins with perst := false } ∧ getF F.ID_HOST_LINK_GEN [] t = gen ∧
        getF F.ID_HOST_LINK_WIDTH [] t = width ∧ getF F.ID_HOST_LINK_FLIT [] t = if gen = 6 then 1 else 0)) ∧
    (∃ t, exec .flashExtAssert s = .next t ∧ Only [.pins] s t ∧
      t.pins = { s.pins with flashExt := true, flashOut := s.pins.flashOut || decide (deviceState s = Dv.standby) }) ∧
    (s.pins.flashOut = false → exec .flashExtDeassert s = .next { Quiet s with pins := { s.pins with flashExt := false } }) ∧
    (s.pins.flashOut = true → ∃ t, exec .flashExtDeassert s = .next t ∧ BasecampWasReset 0x00 s t ∧ t.pins.flashOut = false ∧
      t.pins.flashExt = false)) ∧
  (∀ (v : Nat) (s : State),
    (s.pcie.numVfs ≤ v → exec (.vfFunctionLevelReset v) s = .next (Quiet s)) ∧
    (v < s.pcie.numVfs → ∃ t, exec (.vfFunctionLevelReset v) s = .next t ∧ tget ({} : Fn) t.fns v = {} ∧
      t.pcie.numVfs = s.pcie.numVfs ∧ (∀ k, k < 256 → msixWord v k t = msixDefault k) ∧
      (∀ q, q < 64 → getF F.CMD_Q_CFG_ENABLE [q] s = 1 → getF F.CMD_Q_CFG_OWNER [q] s = v → getF F.CMD_Q_CFG_ENABLE [q] t = 0 ∧
        getF F.CMD_Q_STATUS_STATE [q] t = Qs.disabled) ∧
      (vfRope v s = none → t.mem = s.mem ∧ t.ropes = s.ropes ∧ t.cores = s.cores ∧ (∀ i, i ≠ v → tget ({} : Fn) t.fns i = tget ({} : Fn) s.fns i) ∧
        (∀ f k, f ≠ v → k < 256 → msixWord f k t = msixWord f k s) ∧
        ∀ q, q < 64 → getF F.CMD_Q_CFG_OWNER [q] s ≠ v → getR .CMD_Q_CFG [q] t = getR .CMD_Q_CFG [q] s) ∧
      (∀ r, vfRope v s = some r → (NoStatusWord r s → ropeState r t = RopeSt.ready) ∧ getF F.ERR_RESET_STATUS_LAST_KIND [] t = 1 ∧
        getF F.ERR_RESET_STATUS_LAST_TRIGGER [] t = 2))) ∧
  (∀ (n : Nat) (s : State),
    (s.pcie.numVfs ≤ n → exec (.numvfsLower n) s = .next (Quiet s)) ∧
    (n < s.pcie.numVfs → ∃ t, exec (.numvfsLower n) s = .next t ∧ t.pcie.numVfs = n ∧
      ((∀ v, n ≤ v → v < 16 → vfRope v s = none) → (∀ i, tget ({} : Fn) t.fns i =
        if n ≤ i ∧ i < s.pcie.numVfs ∧ i < 16 then {} else tget ({} : Fn) s.fns i) ∧ t.ropes = s.ropes ∧ t.mem = s.mem)) ∧
    (s.pcie.numVfs < n → n ≤ 16 → exec (.numvfsRaise n) s = .next { Quiet s with pcie := { s.pcie with numVfs := n } }) ∧
    (n ≤ s.pcie.numVfs ∨ 16 < n → exec (.numvfsRaise n) s = .next (Quiet s)))

/-! ## Host access and events -/

/-- An access of `size` bytes at `off` is of a shape of R7. -/
def goodAccess (off size : Nat) : Prop := (size = 8 ∧ off % 8 = 0) ∨ (size = 4 ∧ off % 4 = 0)

/-- The bits of its 64-bit register that an access covers (R7). -/
def covered (off size i : Nat) : Bool :=
  decide (i < 64 ∧ (size = 8 ∨ (off % 8 = 0 ∧ i < 32) ∨ (off % 8 = 4 ∧ 32 ≤ i)))

/-- The bit of the data that an access gives to bit `i` of its register. -/
def dataBit (off : Nat) (data : Word) (i : Nat) : Bool := data.getLsbD (if off % 8 = 4 then i - 32 else i)

/-- The type of bit `i` of a register; none where no field lies (R9, R10). -/
def bitType (r : Reg) (i : Nat) : Option FieldType :=
  ((regDesc r).fields.find? (fun f => decide (f.lo ≤ i ∧ i ≤ f.hi))).map (fun f => f.ty)

/-- The registers whose writes do more than store. -/
def actingRegs : List Reg :=
  [.LNK_CTRL, .SW_GEOMETRY, .SW_PATH_EPOCH, .SW_E2E_QUERY, .SW_CTRL, .SW_FWD_MODE, .SW_OUTBUF, .COL_CHAN_CTRL, .MEM_PAGE_CMD,
   .MEM_PF_CTRL, .MEM_LEND_CTRL, .BPM_POOL_CFG, .BPM_POOL_BASE, .BPM_POOL_RING, .BPM_REQ, .CMD_Q_CFG, .AUD_SEAL_REQ, .AUD_LS_CTRL,
   .AUD_LS_INBOX, .BC_CTRL, .BC_QUOTE_REQ, .BC_TIME_CTRL, .ERR_RING_BASE, .ERR_RING_CFG, .ERR_RING_TAIL, .ERR_RESET,
   .ERR_BELAY_QUERY, .BC_BAR4_WINDOW]

/-- The registers whose reads give what is kept per function, counted on demand, or measured. -/
def ownReads : List Reg := [.BPM_RESULT, .AUD_SEAL_STATUS, .BC_QUOTE_STATUS, .SW_E2E_QUERY, .LNK_LANE]

/-- The value of a read that covers part of a word (R7). -/
def partOf (off size : Nat) (w v : Word) : Prop :=
  ∀ i, i < 64 → v.getLsbD i = (decide (i < 8 * size) && w.getLsbD (if off % 8 = 4 then i + 32 else i))

/-- The readable bits of a register's word (R9, R10): WO and reserved fields read 0. -/
def readableBits (r : Reg) (w v : Word) : Prop :=
  ∀ i, i < 64 → v.getLsbD i = (w.getLsbD i && decide (bitType r i ∈ [some .rw, some .ro, some .w1c]))

/-- Host access and events (R7 to R10, R469 to R473, R480 to R488, R499): completes REGISTER_WRITE, LATCHED_SET_CAPTURE, BAR4_READ,
BAR4_WRITE, BAR4_RESIZE, EVENT_RING_ENABLE, MODERATION_EXPIRE, BELAY_QUERY. -/
def Obligations.HostReachesRegistersMemoryAndEvents : Prop :=
  (∀ (fn : Requester) (off size : Nat) (data : Word) (s : State),
    (fnAllowed fn off s = false ∨ ¬ goodAccess off size ∨ (msixSlot off = none ∧ findReg (off / 8 * 8) = none) →
      exec (.registerWrite fn off size data) s = .next (Quiet s)) ∧
    (∀ r ix, fnAllowed fn off s = true → goodAccess off size → msixSlot off = none → findReg (off / 8 * 8) = some (r, ix) →
      r ∉ actingRegs → ∃ t, exec (.registerWrite fn off size data) s = .next t ∧ Only [.regs] s t ∧ RegsOnly [(r, ix)] s t ∧
        ∀ i, i < 64 → (getR r ix t).getLsbD i =
          if covered off size i = true ∧ bitType r i = some .rw then dataBit off data i
          else if covered off size i = true ∧ bitType r i = some .w1c ∧ dataBit off data i = true then false
          else (getR r ix s).getLsbD i)) ∧
  (∀ (fn : Requester) (v : Word) (r i : Nat) (s : State),
    let write := fun (q : Reg) (ix : List Nat) => exec (.registerWrite fn (regOff q ix) 8 v) s
    let allowed := fun (q : Reg) (ix : List Nat) => fnAllowed fn (regOff q ix) s = true
    (allowed .ERR_BELAY_QUERY [] → write .ERR_BELAY_QUERY [] = exec (.belayQuery fn (v.setWidth 12)) s) ∧
    (allowed .AUD_SEAL_REQ [] → write .AUD_SEAL_REQ [] = exec (.sealRequest fn v) s) ∧
    (allowed .BC_QUOTE_REQ [] → write .BC_QUOTE_REQ [] = exec (.quoteRequest fn v) s) ∧
    (r < 16 → i < 32 → allowed .AUD_LS_INBOX [r, i] → write .AUD_LS_INBOX [r, i] = exec (.lockstepInboxWrite fn r i v) s) ∧
    (allowed .ERR_RESET [] → (v.getLsbD 18 = true → write .ERR_RESET [] = exec (.basecampReset fn) s) ∧
      (v.getLsbD 18 = false → v.getLsbD 17 = true → write .ERR_RESET [] = exec (.deviceReset fn) s) ∧
      (v.getLsbD 18 = false → v.getLsbD 17 = false → v.getLsbD 16 = true →
        write .ERR_RESET [] = exec (.computeReset fn (v.setWidth 8)) s))) ∧
  (∀ (fn : Requester) (off size : Nat) (r : Reg) (ix : List Nat) (s : State), fn.wf = true →
    let read := exec (.latchedSetCapture fn (.bar0 off) size) s
    let answers := fun (v : Word) => read = .next { s with out := [.readData fn off size v] }
    exec (.latchedSetCapture fn (.bar2 off) size) s =
      .next { s with out := [.readData fn off size (if functionThere fn s then 0 else wordMax)] } ∧
    let plain := functionThere fn s = true ∧ goodAccess off size ∧ mayRead fn off = true ∧ blockUp off s = true ∧
      msixSlot off = none ∧ findReg (off / 8 * 8) = some (r, ix)
    (functionThere fn s = false → answers wordMax) ∧
    (functionThere fn s = true → (¬ goodAccess off size ∨ mayRead fn off = false ∨ blockUp off s = false) → answers 0) ∧
    (plain → latchedMember r = false → latchedSet r ix = [] → r ∉ ownReads → ∃ w v, answers v ∧ partOf off size w v ∧
      readableBits r (getR r ix s) w) ∧
    (plain → r = .AUD_SEAL_STATUS → ∃ v, answers v ∧ partOf off size (sealStatus fn s) v) ∧
    (plain → r = .BC_QUOTE_STATUS → ∃ v, answers v ∧ partOf off size (quoteStatus fn s) v) ∧
    (plain → r = .BPM_RESULT → let u := settleRequest fn (Quiet s)
      ∃ v, partOf off size (tget ({} : Fn) u.fns (fnIdx fn)).bpmResult v ∧
        read = .next (if requestOpen fn u = true ∧ blockUp off u = true then u else { u with out := u.out ++ [.readData fn off size v] })) ∧
    (plain → r = .BPM_RESULT → requestOpen fn s = false → ∃ v, answers v ∧
      partOf off size (tget ({} : Fn) s.fns (fnIdx fn)).bpmResult v) ∧
    (plain → latchedMember r = true → ∃ v, answers v ∧ partOf off size (captured fn (regOff r ix) s) v) ∧
    (plain → latchedSet r ix ≠ [] → off % 8 = 0 → ∃ t w v, read = .next t ∧ Only [.latch] s t ∧
      t.out = [.readData fn off size v] ∧ readableBits r (getR r ix s) w ∧ partOf off size w v ∧ captured fn (regOff r ix) t = w ∧
      (∀ o ∈ latchedSet r ix, captured fn o t = offValue o s) ∧
      ∀ g o, o < 2 ^ 26 → fnIdx g ≠ fnIdx fn → captured g o t = captured g o s)) ∧
  (∀ (off len : Nat) (s : State),
    let lma := bar4Lma off s
    let boundary := if Config.rcb128 then 128 else 64
    let awake := if deviceState s = Dv.idle ∨ deviceState s = Dv.lender then Dv.active else deviceState s
    (deviceState s < Dv.standby ∨ 2 ^ apertureLog2 s < off + len → exec (.bar4Read off len) s = .next (Quiet s)) ∧
    (Dv.standby ≤ deviceState s → off + len ≤ 2 ^ apertureLog2 s →
      (bar4Reaches off len s = false → ∃ parts, exec (.bar4Read off len) s = .next { s with out := [.bar4Data parts] } ∧
        parts.flatMap (fun x => x.1) = List.replicate len 0 ∧ ∀ x ∈ parts, x.2 = false) ∧
      (bar4Reaches off len s = true → let s := findErrors lma len (Quiet s)
       ∃ parts t, exec (.bar4Read off len) s = .next t ∧ Only [.regs] s t ∧ RegsOnly [(.BC_STATE, [])] s t ∧ deviceState t = awake ∧
        t.out = s.out ++ [.bar4Data parts] ∧ (parts.flatMap (fun x => x.1)).length = len ∧ (∀ x ∈ parts, x.1.length ≤ boundary) ∧
        (s.mem.anyPoison lma len = false → parts.flatMap (fun x => x.1) = s.mem.bytes lma len ∧ ∀ x ∈ parts, x.2 = false) ∧
        (0 < len → lma % boundary + len ≤ boundary → s.mem.anyPoison lma len = true → parts = [(List.replicate len 0xFF, true)]))) ∧
    (∀ (bs : List Byte), bs.length = len → Dv.standby ≤ deviceState s → off + len ≤ 2 ^ apertureLog2 s →
      (∀ ep, bar4Reaches off len s = false → exec (.bar4Write off bs ep) s = .next (Quiet s)) ∧
      (bar4Reaches off len s = true → let u := findEdges lma len (wakeActive (Quiet s))
        (∃ t, exec (.bar4Write off bs false) s = .next t ∧ Only [.mem] u t ∧ deviceState t = awake ∧ StoredAt lma bs u t) ∧
        ∃ t, exec (.bar4Write off bs true) s = .next t ∧ Only [.mem] u t ∧ deviceState t = awake ∧
          (∀ i, i < len → t.mem.poisoned (lma + i) = true) ∧
          ∀ p, (p / 16 < lma / 16 ∨ (lma + len - 1) / 16 < p / 16 ∨ len = 0) →
            t.mem.byte p = u.mem.byte p ∧ t.mem.poisoned p = u.mem.poisoned p))) ∧
  (∀ (log2 : Nat) (s : State),
    (34 ≤ log2 → log2 ≤ 43 → ∃ t, exec (.bar4Resize log2) s = .next t ∧ Only [.regs] s t ∧ RegsOnly [(.BC_BAR4_WINDOW, [])] s t ∧
      apertureLog2 t = log2 ∧ getF F.BC_BAR4_WINDOW_WINDOW [] t = getF F.BC_BAR4_WINDOW_WINDOW [] s) ∧
    (log2 < 34 ∨ 43 < log2 → exec (.bar4Resize log2) s = .next (Quiet s))) ∧
  (∀ (e : Event) (s : State), e.cls < 5 → e.status < 256 → e.source < 256 →
    let t := raiseEvent e s
    let head := getF F.ERR_RING_HEAD_HEAD [] s
    let size := 2 ^ s.events.log2
    let on := getF F.ERR_RING_CFG_ENABLE [] s = 1 ∧ ¬ (e.cls < 3 ∧ (getF F.ERR_POLICY_CLASS_MASK [] s).testBit e.cls = true)
    let full := size ≤ (head + 2 ^ 32 - getF F.ERR_RING_TAIL_TAIL [] s) % 2 ^ 32
    getR .ERR_CLASS_COUNT [e.cls] t = getR .ERR_CLASS_COUNT [e.cls] s + 1 ∧
    (¬ on → Only [.regs] s t ∧ RegsOnly [(.ERR_CLASS_COUNT, [e.cls])] s t) ∧
    (on → full → Only [.regs] s t ∧ RegsOnly [(.ERR_CLASS_COUNT, [e.cls]), (.ERR_RING_LOST, [])] s t ∧
      getR .ERR_RING_LOST [] t = getR .ERR_RING_LOST [] s + 1) ∧
    (on → ¬ full → Only [.regs, .mem, .events, .pcie] s t ∧ RegsOnly [(.ERR_CLASS_COUNT, [e.cls]), (.ERR_RING_HEAD, [])] s t ∧
      Grew F.ERR_RING_HEAD_HEAD [] 1 s t ∧
      (∃ bs : List Byte, bs.length = 64 ∧ StoredAt (hostPlace (s.events.base + head % size * 64)) bs s t ∧ fieldAt bs 0 4 = head ∧
        fieldAt bs 4 1 = e.status ∧ fieldAt bs 5 1 = e.cls ∧ fieldAt bs 6 1 = e.source ∧ fieldAt bs 8 8 = (timeNow s).toNat ∧
        fieldAt bs 16 4 = e.tag % 2 ^ 32 ∧ fieldAt bs 20 4 = e.unit % 2 ^ 32 ∧ fieldAt bs 24 8 = e.addr % 2 ^ 64 ∧
        ((bs.getD 63 0).getLsbD 7 = true ↔ head / size % 2 = 0)) ∧
      (let v := getF F.ERR_RING_CFG_VECTOR [] s
       let raises := getF F.ERR_RING_CFG_MIN_CLASS [] s ≤ e.cls ∧ s.events.moderating = false
       (¬ raises → t.pcie = s.pcie ∧ t.events.moderating = s.events.moderating) ∧
       (getF F.ERR_RING_CFG_MIN_CLASS [] s ≤ e.cls → s.events.moderating = true → t.events = { s.events with again := true }) ∧
       (raises → t.events = { s.events with moderating := decide (getF F.ERR_RING_CFG_MODERATION_US [] s ≠ 0) } ∧
         ((msixWord 16 (2 * v + 1) s).getLsbD 32 = false → t.pcie = s.pcie ∧ .msix 16 v ∈ t.out) ∧
         ((msixWord 16 (2 * v + 1) s).getLsbD 32 = true → (msixWord 16 128 t).getLsbD v = true))))) ∧
  (∀ (fn : Requester) (idx : BitVec 12) (s : State),
    (fnAllowed fn (regOff .ERR_RING_CFG []) s = true → getF F.ERR_RING_CFG_ENABLE [] s = 1 → exec (.eventRingEnable fn) s = .next (Quiet s)) ∧
    (fnAllowed fn (regOff .ERR_RING_CFG []) s = true → getF F.ERR_RING_CFG_ENABLE [] s = 0 →
      ∃ t, exec (.eventRingEnable fn) s = .next t ∧ Only [.regs, .events] s t ∧
        RegsOnly [(.ERR_RING_CFG, []), (.ERR_RING_HEAD, []), (.ERR_RING_TAIL, [])] s t ∧ getF F.ERR_RING_CFG_ENABLE [] t = 1 ∧
        getF F.ERR_RING_HEAD_HEAD [] t = 0 ∧ getF F.ERR_RING_TAIL_TAIL [] t = 0 ∧
        t.events = { s.events with base := getF F.ERR_RING_BASE_ADDR [] s * 4096,
                                   log2 := min 16 (max 6 (getF F.ERR_RING_CFG_ENTRIES_LOG2 [] s)) }) ∧
    (s.events.moderating = false → exec .moderationExpire s = .next (Quiet s)) ∧
    (s.events.moderating = true → s.events.again = false →
      exec .moderationExpire s = .next { Quiet s with events := { s.events with moderating := false } }) ∧
    (s.events.moderating = true → s.events.again = true → ∃ t, exec .moderationExpire s = .next t ∧ Only [.events, .pcie] s t ∧
      t.events = { s.events with again := false, moderating := decide (getF F.ERR_RING_CFG_MODERATION_US [] s ≠ 0) } ∧
      (let v := getF F.ERR_RING_CFG_VECTOR [] s
       ((msixWord 16 (2 * v + 1) s).getLsbD 32 = false → t.pcie = s.pcie ∧ t.out = [.msix 16 v]) ∧
       ((msixWord 16 (2 * v + 1) s).getLsbD 32 = true → t.out = [] ∧ (msixWord 16 128 t).getLsbD v = true))) ∧
    (fnAllowed fn (regOff .ERR_BELAY_QUERY []) s = true → ∃ t, exec (.belayQuery fn idx) s = .next t ∧ Only [.regs] s t ∧
      RegsOnly [(.ERR_BELAY_QUERY, []), (.ERR_BELAY_VALUE, []), (.ERR_BELAY_SIGNALS, [])] s t ∧
      getR .ERR_BELAY_VALUE [] t = devBelay idx.toNat s ∧ getR .ERR_BELAY_SIGNALS [] t = devSince idx.toNat s ∧
      getF F.ERR_BELAY_QUERY_INDEX [] t = idx.toNat))

/-! ## The machine -/

/-- The page table in canonical form, and a scrub under way over a range that is one: with `MemOk` the invariant of
`MemoryStaysCanonical`. -/
def PagesOk (s : State) : Prop := twf 0 s.tables.pages = true ∧ ∀ x, s.tables.scrubbing = some x → x.1 ≤ x.2

/-- The step (log 1). -/
def Obligations.StepRunsTheFrontCommand : Prop :=
  (∀ (c : Instr) (rest : List Instr) (s : State), s.pending = c :: rest → step s = exec c { s with pending := rest }) ∧
  (∀ (s : State), s.pending = [] → ∃ t, step s = .next t ∧ Only [.regs, .ropes, .bc] s t ∧ t.out = s.out ∧ RegsOnly [(.BC_TIME, [])] s t ∧
    timeNow t = (if s.bc.stage ≠ 0 ∧ s.bc.timeHold = 0 then timeNow s + 1 else timeNow s) ∧
    t.bc = { s.bc with timeHold := if s.bc.stage = 0 then s.bc.timeHold else s.bc.timeHold - 1 } ∧
    ∀ r,
      let counts := r < 16 ∧ ropeState r s ≠ RopeSt.none ∧ ropeState r s ≠ RopeSt.suspended
      (¬ counts → tget ({} : Rope) t.ropes r = tget ({} : Rope) s.ropes r) ∧
      (counts → ropeOf r t = { ropeOf r s with cycles := (ropeOf r t).cycles } ∧
        ∀ i d, (ropeClusters r s)[i]? = some d → tget 0 (ropeOf r t).cycles i = tget 0 (ropeOf r s).cycles i +
          if clusterState d s = Cl.running then 1200 - 100 * min (getF F.BC_CLUSTER_STEP [d] s) 9 else 0))

/-- The state after power-on (R11, R445, R474). -/
def Obligations.ResetState : Prop :=
  let s := State.reset
  s.pending = [] ∧ s.out = [] ∧ (∀ r ix, getR r ix s = regReset r ix) ∧ deviceState s = Dv.standby ∧ getF F.BC_STATE_BOOT [] s = 1 ∧
  s.bc.stage = 1 ∧ (∀ r, ropeState r s = RopeSt.none ∧ getF F.CMD_ROPE_STATE_VF [r] s = 31) ∧ (∀ q, clusterState q s = Cl.gated) ∧
  timeNow s = 0 ∧ (∀ i, (tget ({} : Fn) s.fns i).bpmResult = 0xFFFFFFFF) ∧ getF F.ERR_RING_CFG_MIN_CLASS [] s = 2 ∧
  s.msgs.hold = true ∧ s.pcie.numVfs = 0 ∧ MemOk s ∧ PagesOk s

/-- The invariant of memory over every step, over all commands. -/
def Obligations.MemoryStaysCanonical : Prop :=
  ∀ (s : State), MemOk s → PagesOk s →
    ∃ t, step s = .next t ∧ MemOk t ∧ PagesOk t ∧ t.pending = s.pending.tail
end

