-- ==== Sys2Proof/Laws/Tab.lean ====
section
/-! SUPPORT. The laws of sparse tables: read after write, and that writing keeps the canonical form. -/

namespace Sys2Proof.Machine

open Sys2Proof

variable {α : Type}

@[simp] theorem tget_terase_same (d : α) (t : Tab α) (i : Nat) : tget d (terase i t) i = d := by
  induction t with
  | nil => rfl
  | cons e t ih =>
    obtain ⟨j, w⟩ := e
    by_cases h : j = i <;> simp [terase, tget, h, ih]

theorem tget_terase_other (d : α) (t : Tab α) {i j : Nat} (h : j ≠ i) : tget d (terase i t) j = tget d t j := by
  induction t with
  | nil => rfl
  | cons e t ih =>
    obtain ⟨k, w⟩ := e
    by_cases hk : k = i
    · subst hk; simp [terase, tget, ih, Ne.symm h]
    · simp [terase, tget, hk, ih]

@[simp] theorem tget_tput_same (d : α) (t : Tab α) (i : Nat) (v : α) : tget d (tput i v t) i = v := by
  induction t with
  | nil => simp [tput, tget]
  | cons e t ih =>
    obtain ⟨j, w⟩ := e
    by_cases h : i < j
    · simp [tput, tget, h]
    · by_cases hj : j = i
      · simp [tput, tget, hj]
      · simp [tput, tget, h, hj, ih]

theorem tget_tput_other (d : α) (t : Tab α) {i j : Nat} (v : α) (h : j ≠ i) : tget d (tput i v t) j = tget d t j := by
  induction t with
  | nil => simp [tput, tget, Ne.symm h]
  | cons e t ih =>
    obtain ⟨k, w⟩ := e
    by_cases hk : i < k
    · simp [tput, tget, hk, Ne.symm h]
    · by_cases hj : k = i
      · subst hj; simp [tput, tget, Ne.symm h]
      · simp [tput, tget, hk, hj, ih]

variable [DecidableEq α]

@[simp] theorem tget_tset_same (d : α) (t : Tab α) (i : Nat) (v : α) : tget d (tset d t i v) i = v := by
  unfold tset; split <;> simp_all

theorem tget_tset_other (d e : α) (t : Tab α) {i j : Nat} (v : α) (h : j ≠ i) :
    tget e (tset d t i v) j = tget e t j := by
  unfold tset; split
  · exact tget_terase_other e t h
  · exact tget_tput_other e t v h

@[simp] theorem tget_tmod_same (d : α) (t : Tab α) (i : Nat) (f : α → α) : tget d (tmod d t i f) i = f (tget d t i) :=
  tget_tset_same ..

theorem tget_tmod_other (d e : α) (t : Tab α) {i j : Nat} (f : α → α) (h : j ≠ i) :
    tget e (tmod d t i f) j = tget e t j := tget_tset_other _ _ _ _ h

omit [DecidableEq α] in
theorem tget_filter_of (d : α) (p : Nat → Bool) (t : Tab α) {i : Nat} (h : p i = true) :
    tget d (tfilter p t) i = tget d t i := by
  induction t with
  | nil => rfl
  | cons e t ih =>
    obtain ⟨j, w⟩ := e
    unfold tfilter at ih ⊢
    by_cases hj : j = i
    · subst hj; simp [h, tget]
    · by_cases hp : p j = true <;> simp [hp, tget, hj, ih]

/-! The canonical form. -/

/-- Every entry lies above `n` and differs from `d`, indexes rising. -/
def tabove (d : α) (n : Nat) : Tab α → Prop
  | [] => True
  | (j, v) :: t => n ≤ j ∧ v ≠ d ∧ tabove d (j + 1) t

omit [DecidableEq α] in
theorem tabove_mono {d : α} {m n : Nat} {t : Tab α} (h : tabove d n t) (hm : m ≤ n) : tabove d m t := by
  cases t with
  | nil => trivial
  | cons e t => exact ⟨by have := h.1; omega, h.2⟩

theorem twf_cons {d : α} {j : Nat} {v : α} {t : Tab α} (h : twf d ((j, v) :: t) = true) :
    v ≠ d ∧ tabove d (j + 1) t := by
  induction t generalizing j v with
  | nil => exact ⟨by simpa [twf] using h, trivial⟩
  | cons e t ih =>
    obtain ⟨k, w⟩ := e
    simp only [twf, Bool.and_eq_true, decide_eq_true_eq] at h
    obtain ⟨hw, ht⟩ := ih h.2
    exact ⟨h.1.1, by have := h.1.2; omega, hw, ht⟩

theorem twf_iff (d : α) (t : Tab α) : twf d t = true ↔ tabove d 0 t := by
  constructor
  · intro h
    cases t with
    | nil => trivial
    | cons e t => exact ⟨Nat.zero_le _, (twf_cons h).1, (twf_cons h).2⟩
  · suffices ∀ n, tabove d n t → twf d t = true from this 0
    induction t with
    | nil => intros; rfl
    | cons e t ih =>
      obtain ⟨j, v⟩ := e
      intro n h
      obtain ⟨-, hv, ht⟩ := h
      cases t with
      | nil => simp [twf, hv]
      | cons e t =>
        have := ih _ ht
        obtain ⟨k, w⟩ := e
        have hk : j < k := ht.1
        simp [twf, hv, hk, this]

omit [DecidableEq α] in
theorem tabove_terase {d : α} {n : Nat} {t : Tab α} (i : Nat) (h : tabove d n t) : tabove d n (terase i t) := by
  induction t generalizing n with
  | nil => trivial
  | cons e t ih =>
    obtain ⟨j, v⟩ := e
    obtain ⟨hn, hv, ht⟩ := h
    by_cases hj : j = i
    · simp only [terase, hj, if_true]; exact tabove_mono (ih ht) (by omega)
    · simp only [terase, hj, if_false]; exact ⟨hn, hv, ih ht⟩

omit [DecidableEq α] in
theorem tabove_tput {d : α} {n i : Nat} {v : α} {t : Tab α} (hv : v ≠ d) (hi : n ≤ i) (h : tabove d n t) :
    tabove d n (tput i v t) := by
  induction t generalizing n with
  | nil => exact ⟨hi, hv, trivial⟩
  | cons e t ih =>
    obtain ⟨j, w⟩ := e
    obtain ⟨hn, hw, ht⟩ := h
    unfold tput
    split
    · exact ⟨hi, hv, by omega, hw, ht⟩
    · split
      · subst_vars; exact ⟨hi, hv, ht⟩
      · exact ⟨hn, hw, ih (by omega) ht⟩

/-- Writing keeps the canonical form. -/
theorem twf_tset {d : α} {t : Tab α} (i : Nat) (v : α) (h : twf d t = true) : twf d (tset d t i v) = true := by
  rw [twf_iff] at *
  unfold tset; split
  · exact tabove_terase i h
  · exact tabove_tput ‹_› (Nat.zero_le _) h

/-- Erasing keeps the canonical form. -/
theorem twf_terase {d : α} {t : Tab α} (i : Nat) (h : twf d t = true) : twf d (terase i t) = true := by
  rw [twf_iff] at *; exact tabove_terase i h

omit [DecidableEq α] in
theorem tabove_filter {d : α} {n : Nat} {t : Tab α} (p : Nat × α → Bool) (h : tabove d n t) :
    tabove d n (t.filter p) := by
  induction t generalizing n with
  | nil => trivial
  | cons e t ih =>
    obtain ⟨j, v⟩ := e
    obtain ⟨hn, hv, ht⟩ := h
    by_cases hp : p (j, v) = true
    · simp only [List.filter_cons, hp, if_true]; exact ⟨hn, hv, ih ht⟩
    · simp only [List.filter_cons, hp]; exact tabove_mono (ih ht) (by omega)

/-- Dropping entries keeps the canonical form. -/
theorem twf_filter {d : α} {t : Tab α} (p : Nat × α → Bool) (h : twf d t = true) : twf d (t.filter p) = true := by
  rw [twf_iff] at *; exact tabove_filter p h

/-! Strictly rising lists. -/

theorem risingNat_cons {a : Nat} {l : List Nat} : risingNat (a :: l) = true ↔ (∀ b ∈ l, a < b) ∧ risingNat l = true := by
  induction l generalizing a with
  | nil => simp [risingNat]
  | cons b l ih =>
    simp only [risingNat, Bool.and_eq_true, decide_eq_true_eq, ih, List.mem_cons, forall_eq_or_imp]
    constructor
    · rintro ⟨h, hb, hl⟩; exact ⟨⟨h, fun x hx => h.trans (hb x hx)⟩, hb, hl⟩
    · rintro ⟨⟨h, -⟩, hb, hl⟩; exact ⟨h, hb, hl⟩

theorem mem_insertNat {n m : Nat} {l : List Nat} : m ∈ insertNat n l ↔ m = n ∨ m ∈ l := by
  induction l with
  | nil => simp [insertNat]
  | cons a l ih =>
    unfold insertNat
    split
    · simp
    · split
      · subst_vars; simp
      · simp only [List.mem_cons, ih]; tauto

theorem risingNat_insertNat {n : Nat} {l : List Nat} (h : risingNat l = true) : risingNat (insertNat n l) = true := by
  induction l with
  | nil => rfl
  | cons a l ih =>
    obtain ⟨ha, hl⟩ := risingNat_cons.1 h
    unfold insertNat
    split
    · rename_i hlt
      refine risingNat_cons.2 ⟨?_, h⟩
      intro b hb
      rcases List.mem_cons.1 hb with rfl | hb
      · exact hlt
      · exact hlt.trans (ha b hb)
    · split
      · exact h
      · refine risingNat_cons.2 ⟨?_, ih hl⟩
        intro b hb
        rcases mem_insertNat.1 hb with rfl | hb
        · omega
        · exact ha b hb

theorem risingNat_filter {l : List Nat} (p : Nat → Bool) (h : risingNat l = true) : risingNat (l.filter p) = true := by
  induction l with
  | nil => rfl
  | cons a l ih =>
    obtain ⟨ha, hl⟩ := risingNat_cons.1 h
    by_cases hp : p a = true
    · simp only [List.filter_cons, hp, if_true]
      exact risingNat_cons.2 ⟨fun b hb => ha b (List.mem_filter.1 hb).1, ih hl⟩
    · simp only [List.filter_cons, hp]; exact ih hl

end Sys2Proof.Machine
end

