-- ==== Sys2Proof/Laws/Mem.lean ====
section
/-! SUPPORT. The laws of memory: read after write, the rest unchanged, and the canonical form kept by every operation. -/

namespace Sys2Proof.Machine

open Sys2Proof

/-! What the canonical form says. -/

theorem Mem.wf_iff (m : Mem) : m.wf = true ↔
    twf 0 m.cells = true ∧ risingNat m.poison = true ∧ (∀ e ∈ m.cells, e.1 / 16 ∉ m.poison) ∧ twf 0 m.errs = true := by
  simp [Mem.wf, and_assoc]

theorem mem_tput {α : Type} {i : Nat} {v : α} {t : Tab α} {e : Nat × α} (h : e ∈ tput i v t) : e = (i, v) ∨ e ∈ t := by
  induction t with
  | nil => simpa [tput] using h
  | cons a t ih =>
    obtain ⟨j, w⟩ := a
    unfold tput at h
    split at h
    · simpa using h
    · split at h
      · rcases List.mem_cons.1 h with h | h
        · exact .inl h
        · exact .inr (List.mem_cons_of_mem _ h)
      · rcases List.mem_cons.1 h with h | h
        · exact .inr (by simp [h])
        · rcases ih h with h | h
          · exact .inl h
          · exact .inr (List.mem_cons_of_mem _ h)

theorem mem_terase {α : Type} {i : Nat} {t : Tab α} {e : Nat × α} (h : e ∈ terase i t) : e ∈ t := by
  induction t with
  | nil => exact h
  | cons a t ih =>
    obtain ⟨j, w⟩ := a
    unfold terase at h
    split at h
    · exact List.mem_cons_of_mem _ (ih h)
    · rcases List.mem_cons.1 h with h | h
      · simp [h]
      · exact List.mem_cons_of_mem _ (ih h)

theorem mem_tset {α : Type} [DecidableEq α] {d : α} {i : Nat} {v : α} {t : Tab α} {e : Nat × α} (h : e ∈ tset d t i v) :
    e = (i, v) ∨ e ∈ t := by
  unfold tset at h
  split at h
  · exact .inr (mem_terase h)
  · exact mem_tput h

/-! Every operation keeps the canonical form. -/

theorem Mem.wf_setByte {m : Mem} (p : Nat) (b : Byte) (h : m.wf = true) : (m.setByte p b).wf = true := by
  unfold Mem.setByte
  split
  · exact h
  · rename_i hp
    obtain ⟨h1, h2, h3, h4⟩ := (Mem.wf_iff m).1 h
    refine (Mem.wf_iff _).2 ⟨twf_tset p b h1, h2, ?_, h4⟩
    intro e he
    rcases mem_tset he with rfl | he
    · simpa [Mem.poisoned] using hp
    · exact h3 e he

theorem Mem.wf_setBytes {m : Mem} (p : Nat) (bs : List Byte) (h : m.wf = true) : (m.setBytes p bs).wf = true := by
  induction bs generalizing m p with
  | nil => exact h
  | cons b t ih => exact ih _ (Mem.wf_setByte p b h)

theorem Mem.wf_unpoison {m : Mem} (p n : Nat) (h : m.wf = true) : (m.unpoison p n).wf = true := by
  obtain ⟨h1, h2, h3, h4⟩ := (Mem.wf_iff m).1 h
  exact (Mem.wf_iff _).2 ⟨h1, risingNat_filter _ h2, fun e he hm => h3 e he (List.mem_filter.1 hm).1, twf_filter _ h4⟩

theorem Mem.wf_write {m : Mem} (p : Nat) (bs : List Byte) (h : m.wf = true) : (m.write p bs).wf = true :=
  Mem.wf_setBytes _ _ (Mem.wf_unpoison _ _ h)

theorem Mem.wf_clear {m : Mem} (p n : Nat) (h : m.wf = true) : (m.clear p n).wf = true := by
  obtain ⟨h1, h2, h3, h4⟩ := (Mem.wf_iff _).1 (Mem.wf_unpoison p n h)
  exact (Mem.wf_iff _).2 ⟨twf_filter _ h1, h2, fun e he => h3 e (List.mem_filter.1 he).1, h4⟩

theorem Mem.wf_setPoison {m : Mem} (p : Nat) (h : m.wf = true) : (m.setPoison p).wf = true := by
  obtain ⟨h1, h2, h3, h4⟩ := (Mem.wf_iff m).1 h
  refine (Mem.wf_iff _).2 ⟨twf_filter _ h1, risingNat_insertNat h2, ?_, twf_terase _ h4⟩
  intro e he hm
  obtain ⟨he, hp⟩ := List.mem_filter.1 he
  rcases mem_insertNat.1 hm with h | h
  · simp [h] at hp
  · exact h3 e he h

theorem Mem.wf_poisonRange {m : Mem} (k p n : Nat) (h : m.wf = true) : (Mem.poisonRange k m p n).wf = true := by
  induction k generalizing m p n with
  | zero => exact h
  | succ k ih =>
    unfold Mem.poisonRange
    split
    · exact h
    · exact ih _ _ (Mem.wf_setPoison p h)

theorem Mem.wf_empty : ({} : Mem).wf = true := rfl

/-! Read after write. -/

@[simp] theorem Mem.byte_setByte_same (m : Mem) (p : Nat) (b : Byte) (h : m.poisoned p = false) :
    (m.setByte p b).byte p = b := by
  simp [Mem.setByte, Mem.byte, h]

theorem Mem.byte_setByte_other (m : Mem) {p q : Nat} (b : Byte) (h : q ≠ p) : (m.setByte p b).byte q = m.byte q := by
  unfold Mem.setByte
  split
  · rfl
  · exact tget_tset_other _ _ _ _ h

@[simp] theorem Mem.poison_setByte (m : Mem) (p : Nat) (b : Byte) : (m.setByte p b).poison = m.poison := by
  unfold Mem.setByte; split <;> rfl

@[simp] theorem Mem.poison_setBytes (m : Mem) (p : Nat) (bs : List Byte) : (m.setBytes p bs).poison = m.poison := by
  induction bs generalizing m p with
  | nil => rfl
  | cons b t ih => simp [Mem.setBytes, ih]

/-- A byte outside the written ones reads as before. -/
theorem Mem.byte_setBytes_other (m : Mem) (p q : Nat) (bs : List Byte) (h : q < p ∨ p + bs.length ≤ q) :
    (m.setBytes p bs).byte q = m.byte q := by
  induction bs generalizing m p with
  | nil => rfl
  | cons b t ih =>
    simp only [List.length_cons] at h
    rw [Mem.setBytes, ih _ _ (by omega), Mem.byte_setByte_other _ _ (by omega)]

/-- A written byte of a word that is not poisoned reads as written. -/
theorem Mem.byte_setBytes_same (m : Mem) (p i : Nat) (bs : List Byte) (hi : i < bs.length)
    (h : m.poisoned (p + i) = false) : (m.setBytes p bs).byte (p + i) = bs[i] := by
  induction bs generalizing m p i with
  | nil => simp at hi
  | cons b t ih =>
    cases i with
    | zero =>
      rw [Mem.setBytes, Mem.byte_setBytes_other _ _ _ _ (by omega)]
      simpa using Mem.byte_setByte_same m p b h
    | succ i =>
      have := ih (m.setByte p b) (p + 1) i (by simpa using hi)
        (by simpa [Mem.poisoned, Nat.add_assoc, Nat.add_comm 1] using h)
      simpa [Mem.setBytes, Nat.add_assoc, Nat.add_comm 1] using this

theorem Mem.byte_unpoison (m : Mem) (p n q : Nat) : (m.unpoison p n).byte q = m.byte q := rfl

theorem Mem.byte_write_other (m : Mem) (p q : Nat) (bs : List Byte) (h : q < p ∨ p + bs.length ≤ q) :
    (m.write p bs).byte q = m.byte q := by
  rw [Mem.write, Mem.byte_setBytes_other _ _ _ _ h]; rfl

theorem Mem.poisoned_unpoison {m : Mem} {p n q : Nat} (h : m.poisoned q = false) : (m.unpoison p n).poisoned q = false := by
  simp only [Mem.poisoned, Mem.unpoison, List.contains_eq_mem, decide_eq_false_iff_not, List.mem_filter, not_and] at *
  exact fun hm => absurd hm h

theorem Mem.byte_write_same (m : Mem) (p i : Nat) (bs : List Byte) (hi : i < bs.length)
    (h : m.poisoned (p + i) = false) : (m.write p bs).byte (p + i) = bs[i] :=
  Mem.byte_setBytes_same _ _ _ _ hi (Mem.poisoned_unpoison h)

/-! The operations on the state. -/

@[simp] theorem memWrite_mem (p : Nat) (bs : List Byte) (s : State) : (memWrite p bs s).mem = s.mem.write p bs := rfl

@[simp] theorem hostWrite_mem (a : Nat) (bs : List Byte) (s : State) : (hostWrite a bs s).mem = s.mem.write (hostPlace a) bs :=
  rfl

end Sys2Proof.Machine
end

