-- ==== Sys2Proof/Laws/PerInstr.lean ====
section
/-! SUPPORT. Per-instruction laws of the syntax: the family Wf says that a well-formed command names only units the device has. -/

namespace Sys2Proof.Laws.Wf

open Sys2Proof

/-- A virtual function that a requester names, with how many there are (R485). -/
def requesterUnits : Requester → List (Nat × Nat)
  | .vf v => [(v, 16)]
  | _ => []

/-- A command queue that a source names (R383). -/
def srcUnits : CmdSrc → List (Nat × Nat)
  | .window q => [(q, 64)]
  | .instr => []

/-- What a client of the buffer pools names (R377). -/
def clientUnits : BpmClient → List (Nat × Nat)
  | .xe d => [(d, 8)]
  | .fn f => requesterUnits f

/-- The units a command names, each with how many of its kind the device has (R16, R17, R97, R118, R213, R372, R383). -/
def unitsNamed : Instr → List (Nat × Nat)
  | .registerWrite fn _ _ _ => requesterUnits fn
  | .latchedSetCapture fn _ _ => requesterUnits fn
  | .nop core => [(core, 512)]
  | .alu core => [(core, 512)]
  | .addi core => [(core, 512)]
  | .andi core => [(core, 512)]
  | .ori core => [(core, 512)]
  | .xori core => [(core, 512)]
  | .shli core => [(core, 512)]
  | .shrli core => [(core, 512)]
  | .shrai core => [(core, 512)]
  | .muli core => [(core, 512)]
  | .ins16 core => [(core, 512)]
  | .li core => [(core, 512)]
  | .cmp core => [(core, 512)]
  | .plog core => [(core, 512)]
  | .ld8u core => [(core, 512)]
  | .ld16u core => [(core, 512)]
  | .ld32u core => [(core, 512)]
  | .ld64 core => [(core, 512)]
  | .ld8s core => [(core, 512)]
  | .ld16s core => [(core, 512)]
  | .ld32s core => [(core, 512)]
  | .st8 core => [(core, 512)]
  | .st16 core => [(core, 512)]
  | .st32 core => [(core, 512)]
  | .st64 core => [(core, 512)]
  | .br core => [(core, 512)]
  | .call core => [(core, 512)]
  | .jmpr core => [(core, 512)]
  | .endProgram core => [(core, 512)]
  | .icinv core => [(core, 512)]
  | .mfc core => [(core, 512)]
  | .mtc core => [(core, 512)]
  | .wait core => [(core, 512)]
  | .signal core => [(core, 512)]
  | .brd core => [(core, 512)]
  | .tld core => [(core, 512)]
  | .tst core => [(core, 512)]
  | .tset core => [(core, 512)]
  | .tget core => [(core, 512)]
  | .tadd core => [(core, 512)]
  | .engineInstructionIssue core => [(core, 512)]
  | .queueCommandIssue core => [(core, 512)]
  | .mclr core => [(core, 512)]
  | .mld core => [(core, 512)]
  | .mma core => [(core, 512)]
  | .mma24 core => [(core, 512)]
  | .mma14 core => [(core, 512)]
  | .mst core => [(core, 512)]
  | .mstc core => [(core, 512)]
  | .vadd core => [(core, 512)]
  | .vsub core => [(core, 512)]
  | .vmul core => [(core, 512)]
  | .vfma core => [(core, 512)]
  | .vdiv core => [(core, 512)]
  | .vmax core => [(core, 512)]
  | .vmin core => [(core, 512)]
  | .vabs core => [(core, 512)]
  | .vneg core => [(core, 512)]
  | .vsqrt core => [(core, 512)]
  | .vrsqrt core => [(core, 512)]
  | .vexp core => [(core, 512)]
  | .vlog core => [(core, 512)]
  | .vtanh core => [(core, 512)]
  | .vsigm core => [(core, 512)]
  | .vsilu core => [(core, 512)]
  | .vgelu core => [(core, 512)]
  | .vmuls core => [(core, 512)]
  | .vrsum core => [(core, 512)]
  | .vrmax core => [(core, 512)]
  | .vrmin core => [(core, 512)]
  | .vcvt core => [(core, 512)]
  | .vatadd core => [(core, 512)]
  | .vatmax core => [(core, 512)]
  | .minter core => [(core, 512)]
  | .munion core => [(core, 512)]
  | .mgroup core => [(core, 512)]
  | .dmove core => [(core, 512)]
  | .dcomp core => [(core, 512)]
  | .dilist core => [(core, 512)]
  | .dfill core => [(core, 512)]
  | .dhist core => [(core, 512)]
  | .route die => [(die, 8)]
  | .routeF die => [(die, 8)]
  | .exchange die => [(die, 8)]
  | .cancelBatch die => [(die, 8)]
  | .xcountReceive die => [(die, 8)]
  | .earlyCellExpire die _ => [(die, 8)]
  | .grantPhase die _ => [(die, 8)]
  | .xgrantReceive die => [(die, 8)]
  | .xcancelReceive die => [(die, 8)]
  | .bulkMessageSend die => [(die, 8)]
  | .returnMessageSend die _ => [(die, 8)]
  | .exchangeTimeout die _ => [(die, 8)]
  | .exchangeComplete die _ => [(die, 8)]
  | .portEnable fn port => requesterUnits fn ++ [(port, 16)]
  | .portDisable fn port => requesterUnits fn ++ [(port, 16)]
  | .trainingComplete port _ _ _ _ => [(port, 16)]
  | .trainingAttemptTimeout attempt => [(attempt.port, 16)]
  | .trainingPassRestart port => [(port, 16)]
  | .downHoldoffExpire port => [(port, 16)]
  | .plannedRetrain fn port => requesterUnits fn ++ [(port, 16)]
  | .retrainReq port _ _ => [(port, 16)]
  | .retrainAck port => [(port, 16)]
  | .retrainComplete port => [(port, 16)]
  | .retrainTimeout port => [(port, 16)]
  | .laneDrop port lane => [(port, 16), (lane, 4)]
  | .flitReceive port _ _ => [(port, 16)]
  | .nakRepeat port => [(port, 16)]
  | .nakReceive port _ => [(port, 16)]
  | .replayTimerExpire port => [(port, 16)]
  | .lossOfSignal port => [(port, 16)]
  | .downNoticeReceive port _ => [(port, 16)]
  | .linkPacketReceive port => [(port, 16)]
  | .switchAdmit inp vc => [(inp, 43), (vc, 6)]
  | .outputSchedule out => [(out, 43)]
  | .calendarSlotStart port => [(port, 16)]
  | .congestionSample => []
  | .recoveryEnd => []
  | .peakClear fn out => requesterUnits fn ++ [(out, 27)]
  | .geometryWrite fn _ => requesterUnits fn
  | .ringNoticeReceive => []
  | .ringNoticeRepeat _ => []
  | .pathEpochBump fn => requesterUnits fn
  | .messageStart => []
  | .packetArrive _ => []
  | .mackReceive => []
  | .messageTimeout _ cred => [(cred, 16)]
  | .cackReceive => []
  | .cellTimeout _ _ _ => []
  | .msgEntryExpire _ cred => [(cred, 16)]
  | .trafficHoldExpire => []
  | .unreachableClear fn _ => requesterUnits fn
  | .planFlip plan => [(plan, 64)]
  | .slotDrainComplete port slot => [(port, 16), (slot, 256)]
  | .collectiveStart chan => [(chan, 16)]
  | .collStepSend chan level sub _ _ _ => [(chan, 16), (level, 4), (sub, 4)]
  | .collMessageProcess port => [(port, 16)]
  | .colCreditReceive port => [(port, 16)]
  | .colAbortReceive port => [(port, 16)]
  | .collWatchdogExpire chan level sub _ => [(chan, 16), (level, 4), (sub, 4)]
  | .collComplete chan => [(chan, 16)]
  | .channelOwn fn chan owner => requesterUnits fn ++ [(chan, 16), (owner, 16)]
  | .channelAbort fn chan => requesterUnits fn ++ [(chan, 16)]
  | .commandWindowWrite fn _ _ => requesterUnits fn
  | .mirrorWrite q => [(q, 64)]
  | .queueEnable fn q => requesterUnits fn ++ [(q, 64)]
  | .queueDisable fn q => requesterUnits fn ++ [(q, 64)]
  | .nopCommand src => srcUnits src
  | .ropeCreate src => srcUnits src
  | .ropeStart src => srcUnits src
  | .ropeSuspend src => srcUnits src
  | .suspendSave rope => [(rope, 16)]
  | .ropeResume src => srcUnits src
  | .resumeComplete rope => [(rope, 16)]
  | .ropeReset src => srcUnits src
  | .ropeDestroy src => srcUnits src
  | .tableWrite src => srcUnits src
  | .tableWriteDeferred => []
  | .tableCommit src => srcUnits src
  | .copyBackComplete _ => []
  | .collective src => srcUnits src
  | .collAbort src => srcUnits src
  | .stepMark src => srcUnits src
  | .stepBoundary rope => [(rope, 16)]
  | .composeCfg src => srcUnits src
  | .seqAdd src => srcUnits src
  | .seqCancel src => srcUnits src
  | .composerStep rope => [(rope, 16)]
  | .programComplete rope => [(rope, 16)]
  | .ddr5ChannelTrained ch _ _ => [(ch, 24)]
  | .patrolScrubRead m _ word => [(m, 2), (word, 2 ^ 63)]
  | .pageCommand fn _ => requesterUnits fn
  | .pageScrubComplete => []
  | .scheduleWrite fn rope _ => requesterUnits fn ++ [(rope, 16)]
  | .prefetchDemand die _ => [(die, 8)]
  | .prefetchPieceIssue die => [(die, 8)]
  | .speculativeFill die => [(die, 8)]
  | .pieceLand die _ => [(die, 8)]
  | .lendWindowOpen fn win => requesterUnits fn ++ [(win, 16)]
  | .lendWindowClose fn win => requesterUnits fn ++ [(win, 16)]
  | .mreadReceive m => [(m, 2)]
  | .bpmAllocate who pool => clientUnits who ++ [(pool, 64)]
  | .bpmFree who _ => clientUnits who
  | .bpmHandOff who _ _ => clientUnits who
  | .bpmRefill pool => [(pool, 64)]
  | .poolEnable fn pool => requesterUnits fn ++ [(pool, 64)]
  | .poolInitComplete pool => [(pool, 64)]
  | .poolDisable fn pool => requesterUnits fn ++ [(pool, 64)]
  | .poolReclaim fn pool => requesterUnits fn ++ [(pool, 64)]
  | .sealRequest fn _ => requesterUnits fn
  | .sealRun => []
  | .sealComplete => []
  | .lockstepArm fn rope => requesterUnits fn ++ [(rope, 16)]
  | .lockstepDisarm fn rope => requesterUnits fn ++ [(rope, 16)]
  | .lockstepRelease fn rope => requesterUnits fn ++ [(rope, 16)]
  | .checkpointDigestDone rope => [(rope, 16)]
  | .lockstepInboxWrite fn rope idx _ => requesterUnits fn ++ [(rope, 16), (idx, 32)]
  | .deviceWakeActive => []
  | .deviceIdleTimeout => []
  | .standbyEnter fn => requesterUnits fn
  | .standbyExit fn => requesterUnits fn
  | .holdRelease fn => requesterUnits fn
  | .clusterIdleTimeout cluster => [(cluster, 64)]
  | .powerSample _ _ _ => []
  | .powerDecision => []
  | .thermalSample _ _ _ _ => []
  | .hotSwapOpen => []
  | .inputLoss => []
  | .insertion _ => []
  | .bootRomStart _ _ => []
  | .vuolaStart => []
  | .orderlyRemoval fn => requesterUnits fn
  | .hotplugAttentionRequest => []
  | .removalComplete => []
  | .quoteRequest fn _ => requesterUnits fn
  | .quoteComplete => []
  | .mctpControl _ => []
  | .pldmBase _ => []
  | .pldmFwTransfer _ _ _ => []
  | .pldmFwVerify => []
  | .pldmFwActivate => []
  | .getCert _ _ => []
  | .getQuote _ _ => []
  | .setManagers _ => []
  | .kemInit => []
  | .mop => []
  | .sessionExpire session => [(session, 4)]
  | .syncReceive => []
  | .syncTimeout => []
  | .eventRingEnable fn => requesterUnits fn
  | .moderationExpire => []
  | .belayQuery fn _ => requesterUnits fn
  | .computeReset fn _ => requesterUnits fn
  | .vuolaComputeReset _ => []
  | .deviceReset fn => requesterUnits fn
  | .basecampReset fn => requesterUnits fn
  | .pfFunctionLevelReset => []
  | .vfFunctionLevelReset vf => [(vf, 16)]
  | .pcieHotReset => []
  | .perstAssert => []
  | .watchdogExpire _ => []
  | .numvfsLower _ => []
  | .pwrDisAssert => []
  | .pwrDisDeassert => []
  | .flashExtAssert => []
  | .flashExtDeassert => []
  | .bar4Read _ _ => []
  | .bar4Write _ _ _ => []
  | .perstDeassert _ _ => []
  | .inputRestored => []
  | .numvfsRaise _ => []
  | .bar4Resize _ => []

/-- A well-formed command names no unit that the device does not have. -/
def Statement (i : Instr) : Prop := i.wf = true → ∀ u ∈ unitsNamed i, u.1 < u.2

theorem requester_units {f : Requester} (h : f.wf = true) : ∀ u ∈ requesterUnits f, u.1 < u.2 := by
  cases f <;> simp_all [Requester.wf, requesterUnits]

theorem src_units {f : CmdSrc} (h : f.wf = true) : ∀ u ∈ srcUnits f, u.1 < u.2 := by
  cases f <;> simp_all [CmdSrc.wf, srcUnits]

theorem nil_units : ∀ u ∈ ([] : List (Nat × Nat)), u.1 < u.2 := fun _ h => nomatch h

theorem cons_units {n k : Nat} {l : List (Nat × Nat)} (h : n < k) (hl : ∀ u ∈ l, u.1 < u.2) : ∀ u ∈ (n, k) :: l, u.1 < u.2 := by
  intro u hu
  cases hu with
  | head => exact h
  | tail _ hu => exact hl u hu

theorem append_units {l m : List (Nat × Nat)} (hl : ∀ u ∈ l, u.1 < u.2) (hm : ∀ u ∈ m, u.1 < u.2) : ∀ u ∈ l ++ m, u.1 < u.2 :=
  fun u hu => (List.mem_append.mp hu).elim (hl u) (hm u)

theorem left {a b : Bool} (h : (a && b) = true) : a = true := (Bool.and_eq_true_iff.mp h).1

theorem right {a b : Bool} (h : (a && b) = true) : b = true := (Bool.and_eq_true_iff.mp h).2

theorem client_units {f : BpmClient} (h : f.wf = true) : ∀ u ∈ clientUnits f, u.1 < u.2 := by
  cases f with
  | xe d => simp_all [BpmClient.wf, clientUnits]
  | fn g => exact requester_units h

theorem registerWrite (fn : Requester) (off : Nat) (size : Nat) (data : BitVec 64) : Statement (.registerWrite fn off size data) := fun h => requester_units h

theorem latchedSetCapture (fn : Requester) (addr : HostAddr) (size : Nat) : Statement (.latchedSetCapture fn addr size) := fun h => requester_units h

theorem nop (core : Nat) : Statement (.nop core) := fun h => cons_units (of_decide_eq_true h) nil_units

theorem alu (core : Nat) : Statement (.alu core) := fun h => cons_units (of_decide_eq_true h) nil_units

theorem addi (core : Nat) : Statement (.addi core) := fun h => cons_units (of_decide_eq_true h) nil_units

theorem andi (core : Nat) : Statement (.andi core) := fun h => cons_units (of_decide_eq_true h) nil_units

theorem ori (core : Nat) : Statement (.ori core) := fun h => cons_units (of_decide_eq_true h) nil_units

theorem xori (core : Nat) : Statement (.xori core) := fun h => cons_units (of_decide_eq_true h) nil_units

theorem shli (core : Nat) : Statement (.shli core) := fun h => cons_units (of_decide_eq_true h) nil_units

theorem shrli (core : Nat) : Statement (.shrli core) := fun h => cons_units (of_decide_eq_true h) nil_units

theorem shrai (core : Nat) : Statement (.shrai core) := fun h => cons_units (of_decide_eq_true h) nil_units

theorem muli (core : Nat) : Statement (.muli core) := fun h => cons_units (of_decide_eq_true h) nil_units

theorem ins16 (core : Nat) : Statement (.ins16 core) := fun h => cons_units (of_decide_eq_true h) nil_units

theorem li (core : Nat) : Statement (.li core) := fun h => cons_units (of_decide_eq_true h) nil_units

theorem cmp (core : Nat) : Statement (.cmp core) := fun h => cons_units (of_decide_eq_true h) nil_units

theorem plog (core : Nat) : Statement (.plog core) := fun h => cons_units (of_decide_eq_true h) nil_units

theorem ld8u (core : Nat) : Statement (.ld8u core) := fun h => cons_units (of_decide_eq_true h) nil_units

theorem ld16u (core : Nat) : Statement (.ld16u core) := fun h => cons_units (of_decide_eq_true h) nil_units

theorem ld32u (core : Nat) : Statement (.ld32u core) := fun h => cons_units (of_decide_eq_true h) nil_units

theorem ld64 (core : Nat) : Statement (.ld64 core) := fun h => cons_units (of_decide_eq_true h) nil_units

theorem ld8s (core : Nat) : Statement (.ld8s core) := fun h => cons_units (of_decide_eq_true h) nil_units

theorem ld16s (core : Nat) : Statement (.ld16s core) := fun h => cons_units (of_decide_eq_true h) nil_units

theorem ld32s (core : Nat) : Statement (.ld32s core) := fun h => cons_units (of_decide_eq_true h) nil_units

theorem st8 (core : Nat) : Statement (.st8 core) := fun h => cons_units (of_decide_eq_true h) nil_units

theorem st16 (core : Nat) : Statement (.st16 core) := fun h => cons_units (of_decide_eq_true h) nil_units

theorem st32 (core : Nat) : Statement (.st32 core) := fun h => cons_units (of_decide_eq_true h) nil_units

theorem st64 (core : Nat) : Statement (.st64 core) := fun h => cons_units (of_decide_eq_true h) nil_units

theorem br (core : Nat) : Statement (.br core) := fun h => cons_units (of_decide_eq_true h) nil_units

theorem call (core : Nat) : Statement (.call core) := fun h => cons_units (of_decide_eq_true h) nil_units

theorem jmpr (core : Nat) : Statement (.jmpr core) := fun h => cons_units (of_decide_eq_true h) nil_units

theorem endProgram (core : Nat) : Statement (.endProgram core) := fun h => cons_units (of_decide_eq_true h) nil_units

theorem icinv (core : Nat) : Statement (.icinv core) := fun h => cons_units (of_decide_eq_true h) nil_units

theorem mfc (core : Nat) : Statement (.mfc core) := fun h => cons_units (of_decide_eq_true h) nil_units

theorem mtc (core : Nat) : Statement (.mtc core) := fun h => cons_units (of_decide_eq_true h) nil_units

theorem wait (core : Nat) : Statement (.wait core) := fun h => cons_units (of_decide_eq_true h) nil_units

theorem signal (core : Nat) : Statement (.signal core) := fun h => cons_units (of_decide_eq_true h) nil_units

theorem brd (core : Nat) : Statement (.brd core) := fun h => cons_units (of_decide_eq_true h) nil_units

theorem tld (core : Nat) : Statement (.tld core) := fun h => cons_units (of_decide_eq_true h) nil_units

theorem tst (core : Nat) : Statement (.tst core) := fun h => cons_units (of_decide_eq_true h) nil_units

theorem tset (core : Nat) : Statement (.tset core) := fun h => cons_units (of_decide_eq_true h) nil_units

theorem tget (core : Nat) : Statement (.tget core) := fun h => cons_units (of_decide_eq_true h) nil_units

theorem tadd (core : Nat) : Statement (.tadd core) := fun h => cons_units (of_decide_eq_true h) nil_units

theorem engineInstructionIssue (core : Nat) : Statement (.engineInstructionIssue core) := fun h => cons_units (of_decide_eq_true h) nil_units

theorem queueCommandIssue (core : Nat) : Statement (.queueCommandIssue core) := fun h => cons_units (of_decide_eq_true h) nil_units

theorem mclr (core : Nat) : Statement (.mclr core) := fun h => cons_units (of_decide_eq_true h) nil_units

theorem mld (core : Nat) : Statement (.mld core) := fun h => cons_units (of_decide_eq_true h) nil_units

theorem mma (core : Nat) : Statement (.mma core) := fun h => cons_units (of_decide_eq_true h) nil_units

theorem mma24 (core : Nat) : Statement (.mma24 core) := fun h => cons_units (of_decide_eq_true h) nil_units

theorem mma14 (core : Nat) : Statement (.mma14 core) := fun h => cons_units (of_decide_eq_true h) nil_units

theorem mst (core : Nat) : Statement (.mst core) := fun h => cons_units (of_decide_eq_true h) nil_units

theorem mstc (core : Nat) : Statement (.mstc core) := fun h => cons_units (of_decide_eq_true h) nil_units

theorem vadd (core : Nat) : Statement (.vadd core) := fun h => cons_units (of_decide_eq_true h) nil_units

theorem vsub (core : Nat) : Statement (.vsub core) := fun h => cons_units (of_decide_eq_true h) nil_units

theorem vmul (core : Nat) : Statement (.vmul core) := fun h => cons_units (of_decide_eq_true h) nil_units

theorem vfma (core : Nat) : Statement (.vfma core) := fun h => cons_units (of_decide_eq_true h) nil_units

theorem vdiv (core : Nat) : Statement (.vdiv core) := fun h => cons_units (of_decide_eq_true h) nil_units

theorem vmax (core : Nat) : Statement (.vmax core) := fun h => cons_units (of_decide_eq_true h) nil_units

theorem vmin (core : Nat) : Statement (.vmin core) := fun h => cons_units (of_decide_eq_true h) nil_units

theorem vabs (core : Nat) : Statement (.vabs core) := fun h => cons_units (of_decide_eq_true h) nil_units

theorem vneg (core : Nat) : Statement (.vneg core) := fun h => cons_units (of_decide_eq_true h) nil_units

theorem vsqrt (core : Nat) : Statement (.vsqrt core) := fun h => cons_units (of_decide_eq_true h) nil_units

theorem vrsqrt (core : Nat) : Statement (.vrsqrt core) := fun h => cons_units (of_decide_eq_true h) nil_units

theorem vexp (core : Nat) : Statement (.vexp core) := fun h => cons_units (of_decide_eq_true h) nil_units

theorem vlog (core : Nat) : Statement (.vlog core) := fun h => cons_units (of_decide_eq_true h) nil_units

theorem vtanh (core : Nat) : Statement (.vtanh core) := fun h => cons_units (of_decide_eq_true h) nil_units

theorem vsigm (core : Nat) : Statement (.vsigm core) := fun h => cons_units (of_decide_eq_true h) nil_units

theorem vsilu (core : Nat) : Statement (.vsilu core) := fun h => cons_units (of_decide_eq_true h) nil_units

theorem vgelu (core : Nat) : Statement (.vgelu core) := fun h => cons_units (of_decide_eq_true h) nil_units

theorem vmuls (core : Nat) : Statement (.vmuls core) := fun h => cons_units (of_decide_eq_true h) nil_units

theorem vrsum (core : Nat) : Statement (.vrsum core) := fun h => cons_units (of_decide_eq_true h) nil_units

theorem vrmax (core : Nat) : Statement (.vrmax core) := fun h => cons_units (of_decide_eq_true h) nil_units

theorem vrmin (core : Nat) : Statement (.vrmin core) := fun h => cons_units (of_decide_eq_true h) nil_units

theorem vcvt (core : Nat) : Statement (.vcvt core) := fun h => cons_units (of_decide_eq_true h) nil_units

theorem vatadd (core : Nat) : Statement (.vatadd core) := fun h => cons_units (of_decide_eq_true h) nil_units

theorem vatmax (core : Nat) : Statement (.vatmax core) := fun h => cons_units (of_decide_eq_true h) nil_units

theorem minter (core : Nat) : Statement (.minter core) := fun h => cons_units (of_decide_eq_true h) nil_units

theorem munion (core : Nat) : Statement (.munion core) := fun h => cons_units (of_decide_eq_true h) nil_units

theorem mgroup (core : Nat) : Statement (.mgroup core) := fun h => cons_units (of_decide_eq_true h) nil_units

theorem dmove (core : Nat) : Statement (.dmove core) := fun h => cons_units (of_decide_eq_true h) nil_units

theorem dcomp (core : Nat) : Statement (.dcomp core) := fun h => cons_units (of_decide_eq_true h) nil_units

theorem dilist (core : Nat) : Statement (.dilist core) := fun h => cons_units (of_decide_eq_true h) nil_units

theorem dfill (core : Nat) : Statement (.dfill core) := fun h => cons_units (of_decide_eq_true h) nil_units

theorem dhist (core : Nat) : Statement (.dhist core) := fun h => cons_units (of_decide_eq_true h) nil_units

theorem route (die : Nat) : Statement (.route die) := fun h => cons_units (of_decide_eq_true h) nil_units

theorem routeF (die : Nat) : Statement (.routeF die) := fun h => cons_units (of_decide_eq_true h) nil_units

theorem exchange (die : Nat) : Statement (.exchange die) := fun h => cons_units (of_decide_eq_true h) nil_units

theorem cancelBatch (die : Nat) : Statement (.cancelBatch die) := fun h => cons_units (of_decide_eq_true h) nil_units

theorem xcountReceive (die : Nat) : Statement (.xcountReceive die) := fun h => cons_units (of_decide_eq_true h) nil_units

theorem earlyCellExpire (die : Nat) (idx : Nat) : Statement (.earlyCellExpire die idx) := fun h => cons_units (of_decide_eq_true h) nil_units

theorem grantPhase (die : Nat) (tag : BitVec 32) : Statement (.grantPhase die tag) := fun h => cons_units (of_decide_eq_true h) nil_units

theorem xgrantReceive (die : Nat) : Statement (.xgrantReceive die) := fun h => cons_units (of_decide_eq_true h) nil_units

theorem xcancelReceive (die : Nat) : Statement (.xcancelReceive die) := fun h => cons_units (of_decide_eq_true h) nil_units

theorem bulkMessageSend (die : Nat) : Statement (.bulkMessageSend die) := fun h => cons_units (of_decide_eq_true h) nil_units

theorem returnMessageSend (die : Nat) (pos : BitVec 32) : Statement (.returnMessageSend die pos) := fun h => cons_units (of_decide_eq_true h) nil_units

theorem exchangeTimeout (die : Nat) (tag : BitVec 32) : Statement (.exchangeTimeout die tag) := fun h => cons_units (of_decide_eq_true h) nil_units

theorem exchangeComplete (die : Nat) (tag : BitVec 32) : Statement (.exchangeComplete die tag) := fun h => cons_units (of_decide_eq_true h) nil_units

theorem portEnable (fn : Requester) (port : Nat) : Statement (.portEnable fn port) := fun h => append_units (requester_units (left h)) (cons_units (of_decide_eq_true (right h)) nil_units)

theorem portDisable (fn : Requester) (port : Nat) : Statement (.portDisable fn port) := fun h => append_units (requester_units (left h)) (cons_units (of_decide_eq_true (right h)) nil_units)

theorem trainingComplete (port : Nat) (cable : BitVec 3) (lanes : BitVec 4) (params : List (BitVec 8)) (delay : Nat) : Statement (.trainingComplete port cable lanes params delay) := fun h => cons_units (of_decide_eq_true (left h)) nil_units

theorem trainingAttemptTimeout (attempt : Attempt) : Statement (.trainingAttemptTimeout attempt) := fun h => cons_units (of_decide_eq_true h) nil_units

theorem trainingPassRestart (port : Nat) : Statement (.trainingPassRestart port) := fun h => cons_units (of_decide_eq_true h) nil_units

theorem downHoldoffExpire (port : Nat) : Statement (.downHoldoffExpire port) := fun h => cons_units (of_decide_eq_true h) nil_units

theorem plannedRetrain (fn : Requester) (port : Nat) : Statement (.plannedRetrain fn port) := fun h => append_units (requester_units (left h)) (cons_units (of_decide_eq_true (right h)) nil_units)

theorem retrainReq (port : Nat) (kind : Nat) (width : Nat) : Statement (.retrainReq port kind width) := fun h => cons_units (of_decide_eq_true h) nil_units

theorem retrainAck (port : Nat) : Statement (.retrainAck port) := fun h => cons_units (of_decide_eq_true h) nil_units

theorem retrainComplete (port : Nat) : Statement (.retrainComplete port) := fun h => cons_units (of_decide_eq_true h) nil_units

theorem retrainTimeout (port : Nat) : Statement (.retrainTimeout port) := fun h => cons_units (of_decide_eq_true h) nil_units

theorem laneDrop (port : Nat) (lane : Nat) : Statement (.laneDrop port lane) := fun h => cons_units (of_decide_eq_true (left h)) (cons_units (of_decide_eq_true (right h)) nil_units)

theorem flitReceive (port : Nat) (lanes : List (List (BitVec 8))) (fec : List (Nat × Bool)) : Statement (.flitReceive port lanes fec) := fun h => cons_units (of_decide_eq_true (left h)) nil_units

theorem nakRepeat (port : Nat) : Statement (.nakRepeat port) := fun h => cons_units (of_decide_eq_true h) nil_units

theorem nakReceive (port : Nat) (ack : BitVec 12) : Statement (.nakReceive port ack) := fun h => cons_units (of_decide_eq_true h) nil_units

theorem replayTimerExpire (port : Nat) : Statement (.replayTimerExpire port) := fun h => cons_units (of_decide_eq_true h) nil_units

theorem lossOfSignal (port : Nat) : Statement (.lossOfSignal port) := fun h => cons_units (of_decide_eq_true h) nil_units

theorem downNoticeReceive (port : Nat) (cause : Nat) : Statement (.downNoticeReceive port cause) := fun h => cons_units (of_decide_eq_true h) nil_units

theorem linkPacketReceive (port : Nat) : Statement (.linkPacketReceive port) := fun h => cons_units (of_decide_eq_true h) nil_units

theorem switchAdmit (inp : Nat) (vc : Nat) : Statement (.switchAdmit inp vc) := fun h => cons_units (of_decide_eq_true (left h)) (cons_units (of_decide_eq_true (right h)) nil_units)

theorem outputSchedule (out : Nat) : Statement (.outputSchedule out) := fun h => cons_units (of_decide_eq_true h) nil_units

theorem calendarSlotStart (port : Nat) : Statement (.calendarSlotStart port) := fun h => cons_units (of_decide_eq_true h) nil_units

theorem congestionSample : Statement (.congestionSample) := fun _ => nil_units

theorem recoveryEnd : Statement (.recoveryEnd) := fun _ => nil_units

theorem peakClear (fn : Requester) (out : Nat) : Statement (.peakClear fn out) := fun h => append_units (requester_units (left h)) (cons_units (of_decide_eq_true (right h)) nil_units)

theorem geometryWrite (fn : Requester) (value : BitVec 64) : Statement (.geometryWrite fn value) := fun h => requester_units h

theorem ringNoticeReceive : Statement (.ringNoticeReceive) := fun _ => nil_units

theorem ringNoticeRepeat (idx : Nat) : Statement (.ringNoticeRepeat idx) := fun _ => nil_units

theorem pathEpochBump (fn : Requester) : Statement (.pathEpochBump fn) := fun h => requester_units h

theorem messageStart : Statement (.messageStart) := fun _ => nil_units

theorem packetArrive (unit : Nat) : Statement (.packetArrive unit) := fun _ => nil_units

theorem mackReceive : Statement (.mackReceive) := fun _ => nil_units

theorem messageTimeout (dest : BitVec 16) (cred : Nat) : Statement (.messageTimeout dest cred) := fun h => cons_units (of_decide_eq_true h) nil_units

theorem cackReceive : Statement (.cackReceive) := fun _ => nil_units

theorem cellTimeout (dest : BitVec 16) (kind : Nat) (seq : BitVec 8) : Statement (.cellTimeout dest kind seq) := fun _ => nil_units

theorem msgEntryExpire (srcAddr : BitVec 16) (cred : Nat) : Statement (.msgEntryExpire srcAddr cred) := fun h => cons_units (of_decide_eq_true h) nil_units

theorem trafficHoldExpire : Statement (.trafficHoldExpire) := fun _ => nil_units

theorem unreachableClear (fn : Requester) (addr : BitVec 16) : Statement (.unreachableClear fn addr) := fun h => requester_units h

theorem planFlip (plan : Nat) : Statement (.planFlip plan) := fun h => cons_units (of_decide_eq_true h) nil_units

theorem slotDrainComplete (port : Nat) (slot : Nat) : Statement (.slotDrainComplete port slot) := fun h => cons_units (of_decide_eq_true (left h)) (cons_units (of_decide_eq_true (right h)) nil_units)

theorem collectiveStart (chan : Nat) : Statement (.collectiveStart chan) := fun h => cons_units (of_decide_eq_true h) nil_units

theorem collStepSend (chan : Nat) (level : Nat) (sub : Nat) (gather : Bool) (part : Nat) (pitch : Nat) : Statement (.collStepSend chan level sub gather part pitch) := fun h => cons_units (of_decide_eq_true (left (left h))) (cons_units (of_decide_eq_true (right (left h))) (cons_units (of_decide_eq_true (right h)) nil_units))

theorem collMessageProcess (port : Nat) : Statement (.collMessageProcess port) := fun h => cons_units (of_decide_eq_true h) nil_units

theorem colCreditReceive (port : Nat) : Statement (.colCreditReceive port) := fun h => cons_units (of_decide_eq_true h) nil_units

theorem colAbortReceive (port : Nat) : Statement (.colAbortReceive port) := fun h => cons_units (of_decide_eq_true h) nil_units

theorem collWatchdogExpire (chan : Nat) (level : Nat) (sub : Nat) (credit : Bool) : Statement (.collWatchdogExpire chan level sub credit) := fun h => cons_units (of_decide_eq_true (left (left h))) (cons_units (of_decide_eq_true (right (left h))) (cons_units (of_decide_eq_true (right h)) nil_units))

theorem collComplete (chan : Nat) : Statement (.collComplete chan) := fun h => cons_units (of_decide_eq_true h) nil_units

theorem channelOwn (fn : Requester) (chan : Nat) (owner : Nat) : Statement (.channelOwn fn chan owner) := fun h => append_units (requester_units (left (left h))) (cons_units (of_decide_eq_true (right (left h))) (cons_units (of_decide_eq_true (right h)) nil_units))

theorem channelAbort (fn : Requester) (chan : Nat) : Statement (.channelAbort fn chan) := fun h => append_units (requester_units (left h)) (cons_units (of_decide_eq_true (right h)) nil_units)

theorem commandWindowWrite (fn : Requester) (off : Nat) (data : List (BitVec 8)) : Statement (.commandWindowWrite fn off data) := fun h => requester_units h

theorem mirrorWrite (q : Nat) : Statement (.mirrorWrite q) := fun h => cons_units (of_decide_eq_true h) nil_units

theorem queueEnable (fn : Requester) (q : Nat) : Statement (.queueEnable fn q) := fun h => append_units (requester_units (left h)) (cons_units (of_decide_eq_true (right h)) nil_units)

theorem queueDisable (fn : Requester) (q : Nat) : Statement (.queueDisable fn q) := fun h => append_units (requester_units (left h)) (cons_units (of_decide_eq_true (right h)) nil_units)

theorem nopCommand (src : CmdSrc) : Statement (.nopCommand src) := fun h => src_units h

theorem ropeCreate (src : CmdSrc) : Statement (.ropeCreate src) := fun h => src_units h

theorem ropeStart (src : CmdSrc) : Statement (.ropeStart src) := fun h => src_units h

theorem ropeSuspend (src : CmdSrc) : Statement (.ropeSuspend src) := fun h => src_units h

theorem suspendSave (rope : Nat) : Statement (.suspendSave rope) := fun h => cons_units (of_decide_eq_true h) nil_units

theorem ropeResume (src : CmdSrc) : Statement (.ropeResume src) := fun h => src_units h

theorem resumeComplete (rope : Nat) : Statement (.resumeComplete rope) := fun h => cons_units (of_decide_eq_true h) nil_units

theorem ropeReset (src : CmdSrc) : Statement (.ropeReset src) := fun h => src_units h

theorem ropeDestroy (src : CmdSrc) : Statement (.ropeDestroy src) := fun h => src_units h

theorem tableWrite (src : CmdSrc) : Statement (.tableWrite src) := fun h => src_units h

theorem tableWriteDeferred : Statement (.tableWriteDeferred) := fun _ => nil_units

theorem tableCommit (src : CmdSrc) : Statement (.tableCommit src) := fun h => src_units h

theorem copyBackComplete (idx : Nat) : Statement (.copyBackComplete idx) := fun _ => nil_units

theorem collective (src : CmdSrc) : Statement (.collective src) := fun h => src_units h

theorem collAbort (src : CmdSrc) : Statement (.collAbort src) := fun h => src_units h

theorem stepMark (src : CmdSrc) : Statement (.stepMark src) := fun h => src_units h

theorem stepBoundary (rope : Nat) : Statement (.stepBoundary rope) := fun h => cons_units (of_decide_eq_true h) nil_units

theorem composeCfg (src : CmdSrc) : Statement (.composeCfg src) := fun h => src_units h

theorem seqAdd (src : CmdSrc) : Statement (.seqAdd src) := fun h => src_units h

theorem seqCancel (src : CmdSrc) : Statement (.seqCancel src) := fun h => src_units h

theorem composerStep (rope : Nat) : Statement (.composerStep rope) := fun h => cons_units (of_decide_eq_true h) nil_units

theorem programComplete (rope : Nat) : Statement (.programComplete rope) := fun h => cons_units (of_decide_eq_true h) nil_units

theorem ddr5ChannelTrained (ch : Nat) (cached : Bool) (ok : Bool) : Statement (.ddr5ChannelTrained ch cached ok) := fun h => cons_units (of_decide_eq_true h) nil_units

theorem patrolScrubRead (m : Nat) (upset : BitVec 160) (word : Nat) : Statement (.patrolScrubRead m upset word) := fun h => cons_units (of_decide_eq_true (left h)) (cons_units (of_decide_eq_true (right h)) nil_units)

theorem pageCommand (fn : Requester) (value : BitVec 64) : Statement (.pageCommand fn value) := fun h => requester_units h

theorem pageScrubComplete : Statement (.pageScrubComplete) := fun _ => nil_units

theorem scheduleWrite (fn : Requester) (rope : Nat) (addr : BitVec 48) : Statement (.scheduleWrite fn rope addr) := fun h => append_units (requester_units (left h)) (cons_units (of_decide_eq_true (right h)) nil_units)

theorem prefetchDemand (die : Nat) (tag : BitVec 32) : Statement (.prefetchDemand die tag) := fun h => cons_units (of_decide_eq_true h) nil_units

theorem prefetchPieceIssue (die : Nat) : Statement (.prefetchPieceIssue die) := fun h => cons_units (of_decide_eq_true h) nil_units

theorem speculativeFill (die : Nat) : Statement (.speculativeFill die) := fun h => cons_units (of_decide_eq_true h) nil_units

theorem pieceLand (die : Nat) (idx : Nat) : Statement (.pieceLand die idx) := fun h => cons_units (of_decide_eq_true h) nil_units

theorem lendWindowOpen (fn : Requester) (win : Nat) : Statement (.lendWindowOpen fn win) := fun h => append_units (requester_units (left h)) (cons_units (of_decide_eq_true (right h)) nil_units)

theorem lendWindowClose (fn : Requester) (win : Nat) : Statement (.lendWindowClose fn win) := fun h => append_units (requester_units (left h)) (cons_units (of_decide_eq_true (right h)) nil_units)

theorem mreadReceive (m : Nat) : Statement (.mreadReceive m) := fun h => cons_units (of_decide_eq_true h) nil_units

theorem bpmAllocate (who : BpmClient) (pool : Nat) : Statement (.bpmAllocate who pool) := fun h => append_units (client_units (left h)) (cons_units (of_decide_eq_true (right h)) nil_units)

theorem bpmFree (who : BpmClient) (handle : BitVec 32) : Statement (.bpmFree who handle) := fun h => client_units h

theorem bpmHandOff (who : BpmClient) (handle : BitVec 32) (owner : Nat) : Statement (.bpmHandOff who handle owner) := fun h => client_units h

theorem bpmRefill (pool : Nat) : Statement (.bpmRefill pool) := fun h => cons_units (of_decide_eq_true h) nil_units

theorem poolEnable (fn : Requester) (pool : Nat) : Statement (.poolEnable fn pool) := fun h => append_units (requester_units (left h)) (cons_units (of_decide_eq_true (right h)) nil_units)

theorem poolInitComplete (pool : Nat) : Statement (.poolInitComplete pool) := fun h => cons_units (of_decide_eq_true h) nil_units

theorem poolDisable (fn : Requester) (pool : Nat) : Statement (.poolDisable fn pool) := fun h => append_units (requester_units (left h)) (cons_units (of_decide_eq_true (right h)) nil_units)

theorem poolReclaim (fn : Requester) (pool : Nat) : Statement (.poolReclaim fn pool) := fun h => append_units (requester_units (left h)) (cons_units (of_decide_eq_true (right h)) nil_units)

theorem sealRequest (fn : Requester) (addr : BitVec 64) : Statement (.sealRequest fn addr) := fun h => requester_units h

theorem sealRun : Statement (.sealRun) := fun _ => nil_units

theorem sealComplete : Statement (.sealComplete) := fun _ => nil_units

theorem lockstepArm (fn : Requester) (rope : Nat) : Statement (.lockstepArm fn rope) := fun h => append_units (requester_units (left h)) (cons_units (of_decide_eq_true (right h)) nil_units)

theorem lockstepDisarm (fn : Requester) (rope : Nat) : Statement (.lockstepDisarm fn rope) := fun h => append_units (requester_units (left h)) (cons_units (of_decide_eq_true (right h)) nil_units)

theorem lockstepRelease (fn : Requester) (rope : Nat) : Statement (.lockstepRelease fn rope) := fun h => append_units (requester_units (left h)) (cons_units (of_decide_eq_true (right h)) nil_units)

theorem checkpointDigestDone (rope : Nat) : Statement (.checkpointDigestDone rope) := fun h => cons_units (of_decide_eq_true h) nil_units

theorem lockstepInboxWrite (fn : Requester) (rope : Nat) (idx : Nat) (data : BitVec 64) : Statement (.lockstepInboxWrite fn rope idx data) := fun h => append_units (requester_units (left (left h))) (cons_units (of_decide_eq_true (right (left h))) (cons_units (of_decide_eq_true (right h)) nil_units))

theorem deviceWakeActive : Statement (.deviceWakeActive) := fun _ => nil_units

theorem deviceIdleTimeout : Statement (.deviceIdleTimeout) := fun _ => nil_units

theorem standbyEnter (fn : Requester) : Statement (.standbyEnter fn) := fun h => requester_units h

theorem standbyExit (fn : Requester) : Statement (.standbyExit fn) := fun h => requester_units h

theorem holdRelease (fn : Requester) : Statement (.holdRelease fn) := fun h => requester_units h

theorem clusterIdleTimeout (cluster : Nat) : Statement (.clusterIdleTimeout cluster) := fun h => cons_units (of_decide_eq_true h) nil_units

theorem powerSample (moduleW : Nat) (packageW : Nat) (inputMv : Nat) : Statement (.powerSample moduleW packageW inputMv) := fun _ => nil_units

theorem powerDecision : Statement (.powerDecision) := fun _ => nil_units

theorem thermalSample (dies : List Nat) (dimm : Nat) (sustained : Bool) (notice : Bool) : Statement (.thermalSample dies dimm sustained notice) := fun _ => nil_units

theorem hotSwapOpen : Statement (.hotSwapOpen) := fun _ => nil_units

theorem inputLoss : Statement (.inputLoss) := fun _ => nil_units

theorem insertion (modules : List (Option Dimm)) : Statement (.insertion modules) := fun _ => nil_units

theorem bootRomStart (puf : Option (BitVec 256)) (straps : BitVec 17) : Statement (.bootRomStart puf straps) := fun _ => nil_units

theorem vuolaStart : Statement (.vuolaStart) := fun _ => nil_units

theorem orderlyRemoval (fn : Requester) : Statement (.orderlyRemoval fn) := fun h => requester_units h

theorem hotplugAttentionRequest : Statement (.hotplugAttentionRequest) := fun _ => nil_units

theorem removalComplete : Statement (.removalComplete) := fun _ => nil_units

theorem quoteRequest (fn : Requester) (addr : BitVec 64) : Statement (.quoteRequest fn addr) := fun h => requester_units h

theorem quoteComplete : Statement (.quoteComplete) := fun _ => nil_units

theorem mctpControl (msg : List (BitVec 8)) : Statement (.mctpControl msg) := fun _ => nil_units

theorem pldmBase (msg : List (BitVec 8)) : Statement (.pldmBase msg) := fun _ => nil_units

theorem pldmFwTransfer (comp : Nat) (off : Nat) (data : List (BitVec 8)) : Statement (.pldmFwTransfer comp off data) := fun _ => nil_units

theorem pldmFwVerify : Statement (.pldmFwVerify) := fun _ => nil_units

theorem pldmFwActivate : Statement (.pldmFwActivate) := fun _ => nil_units

theorem getCert (off : Nat) (len : Nat) : Statement (.getCert off len) := fun _ => nil_units

theorem getQuote (nonce : List (BitVec 8)) (part : Nat) : Statement (.getQuote nonce part) := fun _ => nil_units

theorem setManagers (hashes : List (List (BitVec 8))) : Statement (.setManagers hashes) := fun _ => nil_units

theorem kemInit : Statement (.kemInit) := fun _ => nil_units

theorem mop : Statement (.mop) := fun _ => nil_units

theorem sessionExpire (session : Nat) : Statement (.sessionExpire session) := fun h => cons_units (of_decide_eq_true h) nil_units

theorem syncReceive : Statement (.syncReceive) := fun _ => nil_units

theorem syncTimeout : Statement (.syncTimeout) := fun _ => nil_units

theorem eventRingEnable (fn : Requester) : Statement (.eventRingEnable fn) := fun h => requester_units h

theorem moderationExpire : Statement (.moderationExpire) := fun _ => nil_units

theorem belayQuery (fn : Requester) (idx : BitVec 12) : Statement (.belayQuery fn idx) := fun h => requester_units h

theorem computeReset (fn : Requester) (dies : BitVec 8) : Statement (.computeReset fn dies) := fun h => requester_units h

theorem vuolaComputeReset (dies : BitVec 8) : Statement (.vuolaComputeReset dies) := fun _ => nil_units

theorem deviceReset (fn : Requester) : Statement (.deviceReset fn) := fun h => requester_units h

theorem basecampReset (fn : Requester) : Statement (.basecampReset fn) := fun h => requester_units h

theorem pfFunctionLevelReset : Statement (.pfFunctionLevelReset) := fun _ => nil_units

theorem vfFunctionLevelReset (vf : Nat) : Statement (.vfFunctionLevelReset vf) := fun h => cons_units (of_decide_eq_true h) nil_units

theorem pcieHotReset : Statement (.pcieHotReset) := fun _ => nil_units

theorem perstAssert : Statement (.perstAssert) := fun _ => nil_units

theorem watchdogExpire (second : Bool) : Statement (.watchdogExpire second) := fun _ => nil_units

theorem numvfsLower (n : Nat) : Statement (.numvfsLower n) := fun _ => nil_units

theorem pwrDisAssert : Statement (.pwrDisAssert) := fun _ => nil_units

theorem pwrDisDeassert : Statement (.pwrDisDeassert) := fun _ => nil_units

theorem flashExtAssert : Statement (.flashExtAssert) := fun _ => nil_units

theorem flashExtDeassert : Statement (.flashExtDeassert) := fun _ => nil_units

theorem bar4Read (off : Nat) (len : Nat) : Statement (.bar4Read off len) := fun _ => nil_units

theorem bar4Write (off : Nat) (data : List (BitVec 8)) (ep : Bool) : Statement (.bar4Write off data ep) := fun _ => nil_units

theorem perstDeassert (gen : Nat) (width : Nat) : Statement (.perstDeassert gen width) := fun _ => nil_units

theorem inputRestored : Statement (.inputRestored) := fun _ => nil_units

theorem numvfsRaise (n : Nat) : Statement (.numvfsRaise n) := fun _ => nil_units

theorem bar4Resize (log2 : Nat) : Statement (.bar4Resize log2) := fun _ => nil_units

end Sys2Proof.Laws.Wf
end

