-- ==== Sys2Proof/Laws/State.lean ====
section
/-! SUPPORT. One lemma for each field of the state under each single-field update: all true by unfolding, so that no later
proof unfolds a record update. -/

namespace Sys2Proof.Machine

open Sys2Proof

variable (s : State)

/-! `setR` writes `regs`. -/

@[simp] theorem setR_pending (r : Reg) (ix : List Nat) (v : Word) : (setR r ix v s).pending = s.pending := rfl
@[simp] theorem setR_regs (r : Reg) (ix : List Nat) (v : Word) : (setR r ix v s).regs = tset (regReset r ix) s.regs (regOff r ix) v := rfl
@[simp] theorem setR_latch (r : Reg) (ix : List Nat) (v : Word) : (setR r ix v s).latch = s.latch := rfl
@[simp] theorem setR_fns (r : Reg) (ix : List Nat) (v : Word) : (setR r ix v s).fns = s.fns := rfl
@[simp] theorem setR_mem (r : Reg) (ix : List Nat) (v : Word) : (setR r ix v s).mem = s.mem := rfl
@[simp] theorem setR_cores (r : Reg) (ix : List Nat) (v : Word) : (setR r ix v s).cores = s.cores := rfl
@[simp] theorem setR_ropes (r : Reg) (ix : List Nat) (v : Word) : (setR r ix v s).ropes = s.ropes := rfl
@[simp] theorem setR_rtes (r : Reg) (ix : List Nat) (v : Word) : (setR r ix v s).rtes = s.rtes := rfl
@[simp] theorem setR_xes (r : Reg) (ix : List Nat) (v : Word) : (setR r ix v s).xes = s.xes := rfl
@[simp] theorem setR_msgs (r : Reg) (ix : List Nat) (v : Word) : (setR r ix v s).msgs = s.msgs := rfl
@[simp] theorem setR_ports (r : Reg) (ix : List Nat) (v : Word) : (setR r ix v s).ports = s.ports := rfl
@[simp] theorem setR_switch (r : Reg) (ix : List Nat) (v : Word) : (setR r ix v s).switch = s.switch := rfl
@[simp] theorem setR_chans (r : Reg) (ix : List Nat) (v : Word) : (setR r ix v s).chans = s.chans := rfl
@[simp] theorem setR_queues (r : Reg) (ix : List Nat) (v : Word) : (setR r ix v s).queues = s.queues := rfl
@[simp] theorem setR_instrCmds (r : Reg) (ix : List Nat) (v : Word) : (setR r ix v s).instrCmds = s.instrCmds := rfl
@[simp] theorem setR_tables (r : Reg) (ix : List Nat) (v : Word) : (setR r ix v s).tables = s.tables := rfl
@[simp] theorem setR_pools (r : Reg) (ix : List Nat) (v : Word) : (setR r ix v s).pools = s.pools := rfl
@[simp] theorem setR_belays (r : Reg) (ix : List Nat) (v : Word) : (setR r ix v s).belays = s.belays := rfl
@[simp] theorem setR_pf (r : Reg) (ix : List Nat) (v : Word) : (setR r ix v s).pf = s.pf := rfl
@[simp] theorem setR_sched (r : Reg) (ix : List Nat) (v : Word) : (setR r ix v s).sched = s.sched := rfl
@[simp] theorem setR_reads (r : Reg) (ix : List Nat) (v : Word) : (setR r ix v s).reads = s.reads := rfl
@[simp] theorem setR_readSeq (r : Reg) (ix : List Nat) (v : Word) : (setR r ix v s).readSeq = s.readSeq := rfl
@[simp] theorem setR_writes (r : Reg) (ix : List Nat) (v : Word) : (setR r ix v s).writes = s.writes := rfl
@[simp] theorem setR_heldSigs (r : Reg) (ix : List Nat) (v : Word) : (setR r ix v s).heldSigs = s.heldSigs := rfl
@[simp] theorem setR_seals (r : Reg) (ix : List Nat) (v : Word) : (setR r ix v s).seals = s.seals := rfl
@[simp] theorem setR_sealing (r : Reg) (ix : List Nat) (v : Word) : (setR r ix v s).sealing = s.sealing := rfl
@[simp] theorem setR_lockstep (r : Reg) (ix : List Nat) (v : Word) : (setR r ix v s).lockstep = s.lockstep := rfl
@[simp] theorem setR_bc (r : Reg) (ix : List Nat) (v : Word) : (setR r ix v s).bc = s.bc := rfl
@[simp] theorem setR_pins (r : Reg) (ix : List Nat) (v : Word) : (setR r ix v s).pins = s.pins := rfl
@[simp] theorem setR_pcie (r : Reg) (ix : List Nat) (v : Word) : (setR r ix v s).pcie = s.pcie := rfl
@[simp] theorem setR_events (r : Reg) (ix : List Nat) (v : Word) : (setR r ix v s).events = s.events := rfl
@[simp] theorem setR_scrubPos (r : Reg) (ix : List Nat) (v : Word) : (setR r ix v s).scrubPos = s.scrubPos := rfl
@[simp] theorem setR_out (r : Reg) (ix : List Nat) (v : Word) : (setR r ix v s).out = s.out := rfl
@[simp] theorem setR_fresh (r : Reg) (ix : List Nat) (v : Word) : (setR r ix v s).fresh = s.fresh := rfl

/-! `setF` writes `regs`. -/

@[simp] theorem setF_pending (f : Fld) (ix : List Nat) (v : Nat) : (setF f ix v s).pending = s.pending := rfl
@[simp] theorem setF_latch (f : Fld) (ix : List Nat) (v : Nat) : (setF f ix v s).latch = s.latch := rfl
@[simp] theorem setF_fns (f : Fld) (ix : List Nat) (v : Nat) : (setF f ix v s).fns = s.fns := rfl
@[simp] theorem setF_mem (f : Fld) (ix : List Nat) (v : Nat) : (setF f ix v s).mem = s.mem := rfl
@[simp] theorem setF_cores (f : Fld) (ix : List Nat) (v : Nat) : (setF f ix v s).cores = s.cores := rfl
@[simp] theorem setF_ropes (f : Fld) (ix : List Nat) (v : Nat) : (setF f ix v s).ropes = s.ropes := rfl
@[simp] theorem setF_rtes (f : Fld) (ix : List Nat) (v : Nat) : (setF f ix v s).rtes = s.rtes := rfl
@[simp] theorem setF_xes (f : Fld) (ix : List Nat) (v : Nat) : (setF f ix v s).xes = s.xes := rfl
@[simp] theorem setF_msgs (f : Fld) (ix : List Nat) (v : Nat) : (setF f ix v s).msgs = s.msgs := rfl
@[simp] theorem setF_ports (f : Fld) (ix : List Nat) (v : Nat) : (setF f ix v s).ports = s.ports := rfl
@[simp] theorem setF_switch (f : Fld) (ix : List Nat) (v : Nat) : (setF f ix v s).switch = s.switch := rfl
@[simp] theorem setF_chans (f : Fld) (ix : List Nat) (v : Nat) : (setF f ix v s).chans = s.chans := rfl
@[simp] theorem setF_queues (f : Fld) (ix : List Nat) (v : Nat) : (setF f ix v s).queues = s.queues := rfl
@[simp] theorem setF_instrCmds (f : Fld) (ix : List Nat) (v : Nat) : (setF f ix v s).instrCmds = s.instrCmds := rfl
@[simp] theorem setF_tables (f : Fld) (ix : List Nat) (v : Nat) : (setF f ix v s).tables = s.tables := rfl
@[simp] theorem setF_pools (f : Fld) (ix : List Nat) (v : Nat) : (setF f ix v s).pools = s.pools := rfl
@[simp] theorem setF_belays (f : Fld) (ix : List Nat) (v : Nat) : (setF f ix v s).belays = s.belays := rfl
@[simp] theorem setF_pf (f : Fld) (ix : List Nat) (v : Nat) : (setF f ix v s).pf = s.pf := rfl
@[simp] theorem setF_sched (f : Fld) (ix : List Nat) (v : Nat) : (setF f ix v s).sched = s.sched := rfl
@[simp] theorem setF_reads (f : Fld) (ix : List Nat) (v : Nat) : (setF f ix v s).reads = s.reads := rfl
@[simp] theorem setF_readSeq (f : Fld) (ix : List Nat) (v : Nat) : (setF f ix v s).readSeq = s.readSeq := rfl
@[simp] theorem setF_writes (f : Fld) (ix : List Nat) (v : Nat) : (setF f ix v s).writes = s.writes := rfl
@[simp] theorem setF_heldSigs (f : Fld) (ix : List Nat) (v : Nat) : (setF f ix v s).heldSigs = s.heldSigs := rfl
@[simp] theorem setF_seals (f : Fld) (ix : List Nat) (v : Nat) : (setF f ix v s).seals = s.seals := rfl
@[simp] theorem setF_sealing (f : Fld) (ix : List Nat) (v : Nat) : (setF f ix v s).sealing = s.sealing := rfl
@[simp] theorem setF_lockstep (f : Fld) (ix : List Nat) (v : Nat) : (setF f ix v s).lockstep = s.lockstep := rfl
@[simp] theorem setF_bc (f : Fld) (ix : List Nat) (v : Nat) : (setF f ix v s).bc = s.bc := rfl
@[simp] theorem setF_pins (f : Fld) (ix : List Nat) (v : Nat) : (setF f ix v s).pins = s.pins := rfl
@[simp] theorem setF_pcie (f : Fld) (ix : List Nat) (v : Nat) : (setF f ix v s).pcie = s.pcie := rfl
@[simp] theorem setF_events (f : Fld) (ix : List Nat) (v : Nat) : (setF f ix v s).events = s.events := rfl
@[simp] theorem setF_scrubPos (f : Fld) (ix : List Nat) (v : Nat) : (setF f ix v s).scrubPos = s.scrubPos := rfl
@[simp] theorem setF_out (f : Fld) (ix : List Nat) (v : Nat) : (setF f ix v s).out = s.out := rfl
@[simp] theorem setF_fresh (f : Fld) (ix : List Nat) (v : Nat) : (setF f ix v s).fresh = s.fresh := rfl

/-! `addF` writes `regs`. -/

@[simp] theorem addF_pending (f : Fld) (ix : List Nat) (v : Nat) : (addF f ix v s).pending = s.pending := rfl
@[simp] theorem addF_latch (f : Fld) (ix : List Nat) (v : Nat) : (addF f ix v s).latch = s.latch := rfl
@[simp] theorem addF_fns (f : Fld) (ix : List Nat) (v : Nat) : (addF f ix v s).fns = s.fns := rfl
@[simp] theorem addF_mem (f : Fld) (ix : List Nat) (v : Nat) : (addF f ix v s).mem = s.mem := rfl
@[simp] theorem addF_cores (f : Fld) (ix : List Nat) (v : Nat) : (addF f ix v s).cores = s.cores := rfl
@[simp] theorem addF_ropes (f : Fld) (ix : List Nat) (v : Nat) : (addF f ix v s).ropes = s.ropes := rfl
@[simp] theorem addF_rtes (f : Fld) (ix : List Nat) (v : Nat) : (addF f ix v s).rtes = s.rtes := rfl
@[simp] theorem addF_xes (f : Fld) (ix : List Nat) (v : Nat) : (addF f ix v s).xes = s.xes := rfl
@[simp] theorem addF_msgs (f : Fld) (ix : List Nat) (v : Nat) : (addF f ix v s).msgs = s.msgs := rfl
@[simp] theorem addF_ports (f : Fld) (ix : List Nat) (v : Nat) : (addF f ix v s).ports = s.ports := rfl
@[simp] theorem addF_switch (f : Fld) (ix : List Nat) (v : Nat) : (addF f ix v s).switch = s.switch := rfl
@[simp] theorem addF_chans (f : Fld) (ix : List Nat) (v : Nat) : (addF f ix v s).chans = s.chans := rfl
@[simp] theorem addF_queues (f : Fld) (ix : List Nat) (v : Nat) : (addF f ix v s).queues = s.queues := rfl
@[simp] theorem addF_instrCmds (f : Fld) (ix : List Nat) (v : Nat) : (addF f ix v s).instrCmds = s.instrCmds := rfl
@[simp] theorem addF_tables (f : Fld) (ix : List Nat) (v : Nat) : (addF f ix v s).tables = s.tables := rfl
@[simp] theorem addF_pools (f : Fld) (ix : List Nat) (v : Nat) : (addF f ix v s).pools = s.pools := rfl
@[simp] theorem addF_belays (f : Fld) (ix : List Nat) (v : Nat) : (addF f ix v s).belays = s.belays := rfl
@[simp] theorem addF_pf (f : Fld) (ix : List Nat) (v : Nat) : (addF f ix v s).pf = s.pf := rfl
@[simp] theorem addF_sched (f : Fld) (ix : List Nat) (v : Nat) : (addF f ix v s).sched = s.sched := rfl
@[simp] theorem addF_reads (f : Fld) (ix : List Nat) (v : Nat) : (addF f ix v s).reads = s.reads := rfl
@[simp] theorem addF_readSeq (f : Fld) (ix : List Nat) (v : Nat) : (addF f ix v s).readSeq = s.readSeq := rfl
@[simp] theorem addF_writes (f : Fld) (ix : List Nat) (v : Nat) : (addF f ix v s).writes = s.writes := rfl
@[simp] theorem addF_heldSigs (f : Fld) (ix : List Nat) (v : Nat) : (addF f ix v s).heldSigs = s.heldSigs := rfl
@[simp] theorem addF_seals (f : Fld) (ix : List Nat) (v : Nat) : (addF f ix v s).seals = s.seals := rfl
@[simp] theorem addF_sealing (f : Fld) (ix : List Nat) (v : Nat) : (addF f ix v s).sealing = s.sealing := rfl
@[simp] theorem addF_lockstep (f : Fld) (ix : List Nat) (v : Nat) : (addF f ix v s).lockstep = s.lockstep := rfl
@[simp] theorem addF_bc (f : Fld) (ix : List Nat) (v : Nat) : (addF f ix v s).bc = s.bc := rfl
@[simp] theorem addF_pins (f : Fld) (ix : List Nat) (v : Nat) : (addF f ix v s).pins = s.pins := rfl
@[simp] theorem addF_pcie (f : Fld) (ix : List Nat) (v : Nat) : (addF f ix v s).pcie = s.pcie := rfl
@[simp] theorem addF_events (f : Fld) (ix : List Nat) (v : Nat) : (addF f ix v s).events = s.events := rfl
@[simp] theorem addF_scrubPos (f : Fld) (ix : List Nat) (v : Nat) : (addF f ix v s).scrubPos = s.scrubPos := rfl
@[simp] theorem addF_out (f : Fld) (ix : List Nat) (v : Nat) : (addF f ix v s).out = s.out := rfl
@[simp] theorem addF_fresh (f : Fld) (ix : List Nat) (v : Nat) : (addF f ix v s).fresh = s.fresh := rfl

/-! `subF` writes `regs`. -/

@[simp] theorem subF_pending (f : Fld) (ix : List Nat) (v : Nat) : (subF f ix v s).pending = s.pending := rfl
@[simp] theorem subF_latch (f : Fld) (ix : List Nat) (v : Nat) : (subF f ix v s).latch = s.latch := rfl
@[simp] theorem subF_fns (f : Fld) (ix : List Nat) (v : Nat) : (subF f ix v s).fns = s.fns := rfl
@[simp] theorem subF_mem (f : Fld) (ix : List Nat) (v : Nat) : (subF f ix v s).mem = s.mem := rfl
@[simp] theorem subF_cores (f : Fld) (ix : List Nat) (v : Nat) : (subF f ix v s).cores = s.cores := rfl
@[simp] theorem subF_ropes (f : Fld) (ix : List Nat) (v : Nat) : (subF f ix v s).ropes = s.ropes := rfl
@[simp] theorem subF_rtes (f : Fld) (ix : List Nat) (v : Nat) : (subF f ix v s).rtes = s.rtes := rfl
@[simp] theorem subF_xes (f : Fld) (ix : List Nat) (v : Nat) : (subF f ix v s).xes = s.xes := rfl
@[simp] theorem subF_msgs (f : Fld) (ix : List Nat) (v : Nat) : (subF f ix v s).msgs = s.msgs := rfl
@[simp] theorem subF_ports (f : Fld) (ix : List Nat) (v : Nat) : (subF f ix v s).ports = s.ports := rfl
@[simp] theorem subF_switch (f : Fld) (ix : List Nat) (v : Nat) : (subF f ix v s).switch = s.switch := rfl
@[simp] theorem subF_chans (f : Fld) (ix : List Nat) (v : Nat) : (subF f ix v s).chans = s.chans := rfl
@[simp] theorem subF_queues (f : Fld) (ix : List Nat) (v : Nat) : (subF f ix v s).queues = s.queues := rfl
@[simp] theorem subF_instrCmds (f : Fld) (ix : List Nat) (v : Nat) : (subF f ix v s).instrCmds = s.instrCmds := rfl
@[simp] theorem subF_tables (f : Fld) (ix : List Nat) (v : Nat) : (subF f ix v s).tables = s.tables := rfl
@[simp] theorem subF_pools (f : Fld) (ix : List Nat) (v : Nat) : (subF f ix v s).pools = s.pools := rfl
@[simp] theorem subF_belays (f : Fld) (ix : List Nat) (v : Nat) : (subF f ix v s).belays = s.belays := rfl
@[simp] theorem subF_pf (f : Fld) (ix : List Nat) (v : Nat) : (subF f ix v s).pf = s.pf := rfl
@[simp] theorem subF_sched (f : Fld) (ix : List Nat) (v : Nat) : (subF f ix v s).sched = s.sched := rfl
@[simp] theorem subF_reads (f : Fld) (ix : List Nat) (v : Nat) : (subF f ix v s).reads = s.reads := rfl
@[simp] theorem subF_readSeq (f : Fld) (ix : List Nat) (v : Nat) : (subF f ix v s).readSeq = s.readSeq := rfl
@[simp] theorem subF_writes (f : Fld) (ix : List Nat) (v : Nat) : (subF f ix v s).writes = s.writes := rfl
@[simp] theorem subF_heldSigs (f : Fld) (ix : List Nat) (v : Nat) : (subF f ix v s).heldSigs = s.heldSigs := rfl
@[simp] theorem subF_seals (f : Fld) (ix : List Nat) (v : Nat) : (subF f ix v s).seals = s.seals := rfl
@[simp] theorem subF_sealing (f : Fld) (ix : List Nat) (v : Nat) : (subF f ix v s).sealing = s.sealing := rfl
@[simp] theorem subF_lockstep (f : Fld) (ix : List Nat) (v : Nat) : (subF f ix v s).lockstep = s.lockstep := rfl
@[simp] theorem subF_bc (f : Fld) (ix : List Nat) (v : Nat) : (subF f ix v s).bc = s.bc := rfl
@[simp] theorem subF_pins (f : Fld) (ix : List Nat) (v : Nat) : (subF f ix v s).pins = s.pins := rfl
@[simp] theorem subF_pcie (f : Fld) (ix : List Nat) (v : Nat) : (subF f ix v s).pcie = s.pcie := rfl
@[simp] theorem subF_events (f : Fld) (ix : List Nat) (v : Nat) : (subF f ix v s).events = s.events := rfl
@[simp] theorem subF_scrubPos (f : Fld) (ix : List Nat) (v : Nat) : (subF f ix v s).scrubPos = s.scrubPos := rfl
@[simp] theorem subF_out (f : Fld) (ix : List Nat) (v : Nat) : (subF f ix v s).out = s.out := rfl
@[simp] theorem subF_fresh (f : Fld) (ix : List Nat) (v : Nat) : (subF f ix v s).fresh = s.fresh := rfl

/-! `dropLatch` writes `latch`. -/

@[simp] theorem dropLatch_pending (offs : List Nat) : (dropLatch offs s).pending = s.pending := rfl
@[simp] theorem dropLatch_regs (offs : List Nat) : (dropLatch offs s).regs = s.regs := rfl
@[simp] theorem dropLatch_fns (offs : List Nat) : (dropLatch offs s).fns = s.fns := rfl
@[simp] theorem dropLatch_mem (offs : List Nat) : (dropLatch offs s).mem = s.mem := rfl
@[simp] theorem dropLatch_cores (offs : List Nat) : (dropLatch offs s).cores = s.cores := rfl
@[simp] theorem dropLatch_ropes (offs : List Nat) : (dropLatch offs s).ropes = s.ropes := rfl
@[simp] theorem dropLatch_rtes (offs : List Nat) : (dropLatch offs s).rtes = s.rtes := rfl
@[simp] theorem dropLatch_xes (offs : List Nat) : (dropLatch offs s).xes = s.xes := rfl
@[simp] theorem dropLatch_msgs (offs : List Nat) : (dropLatch offs s).msgs = s.msgs := rfl
@[simp] theorem dropLatch_ports (offs : List Nat) : (dropLatch offs s).ports = s.ports := rfl
@[simp] theorem dropLatch_switch (offs : List Nat) : (dropLatch offs s).switch = s.switch := rfl
@[simp] theorem dropLatch_chans (offs : List Nat) : (dropLatch offs s).chans = s.chans := rfl
@[simp] theorem dropLatch_queues (offs : List Nat) : (dropLatch offs s).queues = s.queues := rfl
@[simp] theorem dropLatch_instrCmds (offs : List Nat) : (dropLatch offs s).instrCmds = s.instrCmds := rfl
@[simp] theorem dropLatch_tables (offs : List Nat) : (dropLatch offs s).tables = s.tables := rfl
@[simp] theorem dropLatch_pools (offs : List Nat) : (dropLatch offs s).pools = s.pools := rfl
@[simp] theorem dropLatch_belays (offs : List Nat) : (dropLatch offs s).belays = s.belays := rfl
@[simp] theorem dropLatch_pf (offs : List Nat) : (dropLatch offs s).pf = s.pf := rfl
@[simp] theorem dropLatch_sched (offs : List Nat) : (dropLatch offs s).sched = s.sched := rfl
@[simp] theorem dropLatch_reads (offs : List Nat) : (dropLatch offs s).reads = s.reads := rfl
@[simp] theorem dropLatch_readSeq (offs : List Nat) : (dropLatch offs s).readSeq = s.readSeq := rfl
@[simp] theorem dropLatch_writes (offs : List Nat) : (dropLatch offs s).writes = s.writes := rfl
@[simp] theorem dropLatch_heldSigs (offs : List Nat) : (dropLatch offs s).heldSigs = s.heldSigs := rfl
@[simp] theorem dropLatch_seals (offs : List Nat) : (dropLatch offs s).seals = s.seals := rfl
@[simp] theorem dropLatch_sealing (offs : List Nat) : (dropLatch offs s).sealing = s.sealing := rfl
@[simp] theorem dropLatch_lockstep (offs : List Nat) : (dropLatch offs s).lockstep = s.lockstep := rfl
@[simp] theorem dropLatch_bc (offs : List Nat) : (dropLatch offs s).bc = s.bc := rfl
@[simp] theorem dropLatch_pins (offs : List Nat) : (dropLatch offs s).pins = s.pins := rfl
@[simp] theorem dropLatch_pcie (offs : List Nat) : (dropLatch offs s).pcie = s.pcie := rfl
@[simp] theorem dropLatch_events (offs : List Nat) : (dropLatch offs s).events = s.events := rfl
@[simp] theorem dropLatch_scrubPos (offs : List Nat) : (dropLatch offs s).scrubPos = s.scrubPos := rfl
@[simp] theorem dropLatch_out (offs : List Nat) : (dropLatch offs s).out = s.out := rfl
@[simp] theorem dropLatch_fresh (offs : List Nat) : (dropLatch offs s).fresh = s.fresh := rfl

/-! `captureReg` writes `latch`. -/

@[simp] theorem captureReg_pending (f : Requester) (off : Nat) (v : Word) : (captureReg f off v s).pending = s.pending := rfl
@[simp] theorem captureReg_regs (f : Requester) (off : Nat) (v : Word) : (captureReg f off v s).regs = s.regs := rfl
@[simp] theorem captureReg_fns (f : Requester) (off : Nat) (v : Word) : (captureReg f off v s).fns = s.fns := rfl
@[simp] theorem captureReg_mem (f : Requester) (off : Nat) (v : Word) : (captureReg f off v s).mem = s.mem := rfl
@[simp] theorem captureReg_cores (f : Requester) (off : Nat) (v : Word) : (captureReg f off v s).cores = s.cores := rfl
@[simp] theorem captureReg_ropes (f : Requester) (off : Nat) (v : Word) : (captureReg f off v s).ropes = s.ropes := rfl
@[simp] theorem captureReg_rtes (f : Requester) (off : Nat) (v : Word) : (captureReg f off v s).rtes = s.rtes := rfl
@[simp] theorem captureReg_xes (f : Requester) (off : Nat) (v : Word) : (captureReg f off v s).xes = s.xes := rfl
@[simp] theorem captureReg_msgs (f : Requester) (off : Nat) (v : Word) : (captureReg f off v s).msgs = s.msgs := rfl
@[simp] theorem captureReg_ports (f : Requester) (off : Nat) (v : Word) : (captureReg f off v s).ports = s.ports := rfl
@[simp] theorem captureReg_switch (f : Requester) (off : Nat) (v : Word) : (captureReg f off v s).switch = s.switch := rfl
@[simp] theorem captureReg_chans (f : Requester) (off : Nat) (v : Word) : (captureReg f off v s).chans = s.chans := rfl
@[simp] theorem captureReg_queues (f : Requester) (off : Nat) (v : Word) : (captureReg f off v s).queues = s.queues := rfl
@[simp] theorem captureReg_instrCmds (f : Requester) (off : Nat) (v : Word) : (captureReg f off v s).instrCmds = s.instrCmds := rfl
@[simp] theorem captureReg_tables (f : Requester) (off : Nat) (v : Word) : (captureReg f off v s).tables = s.tables := rfl
@[simp] theorem captureReg_pools (f : Requester) (off : Nat) (v : Word) : (captureReg f off v s).pools = s.pools := rfl
@[simp] theorem captureReg_belays (f : Requester) (off : Nat) (v : Word) : (captureReg f off v s).belays = s.belays := rfl
@[simp] theorem captureReg_pf (f : Requester) (off : Nat) (v : Word) : (captureReg f off v s).pf = s.pf := rfl
@[simp] theorem captureReg_sched (f : Requester) (off : Nat) (v : Word) : (captureReg f off v s).sched = s.sched := rfl
@[simp] theorem captureReg_reads (f : Requester) (off : Nat) (v : Word) : (captureReg f off v s).reads = s.reads := rfl
@[simp] theorem captureReg_readSeq (f : Requester) (off : Nat) (v : Word) : (captureReg f off v s).readSeq = s.readSeq := rfl
@[simp] theorem captureReg_writes (f : Requester) (off : Nat) (v : Word) : (captureReg f off v s).writes = s.writes := rfl
@[simp] theorem captureReg_heldSigs (f : Requester) (off : Nat) (v : Word) : (captureReg f off v s).heldSigs = s.heldSigs := rfl
@[simp] theorem captureReg_seals (f : Requester) (off : Nat) (v : Word) : (captureReg f off v s).seals = s.seals := rfl
@[simp] theorem captureReg_sealing (f : Requester) (off : Nat) (v : Word) : (captureReg f off v s).sealing = s.sealing := rfl
@[simp] theorem captureReg_lockstep (f : Requester) (off : Nat) (v : Word) : (captureReg f off v s).lockstep = s.lockstep := rfl
@[simp] theorem captureReg_bc (f : Requester) (off : Nat) (v : Word) : (captureReg f off v s).bc = s.bc := rfl
@[simp] theorem captureReg_pins (f : Requester) (off : Nat) (v : Word) : (captureReg f off v s).pins = s.pins := rfl
@[simp] theorem captureReg_pcie (f : Requester) (off : Nat) (v : Word) : (captureReg f off v s).pcie = s.pcie := rfl
@[simp] theorem captureReg_events (f : Requester) (off : Nat) (v : Word) : (captureReg f off v s).events = s.events := rfl
@[simp] theorem captureReg_scrubPos (f : Requester) (off : Nat) (v : Word) : (captureReg f off v s).scrubPos = s.scrubPos := rfl
@[simp] theorem captureReg_out (f : Requester) (off : Nat) (v : Word) : (captureReg f off v s).out = s.out := rfl
@[simp] theorem captureReg_fresh (f : Requester) (off : Nat) (v : Word) : (captureReg f off v s).fresh = s.fresh := rfl

/-! `memWrite` writes `mem`. -/

@[simp] theorem memWrite_pending (p : Nat) (bs : List Byte) : (memWrite p bs s).pending = s.pending := rfl
@[simp] theorem memWrite_regs (p : Nat) (bs : List Byte) : (memWrite p bs s).regs = s.regs := rfl
@[simp] theorem memWrite_latch (p : Nat) (bs : List Byte) : (memWrite p bs s).latch = s.latch := rfl
@[simp] theorem memWrite_fns (p : Nat) (bs : List Byte) : (memWrite p bs s).fns = s.fns := rfl
@[simp] theorem memWrite_cores (p : Nat) (bs : List Byte) : (memWrite p bs s).cores = s.cores := rfl
@[simp] theorem memWrite_ropes (p : Nat) (bs : List Byte) : (memWrite p bs s).ropes = s.ropes := rfl
@[simp] theorem memWrite_rtes (p : Nat) (bs : List Byte) : (memWrite p bs s).rtes = s.rtes := rfl
@[simp] theorem memWrite_xes (p : Nat) (bs : List Byte) : (memWrite p bs s).xes = s.xes := rfl
@[simp] theorem memWrite_msgs (p : Nat) (bs : List Byte) : (memWrite p bs s).msgs = s.msgs := rfl
@[simp] theorem memWrite_ports (p : Nat) (bs : List Byte) : (memWrite p bs s).ports = s.ports := rfl
@[simp] theorem memWrite_switch (p : Nat) (bs : List Byte) : (memWrite p bs s).switch = s.switch := rfl
@[simp] theorem memWrite_chans (p : Nat) (bs : List Byte) : (memWrite p bs s).chans = s.chans := rfl
@[simp] theorem memWrite_queues (p : Nat) (bs : List Byte) : (memWrite p bs s).queues = s.queues := rfl
@[simp] theorem memWrite_instrCmds (p : Nat) (bs : List Byte) : (memWrite p bs s).instrCmds = s.instrCmds := rfl
@[simp] theorem memWrite_tables (p : Nat) (bs : List Byte) : (memWrite p bs s).tables = s.tables := rfl
@[simp] theorem memWrite_pools (p : Nat) (bs : List Byte) : (memWrite p bs s).pools = s.pools := rfl
@[simp] theorem memWrite_belays (p : Nat) (bs : List Byte) : (memWrite p bs s).belays = s.belays := rfl
@[simp] theorem memWrite_pf (p : Nat) (bs : List Byte) : (memWrite p bs s).pf = s.pf := rfl
@[simp] theorem memWrite_sched (p : Nat) (bs : List Byte) : (memWrite p bs s).sched = s.sched := rfl
@[simp] theorem memWrite_reads (p : Nat) (bs : List Byte) : (memWrite p bs s).reads = s.reads := rfl
@[simp] theorem memWrite_readSeq (p : Nat) (bs : List Byte) : (memWrite p bs s).readSeq = s.readSeq := rfl
@[simp] theorem memWrite_writes (p : Nat) (bs : List Byte) : (memWrite p bs s).writes = s.writes := rfl
@[simp] theorem memWrite_heldSigs (p : Nat) (bs : List Byte) : (memWrite p bs s).heldSigs = s.heldSigs := rfl
@[simp] theorem memWrite_seals (p : Nat) (bs : List Byte) : (memWrite p bs s).seals = s.seals := rfl
@[simp] theorem memWrite_sealing (p : Nat) (bs : List Byte) : (memWrite p bs s).sealing = s.sealing := rfl
@[simp] theorem memWrite_lockstep (p : Nat) (bs : List Byte) : (memWrite p bs s).lockstep = s.lockstep := rfl
@[simp] theorem memWrite_bc (p : Nat) (bs : List Byte) : (memWrite p bs s).bc = s.bc := rfl
@[simp] theorem memWrite_pins (p : Nat) (bs : List Byte) : (memWrite p bs s).pins = s.pins := rfl
@[simp] theorem memWrite_pcie (p : Nat) (bs : List Byte) : (memWrite p bs s).pcie = s.pcie := rfl
@[simp] theorem memWrite_events (p : Nat) (bs : List Byte) : (memWrite p bs s).events = s.events := rfl
@[simp] theorem memWrite_scrubPos (p : Nat) (bs : List Byte) : (memWrite p bs s).scrubPos = s.scrubPos := rfl
@[simp] theorem memWrite_out (p : Nat) (bs : List Byte) : (memWrite p bs s).out = s.out := rfl
@[simp] theorem memWrite_fresh (p : Nat) (bs : List Byte) : (memWrite p bs s).fresh = s.fresh := rfl

/-! `emit` writes `out`. -/

@[simp] theorem emit_pending (o : Out) : (emit o s).pending = s.pending := rfl
@[simp] theorem emit_regs (o : Out) : (emit o s).regs = s.regs := rfl
@[simp] theorem emit_latch (o : Out) : (emit o s).latch = s.latch := rfl
@[simp] theorem emit_fns (o : Out) : (emit o s).fns = s.fns := rfl
@[simp] theorem emit_mem (o : Out) : (emit o s).mem = s.mem := rfl
@[simp] theorem emit_cores (o : Out) : (emit o s).cores = s.cores := rfl
@[simp] theorem emit_ropes (o : Out) : (emit o s).ropes = s.ropes := rfl
@[simp] theorem emit_rtes (o : Out) : (emit o s).rtes = s.rtes := rfl
@[simp] theorem emit_xes (o : Out) : (emit o s).xes = s.xes := rfl
@[simp] theorem emit_msgs (o : Out) : (emit o s).msgs = s.msgs := rfl
@[simp] theorem emit_ports (o : Out) : (emit o s).ports = s.ports := rfl
@[simp] theorem emit_switch (o : Out) : (emit o s).switch = s.switch := rfl
@[simp] theorem emit_chans (o : Out) : (emit o s).chans = s.chans := rfl
@[simp] theorem emit_queues (o : Out) : (emit o s).queues = s.queues := rfl
@[simp] theorem emit_instrCmds (o : Out) : (emit o s).instrCmds = s.instrCmds := rfl
@[simp] theorem emit_tables (o : Out) : (emit o s).tables = s.tables := rfl
@[simp] theorem emit_pools (o : Out) : (emit o s).pools = s.pools := rfl
@[simp] theorem emit_belays (o : Out) : (emit o s).belays = s.belays := rfl
@[simp] theorem emit_pf (o : Out) : (emit o s).pf = s.pf := rfl
@[simp] theorem emit_sched (o : Out) : (emit o s).sched = s.sched := rfl
@[simp] theorem emit_reads (o : Out) : (emit o s).reads = s.reads := rfl
@[simp] theorem emit_readSeq (o : Out) : (emit o s).readSeq = s.readSeq := rfl
@[simp] theorem emit_writes (o : Out) : (emit o s).writes = s.writes := rfl
@[simp] theorem emit_heldSigs (o : Out) : (emit o s).heldSigs = s.heldSigs := rfl
@[simp] theorem emit_seals (o : Out) : (emit o s).seals = s.seals := rfl
@[simp] theorem emit_sealing (o : Out) : (emit o s).sealing = s.sealing := rfl
@[simp] theorem emit_lockstep (o : Out) : (emit o s).lockstep = s.lockstep := rfl
@[simp] theorem emit_bc (o : Out) : (emit o s).bc = s.bc := rfl
@[simp] theorem emit_pins (o : Out) : (emit o s).pins = s.pins := rfl
@[simp] theorem emit_pcie (o : Out) : (emit o s).pcie = s.pcie := rfl
@[simp] theorem emit_events (o : Out) : (emit o s).events = s.events := rfl
@[simp] theorem emit_scrubPos (o : Out) : (emit o s).scrubPos = s.scrubPos := rfl
@[simp] theorem emit_out (o : Out) : (emit o s).out = s.out ++ [o] := rfl
@[simp] theorem emit_fresh (o : Out) : (emit o s).fresh = s.fresh := rfl

/-! `setMsixWord` writes `pcie`. -/

@[simp] theorem setMsixWord_pending (f k : Nat) (v : Word) : (setMsixWord f k v s).pending = s.pending := rfl
@[simp] theorem setMsixWord_regs (f k : Nat) (v : Word) : (setMsixWord f k v s).regs = s.regs := rfl
@[simp] theorem setMsixWord_latch (f k : Nat) (v : Word) : (setMsixWord f k v s).latch = s.latch := rfl
@[simp] theorem setMsixWord_fns (f k : Nat) (v : Word) : (setMsixWord f k v s).fns = s.fns := rfl
@[simp] theorem setMsixWord_mem (f k : Nat) (v : Word) : (setMsixWord f k v s).mem = s.mem := rfl
@[simp] theorem setMsixWord_cores (f k : Nat) (v : Word) : (setMsixWord f k v s).cores = s.cores := rfl
@[simp] theorem setMsixWord_ropes (f k : Nat) (v : Word) : (setMsixWord f k v s).ropes = s.ropes := rfl
@[simp] theorem setMsixWord_rtes (f k : Nat) (v : Word) : (setMsixWord f k v s).rtes = s.rtes := rfl
@[simp] theorem setMsixWord_xes (f k : Nat) (v : Word) : (setMsixWord f k v s).xes = s.xes := rfl
@[simp] theorem setMsixWord_msgs (f k : Nat) (v : Word) : (setMsixWord f k v s).msgs = s.msgs := rfl
@[simp] theorem setMsixWord_ports (f k : Nat) (v : Word) : (setMsixWord f k v s).ports = s.ports := rfl
@[simp] theorem setMsixWord_switch (f k : Nat) (v : Word) : (setMsixWord f k v s).switch = s.switch := rfl
@[simp] theorem setMsixWord_chans (f k : Nat) (v : Word) : (setMsixWord f k v s).chans = s.chans := rfl
@[simp] theorem setMsixWord_queues (f k : Nat) (v : Word) : (setMsixWord f k v s).queues = s.queues := rfl
@[simp] theorem setMsixWord_instrCmds (f k : Nat) (v : Word) : (setMsixWord f k v s).instrCmds = s.instrCmds := rfl
@[simp] theorem setMsixWord_tables (f k : Nat) (v : Word) : (setMsixWord f k v s).tables = s.tables := rfl
@[simp] theorem setMsixWord_pools (f k : Nat) (v : Word) : (setMsixWord f k v s).pools = s.pools := rfl
@[simp] theorem setMsixWord_belays (f k : Nat) (v : Word) : (setMsixWord f k v s).belays = s.belays := rfl
@[simp] theorem setMsixWord_pf (f k : Nat) (v : Word) : (setMsixWord f k v s).pf = s.pf := rfl
@[simp] theorem setMsixWord_sched (f k : Nat) (v : Word) : (setMsixWord f k v s).sched = s.sched := rfl
@[simp] theorem setMsixWord_reads (f k : Nat) (v : Word) : (setMsixWord f k v s).reads = s.reads := rfl
@[simp] theorem setMsixWord_readSeq (f k : Nat) (v : Word) : (setMsixWord f k v s).readSeq = s.readSeq := rfl
@[simp] theorem setMsixWord_writes (f k : Nat) (v : Word) : (setMsixWord f k v s).writes = s.writes := rfl
@[simp] theorem setMsixWord_heldSigs (f k : Nat) (v : Word) : (setMsixWord f k v s).heldSigs = s.heldSigs := rfl
@[simp] theorem setMsixWord_seals (f k : Nat) (v : Word) : (setMsixWord f k v s).seals = s.seals := rfl
@[simp] theorem setMsixWord_sealing (f k : Nat) (v : Word) : (setMsixWord f k v s).sealing = s.sealing := rfl
@[simp] theorem setMsixWord_lockstep (f k : Nat) (v : Word) : (setMsixWord f k v s).lockstep = s.lockstep := rfl
@[simp] theorem setMsixWord_bc (f k : Nat) (v : Word) : (setMsixWord f k v s).bc = s.bc := rfl
@[simp] theorem setMsixWord_pins (f k : Nat) (v : Word) : (setMsixWord f k v s).pins = s.pins := rfl
@[simp] theorem setMsixWord_events (f k : Nat) (v : Word) : (setMsixWord f k v s).events = s.events := rfl
@[simp] theorem setMsixWord_scrubPos (f k : Nat) (v : Word) : (setMsixWord f k v s).scrubPos = s.scrubPos := rfl
@[simp] theorem setMsixWord_out (f k : Nat) (v : Word) : (setMsixWord f k v s).out = s.out := rfl
@[simp] theorem setMsixWord_fresh (f k : Nat) (v : Word) : (setMsixWord f k v s).fresh = s.fresh := rfl

/-! `modRope` writes `ropes`. -/

@[simp] theorem modRope_pending (r : Nat) (f : Rope → Rope) : (modRope r f s).pending = s.pending := rfl
@[simp] theorem modRope_regs (r : Nat) (f : Rope → Rope) : (modRope r f s).regs = s.regs := rfl
@[simp] theorem modRope_latch (r : Nat) (f : Rope → Rope) : (modRope r f s).latch = s.latch := rfl
@[simp] theorem modRope_fns (r : Nat) (f : Rope → Rope) : (modRope r f s).fns = s.fns := rfl
@[simp] theorem modRope_mem (r : Nat) (f : Rope → Rope) : (modRope r f s).mem = s.mem := rfl
@[simp] theorem modRope_cores (r : Nat) (f : Rope → Rope) : (modRope r f s).cores = s.cores := rfl
@[simp] theorem modRope_ropes (r : Nat) (f : Rope → Rope) : (modRope r f s).ropes = tmod {} s.ropes r f := rfl
@[simp] theorem modRope_rtes (r : Nat) (f : Rope → Rope) : (modRope r f s).rtes = s.rtes := rfl
@[simp] theorem modRope_xes (r : Nat) (f : Rope → Rope) : (modRope r f s).xes = s.xes := rfl
@[simp] theorem modRope_msgs (r : Nat) (f : Rope → Rope) : (modRope r f s).msgs = s.msgs := rfl
@[simp] theorem modRope_ports (r : Nat) (f : Rope → Rope) : (modRope r f s).ports = s.ports := rfl
@[simp] theorem modRope_switch (r : Nat) (f : Rope → Rope) : (modRope r f s).switch = s.switch := rfl
@[simp] theorem modRope_chans (r : Nat) (f : Rope → Rope) : (modRope r f s).chans = s.chans := rfl
@[simp] theorem modRope_queues (r : Nat) (f : Rope → Rope) : (modRope r f s).queues = s.queues := rfl
@[simp] theorem modRope_instrCmds (r : Nat) (f : Rope → Rope) : (modRope r f s).instrCmds = s.instrCmds := rfl
@[simp] theorem modRope_tables (r : Nat) (f : Rope → Rope) : (modRope r f s).tables = s.tables := rfl
@[simp] theorem modRope_pools (r : Nat) (f : Rope → Rope) : (modRope r f s).pools = s.pools := rfl
@[simp] theorem modRope_belays (r : Nat) (f : Rope → Rope) : (modRope r f s).belays = s.belays := rfl
@[simp] theorem modRope_pf (r : Nat) (f : Rope → Rope) : (modRope r f s).pf = s.pf := rfl
@[simp] theorem modRope_sched (r : Nat) (f : Rope → Rope) : (modRope r f s).sched = s.sched := rfl
@[simp] theorem modRope_reads (r : Nat) (f : Rope → Rope) : (modRope r f s).reads = s.reads := rfl
@[simp] theorem modRope_readSeq (r : Nat) (f : Rope → Rope) : (modRope r f s).readSeq = s.readSeq := rfl
@[simp] theorem modRope_writes (r : Nat) (f : Rope → Rope) : (modRope r f s).writes = s.writes := rfl
@[simp] theorem modRope_heldSigs (r : Nat) (f : Rope → Rope) : (modRope r f s).heldSigs = s.heldSigs := rfl
@[simp] theorem modRope_seals (r : Nat) (f : Rope → Rope) : (modRope r f s).seals = s.seals := rfl
@[simp] theorem modRope_sealing (r : Nat) (f : Rope → Rope) : (modRope r f s).sealing = s.sealing := rfl
@[simp] theorem modRope_lockstep (r : Nat) (f : Rope → Rope) : (modRope r f s).lockstep = s.lockstep := rfl
@[simp] theorem modRope_bc (r : Nat) (f : Rope → Rope) : (modRope r f s).bc = s.bc := rfl
@[simp] theorem modRope_pins (r : Nat) (f : Rope → Rope) : (modRope r f s).pins = s.pins := rfl
@[simp] theorem modRope_pcie (r : Nat) (f : Rope → Rope) : (modRope r f s).pcie = s.pcie := rfl
@[simp] theorem modRope_events (r : Nat) (f : Rope → Rope) : (modRope r f s).events = s.events := rfl
@[simp] theorem modRope_scrubPos (r : Nat) (f : Rope → Rope) : (modRope r f s).scrubPos = s.scrubPos := rfl
@[simp] theorem modRope_out (r : Nat) (f : Rope → Rope) : (modRope r f s).out = s.out := rfl
@[simp] theorem modRope_fresh (r : Nat) (f : Rope → Rope) : (modRope r f s).fresh = s.fresh := rfl

/-! `modCore` writes `cores`. -/

@[simp] theorem modCore_pending (c : Nat) (f : Core → Core) : (modCore c f s).pending = s.pending := rfl
@[simp] theorem modCore_regs (c : Nat) (f : Core → Core) : (modCore c f s).regs = s.regs := rfl
@[simp] theorem modCore_latch (c : Nat) (f : Core → Core) : (modCore c f s).latch = s.latch := rfl
@[simp] theorem modCore_fns (c : Nat) (f : Core → Core) : (modCore c f s).fns = s.fns := rfl
@[simp] theorem modCore_mem (c : Nat) (f : Core → Core) : (modCore c f s).mem = s.mem := rfl
@[simp] theorem modCore_cores (c : Nat) (f : Core → Core) : (modCore c f s).cores = tmod {} s.cores c f := rfl
@[simp] theorem modCore_ropes (c : Nat) (f : Core → Core) : (modCore c f s).ropes = s.ropes := rfl
@[simp] theorem modCore_rtes (c : Nat) (f : Core → Core) : (modCore c f s).rtes = s.rtes := rfl
@[simp] theorem modCore_xes (c : Nat) (f : Core → Core) : (modCore c f s).xes = s.xes := rfl
@[simp] theorem modCore_msgs (c : Nat) (f : Core → Core) : (modCore c f s).msgs = s.msgs := rfl
@[simp] theorem modCore_ports (c : Nat) (f : Core → Core) : (modCore c f s).ports = s.ports := rfl
@[simp] theorem modCore_switch (c : Nat) (f : Core → Core) : (modCore c f s).switch = s.switch := rfl
@[simp] theorem modCore_chans (c : Nat) (f : Core → Core) : (modCore c f s).chans = s.chans := rfl
@[simp] theorem modCore_queues (c : Nat) (f : Core → Core) : (modCore c f s).queues = s.queues := rfl
@[simp] theorem modCore_instrCmds (c : Nat) (f : Core → Core) : (modCore c f s).instrCmds = s.instrCmds := rfl
@[simp] theorem modCore_tables (c : Nat) (f : Core → Core) : (modCore c f s).tables = s.tables := rfl
@[simp] theorem modCore_pools (c : Nat) (f : Core → Core) : (modCore c f s).pools = s.pools := rfl
@[simp] theorem modCore_belays (c : Nat) (f : Core → Core) : (modCore c f s).belays = s.belays := rfl
@[simp] theorem modCore_pf (c : Nat) (f : Core → Core) : (modCore c f s).pf = s.pf := rfl
@[simp] theorem modCore_sched (c : Nat) (f : Core → Core) : (modCore c f s).sched = s.sched := rfl
@[simp] theorem modCore_reads (c : Nat) (f : Core → Core) : (modCore c f s).reads = s.reads := rfl
@[simp] theorem modCore_readSeq (c : Nat) (f : Core → Core) : (modCore c f s).readSeq = s.readSeq := rfl
@[simp] theorem modCore_writes (c : Nat) (f : Core → Core) : (modCore c f s).writes = s.writes := rfl
@[simp] theorem modCore_heldSigs (c : Nat) (f : Core → Core) : (modCore c f s).heldSigs = s.heldSigs := rfl
@[simp] theorem modCore_seals (c : Nat) (f : Core → Core) : (modCore c f s).seals = s.seals := rfl
@[simp] theorem modCore_sealing (c : Nat) (f : Core → Core) : (modCore c f s).sealing = s.sealing := rfl
@[simp] theorem modCore_lockstep (c : Nat) (f : Core → Core) : (modCore c f s).lockstep = s.lockstep := rfl
@[simp] theorem modCore_bc (c : Nat) (f : Core → Core) : (modCore c f s).bc = s.bc := rfl
@[simp] theorem modCore_pins (c : Nat) (f : Core → Core) : (modCore c f s).pins = s.pins := rfl
@[simp] theorem modCore_pcie (c : Nat) (f : Core → Core) : (modCore c f s).pcie = s.pcie := rfl
@[simp] theorem modCore_events (c : Nat) (f : Core → Core) : (modCore c f s).events = s.events := rfl
@[simp] theorem modCore_scrubPos (c : Nat) (f : Core → Core) : (modCore c f s).scrubPos = s.scrubPos := rfl
@[simp] theorem modCore_out (c : Nat) (f : Core → Core) : (modCore c f s).out = s.out := rfl
@[simp] theorem modCore_fresh (c : Nat) (f : Core → Core) : (modCore c f s).fresh = s.fresh := rfl

/-! `modMsgs` writes `msgs`. -/

@[simp] theorem modMsgs_pending (f : Msgs → Msgs) : (modMsgs f s).pending = s.pending := rfl
@[simp] theorem modMsgs_regs (f : Msgs → Msgs) : (modMsgs f s).regs = s.regs := rfl
@[simp] theorem modMsgs_latch (f : Msgs → Msgs) : (modMsgs f s).latch = s.latch := rfl
@[simp] theorem modMsgs_fns (f : Msgs → Msgs) : (modMsgs f s).fns = s.fns := rfl
@[simp] theorem modMsgs_mem (f : Msgs → Msgs) : (modMsgs f s).mem = s.mem := rfl
@[simp] theorem modMsgs_cores (f : Msgs → Msgs) : (modMsgs f s).cores = s.cores := rfl
@[simp] theorem modMsgs_ropes (f : Msgs → Msgs) : (modMsgs f s).ropes = s.ropes := rfl
@[simp] theorem modMsgs_rtes (f : Msgs → Msgs) : (modMsgs f s).rtes = s.rtes := rfl
@[simp] theorem modMsgs_xes (f : Msgs → Msgs) : (modMsgs f s).xes = s.xes := rfl
@[simp] theorem modMsgs_msgs (f : Msgs → Msgs) : (modMsgs f s).msgs = f s.msgs := rfl
@[simp] theorem modMsgs_ports (f : Msgs → Msgs) : (modMsgs f s).ports = s.ports := rfl
@[simp] theorem modMsgs_switch (f : Msgs → Msgs) : (modMsgs f s).switch = s.switch := rfl
@[simp] theorem modMsgs_chans (f : Msgs → Msgs) : (modMsgs f s).chans = s.chans := rfl
@[simp] theorem modMsgs_queues (f : Msgs → Msgs) : (modMsgs f s).queues = s.queues := rfl
@[simp] theorem modMsgs_instrCmds (f : Msgs → Msgs) : (modMsgs f s).instrCmds = s.instrCmds := rfl
@[simp] theorem modMsgs_tables (f : Msgs → Msgs) : (modMsgs f s).tables = s.tables := rfl
@[simp] theorem modMsgs_pools (f : Msgs → Msgs) : (modMsgs f s).pools = s.pools := rfl
@[simp] theorem modMsgs_belays (f : Msgs → Msgs) : (modMsgs f s).belays = s.belays := rfl
@[simp] theorem modMsgs_pf (f : Msgs → Msgs) : (modMsgs f s).pf = s.pf := rfl
@[simp] theorem modMsgs_sched (f : Msgs → Msgs) : (modMsgs f s).sched = s.sched := rfl
@[simp] theorem modMsgs_reads (f : Msgs → Msgs) : (modMsgs f s).reads = s.reads := rfl
@[simp] theorem modMsgs_readSeq (f : Msgs → Msgs) : (modMsgs f s).readSeq = s.readSeq := rfl
@[simp] theorem modMsgs_writes (f : Msgs → Msgs) : (modMsgs f s).writes = s.writes := rfl
@[simp] theorem modMsgs_heldSigs (f : Msgs → Msgs) : (modMsgs f s).heldSigs = s.heldSigs := rfl
@[simp] theorem modMsgs_seals (f : Msgs → Msgs) : (modMsgs f s).seals = s.seals := rfl
@[simp] theorem modMsgs_sealing (f : Msgs → Msgs) : (modMsgs f s).sealing = s.sealing := rfl
@[simp] theorem modMsgs_lockstep (f : Msgs → Msgs) : (modMsgs f s).lockstep = s.lockstep := rfl
@[simp] theorem modMsgs_bc (f : Msgs → Msgs) : (modMsgs f s).bc = s.bc := rfl
@[simp] theorem modMsgs_pins (f : Msgs → Msgs) : (modMsgs f s).pins = s.pins := rfl
@[simp] theorem modMsgs_pcie (f : Msgs → Msgs) : (modMsgs f s).pcie = s.pcie := rfl
@[simp] theorem modMsgs_events (f : Msgs → Msgs) : (modMsgs f s).events = s.events := rfl
@[simp] theorem modMsgs_scrubPos (f : Msgs → Msgs) : (modMsgs f s).scrubPos = s.scrubPos := rfl
@[simp] theorem modMsgs_out (f : Msgs → Msgs) : (modMsgs f s).out = s.out := rfl
@[simp] theorem modMsgs_fresh (f : Msgs → Msgs) : (modMsgs f s).fresh = s.fresh := rfl

/-! `modPort` writes `ports`. -/

@[simp] theorem modPort_pending (n : Nat) (f : Port → Port) : (modPort n f s).pending = s.pending := rfl
@[simp] theorem modPort_regs (n : Nat) (f : Port → Port) : (modPort n f s).regs = s.regs := rfl
@[simp] theorem modPort_latch (n : Nat) (f : Port → Port) : (modPort n f s).latch = s.latch := rfl
@[simp] theorem modPort_fns (n : Nat) (f : Port → Port) : (modPort n f s).fns = s.fns := rfl
@[simp] theorem modPort_mem (n : Nat) (f : Port → Port) : (modPort n f s).mem = s.mem := rfl
@[simp] theorem modPort_cores (n : Nat) (f : Port → Port) : (modPort n f s).cores = s.cores := rfl
@[simp] theorem modPort_ropes (n : Nat) (f : Port → Port) : (modPort n f s).ropes = s.ropes := rfl
@[simp] theorem modPort_rtes (n : Nat) (f : Port → Port) : (modPort n f s).rtes = s.rtes := rfl
@[simp] theorem modPort_xes (n : Nat) (f : Port → Port) : (modPort n f s).xes = s.xes := rfl
@[simp] theorem modPort_msgs (n : Nat) (f : Port → Port) : (modPort n f s).msgs = s.msgs := rfl
@[simp] theorem modPort_ports (n : Nat) (f : Port → Port) : (modPort n f s).ports = tmod {} s.ports n f := rfl
@[simp] theorem modPort_switch (n : Nat) (f : Port → Port) : (modPort n f s).switch = s.switch := rfl
@[simp] theorem modPort_chans (n : Nat) (f : Port → Port) : (modPort n f s).chans = s.chans := rfl
@[simp] theorem modPort_queues (n : Nat) (f : Port → Port) : (modPort n f s).queues = s.queues := rfl
@[simp] theorem modPort_instrCmds (n : Nat) (f : Port → Port) : (modPort n f s).instrCmds = s.instrCmds := rfl
@[simp] theorem modPort_tables (n : Nat) (f : Port → Port) : (modPort n f s).tables = s.tables := rfl
@[simp] theorem modPort_pools (n : Nat) (f : Port → Port) : (modPort n f s).pools = s.pools := rfl
@[simp] theorem modPort_belays (n : Nat) (f : Port → Port) : (modPort n f s).belays = s.belays := rfl
@[simp] theorem modPort_pf (n : Nat) (f : Port → Port) : (modPort n f s).pf = s.pf := rfl
@[simp] theorem modPort_sched (n : Nat) (f : Port → Port) : (modPort n f s).sched = s.sched := rfl
@[simp] theorem modPort_reads (n : Nat) (f : Port → Port) : (modPort n f s).reads = s.reads := rfl
@[simp] theorem modPort_readSeq (n : Nat) (f : Port → Port) : (modPort n f s).readSeq = s.readSeq := rfl
@[simp] theorem modPort_writes (n : Nat) (f : Port → Port) : (modPort n f s).writes = s.writes := rfl
@[simp] theorem modPort_heldSigs (n : Nat) (f : Port → Port) : (modPort n f s).heldSigs = s.heldSigs := rfl
@[simp] theorem modPort_seals (n : Nat) (f : Port → Port) : (modPort n f s).seals = s.seals := rfl
@[simp] theorem modPort_sealing (n : Nat) (f : Port → Port) : (modPort n f s).sealing = s.sealing := rfl
@[simp] theorem modPort_lockstep (n : Nat) (f : Port → Port) : (modPort n f s).lockstep = s.lockstep := rfl
@[simp] theorem modPort_bc (n : Nat) (f : Port → Port) : (modPort n f s).bc = s.bc := rfl
@[simp] theorem modPort_pins (n : Nat) (f : Port → Port) : (modPort n f s).pins = s.pins := rfl
@[simp] theorem modPort_pcie (n : Nat) (f : Port → Port) : (modPort n f s).pcie = s.pcie := rfl
@[simp] theorem modPort_events (n : Nat) (f : Port → Port) : (modPort n f s).events = s.events := rfl
@[simp] theorem modPort_scrubPos (n : Nat) (f : Port → Port) : (modPort n f s).scrubPos = s.scrubPos := rfl
@[simp] theorem modPort_out (n : Nat) (f : Port → Port) : (modPort n f s).out = s.out := rfl
@[simp] theorem modPort_fresh (n : Nat) (f : Port → Port) : (modPort n f s).fresh = s.fresh := rfl

/-! `setInQ` writes `switch`. -/

@[simp] theorem setInQ_pending (i vc : Nat) (q : List Packet) : (setInQ i vc q s).pending = s.pending := rfl
@[simp] theorem setInQ_regs (i vc : Nat) (q : List Packet) : (setInQ i vc q s).regs = s.regs := rfl
@[simp] theorem setInQ_latch (i vc : Nat) (q : List Packet) : (setInQ i vc q s).latch = s.latch := rfl
@[simp] theorem setInQ_fns (i vc : Nat) (q : List Packet) : (setInQ i vc q s).fns = s.fns := rfl
@[simp] theorem setInQ_mem (i vc : Nat) (q : List Packet) : (setInQ i vc q s).mem = s.mem := rfl
@[simp] theorem setInQ_cores (i vc : Nat) (q : List Packet) : (setInQ i vc q s).cores = s.cores := rfl
@[simp] theorem setInQ_ropes (i vc : Nat) (q : List Packet) : (setInQ i vc q s).ropes = s.ropes := rfl
@[simp] theorem setInQ_rtes (i vc : Nat) (q : List Packet) : (setInQ i vc q s).rtes = s.rtes := rfl
@[simp] theorem setInQ_xes (i vc : Nat) (q : List Packet) : (setInQ i vc q s).xes = s.xes := rfl
@[simp] theorem setInQ_msgs (i vc : Nat) (q : List Packet) : (setInQ i vc q s).msgs = s.msgs := rfl
@[simp] theorem setInQ_ports (i vc : Nat) (q : List Packet) : (setInQ i vc q s).ports = s.ports := rfl
@[simp] theorem setInQ_chans (i vc : Nat) (q : List Packet) : (setInQ i vc q s).chans = s.chans := rfl
@[simp] theorem setInQ_queues (i vc : Nat) (q : List Packet) : (setInQ i vc q s).queues = s.queues := rfl
@[simp] theorem setInQ_instrCmds (i vc : Nat) (q : List Packet) : (setInQ i vc q s).instrCmds = s.instrCmds := rfl
@[simp] theorem setInQ_tables (i vc : Nat) (q : List Packet) : (setInQ i vc q s).tables = s.tables := rfl
@[simp] theorem setInQ_pools (i vc : Nat) (q : List Packet) : (setInQ i vc q s).pools = s.pools := rfl
@[simp] theorem setInQ_belays (i vc : Nat) (q : List Packet) : (setInQ i vc q s).belays = s.belays := rfl
@[simp] theorem setInQ_pf (i vc : Nat) (q : List Packet) : (setInQ i vc q s).pf = s.pf := rfl
@[simp] theorem setInQ_sched (i vc : Nat) (q : List Packet) : (setInQ i vc q s).sched = s.sched := rfl
@[simp] theorem setInQ_reads (i vc : Nat) (q : List Packet) : (setInQ i vc q s).reads = s.reads := rfl
@[simp] theorem setInQ_readSeq (i vc : Nat) (q : List Packet) : (setInQ i vc q s).readSeq = s.readSeq := rfl
@[simp] theorem setInQ_writes (i vc : Nat) (q : List Packet) : (setInQ i vc q s).writes = s.writes := rfl
@[simp] theorem setInQ_heldSigs (i vc : Nat) (q : List Packet) : (setInQ i vc q s).heldSigs = s.heldSigs := rfl
@[simp] theorem setInQ_seals (i vc : Nat) (q : List Packet) : (setInQ i vc q s).seals = s.seals := rfl
@[simp] theorem setInQ_sealing (i vc : Nat) (q : List Packet) : (setInQ i vc q s).sealing = s.sealing := rfl
@[simp] theorem setInQ_lockstep (i vc : Nat) (q : List Packet) : (setInQ i vc q s).lockstep = s.lockstep := rfl
@[simp] theorem setInQ_bc (i vc : Nat) (q : List Packet) : (setInQ i vc q s).bc = s.bc := rfl
@[simp] theorem setInQ_pins (i vc : Nat) (q : List Packet) : (setInQ i vc q s).pins = s.pins := rfl
@[simp] theorem setInQ_pcie (i vc : Nat) (q : List Packet) : (setInQ i vc q s).pcie = s.pcie := rfl
@[simp] theorem setInQ_events (i vc : Nat) (q : List Packet) : (setInQ i vc q s).events = s.events := rfl
@[simp] theorem setInQ_scrubPos (i vc : Nat) (q : List Packet) : (setInQ i vc q s).scrubPos = s.scrubPos := rfl
@[simp] theorem setInQ_out (i vc : Nat) (q : List Packet) : (setInQ i vc q s).out = s.out := rfl
@[simp] theorem setInQ_fresh (i vc : Nat) (q : List Packet) : (setInQ i vc q s).fresh = s.fresh := rfl

/-! `setOutQ` writes `switch`. -/

@[simp] theorem setOutQ_pending (o vc : Nat) (q : List (Packet × Nat × Bool)) : (setOutQ o vc q s).pending = s.pending := rfl
@[simp] theorem setOutQ_regs (o vc : Nat) (q : List (Packet × Nat × Bool)) : (setOutQ o vc q s).regs = s.regs := rfl
@[simp] theorem setOutQ_latch (o vc : Nat) (q : List (Packet × Nat × Bool)) : (setOutQ o vc q s).latch = s.latch := rfl
@[simp] theorem setOutQ_fns (o vc : Nat) (q : List (Packet × Nat × Bool)) : (setOutQ o vc q s).fns = s.fns := rfl
@[simp] theorem setOutQ_mem (o vc : Nat) (q : List (Packet × Nat × Bool)) : (setOutQ o vc q s).mem = s.mem := rfl
@[simp] theorem setOutQ_cores (o vc : Nat) (q : List (Packet × Nat × Bool)) : (setOutQ o vc q s).cores = s.cores := rfl
@[simp] theorem setOutQ_ropes (o vc : Nat) (q : List (Packet × Nat × Bool)) : (setOutQ o vc q s).ropes = s.ropes := rfl
@[simp] theorem setOutQ_rtes (o vc : Nat) (q : List (Packet × Nat × Bool)) : (setOutQ o vc q s).rtes = s.rtes := rfl
@[simp] theorem setOutQ_xes (o vc : Nat) (q : List (Packet × Nat × Bool)) : (setOutQ o vc q s).xes = s.xes := rfl
@[simp] theorem setOutQ_msgs (o vc : Nat) (q : List (Packet × Nat × Bool)) : (setOutQ o vc q s).msgs = s.msgs := rfl
@[simp] theorem setOutQ_ports (o vc : Nat) (q : List (Packet × Nat × Bool)) : (setOutQ o vc q s).ports = s.ports := rfl
@[simp] theorem setOutQ_chans (o vc : Nat) (q : List (Packet × Nat × Bool)) : (setOutQ o vc q s).chans = s.chans := rfl
@[simp] theorem setOutQ_queues (o vc : Nat) (q : List (Packet × Nat × Bool)) : (setOutQ o vc q s).queues = s.queues := rfl
@[simp] theorem setOutQ_instrCmds (o vc : Nat) (q : List (Packet × Nat × Bool)) : (setOutQ o vc q s).instrCmds = s.instrCmds := rfl
@[simp] theorem setOutQ_tables (o vc : Nat) (q : List (Packet × Nat × Bool)) : (setOutQ o vc q s).tables = s.tables := rfl
@[simp] theorem setOutQ_pools (o vc : Nat) (q : List (Packet × Nat × Bool)) : (setOutQ o vc q s).pools = s.pools := rfl
@[simp] theorem setOutQ_belays (o vc : Nat) (q : List (Packet × Nat × Bool)) : (setOutQ o vc q s).belays = s.belays := rfl
@[simp] theorem setOutQ_pf (o vc : Nat) (q : List (Packet × Nat × Bool)) : (setOutQ o vc q s).pf = s.pf := rfl
@[simp] theorem setOutQ_sched (o vc : Nat) (q : List (Packet × Nat × Bool)) : (setOutQ o vc q s).sched = s.sched := rfl
@[simp] theorem setOutQ_reads (o vc : Nat) (q : List (Packet × Nat × Bool)) : (setOutQ o vc q s).reads = s.reads := rfl
@[simp] theorem setOutQ_readSeq (o vc : Nat) (q : List (Packet × Nat × Bool)) : (setOutQ o vc q s).readSeq = s.readSeq := rfl
@[simp] theorem setOutQ_writes (o vc : Nat) (q : List (Packet × Nat × Bool)) : (setOutQ o vc q s).writes = s.writes := rfl
@[simp] theorem setOutQ_heldSigs (o vc : Nat) (q : List (Packet × Nat × Bool)) : (setOutQ o vc q s).heldSigs = s.heldSigs := rfl
@[simp] theorem setOutQ_seals (o vc : Nat) (q : List (Packet × Nat × Bool)) : (setOutQ o vc q s).seals = s.seals := rfl
@[simp] theorem setOutQ_sealing (o vc : Nat) (q : List (Packet × Nat × Bool)) : (setOutQ o vc q s).sealing = s.sealing := rfl
@[simp] theorem setOutQ_lockstep (o vc : Nat) (q : List (Packet × Nat × Bool)) : (setOutQ o vc q s).lockstep = s.lockstep := rfl
@[simp] theorem setOutQ_bc (o vc : Nat) (q : List (Packet × Nat × Bool)) : (setOutQ o vc q s).bc = s.bc := rfl
@[simp] theorem setOutQ_pins (o vc : Nat) (q : List (Packet × Nat × Bool)) : (setOutQ o vc q s).pins = s.pins := rfl
@[simp] theorem setOutQ_pcie (o vc : Nat) (q : List (Packet × Nat × Bool)) : (setOutQ o vc q s).pcie = s.pcie := rfl
@[simp] theorem setOutQ_events (o vc : Nat) (q : List (Packet × Nat × Bool)) : (setOutQ o vc q s).events = s.events := rfl
@[simp] theorem setOutQ_scrubPos (o vc : Nat) (q : List (Packet × Nat × Bool)) : (setOutQ o vc q s).scrubPos = s.scrubPos := rfl
@[simp] theorem setOutQ_out (o vc : Nat) (q : List (Packet × Nat × Bool)) : (setOutQ o vc q s).out = s.out := rfl
@[simp] theorem setOutQ_fresh (o vc : Nat) (q : List (Packet × Nat × Bool)) : (setOutQ o vc q s).fresh = s.fresh := rfl

/-! `modXe` writes `xes`. -/

@[simp] theorem modXe_pending (d : Nat) (f : Xe → Xe) : (modXe d f s).pending = s.pending := rfl
@[simp] theorem modXe_regs (d : Nat) (f : Xe → Xe) : (modXe d f s).regs = s.regs := rfl
@[simp] theorem modXe_latch (d : Nat) (f : Xe → Xe) : (modXe d f s).latch = s.latch := rfl
@[simp] theorem modXe_fns (d : Nat) (f : Xe → Xe) : (modXe d f s).fns = s.fns := rfl
@[simp] theorem modXe_mem (d : Nat) (f : Xe → Xe) : (modXe d f s).mem = s.mem := rfl
@[simp] theorem modXe_cores (d : Nat) (f : Xe → Xe) : (modXe d f s).cores = s.cores := rfl
@[simp] theorem modXe_ropes (d : Nat) (f : Xe → Xe) : (modXe d f s).ropes = s.ropes := rfl
@[simp] theorem modXe_rtes (d : Nat) (f : Xe → Xe) : (modXe d f s).rtes = s.rtes := rfl
@[simp] theorem modXe_xes (d : Nat) (f : Xe → Xe) : (modXe d f s).xes = tmod {} s.xes d f := rfl
@[simp] theorem modXe_msgs (d : Nat) (f : Xe → Xe) : (modXe d f s).msgs = s.msgs := rfl
@[simp] theorem modXe_ports (d : Nat) (f : Xe → Xe) : (modXe d f s).ports = s.ports := rfl
@[simp] theorem modXe_switch (d : Nat) (f : Xe → Xe) : (modXe d f s).switch = s.switch := rfl
@[simp] theorem modXe_chans (d : Nat) (f : Xe → Xe) : (modXe d f s).chans = s.chans := rfl
@[simp] theorem modXe_queues (d : Nat) (f : Xe → Xe) : (modXe d f s).queues = s.queues := rfl
@[simp] theorem modXe_instrCmds (d : Nat) (f : Xe → Xe) : (modXe d f s).instrCmds = s.instrCmds := rfl
@[simp] theorem modXe_tables (d : Nat) (f : Xe → Xe) : (modXe d f s).tables = s.tables := rfl
@[simp] theorem modXe_pools (d : Nat) (f : Xe → Xe) : (modXe d f s).pools = s.pools := rfl
@[simp] theorem modXe_belays (d : Nat) (f : Xe → Xe) : (modXe d f s).belays = s.belays := rfl
@[simp] theorem modXe_pf (d : Nat) (f : Xe → Xe) : (modXe d f s).pf = s.pf := rfl
@[simp] theorem modXe_sched (d : Nat) (f : Xe → Xe) : (modXe d f s).sched = s.sched := rfl
@[simp] theorem modXe_reads (d : Nat) (f : Xe → Xe) : (modXe d f s).reads = s.reads := rfl
@[simp] theorem modXe_readSeq (d : Nat) (f : Xe → Xe) : (modXe d f s).readSeq = s.readSeq := rfl
@[simp] theorem modXe_writes (d : Nat) (f : Xe → Xe) : (modXe d f s).writes = s.writes := rfl
@[simp] theorem modXe_heldSigs (d : Nat) (f : Xe → Xe) : (modXe d f s).heldSigs = s.heldSigs := rfl
@[simp] theorem modXe_seals (d : Nat) (f : Xe → Xe) : (modXe d f s).seals = s.seals := rfl
@[simp] theorem modXe_sealing (d : Nat) (f : Xe → Xe) : (modXe d f s).sealing = s.sealing := rfl
@[simp] theorem modXe_lockstep (d : Nat) (f : Xe → Xe) : (modXe d f s).lockstep = s.lockstep := rfl
@[simp] theorem modXe_bc (d : Nat) (f : Xe → Xe) : (modXe d f s).bc = s.bc := rfl
@[simp] theorem modXe_pins (d : Nat) (f : Xe → Xe) : (modXe d f s).pins = s.pins := rfl
@[simp] theorem modXe_pcie (d : Nat) (f : Xe → Xe) : (modXe d f s).pcie = s.pcie := rfl
@[simp] theorem modXe_events (d : Nat) (f : Xe → Xe) : (modXe d f s).events = s.events := rfl
@[simp] theorem modXe_scrubPos (d : Nat) (f : Xe → Xe) : (modXe d f s).scrubPos = s.scrubPos := rfl
@[simp] theorem modXe_out (d : Nat) (f : Xe → Xe) : (modXe d f s).out = s.out := rfl
@[simp] theorem modXe_fresh (d : Nat) (f : Xe → Xe) : (modXe d f s).fresh = s.fresh := rfl

/-! `modChan` writes `chans`. -/

@[simp] theorem modChan_pending (c : Nat) (f : Chan → Chan) : (modChan c f s).pending = s.pending := rfl
@[simp] theorem modChan_regs (c : Nat) (f : Chan → Chan) : (modChan c f s).regs = s.regs := rfl
@[simp] theorem modChan_latch (c : Nat) (f : Chan → Chan) : (modChan c f s).latch = s.latch := rfl
@[simp] theorem modChan_fns (c : Nat) (f : Chan → Chan) : (modChan c f s).fns = s.fns := rfl
@[simp] theorem modChan_mem (c : Nat) (f : Chan → Chan) : (modChan c f s).mem = s.mem := rfl
@[simp] theorem modChan_cores (c : Nat) (f : Chan → Chan) : (modChan c f s).cores = s.cores := rfl
@[simp] theorem modChan_ropes (c : Nat) (f : Chan → Chan) : (modChan c f s).ropes = s.ropes := rfl
@[simp] theorem modChan_rtes (c : Nat) (f : Chan → Chan) : (modChan c f s).rtes = s.rtes := rfl
@[simp] theorem modChan_xes (c : Nat) (f : Chan → Chan) : (modChan c f s).xes = s.xes := rfl
@[simp] theorem modChan_msgs (c : Nat) (f : Chan → Chan) : (modChan c f s).msgs = s.msgs := rfl
@[simp] theorem modChan_ports (c : Nat) (f : Chan → Chan) : (modChan c f s).ports = s.ports := rfl
@[simp] theorem modChan_switch (c : Nat) (f : Chan → Chan) : (modChan c f s).switch = s.switch := rfl
@[simp] theorem modChan_chans (c : Nat) (f : Chan → Chan) : (modChan c f s).chans = tmod {} s.chans c f := rfl
@[simp] theorem modChan_queues (c : Nat) (f : Chan → Chan) : (modChan c f s).queues = s.queues := rfl
@[simp] theorem modChan_instrCmds (c : Nat) (f : Chan → Chan) : (modChan c f s).instrCmds = s.instrCmds := rfl
@[simp] theorem modChan_tables (c : Nat) (f : Chan → Chan) : (modChan c f s).tables = s.tables := rfl
@[simp] theorem modChan_pools (c : Nat) (f : Chan → Chan) : (modChan c f s).pools = s.pools := rfl
@[simp] theorem modChan_belays (c : Nat) (f : Chan → Chan) : (modChan c f s).belays = s.belays := rfl
@[simp] theorem modChan_pf (c : Nat) (f : Chan → Chan) : (modChan c f s).pf = s.pf := rfl
@[simp] theorem modChan_sched (c : Nat) (f : Chan → Chan) : (modChan c f s).sched = s.sched := rfl
@[simp] theorem modChan_reads (c : Nat) (f : Chan → Chan) : (modChan c f s).reads = s.reads := rfl
@[simp] theorem modChan_readSeq (c : Nat) (f : Chan → Chan) : (modChan c f s).readSeq = s.readSeq := rfl
@[simp] theorem modChan_writes (c : Nat) (f : Chan → Chan) : (modChan c f s).writes = s.writes := rfl
@[simp] theorem modChan_heldSigs (c : Nat) (f : Chan → Chan) : (modChan c f s).heldSigs = s.heldSigs := rfl
@[simp] theorem modChan_seals (c : Nat) (f : Chan → Chan) : (modChan c f s).seals = s.seals := rfl
@[simp] theorem modChan_sealing (c : Nat) (f : Chan → Chan) : (modChan c f s).sealing = s.sealing := rfl
@[simp] theorem modChan_lockstep (c : Nat) (f : Chan → Chan) : (modChan c f s).lockstep = s.lockstep := rfl
@[simp] theorem modChan_bc (c : Nat) (f : Chan → Chan) : (modChan c f s).bc = s.bc := rfl
@[simp] theorem modChan_pins (c : Nat) (f : Chan → Chan) : (modChan c f s).pins = s.pins := rfl
@[simp] theorem modChan_pcie (c : Nat) (f : Chan → Chan) : (modChan c f s).pcie = s.pcie := rfl
@[simp] theorem modChan_events (c : Nat) (f : Chan → Chan) : (modChan c f s).events = s.events := rfl
@[simp] theorem modChan_scrubPos (c : Nat) (f : Chan → Chan) : (modChan c f s).scrubPos = s.scrubPos := rfl
@[simp] theorem modChan_out (c : Nat) (f : Chan → Chan) : (modChan c f s).out = s.out := rfl
@[simp] theorem modChan_fresh (c : Nat) (f : Chan → Chan) : (modChan c f s).fresh = s.fresh := rfl

/-! `modTables` writes `tables`. -/

@[simp] theorem modTables_pending (f : Tables → Tables) : (modTables f s).pending = s.pending := rfl
@[simp] theorem modTables_regs (f : Tables → Tables) : (modTables f s).regs = s.regs := rfl
@[simp] theorem modTables_latch (f : Tables → Tables) : (modTables f s).latch = s.latch := rfl
@[simp] theorem modTables_fns (f : Tables → Tables) : (modTables f s).fns = s.fns := rfl
@[simp] theorem modTables_mem (f : Tables → Tables) : (modTables f s).mem = s.mem := rfl
@[simp] theorem modTables_cores (f : Tables → Tables) : (modTables f s).cores = s.cores := rfl
@[simp] theorem modTables_ropes (f : Tables → Tables) : (modTables f s).ropes = s.ropes := rfl
@[simp] theorem modTables_rtes (f : Tables → Tables) : (modTables f s).rtes = s.rtes := rfl
@[simp] theorem modTables_xes (f : Tables → Tables) : (modTables f s).xes = s.xes := rfl
@[simp] theorem modTables_msgs (f : Tables → Tables) : (modTables f s).msgs = s.msgs := rfl
@[simp] theorem modTables_ports (f : Tables → Tables) : (modTables f s).ports = s.ports := rfl
@[simp] theorem modTables_switch (f : Tables → Tables) : (modTables f s).switch = s.switch := rfl
@[simp] theorem modTables_chans (f : Tables → Tables) : (modTables f s).chans = s.chans := rfl
@[simp] theorem modTables_queues (f : Tables → Tables) : (modTables f s).queues = s.queues := rfl
@[simp] theorem modTables_instrCmds (f : Tables → Tables) : (modTables f s).instrCmds = s.instrCmds := rfl
@[simp] theorem modTables_tables (f : Tables → Tables) : (modTables f s).tables = f s.tables := rfl
@[simp] theorem modTables_pools (f : Tables → Tables) : (modTables f s).pools = s.pools := rfl
@[simp] theorem modTables_belays (f : Tables → Tables) : (modTables f s).belays = s.belays := rfl
@[simp] theorem modTables_pf (f : Tables → Tables) : (modTables f s).pf = s.pf := rfl
@[simp] theorem modTables_sched (f : Tables → Tables) : (modTables f s).sched = s.sched := rfl
@[simp] theorem modTables_reads (f : Tables → Tables) : (modTables f s).reads = s.reads := rfl
@[simp] theorem modTables_readSeq (f : Tables → Tables) : (modTables f s).readSeq = s.readSeq := rfl
@[simp] theorem modTables_writes (f : Tables → Tables) : (modTables f s).writes = s.writes := rfl
@[simp] theorem modTables_heldSigs (f : Tables → Tables) : (modTables f s).heldSigs = s.heldSigs := rfl
@[simp] theorem modTables_seals (f : Tables → Tables) : (modTables f s).seals = s.seals := rfl
@[simp] theorem modTables_sealing (f : Tables → Tables) : (modTables f s).sealing = s.sealing := rfl
@[simp] theorem modTables_lockstep (f : Tables → Tables) : (modTables f s).lockstep = s.lockstep := rfl
@[simp] theorem modTables_bc (f : Tables → Tables) : (modTables f s).bc = s.bc := rfl
@[simp] theorem modTables_pins (f : Tables → Tables) : (modTables f s).pins = s.pins := rfl
@[simp] theorem modTables_pcie (f : Tables → Tables) : (modTables f s).pcie = s.pcie := rfl
@[simp] theorem modTables_events (f : Tables → Tables) : (modTables f s).events = s.events := rfl
@[simp] theorem modTables_scrubPos (f : Tables → Tables) : (modTables f s).scrubPos = s.scrubPos := rfl
@[simp] theorem modTables_out (f : Tables → Tables) : (modTables f s).out = s.out := rfl
@[simp] theorem modTables_fresh (f : Tables → Tables) : (modTables f s).fresh = s.fresh := rfl

/-! `modQueue` writes `queues`. -/

@[simp] theorem modQueue_pending (q : Nat) (f : CmdQ → CmdQ) : (modQueue q f s).pending = s.pending := rfl
@[simp] theorem modQueue_regs (q : Nat) (f : CmdQ → CmdQ) : (modQueue q f s).regs = s.regs := rfl
@[simp] theorem modQueue_latch (q : Nat) (f : CmdQ → CmdQ) : (modQueue q f s).latch = s.latch := rfl
@[simp] theorem modQueue_fns (q : Nat) (f : CmdQ → CmdQ) : (modQueue q f s).fns = s.fns := rfl
@[simp] theorem modQueue_mem (q : Nat) (f : CmdQ → CmdQ) : (modQueue q f s).mem = s.mem := rfl
@[simp] theorem modQueue_cores (q : Nat) (f : CmdQ → CmdQ) : (modQueue q f s).cores = s.cores := rfl
@[simp] theorem modQueue_ropes (q : Nat) (f : CmdQ → CmdQ) : (modQueue q f s).ropes = s.ropes := rfl
@[simp] theorem modQueue_rtes (q : Nat) (f : CmdQ → CmdQ) : (modQueue q f s).rtes = s.rtes := rfl
@[simp] theorem modQueue_xes (q : Nat) (f : CmdQ → CmdQ) : (modQueue q f s).xes = s.xes := rfl
@[simp] theorem modQueue_msgs (q : Nat) (f : CmdQ → CmdQ) : (modQueue q f s).msgs = s.msgs := rfl
@[simp] theorem modQueue_ports (q : Nat) (f : CmdQ → CmdQ) : (modQueue q f s).ports = s.ports := rfl
@[simp] theorem modQueue_switch (q : Nat) (f : CmdQ → CmdQ) : (modQueue q f s).switch = s.switch := rfl
@[simp] theorem modQueue_chans (q : Nat) (f : CmdQ → CmdQ) : (modQueue q f s).chans = s.chans := rfl
@[simp] theorem modQueue_instrCmds (q : Nat) (f : CmdQ → CmdQ) : (modQueue q f s).instrCmds = s.instrCmds := rfl
@[simp] theorem modQueue_tables (q : Nat) (f : CmdQ → CmdQ) : (modQueue q f s).tables = s.tables := rfl
@[simp] theorem modQueue_pools (q : Nat) (f : CmdQ → CmdQ) : (modQueue q f s).pools = s.pools := rfl
@[simp] theorem modQueue_belays (q : Nat) (f : CmdQ → CmdQ) : (modQueue q f s).belays = s.belays := rfl
@[simp] theorem modQueue_pf (q : Nat) (f : CmdQ → CmdQ) : (modQueue q f s).pf = s.pf := rfl
@[simp] theorem modQueue_sched (q : Nat) (f : CmdQ → CmdQ) : (modQueue q f s).sched = s.sched := rfl
@[simp] theorem modQueue_reads (q : Nat) (f : CmdQ → CmdQ) : (modQueue q f s).reads = s.reads := rfl
@[simp] theorem modQueue_readSeq (q : Nat) (f : CmdQ → CmdQ) : (modQueue q f s).readSeq = s.readSeq := rfl
@[simp] theorem modQueue_writes (q : Nat) (f : CmdQ → CmdQ) : (modQueue q f s).writes = s.writes := rfl
@[simp] theorem modQueue_heldSigs (q : Nat) (f : CmdQ → CmdQ) : (modQueue q f s).heldSigs = s.heldSigs := rfl
@[simp] theorem modQueue_seals (q : Nat) (f : CmdQ → CmdQ) : (modQueue q f s).seals = s.seals := rfl
@[simp] theorem modQueue_sealing (q : Nat) (f : CmdQ → CmdQ) : (modQueue q f s).sealing = s.sealing := rfl
@[simp] theorem modQueue_lockstep (q : Nat) (f : CmdQ → CmdQ) : (modQueue q f s).lockstep = s.lockstep := rfl
@[simp] theorem modQueue_bc (q : Nat) (f : CmdQ → CmdQ) : (modQueue q f s).bc = s.bc := rfl
@[simp] theorem modQueue_pins (q : Nat) (f : CmdQ → CmdQ) : (modQueue q f s).pins = s.pins := rfl
@[simp] theorem modQueue_pcie (q : Nat) (f : CmdQ → CmdQ) : (modQueue q f s).pcie = s.pcie := rfl
@[simp] theorem modQueue_events (q : Nat) (f : CmdQ → CmdQ) : (modQueue q f s).events = s.events := rfl
@[simp] theorem modQueue_scrubPos (q : Nat) (f : CmdQ → CmdQ) : (modQueue q f s).scrubPos = s.scrubPos := rfl
@[simp] theorem modQueue_out (q : Nat) (f : CmdQ → CmdQ) : (modQueue q f s).out = s.out := rfl
@[simp] theorem modQueue_fresh (q : Nat) (f : CmdQ → CmdQ) : (modQueue q f s).fresh = s.fresh := rfl

/-! `modPool` writes `pools`. -/

@[simp] theorem modPool_pending (p : Nat) (f : Pool → Pool) : (modPool p f s).pending = s.pending := rfl
@[simp] theorem modPool_regs (p : Nat) (f : Pool → Pool) : (modPool p f s).regs = s.regs := rfl
@[simp] theorem modPool_latch (p : Nat) (f : Pool → Pool) : (modPool p f s).latch = s.latch := rfl
@[simp] theorem modPool_fns (p : Nat) (f : Pool → Pool) : (modPool p f s).fns = s.fns := rfl
@[simp] theorem modPool_mem (p : Nat) (f : Pool → Pool) : (modPool p f s).mem = s.mem := rfl
@[simp] theorem modPool_cores (p : Nat) (f : Pool → Pool) : (modPool p f s).cores = s.cores := rfl
@[simp] theorem modPool_ropes (p : Nat) (f : Pool → Pool) : (modPool p f s).ropes = s.ropes := rfl
@[simp] theorem modPool_rtes (p : Nat) (f : Pool → Pool) : (modPool p f s).rtes = s.rtes := rfl
@[simp] theorem modPool_xes (p : Nat) (f : Pool → Pool) : (modPool p f s).xes = s.xes := rfl
@[simp] theorem modPool_msgs (p : Nat) (f : Pool → Pool) : (modPool p f s).msgs = s.msgs := rfl
@[simp] theorem modPool_ports (p : Nat) (f : Pool → Pool) : (modPool p f s).ports = s.ports := rfl
@[simp] theorem modPool_switch (p : Nat) (f : Pool → Pool) : (modPool p f s).switch = s.switch := rfl
@[simp] theorem modPool_chans (p : Nat) (f : Pool → Pool) : (modPool p f s).chans = s.chans := rfl
@[simp] theorem modPool_queues (p : Nat) (f : Pool → Pool) : (modPool p f s).queues = s.queues := rfl
@[simp] theorem modPool_instrCmds (p : Nat) (f : Pool → Pool) : (modPool p f s).instrCmds = s.instrCmds := rfl
@[simp] theorem modPool_tables (p : Nat) (f : Pool → Pool) : (modPool p f s).tables = s.tables := rfl
@[simp] theorem modPool_pools (p : Nat) (f : Pool → Pool) : (modPool p f s).pools = tmod {} s.pools p f := rfl
@[simp] theorem modPool_belays (p : Nat) (f : Pool → Pool) : (modPool p f s).belays = s.belays := rfl
@[simp] theorem modPool_pf (p : Nat) (f : Pool → Pool) : (modPool p f s).pf = s.pf := rfl
@[simp] theorem modPool_sched (p : Nat) (f : Pool → Pool) : (modPool p f s).sched = s.sched := rfl
@[simp] theorem modPool_reads (p : Nat) (f : Pool → Pool) : (modPool p f s).reads = s.reads := rfl
@[simp] theorem modPool_readSeq (p : Nat) (f : Pool → Pool) : (modPool p f s).readSeq = s.readSeq := rfl
@[simp] theorem modPool_writes (p : Nat) (f : Pool → Pool) : (modPool p f s).writes = s.writes := rfl
@[simp] theorem modPool_heldSigs (p : Nat) (f : Pool → Pool) : (modPool p f s).heldSigs = s.heldSigs := rfl
@[simp] theorem modPool_seals (p : Nat) (f : Pool → Pool) : (modPool p f s).seals = s.seals := rfl
@[simp] theorem modPool_sealing (p : Nat) (f : Pool → Pool) : (modPool p f s).sealing = s.sealing := rfl
@[simp] theorem modPool_lockstep (p : Nat) (f : Pool → Pool) : (modPool p f s).lockstep = s.lockstep := rfl
@[simp] theorem modPool_bc (p : Nat) (f : Pool → Pool) : (modPool p f s).bc = s.bc := rfl
@[simp] theorem modPool_pins (p : Nat) (f : Pool → Pool) : (modPool p f s).pins = s.pins := rfl
@[simp] theorem modPool_pcie (p : Nat) (f : Pool → Pool) : (modPool p f s).pcie = s.pcie := rfl
@[simp] theorem modPool_events (p : Nat) (f : Pool → Pool) : (modPool p f s).events = s.events := rfl
@[simp] theorem modPool_scrubPos (p : Nat) (f : Pool → Pool) : (modPool p f s).scrubPos = s.scrubPos := rfl
@[simp] theorem modPool_out (p : Nat) (f : Pool → Pool) : (modPool p f s).out = s.out := rfl
@[simp] theorem modPool_fresh (p : Nat) (f : Pool → Pool) : (modPool p f s).fresh = s.fresh := rfl

/-! `modPf` writes `pf`. -/

@[simp] theorem modPf_pending (r d : Nat) (f : PfDie → PfDie) : (modPf r d f s).pending = s.pending := rfl
@[simp] theorem modPf_regs (r d : Nat) (f : PfDie → PfDie) : (modPf r d f s).regs = s.regs := rfl
@[simp] theorem modPf_latch (r d : Nat) (f : PfDie → PfDie) : (modPf r d f s).latch = s.latch := rfl
@[simp] theorem modPf_fns (r d : Nat) (f : PfDie → PfDie) : (modPf r d f s).fns = s.fns := rfl
@[simp] theorem modPf_mem (r d : Nat) (f : PfDie → PfDie) : (modPf r d f s).mem = s.mem := rfl
@[simp] theorem modPf_cores (r d : Nat) (f : PfDie → PfDie) : (modPf r d f s).cores = s.cores := rfl
@[simp] theorem modPf_ropes (r d : Nat) (f : PfDie → PfDie) : (modPf r d f s).ropes = s.ropes := rfl
@[simp] theorem modPf_rtes (r d : Nat) (f : PfDie → PfDie) : (modPf r d f s).rtes = s.rtes := rfl
@[simp] theorem modPf_xes (r d : Nat) (f : PfDie → PfDie) : (modPf r d f s).xes = s.xes := rfl
@[simp] theorem modPf_msgs (r d : Nat) (f : PfDie → PfDie) : (modPf r d f s).msgs = s.msgs := rfl
@[simp] theorem modPf_ports (r d : Nat) (f : PfDie → PfDie) : (modPf r d f s).ports = s.ports := rfl
@[simp] theorem modPf_switch (r d : Nat) (f : PfDie → PfDie) : (modPf r d f s).switch = s.switch := rfl
@[simp] theorem modPf_chans (r d : Nat) (f : PfDie → PfDie) : (modPf r d f s).chans = s.chans := rfl
@[simp] theorem modPf_queues (r d : Nat) (f : PfDie → PfDie) : (modPf r d f s).queues = s.queues := rfl
@[simp] theorem modPf_instrCmds (r d : Nat) (f : PfDie → PfDie) : (modPf r d f s).instrCmds = s.instrCmds := rfl
@[simp] theorem modPf_tables (r d : Nat) (f : PfDie → PfDie) : (modPf r d f s).tables = s.tables := rfl
@[simp] theorem modPf_pools (r d : Nat) (f : PfDie → PfDie) : (modPf r d f s).pools = s.pools := rfl
@[simp] theorem modPf_belays (r d : Nat) (f : PfDie → PfDie) : (modPf r d f s).belays = s.belays := rfl
@[simp] theorem modPf_sched (r d : Nat) (f : PfDie → PfDie) : (modPf r d f s).sched = s.sched := rfl
@[simp] theorem modPf_reads (r d : Nat) (f : PfDie → PfDie) : (modPf r d f s).reads = s.reads := rfl
@[simp] theorem modPf_readSeq (r d : Nat) (f : PfDie → PfDie) : (modPf r d f s).readSeq = s.readSeq := rfl
@[simp] theorem modPf_writes (r d : Nat) (f : PfDie → PfDie) : (modPf r d f s).writes = s.writes := rfl
@[simp] theorem modPf_heldSigs (r d : Nat) (f : PfDie → PfDie) : (modPf r d f s).heldSigs = s.heldSigs := rfl
@[simp] theorem modPf_seals (r d : Nat) (f : PfDie → PfDie) : (modPf r d f s).seals = s.seals := rfl
@[simp] theorem modPf_sealing (r d : Nat) (f : PfDie → PfDie) : (modPf r d f s).sealing = s.sealing := rfl
@[simp] theorem modPf_lockstep (r d : Nat) (f : PfDie → PfDie) : (modPf r d f s).lockstep = s.lockstep := rfl
@[simp] theorem modPf_bc (r d : Nat) (f : PfDie → PfDie) : (modPf r d f s).bc = s.bc := rfl
@[simp] theorem modPf_pins (r d : Nat) (f : PfDie → PfDie) : (modPf r d f s).pins = s.pins := rfl
@[simp] theorem modPf_pcie (r d : Nat) (f : PfDie → PfDie) : (modPf r d f s).pcie = s.pcie := rfl
@[simp] theorem modPf_events (r d : Nat) (f : PfDie → PfDie) : (modPf r d f s).events = s.events := rfl
@[simp] theorem modPf_scrubPos (r d : Nat) (f : PfDie → PfDie) : (modPf r d f s).scrubPos = s.scrubPos := rfl
@[simp] theorem modPf_out (r d : Nat) (f : PfDie → PfDie) : (modPf r d f s).out = s.out := rfl
@[simp] theorem modPf_fresh (r d : Nat) (f : PfDie → PfDie) : (modPf r d f s).fresh = s.fresh := rfl

/-! `modLs` writes `lockstep`. -/

@[simp] theorem modLs_pending (r : Nat) (f : LockStep → LockStep) : (modLs r f s).pending = s.pending := rfl
@[simp] theorem modLs_regs (r : Nat) (f : LockStep → LockStep) : (modLs r f s).regs = s.regs := rfl
@[simp] theorem modLs_latch (r : Nat) (f : LockStep → LockStep) : (modLs r f s).latch = s.latch := rfl
@[simp] theorem modLs_fns (r : Nat) (f : LockStep → LockStep) : (modLs r f s).fns = s.fns := rfl
@[simp] theorem modLs_mem (r : Nat) (f : LockStep → LockStep) : (modLs r f s).mem = s.mem := rfl
@[simp] theorem modLs_cores (r : Nat) (f : LockStep → LockStep) : (modLs r f s).cores = s.cores := rfl
@[simp] theorem modLs_ropes (r : Nat) (f : LockStep → LockStep) : (modLs r f s).ropes = s.ropes := rfl
@[simp] theorem modLs_rtes (r : Nat) (f : LockStep → LockStep) : (modLs r f s).rtes = s.rtes := rfl
@[simp] theorem modLs_xes (r : Nat) (f : LockStep → LockStep) : (modLs r f s).xes = s.xes := rfl
@[simp] theorem modLs_msgs (r : Nat) (f : LockStep → LockStep) : (modLs r f s).msgs = s.msgs := rfl
@[simp] theorem modLs_ports (r : Nat) (f : LockStep → LockStep) : (modLs r f s).ports = s.ports := rfl
@[simp] theorem modLs_switch (r : Nat) (f : LockStep → LockStep) : (modLs r f s).switch = s.switch := rfl
@[simp] theorem modLs_chans (r : Nat) (f : LockStep → LockStep) : (modLs r f s).chans = s.chans := rfl
@[simp] theorem modLs_queues (r : Nat) (f : LockStep → LockStep) : (modLs r f s).queues = s.queues := rfl
@[simp] theorem modLs_instrCmds (r : Nat) (f : LockStep → LockStep) : (modLs r f s).instrCmds = s.instrCmds := rfl
@[simp] theorem modLs_tables (r : Nat) (f : LockStep → LockStep) : (modLs r f s).tables = s.tables := rfl
@[simp] theorem modLs_pools (r : Nat) (f : LockStep → LockStep) : (modLs r f s).pools = s.pools := rfl
@[simp] theorem modLs_belays (r : Nat) (f : LockStep → LockStep) : (modLs r f s).belays = s.belays := rfl
@[simp] theorem modLs_pf (r : Nat) (f : LockStep → LockStep) : (modLs r f s).pf = s.pf := rfl
@[simp] theorem modLs_sched (r : Nat) (f : LockStep → LockStep) : (modLs r f s).sched = s.sched := rfl
@[simp] theorem modLs_reads (r : Nat) (f : LockStep → LockStep) : (modLs r f s).reads = s.reads := rfl
@[simp] theorem modLs_readSeq (r : Nat) (f : LockStep → LockStep) : (modLs r f s).readSeq = s.readSeq := rfl
@[simp] theorem modLs_writes (r : Nat) (f : LockStep → LockStep) : (modLs r f s).writes = s.writes := rfl
@[simp] theorem modLs_heldSigs (r : Nat) (f : LockStep → LockStep) : (modLs r f s).heldSigs = s.heldSigs := rfl
@[simp] theorem modLs_seals (r : Nat) (f : LockStep → LockStep) : (modLs r f s).seals = s.seals := rfl
@[simp] theorem modLs_sealing (r : Nat) (f : LockStep → LockStep) : (modLs r f s).sealing = s.sealing := rfl
@[simp] theorem modLs_lockstep (r : Nat) (f : LockStep → LockStep) : (modLs r f s).lockstep = tmod {} s.lockstep r f := rfl
@[simp] theorem modLs_bc (r : Nat) (f : LockStep → LockStep) : (modLs r f s).bc = s.bc := rfl
@[simp] theorem modLs_pins (r : Nat) (f : LockStep → LockStep) : (modLs r f s).pins = s.pins := rfl
@[simp] theorem modLs_pcie (r : Nat) (f : LockStep → LockStep) : (modLs r f s).pcie = s.pcie := rfl
@[simp] theorem modLs_events (r : Nat) (f : LockStep → LockStep) : (modLs r f s).events = s.events := rfl
@[simp] theorem modLs_scrubPos (r : Nat) (f : LockStep → LockStep) : (modLs r f s).scrubPos = s.scrubPos := rfl
@[simp] theorem modLs_out (r : Nat) (f : LockStep → LockStep) : (modLs r f s).out = s.out := rfl
@[simp] theorem modLs_fresh (r : Nat) (f : LockStep → LockStep) : (modLs r f s).fresh = s.fresh := rfl

/-! `modSession` writes `bc`. -/

@[simp] theorem modSession_pending (k : Nat) (f : Session → Session) : (modSession k f s).pending = s.pending := rfl
@[simp] theorem modSession_regs (k : Nat) (f : Session → Session) : (modSession k f s).regs = s.regs := rfl
@[simp] theorem modSession_latch (k : Nat) (f : Session → Session) : (modSession k f s).latch = s.latch := rfl
@[simp] theorem modSession_fns (k : Nat) (f : Session → Session) : (modSession k f s).fns = s.fns := rfl
@[simp] theorem modSession_mem (k : Nat) (f : Session → Session) : (modSession k f s).mem = s.mem := rfl
@[simp] theorem modSession_cores (k : Nat) (f : Session → Session) : (modSession k f s).cores = s.cores := rfl
@[simp] theorem modSession_ropes (k : Nat) (f : Session → Session) : (modSession k f s).ropes = s.ropes := rfl
@[simp] theorem modSession_rtes (k : Nat) (f : Session → Session) : (modSession k f s).rtes = s.rtes := rfl
@[simp] theorem modSession_xes (k : Nat) (f : Session → Session) : (modSession k f s).xes = s.xes := rfl
@[simp] theorem modSession_msgs (k : Nat) (f : Session → Session) : (modSession k f s).msgs = s.msgs := rfl
@[simp] theorem modSession_ports (k : Nat) (f : Session → Session) : (modSession k f s).ports = s.ports := rfl
@[simp] theorem modSession_switch (k : Nat) (f : Session → Session) : (modSession k f s).switch = s.switch := rfl
@[simp] theorem modSession_chans (k : Nat) (f : Session → Session) : (modSession k f s).chans = s.chans := rfl
@[simp] theorem modSession_queues (k : Nat) (f : Session → Session) : (modSession k f s).queues = s.queues := rfl
@[simp] theorem modSession_instrCmds (k : Nat) (f : Session → Session) : (modSession k f s).instrCmds = s.instrCmds := rfl
@[simp] theorem modSession_tables (k : Nat) (f : Session → Session) : (modSession k f s).tables = s.tables := rfl
@[simp] theorem modSession_pools (k : Nat) (f : Session → Session) : (modSession k f s).pools = s.pools := rfl
@[simp] theorem modSession_belays (k : Nat) (f : Session → Session) : (modSession k f s).belays = s.belays := rfl
@[simp] theorem modSession_pf (k : Nat) (f : Session → Session) : (modSession k f s).pf = s.pf := rfl
@[simp] theorem modSession_sched (k : Nat) (f : Session → Session) : (modSession k f s).sched = s.sched := rfl
@[simp] theorem modSession_reads (k : Nat) (f : Session → Session) : (modSession k f s).reads = s.reads := rfl
@[simp] theorem modSession_readSeq (k : Nat) (f : Session → Session) : (modSession k f s).readSeq = s.readSeq := rfl
@[simp] theorem modSession_writes (k : Nat) (f : Session → Session) : (modSession k f s).writes = s.writes := rfl
@[simp] theorem modSession_heldSigs (k : Nat) (f : Session → Session) : (modSession k f s).heldSigs = s.heldSigs := rfl
@[simp] theorem modSession_seals (k : Nat) (f : Session → Session) : (modSession k f s).seals = s.seals := rfl
@[simp] theorem modSession_sealing (k : Nat) (f : Session → Session) : (modSession k f s).sealing = s.sealing := rfl
@[simp] theorem modSession_lockstep (k : Nat) (f : Session → Session) : (modSession k f s).lockstep = s.lockstep := rfl
@[simp] theorem modSession_pins (k : Nat) (f : Session → Session) : (modSession k f s).pins = s.pins := rfl
@[simp] theorem modSession_pcie (k : Nat) (f : Session → Session) : (modSession k f s).pcie = s.pcie := rfl
@[simp] theorem modSession_events (k : Nat) (f : Session → Session) : (modSession k f s).events = s.events := rfl
@[simp] theorem modSession_scrubPos (k : Nat) (f : Session → Session) : (modSession k f s).scrubPos = s.scrubPos := rfl
@[simp] theorem modSession_out (k : Nat) (f : Session → Session) : (modSession k f s).out = s.out := rfl
@[simp] theorem modSession_fresh (k : Nat) (f : Session → Session) : (modSession k f s).fresh = s.fresh := rfl

/-! `setSealStatus` writes `fns`. -/

@[simp] theorem setSealStatus_pending (f : Requester) (v : Word) : (setSealStatus f v s).pending = s.pending := rfl
@[simp] theorem setSealStatus_regs (f : Requester) (v : Word) : (setSealStatus f v s).regs = s.regs := rfl
@[simp] theorem setSealStatus_latch (f : Requester) (v : Word) : (setSealStatus f v s).latch = s.latch := rfl
@[simp] theorem setSealStatus_mem (f : Requester) (v : Word) : (setSealStatus f v s).mem = s.mem := rfl
@[simp] theorem setSealStatus_cores (f : Requester) (v : Word) : (setSealStatus f v s).cores = s.cores := rfl
@[simp] theorem setSealStatus_ropes (f : Requester) (v : Word) : (setSealStatus f v s).ropes = s.ropes := rfl
@[simp] theorem setSealStatus_rtes (f : Requester) (v : Word) : (setSealStatus f v s).rtes = s.rtes := rfl
@[simp] theorem setSealStatus_xes (f : Requester) (v : Word) : (setSealStatus f v s).xes = s.xes := rfl
@[simp] theorem setSealStatus_msgs (f : Requester) (v : Word) : (setSealStatus f v s).msgs = s.msgs := rfl
@[simp] theorem setSealStatus_ports (f : Requester) (v : Word) : (setSealStatus f v s).ports = s.ports := rfl
@[simp] theorem setSealStatus_switch (f : Requester) (v : Word) : (setSealStatus f v s).switch = s.switch := rfl
@[simp] theorem setSealStatus_chans (f : Requester) (v : Word) : (setSealStatus f v s).chans = s.chans := rfl
@[simp] theorem setSealStatus_queues (f : Requester) (v : Word) : (setSealStatus f v s).queues = s.queues := rfl
@[simp] theorem setSealStatus_instrCmds (f : Requester) (v : Word) : (setSealStatus f v s).instrCmds = s.instrCmds := rfl
@[simp] theorem setSealStatus_tables (f : Requester) (v : Word) : (setSealStatus f v s).tables = s.tables := rfl
@[simp] theorem setSealStatus_pools (f : Requester) (v : Word) : (setSealStatus f v s).pools = s.pools := rfl
@[simp] theorem setSealStatus_belays (f : Requester) (v : Word) : (setSealStatus f v s).belays = s.belays := rfl
@[simp] theorem setSealStatus_pf (f : Requester) (v : Word) : (setSealStatus f v s).pf = s.pf := rfl
@[simp] theorem setSealStatus_sched (f : Requester) (v : Word) : (setSealStatus f v s).sched = s.sched := rfl
@[simp] theorem setSealStatus_reads (f : Requester) (v : Word) : (setSealStatus f v s).reads = s.reads := rfl
@[simp] theorem setSealStatus_readSeq (f : Requester) (v : Word) : (setSealStatus f v s).readSeq = s.readSeq := rfl
@[simp] theorem setSealStatus_writes (f : Requester) (v : Word) : (setSealStatus f v s).writes = s.writes := rfl
@[simp] theorem setSealStatus_heldSigs (f : Requester) (v : Word) : (setSealStatus f v s).heldSigs = s.heldSigs := rfl
@[simp] theorem setSealStatus_seals (f : Requester) (v : Word) : (setSealStatus f v s).seals = s.seals := rfl
@[simp] theorem setSealStatus_sealing (f : Requester) (v : Word) : (setSealStatus f v s).sealing = s.sealing := rfl
@[simp] theorem setSealStatus_lockstep (f : Requester) (v : Word) : (setSealStatus f v s).lockstep = s.lockstep := rfl
@[simp] theorem setSealStatus_bc (f : Requester) (v : Word) : (setSealStatus f v s).bc = s.bc := rfl
@[simp] theorem setSealStatus_pins (f : Requester) (v : Word) : (setSealStatus f v s).pins = s.pins := rfl
@[simp] theorem setSealStatus_pcie (f : Requester) (v : Word) : (setSealStatus f v s).pcie = s.pcie := rfl
@[simp] theorem setSealStatus_events (f : Requester) (v : Word) : (setSealStatus f v s).events = s.events := rfl
@[simp] theorem setSealStatus_scrubPos (f : Requester) (v : Word) : (setSealStatus f v s).scrubPos = s.scrubPos := rfl
@[simp] theorem setSealStatus_out (f : Requester) (v : Word) : (setSealStatus f v s).out = s.out := rfl
@[simp] theorem setSealStatus_fresh (f : Requester) (v : Word) : (setSealStatus f v s).fresh = s.fresh := rfl

/-! `setQuoteStatus` writes `fns`. -/

@[simp] theorem setQuoteStatus_pending (f : Requester) (v : Word) : (setQuoteStatus f v s).pending = s.pending := rfl
@[simp] theorem setQuoteStatus_regs (f : Requester) (v : Word) : (setQuoteStatus f v s).regs = s.regs := rfl
@[simp] theorem setQuoteStatus_latch (f : Requester) (v : Word) : (setQuoteStatus f v s).latch = s.latch := rfl
@[simp] theorem setQuoteStatus_mem (f : Requester) (v : Word) : (setQuoteStatus f v s).mem = s.mem := rfl
@[simp] theorem setQuoteStatus_cores (f : Requester) (v : Word) : (setQuoteStatus f v s).cores = s.cores := rfl
@[simp] theorem setQuoteStatus_ropes (f : Requester) (v : Word) : (setQuoteStatus f v s).ropes = s.ropes := rfl
@[simp] theorem setQuoteStatus_rtes (f : Requester) (v : Word) : (setQuoteStatus f v s).rtes = s.rtes := rfl
@[simp] theorem setQuoteStatus_xes (f : Requester) (v : Word) : (setQuoteStatus f v s).xes = s.xes := rfl
@[simp] theorem setQuoteStatus_msgs (f : Requester) (v : Word) : (setQuoteStatus f v s).msgs = s.msgs := rfl
@[simp] theorem setQuoteStatus_ports (f : Requester) (v : Word) : (setQuoteStatus f v s).ports = s.ports := rfl
@[simp] theorem setQuoteStatus_switch (f : Requester) (v : Word) : (setQuoteStatus f v s).switch = s.switch := rfl
@[simp] theorem setQuoteStatus_chans (f : Requester) (v : Word) : (setQuoteStatus f v s).chans = s.chans := rfl
@[simp] theorem setQuoteStatus_queues (f : Requester) (v : Word) : (setQuoteStatus f v s).queues = s.queues := rfl
@[simp] theorem setQuoteStatus_instrCmds (f : Requester) (v : Word) : (setQuoteStatus f v s).instrCmds = s.instrCmds := rfl
@[simp] theorem setQuoteStatus_tables (f : Requester) (v : Word) : (setQuoteStatus f v s).tables = s.tables := rfl
@[simp] theorem setQuoteStatus_pools (f : Requester) (v : Word) : (setQuoteStatus f v s).pools = s.pools := rfl
@[simp] theorem setQuoteStatus_belays (f : Requester) (v : Word) : (setQuoteStatus f v s).belays = s.belays := rfl
@[simp] theorem setQuoteStatus_pf (f : Requester) (v : Word) : (setQuoteStatus f v s).pf = s.pf := rfl
@[simp] theorem setQuoteStatus_sched (f : Requester) (v : Word) : (setQuoteStatus f v s).sched = s.sched := rfl
@[simp] theorem setQuoteStatus_reads (f : Requester) (v : Word) : (setQuoteStatus f v s).reads = s.reads := rfl
@[simp] theorem setQuoteStatus_readSeq (f : Requester) (v : Word) : (setQuoteStatus f v s).readSeq = s.readSeq := rfl
@[simp] theorem setQuoteStatus_writes (f : Requester) (v : Word) : (setQuoteStatus f v s).writes = s.writes := rfl
@[simp] theorem setQuoteStatus_heldSigs (f : Requester) (v : Word) : (setQuoteStatus f v s).heldSigs = s.heldSigs := rfl
@[simp] theorem setQuoteStatus_seals (f : Requester) (v : Word) : (setQuoteStatus f v s).seals = s.seals := rfl
@[simp] theorem setQuoteStatus_sealing (f : Requester) (v : Word) : (setQuoteStatus f v s).sealing = s.sealing := rfl
@[simp] theorem setQuoteStatus_lockstep (f : Requester) (v : Word) : (setQuoteStatus f v s).lockstep = s.lockstep := rfl
@[simp] theorem setQuoteStatus_bc (f : Requester) (v : Word) : (setQuoteStatus f v s).bc = s.bc := rfl
@[simp] theorem setQuoteStatus_pins (f : Requester) (v : Word) : (setQuoteStatus f v s).pins = s.pins := rfl
@[simp] theorem setQuoteStatus_pcie (f : Requester) (v : Word) : (setQuoteStatus f v s).pcie = s.pcie := rfl
@[simp] theorem setQuoteStatus_events (f : Requester) (v : Word) : (setQuoteStatus f v s).events = s.events := rfl
@[simp] theorem setQuoteStatus_scrubPos (f : Requester) (v : Word) : (setQuoteStatus f v s).scrubPos = s.scrubPos := rfl
@[simp] theorem setQuoteStatus_out (f : Requester) (v : Word) : (setQuoteStatus f v s).out = s.out := rfl
@[simp] theorem setQuoteStatus_fresh (f : Requester) (v : Word) : (setQuoteStatus f v s).fresh = s.fresh := rfl

/-! `dropReads` writes `reads`. -/

@[simp] theorem dropReads_pending (i : Nat) : (dropReads i s).pending = s.pending := rfl
@[simp] theorem dropReads_regs (i : Nat) : (dropReads i s).regs = s.regs := rfl
@[simp] theorem dropReads_latch (i : Nat) : (dropReads i s).latch = s.latch := rfl
@[simp] theorem dropReads_fns (i : Nat) : (dropReads i s).fns = s.fns := rfl
@[simp] theorem dropReads_mem (i : Nat) : (dropReads i s).mem = s.mem := rfl
@[simp] theorem dropReads_cores (i : Nat) : (dropReads i s).cores = s.cores := rfl
@[simp] theorem dropReads_ropes (i : Nat) : (dropReads i s).ropes = s.ropes := rfl
@[simp] theorem dropReads_rtes (i : Nat) : (dropReads i s).rtes = s.rtes := rfl
@[simp] theorem dropReads_xes (i : Nat) : (dropReads i s).xes = s.xes := rfl
@[simp] theorem dropReads_msgs (i : Nat) : (dropReads i s).msgs = s.msgs := rfl
@[simp] theorem dropReads_ports (i : Nat) : (dropReads i s).ports = s.ports := rfl
@[simp] theorem dropReads_switch (i : Nat) : (dropReads i s).switch = s.switch := rfl
@[simp] theorem dropReads_chans (i : Nat) : (dropReads i s).chans = s.chans := rfl
@[simp] theorem dropReads_queues (i : Nat) : (dropReads i s).queues = s.queues := rfl
@[simp] theorem dropReads_instrCmds (i : Nat) : (dropReads i s).instrCmds = s.instrCmds := rfl
@[simp] theorem dropReads_tables (i : Nat) : (dropReads i s).tables = s.tables := rfl
@[simp] theorem dropReads_pools (i : Nat) : (dropReads i s).pools = s.pools := rfl
@[simp] theorem dropReads_belays (i : Nat) : (dropReads i s).belays = s.belays := rfl
@[simp] theorem dropReads_pf (i : Nat) : (dropReads i s).pf = s.pf := rfl
@[simp] theorem dropReads_sched (i : Nat) : (dropReads i s).sched = s.sched := rfl
@[simp] theorem dropReads_readSeq (i : Nat) : (dropReads i s).readSeq = s.readSeq := rfl
@[simp] theorem dropReads_writes (i : Nat) : (dropReads i s).writes = s.writes := rfl
@[simp] theorem dropReads_heldSigs (i : Nat) : (dropReads i s).heldSigs = s.heldSigs := rfl
@[simp] theorem dropReads_seals (i : Nat) : (dropReads i s).seals = s.seals := rfl
@[simp] theorem dropReads_sealing (i : Nat) : (dropReads i s).sealing = s.sealing := rfl
@[simp] theorem dropReads_lockstep (i : Nat) : (dropReads i s).lockstep = s.lockstep := rfl
@[simp] theorem dropReads_bc (i : Nat) : (dropReads i s).bc = s.bc := rfl
@[simp] theorem dropReads_pins (i : Nat) : (dropReads i s).pins = s.pins := rfl
@[simp] theorem dropReads_pcie (i : Nat) : (dropReads i s).pcie = s.pcie := rfl
@[simp] theorem dropReads_events (i : Nat) : (dropReads i s).events = s.events := rfl
@[simp] theorem dropReads_scrubPos (i : Nat) : (dropReads i s).scrubPos = s.scrubPos := rfl
@[simp] theorem dropReads_out (i : Nat) : (dropReads i s).out = s.out := rfl
@[simp] theorem dropReads_fresh (i : Nat) : (dropReads i s).fresh = s.fresh := rfl

end Sys2Proof.Machine
end

