-- ==== Sys2Proof/Laws/Regs.lean ====
section
/-! SUPPORT. Registers and fields: read after write, and every other register and field unchanged. -/

namespace Sys2Proof.Machine

open Sys2Proof

@[simp] theorem getR_setR_same (r : Reg) (ix : List Nat) (v : Word) (s : State) : getR r ix (setR r ix v s) = v := by
  simp [getR]

theorem getR_setR_other {r q : Reg} {ix jx : List Nat} (v : Word) (s : State) (h : regOff q jx ≠ regOff r ix) :
    getR q jx (setR r ix v s) = getR q jx s := by
  simp [getR, tget_tset_other _ _ _ _ h]

/-- A register only depends on the register file. -/
theorem getR_congr {s t : State} (r : Reg) (ix : List Nat) (h : t.regs = s.regs) : getR r ix t = getR r ix s := by
  simp [getR, h]

theorem getF_congr {s t : State} (f : Fld) (ix : List Nat) (h : t.regs = s.regs) : getF f ix t = getF f ix s := by
  simp [getF, getR_congr f.reg ix h]

theorem bits_lt (hi lo : Nat) (w : Word) : bits hi lo w < 2 ^ (hi + 1 - lo) := Nat.mod_lt _ (by positivity)

/-- The parts of a number at a field of `k` bits from `lo`: above, inside, below. -/
theorem split_field (lo k n : Nat) :
    n = n / 2 ^ (lo + k) * 2 ^ (lo + k) + n / 2 ^ lo % 2 ^ k * 2 ^ lo + n % 2 ^ lo := by
  have h1 := Nat.div_add_mod n (2 ^ lo)
  have h2 := Nat.div_add_mod (n / 2 ^ lo) (2 ^ k)
  rw [Nat.div_div_eq_div_mul, ← pow_add] at h2
  calc n = 2 ^ lo * (n / 2 ^ lo) + n % 2 ^ lo := h1.symm
    _ = 2 ^ lo * (2 ^ k * (n / 2 ^ (lo + k)) + n / 2 ^ lo % 2 ^ k) + n % 2 ^ lo := by rw [h2]
    _ = _ := by rw [pow_add]; ring

/-- The number of a word with a field replaced. -/
theorem toNat_withBits {hi lo : Nat} (v : Nat) (w : Word) (hlo : lo ≤ hi) (hhi : hi < 64) :
    (withBits hi lo v w).toNat = w.toNat / 2 ^ (hi + 1) * 2 ^ (hi + 1) + v % 2 ^ (hi + 1 - lo) * 2 ^ lo + w.toNat % 2 ^ lo := by
  generalize hk : hi + 1 - lo = k
  have he : hi + 1 = lo + k := by omega
  have hs := split_field lo k w.toNat
  have hb : bits hi lo w = w.toNat / 2 ^ lo % 2 ^ k := by simp [bits, Nat.shiftRight_eq_div_pow, hk]
  unfold withBits
  rw [hb, BitVec.toNat_ofNat, hk, he]
  have hv : v % 2 ^ k < 2 ^ k := Nat.mod_lt _ (by positivity)
  have hm : w.toNat % 2 ^ lo < 2 ^ lo := Nat.mod_lt _ (by positivity)
  have hq : w.toNat / 2 ^ (lo + k) < 2 ^ (64 - (lo + k)) := by
    rw [Nat.div_lt_iff_lt_mul (by positivity), ← pow_add]
    have : 64 - (lo + k) + (lo + k) = 64 := by omega
    rw [this]; exact w.isLt
  have h64 : (2 : Nat) ^ 64 = 2 ^ (64 - (lo + k)) * 2 ^ (lo + k) := by rw [← pow_add]; congr 1; omega
  have h2 : 2 ^ (lo + k) = 2 ^ k * 2 ^ lo := by rw [add_comm lo k, pow_add]
  have hlt : w.toNat / 2 ^ (lo + k) * 2 ^ (lo + k) + v % 2 ^ k * 2 ^ lo + w.toNat % 2 ^ lo < 2 ^ 64 := by
    have hp : v % 2 ^ k * 2 ^ lo + w.toNat % 2 ^ lo < 2 ^ (lo + k) := by
      rw [h2]
      calc v % 2 ^ k * 2 ^ lo + w.toNat % 2 ^ lo < v % 2 ^ k * 2 ^ lo + 2 ^ lo := by omega
        _ = (v % 2 ^ k + 1) * 2 ^ lo := by ring
        _ ≤ 2 ^ k * 2 ^ lo := Nat.mul_le_mul_right _ hv
    rw [h64]
    calc _ < w.toNat / 2 ^ (lo + k) * 2 ^ (lo + k) + 2 ^ (lo + k) := by omega
      _ = (w.toNat / 2 ^ (lo + k) + 1) * 2 ^ (lo + k) := by ring
      _ ≤ _ := Nat.mul_le_mul_right _ hq
  rw [Nat.mod_eq_of_lt (by omega)]
  omega

theorem bits_toNat (hi lo : Nat) (w : Word) : bits hi lo w = w.toNat / 2 ^ lo % 2 ^ (hi + 1 - lo) := by
  simp [bits, Nat.shiftRight_eq_div_pow]

@[simp] theorem bits_withBits_same {hi lo : Nat} (v : Nat) (w : Word) (hlo : lo ≤ hi) (hhi : hi < 64) :
    bits hi lo (withBits hi lo v w) = v % 2 ^ (hi + 1 - lo) := by
  rw [bits_toNat, toNat_withBits v w hlo hhi]
  have hm : w.toNat % 2 ^ lo < 2 ^ lo := Nat.mod_lt _ (by positivity)
  have h2 : 2 ^ (hi + 1) = 2 ^ (hi + 1 - lo) * 2 ^ lo := by rw [← pow_add]; congr 1; omega
  rw [h2, ← mul_assoc, ← add_mul, Nat.add_comm, Nat.add_mul_div_right _ _ (by positivity), Nat.div_eq_of_lt hm]
  simp

/-- A field above or below the one replaced is unchanged. -/
theorem bits_withBits_other {hi lo hj lj : Nat} (v : Nat) (w : Word) (hlo : lo ≤ hi) (hhi : hi < 64)
    (h : hi < lj ∨ hj < lo) : bits hj lj (withBits hi lo v w) = bits hj lj w := by
  rw [bits_toNat, bits_toNat, toNat_withBits v w hlo hhi]
  have hm : w.toNat % 2 ^ lo < 2 ^ lo := Nat.mod_lt _ (by positivity)
  have hv : v % 2 ^ (hi + 1 - lo) < 2 ^ (hi + 1 - lo) := Nat.mod_lt _ (by positivity)
  have h2 : 2 ^ (hi + 1) = 2 ^ (hi + 1 - lo) * 2 ^ lo := by rw [← pow_add]; congr 1; omega
  rcases h with h | h
  · congr 1
    obtain ⟨d, rfl⟩ : ∃ d, lj = hi + 1 + d := ⟨lj - (hi + 1), by omega⟩
    rw [pow_add 2 (hi + 1) d, ← Nat.div_div_eq_div_mul, ← Nat.div_div_eq_div_mul]
    congr 1
    rw [add_assoc, Nat.add_comm, Nat.add_mul_div_right _ _ (by positivity), Nat.div_eq_of_lt, Nat.zero_add]
    rw [h2]
    calc _ < v % 2 ^ (hi + 1 - lo) * 2 ^ lo + 2 ^ lo := by omega
      _ = (v % 2 ^ (hi + 1 - lo) + 1) * 2 ^ lo := by ring
      _ ≤ _ := Nat.mul_le_mul_right _ hv
  · by_cases hjl : hj + 1 ≤ lj
    · have : hj + 1 - lj = 0 := by omega
      simp [this, Nat.mod_one]
    · have key : ∀ n : Nat, n / 2 ^ lj % 2 ^ (hj + 1 - lj) = n % 2 ^ lo / 2 ^ lj % 2 ^ (hj + 1 - lj) := by
        intro n
        have e : 2 ^ lo = 2 ^ lj * 2 ^ (lo - lj) := by rw [← pow_add]; congr 1; omega
        rw [e, Nat.mod_mul_right_div_self]
        exact (Nat.mod_mod_of_dvd _ (pow_dvd_pow 2 (by omega))).symm
      rw [key, key w.toNat]
      congr 2
      rw [h2, ← mul_assoc, ← add_mul, Nat.add_comm, Nat.add_mul_mod_self_right, Nat.mod_mod]

theorem getF_setF_same (f : Fld) (ix : List Nat) (v : Nat) (s : State) (hlo : f.lo ≤ f.hi) (hhi : f.hi < 64) :
    getF f ix (setF f ix v s) = v % 2 ^ (f.hi + 1 - f.lo) := by
  simp [getF, setF, hlo, hhi]

/-- A field of the same register, beside the one written. -/
theorem getF_setF_beside {f g : Fld} (ix : List Nat) (v : Nat) (s : State) (hr : g.reg = f.reg) (hlo : f.lo ≤ f.hi)
    (hhi : f.hi < 64) (h : f.hi < g.lo ∨ g.hi < f.lo) : getF g ix (setF f ix v s) = getF g ix s := by
  simp only [getF, setF, hr, getR_setR_same]
  exact bits_withBits_other _ _ hlo hhi h

theorem getR_setF_other {f : Fld} {q : Reg} {ix jx : List Nat} (v : Nat) (s : State) (h : regOff q jx ≠ regOff f.reg ix) :
    getR q jx (setF f ix v s) = getR q jx s := getR_setR_other _ _ h

theorem getF_setF_other {f g : Fld} {ix jx : List Nat} (v : Nat) (s : State) (h : regOff g.reg jx ≠ regOff f.reg ix) :
    getF g jx (setF f ix v s) = getF g jx s := by
  simp [getF, getR_setF_other _ _ h]

theorem getF_setR_other {r : Reg} {g : Fld} {ix jx : List Nat} (v : Word) (s : State) (h : regOff g.reg jx ≠ regOff r ix) :
    getF g jx (setR r ix v s) = getF g jx s := by
  simp [getF, getR_setR_other _ _ h]

/-! Cores and ropes. -/

@[simp] theorem coreOf_modCore_same (c : Nat) (f : Core → Core) (s : State) : coreOf c (modCore c f s) = f (coreOf c s) := by
  simp [coreOf]

theorem coreOf_modCore_other {c e : Nat} (f : Core → Core) (s : State) (h : e ≠ c) :
    coreOf e (modCore c f s) = coreOf e s := by
  simp [coreOf, tget_tmod_other _ _ _ _ h]

@[simp] theorem ropeOf_modRope_same (r : Nat) (f : Rope → Rope) (s : State) : ropeOf r (modRope r f s) = f (ropeOf r s) := by
  simp [ropeOf]

theorem ropeOf_modRope_other {r e : Nat} (f : Rope → Rope) (s : State) (h : e ≠ r) :
    ropeOf e (modRope r f s) = ropeOf e s := by
  simp [ropeOf, tget_tmod_other _ _ _ _ h]

/-! The registers of a core (R248). -/

@[simp] theorem Core.getG_zero (k : Core) : k.getG 0 = 0 := rfl

theorem Core.getG_setG_same (k : Core) {i : Nat} (v : Word) (h : i ≠ 0) : (k.setG i v).getG i = v := by
  simp [Core.getG, Core.setG, h]

theorem Core.getG_setG_other (k : Core) {i j : Nat} (v : Word) (h : j ≠ i) : (k.setG i v).getG j = k.getG j := by
  unfold Core.getG Core.setG
  split
  · rfl
  · split
    · rfl
    · exact tget_tset_other _ _ _ _ h

@[simp] theorem Core.setG_zero (k : Core) (v : Word) : k.setG 0 v = k := rfl

@[simp] theorem Core.getT_setT_same (k : Core) (i : Nat) (v : BitVec 128) : (k.setT i v).getT i = v := by
  simp [Core.getT, Core.setT]

theorem Core.getT_setT_other (k : Core) {i j : Nat} (v : BitVec 128) (h : j ≠ i) : (k.setT i v).getT j = k.getT j :=
  tget_tset_other _ _ _ _ h

end Sys2Proof.Machine
end

