-- ==== Sys2Proof/Laws/Sequencer.lean ====
section
/-! SUPPORT. What the shared operations of the sequencer do: a fetch changes only its core's instruction cache; a command whose
instruction stands at the PC runs its effect and retires. -/

namespace Sys2Proof.Machine

open Sys2Proof

/-- A core only depends on the cores. -/
theorem coreOf_congr {s t : State} (c : Nat) (h : t.cores = s.cores) : coreOf c t = coreOf c s := by
  simp only [coreOf, h]

/-! Frames. -/

theorem Only.refl (ps : List Part) (s : State) : Only ps s s := ⟨rfl, fun p _ => by cases p <;> rfl⟩

theorem Only.trans {ps : List Part} {s t u : State} (h : Only ps s t) (g : Only ps t u) : Only ps s u := by
  refine ⟨g.1.trans h.1, fun p hp => ?_⟩
  have h1 := h.2 p hp
  have h2 := g.2 p hp
  cases p <;> exact h2.trans h1

theorem Only.mono {ps qs : List Part} {s t : State} (h : Only ps s t) (hq : ∀ p ∈ ps, p ∈ qs) : Only qs s t :=
  ⟨h.1, fun p hp => h.2 p (fun hm => hp (hq p hm))⟩

/-- Changing the cores, the reads and what is sent out is in the frame of a sequencer instruction. -/
theorem only_cores (s : State) (cs : Tab Core) (rs : List ReadReq) (o : List Out) :
    Only [.cores, .reads] s { s with cores := cs, reads := rs, out := o } :=
  ⟨rfl, fun p hp => by cases p <;> first | rfl | simp at hp⟩

/-! Fetching. -/

/-- What a fetch leaves: everything but the instruction cache of its core. -/
def FetchFrame (c : Nat) (s t : State) : Prop :=
  (∃ cs, t = { s with cores := cs }) ∧ coreOf c t = { coreOf c s with icache := (coreOf c t).icache } ∧
  ∀ e, e ≠ c → coreOf e t = coreOf e s

theorem FetchFrame.refl (c : Nat) (s : State) : FetchFrame c s s := ⟨⟨s.cores, rfl⟩, rfl, fun _ _ => rfl⟩

theorem FetchFrame.trans {c : Nat} {s t u : State} (h : FetchFrame c s t) (g : FetchFrame c t u) : FetchFrame c s u := by
  obtain ⟨⟨cs, rfl⟩, h2, h3⟩ := h
  obtain ⟨⟨ds, rfl⟩, g2, g3⟩ := g
  refine ⟨⟨ds, rfl⟩, ?_, fun e he => (g3 e he).trans (h3 e he)⟩
  rw [g2, h2]

theorem fetchWord_frame {r c a : Nat} {s t : State} {w : BitVec 32} (h : fetchWord r c a s = .ok (w, t)) :
    FetchFrame c s t := by
  unfold fetchWord at h
  split at h
  · simp only [Except.ok.injEq, Prod.mk.injEq] at h
    rw [← h.2]; exact FetchFrame.refl c s
  · split at h
    · simp at h
    · simp only [Except.ok.injEq, Prod.mk.injEq] at h
      rw [← h.2]
      refine ⟨⟨_, rfl⟩, ?_, fun e he => coreOf_modCore_other _ _ he⟩
      rw [coreOf_modCore_same]

/-- A fetch only fills the instruction cache of its core (R249). -/
theorem fetchInstr_frame {r c : Nat} {s t : State} {f : Fetched} (h : fetchInstr r c s = .ok (f, t)) : FetchFrame c s t := by
  unfold fetchInstr at h
  simp only at h
  split at h
  · simp at h
  · split at h
    · simp at h
    · rename_i h0
      split at h
      · split at h
        · simp at h
        · rename_i h1
          simp only [Except.ok.injEq, Prod.mk.injEq] at h
          rw [← h.2]; exact (fetchWord_frame h0).trans (fetchWord_frame h1)
      · simp only [Except.ok.injEq, Prod.mk.injEq] at h
        rw [← h.2]; exact fetchWord_frame h0

/-! Running. -/

theorem AtOp.seqRun {c r : Nat} {f : Fetched} {op : SeqOp} {s s' : State} (h : AtOp c r f op s s')
    {sel : SeqOp → Option SeqFx} {fx : SeqFx} (hs : sel op = some fx) :
    seqRun c sel s = .next
      (if (coreOf c s').getP f.pred = false then dropReads c (retire c (pcAfter c f s') s')
       else match fx r (pcAfter c f s') s' with
        | .error (.need l h o) => askLender (seqWho r c) l h o s'
        | .error (.fault st a) => preciseException r c st a (endAccess c st s')
        | .ok .stall => s'
        | .ok (.await cs) => modCore c (fun k => { k with waiting := cs }) s'
        | .ok (.go t pc) => dropReads c (retire c pc t)) := by
  obtain ⟨h1, h2, h3, h4, h5, h6⟩ := h
  have e2 : ropeOfCore c { s with out := [] } = some r := h2
  have e3 : ropeState r { s with out := [] } = RopeSt.running := h3
  have e4 : (coreOf c { s with out := [] }).running = true := h4
  have e5 : fetchInstr r c { s with out := [] } = .ok (f, s') := h5
  unfold Sys2Proof.Machine.seqRun runIf seqStep
  simp only [h1, decide_true, if_true, e2, e3, e4, e5, h6, hs, ne_eq, not_true_eq_false, false_or, Bool.true_eq_false,
    if_false]
  rfl

/-- The command of an instruction whose predicate is 1 and whose effect goes on retires it. -/
theorem Runs.seqRun {c r : Nat} {f : Fetched} {op : SeqOp} {s s' t : State} {pc : BitVec 48} (h : Runs c r f op s s')
    {sel : SeqOp → Option SeqFx} {fx : SeqFx} (hs : sel op = some fx) (hx : fx r (pcAfter c f s') s' = .ok (.go t pc)) :
    Sys2Proof.Machine.seqRun c sel s = .next (dropReads c (retire c pc t)) := by
  rw [h.toAtOp.seqRun hs, hx, h.pred]; rfl

theorem AtOp.frame {c r : Nat} {f : Fetched} {op : SeqOp} {s s' : State} (h : AtOp c r f op s s') :
    FetchFrame c (Quiet s) s' := fetchInstr_frame h.fetch

theorem AtOp.pc {c r : Nat} {f : Fetched} {op : SeqOp} {s s' : State} (h : AtOp c r f op s s') :
    pcAfter c f s' = pcAfter c f s := by
  have := h.frame.2.1
  unfold pcAfter; rw [this]; rfl

/-- An instruction that turns the fetched state into one that differs in its core only, retired. -/
theorem retired_of {c : Nat} {pc : BitVec 48} {s s' t : State} {k : Core} (h : FetchFrame c (Quiet s) s')
    (ht : ∃ cs, t = { s' with cores := cs }) (hk : coreOf c t = { k with icache := (coreOf c t).icache })
    (hi : (coreOf c t).issue = (coreOf c s').issue) (ho : ∀ e, e ≠ c → coreOf e t = coreOf e s') :
    Only [.cores, .reads] s (dropReads c (retire c pc t)) ∧ Retired c pc k s (dropReads c (retire c pc t)) := by
  obtain ⟨⟨cs, rfl⟩, h2, h3⟩ := h
  obtain ⟨ds, rfl⟩ := ht
  refine ⟨?_, ?_, ?_⟩
  · exact only_cores s _ _ _
  · have e : ∀ u : State, coreOf c (dropReads c u) = coreOf c u := fun u => rfl
    rw [e, retire, coreOf_modCore_same]
    have hs : (coreOf c (Quiet s)) = coreOf c s := rfl
    rw [hs] at h2
    rw [hi, h2]
    conv_lhs => rw [hk]
  · intro e he
    have e1 : ∀ u : State, coreOf e (dropReads c u) = coreOf e u := fun u => rfl
    rw [e1, retire, coreOf_modCore_other _ _ he, ho e he, h3 e he]; rfl

/-- An instruction that only changes registers of its core (`fxCore`), where the change does not look at the cache. -/
theorem Runs.fxCore {c r : Nat} {f : Fetched} {op : SeqOp} {s s' : State} (h : Runs c r f op s s')
    {sel : SeqOp → Option SeqFx} {g : Core → Core} (hs : sel op = some (fxCore c g))
    (hg : ∀ k i, g { k with icache := i } = { g k with icache := i }) (hn : ∀ k, (g k).issue = k.issue) :
    ∃ t, Sys2Proof.Machine.seqRun c sel s = .next t ∧ Only [.cores, .reads] s t ∧
      Retired c (pcAfter c f s) (g (coreOf c s)) s t := by
  refine ⟨_, h.seqRun hs rfl, ?_⟩
  rw [h.toAtOp.pc]
  refine retired_of h.toAtOp.frame ⟨_, rfl⟩ ?_ ?_ (fun e he => coreOf_modCore_other _ _ he)
  · rw [coreOf_modCore_same]
    have := h.toAtOp.frame.2.1
    rw [this, hg]; rfl
  · rw [coreOf_modCore_same, hn]

end Sys2Proof.Machine
end

