-- ==== Sys2Proof/Laws/Sha3.lean ====
section
/-! SUPPORT. A SHA3-512 digest has 64 bytes. -/

namespace Sys2Proof.Machine

open Sys2Proof

theorem lanesOf_length (f : Nat → Nat → Word) : (lanesOf f).length = 25 := by
  rw [lanesOf, List.length_map, List.length_range]

theorem keccakRound_length (a : List Word) (rc : Word) : (keccakRound a rc).length = 25 := by
  unfold keccakRound
  simp only
  split
  · next l t h => exact (congrArg List.length h).symm.trans (lanesOf_length _)
  · next h => exact absurd (congrArg List.length h) (by rw [lanesOf_length]; decide)

theorem keccakF_length {a : List Word} (h : a.length = 25) : (keccakF a).length = 25 := by
  unfold keccakF
  generalize iotaConsts = l
  induction l generalizing a with
  | nil => exact h
  | cons rc t ih => exact ih (keccakRound_length a rc)

theorem absorb_length {a : List Word} (bs : List Byte) (h : a.length = 25) : (absorb a bs).length = 25 :=
  keccakF_length (by rw [List.length_map, List.length_zipIdx, h])

theorem absorbAll_length (n : Nat) {a : List Word} (bs : List Byte) (h : a.length = 25) : (absorbAll n a bs).length = 25 := by
  induction n generalizing a bs with
  | zero => exact h
  | succ n ih =>
    unfold absorbAll
    split
    · exact h
    · exact ih _ (absorb_length _ h)

theorem natLe_length (n v : Nat) : (natLe n v).length = n := by
  induction n generalizing v with
  | zero => rfl
  | succ n ih => rw [natLe, List.length_cons, ih]

theorem sha3_512_length (bs : List Byte) : (sha3_512 bs).length = 64 := by
  have h : ∀ l : List Word, (l.flatMap (fun w => natLe 8 w.toNat)).length = 8 * l.length := by
    intro l
    induction l with
    | nil => rfl
    | cons w t ih =>
      rw [List.flatMap_cons, List.length_append, natLe_length, ih, List.length_cons]
      omega
  rw [sha3_512, h, List.length_take, absorbAll_length _ _ List.length_replicate]
  rfl

end Sys2Proof.Machine
end

