-- ==== Sys2Proof/Tests/Slice0.lean ====
section
/-! SUPPORT. Tests of the model's own: ill-formed commands that `wf` refuses, and for each statement with hypotheses states and
operands that meet them (the witnesses). -/

set_option Elab.async false

namespace Sys2Proof.Tests

open Sys2Proof Sys2Proof.Machine

/-! Small states. -/

/-- The device ACTIVE, with nothing on it. -/
def up : State := setF F.BC_STATE_DEVICE [] 4 State.reset

/-- Rope 0, RUNNING, of job 1 and clusters 0 and 1, with four device belays from belay 8. -/
def ropeUp : State :=
  let s := setR .CMD_ROPE_CLUSTERS [0] 3 (setF F.CMD_ROPE_STATE_JOB [0] 1 (setRopeState 0 RopeSt.running up))
  let s := setF F.BC_CLUSTER_STATE [1] Cl.running (setF F.BC_CLUSTER_STATE [0] Cl.running s)
  modRope 0 (fun k => { k with rank := 0, ranks := 2, belayFirst := 8, belayCount := 4, tmapPages := 2 })
    (setR .ID_CORES [0] 0xFFFF (setR .ID_CLUSTERS [] 3 s))

/-- Core 0 of that rope runs at address 0, where the words lie, with registers of `k`. -/
def coreAt (ws : List Nat) (k : Core) : State :=
  let s := modCore 0 (fun _ => { k with running := true }) ropeUp
  memWrite (corePlace 0 0) (ws.flatMap (natLe 4)) s

/-- An RI word (R279, R280): bits 30 to 24, 23 to 19, 18 to 14 and 13 to 3; predicate 0. -/
def wordRI (op d a imm : Nat) : Nat := op * 2 ^ 24 + d * 2 ^ 19 + a * 2 ^ 14 + imm % 2 ^ 11 * 8

/-- What a fetch finds. -/
def fetched (c r : Nat) (s : State) : Fetched × State :=
  match fetchInstr r c (Quiet s) with
  | .ok p => p
  | .error _ => (⟨0, 0, none⟩, s)

/-- Core `c` of rope `r` stands at instruction `op`, predicate true. -/
def runsAt (c r : Nat) (op : SeqOp) (s : State) : Bool :=
  decide (c < 512) && decide (ropeOfCore c s = some r) && decide (ropeState r s = RopeSt.running) && (coreOf c s).running &&
  (match fetchInstr r c (Quiet s) with | .ok _ => true | .error _ => false) && decide ((fetched c r s).1.op = some op) &&
  (coreOf c (fetched c r s).2).getP (fetched c r s).1.pred

theorem runs_of {c r : Nat} {op : SeqOp} {s : State} (h : runsAt c r op s = true) :
    Runs c r (fetched c r s).1 op s (fetched c r s).2 := by
  simp only [runsAt, Bool.and_eq_true, decide_eq_true_eq] at h
  obtain ⟨⟨⟨⟨⟨⟨h1, h2⟩, h3⟩, h4⟩, h5⟩, h6⟩, h7⟩ := h
  refine ⟨⟨h1, h2, h3, h4, ?_, h6⟩, h7⟩
  unfold fetched
  split <;> simp_all

theorem ok_of {ε α : Type} {x : Except ε α} (h : x.toBool = true) : ∃ v, x = .ok v := by
  cases x with
  | error e => cases h
  | ok v => exact ⟨v, rfl⟩

/-- The status and address of a fault. -/
def faultOf {α : Type} : Except Stop α → Option (Nat × Nat)
  | .error (.fault st a) => some (st, a)
  | _ => none

theorem fault_of {α : Type} {x : Except Stop α} {st a : Nat} (h : faultOf x = some (st, a)) : x = .error (.fault st a) := by
  unfold faultOf at h
  split at h <;> simp_all

/-- The state after the fetch. -/
def afterFetch (s : State) : State := (fetched 0 0 s).2

/-- A record (R387): command `op`, no wait and no signal, and fields (offset, bytes, value). -/
def recOf (op : Nat) (fields : List (Nat × Nat × Nat)) : Rec :=
  { seq := 0, bytes := fields.foldl (fun bs f => overlay bs f.1 (natLe f.2.1 f.2.2))
      (overlay (overlay (zeros 64) 4 [BitVec.ofNat 8 op]) 8 (natLe 6 (2 ^ 48 - 1))) }

/-- Window 0, of the physical function, runs and holds the record. -/
def withRec (rec : Rec) (s : State) : State :=
  modQueue 0 (fun k => { k with recs := [rec] })
    (setF F.CMD_Q_STATUS_STATE [0] Qs.running (setF F.CMD_Q_CFG_ENABLE [0] 1 (setF F.CMD_Q_CFG_OWNER [0] 16 s)))

/-- Record `rec` of window 0 is the next to run. -/
def recordAt (op : Nat) (rec : Rec) (s : State) : Bool :=
  decide ((queueOf 0 s).recs.find? (fun r => ! r.started) = some rec) && decide (queueOwner 0 s = some .pf) &&
  decide (fieldAt rec.bytes 4 1 = op) && decide (rec.done = false) && decide (1 ≤ op ∧ op ≤ 15) &&
  (jobOf 0 rec .pf).headerOk s && recordWait (fieldAt rec.bytes 8 2) (fieldAt rec.bytes 16 8) s &&
  recordWait (fieldAt rec.bytes 10 2) (fieldAt rec.bytes 24 8) s

theorem record_of {op : Nat} {rec : Rec} {s : State} (h : recordAt op rec s = true) : RecordAt 0 op rec .pf s := by
  simp only [recordAt, Bool.and_eq_true, decide_eq_true_eq] at h
  obtain ⟨⟨⟨⟨⟨⟨⟨h1, h2⟩, h3⟩, h4⟩, h5⟩, h6⟩, h7⟩, h8⟩ := h
  exact ⟨by decide, h1, h2, h3, h4, h5, h6, h7, h8⟩

theorem may_pf {r : Nat} {s : State} (h : r < 16) : mayName .pf r s := ⟨h, fun _ e => nomatch e⟩

/-- Body bytes are zero. -/
def bodyIsZero (rec : Rec) (lo hi : Nat) : Bool := (List.range hi).all (fun i => decide (i < lo) || decide (rec.bytes.getD i 0 = 0))

theorem body_of {rec : Rec} {lo hi : Nat} (h : bodyIsZero rec lo hi = true) : bodyZero rec lo hi := by
  intro i h1 h2
  have := List.all_eq_true.mp h i (List.mem_range.mpr h2)
  simp only [Bool.or_eq_true, decide_eq_true_eq] at this
  exact this.resolve_left (Nat.not_lt.mpr h1)

/-- The value satisfies a test. -/
def okWith {ε α : Type} (p : α → Bool) : Except ε α → Bool
  | .ok v => p v
  | .error _ => false

theorem ok_with {ε α : Type} {p : α → Bool} {x : Except ε α} (h : okWith p x = true) : ∃ v, x = .ok v ∧ p v = true := by
  cases x with
  | error e => cases h
  | ok v => exact ⟨v, rfl, h⟩

/-! The sequencer: words written out from R278 to R295 stand for their instructions. -/

/-- Words and the instructions they stand for. -/
abbrev SeqWord : Type := List Nat × SeqOp

def seqWords : List SeqWord :=
  ([([0x01000000], .nop), ([wordRI 0x02 1 2 (3 * 64 + 5)], .alu 5 1 2 3), ([wordRI 0x10 1 2 0x7FF], .addi 1 2 (-1)),
    ([wordRI 0x11 1 2 0x400], .andi 1 2 (-1024)), ([wordRI 0x12 1 2 5], .ori 1 2 5), ([wordRI 0x13 1 2 0x3FF], .xori 1 2 1023),
    ([wordRI 0x14 1 2 63], .shli 1 2 63), ([wordRI 0x15 1 2 1], .shrli 1 2 1), ([wordRI 0x16 1 2 7], .shrai 1 2 7),
    ([wordRI 0x17 1 2 3], .muli 1 2 3), ([0x1B0FFFF8], .ins16 3 1 0xFFFF), ([0x1C0C0000], .li 1 (-32768)),
    ([wordRI 0x20 (2 * 4) 3 (4 * 64 + 5)], .cmp 5 2 3 4)] : List SeqWord) ++
  ([([0x21000000 + 2 * 2 ^ 21 + 3 * 2 ^ 18 + 4 * 2 ^ 15 + 3 * 2 ^ 12], .plog 3 2 3 4),
    ([wordRI 0x30 1 2 1], .load 1 false 1 2 1), ([wordRI 0x31 1 2 1], .load 2 false 1 2 1),
    ([wordRI 0x32 1 2 1], .load 4 false 1 2 1), ([wordRI 0x33 1 2 1], .load 8 false 1 2 1),
    ([wordRI 0x34 1 2 1], .load 1 true 1 2 1), ([wordRI 0x35 1 2 1], .load 2 true 1 2 1), ([wordRI 0x36 1 2 1], .load 4 true 1 2 1),
    ([wordRI 0x38 1 2 1], .store 1 1 2 1), ([wordRI 0x39 1 2 1], .store 2 1 2 1), ([wordRI 0x3A 1 2 1], .store 4 1 2 1),
    ([wordRI 0x3B 1 2 1], .store 8 1 2 1)] : List SeqWord) ++
  ([([0x40FFFFF8], .br (-4)), ([0x41000008], .call 4), ([wordRI 0x42 1 2 0], .jmpr 1 2), ([0x43000000], .stopProgram),
    ([0x44000000], .icinv), ([wordRI 0x50 1 0 0x0C], .mfc 1 0x0C), ([wordRI 0x51 0 2 0x06], .mtc 0x06 2),
    ([wordRI 0x51 0 2 0x07], .mtc 0x07 2), ([wordRI 0x51 0 2 0x08], .mtc 0x08 2),
    ([0x58000000 + 1 * 2 ^ 19 + 63 * 2 ^ 6], .wait 1 63), ([0x58000000 + 1 * 2 ^ 19 + 4099 * 2 ^ 6], .wait 1 4099),
    ([0x59000000 + 1 * 2 ^ 19 + 63 * 2 ^ 6 + 32], .signal 1 63 true), ([0x59000000 + 4096 * 2 ^ 6], .signal 0 4096 false),
    ([0x5A000000 + 1 * 2 ^ 19 + 4099 * 2 ^ 6], .brd 1 4099)] : List SeqWord) ++
  ([([wordRI 0x68 1 2 1], .tld 1 2 1), ([wordRI 0x69 1 2 1], .tst 1 2 1), ([wordRI 0x6A 1 2 7], .tset 7 1 2),
    ([wordRI 0x6B 1 2 6], .tget 6 1 2), ([wordRI 0x6C 1 2 0], .tadd 1 2),
    ([0x90108C60, 0xFE0FE0FE], .engine 0x90108C60 0xFE0FE0FE),
    ([0xE0110000, 0xFE0FE0FE], .queue 0xE0110000 0xFE0FE0FE)] : List SeqWord)

theorem test_words_stand_for_instructions : ∀ e ∈ seqWords, Runs 0 0 (fetched 0 0 (coreAt e.1 {})).1 e.2 (coreAt e.1 {})
    (fetched 0 0 (coreAt e.1 {})).2 :=
  fun e h => runs_of (c := 0) (List.all_eq_true.mp (by decide +kernel : seqWords.all (fun e => runsAt 0 0 e.2 (coreAt e.1 {})) = true) e h)

/-! The sequencer: the hypotheses of the statements are met. -/

/-- Core 0 at NOP. -/
def atNop : State := coreAt [0x01000000] {}

theorem test_nop_runs : Runs 0 0 (fetched 0 0 atNop).1 .nop atNop (afterFetch atNop) := runs_of (by decide +kernel)

theorem test_witness_CommandForAnotherInstruction :
    AtOp 0 0 (fetched 0 0 atNop).1 .nop atNop (afterFetch atNop) ∧ seqCommand 0 (.alu 0 0 0 0) ≠ seqCommand 0 .nop ∧
    ropeOfCore 511 State.reset = none ∧ (ropeOfCore 8 ropeUp = some 0 ∧ (coreOf 8 ropeUp).running = false) ∧
    (ropeOfCore 0 (setRopeState 0 RopeSt.ready ropeUp) = some 0 ∧
      ropeState 0 (setRopeState 0 RopeSt.ready ropeUp) ≠ RopeSt.running) :=
  ⟨test_nop_runs.toAtOp, by decide +kernel, by decide +kernel, by decide +kernel, by decide +kernel⟩

theorem test_witness_AluWritesItsFunction (a b : Word) : ∀ fn < 19, (aluResult fn a b).isSome = true := by
  intro fn h
  match fn, h with
  | 0, _ | 1, _ | 2, _ | 3, _ | 4, _ | 5, _ | 6, _ | 7, _ | 8, _ | 9, _ | 10, _ | 11, _ | 12, _ | 13, _ | 14, _ | 15, _ | 16, _
  | 17, _ | 18, _ => rfl
  | n + 19, h => omega

/-- Core 0 at ADDI g1, g0, 1 under predicate 3, which is 0. -/
def atFalse : State := coreAt [wordRI 0x10 1 0 1 + 3] {}

theorem test_witness_RegisterAndPredicateInstructions :
    (∀ cc < 6, (cmpResult cc 0 wordMax).isSome = true) ∧ (∀ fn < 5, (plogResult fn true false).isSome = true) ∧
    (coreOf 0 atFalse).getP (fetched 0 0 atFalse).1.pred = false ∧ (fetched 0 0 atFalse).1.op = some (.addi 1 0 1) ∧
    ropeOfCore 0 atFalse = some 0 := by decide +kernel

/-- A core whose g2 is `a`, at one RI word with d 1, a 2 and immediate 1. -/
def atG2 (op : Nat) (a : Word) : State := coreAt [wordRI op 1 2 1] { g := [(2, a)] }

/-- The opcodes of the loads with their sizes and signs. -/
def loadRows : List (Nat × Nat × Bool) :=
  [(0x30, 1, false), (0x31, 2, false), (0x32, 4, false), (0x33, 8, false), (0x34, 1, true), (0x35, 2, true), (0x36, 4, true)]

theorem test_witness_LoadsReadMemory : ∀ e ∈ loadRows,
    runsAt 0 0 (.load e.2.1 e.2.2 1 2 1) (atG2 e.1 64) = true ∧ (64 + e.2.1) % e.2.1 = 0 ∧
    (rdGood (seqWho 0 0) (64 + e.2.1) e.2.1 (afterFetch (atG2 e.1 64))).toBool = true := by decide +kernel

theorem test_witness_LoadsReadMemory_tld :
    Runs 0 0 (fetched 0 0 (atG2 0x68 64)).1 (.tld 1 2 1) (atG2 0x68 64) (afterFetch (atG2 0x68 64)) ∧
    ∃ bs, rdGood (seqWho 0 0) 80 16 (afterFetch (atG2 0x68 64)) = .ok bs :=
  ⟨runs_of (by decide +kernel), ok_of (by decide +kernel)⟩

/-- Page 0 of rope 0's device memory lies in lent memory of device 5 (R357): VALID, tier 1, W, LHANDLE 7. -/
def lentPage (s : State) : State :=
  { s with tables := { s.tables with tierMap := [(0, BitVec.ofNat 128 (1 + 2 + 8 + 5 * 2 ^ 16 + 7 * 2 ^ 32))] } }

/-- Core 0 at ST64 to the first doubleword of that page, whose 128 bytes the lender has answered. -/
def atLent : State :=
  { lentPage (atG2 0x3B 0xFFFFFFFFF8) with reads := [⟨0, 0, 5, 7, 0, some (zeros 128, []), false⟩] }

/-- Core 0 at TST to the first 16 bytes of that page. -/
def atLentTile : State := lentPage (atG2 0x69 0xFFFFFFFFF0)

theorem test_witness_StoresWriteMemory :
    (∀ e ∈ [(0x38, 1), (0x39, 2), (0x3A, 4), (0x3B, 8)],
      runsAt 0 0 (.store e.2 1 2 1) (atG2 e.1 64) = true ∧ (64 + e.2) % e.2 = 0 ∧
      locate (storeWho 0 0 (afterFetch (atG2 e.1 64))) (64 + e.2) true (afterFetch (atG2 e.1 64)) =
        .place (corePlace 0 (64 + e.2)) ∧ (atG2 e.1 64).mem.errs = []) ∧
    runsAt 0 0 (.store 8 1 2 1) atLent = true ∧
    locate (storeWho 0 0 (afterFetch atLent)) 0x10000000000 true (afterFetch atLent) = .neighbour 5 7 0 ∧
    (wr (storeWho 0 0 (afterFetch atLent)) 0x10000000000 (zeros 8) (afterFetch atLent)).toBool = true ∧
    runsAt 0 0 (.tst 1 2 1) atLentTile = true ∧
    locate (storeWho 0 0 (afterFetch atLentTile)) 0x10000000000 true (afterFetch atLentTile) = .neighbour 5 7 0 ∧
    (wr (storeWho 0 0 (afterFetch atLentTile)) 0x10000000000 (zeros 16) (afterFetch atLentTile)).toBool = true := by
  decide +kernel

/-- The same core at that store, with the page's lender lost. -/
def atLostPage : State :=
  let s := atG2 0x3B 0xFFFFFFFFF8
  { s with tables := { s.tables with tierMap := [(0, BitVec.ofNat 128 (1 + 2 + 8 + 16 + 5 * 2 ^ 16 + 7 * 2 ^ 32))] } }

theorem test_witness_StoresWriteMemory_lost :
    runsAt 0 0 (.store 8 1 2 1) atLostPage = true ∧ (ropeOf 0 atLostPage).stop = none ∧
    locate (storeWho 0 0 (afterFetch atLostPage)) 0x10000000000 true (afterFetch atLostPage) = .lost := by decide +kernel

theorem test_witness_BranchesAndTileRegisters :
    runsAt 0 0 (.jmpr 1 2) (coreAt [wordRI 0x42 1 2 0] { g := [(2, 0xFFFFFFFFFFFFFFFC)] }) = true ∧
    (0xFFFFFFFFFFFFFFFC : Word).toNat % 4 = 0 ∧ ∀ n < 8, (fieldBits n).isSome = true := by decide +kernel

/-- Core 0 at a word that names belay designator `des`, with threshold 1 in g1 and an unacknowledged write to lent memory. -/
def atBelay (op des : Nat) (out : Bool) : State :=
  let s := coreAt [op * 2 ^ 24 + 1 * 2 ^ 19 + des * 2 ^ 6 + (if op = 0x59 then 32 else 0)] { g := [(1, 1)] }
  if out then { s with msgs := { s.msgs with waiting := [⟨.write 0 0 0 0, none, 5, 24, [], 0⟩] } } else s

theorem test_witness_BelayInstructions :
    Names13 0 63 (atBelay 0x58 63 false) false 63 ∧ Names13 0 4099 (atBelay 0x58 4099 false) true 11 ∧
    runsAt 0 0 (.wait 1 63) (atBelay 0x58 63 false) = true ∧
    (coreBelay 0 63 (atBelay 0x58 63 false)).toNat < ((coreOf 0 (atBelay 0x58 63 false)).getG 1).toNat ∧
    ((coreOf 0 (atBelay 0x58 63 false)).getG 1).toNat ≤ (coreBelay 0 63 (incCoreBelay 0 63 (atBelay 0x58 63 false))).toNat ∧
    runsAt 0 0 (.wait 1 63) (incCoreBelay 0 63 (atBelay 0x58 63 false)) = true ∧
    (runsAt 0 0 (.signal 1 4099 true) (atBelay 0x59 4099 false) = true ∧ writesOut 0 (atBelay 0x59 4099 false) = false ∧
      ∀ e ∈ (atBelay 0x59 4099 false).cores, e.2.waiting = []) ∧
    (runsAt 0 0 (.signal 1 63 true) (atBelay 0x59 63 true) = true ∧ writesOut 0 (atBelay 0x59 63 true) = true) := by
  refine ⟨.inl (by decide), .inr (by decide +kernel), by decide +kernel⟩

/-- Core 0 at an engine instruction of target `tgt` and operation `op`, operand A register 1 and B register 3; or a queue command. -/
def atEngine (tgt op w1 : Nat) (k : Core) : State :=
  coreAt [2 ^ 31 + tgt * 2 ^ 28 + op * 2 ^ 20 + 2 ^ 15 + (if tgt < 4 then 3 * 2 ^ 10 else 0), w1] k

theorem test_witness_EngineIssueCaptures :
    (∀ e ∈ [(0, 0x10), (1, 0x01), (2, 0x03), (3, 0x01), (4, 0x01), (5, 0x01)],
      runsAt 0 0 (.engine (BitVec.ofNat 32 (2 ^ 31 + e.1 * 2 ^ 28 + e.2 * 2 ^ 20 + 2 ^ 15 + (if e.1 < 4 then 3 * 2 ^ 10 else 0)))
        0xFE0FE0FE) (atEngine e.1 e.2 0xFE0FE0FE {}) = true ∧
      (issueQueue e.1 0 (atEngine e.1 e.2 0xFE0FE0FE {})).length < 32) ∧
    32 ≤ (issueQueue 1 0 (atEngine 1 1 0xFE0FE0FE { vxeQ := List.replicate 32 {} })).length ∧
    runsAt 0 0 (.engine 0x90108C00 0xFE0FE0FE) (atEngine 1 1 0xFE0FE0FE { vxeQ := List.replicate 32 {} }) = true ∧
    runsAt 0 0 (.engine 0x90108C00 0x880FE0FE) (atEngine 1 1 0x880FE0FE {}) = true := by decide +kernel

theorem test_witness_EngineIssueCaptures_belays :
    BelaysNamed 0 0xFE0FE0FE ropeUp ∧ BelaysNamed 0 0x86086086 ropeUp ∧ ¬ BelaysNamed 0 0x880FE0FE ropeUp := by
  refine ⟨?_, ?_, ?_⟩ <;> unfold BelaysNamed <;> decide +kernel

theorem test_witness_QueueCommandPassed :
    (runsAt 0 0 (.queue 0xE0108000 0xFE0FE0FE) (atEngine 6 1 0xFE0FE0FE {}) = true ∧
      QueueWaitsHold 0 0 0xFE0FE0FE (atEngine 6 1 0xFE0FE0FE {}) ∧ BelaysNamed 0 0xFE0FE0FE (atEngine 6 1 0xFE0FE0FE {})) ∧
    (runsAt 0 0 (.queue 0xE0108000 0x001FE0FE) (atEngine 6 1 0x001FE0FE { g := [(1, 1)] }) = true ∧
      ¬ QueueWaitsHold 0 0 0x001FE0FE (atEngine 6 1 0x001FE0FE { g := [(1, 1)] }) ∧
      BelaysNamed 0 0x001FE0FE (atEngine 6 1 0x001FE0FE { g := [(1, 1)] })) := by
  refine ⟨⟨?_, ?_, ?_⟩, ⟨?_, ?_, ?_⟩⟩ <;> (try unfold QueueWaitsHold) <;> (try unfold BelaysNamed) <;> decide +kernel

theorem test_witness_PreciseExceptions :
    (fetchInstr 0 0 (Quiet (coreAt [] { pc := 0x200000 })) = .error (.fault St.notPermitted 0x200000) ∧
      ropeOfCore 0 (coreAt [] { pc := 0x200000 }) = some 0 ∧ ropeState 0 (coreAt [] { pc := 0x200000 }) = RopeSt.running) ∧
    (coreOf 0 (coreAt [] { pc := 2 })).pc.toNat % 4 ≠ 0 ∧ (fetched 0 0 (coreAt [0] {})).1 = ⟨0, 4, none⟩ ∧
    (∀ e ∈ [(0x31, 2, false), (0x32, 4, false), (0x33, 8, false), (0x35, 2, true), (0x36, 4, true)],
      runsAt 0 0 (.load e.2.1 e.2.2 1 2 1) (atG2 e.1 65) = true ∧ (65 + e.2.1) % e.2.1 ≠ 0) ∧
    (faultOf (rdGood (seqWho 0 0) 0x200000 8 (afterFetch (atG2 0x33 0x1FFFF8))) = some (St.notPermitted, 0x200000)) ∧
    (runsAt 0 0 (.store 8 1 2 1) (atG2 0x3B 65) = true ∧ (65 + 8) % 8 ≠ 0) ∧
    (runsAt 0 0 (.store 1 1 2 1) (atG2 0x38 0x1FFFFF) = true ∧
      locate (seqWho 0 0) 0x200000 true (afterFetch (atG2 0x38 0x1FFFFF)) = .unmapped) ∧
    (runsAt 0 0 (.tld 1 2 1) (atG2 0x68 8) = true ∧ runsAt 0 0 (.tst 1 2 1) (atG2 0x69 8) = true ∧ (8 + 16) % 16 ≠ 0) ∧
    (runsAt 0 0 (.jmpr 1 2) (coreAt [wordRI 0x42 1 2 0] { g := [(2, 2)] }) = true ∧ 2 % 4 ≠ 0) := by
  refine ⟨⟨fault_of (by decide +kernel), by decide +kernel⟩, by decide +kernel⟩

theorem test_witness_PreciseExceptions_named :
    (runsAt 0 0 (.mfc 1 0x0D) (coreAt [wordRI 0x50 1 0 0x0D] {}) = true ∧
      runsAt 0 0 (.mtc 0x05 1) (coreAt [wordRI 0x51 0 1 0x05] {}) = true) ∧
    (runsAt 0 0 (.wait 1 4100) (atBelay 0x58 4100 false) = true ∧ runsAt 0 0 (.brd 1 4100) (atBelay 0x5A 4100 false) = true ∧
      runsAt 0 0 (.signal 1 4100 true) (atBelay 0x59 4100 false) = true ∧
      (ropeOf 0 (atBelay 0x58 4100 false)).belayCount ≤ 4100 - 4096) := by decide +kernel

theorem test_witness_FaultStopsRope :
    (ropeOfCore 0 ropeUp = some 0 ∧ (ropeOf 0 ropeUp).stop = none ∧ ropeState 0 ropeUp = RopeSt.running ∧
      (coreOf 0 ropeUp).fault = none) ∧
    (ropeOf 0 (preciseException 0 0 1 2 ropeUp)).stop ≠ none ∧ ropeOfCore 0 (preciseException 0 0 1 2 ropeUp) = some 0 := by
  decide +kernel

/-! Records, ropes, tables, suspending, steps: the hypotheses of the statements are met. -/

/-- Window 0 of the physical function runs and holds nothing. -/
def emptyWindow : State := modQueue 0 (fun k => { k with recs := [] }) (withRec (recOf 1 []) up)

/-- The same with a mirror due at host address 64. -/
def mirrorDue : State :=
  setF F.CMD_Q_MIRROR_ADDR [63] 1 (modQueue 63 (fun k => { k with mirrorDue := true }) up)

theorem test_witness_WindowWritesTakeRecords :
    (Requester.pf).wf = true ∧ windowsTaken emptyWindow = true ∧ queueOwner 0 emptyWindow = some .pf ∧
    queueState 0 emptyWindow = Qs.running ∧ (queueOf 0 emptyWindow).have_ = [] ∧ (queueOf 0 emptyWindow).slots = [] ∧
    (recOf 1 []).bytes.length = 64 ∧ queueNext 0 emptyWindow = 0 ∧ fieldAt (recOf 1 []).bytes 0 4 = 0 ∧
    64 ≤ (fieldAt (recOf 1 [(0, 4, 64)]).bytes 0 4 + 2 ^ 32 - queueNext 0 emptyWindow) % 2 ^ 32 ∧
    4095 + ([1] : List Byte).length ≤ 4096 ∧ queueOwner 0 emptyWindow ≠ some (.vf 0) ∧ queueState 0 up ≠ Qs.running := by
  decide +kernel

theorem test_witness_QueuesEnableAndReport :
    fnAllowed .pf (regOff .CMD_Q_CFG [63]) up = true ∧ getF F.CMD_Q_CFG_ENABLE [63] up = 0 ∧
    fnAllowed .pf (regOff .CMD_Q_CFG [0]) emptyWindow = true ∧ getF F.CMD_Q_CFG_ENABLE [0] emptyWindow = 1 ∧
    (queueOf 63 mirrorDue).mirrorDue = true ∧ getF F.CMD_Q_MIRROR_ADDR [63] mirrorDue ≠ 0 ∧ (queueOf 63 mirrorDue).irqs = [] := by
  decide +kernel

/-- A NOP record that signals belay 4095 and asks for an interrupt. -/
def nopSignals : Rec := recOf 1 [(5, 1, 1), (12, 2, 4095), (40, 1, 15)]

theorem test_witness_RecordsCompleteOrAreRejected :
    RecordAt 0 1 nopSignals .pf (withRec nopSignals up) ∧ (queueOf 0 (withRec nopSignals up)).recs = [nopSignals] ∧
    nopSignals.old = false ∧ recField nopSignals 12 2 < 4096 ∧ 4096 ≤ recField (recOf 1 []) 12 2 ∧
    writesOut 544 (Quiet (withRec nopSignals up)) = false :=
  ⟨record_of (by decide +kernel), by decide +kernel⟩

/-- A NOP record. -/
theorem test_witness_nop_command : RecordAt 0 1 nopSignals .pf (withRec nopSignals up) ∧
    mayName .pf (recField nopSignals 40 1) (withRec nopSignals up) ∧ bodyZero nopSignals 41 64 :=
  ⟨record_of (by decide +kernel), may_pf (by decide +kernel), body_of (by decide +kernel)⟩

/-- ROPE_CREATE of rope 15, client 3, job 4095, descriptor at host address 64. -/
def createRec : Rec := recOf 2 [(40, 1, 15), (41, 1, 3), (42, 2, 4095), (44, 6, 64)]

/-- Its descriptor (R397): cluster 63, no virtual function, rank 1 of 2, belay 4095. -/
def ropeDesc : List Byte :=
  natLe 8 (2 ^ 63) ++ natLe 1 1 ++ natLe 1 0x1F ++ natLe 2 1 ++ natLe 4 2 ++ natLe 4 262140 ++ natLe 4 4 ++ natLe 2 4095 ++ natLe 2 1 ++
    natLe 4 4 ++ natLe 8 77 ++ natLe 8 3 ++ zeros 16

def createAt : State :=
  memWrite (hostPlace 64) ropeDesc (setR .ID_CORES [7] wordMax (setR .ID_CLUSTERS [] wordMax (withRec createRec up)))

theorem test_witness_rope_create :
    RecordAt 0 2 createRec .pf createAt ∧ recField createRec 40 1 < 16 ∧ ropeState 15 createAt = RopeSt.none ∧
    recField createRec 42 2 < 4096 ∧ createRec.bytes.length = 64 ∧ bodyZero createRec 50 64 ∧
    createAt.mem.anyPoison (hostPlace 64) 64 = false ∧ ropeDescOk (hostBytes createAt 64 64) = true ∧
    ropeDescFree 4095 (hostBytes createAt 64 64) createAt = true ∧
    getF F.CMD_CLIENT_COUNT [3] createAt < min 16 (getF F.CMD_CLIENT_LIMIT [3] createAt) :=
  ⟨record_of (by decide +kernel), by decide +kernel, by decide +kernel, by decide +kernel, by decide +kernel,
    body_of (by decide +kernel), by decide +kernel, by decide +kernel, by decide +kernel, by decide +kernel⟩

/-- ROPE_START of rope 0 at its first device-memory address, END belay 8. -/
def startRec0 : Rec := recOf 3 [(44, 6, 0x10000000000), (50, 2, 8)]

def startAt : State := withRec startRec0 (setRopeState 0 RopeSt.ready ropeUp)

theorem test_witness_rope_start :
    RecordAt 0 3 startRec0 .pf startAt ∧ mayName .pf (recField startRec0 40 1) startAt ∧ ropeState 0 startAt = RopeSt.ready ∧
    bodyZero startRec0 41 44 ∧ bodyZero startRec0 52 64 ∧ startRec0.bytes.length = 64 ∧
    0x010000000000 ≤ recField startRec0 44 6 ∧ (jobOf 0 startRec0 .pf).belayOk (recField startRec0 50 2) startAt = true :=
  ⟨record_of (by decide +kernel), may_pf (by decide +kernel), by decide +kernel, body_of (by decide +kernel),
    body_of (by decide +kernel), by decide +kernel, by decide +kernel, by decide +kernel⟩

/-- Rope 0 with every core ended. -/
def allEnded : State := forList (ropeCores 0 ropeUp) ropeUp (fun c => modCore c (fun k => { k with ended := true }))

theorem test_witness_ProgramsEnd :
    (ropeState 0 allEnded = RopeSt.running ∧ (∀ c ∈ ropeCores 0 allEnded, coreDone c allEnded = true) ∧
      (getF F.RTE_PT_ACTIVE_PENDING [] allEnded = 0 ∧ getF F.SW_RANKMAP_BANKS_PENDING [] allEnded = 0 ∧
        getR .SW_PLAN_PENDING [] allEnded = 0) ∧
      writesOut 544 allEnded = false ∧ ∀ e ∈ allEnded.cores, e.2.waiting = []) ∧
    ropeState 15 allEnded ≠ RopeSt.running := by decide +kernel

/-- TABLE_WRITE of one entry. -/
def tableRec (table i first : Nat) : Rec := recOf 8 [(40, 1, table), (41, 1, i), (44, 4, first), (48, 4, 1), (52, 6, 64)]

/-- Rope 0 READY with a placement region of 16 entries and a rank map of 32,768, and the record. -/
def readyWith (rec : Rec) : State :=
  withRec rec (setF F.SW_RANKMAP_SIZE [0] 32768 (modRope 0 (fun k => { k with ptBase := 262128, ptSize := 16 })
    (setRopeState 0 RopeSt.ready ropeUp)))

/-- The last entry of each of the five tables. -/
def tableRows : List (Nat × Nat × Nat) := [(0, 0, 262143), (1, 0, 255), (2, 0, 32767), (3, 63, 0), (4, 63, 1023)]

theorem test_witness_TablesAreWrittenAndFlipped_write : ∀ e ∈ tableRows,
    let tr := tableRec e.1 e.2.1 e.2.2
    let s := readyWith tr
    recordAt 8 tr s = true ∧ recField tr 40 1 < 5 ∧ (e.1 < 3 → takesTables 0 s = true) ∧
    planAllowed (jobOf 0 tr .pf) e.2.1 s = true ∧ recField tr 48 4 = 1 ∧ rangeOk e.1 e.2.1 e.2.2 1 s = true ∧
    bodyIsZero tr 42 44 = true ∧ bodyIsZero tr 58 64 = true ∧ s.mem.anyPoison (hostPlace 64) 16 = false ∧
    writeHeld e.1 e.2.1 s = false ∧ writeHeld e.1 e.2.1 (setPending (tableTarget e.1) e.2.1 true s) = true ∧
    recordAt 8 tr (setPending (tableTarget e.1) e.2.1 true s) = true := by decide +kernel

/-- A held write of the placement table of rope 1, whose flip is to come, before one of rope 0 whose copy-back is done. -/
def heldWrites : State :=
  let s := setPending 0 1 true (readyWith (recOf 1 []))
  { s with tables := { s.tables with deferred := [⟨0, 1, 0, [zeros 16], .window 0 0, true⟩, ⟨0, 0, 262143, [zeros 16], .window 0 0, false⟩] } }

theorem test_witness_TablesAreWrittenAndFlipped_deferred :
    heldWrites.tables.deferred = [⟨0, 1, 0, [zeros 16], .window 0 0, true⟩] ++ ⟨0, 0, 262143, [zeros 16], .window 0 0, false⟩ :: [] ∧
    (∀ x ∈ [⟨0, 1, 0, [zeros 16], .window 0 0, true⟩], Deferred.free x heldWrites = false) ∧
    Deferred.free ⟨0, 0, 262143, [zeros 16], .window 0 0, false⟩ heldWrites = true ∧ rangeOk 0 0 262143 1 heldWrites = true := by
  decide +kernel

/-- TABLE_COMMIT. -/
def commitRec (target : Nat) : Rec := recOf 9 [(40, 1, target)]

def commitRunning (target : Nat) : State := withRec (commitRec target) ropeUp

theorem test_witness_TablesAreWrittenAndFlipped_commit : ∀ target < 2,
    let s := readyWith (commitRec target)
    recordAt 9 (commitRec target) s = true ∧ takesTables 0 s = true ∧ recField (commitRec target) 42 1 = 0 ∧
    recField (commitRec target) 40 1 = target ∧
    bodyIsZero (commitRec target) 43 44 = true ∧ bodyIsZero (commitRec target) 50 64 = true ∧ ropeState 0 s = RopeSt.ready ∧
    (getF F.RTE_PT_ACTIVE_PENDING [] s = 0 ∧ getF F.SW_RANKMAP_BANKS_PENDING [] s = 0 ∧ getR .SW_PLAN_PENDING [] s = 0) ∧
    s.tables.commits = [] ∧ s.tables.copyBack = [] ∧ recField (commitRec target) 44 6 = 0 ∧
    (queueOf 0 s).recs = [commitRec target] ∧ takesTables 0 (commitRunning target) = true ∧
    recordAt 9 (commitRec target) (commitRunning target) = true ∧
    (s.tables.deferred = [] ∧ ∀ x ∈ s.xes, x.2.active = []) ∧
    (∀ r < 16, ropeState r (commitRunning target) ≠ RopeSt.ready) := by decide +kernel

/-- Plan 63 of job 1 waits for its flip; its new bank holds one line on slot 255 of output 0. -/
def planWaits : State :=
  let s := setPending 2 63 true (readyWith (recOf 1 []))
  { s with tables := { s.tables with
      planDir := [(127, BitVec.ofNat 64 (1 + 2 ^ 16))], planLine := [(127 * 1024, BitVec.ofNat 128 (255 * 2 ^ 64 + 2 ^ 72 + 2 ^ 80))] } }

/-- The same with that slot held by plan 0. -/
def planBlocked : State := { planWaits with tables := { planWaits.tables with calendar := [(255, ⟨false, 1, 0, 0⟩)] } }

theorem test_witness_TablesAreWrittenAndFlipped_flip :
    pendingOf 2 63 planWaits = true ∧ (∀ r, jobRope (planJob 63 planWaits) planWaits = some r → ropeState r planWaits = RopeSt.ready) ∧
    (∀ c ∈ planWaits.tables.commits, c.target = 2 → c.index = 63 → c.status = none) ∧
    planSlots 63 (1 - bankOf 2 63 planWaits) planWaits = [(255, 0)] ∧
    (∀ x ∈ planSlots 63 (1 - bankOf 2 63 planWaits) planWaits, slotPasses 63 x.1 planWaits = true) ∧
    (∃ x ∈ planSlots 63 (1 - bankOf 2 63 planBlocked) planBlocked, slotPasses 63 x.1 planBlocked = false) := by
  refine ⟨by decide +kernel, ?_, by decide +kernel⟩
  intro r h
  have e : jobRope (planJob 63 planWaits) planWaits = some 0 := by decide +kernel
  rw [e] at h
  cases h
  decide +kernel

/-- A copy-back of plan 63 is under way as well; the flip waits for it. -/
def planCopies : State := { planWaits with tables := { planWaits.tables with copyBack := [(2, 63)] } }

theorem test_witness_TablesAreWrittenAndFlipped_waits :
    commitWaits 2 63 planWaits = false ∧ commitWaits 2 63 planCopies = true ∧ pendingOf 2 63 planCopies = true ∧
    jobRope (planJob 63 planCopies) planCopies = some 0 ∧ ropeState 0 planCopies = RopeSt.ready ∧ planCopies.tables.commits = [] := by
  decide +kernel

/-- A copy-back of a target is under way; every rope is idle. -/
def copies (target : Nat) : State := { ropeUp with tables := { ropeUp.tables with copyBack := [(target, 63)] } }

theorem test_witness_TablesAreWrittenAndFlipped_copy :
    ∀ target < 3, (copies target).tables.copyBack[0]? = some (target, 63) ∧ (copies target).mem.errs = [] ∧
      ∀ r < 16, ropeState r (copies target) ≠ RopeSt.ready := by decide +kernel

/-- ROPE_SUSPEND of rope 0, spilling, into local memory mapped at its device-memory address. -/
def suspendRec : Rec := recOf 4 [(41, 1, 1), (44, 6, 0x10000000000)]

/-- 64 pages from there lie in local memory (R357): VALID, tier 0, W. -/
def dramPages (s : State) : State :=
  { modRope 0 (fun k => { k with tmapPages := 64 }) s with
    tables := { s.tables with tierMap := (List.range 64).map (fun p => (p, BitVec.ofNat 128 (1 + 8 + (p + 1) * 2 ^ (64 + 21)))) } }

theorem test_witness_SuspendAndResume_suspend :
    let s := withRec suspendRec (dramPages ropeUp)
    recordAt 4 suspendRec s = true ∧ ropeState 0 s = RopeSt.running ∧ recField suspendRec 41 1 < 2 ∧
    bodyIsZero suspendRec 42 44 = true ∧ bodyIsZero suspendRec 50 64 = true ∧ recField suspendRec 44 6 % 65536 = 0 ∧
    writable (cmdWho 0) 0x10000000000 (saveBytes (ropeClusters 0 s).length true) s = true := by decide +kernel

/-- Rope 0 SUSPENDING into an area that is no longer mapped. -/
def suspendingAt (spill : Bool) : State :=
  setRopeState 0 RopeSt.suspending (modRope 0 (fun k => { k with tmapPages := 0, suspend := some ⟨0x10000000000, spill, .window 0 0, false⟩ }) ropeUp)

theorem tryWr_unmapped {w : Who} {a : Nat} {bs : List Byte} {s : State} (h : locate w a true s = .unmapped) :
    tryWr w a bs false s = .ok s := by
  simp only [tryWr, wr, writeA, h]
  cases bs with
  | nil => simp
  | cons b t => simp

theorem foldE_same {α β : Type} {l : List α} {b : β} {f : α → β → Except Stop β} (h : ∀ x ∈ l, f x b = .ok b) : foldE l b f = .ok b := by
  induction l with
  | nil => rfl
  | cons x t ih =>
    simp only [foldE, h x (List.mem_cons_self ..)]
    exact ih (fun y hy => h y (List.mem_cons_of_mem _ hy))

theorem unmapped_of {a : Nat} {s : State} (h1 : 0x10000000000 ≤ a) (h2 : (ropeOf 0 s).tmapPages = 0) :
    locate (cmdWho 0) a true s = .unmapped := by
  have n1 : ¬ a < 0x200000 := by omega
  have n2 : ¬ (0x40000000 ≤ a ∧ a < 0x80000000) := by omega
  have n3 : ¬ (0x80000000 ≤ a ∧ a < 0xC0000000) := by omega
  simp only [locate, cmdWho, n1, n2, n3, if_false]
  split
  · simp [tierLoc, h2]
  · rfl

theorem writeSave_unmapped {r : Nat} {k : Suspend} {s : State} (hs : k.spill = false)
    (h : ∀ n, locate (cmdWho r) (k.save + n) true s = .unmapped) : writeSave r k s = .ok s := by
  have h0 := h 0
  simp only [Nat.add_zero] at h0
  unfold writeSave
  dsimp only
  rw [tryWr_unmapped h0]
  dsimp only
  rw [foldE_same (fun x _ => ?_)]
  · dsimp only
    rw [foldE_same (fun x _ => ?_)]
    simp [keptCluster, hs]
  · simp only [Nat.add_assoc, tryWr_unmapped (h _)]

theorem test_witness_SuspendAndResume_save :
    ropeState 0 (suspendingAt false) = RopeSt.suspending ∧
    (ropeOf 0 (suspendingAt false)).suspend = some ⟨0x10000000000, false, .window 0 0, false⟩ ∧
    writeSave 0 ⟨0x10000000000, false, .window 0 0, false⟩ (Quiet (suspendingAt false)) = .ok (Quiet (suspendingAt false)) ∧
    (ropeClusters 0 (suspendingAt false)).length = 2 ∧ (ropeOf 0 (suspendingAt true)).suspend = some ⟨0x10000000000, true, .window 0 0, false⟩ ∧
    openColls 0 (suspendingAt true) = [] ∧ ropeState 0 ropeUp ≠ RopeSt.suspending ∧ ropeState 0 ropeUp ≠ RopeSt.resuming ∧
    ropeBusy 0 (suspendingAt false) = false ∧ writesOut 544 (Quiet (suspendingAt false)) = false ∧
    (ropeClusters 0 (Quiet (suspendingAt false)) = ropeClusters 0 (suspendingAt false) ∧
      ropeCores 0 (Quiet (suspendingAt false)) = ropeCores 0 (suspendingAt false)) :=
  ⟨by decide +kernel, by decide +kernel,
    writeSave_unmapped rfl (fun _ => unmapped_of (Nat.le_add_right ..) (by decide +kernel)), by decide +kernel⟩

/-- A write of the command processor to lent memory is not acknowledged. -/
def withSaveWrite (s : State) : State := { s with msgs := { s.msgs with waiting := [⟨.write 544 0 0 0, none, 5, 24, [], 0⟩] } }

/-- The same rope with an instruction that has started. -/
def busySuspending : State := modCore 0 (fun k => { k with dmvQ := [{ w0 := 0x100000, w1 := 0xFE0FE0FE, started := true }] }) (suspendingAt false)

/-- The save area is written; its last byte may not be visible yet. -/
def savedAt : State := modRope 0 (fun k => { k with suspend := some ⟨0x10000000000, false, .window 0 0, true⟩ }) (suspendingAt false)

theorem test_witness_SuspendAndResume_waits :
    (ropeState 0 busySuspending = RopeSt.suspending ∧ ropeBusy 0 busySuspending = true ∧
      (ropeOf 0 busySuspending).suspend = some ⟨0x10000000000, false, .window 0 0, false⟩) ∧
    (ropeState 0 (withSaveWrite (suspendingAt false)) = RopeSt.suspending ∧ ropeBusy 0 (withSaveWrite (suspendingAt false)) = false ∧
      writesOut 544 (Quiet (withSaveWrite (suspendingAt false))) = true) ∧
    (ropeState 0 savedAt = RopeSt.suspending ∧ (ropeOf 0 savedAt).suspend = some ⟨0x10000000000, false, .window 0 0, true⟩ ∧
      writesOut 544 savedAt = false ∧ writesOut 544 (withSaveWrite savedAt) = true ∧
      (ropeOf 0 (withSaveWrite savedAt)).suspend = some ⟨0x10000000000, false, .window 0 0, true⟩) := by decide +kernel

/-- Rope 0 SUSPENDED with no cluster left alive in the mask, and a save area whose header names it (R272). -/
def resumeRec : Rec := recOf 5 [(44, 6, 0x10000000000)]

def suspendedAt : State :=
  let s := setR .CMD_ROPE_CLUSTERS [0] 0 (setRopeState 0 RopeSt.suspended (dramPages (withRec resumeRec ropeUp)))
  memWrite (0x200000) [1, 0, 16, 0] s

/-- The header of that save area. -/
def saveHead (n : Nat) : List Byte := [1, 0, 16, 0] ++ zeros n

theorem zeros_drop (n k : Nat) : (zeros n).drop k = zeros (n - k) := List.drop_replicate ..

theorem zeros_take (n k : Nat) : (zeros n).take k = zeros (min k n) := List.take_replicate ..

theorem zeros_all (n : Nat) : (zeros n).all (fun b => decide (b = 0)) = true :=
  List.all_eq_true.mpr (fun _ h => decide_eq_true (List.eq_of_mem_replicate h))

theorem leNat_zeros (n : Nat) : leNat (zeros n) = 0 := by
  induction n with
  | zero => rfl
  | succ n ih => exact (show leNat (zeros (n + 1)) = (0 : Byte).toNat + 256 * leNat (zeros n) from rfl).trans (by rw [ih]; rfl)

theorem saveHead_drop (n k : Nat) : (saveHead n).drop (k + 4) = zeros (n - k) := by
  show ((1 : Byte) :: 0 :: 16 :: 0 :: zeros n).drop (k + 4) = _
  simp only [List.drop_succ_cons, zeros_drop]

theorem saveHead_drop' {n k : Nat} (h : 4 ≤ k) : (saveHead n).drop k = zeros (n - (k - 4)) := by
  rw [← saveHead_drop, Nat.sub_add_cancel h]

theorem saveHead_field {n off k : Nat} (h : 4 ≤ off) : fieldAt (saveHead n) off k = 0 := by
  rw [fieldAt, saveHead_drop' h, zeros_take, leNat_zeros]

theorem saveHead_zero {n lo hi : Nat} (h : 4 ≤ lo) : zeroIn (saveHead n) lo hi = true := by
  rw [zeroIn, saveHead_drop' h, zeros_take, zeros_all]

theorem saveHead_stop (n : Nat) : stopClean ((saveHead n).drop 0x20) = true := by
  rw [stopClean, saveHead_drop' (by decide), fieldAt, zeroIn, zeros_drop, zeros_drop, zeros_take, zeros_take, zeros_all, leNat_zeros]
  rfl

theorem saveHead_ok {n : Nat} {s : State} (h1 : ropeClusters 0 s = []) (h2 : ropeJob 0 s = 1) :
    saveHeaderOk 0 (saveHead n) s = true := by
  have hd : ropeDies 0 s = [] := by simp [ropeDies, h1]
  have f0 : fieldAt (saveHead n) 0 2 = 1 := rfl
  have f2 : fieldAt (saveHead n) 2 2 = 16 := rfl
  have e : ∀ off size g, entriesClean (saveHead n) off size 0 g = true := fun _ _ _ => rfl
  have g1 : ∀ d, fieldAt (saveHead n) (0x48 + d) 1 = 0 := fun d => saveHead_field (by omega)
  have g2 : ∀ d, fieldAt (saveHead n) (0x50 + d) 1 = 0 := fun d => saveHead_field (by omega)
  have f8 : fieldAt (saveHead n) 8 1 = 0 := saveHead_field (by decide)
  have f9 : fieldAt (saveHead n) 9 1 = 0 := saveHead_field (by decide)
  have f40 : fieldAt (saveHead n) 0x40 8 = 0 := saveHead_field (by decide)
  have z1 : zeroIn (saveHead n) 4 8 = true := saveHead_zero (by decide)
  have z2 : zeroIn (saveHead n) 10 16 = true := saveHead_zero (by decide)
  have z3 : zeroIn (saveHead n) 0x58 0x100 = true := saveHead_zero (by decide)
  have z4 : zeroIn (saveHead n) 0x100 0x1000 = true := saveHead_zero (by decide)
  have z5 : zeroIn (saveHead n) 0x9000 0x10000 = true := saveHead_zero (by decide)
  have c18 : nctrlClean (fieldAt (saveHead n) 0x18 8) = true := by rw [saveHead_field (by decide)]; rfl
  simp [saveHeaderOk, h1, h2, hd, f0, f2, e, g1, g2, f8, f9, f40, z1, z2, z3, z4, z5, c18, saveHead_stop]

theorem save_bytes {m : Mem} {p : Nat} (h : m.cells = [(p, 1), (p + 2, 16)]) (n : Nat) : m.bytes p (n + 4) = saveHead n := by
  apply List.ext_getElem
  · simp [Mem.bytes, saveHead, zeros]
  · intro i h1 h2
    simp only [Mem.bytes, List.getElem_map, List.getElem_range, Mem.byte, h, tget]
    match i with
    | 0 => simp [saveHead]
    | 1 => simp [saveHead]
    | 2 => simp [saveHead]
    | 3 => simp [saveHead]
    | i + 4 => simp [saveHead, zeros]

theorem readA_one {w : Who} {a p n : Nat} {s : State} (hl : locate w a false s = .place p) (hn : 0 < n)
    (hk : min n (2 ^ 21 - a % 2 ^ 21) = n) (hq : p < 2 ^ 64) (he : s.mem.errs = []) (hp : s.mem.anyPoison p n = false) : rdGood w a n s = .ok (s.mem.bytes p n) := by
  obtain ⟨m, rfl⟩ : ∃ m, n = m + 1 := ⟨n - 1, by omega⟩
  have h0 : readA (m + 1) w (a + (m + 1)) (m + 1 - (m + 1)) s = .ok ([], 0) := by rw [readA, if_pos (Nat.sub_self _)]
  have h1 : rd w a (m + 1) s = .ok (s.mem.bytes p (m + 1) ++ [], 0) := by
    rw [rd, readA, if_neg (Nat.succ_ne_zero m), hl]
    have nq : ¬ 2 ^ 64 ≤ p := Nat.not_le.mpr hq
    have n1 : placeNeeds w p (m + 1) s = none := by rw [placeNeeds, if_neg nq, Mem.badWord, he]; rfl
    have n2 : hostFails w p s = false := by rw [hostFails, decide_eq_false nq]; rfl
    simp only [hk, h0, hp, n1, n2]
    rfl
  rw [rdGood, h1, List.append_nil]
  rfl

theorem saveOk_of {a : Nat} {h : List Byte} {s : State} (hr : rdGood (cmdWho 0) a 0x10000 s = .ok h)
    (hh : saveHeaderOk 0 h s = true) (hx : ropeClusters 0 s = []) : saveOk 0 a [] s = .ok true := by
  have e : coreBlocksOk (cmdWho 0) a h s [] = .ok true := rfl
  have f : resumeShapeOk 0 h [] s = true := by simp [resumeShapeOk, hx]
  unfold saveOk
  rw [hr]
  dsimp only
  rw [hh, f]
  exact e

theorem saveOk_at : saveOk 0 0x10000000000 [] (Quiet suspendedAt) = .ok true := by
  have hl : locate (cmdWho 0) 0x10000000000 false (Quiet suspendedAt) = .place (0x200000) := by decide +kernel
  have hc : (Quiet suspendedAt).mem.cells = [(0x200000, 1), (0x200000 + 2, 16)] := by decide +kernel
  have hp : (Quiet suspendedAt).mem.anyPoison (0x200000) 0x10000 = false := by decide +kernel
  have hr := readA_one hl (by decide) (by decide) (by decide) (by decide +kernel) hp
  rw [save_bytes hc 65532] at hr
  have hx : ropeClusters 0 (Quiet suspendedAt) = [] := by decide +kernel
  have hj : ropeJob 0 (Quiet suspendedAt) = 1 := by decide +kernel
  exact saveOk_of hr (saveHead_ok hx hj) hx

theorem test_witness_SuspendAndResume_resume :
    RecordAt 0 5 resumeRec .pf suspendedAt ∧ mayName .pf (recField resumeRec 40 1) suspendedAt ∧
    ropeState 0 suspendedAt = RopeSt.suspended ∧ bodyZero resumeRec 41 44 ∧ bodyZero resumeRec 50 56 ∧
    recField resumeRec 56 8 = 0 ∧ ropeClusters 0 suspendedAt = [] ∧ recField resumeRec 44 6 % 65536 = 0 ∧
    saveOk 0 0x10000000000 [] (Quiet suspendedAt) = .ok true :=
  ⟨record_of (by decide +kernel), may_pf (by decide +kernel), by decide +kernel, body_of (by decide +kernel),
    body_of (by decide +kernel), by decide +kernel, by decide +kernel, by decide +kernel, saveOk_at⟩

/-- Rope 0 RESUMING from a readable save area; its cores are disabled, so no core block is read. -/
def resumingAt : State :=
  setR .ID_CORES [0] 0 (setRopeState 0 RopeSt.resuming
    (modRope 0 (fun k => { k with resume := some ⟨0x10000000000, false, .window 0 0, false⟩ }) (dramPages ropeUp)))

theorem test_witness_SuspendAndResume_complete :
    ropeState 0 resumingAt = RopeSt.resuming ∧ (ropeOf 0 resumingAt).resume = some ⟨0x10000000000, false, .window 0 0, false⟩ ∧
    ∃ h, rdGood (cmdWho 0) 0x10000000000 0x10000 (Quiet resumingAt) = .ok h ∧
      (queuesHaveRoom 0 h (Quiet resumingAt) && (restoreRope 0 0x10000000000 h (Quiet resumingAt)).toBool) = true :=
  ⟨by decide +kernel, by decide +kernel, ok_with (by decide +kernel)⟩

theorem test_witness_SavedCoreIsRestored :
    let k : Core := { mxeQ := List.replicate 32 { w0 := 1 }, pc := 4, issue := 8388607 }
    k.ended = false ∧ ∀ q ∈ [k.mxeQ, k.vxeQ, k.mgeQ, k.dmvQ], q.length ≤ 32 ∧ ∀ e ∈ q, e.started = false := by decide +kernel

/-- STEP_MARK of rope 0. -/
def markRec : Rec := recOf 0x0C []

/-- Rope 0 with a boundary that two marks wait for, and a placement commit pending. -/
def boundaryAt : State :=
  setPending 0 0 true (modRope 0 (fun k => { k with boundary := some { marks := [.window 0 0, .window 0 1] } }) ropeUp)

/-- The same with the rope's placement copy-back still under way. -/
def copyingBoundary : State := { boundaryAt with tables := { boundaryAt.tables with copyBack := [(0, 0)] } }

theorem test_witness_StepBoundaries :
    (recordAt 0x0C markRec (withRec markRec ropeUp) = true ∧ ropeState 0 (withRec markRec ropeUp) = RopeSt.running ∧
      composerOn 0 (withRec markRec ropeUp) = false ∧ bodyIsZero markRec 41 64 = true) ∧
    (ropeOf 0 ropeUp).boundary = none ∧
    rteBusy 15 (modRope 15 (fun k => { k with rteHeld := 1, boundary := some {} }) ropeUp) = true ∧
    flipsWait 0 ropeUp = false ∧
    (flipsWait 0 copyingBoundary = true ∧ rteBusy 0 copyingBoundary = false ∧ (ropeOf 0 copyingBoundary).boundary ≠ none) ∧
    (flipsWait 0 boundaryAt = false ∧ ∀ x ∈ boundaryAt.xes, x.2.active = []) ∧
    ((ropeOf 0 boundaryAt).boundary = some { marks := [.window 0 0, .window 0 1] } ∧ ropeState 0 boundaryAt = RopeSt.running ∧
      rteBusy 0 boundaryAt = false ∧ checkpointDue 0 boundaryAt = false ∧ getF F.MEM_PF_CTRL_PENDING [0] boundaryAt = 0 ∧
      getR .SW_PLAN_PENDING [] boundaryAt = 0 ∧ (∀ c ∈ boundaryAt.tables.commits, c.status = none) ∧
      pendingOf 0 0 boundaryAt = true) := by decide +kernel

/-- COMPOSE_CFG of rope 0: disabling, and with a descriptor at host address 64. -/
def cfgRec (a : Nat) : Rec := recOf 0x0D [(44, 6, a)]

/-- The descriptor (R405): chunk 512, 16,384 sequences, belays 8 and 11, the two areas. -/
def composerDesc : List Byte :=
  natLe 2 0 ++ natLe 2 512 ++ natLe 2 16384 ++ natLe 2 8 ++ natLe 2 11 ++ zeros 6 ++ natLe 6 0x10000000000 ++ zeros 2 ++
    natLe 6 0x10000020000 ++ zeros 34

def composeAt : State := memWrite (hostPlace 64) composerDesc (withRec (cfgRec 64) ropeUp)

theorem test_witness_ComposerCommands_cfg :
    (recordAt 0x0D (cfgRec 0) (withRec (cfgRec 0) ropeUp) = true ∧ recField (cfgRec 0) 44 6 = 0) ∧
    (recordAt 0x0D (cfgRec 64) composeAt = true ∧ ropeState 0 composeAt = RopeSt.running ∧ bodyIsZero (cfgRec 64) 41 44 = true ∧
      bodyIsZero (cfgRec 64) 50 64 = true ∧ recField (cfgRec 64) 44 6 ≠ 0 ∧ composeAt.mem.anyPoison (hostPlace 64) 64 = false ∧
      composerOk 0 (hostBytes composeAt 64 64) composeAt = true) ∧
    ((ropeOf 0 composeAt).boundary = none ∧ rteBusy 0 composeAt = false ∧ checkpointDue 0 composeAt = false ∧
      (getF F.RTE_PT_ACTIVE_PENDING [] composeAt = 0 ∧ getF F.SW_RANKMAP_BANKS_PENDING [] composeAt = 0 ∧
        getR .SW_PLAN_PENDING [] composeAt = 0) ∧ getF F.MEM_PF_CTRL_PENDING [0] composeAt = 0) := by decide +kernel

/-- SEQ_ADD of sequence 8, priority 3, and SEQ_CANCEL of sequence 9. -/
def addRec : Rec := recOf 0x0E [(41, 1, 3), (44, 4, 8), (48, 4, 16777216)]

def cancelRec : Rec := recOf 0x0F [(44, 4, 9)]

/-- The composer of rope 0 is on, with one sequence decoding in its step 0; its result area lies in local memory and says that
the sequence ends. -/
def composing : State :=
  let k : Composer := { budget := 1, chunk := 512, maxSeqs := 1, readyB := 8, doneB := 11, stepArea := 0x10000000000,
                        resultArea := 0x10000020000, act := [{ id := 9, prio := 3, prompt := 1, done := 1, decoding := true }],
                        entries := [⟨9, 0, 0, true, 1, 1⟩] }
  let s := setF F.CMD_COMPOSER_ENABLED [0] 1 (modRope 0 (fun r => { r with composer := k }) (dramPages ropeUp))
  memWrite (0x220000) [1] (incDevBelay 11 s)

theorem test_witness_ComposerCommands_sequences :
    (recordAt 0x0E addRec (withRec addRec composing) = true ∧ ropeState 0 composing = RopeSt.running ∧
      composerOn 0 (withRec addRec composing) = true ∧ recField addRec 41 1 < 4 ∧ recField addRec 48 4 ≤ 16777216 ∧
      bodyIsZero addRec 42 44 = true ∧ bodyIsZero addRec 52 64 = true ∧ (ropeOf 0 composing).composer.empty = false ∧
      ∀ x ∈ (ropeOf 0 composing).composer.act ++ (ropeOf 0 composing).composer.pend, x.id.toNat ≠ recField addRec 44 4) ∧
    (recordAt 0x0F cancelRec (withRec cancelRec composing) = true ∧ bodyIsZero cancelRec 41 44 = true ∧ bodyIsZero cancelRec 48 64 = true) ∧
    (devBelay (ropeOf 0 ropeUp).composer.doneB ropeUp).toNat < (ropeOf 0 ropeUp).composer.step + 1 := by decide +kernel

theorem test_witness_ComposerCommands_step :
    let k := (ropeOf 0 composing).composer
    (composerOn 0 composing = true ∧ (ropeOf 0 composing).boundary = none ∧ rteBusy 0 composing = false ∧
      checkpointDue 0 composing = false ∧ getF F.MEM_PF_CTRL_PENDING [0] composing = 0 ∧ k.entries.length = 1 ∧
      k.act.length = 1 ∧ k.pend = [] ∧ k.step + 1 ≤ (devBelay k.doneB composing).toNat) ∧
    (∃ v, rd (cmdWho 0) (k.resultArea + k.step % 2 * 0x10000) 1 composing = .ok v ∧ decide (v = ([1], 0)) = true) ∧
    k.empty = false ∧ getF F.RTE_PT_ACTIVE_PENDING [] composing = 0 ∧ getF F.SW_RANKMAP_BANKS_PENDING [] composing = 0 ∧
    getR .SW_PLAN_PENDING [] composing = 0 ∧
    (let s := setRopeState 0 RopeSt.ready composing;
      ropeState 0 s = RopeSt.ready ∧ composerOn 0 s = true ∧ rteBusy 0 s = false ∧ checkpointDue 0 s = false) :=
  ⟨by decide +kernel, ok_with (by decide +kernel), by decide +kernel⟩

/-! Engines and numbers: the hypotheses of the statements are met. -/

/-- An entry of operation `op` that waits for nothing and signals nothing. -/
def entryOf (op : Nat) (a b d : BitVec 128) : QEntry := { w0 := BitVec.ofNat 32 (op * 2 ^ 20), w1 := 0xFE0FE0FE, opA := a, opB := b, opC := d }

/-- A dense tile of one row (R300). -/
def rowTile (a cols f : Nat) : BitVec 128 := BitVec.ofNat 128 (a + (cols - 1) * 2 ^ 64 + f * 2 ^ 96)

/-- A dense index list of one row of stride `st` (R339). -/
def listTile (a L st f : Nat) : BitVec 128 := BitVec.ofNat 128 (a + (L - 1) * 2 ^ 64 + st / 16 * 2 ^ 80 + f * 2 ^ 96)

/-- Core 0 of rope 0 with one entry at the head of an engine's queue. -/
def engAt (src : Nat) (e : QEntry) : State :=
  modCore 0 (fun k => match src with
    | 1 => { k with mxeQ := [e] }
    | 2 => { k with vxeQ := [e] }
    | 3 => { k with mgeQ := [e] }
    | _ => { k with dmvQ := [e] }) ropeUp

/-- That entry is ready. -/
def headReady (src op c : Nat) (e : QEntry) (s : State) : Bool :=
  decide (ropeOfCore c s = some 0) && mayRun 0 e.started s && decide ((engQueue src (coreOf c s)).head? = some e) &&
  decide (wf32 e.w0 27 20 = op) && (e.started || waitsHold 0 c e s)

theorem head_of {src op c : Nat} {e : QEntry} {s : State} (h : headReady src op c e s = true) : HeadReady src op c 0 e s := by
  simp only [headReady, Bool.and_eq_true, Bool.or_eq_true, decide_eq_true_eq] at h
  obtain ⟨⟨⟨⟨h1, h2⟩, h3⟩, h4⟩, h5⟩ := h
  exact ⟨h1, h2, h3, h4, h5⟩

/-- A dense one-row tile of FP32, BF16 or FP16, of a stride that is not used. -/
def isRow (v : BitVec 128) (a cols f : Nat) : Bool :=
  decide (tileOf v = ⟨a, 1, cols, 0, f, 0, false, false, 0⟩) && decide (a % 16 = 0) && decide (f ∈ [1, 2, 3])

theorem row_of {v : BitVec 128} {a cols f : Nat} (h : isRow v a cols f = true) : IsRow v a cols f := by
  simp only [isRow, Bool.and_eq_true, decide_eq_true_eq] at h
  exact ⟨0, h.1.1, h.1.2, h.2⟩

/-- How an engine instruction ends: done with flags, faulted with a status, or waiting. -/
def endOf : EngOut → Nat × Nat
  | .done _ fl => (0, fl.toNat)
  | .fail _ st _ => (1, st)
  | .need .. => (2, 0)

/-- VADD of one FP32 element: 1 + 1, and NaN + 1 under TRAP_NAN. -/
def vaddEntry (f : Nat) : QEntry := { entryOf 1 (rowTile 0 1 1) (rowTile 16 1 f) (rowTile 32 1 1) with nctrl := 0x10 }

def vaddAt (b : Nat) (f : Nat) : State :=
  memWrite (corePlace 0 16) (natLe 4 b) (memWrite (corePlace 0 32) (natLe 4 0x3F800000) (engAt 2 (vaddEntry f)))

/-- DMOVE of one element from lent memory. -/
def dmoveEntry : QEntry := entryOf 1 (rowTile 0 1 1) (rowTile 0x10000000000 1 1) 0

theorem test_witness_EnginesRunTheirHead :
    (headReady 2 1 0 (vaddEntry 1) (vaddAt 0x3F800000 1) = true ∧
      endOf (vaddFx 0 0 (vaddEntry 1) (popEngine 2 0 (Quiet (vaddAt 0x3F800000 1)))) = (0, 0)) ∧
    (headReady 2 1 0 (vaddEntry 1) (vaddAt 0x7FC00000 1) = true ∧ (vaddEntry 1).nctrl.getLsbD 4 = true ∧
      (endOf (vaddFx 0 0 (vaddEntry 1) (popEngine 2 0 (Quiet (vaddAt 0x7FC00000 1))))).2 % 2 = 1) ∧
    (headReady 2 1 0 (vaddEntry 0) (vaddAt 0 0) = true ∧
      endOf (vaddFx 0 0 (vaddEntry 0) (popEngine 2 0 (Quiet (vaddAt 0 0)))) = (1, St.notPermitted)) ∧
    (headReady 4 1 0 dmoveEntry (lentPage (engAt 4 dmoveEntry)) = true ∧
      endOf (dmoveFx 0 0 dmoveEntry (popEngine 4 0 (Quiet (lentPage (engAt 4 dmoveEntry))))) = (2, 0)) := by decide +kernel

/-- VADD that has started, in a rope that stops (R267) and with a wait that no longer holds. -/
def startedEntry : QEntry := { vaddEntry 1 with started := true, w1 := 0x001FE0FE, th0 := 1 }

def startedAt : State := setRopeState 0 RopeSt.stopped (memWrite (corePlace 0 16) (natLe 4 0x3F800000) (engAt 2 startedEntry))

theorem test_witness_EnginesRunTheirHead_started :
    headReady 2 1 0 startedEntry startedAt = true ∧ ropeState 0 startedAt = RopeSt.stopped ∧ waitsHold 0 0 startedEntry startedAt = false ∧
    endOf (vaddFx 0 0 startedEntry (popEngine 2 0 (Quiet startedAt))) = (0, 0) := by decide +kernel

theorem test_witness_EnginesRunTheirHead_buffers : NoBufferDue ropeUp ∧ ropeUp.mem.errs = [] := by
  refine ⟨fun x hx => ?_, by decide +kernel⟩
  have h : ropeUp.xes = [] := by decide +kernel
  rw [h] at hx
  cases hx

theorem test_engine_rows : engineRows.length = 39 ∧ ∀ x ∈ elementRows, (engineRows.map (fun y => (y.1 0, y.2.2.1))).contains (x.1 0, x.2.1) := by
  decide +kernel

theorem test_witness_EnginesRunTheirHead_empty : ∀ (r : Nat) (e : QEntry), ¬ HeadReady 1 1 0 r e ropeUp := by
  intro r e h
  have := h.head
  simp [show engQueue 1 (coreOf 0 ropeUp) = [] by decide +kernel] at this

/-- A row reads (R300): it lies in the core's store, unpoisoned. -/
theorem test_witness_VectorElements : ∀ x ∈ elementRows,
    let e := entryOf x.2.1 (rowTile 0 1 1) (rowTile 16 1 1) (rowTile 0x1FFFF0 1 1)
    headReady 2 x.2.1 0 e (engAt 2 e) = true ∧ isRow e.opA 0 1 1 = true ∧ isRow e.opB 16 1 1 = true ∧ isRow e.opC 0x1FFFF0 1 1 = true ∧
    0x1FFFF0 + 1 * elemBytes 1 ≤ 0x200000 ∧ (engAt 2 e).mem.anyPoison (corePlace 0 0) 0x200000 = false ∧
    repro 0 (engAt 2 e) = false ∧ coreEnabled 0 (engAt 2 e) = true ∧ (engAt 2 e).mem.errs = [] := by decide +kernel

theorem test_witness_ReductionsAndConversion : ∀ op ∈ [0x18, 0x19, 0x1A, 0x20],
    let e := entryOf op (rowTile 0 1 1) (rowTile 16 (if op = 0x20 then 1 else 2) 3) 0
    headReady 2 op 0 e (engAt 2 e) = true ∧ isRow e.opA 0 1 1 = true ∧ isRow e.opB 16 (if op = 0x20 then 1 else 2) 3 = true ∧
    16 + 2 * elemBytes 3 ≤ 0x200000 ∧ (engAt 2 e).mem.anyPoison (corePlace 0 16) 4 = false := by decide +kernel

/-- Cores 0 and 1 of a rope in reproducible mode at VATADD into their cluster's store; the other cores of the cluster are done. -/
def vatEntry (b : Nat) : QEntry := entryOf 0x28 (rowTile 0x80000000 1 1) (rowTile b 1 1) 0

def vatAt (both : Bool) : State :=
  let s := setF F.CMD_ROPE_STATE_REPRO [0] 1 (modCore 0 (fun k => { k with vxeQ := [vatEntry 0] }) ropeUp)
  let s := if both then modCore 1 (fun k => { k with vxeQ := [vatEntry 16] }) s else s
  forN 6 s (fun i => modCore (i + 2) (fun k => { k with ended := true }))

theorem test_witness_ReproducibleAtomicsRunInRounds :
    (headReady 2 0x28 0 (vatEntry 0) (vatAt false) = true ∧ repro 0 (vatAt false) = true ∧ 1 ∈ ropeCores 0 (vatAt false) ∧
      coreDone 1 (vatAt false) = false ∧ vatReady 0 1 (vatAt false) = none) ∧
    (headReady 2 0x28 0 (vatEntry 0) (vatAt true) = true ∧ headReady 2 0x28 1 (vatEntry 16) (vatAt true) = true ∧
      repro 0 (vatAt true) = true ∧ coreEnabled 0 (vatAt true) = true ∧ coreEnabled 1 (vatAt true) = true ∧
      (∀ d ∈ ropeCores 0 (vatAt true), d / 8 = 0 / 8 → d ≠ 0 → d ≠ 1 → coreDone d (vatAt true) = true) ∧
      indexOf (ropeClusters 0 (vatAt true)) 0 = some 0 ∧ isRow (vatEntry 0).opA 0x80000000 1 1 = true ∧
      isRow (vatEntry 16).opB 16 1 1 = true ∧ (vatAt true).mem.anyPoison (clusterPlace 0 0) 4 = false ∧
      ropeState 0 (vatAt true) = RopeSt.running ∧ waitsHold 0 0 (vatEntry 0) (vatAt true) = true ∧
      waitsHold 0 1 (vatEntry 16) (vatAt true) = true ∧ (vatAt true).mem.errs = [] ∧
      (vatEntry 0).nctrl.getLsbD 4 = false) := by decide +kernel

theorem test_witness_RoundingIsNearestEven : ∀ f ∈ [fp32, bf16, fp16],
    (f.round rne (.fin true 3 (-1))).2 = 0 ∧ (f.round ⟨2, 5⟩ (.fin false 1025 (-10))).2 = 0 ∧
    (f.round rne (numDiv (.fin false 1 0) (.fin true 3 0)).1).2 = 0 ∧ (f.round rne (numSqrt (.fin false 2 0)).1).2 = 0 := by
  decide +kernel

theorem test_witness_ArithmeticIsExact : isFin (.fin true 3 (-5)) = true ∧ isFin (.fin false 0 7) = true ∧ isFin .nan = false := by decide

theorem test_witness_AccumulationIsExact :
    (∀ v ∈ [FNum.fin false 1 0, .fin true 1 (-166)], isFin v) ∧
    (magExp 1 0 ≤ 0 ∧ (0 : Int) - 166 ≤ 0 ∧ magExp 1 (-166) ≤ 0 ∧ (0 : Int) - 166 ≤ -166 ∧ magExp 1 0 = 0) ∧
    (({ sticky := true } : AccPoint).sticky = true) ∧
    (({ m := some 0 } : AccPoint).m = some 0 ∧ magExp 1 (-167) ≤ 0 ∧ (-167 : Int) < 0 - 166 ∧ 1 % 2 ^ ((0 : Int) - 166 - -167).toNat ≠ 0) := by
  decide +kernel

/-- The operations of the matrix engine at a core with as many terms as `n`. -/
def mxeAt (op n : Nat) : State :=
  modCore 0 (fun k => { k with terms := n }) (engAt 1 (entryOf op (if op = 1 then 0 else rowTile 0 1 1) (rowTile 16 1 2) 0))

theorem test_witness_MatrixEngineAccumulates :
    (∀ op ∈ [0x01, 0x02, 0x10, 0x20, 0x21],
      headReady 1 op 0 (entryOf op (if op = 1 then 0 else rowTile 0 1 1) (rowTile 16 1 2) 0) (mxeAt op 16777215) = true ∧
      coreEnabled 0 (mxeAt op 0) = true) ∧
    (coreOf 0 (mxeAt 2 16777215)).terms < 16777216 ∧ 16777216 ≤ (coreOf 0 (mxeAt 2 16777216)).terms ∧
    headReady 1 0x02 0 (entryOf 0x02 (rowTile 0 1 1) (rowTile 16 1 2) 0) (mxeAt 0x02 16777216) = true ∧
    headReady 1 0x10 0 (entryOf 0x10 (rowTile 0 1 1) (rowTile 16 1 2) 0) (mxeAt 0x10 16777216) = true ∧
    isRow (rowTile 0 1 1) 0 1 1 = true ∧ isRow (rowTile 16 1 2) 16 1 2 = true ∧
    (mxeAt 2 0).mem.anyPoison (corePlace 0 0) 64 = false ∧ (mxeAt 2 0).mem.errs = [] := by decide +kernel

/-- MMA24 (two weights stored per group) or MMA14 of 16 BF16 activations: group 0 keeps its columns 0 and 3, or 0, group 1 its column
1, and every other group nothing; the spare slots hold zero codes (R313). -/
def sparseEntry (st : Nat) : QEntry :=
  entryOf (if st = 2 then 0x11 else 0x12) (rowTile 0 16 2) (BitVec.ofNat 128 (64 + (4 * st - 1) * 2 ^ 48 + 2 * 2 ^ 96 + 2 ^ 102))
    (BitVec.ofNat 128 (128 + 0x11 * 2 ^ 96 + 2 ^ 102))

def sparseAt (st : Nat) : State :=
  let s := modCore 0 (fun k => { k with terms := 16777200 }) (engAt 1 (sparseEntry st))
  memWrite (corePlace 0 128) (natLe 2 (if st = 2 then 0x29 else 0x21))
    (memWrite (corePlace 0 64) (if st = 2 then natLe 2 0x3F80 ++ natLe 2 0x4000 ++ natLe 2 0x4040 else natLe 2 0x3F80 ++ natLe 2 0x4040) s)

theorem test_witness_MatrixEngineAccumulates_sparse : ∀ st ∈ [1, 2],
    let e := sparseEntry st
    let s := sparseAt st
    let mk := rowBits 0 128 0x11 0 s
    headReady 1 (if st = 2 then 0x11 else 0x12) 0 e s = true ∧ isRow e.opA 0 16 2 = true ∧
    tileOf e.opB = ⟨64, 4 * st, 1, 0, 2, 1, false, false, 0⟩ ∧ tileOf e.opC = ⟨128, 1, 1, 0, 0x11, 1, false, false, 0⟩ ∧
    s.mem.anyPoison (corePlace 0 0) 192 = false ∧ s.mem.errs = [] ∧ (coreOf 0 s).terms + 16 ≤ 16777216 ∧
    mk = (if st = 2 then 0x29 else 0x21) ∧ (∀ h < 4, maskRank mk h 4 ≤ st) ∧
    (∀ h < 4, ∀ i < st, maskRank mk h 4 ≤ i → isZeroCode 2 (rowBits 0 64 2 (h * st + i) s) = true) ∧
    (keptPairs 0 0 2 64 2 st mk s).length = st + 1 := by decide +kernel

/-- The data mover's rows: FP32 copied, FP16 converted, a poisoned source. -/
theorem test_witness_DataMoverWrites_move :
    (∀ f ∈ [1, 2, 3], let e := entryOf 4 (rowTile 0 1 f) 0 0
      headReady 4 4 0 e (engAt 4 e) = true ∧ isRow e.opA 0 1 f = true) ∧
    (∀ f ∈ [1, 2, 3], ∀ g ∈ [1, 2, 3], let e := entryOf 1 (rowTile 0 1 f) (rowTile 64 1 g) 0
      headReady 4 1 0 e (engAt 4 e) = true ∧ isRow e.opB 64 1 g = true ∧
      (engAt 4 e).mem.anyPoison (corePlace 0 64) 4 = false) ∧
    (let e := entryOf 1 (rowTile 0 1 1) (rowTile 0x1FFFF0 1 1) 0;
      let s := { engAt 4 e with mem := (engAt 4 e).mem.setPoison (corePlace 0 0x1FFFF0) };
      headReady 4 1 0 e s = true ∧ 0x1FFFF0 + elemBytes 1 ≤ 0x200000 ∧
      s.mem.anyPoison (corePlace 0 0x1FFFF0) (elemBytes 1) = true ∧ coreEnabled 0 s = true ∧ s.mem.errs = []) := by
  decide +kernel

theorem test_witness_DataMoverWrites_lists :
    (let e := entryOf 5 (listTile 0 1 16 0x11) (rowTile 64 64 1) 0;
      headReady 4 5 0 e (engAt 4 e) = true ∧ tileOf e.opA = ⟨0, 1, 1, 16, 0x11, 0, false, false, 0⟩ ∧ isRow e.opB 64 64 1 = true) ∧
    (∀ f ∈ [2, 3, 0x11], let e := entryOf 3 (listTile 0 8 48 f) (rowTile 64 8 3) 0
      headReady 4 3 0 e (engAt 4 e) = true ∧ tileOf e.opA = ⟨0, 1, 8, 48, f, 0, false, false, 0⟩ ∧ isRow e.opB 64 8 3 = true ∧
      8 * (if f = 0x11 then 2 else 4) + 4 ≤ 48 ∧ modeOf e ≠ 2 ∧ e.nctrl.getLsbD 4 = false) ∧
    (let e := entryOf 2 (BitVec.ofNat 128 (63 * 2 ^ 64 + 2 * 2 ^ 96 + 2 ^ 104)) (rowTile 1024 64 2) 0;
      headReady 4 2 0 e (engAt 4 e) = true ∧ tileOf e.opA = ⟨0, 1, 64, 0, 2, 0, true, false, 0⟩ ∧ isRow e.opB 1024 64 2 = true ∧
      0 + 64 + 128 * elemBytes 2 ≤ 0x200000) := by decide +kernel

/-- Two index lists of length 8 with entries of value format `f`: indexes 1 and 7, and 7; a list whose indexes do not rise. -/
def listsAt (op : Nat) (a : BitVec 128) (f : Nat) (bad : Bool) : State :=
  let v := if f = 0x11 then [] else [0, 0x3C]
  let b := natLe 4 2 ++ natLe 2 (if bad then 7 else 1) ++ v ++ natLe 2 7 ++ v
  memWrite (corePlace 0 64) b (memWrite (corePlace 0 128) (natLe 4 1 ++ natLe 2 7 ++ v)
    (engAt 3 (entryOf op a (listTile 64 8 32 f) (listTile 128 8 32 f))))

theorem test_witness_MergeEngineWrites_lists :
    (∀ f ∈ [2, 3, 0x11],
      headReady 3 2 0 (entryOf 2 (listTile 0 8 64 f) (listTile 64 8 32 f) (listTile 128 8 32 f)) (listsAt 2 (listTile 0 8 64 f) f false) = true ∧
      tileOf (listTile 64 8 32 f) = ⟨64, 1, 8, 32, f, 0, false, false, 0⟩ ∧
      okWith (fun l => decide (l.length = 2)) (readList (engWho 3 0 0) (tileOf (listTile 64 8 32 f)) 0 (listsAt 2 (listTile 0 8 64 f) f false)) = true ∧
      okWith (fun l => decide (l.length = 1)) (readList (engWho 3 0 0) (tileOf (listTile 128 8 32 f)) 0 (listsAt 2 (listTile 0 8 64 f) f false)) = true ∧
      min 8 (listCap (tileOf (listTile 64 8 32 f)) + listCap (tileOf (listTile 128 8 32 f))) ≤ listCap (tileOf (listTile 0 8 64 f))) ∧
    (∀ f ∈ [2, 3, 0x11],
      headReady 3 1 0 (entryOf 1 (listTile 0 8 64 0x13) (listTile 64 8 32 f) (listTile 128 8 32 f)) (listsAt 1 (listTile 0 8 64 0x13) f false) = true ∧
      min (listCap (tileOf (listTile 64 8 32 f))) (listCap (tileOf (listTile 128 8 32 f))) ≤ (64 - 4) / 4) ∧
    (headReady 3 1 0 (entryOf 1 (rowTile 0 1 1) (listTile 64 8 32 3) (listTile 128 8 32 3)) (listsAt 1 (rowTile 0 1 1) 3 false) = true) ∧
    (headReady 3 2 0 (entryOf 2 (listTile 0 8 64 3) (listTile 64 8 32 3) (listTile 128 8 32 3)) (listsAt 2 (listTile 0 8 64 3) 3 true) = true ∧
      (faultOf (readList (engWho 3 0 0) (tileOf (listTile 64 8 32 3)) 0 (popEngine 3 0 (Quiet (listsAt 2 (listTile 0 8 64 3) 3 true))))).map
        Prod.fst = some St.indexFault) := by decide +kernel

theorem test_witness_MergeEngineWrites_group :
    let v := fun (a : Nat) => BitVec.ofNat 128 (a + 2 * 2 ^ 48 + 2 ^ 80 + 0x11 * 2 ^ 96)
    let e := entryOf 3 (v 0) (v 64) 0
    headReady 3 3 0 e (engAt 3 e) = true ∧ tileOf e.opA = ⟨0, 3, 1, 16, 0x11, 0, false, false, 0⟩ ∧
    tileOf e.opB = ⟨64, 3, 1, 16, 0x11, 0, false, false, 0⟩ ∧ coreEnabled 0 (engAt 3 e) = true ∧
    (engAt 3 e).mem.anyPoison (corePlace 0 0) 128 = false ∧ (engAt 3 e).mem.errs = [] := by decide +kernel

/-! Routing and exchanges: the hypotheses of the statements are met. -/

/-- An entry of an RTE or XE with operand A. -/
def dieEntry (op a : Nat) : DieEntry := ⟨0, 0, entryOf op (BitVec.ofNat 128 a) 0 0, false⟩

def rteAt (x : DieEntry) (s : State) : State := { s with rtes := [(7, { queue := [x] })] }

/-- A descriptor from fields (offset, bytes, value). -/
def descOf (n : Nat) (fields : List (Nat × Nat × Nat)) : List Byte :=
  fields.foldl (fun bs f => overlay bs f.1 (natLe f.2.1 f.2.2)) (zeros n)

/-- A route descriptor (R31): two experts, one token, K 1, sigmoid, in the cluster store; for ROUTE_F softmax normalised. -/
def routeBytes (func : Nat) : List Byte :=
  descOf 64 [(0, 6, 0x80001000), (6, 2, 1), (14, 2, 2), (16, 6, 0x80002000), (30, 1, 1), (32, 6, 0x80003000), (38, 2, 1), (45, 1, func),
    (46, 2, 1), (48, 4, 0x3F800000), (58, 2, 1)]

def routeAt (op func : Nat) : State :=
  let s := modRope 0 (fun k => { k with ptSize := 2 }) (rteAt (dieEntry op 0x80000000) ropeUp)
  let s := { s with tables := { s.tables with
    layerDir := [(0, BitVec.ofNat 64 (2 * 2 ^ 32))], placement := [(0, BitVec.ofNat 128 1), (1, BitVec.ofNat 128 1)] } }
  memWrite (clusterPlace 0 0) (routeBytes func) s

/-- The state in which the entry has left the queue. -/
def routing (local_ : Bool) (s : State) (x : DieEntry) : State :=
  let o := popRte 7 0 0 (Quiet s)
  if local_ then o else routeSlice 7 0 x o

def rteRuns (local_ : Bool) (s : State) (x : DieEntry) : Bool :=
  decide (pickDie 7 s = some (0, x)) &&
  decide (wf32 x.e.w0 27 20 = if local_ then 2 else 1)

theorem test_witness_RoutesRun :
    (rteRuns true (routeAt 2 0x10) (dieEntry 2 0x80000000) = true ∧
      okWith (fun r => decide (r.2.nanRows = [])) (routeFx true 7 0 (dieEntry 2 0x80000000) (routing true (routeAt 2 0x10) (dieEntry 2 0x80000000))) = true) ∧
    (rteRuns false (routeAt 1 1) (dieEntry 1 0x80000000) = true ∧ (routeDesc (routeBytes 1)).ok = true ∧
      (routeDesc (routeBytes 1)).okF = false) ∧
    (rteRuns false (rteAt (dieEntry 1 0x80000001) ropeUp) (dieEntry 1 0x80000001) = true ∧ 0x80000001 % 64 ≠ 0) ∧
    (rteRuns false (lentPage (rteAt (dieEntry 1 0x10000000000) ropeUp)) (dieEntry 1 0x10000000000) = true ∧
      okWith (fun _ => false) (routeFx false 7 0 (dieEntry 1 0x10000000000)
        (routing false (lentPage (rteAt (dieEntry 1 0x10000000000) ropeUp)) (dieEntry 1 0x10000000000))) = false ∧
      faultOf (routeFx false 7 0 (dieEntry 1 0x10000000000)
        (routing false (lentPage (rteAt (dieEntry 1 0x10000000000) ropeUp)) (dieEntry 1 0x10000000000))) = none) ∧
    pickDie 0 ropeUp = none ∧
    (let s := { rteAt (dieEntry 1 0x80000000) ropeUp with heldSigs := [⟨519, false, 0, false, 0, some 0, 0⟩] };
      signalWaits 519 s = true ∧ ∀ x ∈ (tget ({} : Rte) s.rtes 7).queue, x.e.started = false) := by decide +kernel

theorem test_witness_RoutesRun_descriptor :
    (∃ v, rd (rteWho 7 (dieEntry 1 0x80000000)) 0x80000000 64 (routing false (rteAt (dieEntry 1 0x80000000) ropeUp) (dieEntry 1 0x80000000)) = .ok v ∧
      (decide (v.2 = 0) && ! (routeDesc v.1).ok) = true) ∧
    (∃ v, rd (rteWho 7 (dieEntry 1 0x80000000)) 0x80000000 64 (routing false (routeAt 1 1) (dieEntry 1 0x80000000)) = .ok v ∧
      (decide (v.2 = 0) && (routeDesc v.1).ok) = true) := ⟨ok_with (by decide +kernel), ok_with (by decide +kernel)⟩

/-- Two placed candidates and one that is not. -/
def cands : List Cand :=
  [⟨0, .fin false 1 0, .fin false 1 0, true, false⟩, ⟨1, .fin false 2 0, .fin false 2 0, false, false⟩, ⟨2, .nan, .inf true, true, true⟩]

theorem test_witness_RoutingSelectsTheBest :
    let d := { routeDesc (routeBytes 1) with e := 3 }
    (d.groups = 1 ∧ d.topg = 1 ∧ cands.map (fun c => c.i) = List.range d.e ∧ ∀ c ∈ cands, c.key ≠ .nan) ∧
    (selectOf { d with k := 2 } cands)[1]? = some ⟨2, .nan, .inf true, true, true⟩ ∧
    (1 < [5, 0].length ∧ ({ d with flags := 1 } : RouteDesc).flags = 1 ∧ ∃ w ∈ [5, 0], repRank w = 0) := by decide +kernel

/-! Exchanges. -/

/-- An exchange descriptor of one rank, one die and one slot (R65), in the cluster store. -/
def exchBytes (tag : Nat) : List Byte :=
  descOf 128 [(0, 4, tag), (4, 6, 0x80001000), (10, 6, 0x80002000), (16, 6, 0x80003000), (22, 2, 1), (28, 2, 1), (32, 6, 0x80004000),
    (38, 2, 2), (40, 2, 32), (42, 1, 1), (62, 2, 1), (64, 2, 1), (66, 1, 1), (67, 1, 0xFF), (71, 3, 0xFFFFFF), (75, 3, 0xFFFFFF),
    (78, 6, 0x80005000), (84, 2, 8), (86, 2, 9), (88, 2, 10), (90, 6, 0x80006000)]

/-- Rope 0 alone in its job: rank 0 at this device's address 0; pool 0 enabled for it. -/
def rankUp : State :=
  let s := setF F.SW_RANKMAP_SIZE [0] 1 (setF F.SW_GEOMETRY_VALID [] 1 ropeUp)
  let s := setF F.BPM_POOL_CFG_ENABLE [0] 1 (setF F.BPM_POOL_CFG_SIZE_LOG2 [0] 12 (setF F.BPM_POOL_CFG_COUNT [0] 64 s))
  { s with tables := { s.tables with rankMap := [(0, 0x80000000)] } }

def xeAt (x : DieEntry) : State :=
  memWrite (clusterPlace 0 0) (exchBytes 0x10) { rankUp with xes := [(0, { queue := [x] })] }

/-- The same with tag 0x10 retired. -/
def xeRetired : State :=
  { xeAt (dieEntry 1 0x80000000) with
    xes := [(0, { queue := [dieEntry 1 0x80000000], retired := [(0, [0x10])] }), (7, { retired := [(0, [0x10])] })] }

def xeTurn (die i op : Nat) (x : DieEntry) (s : State) : Bool :=
  decide (die < 8) && decide (pickXe die s = some (i, x)) && decide (wf32 x.e.w0 27 20 = op)

theorem test_witness_ExchangesStartAndEnd_exchange :
    (xeTurn 0 0 1 (dieEntry 1 0x80000000) (xeAt (dieEntry 1 0x80000000)) = true ∧
      okWith (fun e => decide (e.nrec = 0) && (acceptExch 0 e (popXe 0 0 0 (Quiet (xeAt (dieEntry 1 0x80000000))))).toBool)
        (readExch 0 (dieEntry 1 0x80000000) (Quiet (xeAt (dieEntry 1 0x80000000)))) = true) ∧
    (xeTurn 0 0 1 (dieEntry 1 0x80000000) xeRetired = true ∧
      okWith (fun e => isRetired 0 e.tag (popXe 0 0 0 (Quiet xeRetired)) && (zeroOut 0 e (popXe 0 0 0 (Quiet xeRetired))).toBool &&
        decide (e.outcome = []) && decide (e.rope < 16) &&
        (xeOf 0 (popXe 0 0 0 (Quiet xeRetired))).active.all (fun y => y.finished.isSome || ! sameTag y.tag e.tag))
        (readExch 0 (dieEntry 1 0x80000000) (Quiet xeRetired)) = true) ∧
    (xeTurn 0 0 1 (dieEntry 1 1) (xeAt (dieEntry 1 1)) = true) ∧
    (xeTurn 0 0 1 (dieEntry 1 0x80010000) (xeAt (dieEntry 1 0x80010000)) = true ∧
      okWith (fun bs => ! ({ tag := 0, rope := 0, ent := {}, core := 0, desc := bs } : Exch).descOk false)
        (rdGood (xeWho 0 (dieEntry 1 0x80010000)) 0x80010000 128 (Quiet (xeAt (dieEntry 1 0x80010000)))) = true) := by decide +kernel

/-- The descriptor names device belay 12, outside the rope's range; and engine 7 is no die of the rope. -/
def xeBelay : State := memWrite (clusterPlace 0 0) (overlay (exchBytes 0x10) 84 (natLe 2 12)) (xeAt (dieEntry 1 0x80000000))

def xeOther : State := { xeAt (dieEntry 1 0x80000000) with xes := [(7, { queue := [dieEntry 1 0x80000000] })] }

theorem test_witness_ExchangesStartAndEnd_refused :
    let e := fun (bs : List Byte) => ({ tag := 0x10, rope := 0, ent := (dieEntry 1 0x80000000).e, core := 0, desc := bs } : Exch)
    (xeTurn 0 0 1 (dieEntry 1 0x80000000) xeBelay = true ∧
      okWith (fun bs => (e bs).descOk false && ! (e bs).belaysOk xeBelay)
        (rdGood (xeWho 0 (dieEntry 1 0x80000000)) 0x80000000 128 (Quiet xeBelay)) = true) ∧
    (xeTurn 7 0 1 (dieEntry 1 0x80000000) xeOther = true ∧ indexOf (ropeDies 0 xeOther) 7 = none ∧
      okWith (fun bs => (e bs).descOk false && (e bs).belaysOk xeOther)
        (rdGood (xeWho 7 (dieEntry 1 0x80000000)) 0x80000000 128 (Quiet xeOther)) = true) := by decide +kernel

/-- An exchange that is active under tag 0x10, complete with nothing exchanged. -/
def exchDone : Exch := { tag := 0x10, rope := 0, ent := entryOf 1 0 0 0, core := 0, desc := exchBytes 0x10, granted := true }

def exchActive (e : Exch) : State := { rankUp with xes := [(7, { active := [e] })] }

theorem test_witness_ExchangesStartAndEnd_cancel :
    (let s := { exchActive exchDone with xes := [(7, { active := [exchDone], queue := [dieEntry 2 0x10] })] };
      xeTurn 7 0 2 (dieEntry 2 0x10) s = true ∧ (cancelTag 7 0 0x10 (popXe 7 0 0 (Quiet s))).toBool = true ∧ tagRope 0x10 = 0) ∧
    (xeTurn 0 0 2 (dieEntry 2 0x20000010) (xeAt (dieEntry 2 0x20000010)) = true ∧ tagRope 0x20000010 ≠ 0) ∧
    (xeTurn 0 0 2 (dieEntry 2 0x10) (xeAt (dieEntry 2 0x10)) = true ∧ activeExch 0 0x10 (xeAt (dieEntry 2 0x10)) = none) := by
  decide +kernel

theorem test_witness_ExchangesStartAndEnd_ends :
    (activeExch 7 0x10 (exchActive exchDone) = some exchDone ∧ ropeState 0 (exchActive exchDone) ≠ RopeSt.suspended ∧
      (cancelExch 7 0x10 St.timeout true (Quiet (exchActive exchDone))).toBool = true) ∧
    (ropeState 0 (setRopeState 0 RopeSt.suspended (exchActive exchDone)) = RopeSt.suspended ∧
      activeExch 7 0x10 (setRopeState 0 RopeSt.suspended (exchActive exchDone)) = some exchDone) ∧
    ((∀ y ∈ (xeOf 7 (exchActive exchDone)).active, y.finished.isSome = true → sameTag y.tag 0x10 = false) ∧
      exchDone.complete = true ∧ exchDone.status = St.ok ∧ exchDone.fld 90 6 = 0x80006000 ∧
      locate (exchDone.who 7) 0x80006000 true (exchActive exchDone) = .place (clusterPlace 0 0x6000) ∧ 0x80006000 % 64 = 0 ∧
      clusterPlace 0 0x6000 < 2 ^ 64 ∧ (exchActive exchDone).mem.errs = []) ∧
    activeExch 7 0x10 ropeUp = none ∧ pickXe 7 ropeUp = none := by decide +kernel

/-- A cell of kind `k` from address 0 at the engine's delivery port. -/
def xcell (k tag : Nat) (payload : List Byte) : Packet :=
  { ty := 8, vc := 3, kind := BitVec.ofNat 8 k, tag := BitVec.ofNat 32 tag, payload := (payload ++ zeros 48).take 48 }

def cellAt (p : Packet) (s : State) : State := { s with switch := { s.switch with delivered := [(23, [(p, 0)])] } }

def xeCell (k : Nat) (p : Packet) (s : State) : Bool :=
  match headCell 7 k (Quiet s) with
  | some (q, _) => decide (q = p)
  | none => false

/-- 1,024 early cells. -/
def earlyFull (s : State) : State := { s with xes := [(7, { early := List.replicate 1024 {} })] }

theorem test_witness_ExchangeCellsAreTaken_count :
    (xeCell 1 (xcell 1 0x11 []) (cellAt (xcell 1 0x11 []) rankUp) = true ∧ 0x11 % 8 ≠ 0) ∧
    (let s := cellAt (xcell 1 0x10 [0, 0, 0, 0, 0, 1, 1, 0]) (exchActive exchDone);
      xeCell 1 (xcell 1 0x10 [0, 0, 0, 0, 0, 1, 1, 0]) s = true ∧ activeExch 7 0x10 s = some exchDone ∧
      cellStream exchDone (xcell 1 0x10 [0, 0, 0, 0, 0, 1, 1, 0]) 0 s = some 0) ∧
    (xeCell 1 (xcell 1 0x10 []) (cellAt (xcell 1 0x10 []) xeRetired) = true ∧ activeExch 7 0x10 xeRetired = none ∧
      isRetired 7 0x10 xeRetired = true) ∧
    (xeCell 1 (xcell 1 0x10 []) (cellAt (xcell 1 0x10 []) rankUp) = true ∧ isRetired 7 0x10 rankUp = false ∧
      (xeOf 7 rankUp).early.length < 1024) ∧
    (xeCell 1 (xcell 1 0x10 []) (cellAt (xcell 1 0x10 []) (earlyFull rankUp)) = true ∧ isRetired 7 0x10 (earlyFull rankUp) = false ∧
      1024 ≤ (xeOf 7 (earlyFull rankUp)).early.length) ∧
    headCell 7 1 (Quiet rankUp) = none ∧ 1023 < (xeOf 7 (earlyFull rankUp)).early.length ∧ (xeOf 7 rankUp).early.length ≤ 0 := by
  decide +kernel

theorem test_witness_ExchangeCellsAreTaken_grant :
    (xeCell 2 (xcell 2 0x10 []) (cellAt (xcell 2 0x10 []) rankUp) = true ∧ activeExch 7 0x10 rankUp = none) ∧
    (∀ last ∈ [0, 1],
      let p := xcell 2 0x10 [0, 0, 0, 0, 0, BitVec.ofNat 8 last, BitVec.ofNat 8 last, 0]
      let s := cellAt p (exchActive exchDone)
      xeCell 2 p s = true ∧ activeExch 7 0x10 s = some exchDone ∧ cellStream exchDone p 1 s = some 0 ∧ exchDone.cutOut 0 = false ∧
      0 ∉ exchDone.streamsDone ∧
      allSeen (takeGrant exchDone 0 p).grSeen (takeGrant exchDone 0 p).grTotal 0 = decide (last = 1)) ∧
    (let p := xcell 2 0x10 [0, 0, 0, 0, 0, 1, 1, 0];
      (grantDone 7 0x10 0 (modExch 7 0x10 (fun e => takeGrant e 0 p) (exchActive exchDone))).toBool = true) := by decide +kernel

theorem test_witness_ExchangeCellsAreTaken_cancel :
    (xeCell 3 (xcell 3 0x10 []) (cellAt (xcell 3 0x10 []) rankUp) = true) ∧
    (∀ b ∈ [0, 0x80],
      let p := xcell 3 0x10 [b]
      let s := cellAt p (exchActive exchDone)
      xeCell 3 p s = true ∧ cellStream exchDone p 0 s = some 0 ∧ (fieldAt p.payload 0 1 / 128 = 1 ↔ b = 0x80) ∧
      (cutOrigin 7 0x10 0 (exchActive exchDone)).toBool = true ∧
      (freeSlots 7 0x10 (cutReceiver 7 0x10 0 (exchActive exchDone))).toBool = true) := by decide +kernel

/-- An exchange whose counts are complete; one with a granted run to send; one with an answered chunk to return. -/
def exchCounted : Exch := { exchDone with granted := false, cntSeen := [(0, [0])], cntTotal := [(0, 1)] }

def exchSends : Exch :=
  { exchDone with runs := [⟨0, 0, 0, 1⟩], dlist := zeros 16, nrec := 1, grantEnts := [(0, ⟨1, 0, 0⟩)], streamsDone := [0] }

def exchReturns : Exch := { exchDone with slots := [(0, { admitted := 1, adm := [1], off := [0], ans := some 0 })] }

theorem test_witness_RowsAreGrantedAndSent :
    (([3, 1] : List Nat) ≠ []) ∧
    (exchCounted.granted = false ∧ exchCounted.countsComplete = true ∧ activeExch 7 0x10 (exchActive exchCounted) = some exchCounted ∧
      (grantAll 7 0x10 (Quiet (exchActive exchCounted))).toBool = true) ∧
    (exchDone.granted = true ∧ { exchCounted with cntSeen := [] }.countsComplete = false) ∧
    (4096 ≤ getF F.XE_STATUS_MSGS [7] (setF F.XE_STATUS_MSGS [7] 4096 ropeUp) ∧ exchDone.sendable = [] ∧
      exchDone.returnable (exchActive exchDone) = []) ∧
    (getF F.XE_STATUS_MSGS [7] (exchActive exchSends) < 4096 ∧ (xeOf 7 (exchActive exchSends)).active = [exchSends] ∧
      exchSends.sendable = [(0, ⟨0, 0, 0, 1⟩)] ∧ (exchSends.grantOf ⟨0, 0, 0, 1⟩).admitted = 1 ∧
      (gatherRows (exchSends.who 7) (exchSends.rowB / 16) [0x80003000] (exchActive exchSends)).toBool = true) ∧
    (exchReturns.returnable (incDevBelay 10 (exchActive exchReturns)) = [(0, 0, 0)] ∧ exchReturns.finished = none ∧
      okWith (fun ws => (freeSlot 7 0x10 0 (sendBulk 7 exchReturns (.xeReturn 7 0x10 0 0 0) 0 1 0 0 ws
        (modSlot 7 0x10 0 (fun x => { x with sent := x.sent ++ [(0, 0)] }) (Quiet (incDevBelay 10 (exchActive exchReturns)))))).toBool)
        (gatherRows (exchReturns.who 7) (exchReturns.ansB / 16) [bufferAddr 0 0 (exchActive exchReturns)] (incDevBelay 10 (exchActive exchReturns))) = true) := by
  decide +kernel

/-! Links and the switch core: the hypotheses of the statements are met. -/

/-- Port 15 in a state, with all lanes locked at rate 1; a pass of training began with all rates allowed. -/
def portIn (st : Nat) : State :=
  let s := setF F.LNK_STATUS_LANES [15] 15 (setF F.LNK_STATUS_RATE [15] 1 (setF F.LNK_STATUS_WIDTH [15] 2 (setF F.LNK_STATUS_STATE [15] st up)))
  let s := forN 4 (modPort 15 (fun q => { q with passRates := 7 }) s) (fun l s => setF F.LNK_LANE_LOCK [15, l] 1 s)
  setF F.LNK_CTRL_RATES [15] 7 (setF F.LNK_CTRL_ENABLE [15] 1 s)

/-- The parameter block of a neighbour of port 15 (R107): address 4096, port 13, all rates, credits. -/
def params : List Byte := natLe 2 4096 ++ [13, 7] ++ zeros 14 ++ natLe 2 1 ++ zeros 12

theorem test_witness_PortsChangeState :
    (linkWrite .pf 15 (portIn Ps.up) = true ∧ linkWrite .manager 0 up = true) ∧
    (portState 15 (portIn Ps.training) = Ps.training ∧ (portOf 15 (portIn Ps.training)).passFailed = false ∧ params.length = 32 ∧
      (combinations (passSets 15 7 (fieldAt params 3 1) (portIn Ps.training)).2 (portOf 15 (portIn Ps.training)).passWidth)[0]? = some (3, 2) ∧
      (portOf 15 (portIn Ps.training)).attempt = 0 ∧ (fieldAt params 3 1).testBit 2 = true ∧ lanesOfWidth 15 4 = some (2, 15)) ∧
    (let s := modPort 15 (fun q => { q with attempt := 8, common := some (7, 7) }) (portIn Ps.training);
      (combinations (passSets 15 1 1 s).2 (portOf 15 s).passWidth)[8]? = some (1, 0) ∧ lanesOfWidth 12 1 = some (0, 4)) ∧
    ((portOf 15 (modPort 15 (fun q => { q with passFailed := true }) (portIn Ps.training))).passFailed = true) ∧
    (portState 15 (portIn Ps.down) = Ps.down ∧ getF F.LNK_CTRL_ENABLE [15] (portIn Ps.down) = 1) ∧
    ((portOf 15 (portIn Ps.up)).retrain = none ∧
      (portOf 15 (modPort 15 (fun q => { q with retrain := some (0, 4) }) (portIn Ps.up))).retrain ≠ none ∧
      portState 15 (modPort 15 (fun q => { q with retrain := some (0, 4) }) (portIn Ps.up)) = Ps.up) ∧
    (portState 15 (modPort 15 (fun q => { q with retrain := some (1, 2) }) (portIn Ps.retrain)) = Ps.retrain ∧
      lanesOfWidth (keptLanes 15 (portIn Ps.retrain)) 2 = some (1, 3) ∧ widthMin 15 (portIn Ps.retrain) ≤ 1 ∧
      1 < widthMin 15 (setF F.LNK_CTRL_WIDTH_MIN [15] 2 (portIn Ps.retrain))) ∧
    (getF F.LNK_STATUS_LANES [15] (portIn Ps.up)).testBit 3 = true ∧
    (let t := setF F.LNK_LANE_DROPPED [15, 3] 1 (setF F.LNK_LANE_LOCK [15, 3] 0 (portIn Ps.up));
      widestLanes (keptLanes 15 t) = some (1, 3) ∧ widthMin 15 t ≤ 1) ∧
    (let t := setF F.LNK_LANE_DROPPED [15, 3] 1 (setF F.LNK_LANE_LOCK [15, 3] 0 (setF F.LNK_CTRL_WIDTH_MIN [15] 3 (portIn Ps.up)));
      widestLanes (keptLanes 15 t) = some (1, 3) ∧ 1 < widthMin 15 t) ∧
    portState 15 (portIn Ps.miswired) = Ps.miswired := by decide +kernel

theorem test_witness_PortsChangeState_retrain :
    (portState 15 (portIn Ps.retrain) = Ps.retrain ∧ (portOf 15 (portIn Ps.retrain)).retrain = none) ∧
    (∀ w ∈ [1, 2, 4], lanesOfWidth (keptLanes 15 (forN 4 (portIn Ps.retrain) (fun l s => setF F.LNK_LANE_LOCK [15, l] 0 s))) w = none) ∧
    (portState 15 (portIn Ps.down) ≠ Ps.up ∧ portState 15 (portIn Ps.down) ≠ Ps.miswired) := by decide +kernel

/-- A bulk packet of one word, and a cell. -/
def bulk : Packet := { ty := 1, vc := 0, dest := 4096, len := 1, payload := zeros 16 }

def cell : Packet := { ty := 8, vc := 3, dest := 4096, kind := 0x13, payload := zeros 48 }

theorem test_witness_PacketsSurviveTheWire : OnWire bulk ∧ OnWire { bulk with len := 256, payload := zeros 4096, vc := 15 } ∧ OnWire cell := by
  refine ⟨?_, ?_, ?_⟩ <;> unfold OnWire <;> decide +kernel

/-- Port 15 UP with what it is to receive, or with a flit kept for replay. -/
def portRx (bs : List Byte) : State := modPort 15 (fun q => { q with rx := bs }) (portIn Ps.up)

def portKeeps (failed : Nat) : State := modPort 15 (fun q => { q with replay := [(0, zeros 256)], failed := failed, replayAt := some q.acked }) (portIn Ps.up)

/-- What a flit is on four lanes; codewords with 15 symbols corrected, and with one too many. -/
theorem test_witness_LinksAreReliable_lanes :
    (let f := mkFlit 0 0xFFF 5 31 []
     let lanes := stripe 4 f
     lanes.length = (activeLanes 15 (portIn Ps.up)).length ∧ (offLanes lanes).length = 256 ∧ (offLanes lanes == f) = true) ∧
    (∀ x ∈ [((15 : Nat), true), (0, true)], x.1 ≤ 15) ∧ (∃ x ∈ [((16 : Nat), true)], ¬ x.1 ≤ 15) := by decide +kernel

theorem test_witness_LinksAreReliable_flits :
    (let f := mkFlit 0 0xFFF 5 31 []
     f.length = 256 ∧ fieldAt f 0 4 / 2 ^ 24 % 8 < 6 ∧ crc32c (f.take 252) = BitVec.ofNat 32 (fieldAt f 252 4) ∧
      fieldAt f 0 4 % 4096 = (portOf 15 (portIn Ps.up)).rxSeq.toNat) ∧
    (let f := mkFlit 1 0xFFF 0 0 []
     fieldAt f 0 4 % 4096 ≠ (portOf 15 (portIn Ps.up)).rxSeq.toNat) ∧
    (let f := setAt (mkFlit 0 0xFFF 0 0 []) 8 1
     fieldAt f 0 4 / 2 ^ 24 % 8 < 6 ∧ crc32c (f.take 252) ≠ BitVec.ofNat 32 (fieldAt f 252 4)) := by decide +kernel

theorem test_witness_LinksAreReliable :
    (portOf 15 (modPort 15 (fun q => { q with nakSent := true }) (portIn Ps.up))).nakSent = true ∧
    (portOf 15 (portIn Ps.up)).nakSent = false ∧
    ((portOf 15 (portKeeps 0)).failed + 1 < max 4 (min 32 (getF F.LNK_RETRY_RETRY_LIMIT [15] (portKeeps 0))) ∧
      (portOf 15 (portKeeps 0)).replay ≠ []) ∧
    (max 4 (min 32 (getF F.LNK_RETRY_RETRY_LIMIT [15] (portKeeps 31))) ≤ (portOf 15 (portKeeps 31)).failed + 1 ∧
      (portOf 15 (portKeeps 31)).replayAt = some (portOf 15 (portKeeps 31)).acked) := by decide +kernel

/-- What the front of a stream parses to. -/
def gets (bs : List Byte) (p : Packet → List Byte → Bool) : Bool :=
  match parsePacket bs with
  | .got q r => p q r
  | _ => false

theorem test_witness_LinksAreReliable_packets :
    (match parsePacket (portOf 15 (portIn Ps.up)).rx with | .more => true | _ => false) = true ∧
    (match parsePacket (portOf 15 (portRx (0x10 :: zeros 15))).rx with | .badLen => true | _ => false) = true ∧
    gets ({ bulk with ty := 7 } : Packet).wire (fun p r => p.malformed && decide (r = [])) = true ∧
    gets ({ bulk with code := bulk.stompCode } : Packet).wire (fun p _ => ! p.malformed && decide (p.code = p.stompCode)) = true ∧
    gets bulk.seal.wire (fun p _ => ! p.malformed && decide (p.code = p.crc) && ! p.isSync && ! p.isCell) = true ∧
    gets ({ bulk with code := bulk.crc ^^^ 1 } : Packet).wire (fun p _ => ! p.malformed && decide (p.code ≠ p.crc) && decide (p.code ≠ p.stompCode)) = true ∧
    route bulk 15 0 up = .discard .SW_PATH_DISCARDS := by decide +kernel

/-- A cell for this device, of a kind that is not assigned. -/
def oddCell : Packet := ({ cell with dest := 0, kind := 0x1F ||| 0x80 } : Packet).seal

theorem test_witness_LinksAreReliable_cells :
    gets oddCell.wire (fun p _ => ! p.malformed && p.isCell && p.badKind && decide (p.dest = ownAddr up) && ! p.multicast &&
      decide (p.code ≠ p.stompCode)) = true := by decide +kernel

/-- A device at coordinate 0 of a torus of 16 by 16 by 16 by 8, all ports UP. -/
def torus : State :=
  let s := setF F.SW_GEOMETRY_XSIZE [] 16 (setF F.SW_GEOMETRY_YSIZE [] 16 (setF F.SW_GEOMETRY_ZSIZE [] 16 (setF F.SW_GEOMETRY_WSIZE [] 8
    (setF F.SW_GEOMETRY_VALID [] 1 up))))
  forN 16 s (fun n s => forN 6 (setF F.LNK_STATUS_STATE [n] Ps.up s) (fun v s => setF F.LNK_VC_STATE_AVAIL [n, v] 1000 s))

/-- Input 42, VC `vc`, holds a packet. -/
def inputAt (vc : Nat) (p : Packet) (s : State) : State := setInQ 42 vc [p] s

/-- The bulk packet as it would fill an output: 300 of 65 credits. -/
def outputFull (out vc : Nat) (s : State) : State :=
  setOutQ out vc (List.replicate 300 ({ bulk with len := 256, payload := zeros 4096 }, 0, false)) s

/-- A multicast packet of group 5, whose entry names job 1 and outputs 0 and 16. -/
def mcast : Packet := { bulk with multicast := true, dest := 5, job := 1 }

def grouped : State := setR .SW_MCAST [5] 0x8000000100010001 (setF F.CMD_ROPE_STATE_JOB [0] 1 (setRopeState 0 RopeSt.running torus))

theorem test_witness_SwitchMovesPackets_admit :
    inQ 42 5 torus = [] ∧ inQ 42 0 (inputAt 0 bulk torus) = [bulk] ∧
    route bulk 42 0 (inputAt 0 bulk up) = .discard .SW_PATH_DISCARDS ∧
    (match route bulk 42 0 (inputAt 0 bulk torus) with | .port out 0 _ => canAdmit out 0 bulk.credits (inputAt 0 bulk torus) | _ => false) = true ∧
    (match route { bulk with dest := 0, ty := 5 } 42 0 torus with | .deliver out => decide (out = 26) | _ => false) = true := by
  decide +kernel

theorem test_witness_SwitchMovesPackets_full :
    canAdmit 12 0 bulk.credits (outputFull 12 0 torus) = false ∧
    (let s := inputAt 0 bulk torus
     (match route bulk 42 0 s with | .port out v _ => decide (out = 13 ∧ v = 0) | _ => false) = true ∧ inTurn 13 0 42 s = true ∧
       inTurn 13 0 42 (setInQ 1 0 [bulk] (setInQ 0 0 [bulk] s)) = false) := by decide +kernel

theorem test_witness_SwitchMovesPackets_multicast :
    mcast.multicast = true ∧ mcastBad (withGroup mcast torus) 0 = true ∧
    mcastBad (withGroup mcast grouped) 0 = false ∧ mcastDue (withGroup mcast grouped) grouped = [0, 16] ∧
    (∀ o ∈ [0, 16], canAdmit o 0 mcast.credits grouped = true) ∧
    mcastDue (withGroup mcast grouped) (outputFull 0 0 grouped) = [0, 16] ∧
    canAdmit 0 0 mcast.credits (outputFull 0 0 grouped) = false ∧
    (let s := outputFull 0 0 (inputAt 0 (withGroup mcast grouped) grouped)
     (mcastDue (withGroup mcast grouped) s).filter (fun o => canAdmit o 0 mcast.credits s && inTurn o 0 42 s) = [16]) := by
  decide +kernel

theorem test_witness_SwitchMovesPackets_schedule :
    portState 15 up ≠ Ps.up ∧
    (let s := setOutQ 15 0 [(bulk, 42, false)] torus
     portState 15 s = Ps.up ∧ isAnalysis 15 s = false ∧ pickNext 15 s = some (0, 0, 4) ∧ (outQ 15 0 s)[0]? = some (bulk, 42, false)) ∧
    (startPacket 15 torus = none ∧ (portOf 15 torus).tx = [] ∧ (nextReturn (portOf 15 torus)).2 = 0) ∧
    (let s := modPort 15 (fun q => { q with tx := [1] }) torus; startPacket 15 s = none ∧ (portOf 15 s).tx ≠ []) ∧
    (let p : Packet := { bulk with mirror := true, vc := 1 }
     let s := modPort 15 (fun q => { q with analysis := true }) { torus with switch := { torus.switch with mirrorq := [(15, [p])] } }
     portState 15 s = Ps.up ∧ isAnalysis 15 s = true ∧ tget [] s.switch.mirrorq 15 = [p] ∧ canStart 15 1 (p, 0, false) s = true) ∧
    (let s := modPort 15 (fun q => { q with toReturn := [(5, 40)] }) torus
     startPacket 15 s = none ∧ (portOf 15 s).tx = [] ∧ (nextReturn (portOf 15 s)).2 ≠ 0 ∧ (portOf 15 s).replay.length < 1024) ∧
    (pickDelivery 42 torus = none ∧ (let s := setOutQ 16 0 [(bulk, 42, false)] torus
     pickDelivery 16 s = some (0, 4) ∧ outQ 16 0 s = [(bulk, 42, false)] ∧ bulk.code ≠ bulk.crc ∧ bulk.seal.code = bulk.seal.crc ∧
       unitGated 16 s = false ∧ unitGated 16 (setF F.BC_STATE_DEVICE [] 2 s) = true)) := by decide +kernel

theorem test_witness_RoutesFollowTheRules :
    (geomValid torus = true ∧ (0 : BitVec 16) = ownAddr torus) ∧ ((4096 : BitVec 16) ≠ ownAddr torus ∧ outside 4096 torus = false) ∧
    outside 0xF000 torus = true ∧ (geomValid up = false ∧ isManagement bulk = false) ∧ isManagement { bulk with ty := 5, vc := 1 } = true := by
  decide +kernel

/-- The same with a partly cut-through output: port 13 hands cells on as they come in at the same rate. -/
def cutTorus : State := setF F.SW_FWD_MODE_BULK_CT [13] 1 torus

theorem test_witness_LinksAreReliable_cutThrough :
    (match route bulk 15 0 cutTorus with | .port out vc _ => cutThrough 15 out vc cutTorus | _ => false) = true ∧
    (mcastBad (withGroup mcast (setF F.SW_FWD_MODE_BULK_CT [0] 1 grouped)) 0 = false ∧
      (mcastDue (withGroup mcast grouped) grouped).any (fun o => cutThrough 15 o 0 (setF F.SW_FWD_MODE_BULK_CT [0] 1 grouped)) = true) := by
  decide +kernel

/-- Line 3 of plan 1 of job 1 for packets injected here, by way of output `out`. -/
def lined (out : Nat) (s : State) : State :=
  { s with tables := { s.tables with planDir := [(2, BitVec.ofNat 64 (1 + 2 ^ 16))],
                                     planLine := [(2048, BitVec.ofNat 128 (3 + 2 ^ 16 + 0x10 * 2 ^ 48 + out * 2 ^ 56))] } }

/-- A packet of that line for a neighbour. -/
def linePacket : Packet := { bulk with vc := 5, flow := 1027, job := 1 }

theorem test_witness_RoutesFollowTheRules_lines :
    lineEntry linePacket 42 torus = none ∧ outside linePacket.dest torus = false ∧
    (∀ out ∈ [15, 16, 17], okWith (fun e => decide (nbits 63 56 (BitVec.toNat e) = out))
      (match lineEntry linePacket 42 (lined out torus) with | some e => (.ok e : Except Unit (BitVec 128)) | none => .error ()) = true) ∧
    portUsable 15 torus = true ∧ portUsable 15 (setF F.LNK_STATUS_STATE [15] Ps.down (lined 15 torus)) = false := by decide +kernel

/-- Only ports that retrain lead there. -/
def retraining : State := forN 16 torus (fun n s => setF F.LNK_STATUS_STATE [n] Ps.retrain s)

theorem test_witness_RoutesFollowTheRules_waits :
    adaptivePorts bulk retraining = [] ∧ adaptiveWaits bulk retraining = true ∧ route bulk 42 1 retraining = .stay ∧
    inQ 42 1 (inputAt 1 bulk retraining) = [bulk] := by decide +kernel

/-- A ring notice for dimension 3, coordinate 7, up or blocked. -/
def notice (d c up_ : Nat) : Packet := { ty := 9, vc := 4, kind := 0x12, payload := [BitVec.ofNat 8 d, BitVec.ofNat 8 c, BitVec.ofNat 8 up_] ++ zeros 45 }

/-- The same as a unit cell: kind 0x12 is a control cell. -/
def noticeAt (p : Packet) : State := { torus with switch := { torus.switch with delivered := [(26, [({ p with ty := 8 }, 15)])] } }

theorem test_witness_SwitchControls :
    (fnAllowed .pf (regOff .SW_OUTBUF [26]) up = true ∧ fnAllowed .manager (regOff .SW_GEOMETRY []) up = true ∧
      fnAllowed .pf (regOff .SW_PATH_EPOCH []) up = true ∧ fnAllowed .pf (regOff .SW_E2E_QUERY []) up = true) ∧
    ((takeDelivered 26 (isKind 0x12) (Quiet (noticeAt (notice 3 7 0)))).isSome = true ∧ noticeBad { notice 3 7 0 with ty := 8 } (noticeAt (notice 3 7 0)) = false ∧
      linkBlocked 3 7 (noticeAt (notice 3 7 0)) = false) ∧
    (noticeBad { notice 3 7 1 with ty := 8 } (noticeAt (notice 3 7 1)) = false ∧ (takeDelivered 26 (isKind 0x12) (Quiet (noticeAt (notice 3 7 1)))).isSome = true) ∧
    (noticeBad { notice 4 7 1 with ty := 8 } (noticeAt (notice 4 7 1)) = true ∧ (takeDelivered 26 (isKind 0x12) (Quiet (noticeAt (notice 4 7 1)))).isSome = true) ∧
    takeDelivered 26 (isKind 0x12) torus = none ∧
    ({ torus with switch := { torus.switch with notices := [(0, 1, 1, 3)] } } : State).switch.notices[0]? = some (0, 1, 1, 3) ∧
    torus.switch.notices[0]? = none := by decide +kernel

/-- Slot 255 of output 15 is HELD or DRAINING for line 3 of plan 1, with a packet of the line queued or not. -/
def slotAt (draining used : Bool) : State :=
  let s := { torus with tables := { torus.tables with calendar := [(15 * 256 + 255, ⟨draining, 1, 1, 3⟩)] } }
  if used then setOutQ 15 5 [({ bulk with vc := 5, flow := 1027, job := 1 }, 42, false)] s else s

theorem test_witness_SwitchControls_slots : ∀ d u,
    (slotAt d u).tables.calendar.find? (fun e => decide (e.1 = 15 * 256 + 255)) = some (15 * 256 + 255, ⟨d, 1, 1, 3⟩) ∧
    (outQ 15 5 (slotAt d u)).any (fun e => decide (e.1.flow.toNat = 1 * 1024 + 3) && decide (e.1.job.toNat % 4096 = 1)) = u := by
  decide +kernel

/-! Ropes reset and destroyed, and collectives: the hypotheses of the statements are met. -/

/-- Rope 0 READY, owning nothing, with a plan of its job in the calendar. -/
def ropeReady : State :=
  let s := modRope 0 (fun k => { k with ptBase := 0, ptSize := 2 }) (setRopeState 0 RopeSt.ready ropeUp)
  { s with tables := { s.tables with
    planDir := [(6, BitVec.ofNat 64 (2 ^ 16 + 1))], calendar := [(15 * 256 + 255, ⟨false, 3, 1, 0⟩)], rankMap := [(0, 0x80000000)] } }

theorem test_witness_RopesAreResetAndDestroyed :
    (let w := recOf 6 []
     recordAt 6 w (withRec w ropeUp) = true ∧ ropeState 0 (withRec w ropeUp) ≠ RopeSt.none ∧ bodyIsZero w 41 64 = true ∧
      ((ropeOf 0 (withRec w ropeUp)).boundary = none ∧ (ropeOf 0 (withRec w ropeUp)).suspend = none ∧
        (ropeOf 0 (withRec w ropeUp)).resume = none) ∧
      (getF F.RTE_PT_ACTIVE_PENDING [] (withRec w ropeUp) = 0 ∧ getF F.SW_RANKMAP_BANKS_PENDING [] (withRec w ropeUp) = 0 ∧
        getR .SW_PLAN_PENDING [] (withRec w ropeUp) = 0)) ∧
    (recordAt 6 (recOf 6 [(40, 1, 16)]) (withRec (recOf 6 [(40, 1, 16)]) ropeUp) = true) ∧
    (recordAt 6 (recOf 6 [(40, 1, 15)]) (withRec (recOf 6 [(40, 1, 15)]) ropeUp) = true ∧ ropeState 15 ropeUp = RopeSt.none) ∧
    (let w := recOf 7 []
     let s := withRec w ropeReady
     recordAt 7 w s = true ∧ ropeState 0 s = RopeSt.ready ∧ ownsPages 0 s = false ∧ ownsPools 0 s = false ∧ bodyIsZero w 41 64 = true ∧
      (planDirAt 3 (bankOf 2 3 s) s).1 = ropeJob 0 s ∧ (planDirAt 3 (bankOf 2 3 s) s).2 ≠ 0) ∧
    (let w := recOf 7 []
     recordAt 7 w (withRec w ropeUp) = true ∧ ropeState 0 (withRec w ropeUp) ≠ RopeSt.ready) := by decide +kernel

/-- Collective `seq` of channel `c` over a ring of two in dimension 0: 16 FP32 elements, summed or gathered. -/
def collBytes (c seq op : Nat) : List Byte :=
  descOf 128 [(0, 4, c * 2 ^ 28 + seq), (4, 1, op), (5, 1, 16), (6, 1, 1), (8, 6, 16), (16, 6, 0x80001000), (22, 2, 0xFFFF),
    (24, 6, 0x80002000), (30, 2, 9), (32, 6, if op = 2 then 0 else 0x80003000), (38, 2, 10), (40, 6, 0x80005000), (65, 1, 2), (66, 1, 0),
    (68, 2, 1), (70, 2, 1)]

/-- Rope 0 in a job of two ranks on a ring of two; it owns channel 15. -/
def ringUp : State :=
  let s := setF F.SW_RANKMAP_SIZE [0] 2 (setF F.SW_GEOMETRY_XSIZE [] 2 (setF F.SW_GEOMETRY_YSIZE [] 1 (setF F.SW_GEOMETRY_ZSIZE [] 1
    (setF F.SW_GEOMETRY_WSIZE [] 1 (setF F.SW_GEOMETRY_VALID [] 1 ropeUp)))))
  let s := setF F.COL_CHAN_CTRL_OWNED [15] 1 (setF F.COL_CHAN_CTRL_OWNER [15] 0 s)
  { s with tables := { s.tables with rankMap := [(0, 0x80000000), (1, 0x80000001)] } }

def collOk (r : Nat) (bs : List Byte) (s : State) : Bool :=
  let d : CollDesc := ⟨bs, r⟩
  collDescOk d s && chanOwnedBy d.chan r s && decide (d.seq = (chanOf d.chan s).expect)

theorem coll_ok {r : Nat} {bs : List Byte} {s : State} : collOk r bs s = true ↔ CollAcceptable r bs s := by
  simp only [collOk, CollAcceptable, Bool.and_eq_true, decide_eq_true_eq, and_assoc]

/-- The record that passes the descriptor at address 0x40 of host memory, and the state that holds both. -/
def collRec : Rec := recOf 0x0A [(44, 6, 0x40)]

def collPassed (bs : List Byte) (s : State) : State := memWrite (hostPlace 0x40) bs (withRec collRec s)

/-- Sixteen collectives wait on channel 15. -/
def chanFull (seq : Nat) (s : State) : State :=
  modChan 15 (fun k => { k with queue := List.replicate 16 ⟨collBytes 15 0 0, 0⟩, expect := seq }) s

def collGiven (bs : List Byte) (s : State) : Bool :=
  let t := collPassed bs s
  recordAt 0x0A collRec t && takesColls 0 t && bodyIsZero collRec 41 44 && bodyIsZero collRec 50 64 && ! t.mem.anyPoison (hostPlace 0x40) 128 &&
  decide (hostBytes t 0x40 128 = bs)

theorem test_witness_CollectivesAreQueuedAndAborted_records :
    (let bs := collBytes 15 0 0
     collGiven bs ringUp = true ∧ collOk 0 bs (collPassed bs ringUp) = true ∧ chanLoad 15 (collPassed bs ringUp) < 16 ∧
      (⟨bs, 0⟩ : CollDesc).chan = 15) ∧
    (let bs := collBytes 15 (2 ^ 28 - 1) 2
     let s := chanFull (2 ^ 28 - 1) ringUp
     collGiven bs s = true ∧ collOk 0 bs (collPassed bs s) = true ∧ 16 ≤ chanLoad 15 (collPassed bs s)) ∧
    (let bs := collBytes 15 1 0
     collGiven bs ringUp = true ∧ collOk 0 bs (collPassed bs ringUp) = false) ∧
    (let w := recOf 0x0B [(41, 1, 15)]
     recordAt 0x0B w (withRec w ringUp) = true ∧ takesColls 0 (withRec w ringUp) = true ∧ bodyIsZero w 42 64 = true ∧
      chanOwnedBy 15 0 (withRec w ringUp) = true) := by decide +kernel

/-- A command of core 0 whose register holds `v`. -/
def instrCmd (op v : Nat) : InstrCmd :=
  { rope := 0, core := 0, tag := 0, pc := 0, op := op, reg := BitVec.ofNat 64 v, sb := 127, sop := false, sig := 0 }

def instrAt (op v : Nat) (s : State) : State := { s with instrCmds := [instrCmd op v] }

/-- Channel 15 runs the collective of `bs`, with a run changed by `f`. -/
def runsColl (bs : List Byte) (f : CollRun → CollRun) (s : State) : State :=
  modChan 15 (fun k => { k with run := some (f { desc := ⟨bs, 0⟩ }), expect := 1 }) s

theorem test_witness_CollectivesAreQueuedAndAborted_instructions :
    (nextInstr 0x0A (instrAt 1 0x80000000 ringUp).instrCmds = some 0 ∧ takesColls 0 ringUp = true ∧
      okWith (fun bs => collOk 0 bs (memWrite (clusterPlace 0 0) (collBytes 15 0 0) (instrAt 1 0x80000000 ringUp)))
        (rdGood (cmdWho 0) 0x80000000 128 (Quiet (memWrite (clusterPlace 0 0) (collBytes 15 0 0) (instrAt 1 0x80000000 ringUp)))) = true ∧
      okWith (fun bs => ! collOk 0 bs (instrAt 1 0x80000000 ringUp))
        (rdGood (cmdWho 0) 0x80000000 128 (Quiet (instrAt 1 0x80000000 ringUp))) = true) ∧
    (nextInstr 0x0A (instrAt 1 1 ringUp).instrCmds = some 0 ∧ 1 % 64 ≠ 0 ∧ ropeState 0 ringUp ≠ RopeSt.none) ∧
    (∀ v ∈ [15, 0xFF1F], nextInstr 0x0B (instrAt 2 v ringUp).instrCmds = some 0 ∧ v % 16 = 15 ∧ chanOwnedBy 15 0 ringUp = true) := by
  decide +kernel

theorem test_witness_CollectivesAreQueuedAndAborted_channels :
    (fnAllowed .pf (regOff .COL_CHAN_CTRL [15]) ringUp = true ∧ (chanOf 15 ringUp).run = none ∧
      (chanOf 15 (runsColl (collBytes 15 0 0) id ringUp)).run = some { desc := ⟨collBytes 15 0 0, 0⟩ }) ∧
    ((chanOf 15 (chanFull 0 ringUp)).run = none ∧
      (chanOf 15 (chanFull 0 ringUp)).queue = ⟨collBytes 15 0 0, 0⟩ :: List.replicate 15 ⟨collBytes 15 0 0, 0⟩) ∧
    (chanOf 15 ringUp).queue = [] ∧
    (let s := modChan 15 (fun k => { k with nextCredits := [(0, creditKey 0 1 false 0)] }) (chanFull 0 ringUp)
     (chanOf 15 s).run = none ∧ (chanOf 15 s).nextCredits = [(0, creditKey 0 1 false 0)] ∧ (⟨collBytes 15 0 0, 0⟩ : CollDesc).seq = 0) := by
  decide +kernel

/-- Runs: one with a credit for sub-ring 1; one with its message; one that is done with all its steps; one aborted. -/
def credited (r : CollRun) : CollRun := { r with credits := [(creditKey 0 1 false 0, true)] }

def gotPart (r : CollRun) : CollRun := { r with got := [((⟨0, 1, false, 0, 0⟩ : CStep).handle, true)] }

def finished (r : CollRun) : CollRun := { r with levelDone := [(0, 1), (1, 1)], pitches := 1 }

def aborted (r : CollRun) : CollRun := { r with abort := some (St.cancelled, 0, 0, 0) }

/-- Runs that an abort finds: with a pitch to come, named already or not, and with the last pitch complete. -/
theorem test_witness_CollectivesAreQueuedAndAborted_aborts :
    (let r : CollRun := { desc := ⟨collBytes 15 0 0, 0⟩ }
     let s := runsColl (collBytes 15 0 0) id ringUp
     (chanOf 15 s).run = some r ∧ r.ended = false ∧ r.pitches ≠ r.desc.npitch ∧ s.mem.errs = [] ∧
      getF F.COL_CHAN_NAMED_VALID [15] s = 0 ∧ getF F.COL_CHAN_NAMED_VALID [15] (setF F.COL_CHAN_NAMED_VALID [15] 1 s) = 1) ∧
    (let r := finished { desc := ⟨collBytes 15 0 0, 0⟩ }
     (chanOf 15 (runsColl (collBytes 15 0 0) finished ringUp)).run = some r ∧ r.ended = false ∧ r.pitches = r.desc.npitch) ∧
    (aborted { desc := ⟨collBytes 15 0 0, 0⟩ }).ended = true := by decide +kernel

theorem test_witness_CollectivesAdvance_send :
    let r := credited { desc := ⟨collBytes 15 0 0, 0⟩ }
    let s := runsColl (collBytes 15 0 0) credited ringUp
    let st : CStep := ⟨0, 1, false, 1, 0⟩
    ((chanOf 15 s).run = some r ∧ r.abort = none ∧ 0 < r.desc.levels ∧ 0 < r.desc.npitch ∧ st ∈ r.desc.sends 0 false 0 ∧
      tget false r.sent st.handle = false ∧ tget false r.credits (creditKey 0 1 false 0) = true ∧ r.sendReady st s = true ∧
      r.desc.dim 0 < 4 ∧ r.desc.trap = false ∧ (r.stepData st (Quiet s)).toBool = true) ∧
    tget false ({ desc := ⟨collBytes 15 0 0, 0⟩ } : CollRun).credits (creditKey 0 1 false 0) = false := by decide +kernel

theorem test_witness_CollectivesAdvance_process :
    let r := gotPart { desc := ⟨collBytes 15 0 0, 0⟩ }
    let s := runsColl (collBytes 15 0 0) gotPart ringUp
    let st : CStep := ⟨0, 1, false, 0, 0⟩
    ((chanOf 15 s).run = some r ∧ (∀ e ∈ List.range 15, (chanOf e s).run = none) ∧ r.nextStep 3 s = some st ∧
      (processStep 3 15 r st (modPort 3 (fun q => { q with addLast := 15 }) (Quiet s))).toBool = true ∧ r.desc.op ≠ 2 ∧
      r.desc.trap = false ∧ st.level = r.desc.top ∧ st.part = r.desc.pos st.level ∧
      okWith (fun x => (writeElems r.desc.who r.desc.esize r.desc.per (r.desc.quarter st).n (r.desc.resultAt st)
        (x.1.map (fun x => ((r.desc.dataFmt.round rne (r.desc.wireFmt.decode x.1)).1, x.2))) (Quiet s)).toBool)
        (r.desc.reduceStep st (r.desc.incoming st) (Quiet s)) = true) ∧
    r.nextStep 15 s = none := by decide +kernel

/-- A credit or an abort cell of tag `tag` at adder 15. -/
def addCell (k tag : Nat) (s : State) : State :=
  { s with switch := { s.switch with delivered := [(32 + 15, [({ ty := 8, vc := 3, kind := BitVec.ofNat 8 k, tag := BitVec.ofNat 32 tag, payload := zeros 48 }, 0)])] } }

theorem test_witness_CollectivesAdvance_cells :
    (∀ tag ∈ [15 * 2 ^ 28, 15 * 2 ^ 28 + 1, 15 * 2 ^ 28 + 2], ∀ k ∈ [0x20, 0x21],
      (takeDelivered (32 + 15) (isKind k) (Quiet (addCell k tag (runsColl (collBytes 15 0 0) id ringUp)))).isSome = true) ∧
    ((⟨collBytes 15 0 0, 0⟩ : CollDesc).tag = 15 * 2 ^ 28 ∧ nextSeq (chanOf 15 (runsColl (collBytes 15 0 0) id ringUp)) = 1) := by
  decide +kernel

theorem test_witness_CollectivesAdvance_waits :
    (let r : CollRun := { desc := ⟨collBytes 15 0 0, 0⟩ }
     let s := runsColl (collBytes 15 0 0) id ringUp
     (chanOf 15 s).run = some r ∧ 0 < r.desc.levels ∧ r.abort = none ∧ ropeState 0 s ≠ RopeSt.suspended ∧ r.waitsIn s = false ∧
      r.awaitsCredit 0 1 s = true ∧ r.awaitsData 0 1 = true ∧ ¬ 3 < r.desc.levels ∧ r.allDone = false) ∧
    (let r := finished { desc := ⟨collBytes 15 0 0, 0⟩ }
     let s := runsColl (collBytes 15 0 0) finished ringUp
     (chanOf 15 s).run = some r ∧ r.allDone = true ∧ r.msgs = 0 ∧ r.status = St.ok ∧
      okWith (fun w => ! writesOut (528 + 15) w) (tryWr r.desc.who (r.desc.fld 40 6) r.record false (Quiet s)) = true) ∧
    (let r := aborted { desc := ⟨collBytes 15 0 0, 0⟩ }
     let s := runsColl (collBytes 15 0 0) aborted ringUp
     (chanOf 15 s).run = some r ∧ r.abort.isSome = true ∧
      (tryWr r.desc.who (r.desc.fld 40 6) r.record false (Quiet s)).toBool = true) ∧
    (let r : CollRun := { desc := ⟨collBytes 15 0 0, 0⟩, msgs := 1 }
     r.msgs ≠ 0 ∧ (chanOf 15 (runsColl (collBytes 15 0 0) (fun _ => r) ringUp)).run = some r) := by decide +kernel

/-! Messages and control cells: the hypotheses of the statements are met. -/

/-- A message of the basecamp to address 4096, and one to a rank that no map holds. -/
def reqTo : MsgReq := ⟨.basecamp, none, 4096, 26, [{ bulk with ty := 5, last := true, total := 1 }], 0⟩

def reqLost : MsgReq := { reqTo with rank := some (0, 5) }

/-- Messages with the traffic hold over. -/
def msgsUp (f : Msgs → Msgs) : State := { torus with msgs := f { torus.msgs with hold := false } }

/-- Address 4096 is marked unreachable. -/
def lostAddr (m : Msgs) : Msgs := { m with unreach := [(4096, true)] }

theorem test_witness_MessagesAreDeliveredOrFail_start :
    pickMsg torus = none ∧
    (let s := msgsUp (fun m => { m with waiting := [reqTo] })
     pickMsg s = some 0 ∧ s.msgs.waiting[0]? = some reqTo ∧ reqDest reqTo s = some 4096 ∧ unreachable 4096 s = false ∧
      lowestCredit 4096 s = some 0) ∧
    (let s := msgsUp (fun m => { m with waiting := [reqLost] })
     pickMsg s = some 0 ∧ reqDest reqLost s = none ∧ s.heldSigs = [] ∧ s.msgs.cellWait = [] ∧ s.xes = []) ∧
    (let s := msgsUp (fun m => lostAddr { m with waiting := [reqTo] })
     pickMsg s = some 0 ∧ reqDest reqTo s = some 4096 ∧ unreachable 4096 s = true) := by decide +kernel

/-- A packet of two of a message from address 4096; GEN 16,383. -/
def part2 (gen : Nat) (last : Bool) : Packet :=
  { bulk with ty := 5, src := 4096, last := last, total := if last then 2 else 0, pseq := if last then 1 else 0, msgid := msgId 0 15 gen 0 }

/-- The packet at the basecamp, where the entry of its credit is `e`. -/
def packetAt (p : Packet) (e : MsgEntry) : State :=
  let s := msgsUp (fun m => { m with table := if e = {} then [] else [(entryIdx p, e)] })
  { s with switch := { s.switch with delivered := [(26, [(p, 15)])] } }

def tableEntry (p : Packet) (s : State) : MsgEntry := tget ({} : MsgEntry) s.msgs.table (entryIdx p)

def lands (p : Packet) (e1 : MsgEntry) (base : State) : Bool :=
  okWith (fun v => decide (e1.total ≠ some e1.count) || (landMessage 26 p e1.parts (setEntry (entryIdx p) { e1 with state := 2, parts := [] } v)).toBool)
    (landPacket 26 p (setEntry (entryIdx p) e1 base))

theorem test_witness_MessagesAreDeliveredOrFail_arrive :
    (∀ l, (takeDelivered 26 (fun p => ! p.isCell) (Quiet (packetAt (part2 16383 l) {}))).isSome = true) ∧
    (let p := part2 16383 false
     arrivalOf p (tableEntry p (packetAt p {})) = .restart false ∧ lands p (countPacket p {}) (packetAt p {}) = true ∧
      (countPacket p {}).total ≠ some (countPacket p {}).count) ∧
    (let p := part2 16383 true
     let e := countPacket (part2 16383 false) {}
     arrivalOf p (tableEntry p (packetAt p e)) = .count ∧ lands p (countPacket p e) (packetAt p e) = true ∧
      (countPacket p e).total = some (countPacket p e).count) ∧
    (let p := part2 0 true
     let e := countPacket (part2 16383 false) {}
     arrivalOf p (tableEntry p (packetAt p e)) = .restart true) ∧
    (let p := part2 16383 true
     let e : MsgEntry := ⟨2, 16383, 0, 2, some 2, []⟩
     arrivalOf p (tableEntry p (packetAt p e)) = .done) ∧
    (let p := part2 16382 true
     let e : MsgEntry := ⟨1, 16383, 0, 1, none, []⟩
     arrivalOf p (tableEntry p (packetAt p e)) = .stale) := by decide +kernel

/-- An outstanding message to address 4096 on credit 15, and an unacknowledged cell of kind `k` with SEQ 255. -/
def outMsg (tries : Nat) : OutMsg := ⟨4096, 15, 16383, 0, tries, false, .basecamp, 26, [bulk], 0⟩

def outCell (k tries : Nat) : OutCell := ⟨4096, k, 255, tries, 26, .basecamp, { cell with kind := BitVec.ofNat 8 k, seq := 255 }, none⟩

/-- An acknowledgement of one word from address 4096. -/
def ackAt (k w : Nat) (s : State) : State :=
  { s with switch := { s.switch with delivered := [(26, [({ cell with kind := BitVec.ofNat 8 k, src := 4096, tag := 1, payload := natLe 4 w ++ zeros 44 }, 15)])] } }

def ackGiven (k w : Nat) (s : State) : Bool :=
  match takeDelivered 26 (isKind k) (Quiet s) with
  | some ((p, _), _) => decide (ackWords p = [w] ∧ p.src = 4096)
  | none => false

theorem test_witness_MessagesAreDeliveredOrFail_acks :
    (takeDelivered 26 (isKind 0x10) torus = none ∧ takeDelivered 26 (isKind 0x11) torus = none) ∧
    (∀ k ∈ [0x10, 0x11], ackGiven k 0 (ackAt k 0 torus) = true ∧ torus.msgs.outst = [] ∧ torus.msgs.cells = []) ∧
    (let id := (msgId 0 15 16383 0).toNat
     let s := ackAt 0x10 id (msgsUp (fun m => { m with outst := [outMsg 0] }))
     ackGiven 0x10 id s = true ∧ s.msgs.outst.find? (ackMatches 4096 id) = some (outMsg 0) ∧ s.heldSigs = [] ∧ s.msgs.cellWait = [] ∧ s.xes = []) ∧
    (let w := 0x20 + 255 * 256
     let s := ackAt 0x11 w (msgsUp (fun m => { m with cells := [outCell 0x20 0] }))
     ackGiven 0x11 w s = true ∧ s.msgs.cells.find? (cackMatches 4096 w) = some (outCell 0x20 0)) := by decide +kernel

theorem test_witness_MessagesAreDeliveredOrFail_timeouts :
    (∀ n ∈ [0, 15], let s := msgsUp (fun m => { m with outst := [outMsg n] })
      s.msgs.outst.find? (fun m => decide (m.dest = 4096) && decide (m.cred = 15)) = some (outMsg n) ∧
      (n = 0 ↔ n < getF F.SW_MSG_CTRL_RESEND_LIMIT [] s) ∧ stopped (outMsg n).unit s = false) ∧
    (∀ k ∈ [1, 2], ∀ n ∈ [0, 15], let s := msgsUp (fun m => { m with cells := [outCell k n] })
      s.msgs.cells.find? (fun c => decide (c.dest = 4096) && decide (c.kind = k) && decide (c.seq = (255 : BitVec 8).toNat)) = some (outCell k n) ∧
      (n = 0 ↔ n < getF F.SW_MSG_CTRL_RESEND_LIMIT [] s)) ∧
    (torus.msgs.outst = [] ∧ torus.msgs.cells = [] ∧ torus.msgs.cellWait = []) ∧
    (let s := { torus with msgs := { torus.msgs with cellWait := [outCell 1 0] } }
     s.msgs.cellWait = [outCell 1 0] ∧ cellDest (outCell 1 0) s = some (outCell 1 0) ∧ unreachable 4096 s = false ∧
       unackedCells 4096 1 s < 128) ∧
    cellDest { outCell 1 0 with rank := some (0, 7) } torus = none := by decide +kernel

/-- A multicast packet lands without an entry. -/
theorem test_witness_MessagesAreDeliveredOrFail_multicast :
    (part2 0 false).multicast = false ∧
    (let p := { part2 16383 true with multicast := true }
     let s := packetAt p {}
     p.multicast = true ∧ (match takeDelivered 26 (fun p => ! p.isCell) (Quiet s) with
       | some ((q, _), u) => decide (q = p) && (landPacket 26 q u).toBool
       | none => false) = true) := by decide +kernel

/-! Memory, lending and prefetch: the hypotheses of the statements are met. -/

def dimm64 : Dimm := ⟨false, 64, true, true, 7⟩

/-- Channels 0 and 23 have modules; `trained` of them are trained. -/
def modules (trained : Tab Nat) : State :=
  let s := setF F.MEM_STATUS_SPEED [1] 2 (setF F.MEM_STATUS_SPEED [0] 2 ropeUp)
  { s with bc := { s.bc with dimms := [some dimm64] ++ List.replicate 22 none ++ [some dimm64], trained := trained } }

theorem test_witness_MemoryIsTrainedScrubbedAndPaged_training :
    (accepted 0 (modules []) = true ∧ tget 0 (modules []).bc.trained 0 = 0 ∧ getF F.MEM_STATUS_SPEED [0] (modules []) ≠ 0 ∧
      cacheValid 0 (modules []) = false ∧ trainingDue 23 (modules []) = true) ∧
    (let s := { modules [] with bc := { (modules []).bc with cache := [(0, cacheKey 0 (modules []))] } };
      accepted 0 s = true ∧ tget 0 s.bc.trained 0 = 0 ∧ cacheValid 0 s = true) ∧
    (accepted 0 (modules [(0, 3)]) = true ∧ tget 0 (modules [(0, 3)]).bc.trained 0 = 3) ∧
    (accepted 23 (modules [(0, 1)]) = true ∧ tget 0 (modules [(0, 1)]).bc.trained 23 = 0 ∧ cacheValid 23 (modules [(0, 1)]) = false ∧
      (∀ k ∈ List.range 23, trainingDue k (modules [(0, 1)]) = false)) ∧
    (getF F.MEM_STATUS_SPEED [0] ropeUp = 0 ∧ accepted 1 (modules []) = false) := by decide +kernel

/-- Both channels are usable and the dies are ready. -/
def memReady : State :=
  setF F.MEM_SYSTEM_SYS_PAGE [] 100 (setF F.MEM_STATUS_READY [0] 1 (setF F.MEM_STATUS_READY [1] 1 (modules [(0, 1), (23, 1)])))

def scrubs (m line c : Nat) (s : State) : Bool :=
  decide (getF F.MEM_STATUS_READY [m] s = 1 ∧ Dv.lender ≤ deviceState s ∧
    nextLine m (lineFuel s) (tget 0 s.scrubPos m) s = some (line, c))

theorem test_witness_MemoryIsTrainedScrubbedAndPaged_scrub :
    (scrubs 0 0 0 memReady = true ∧ scrubs 1 4 23 memReady = true ∧ memReady.mem.poisoned 0 = false ∧ memReady.mem.errs = [] ∧
      wordExists 0 memReady = true ∧ wordExists 39 memReady = true) ∧
    (∀ v ∈ [1, 255], ∀ j ∈ [0, 19], (BitVec.ofNat 160 (v * 2 ^ (8 * j))).toNat = v * 2 ^ (8 * j)) ∧
    readStored 4 (memReady.mem.poisoned 0) (storedSyms 0 (upsetWord 0 0x0101 memReady)) = .bad ∧ readStored 4 false (errorSyms 4 0) = .good ∧
    readStored 4 false (storedSyms 0 (upsetWord 0 0x2AD6B14D memReady)) = .poison ∧
    readStored 4 false (errorSyms 4 (BitVec.ofNat 160 (0xA5 * 2 ^ (8 * 7)))) = .fix 7 0xA5 ∧ readStored 4 true (errorSyms 4 0) = .poison ∧
    readStored 2 false (errorSyms 2 (BitVec.ofNat 160 (2 ^ (8 * 17)))) = .fix 17 1 ∧
    (getF F.MEM_STATUS_READY [0] ropeUp = 0 ∧ deviceState (setDeviceState Dv.idle memReady) < Dv.lender) := by decide +kernel

/-- A value of MEM_PAGE_CMD. -/
def pageValue (go : Bool) (first count st scrub ix : Nat) : BitVec 64 :=
  getR .MEM_PAGE_CMD [] (setF F.MEM_PAGE_CMD_FIRST [] first (setF F.MEM_PAGE_CMD_COUNT [] count (setF F.MEM_PAGE_CMD_STATE [] st
    (setF F.MEM_PAGE_CMD_SCRUB [] scrub (setF F.MEM_PAGE_CMD_INDEX [] ix (setF F.MEM_PAGE_CMD_GO [] (if go then 1 else 0) State.reset))))))

/-- What the command names: first and last page, state, index, whether it clears. -/
def pageFields (v : BitVec 64) (s : State) : Nat × Nat × Nat × Nat × Nat :=
  let t := setR .MEM_PAGE_CMD [] (v &&& 0x83FE0FFFFFFFFFFF) (Quiet s)
  (getF F.MEM_PAGE_CMD_FIRST [] t, getF F.MEM_PAGE_CMD_FIRST [] t + getF F.MEM_PAGE_CMD_COUNT [] t, getF F.MEM_PAGE_CMD_STATE [] t,
    getF F.MEM_PAGE_CMD_INDEX [] t, getF F.MEM_PAGE_CMD_SCRUB [] t)

theorem test_witness_MemoryIsTrainedScrubbedAndPaged_pages :
    fnAllowed .pf (regOff .MEM_PAGE_CMD []) memReady = true ∧ getF F.MEM_PAGE_CMD_GO [] memReady = 0 ∧
    getF F.MEM_PAGE_CMD_GO [] (setF F.MEM_PAGE_CMD_GO [] 1 memReady) = 1 ∧ (pageValue false 1 2 0 0 0).getLsbD 63 = false ∧
    (pageFields (pageValue true 97 3 Pg.lent 0 15) memReady = (97, 100, Pg.lent, 15, 0) ∧ (pageValue true 97 3 Pg.lent 0 15).getLsbD 63 = true ∧
      badPage 97 100 memReady = some 100) ∧
    (∀ st ∈ [4, 6], pageFields (pageValue true 97 2 st 0 0) memReady = (97, 99, st, 0, 0)) ∧ badPage 97 99 memReady = none ∧
    (4 = Pg.scrubbing ∧ Pg.retired < 6) := by decide +kernel

theorem test_witness_MemoryIsTrainedScrubbedAndPaged_owners :
    (pageFields (pageValue true 97 2 Pg.rope 0 3) memReady = (97, 99, Pg.rope, 3, 0) ∧ pagesIn 97 99 memReady = [] ∧
      getF F.MEM_QUOTA_LIMIT [3, 0] memReady < getF F.MEM_QUOTA_USED [3, 0] memReady + 3) ∧
    (pageFields (pageValue true 0 99 Pg.free 1 0) memReady = (0, 99, Pg.free, 0, 1) ∧ badPage 0 99 memReady = none) ∧
    (∀ st ∈ [0, 2, 3, 5], pageFields (pageValue true 0 0 st 0 0) memReady = (0, 0, st, 0, 0) ∧ badPage 0 0 memReady = none) ∧
    (getF F.MEM_QUOTA_USED [3, 0] (setF F.MEM_QUOTA_LIMIT [3, 0] 3 memReady) + 3 ≤ getF F.MEM_QUOTA_LIMIT [3, 0] (setF F.MEM_QUOTA_LIMIT [3, 0] 3 memReady)) := by
  decide +kernel

theorem test_witness_MemoryIsTrainedScrubbedAndPaged_cleared :
    memReady.tables.scrubbing = none ∧
    ({ memReady with tables := { memReady.tables with scrubbing := some (0, 1) } } : State).tables.scrubbing = some (0, 1) := by
  decide +kernel

/-- TABLE_WRITE of entry 1 of the tier map of rope 0 from host address 0x40. -/
def tierRec : Rec := recOf 8 [(40, 1, 5), (44, 4, 1), (48, 4, 1), (52, 6, 0x40)]

def tierAt (e : Nat) : State := memWrite (hostPlace 0x40) (natLe 16 e) (withRec tierRec ropeUp)

theorem test_witness_MemoryIsTrainedScrubbedAndPaged_tiers :
    (∀ e ∈ [0, 16], recordAt 8 tierRec (tierAt e) = true ∧ takesTables 0 (tierAt e) = true ∧ (ropeOf 0 (tierAt e)).tmapPages = 2 ∧
      (tierAt e).mem.anyPoison (hostPlace 0x40) 16 = false ∧ BitVec.ofNat 128 (fieldAt (hostBytes (tierAt e) 0x40 16) 0 16) = BitVec.ofNat 128 e ∧
      (tierMapWrite 0 1 [BitVec.ofNat 128 e] (Quiet (tierAt e))).1 = (if e = 16 then St.notPermitted else 0)) ∧
    bodyIsZero tierRec 42 44 = true ∧ bodyIsZero tierRec 58 64 = true ∧ recField tierRec 40 1 = 5 := by decide +kernel

theorem test_witness_MemoryIsTrainedScrubbedAndPaged_busy :
    pagesBusy 0 1 1 (tierAt 0) = false ∧
    (let s := { tierAt 0 with msgs := { (tierAt 0).msgs with waiting := [⟨.write 0 0 0x10000200000 0, none, 5, 24, [], 0⟩] } }
     recordAt 8 tierRec s = true ∧ pagesBusy 0 1 1 s = true) := by decide +kernel

/-- Window 15 over page 5, which is lent to it or not; open to address 4096 and job 1. -/
def lendAt (st : Nat) (p : Packet) : State :=
  let s := setF F.MEM_LEND_CTRL_ENABLE [15] 1 (setF F.MEM_LEND_CTRL_BORROWER [15] 4096 (setF F.MEM_LEND_CTRL_JOB [15] 1
    (setF F.MEM_LEND_RANGE_FIRST [15] 5 memReady)))
  { s with tables := { s.tables with pages := [(5, mkPage st 15 0)] }, switch := { s.switch with delivered := [(25, [(p, 0)])] } }

/-- An MREAD of `n` bytes at offset `off` of page 0 of window 15. -/
def mread (src off n : Nat) : Packet :=
  { cell with src := BitVec.ofNat 16 src, job := 1, payload := natLe 4 (15 * 2 ^ 28) ++ natLe 4 off ++ natLe 4 n ++ zeros 36 }

theorem test_witness_MemoryIsLent :
    (fnAllowed .pf (regOff .MEM_LEND_CTRL [15]) (lendAt Pg.lent cell) = true ∧ twf 0 (lendAt Pg.lent cell).tables.pages = true ∧
      getF F.MEM_LEND_RANGE_FIRST [15] (lendAt Pg.lent cell) = 5 ∧ getF F.MEM_LEND_RANGE_COUNT [15] (lendAt Pg.lent cell) = 0 ∧
      entryState (pageEntry 5 (lendAt Pg.lent cell)) = Pg.lent ∧ entryIndex (pageEntry 5 (lendAt Pg.lent cell)) = 15 ∧
      entryState (pageEntry 5 (lendAt Pg.rope cell)) ≠ Pg.lent ∧ deviceState (setDeviceState Dv.idle (lendAt Pg.lent cell)) = Dv.idle) ∧
    takeDelivered 25 (isKind 0x13) memReady = none ∧ (lendAt Pg.lent cell).mem.errs = [] ∧
    (∀ x ∈ [(4096, 2 ^ 21 - 128, 128, true), (4096, 0, 65536, true), (4096, 2 ^ 21 - 64, 128, false), (4097, 0, 128, false), (4096, 0, 64, false)],
      let p := mread x.1 x.2.1 x.2.2.1
      let s := lendAt Pg.lent p
      (takeDelivered 25 (isKind 0x13) (Quiet s)).isSome = true ∧ fieldAt p.payload 0 4 / 2 ^ 28 = 15 ∧
      (x.2.2.2 = true ↔ 128 ≤ fieldAt p.payload 8 4 ∧ fieldAt p.payload 8 4 ≤ 65536 ∧ fieldAt p.payload 8 4 % 128 = 0 ∧
        getF F.MEM_LEND_CTRL_ENABLE [15] s = 1 ∧ getF F.MEM_LEND_CTRL_BORROWER [15] s = p.src.toNat ∧
        getF F.MEM_LEND_CTRL_JOB [15] s = p.job.toNat % 4096 ∧ fieldAt p.payload 0 4 % 2 ^ 28 ≤ getF F.MEM_LEND_RANGE_COUNT [15] s ∧
        fieldAt p.payload 4 4 + fieldAt p.payload 8 4 ≤ 2 ^ 21)) := by decide +kernel

/-! Prefetch. -/

/-- A schedule of two layers of one slot of one piece of 64 bytes, and two buffers of 64 KiB; the second layer may be filled
speculatively. -/
def schedule : Sched :=
  let slot := descOf 64 [(0, 1, 1), (4, 6, 0x10000000000), (10, 4, 64)]
  let layer := fun (i : Nat) => descOf 32 [(0, 1, i), (1, 1, i), (2, 2, 1), (10, 6, 0x80003000), (16, 2, 8 + i)]
  ⟨descOf 64 [(0, 2, 1), (2, 2, 2), (4, 1, 1), (8, 6, 0x80005000)], [layer 0, layer 1], [[slot], [slot]],
    [descOf 528 [(0, 1, 1), (4, 1, 2), (16, 6, 0x80010000), (24, 6, 0x80020000)]]⟩

/-- Rope 0 with the schedule, an exchange of layer 0 on die 0 whose counts are complete, and work `p` of die 0's sequencer. -/
def pfAt (p : PfDie) : State := { rankUp with sched := [(0, schedule)], xes := [(0, { active := [exchCounted] })], pf := [(0, p)] }

def served0 : PfDie := { seen := [0x10], served := [(0x10, 0)], todo := [(0, 0)] }

def landing : Fill := { layer := 0, slot := 0, piece := 0, buf := 0, tag := some 0x10 }

theorem test_witness_PrefetchFillsBuffers_demand :
    fnAllowed .pf (regOff .MEM_PF_CTRL [0]) rankUp = true ∧ activeExch 0 0x10 rankUp = none ∧
    (let s1 := releaseFills 0 0 (Quiet (pfAt {}))
     activeExch 0 0x10 (pfAt {}) = some exchCounted ∧ schedOf 0 (pfAt {}) = some schedule ∧ schedule.layerOf exchCounted.tag = some 0 ∧
      exchCounted.countsComplete = true ∧ exchCounted.tag ∉ (pfOf 0 0 s1).seen ∧ (pfOf 0 0 s1).todo = [] ∧
      earlierHandled 0 exchCounted schedule s1 = true ∧ (pfOf 0 0 s1).served = [] ∧ (serveTag 0 exchCounted schedule 0 s1).toBool = true ∧
      0 ∉ (pfOf 0 0 s1).activated ∧ schedule.homed 0 0 = [0]) ∧
    (let q := { exchCounted with tag := 0x30 }
     let s := { pfAt { seen := [0x30], served := [(0x30, 0)] } with xes := [(0, { active := [q, exchCounted] })] }
     let s1 := releaseFills 0 0 (Quiet s)
     activeExch 0 0x10 s = some exchCounted ∧ exchCounted.tag ∉ (pfOf 0 0 s1).seen ∧ (pfOf 0 0 s1).todo = [] ∧
      earlierHandled 0 exchCounted schedule s1 = true ∧ (0x30, 0) ∈ (pfOf 0 0 s1).served) ∧
    (exchCounted.tag ∈ (pfOf 0 0 (releaseFills 0 0 (Quiet (pfAt served0)))).seen) ∧
    (0 ∈ (pfOf 0 0 (releaseFills 0 0 (Quiet (pfAt { activated := [0] })))).activated) ∧
    schedOf 0 rankUp = none := by decide +kernel

theorem test_witness_PrefetchFillsBuffers_issue :
    (∀ r ∈ List.range 16, nextDemand r 0 (releaseAll 0 (Quiet rankUp)) = none) ∧
    nextDemand 0 0 (releaseAll 0 (Quiet (pfAt served0))) = some landing ∧
    (∀ r ∈ List.range 16, schedOf r (releaseAll 0 (Quiet rankUp)) = none) ∧
    (let s1 := releaseAll 0 (Quiet (pfAt { served0 with todo := [] }))
     schedOf 0 s1 = some schedule ∧ specLayer 0 0 schedule s1 = some 1 ∧ (specFill 0 0 schedule 1 s1).toBool = true) ∧
    ((pfOf 0 0 (pfAt {})).fills[0]? = none ∧ (pfOf 0 0 (pfAt { fills := [{ landing with landed := true }] })).fills[0]? = some { landing with landed := true }) := by
  decide +kernel

theorem test_witness_PrefetchFillsBuffers_land :
    let s := pfAt { served0 with todo := [], fills := [landing] }
    schedOf 0 s = some schedule ∧ (pfOf 0 0 s).fills[0]? = some landing ∧
    okWith (fun x => okWith (fun v => okWith (fun v2 => ! writesOut 552 v2)
        (tryWr (pfWho 0 0) 0x80003000 (natLe 6 (schedule.bufAddr 0 0) ++ natLe 2 x.2) false v))
        (tryWr (pfWho 0 0) (schedule.bufAddr 0 0) x.1 (decide (x.2 ≠ 0)) (Quiet s)))
      (pieceRead (pfWho 0 0) (schedule.pieceAddr 0 0 0) (schedule.pieceBytes 0 0 0) (Quiet s)) = true := by decide +kernel

/-! Buffer pools: the hypotheses of the statements are met. -/

/-- Pool 63 of rope 0: 64 buffers of 4 KiB in its cluster stores, ring and owner table in mapped memory. -/
def poolCfg : State :=
  let s := setF F.BPM_POOL_CFG_SIZE_LOG2 [63] 12 (setF F.BPM_POOL_CFG_COUNT [63] 64 (setF F.BPM_POOL_BASE_BASE [63] 0x80000000
    (setF F.BPM_POOL_RING_RING [63] 0x10000000000 ropeUp)))
  { s with tables := { s.tables with tierMap := [(0, 9)] } }

/-- The pool enabled, `free` buffers free and `used` allocated, and what the manager keeps. -/
def poolUp (free used : Nat) (k : Pool) : State :=
  modPool 63 (fun _ => k) (setF F.BPM_POOL_STATE_FREE [63] free (setF F.BPM_POOL_STATE_ALLOCATED [63] used
    (setF F.BPM_POOL_CFG_ENABLE [63] 1 poolCfg)))

/-- The owner byte of buffer 63 is the physical function's, with `v` before. -/
def owned (v : Byte) (s : State) : State := memWrite (256 + 63) [v] s

theorem test_witness_BuffersAreAllocatedAndFreed_allocate :
    (bpmClientOk (.fn .pf) poolCfg = true ∧ (poolOf 63 poolCfg).pend = none ∧ poolEnabled 63 poolCfg = false) ∧
    (poolEnabled 63 (poolUp 0 64 {}) = true ∧ mayUsePool (.fn .pf) 63 (poolUp 0 64 {}) = true ∧
      getF F.BPM_POOL_STATE_FREE [63] (poolUp 0 64 {}) ≤ (poolOf 63 (poolUp 0 64 {})).waiting.length) ∧
    (mayUsePool (.xe 0) 63 (poolUp 1 63 {}) = true ∧ bpmClientOk (.xe 0) (poolUp 1 63 {}) = true ∧ (poolOf 63 (poolUp 1 63 {})).cache = [] ∧
      (poolOf 63 (poolUp 1 63 {})).waiting.length < getF F.BPM_POOL_STATE_FREE [63] (poolUp 1 63 {})) ∧
    (let s := poolUp 1 63 { cache := [63] }
     0 < getF F.BPM_POOL_STATE_FREE [63] s ∧ (poolOf 63 s).waiting = [] ∧ (poolOf 63 s).cache = [63] ∧
      (wr (bpmWho 63 (bpmUnit (.fn .pf)) s) (ownerBase 63 s + 63) [BitVec.ofNat 8 (0x80 + ownerCode (.fn .pf))] (Quiet s)).toBool = true) := by
  decide +kernel

theorem test_witness_BuffersAreAllocatedAndFreed_free :
    (let s := owned 0x90 (poolUp 0 64 {})
     let h := mkHandle 63 63
     handlePool h = 63 ∧ handleIdx h = 63 ∧ poolEnabled 63 s = true ∧ mayUsePool (.fn .pf) 63 s = true ∧ 63 < poolCount 63 s ∧
      okWith (fun x => decide (x = ([0x90], 0))) (rd (bpmWho 63 546 s) (ownerBase 63 s + 63) 1 s) = true ∧
      okWith (fun x => decide (x = 0)) (ownCheck (.fn .pf) h 546 (Quiet s)) = true ∧ (poolOf 63 s).waiting = [] ∧
      (poolOf 63 s).cache.length < 48 ∧ (setOwner h (ownerCode (.fn .pf)) 546 (Quiet s)).toBool = true ∧
      (setOwner h (0x80 + 0x11) 546 (Quiet s)).toBool = true) ∧
    okWith (fun x => decide (x = St.ownerFault)) (ownCheck (.fn .pf) (mkHandle 63 63) 546 (Quiet (owned 0x10 (poolUp 0 64 {})))) = true ∧
    okWith (fun x => decide (x = St.notPermitted)) (ownCheck (.fn .pf) (mkHandle 63 64) 546 (Quiet (poolUp 0 64 {}))) = true ∧
    (ownerValid 7 = true ∧ ownerValid 0x11 = true ∧ ownerValid 8 = false ∧ ownerValid 255 = false) := by decide +kernel

/-- Where the next 32 words of the ring of pool 63 stand. -/
def ringPlaces (s : State) : List Nat := (List.range 32).map (fun i => ((poolOf 63 s).ringHead + i) % poolCount 63 s)

theorem test_witness_BuffersAreAllocatedAndFreed_refill :
    (poolOf 63 (poolUp 64 0 {})).refill = false ∧
    (let s := poolUp 64 0 { ringLen := 33, refill := true }
     (poolOf 63 s).refill = true ∧ (poolOf 63 s).waiting = [] ∧ (poolOf 63 s).pend = none ∧
      okWith (fun ws => decide (ws = (List.replicate 32 0).map some)) (ringWords 63 546 (Quiet s) (ringPlaces s)) = true) ∧
    (let s := poolUp 64 0 { ringLen := 33, refill := true, cache := List.replicate 17 1 }
     okWith (fun ws => decide (ws = (List.replicate 32 0).map some)) (ringWords 63 546 (Quiet s) (ringPlaces s)) = true ∧
      okWith (fun v => v.1) (writeRing 63 546 32 (32 + 1) (((poolOf 63 s).cache ++ List.replicate 32 0).drop 17) (Quiet s)) = true) ∧
    (let s := poolUp 64 0 { ringLen := 33, refill := true }
     let t := { s with mem := s.mem.setPoison 0 }
     okWith (fun ws => decide (none ∈ ws ∧ ws.length = 32)) (ringWords 63 546 (Quiet t) (ringPlaces s)) = true) := by decide +kernel

theorem test_witness_BuffersAreAllocatedAndFreed_pools :
    fnAllowed .pf (regOff .BPM_POOL_CFG [63]) poolCfg = true ∧
    (poolBusy 63 (poolUp 64 0 {}) = true ∧ poolBusy 63 poolCfg = false ∧ poolChecks 63 poolCfg = true ∧
      poolChecks 63 (setF F.BPM_POOL_CFG_SIZE_LOG2 [63] 7 poolCfg) = false ∧ poolBusy 63 (setF F.BPM_POOL_CFG_SIZE_LOG2 [63] 7 poolCfg) = false) ∧
    ((poolOf 63 poolCfg).init = false ∧ poolEnabled 63 poolCfg = false) ∧
    (∀ n ∈ [0, 64], (poolOf 63 (poolUp 0 n {})).init = false ∧ poolEnabled 63 (poolUp 0 n {}) = true ∧ (poolOf 63 (poolUp 0 n {})).waiting = [] ∧
      (poolOf 63 (poolUp 0 n {})).pend = none ∧ getF F.BPM_POOL_STATE_ALLOCATED [63] (poolUp 0 n {}) = n) ∧
    (let s := modPool 63 (fun _ => { init := true }) poolCfg
     (poolOf 63 s).init = true ∧ (writeRingTable 63 (Quiet s)).toBool = true) := by decide +kernel

/-- The same pool with its ring in lent memory, initialising; a write of the ring is not acknowledged. -/
def poolLent (sent : Bool) : State := modPool 63 (fun _ => { init := true, initSent := sent }) (lentPage poolCfg)

def ringWaits (s : State) : State :=
  { s with msgs := { s.msgs with waiting := [⟨.write 546 0 0x10000000000 0, none, 5, 24, [], 0⟩] } }

theorem test_witness_BuffersAreAllocatedAndFreed_sent :
    (∀ b, (poolOf 63 (poolLent b)).init = true ∧ (poolOf 63 (poolLent b)).initSent = b) ∧
    ringWritesOut 63 (poolLent true) = false ∧ ringWritesOut 63 (ringWaits (poolLent true)) = true ∧
    (poolChecks 63 (poolLent false) = true ∧ okWith (ringWritesOut 63) (writeRingTable 63 (Quiet (poolLent false))) = true) ∧
    (let s := modPool 63 (fun _ => { init := true }) poolCfg
     poolChecks 63 s = true ∧ okWith (fun v => ! ringWritesOut 63 v) (writeRingTable 63 (Quiet s)) = true) ∧
    poolChecks 63 (setF F.BPM_POOL_CFG_SIZE_LOG2 [63] 30 (poolLent false)) = false := by decide +kernel

/-! Seals and lock-step: the hypotheses of the statements are met. -/

/-- A seal descriptor of rope 0, signed or not, and one whose object 0 is 16 bytes of the cluster store. -/
def sealDesc (flags : Nat) (count : Nat) : List Byte := descOf 128 [(1, 1, flags), (8, 8, 0x1000), (32, 8, 0x400), (40, 4, count)]

/-- The descriptor at host address 0x40 with its list at 0x400. -/
def sealAt (d : List Byte) : State :=
  memWrite (hostPlace 0x400) (natLe 8 0x80001000 ++ natLe 8 16) (memWrite (hostPlace 0x40) d rankUp)

theorem test_witness_SealsAreDigestedAndSigned_request :
    fnAllowed .pf (regOff .AUD_SEAL_REQ []) rankUp = true ∧
    (let s := setSealStatus .pf 1 rankUp
     (sealStatus .pf s).getLsbD 0 = true) ∧
    (let s := sealAt (sealDesc 1 1)
     (sealStatus .pf s).getLsbD 0 = false ∧ sealPoison 0x40 s = false ∧ hostBytes s 0x40 128 = sealDesc 1 1 ∧
      sealOk .pf (sealDesc 1 1) s = true) ∧
    (let s := sealAt (sealDesc 2 1)
     sealPoison 0x40 s = false ∧ hostBytes s 0x40 128 = sealDesc 2 1 ∧ sealOk .pf (sealDesc 2 1) s = false) ∧
    (let s := sealAt (sealDesc 1 1)
     sealPoison 0x40 { s with mem := s.mem.setPoison (hostPlace 0x40) } = true) := by decide +kernel

/-- The seal waits, or runs. -/
def sealWaits (s : State) : State := { s with seals := [⟨.pf, sealDesc 1 1⟩] }

def sealRuns (k : SealRun) : State := { rankUp with sealing := some k }

theorem test_witness_SealsAreDigestedAndSigned_run :
    (rankUp.seals = [] ∧ rankUp.sealing = none) ∧
    ((sealWaits State.reset).sealing = none ∧ (sealWaits State.reset).seals = [⟨.pf, sealDesc 1 1⟩] ∧ fieldAt (sealDesc 1 1) 0 1 = 0 ∧
      ropeState 0 (sealWaits State.reset) = RopeSt.none) ∧
    (ropeState 0 (sealWaits (sealAt (sealDesc 1 1))) ≠ RopeSt.none ∧
      okWith (fun x => decide (x.2.2 = none)) (sealDigests 0 (sealDesc 1 1) (Quiet (sealWaits (sealAt (sealDesc 1 1)))) [0, 1, 2, 3]) = true) ∧
    (let s := sealWaits (sealAt (sealDesc 1 1))
     let t := { s with mem := s.mem.setPoison (clusterPlace 0 0x1000) }
     okWith (fun x => decide (x.2.2 = some 0)) (sealDigests 0 (sealDesc 1 1) (Quiet t) [0, 1, 2, 3]) = true) ∧
    (∀ e ∈ [some St.poison, none], (sealRuns ⟨⟨.pf, sealDesc 1 1⟩, [some (zeros 64), none, none, none], e⟩).sealing =
      some ⟨⟨.pf, sealDesc 1 1⟩, [some (zeros 64), none, none, none], e⟩) := by decide +kernel

theorem test_witness_SealsAreDigestedAndSigned_lengths (n : Nat) :
    (List.replicate n (0 : Byte)).length = n ∧ 2 ^ 20 < 2 ^ 20 + 1 ∧ 2 ^ 20 + 1 ≤ 2 ^ 21 ∧
    (∀ (i : Nat) (x : List Byte), ([some (zeros 64), none, none, none] : List (Option (List Byte)))[i]? = some (some x) → x.length = 64) := by
  refine ⟨List.length_replicate, by decide, by decide, fun i x h => ?_⟩
  match i with
  | 0 => simp at h; subst h; decide
  | 1 | 2 | 3 => simp at h
  | i + 4 => simp at h

/-- Rope 0 with lock-step on: checkpoint 0, an extent list of 4,096 bytes at 0x80000000, the outbox at host page 1. -/
def lsUp (st : Nat) (k : LockStep) (b : Option Boundary) : State :=
  let s := setF F.AUD_LS_CTRL_ENABLE [0] 1 (setF F.AUD_LS_STATUS_STATE [0] st (setF F.AUD_LS_EXTENTS_LIST [0] 0x80000000
    (setF F.AUD_LS_EXTENTS_COUNT [0] 1 (setF F.AUD_LS_TREE_TREE [0] 0x80004000 (setF F.AUD_LS_OUTBOX_ADDR [0] 1 rankUp)))))
  let s := modLs 0 (fun _ => k) (modRope 0 (fun p => { p with boundary := b }) s)
  memWrite (clusterPlace 0 0) (natLe 8 0x80001000 ++ natLe 8 16) s

/-- Lock-step off, with an extent list in mapped device memory and rope 0 in reproducible mode or not. -/
def lsReady (on : Nat) : State :=
  let s := setF F.AUD_LS_EXTENTS_LIST [0] 0x10000000000 (setF F.AUD_LS_EXTENTS_COUNT [0] 1 (setF F.AUD_LS_TREE_TREE [0] 0x10000002000 poolCfg))
  memWrite 0 (natLe 8 0x10000001000 ++ natLe 8 16) (setF F.CMD_ROPE_STATE_REPRO [0] on s)

/-- A boundary that a checkpoint holds. -/
def heldBoundary : Boundary := { marks := [.window 0 0], held := true }

theorem test_witness_LockStepComparesCheckpoints_control :
    fnAllowed .pf (regOff .AUD_LS_CTRL [0]) rankUp = true ∧ (lsArmed 0 (lsUp Ls.running {} none) = true ∧ lsArmed 0 rankUp = false) ∧
    (∀ on, on ≤ 1 → okWith (fun bs => lsConditions 0 bs (Quiet (lsReady on)) == decide (on = 1))
      (lsExtents 0 (Quiet (lsReady on))) = true) ∧
    ((ropeOf 0 (lsUp Ls.running {} none)).boundary = none ∧ (ropeOf 0 (lsUp Ls.frozen {} (some heldBoundary))).boundary = some heldBoundary ∧
      lsArmed 0 (lsUp Ls.frozen {} (some heldBoundary)) = true ∧ lsState 0 (lsUp Ls.frozen {} (some heldBoundary)) = Ls.frozen ∧
      heldBoundary.held = true) ∧
    (lsState 0 rankUp ≠ Ls.frozen ∧ lsState 0 rankUp ≠ Ls.bisecting ∧ lsState 0 rankUp ≠ Ls.digesting) := by decide +kernel

theorem test_witness_LockStepComparesCheckpoints_boundary :
    (let s := lsUp Ls.frozen {} (some heldBoundary)
     rteBusy 0 s = false ∧ ropeState 0 s = RopeSt.running ∧ (getF F.RTE_PT_ACTIVE_PENDING [] s = 0 ∧
      getF F.SW_RANKMAP_BANKS_PENDING [] s = 0 ∧ getR .SW_PLAN_PENDING [] s = 0) ∧ getF F.MEM_PF_CTRL_PENDING [0] s = 0 ∧
      heldBoundary.composer = false ∧ heldBoundary.compose0 = false) ∧
    rteBusy 0 { lsUp Ls.frozen {} (some heldBoundary) with rtes := [(7, { queue := [dieEntry 1 0] })] } = true := by decide +kernel

theorem test_witness_LockStepComparesCheckpoints_digest :
    (let s := lsUp Ls.digesting {} (some heldBoundary)
     lsState 0 s = Ls.digesting ∧ okWith (fun bs => okWith (fun ws => decide (poisonAt ws = none) &&
        (tryWr (auditWho 0) (getF F.AUD_LS_TREE_TREE [0] s) (freeBytes (128 * leafCount 16) (Quiet s)).1 false
          (freeBytes (128 * leafCount 16) (Quiet s)).2).toBool && decide (streamLen (extentsOf bs) = 16))
        (streamWords (auditWho 0) (Quiet s) (extentsOf bs))) (lsExtents 0 (Quiet s)) = true ∧ (lsOf 0 s).peer = none) ∧
    (let t := lsUp Ls.digesting {} (some heldBoundary)
     let s := { t with mem := t.mem.setPoison (clusterPlace 0 0x1000) }
     okWith (fun bs => okWith (fun ws => decide (poisonAt ws = some 0)) (streamWords (auditWho 0) (Quiet s) (extentsOf bs)))
      (lsExtents 0 (Quiet s)) = true) := by decide +kernel

/-- 31 of the words of a record of type `ty` and checkpoint `cp`, of a stream of 16 bytes; word 31 is missing. -/
def inbox31 (ty cp : Nat) : Tab (Option Word) :=
  (List.range 31).map (fun i => (i, some (BitVec.ofNat 64 (if i = 0 then ty + cp * 2 ^ 32 else if i = 2 then 16 else 0))))

/-- The own CHECKPOINT with root byte `root` and condition byte `cond`, and a tree of two leaves. -/
def ownRecord (root cond : Nat) : List Byte := descOf 256 [(0, 1, 1), (16, 8, 16), (64, 1, root), (128, 1, cond)]

def lsOwn (root cond : Nat) : LockStep :=
  { own := some (ownRecord root cond), inbox := inbox31 1 0, tree := [[List.replicate 64 0, List.replicate 64 0], [List.replicate 64 0]] }

def lsFull (s : State) : Bool := (List.range 31).all (fun j => decide (tget none (lsOf 0 s).inbox j ≠ none))

theorem test_witness_LockStepComparesCheckpoints_inbox :
    (fnAllowed .pf (regOff .AUD_LS_INBOX [0, 31]) rankUp = true ∧ tget none (lsOf 0 rankUp).inbox 30 = none) ∧
    (∀ x ∈ [(1, 1), (2, 0), (3, 0)], let s := lsUp Ls.running { inbox := inbox31 x.1 x.2 } none
      lsFull s = true ∧ fieldAt (inboxRecord 0 31 0 s) 0 1 = x.1 ∧ fieldAt (inboxRecord 0 31 0 s) 4 4 = x.2 ∧
      getF F.AUD_LS_STATUS_CHECKPOINT [0] s = 0 ∧ lsState 0 s ≠ Ls.bisecting) ∧
    (let s := lsUp Ls.digesting { inbox := inbox31 1 0 } none
     lsFull s = true ∧ lsArmed 0 s = true ∧ fieldAt (inboxRecord 0 31 0 s) 0 1 = 1 ∧ fieldAt (inboxRecord 0 31 0 s) 4 4 = 0 ∧
      (lsOf 0 s).peer = none ∧ (lsOf 0 s).own = none ∧ lsState 0 s = Ls.digesting) := by decide +kernel

theorem test_witness_LockStepComparesCheckpoints_compare :
    let cut := fun (l : List Byte) (o n : Nat) => (l.drop o).take n
    ∀ x ∈ [(0, 0), (1, 0), (0, 1)],
      let s := lsUp Ls.waiting (lsOwn x.1 x.2) (some heldBoundary)
      let msg := inboxRecord 0 31 0 s
      lsFull s = true ∧ (lsOf 0 s).own = some (ownRecord x.1 x.2) ∧ (lsOf 0 s).peer = none ∧ lsState 0 s = Ls.waiting ∧
      (cut (ownRecord x.1 x.2) 128 64 = cut msg 128 64 ↔ x.2 = 0) ∧
      ((cut (ownRecord x.1 x.2) 64 64 = cut msg 64 64 ∧ cut (ownRecord x.1 x.2) 16 8 = cut msg 16 8) ↔ x.1 = 0) ∧
      fieldAt (ownRecord x.1 x.2) 16 8 ≤ fieldAt msg 16 8 ∧ 1 < (lsOf 0 s).tree.length ∧ s.mem.poison = [] ∧
      (∀ l ∈ (lsOf 0 s).tree, ∀ y ∈ l, y.length = 64) ∧ (lsOf 0 s).tree.getD ((lsOf 0 s).tree.length - 2) [] ≠ [] ∧
      s.tables.tierMap = [] ∧ (lsExtents 0 (Quiet s)).toBool = true := by decide +kernel

/-! Power, boot, management, time and resets: the hypotheses of the statements are met. -/

/-- The device in a state, with Vuola running. -/
def devIn (v : Nat) : State := setDeviceState v { State.reset with bc := { State.reset.bc with stage := 3 } }

/-- The same with the basecamp changed. -/
def withBc (f : Basecamp → Basecamp) (s : State) : State := { s with bc := f s.bc }

def windowUp (s : State) : State := setF F.MEM_LEND_CTRL_ENABLE [15] 1 s

theorem test_witness_PowerStatesFollowTheRules_states :
    (∀ v ∈ List.range 5, deviceState (devIn v) = v) ∧
    (clustersAwake (devIn 4) = false ∧ enginesBusy (devIn 4) = false ∧ clustersAwake ropeUp = true ∧ deviceState ropeUp = Dv.active) ∧
    (fnAllowed .pf (regOff .BC_CTRL []) (devIn 4) = true ∧ existing (devIn 4) = [] ∧ windowsOpen (devIn 4) = false ∧
      existing ropeUp ≠ [] ∧ windowsOpen (windowUp (devIn 3)) = true) ∧
    (let s := setF F.BC_STATE_BOOT [] 0 (devIn 1)
     deviceState s = Dv.standby ∧ s.bc.stage = 3 ∧ getF F.BC_STATE_BOOT [] s = 0 ∧ s.bc.removing = false) ∧
    ((devIn 1).bc.stage = 3 ∧ getF F.BC_STATE_BOOT [] (setF F.BC_STATE_BOOT [] 1 (devIn 1)) = 1) ∧
    (withBc (fun b => { b with removing := true }) (devIn 1)).bc.removing = true := by decide +kernel

/-- STANDBY with a module in channel 0, booted or not; its training may have failed. -/
def standbyWith (boot : Nat) (trained : Tab Nat) : State :=
  setF F.MEM_STATUS_SPEED [0] 2 (setF F.BC_STATE_BOOT [] boot
    (withBc (fun b => { b with dimms := [some dimm64], trained := trained }) (devIn 1)))

theorem test_witness_PowerStatesFollowTheRules_modules :
    (accepted 0 (standbyWith 0 []) = true ∧ (standbyWith 0 []).bc.stage = 3 ∧ deviceState (standbyWith 0 []) = Dv.standby ∧
      getF F.BC_STATE_BOOT [] (standbyWith 0 []) = 0 ∧ (standbyWith 0 []).bc.removing = false) ∧
    (∀ c < 24, accepted c (devIn 1) = false) ∧
    (channelsLeft (standbyWith 1 []) = true ∧ channelsLeft (standbyWith 1 [(0, 2)]) = false) ∧
    (deviceState (devIn 3) = Dv.lender ∧ clustersAwake (devIn 3) = false ∧ enginesBusy (devIn 3) = false ∧ windowsOpen (devIn 3) = false) := by
  decide +kernel

theorem test_witness_PowerStatesFollowTheRules_clusters :
    (clusterState 1 ropeUp = Cl.running ∧ ∀ k ∈ List.range 8, coreIdle (1 * 8 + k) ropeUp = true) ∧
    clusterState 63 ropeUp ≠ Cl.running ∧ clusterState 63 (setF F.BC_CLUSTER_STATE [63] Cl.running ropeUp) = Cl.running ∧
    coreIdle 0 (modCore 0 (fun k => { k with running := true }) ropeUp) = false := by decide +kernel

/-- Power samples in the last millisecond, POWER_STEP and the cap of power. -/
def powerAt (samples : List Nat) (step cap : Nat) : State :=
  setF F.BC_THROTTLE_POWER_STEP [] step (withBc (fun b => { b with samples := samples, powerCap := cap }) (devIn 4))

theorem test_witness_PowerStatesFollowTheRules_power :
    (∀ x ∈ [(0, 0), (8, 0), (9, 2), (9, 3)], let s := powerAt [4095] x.1 x.2
      s.bc.stage = 3 ∧ s.bc.samples.head? = some 4095 ∧ min 2500 (max 800 (getF F.BC_POWER_LIMIT_LIMIT_W [] s)) < 4095 ∧
      getF F.BC_THROTTLE_POWER_STEP [] s = x.1 ∧ s.bc.powerCap = x.2) ∧
    (∀ c ∈ [0, 1], let s := powerAt (List.replicate 100 0) 1 c
      100 ≤ s.bc.samples.length ∧ (∀ w ∈ s.bc.samples, 100 * w < 95 * min 2500 (max 800 (getF F.BC_POWER_LIMIT_LIMIT_W [] s))) ∧ s.bc.powerCap = c) ∧
    (powerAt [] 0 0).bc.samples = [] := by decide +kernel

/-- Readings of 13 dies: compute die 7 and memory die 9. -/
def readings (die7 die9 : Nat) : List Nat := List.replicate 7 40 ++ [die7, 40, die9, 40, 40, 40]

theorem test_witness_PowerStatesFollowTheRules_thermal :
    (∀ x ∈ [(94, 40), (95, 105), (105, 40), (106, 106), (110, 40), (115, 40), (116, 40), (255, 0)],
      Dv.idle ≤ deviceState (devIn 2) ∧ (readings x.1 x.2).length = 13 ∧ (∀ t ∈ readings x.1 x.2, t < 256) ∧
      (115 < (readings x.1 x.2).foldl max 0 ↔ x.1 ∈ [116, 255])) ∧
    (110 < (readings 115 40).foldl max 0 ∧ ¬ 110 < (readings 110 40).foldl max 0) := by decide +kernel

theorem test_witness_PowerStatesFollowTheRules_input :
    (withBc (fun b => { b with stage := 0 }) up).bc.stage = 0 ∧ (devIn 4).bc.stage ≠ 0 ∧ State.reset.bc.stage ≤ 1 ∧
    State.reset.pins.pwrDis = false ∧ ({ State.reset with pins := { State.reset.pins with pwrDis := true } } : State).pins.pwrDis = true ∧
    (List.replicate 24 (some (⟨false, 64, true, true, 7⟩ : Dimm))).length ≤ 24 := by decide +kernel

/-! Boot and management. What a signature verifies to is a free value: a slot is good where key and signature are. -/

/-- The SHA3-512 of no bytes, as FIPS 202 gives it. -/
def sha3Empty : List Byte :=
  (List.range 64).map (fun i => BitVec.ofNat 8 (0xa69f73cca23a9ac5c8b567dc185a756e97c982164fe25859e0d1dcc1475c80a615b2123af1f5f94c11e3e9402c3ac558f500199d95b6d3e301758586281dcd26 / 256 ^ (63 - i)))

theorem test_sha3_512 : sha3_512 [] = sha3Empty := by decide +kernel

/-- An envelope's first 96 bytes: version 1, component, SVN 1, a body of no bytes. -/
def envBytes (comp : Nat) : List Byte := natLe 2 1 ++ natLe 2 comp ++ zeros 4 ++ natLe 4 1 ++ zeros 20 ++ sha3Empty

/-- The envelope in the first slot of a component. -/
def envAt (comp : Nat) : State := memWrite (flashPlace (slotBase comp false)) (envBytes comp) State.reset

/-- What the slot has besides key and signature. -/
def slotRest (comp : Nat) : Bool :=
  let h := flashBytes (slotBase comp false) 96 (envAt comp)
  let n := leNat ((h.drop 12).take 4)
  decide (n = 0 ∧ sha3Empty = (h.drop 32).take 64 ∧ leNat (h.take 2) = 1 ∧ leNat ((h.drop 2).take 2) = comp ∧
    slotCounter comp (envAt comp) ≤ leNat ((h.drop 8).take 4)) && ((h.drop 16).take 16).all (fun b => decide (b = 0))

theorem flash_getD {off n i : Nat} {s : State} (h : i < n) : (flashBytes off n s).getD i 0 = s.mem.byte (flashPlace off + i) := by
  simp [flashBytes, Mem.bytes, List.getD_eq_getElem?_getD, h]

theorem flash_part {off m n a k : Nat} {s : State} (h : a + k ≤ m) (hn : a + k ≤ n) :
    ((flashBytes off n s).drop a).take k = ((flashBytes off m s).drop a).take k := by
  refine List.ext_getElem (by simp [flashBytes, Mem.bytes]; omega) fun i p q => ?_
  simp [flashBytes, Mem.bytes]

theorem slot_after {comp i : Nat} (h : 96 ≤ i) : (envAt comp).mem.byte (flashPlace (slotBase comp false) + i) = 0 := by
  have hl : (envBytes comp).length = 96 := by simp [envBytes, sha3Empty, natLe, zeros]
  rw [envAt, memWrite_mem, Mem.byte_write_other _ _ _ _ (.inr (by omega))]
  rfl

theorem test_witness_BootManagementAndTime_slots (comp : Nat) (h : slotRest comp = true)
    (hk : sha3_512 (flashBytes (slotBase comp false + 256) 2592 (envAt comp)) = Config.kryverKeyHash)
    (hv : Config.mldsaVerify (flashBytes (slotBase comp false + 256) 2592 (envAt comp)) (slotContext comp)
      (flashBytes (slotBase comp false) 256 (envAt comp)) (flashBytes (slotBase comp false + 2848) 4627 (envAt comp)) = true) :
    SlotGood comp false (envAt comp) := by
  simp only [slotRest, Bool.and_eq_true, decide_eq_true_eq] at h
  obtain ⟨⟨h1, h2, h3, h4, h5⟩, h6⟩ := h
  have cut := fun a k (q : a + k ≤ 96) => flash_part (off := slotBase comp false) (s := envAt comp) (n := 256) q (by omega)
  have c0 := fun k q => cut 0 k q
  simp only [List.drop_zero] at c0
  refine ⟨hk, hv, ?_, ?_, ?_, ?_, ?_, fun i a b => ?_, fun i a => ?_, fun i a b => ?_⟩
  · rw [cut 12 4 (by decide), h1, cut 32 64 (by decide), ← h2]
    exact test_sha3_512
  · rw [c0 2 (by decide)]
    exact h3
  · rw [cut 2 2 (by decide)]
    exact h4
  · rw [cut 12 4 (by decide), h1]
    decide
  · rw [cut 8 4 (by decide)]
    exact h5
  · rw [flash_getD (by omega)]
    have := List.all_eq_true.mp h6 ((envAt comp).mem.byte (flashPlace (slotBase comp false) + i))
      (List.mem_iff_getElem.mpr ⟨i - 16, by simp [flashBytes, Mem.bytes]; omega, by
        simp [flashBytes, Mem.bytes, Nat.add_sub_cancel' a]⟩)
    simpa using this
  · by_cases b : i < 256
    · rw [flash_getD b]
      exact slot_after a
    · rw [List.getD_eq_getElem?_getD, List.getElem?_eq_none]
      · rfl
      · simp only [flashBytes, Mem.bytes, List.length_map, List.length_range]
        omega
  · exact (congrArg (envAt comp).mem.byte (Nat.add_assoc (2 ^ 46) _ i).symm).trans (slot_after (by omega))

theorem test_slotRest : slotRest 1 = true ∧ slotRest 2 = true := by decide +kernel

theorem test_witness_BootManagementAndTime_empty (comp : Nat) (h : comp = 1 ∨ comp = 2) (b : Bool) : ¬ SlotGood comp b State.reset := by
  intro g
  have := g.2.2.2.1
  rcases h with rfl | rfl <;> cases b <;> revert this <;> decide +kernel

theorem test_witness_BootManagementAndTime_boot :
    (State.reset.bc.stage = 1 ∧ State.reset.pins.perst = false ∧ (devIn 1).bc.stage ≠ 1 ∧ (devIn 1).bc.stage ≠ 2) ∧
    (let s := withBc (fun b => { b with stage := 2 }) State.reset
     s.bc.stage = 2 ∧ getF F.BC_STATE_BOOT [] s = 1 ∧ getF F.BC_CTRL_HOLD [] s = 0 ∧
      getF F.BC_CTRL_HOLD [] (setF F.BC_CTRL_HOLD [] 1 s) = 1) := by decide +kernel

/-- The preferred image slot is good, under the same conditions as above. -/
theorem test_witness_BootManagementAndTime_chosen (h : SlotGood 1 false (envAt 1)) :
    Chosen (envAt 1).bc.prefImg false (fun b => SlotGood 1 b (envAt 1)) := .inl ⟨rfl, h⟩

/-- Quotes that wait, and poison at the first one's nonce or not. -/
def quotesAt (n : Nat) (bad : Bool) : State :=
  let s := withBc (fun b => { b with quotes := List.replicate n ⟨.pf, 0x40⟩ }) (devIn 4)
  if bad then { s with mem := s.mem.setPoison (hostPlace 0x40) } else s

theorem test_witness_BootManagementAndTime_quotes :
    fnAllowed .pf (regOff .BC_QUOTE_REQ []) (devIn 4) = true ∧
    (16 < (quotesAt 17 false).bc.quotes.length ∧ (quotesAt 17 false).bc.stage = 3 ∧ ¬ 16 < (quotesAt 16 false).bc.quotes.length) ∧
    (quotesAt 0 false).bc.quotes = [] ∧
    (∀ b, (quotesAt 2 b).bc.quotes = [⟨.pf, 0x40⟩, ⟨.pf, 0x40⟩] ∧ (quotesAt 2 b).mem.anyPoison (hostPlace 0x40) 64 = b) := by
  decide +kernel

theorem test_witness_BootManagementAndTime_host :
    ((devIn 1).bc.stage = 3 ∧ State.reset.bc.stage ≠ 3 ∧ (devIn 1).bc.pldm = none ∧ (devIn 1).bc.sessions = []) ∧
    (∀ c ∈ [1, 2], ∀ v, (withBc (fun b => { b with pldm := some (c, v) }) (devIn 1)).bc.pldm = some (c, v)) ∧
    (0xFFFFFF + [(0 : Byte)].length ≤ 0x1000000 ∧ ¬ 0x1000000 + [(0 : Byte)].length ≤ 0x1000000) ∧
    ((zeros 64).length = 64 ∧ (zeros 63).length ≠ 64 ∧ ∀ h ∈ List.replicate 4 (zeros 64), h.length = 64) := by decide +kernel

/-- A session. -/
def sess (seen : List Nat) (answers : List (Word × List Byte)) : Session :=
  { keyIn := zeros 32, keyOut := zeros 32, high := seen.head?, seen := seen, answers := answers }

def sessionsAt (l : Tab Session) : State := withBc (fun b => { b with sessions := l }) { torus with bc := (devIn 4).bc }

/-- A KEM_INIT of zeros from a manager whose key is listed is accepted where its signature verifies. -/
theorem test_witness_BootManagementAndTime_kem (s : State) (m : List Byte) (hm : m = List.replicate 8832 0)
    (hs : s = withBc (fun b => { b with managers := [sha3_512 ((m.drop 1600).take 2592)], handshake := [(4096, m)] }) (devIn 4))
    (hv : Config.mldsaVerify ((m.drop 1600).take 2592) (ascii "DV1-mgr") (m.take 4192) ((m.drop 4192).take 4627) = true) :
    s.bc.stage = 3 ∧ s.bc.handshake = (4096, m) :: [] ∧ kemInitOk m s = true ∧ (∀ x, (0, x) ∉ s.bc.sessions) := by
  have hl : m.length = 8832 := by rw [hm]; exact List.length_replicate
  have hz : zeroFrom 8819 m = true := by
    rw [hm, zeroFrom, List.drop_replicate, List.all_eq_true]
    intro b hb
    simp [List.eq_of_mem_replicate hb]
  have hc : s.bc.managers = [sha3_512 ((m.drop 1600).take 2592)] := by rw [hs]; rfl
  refine ⟨by rw [hs]; rfl, by rw [hs]; rfl, ?_, fun x h => ?_⟩
  · simp [kemInitOk, hl, hz, hc, hv]
  · rw [hs] at h
    cases h

theorem test_witness_BootManagementAndTime_kem_refused :
    (devIn 4).bc.handshake = [] ∧ kemInitOk [] (withBc (fun b => { b with handshake := [(4096, [])] }) (devIn 4)) = false ∧
    (∀ k, k < 4 → (k, sess [] []) ∈ (sessionsAt [(0, sess [] []), (1, sess [] []), (2, sess [] []), (3, sess [] [])]).bc.sessions) ∧
    ((sessionsAt [(0, sess [] []), (3, sess [] [])]).bc.sessions.map (fun e => e.1)).Nodup := by decide +kernel

/-- A MOP cell of session 3 with record counter 64. -/
def mopCell : Packet := { ty := 9, vc := 4, src := 4096, kind := 0x30, payload := [3, 0, 64] ++ zeros 45 }

def cellFor (p : Packet) (s : State) : State := { s with switch := { s.switch with delivered := [(26, [(p, 15)])] } }

theorem test_witness_BootManagementAndTime_mop :
    (∀ l ∈ [[], [(3, sess [1] [])], [(3, sess [] [(0, zeros 24)])]], let s := cellFor mopCell (sessionsAt l)
      s.bc.stage = 3 ∧ (takeDelivered 26 (isMgmtKind 0x30) (Quiet s)).isSome = true ∧ fieldAt mopCell.payload 0 1 = 3 ∧
      fieldAt mopCell.payload 1 1 = 0 ∧ fieldAt mopCell.payload 2 6 = 64) ∧
    sessionOf 3 (sessionsAt []) = none ∧
    (∀ x ∈ [sess [1] [], sess [] [(0, zeros 24)]], sessionOf 3 (sessionsAt [(3, x)]) = some x ∧ 64 ∉ x.seen ∧
      (∀ h ∈ x.high, h < 64 + 64) ∧ x.outCount + 1 < 2 ^ 40) ∧
    (sess [] [(0, zeros 24)]).answers.find? (fun a => decide (a.1 = (0 : Word))) = some (0, zeros 24) := by decide +kernel

/-- The cell is let in where its tag opens; whether one does is a free value. -/
theorem test_witness_BootManagementAndTime_mop_opens (op : List Byte)
    (h : Config.gcmOpen (zeros 32) (mopCell.payload.take 8 ++ List.replicate 4 0) (mopHeader mopCell)
      ((mopCell.payload.drop 8).take 24) ((mopCell.payload.drop 32).take 16) = some op) :
    let x := sess [1] []
    sessionOf 3 (cellFor mopCell (sessionsAt [(3, x)])) = some x ∧ fieldAt mopCell.payload 1 1 = 0 ∧ (∀ h, x.high = some h → h < 64 + 64) ∧
    64 ∉ x.seen ∧ x.outCount + 1 < 2 ^ 40 ∧ (∀ a ∈ x.answers, a.1 ≠ BitVec.ofNat 64 (fieldAt op 16 8)) ∧
    Config.gcmOpen x.keyIn (mopCell.payload.take 8 ++ List.replicate 4 0) (mopHeader mopCell) ((mopCell.payload.drop 8).take 24)
      ((mopCell.payload.drop 32).take 16) = some op :=
  ⟨by decide +kernel, by decide, by decide, by decide, by decide, fun _ h => absurd h List.not_mem_nil, h⟩

/-- A register operation: op, offset, value. -/
def opOf (op off v : Nat) : List Byte := natLe 4 op ++ natLe 4 off ++ natLe 8 v ++ zeros 8

theorem test_witness_BootManagementAndTime_operations :
    (∀ op ∈ [1, 2], (opOf op 0 0).length = 24 ∧ (∀ i ∈ [1, 2, 3], (opOf op 0 0).getD i 0 = 0) ∧ (opOf op 0 0).getD 0 0 = BitVec.ofNat 8 op) ∧
    (let o := regOff .SW_PATH_EPOCH []
     mayRead .manager o = true ∧ fieldAt (opOf 1 o 0) 4 4 = o) ∧
    (let o := regOff .SW_GEOMETRY []
     mayWrite .manager o = true ∧ fnAllowed .manager o torus = true ∧ fieldAt (opOf 2 o 0) 4 4 = o) ∧
    (mayRead .manager 0xB00000 = false ∨ mayWrite .manager 0xB00000 = false) ∧ (opOf 0x101 0 0).getD 1 0 ≠ 0 ∧
    (opOf 3 0 0).getD 0 0 ∉ ([1, 2] : List Byte) := by decide +kernel

/-- A Sync cell that arrived at `t` ns, sent at 2,000,000 ns. -/
def syncCell (t : Nat) : Packet :=
  { ty := 9, vc := 4, src := 4096, kind := 0x38, arrival := BitVec.ofNat 64 t,
    payload := zeros 40 ++ [0, 0x1E, 0x84, 0x80] ++ zeros 4 }

/-- The servo on, with `good` small offsets in a row; the first Sync or not. -/
def timeOn (p : Packet) (first : Bool) (good : Nat) : State :=
  cellFor p (withBc (fun b => { b with timeArmed := first, good := good })
    (setF F.BC_TIME_CTRL_ENABLE [] 1 (setF F.BC_TIME_CTRL_GM_ADDR [] 4096 { torus with bc := (devIn 4).bc })))

theorem test_witness_BootManagementAndTime_sync :
    (∀ o ∈ [(-1000001 : Int), -1000, -999, 999, 1000, 1000001], ∀ f, let p := syncCell (2000000 + o).toNat
      (takeDelivered 26 Packet.isSync (Quiet (timeOn p f 7))).isSome = true ∧ syncOk p (timeOn p f 7) = true ∧ syncOffset p = o ∧
      (timeOn p f 7).bc.timeArmed = f ∧ (timeOn p f 7).bc.good = 7) ∧
    syncOk (syncCell 0) (cellFor (syncCell 0) torus) = false ∧
    (getF F.BC_TIME_CTRL_ENABLE [] (devIn 4) = 0 ∧ getF F.BC_TIME_CTRL_ENABLE [] (timeOn (syncCell 0) false 0) = 1) := by decide +kernel

/-! A configuration record for a device secret. -/

/-- The body of 72 bytes of a configuration record: the attestation key's hash and the hardware version. -/
def cfgBytes (k : BitVec 256) : List Byte := attHash k ++ ([0xB0] ++ zeros 7)

/-- Its envelope: version 1, component 2, LENGTH 72. -/
def cfgTop : List Byte := [1, 0, 2, 0, 0, 0, 0, 0, 0, 0, 0, 0, 72, 0, 0, 0]

def cfgEnv (k : BitVec 256) : List Byte := cfgTop ++ (List.replicate 16 0 ++ (sha3_512 (cfgBytes k) ++ List.replicate 160 0))

/-- The device powered, with that record in slot A. -/
def cfgAt (k : BitVec 256) : State :=
  memWrite (flashPlace 0x2000000) (cfgEnv k) (memWrite (flashPlace 0x2002000) (cfgBytes k) State.reset)

theorem getD_zeros (n i : Nat) : (List.replicate n (0 : Byte)).getD i 0 = 0 := by
  rw [List.getD_eq_getElem?_getD, List.getElem?_replicate]
  split <;> rfl

theorem attHash_length (k : BitVec 256) : (attHash k).length = 64 := sha3_512_length _

theorem cfgBytes_length (k : BitVec 256) : (cfgBytes k).length = 72 := by rw [cfgBytes, List.length_append, attHash_length]; rfl

theorem cfgEnv_length (k : BitVec 256) : (cfgEnv k).length = 256 := by
  rw [cfgEnv, List.length_append, List.length_append, List.length_append, sha3_512_length, List.length_replicate, List.length_replicate]
  rfl

theorem good_write {m : Mem} (h : m.poison = []) (p : Nat) (bs : List Byte) : (m.write p bs).poison = [] := by
  rw [Mem.write, Mem.poison_setBytes, Mem.unpoison, h]
  rfl

theorem good_byte {m : Mem} (h : m.poison = []) (p : Nat) : m.poisoned p = false := by
  rw [Mem.poisoned, h]
  rfl

/-- The bytes of the two writes, and zeros beside them. -/
theorem cfg_byte (k : BitVec 256) (i : Nat) : (cfgAt k).mem.byte (flashPlace (0x2000000 + i)) =
    if h : i < 256 then (cfgEnv k)[i]'((cfgEnv_length k).symm ▸ h)
    else if 0x2000 ≤ i then (if h : i - 0x2000 < 72 then (cfgBytes k)[i - 0x2000]'((cfgBytes_length k).symm ▸ h) else 0) else 0 := by
  have e : flashPlace (0x2000000 + i) = flashPlace 0x2000000 + i := (Nat.add_assoc _ _ _).symm
  have hl := cfgEnv_length k
  have hb := cfgBytes_length k
  rw [cfgAt, memWrite_mem, e]
  split
  · next h => exact Mem.byte_write_same _ _ _ _ (by omega) (good_byte (good_write rfl _ _) _)
  · next h =>
    rw [Mem.byte_write_other _ _ _ _ (.inr (by omega)), memWrite_mem]
    split
    · next g =>
      have e2 : flashPlace 0x2000000 + i = flashPlace 0x2002000 + (i - 0x2000) := by simp only [flashPlace]; omega
      split
      · next f => rw [e2]; exact Mem.byte_write_same _ _ _ _ (by omega) rfl
      · next f => rw [Mem.byte_write_other _ _ _ _ (.inr (by omega))]; rfl
    · next g => rw [Mem.byte_write_other _ _ _ _ (.inl (by simp only [flashPlace]; omega))]; rfl

theorem cfg_head (k : BitVec 256) : flashBytes 0x2000000 256 (cfgAt k) = cfgEnv k := by
  refine List.ext_getElem (by simp [flashBytes, Mem.bytes, cfgEnv_length]) fun i h g => ?_
  have hi : i < 256 := by rw [cfgEnv_length] at g; exact g
  simp only [flashBytes, Mem.bytes, List.getElem_map, List.getElem_range]
  exact (congrArg _ (Nat.add_assoc _ _ _)).trans ((cfg_byte k i).trans (dif_pos hi))

theorem cfg_body (k : BitVec 256) : flashBytes 0x2002000 72 (cfgAt k) = cfgBytes k := by
  refine List.ext_getElem (by simp [flashBytes, Mem.bytes, cfgBytes_length]) fun i h g => ?_
  have hi : i < 72 := by rw [cfgBytes_length] at g; exact g
  simp only [flashBytes, Mem.bytes, List.getElem_map, List.getElem_range]
  refine (congrArg _ (by simp only [flashPlace]; omega)).trans ((cfg_byte k (0x2000 + i)).trans ?_)
  rw [dif_neg (by omega), if_pos (by omega), dif_pos (by omega)]
  simp only [Nat.add_sub_cancel_left]

/-- The record is good for that secret, where its key and signature are. -/
theorem test_witness_BootManagementAndTime_cfg (k : BitVec 256)
    (hk : sha3_512 (flashBytes 0x2000100 2592 (cfgAt k)) = Config.kryverKeyHash)
    (hv : Config.mldsaVerify (flashBytes 0x2000100 2592 (cfgAt k)) (slotContext 2) (flashBytes 0x2000000 256 (cfgAt k))
      (flashBytes 0x2000B20 4627 (cfgAt k)) = true) :
    Chosen (cfgAt k).bc.prefCfg false (fun b => CfgGood k b (cfgAt k)) := by
  have hn : leNat (((flashBytes 0x2000000 256 (cfgAt k)).drop 12).take 4) = 72 := by rw [cfg_head]; rfl
  have hb : cfgBody false (cfgAt k) = cfgBytes k := (congrArg (flashBytes 0x2002000 · (cfgAt k)) hn).trans (cfg_body k)
  have h16 : cfgTop.length = 16 := rfl
  refine .inl ⟨rfl, ⟨hk, hv, ?_, ?_, ?_, ?_, ?_, fun i a b => ?_, fun i a => ?_, fun i a b => ?_⟩, ?_, ?_, fun i h => ?_⟩
  · refine (congrArg sha3_512 hb).trans ?_
    show _ = ((flashBytes 0x2000000 256 (cfgAt k)).drop 32).take 64
    rw [cfg_head]
    exact (List.take_left' (sha3_512_length _)).symm
  · show leNat ((flashBytes 0x2000000 256 (cfgAt k)).take 2) = 1
    rw [cfg_head]; rfl
  · show leNat (((flashBytes 0x2000000 256 (cfgAt k)).drop 2).take 2) = 2
    rw [cfg_head]; rfl
  · exact Nat.le_trans (Nat.le_of_eq hn) (by decide)
  · exact Nat.zero_le _
  · show (flashBytes 0x2000000 256 (cfgAt k)).getD i 0 = 0
    rw [cfg_head, cfgEnv, List.getD_append_right _ _ _ _ a, List.getD_append _ _ _ _ (by rw [List.length_replicate, h16]; omega)]
    exact getD_zeros _ _
  · show (flashBytes 0x2000000 256 (cfgAt k)).getD i 0 = 0
    rw [cfg_head, cfgEnv, List.getD_append_right _ _ _ _ (by rw [h16]; omega),
      List.getD_append_right _ _ _ _ (by rw [List.length_replicate, h16]; omega),
      List.getD_append_right _ _ _ _ (by rw [sha3_512_length, List.length_replicate, h16]; omega)]
    exact getD_zeros _ _
  · refine (cfg_byte k i).trans ?_
    rw [dif_neg (by omega), if_neg (by omega)]
  · rw [show (cfgAt k).bc.prefCfg = false from rfl, hb, cfgBytes]
    exact List.take_left' (attHash_length k)
  · rw [show (cfgAt k).bc.prefCfg = false from rfl, hb, cfgBytes, List.getD_append_right _ _ _ _ (by rw [attHash_length]), attHash_length]
    rfl
  · rw [show (cfgAt k).bc.prefCfg = false from rfl, hb, cfgBytes, List.getD_append_right _ _ _ _ (by rw [attHash_length]; omega), attHash_length,
      List.getD_append_right _ _ _ _ (by show 1 ≤ _; omega)]
    exact getD_zeros 7 _

/-! Resets, host access and events: the hypotheses of the statements are met. -/

/-- NumVFs is 16; rope 0 is given to VF 15 or to none; window 63 is VF 15's. -/
def vfsUp (own : Nat) : State :=
  setF F.CMD_Q_CFG_ENABLE [63] 1 (setF F.CMD_Q_CFG_OWNER [63] 15 (setF F.CMD_ROPE_STATE_VF [0] own { ropeUp with pcie := { numVfs := 16 } }))

theorem test_witness_ResetsClearWhatTheyName :
    fnAllowed .pf (regOff .ERR_RESET []) ropeUp = true ∧
    (ropeDies 0 ropeUp = [0] ∧ ropeState 0 ropeUp ≠ RopeSt.none ∧ (∀ o ∈ List.range 16, o = 0 ∨ ropeState o ropeUp = RopeSt.none) ∧
      (0x80 : BitVec 8).getLsbD 0 = false ∧ (1 : BitVec 8).getLsbD 0 = true) ∧
    (Dv.idle ≤ deviceState (devIn 2) ∧ (devIn 2).bc.stage = 3 ∧ deviceState (devIn 1) < Dv.idle ∧ Dv.standby ≤ deviceState (devIn 1) ∧
      deviceState (devIn 0) = Dv.off ∧ State.reset.bc.stage ≠ 3 ∧ State.reset.bc.stage < 2 ∧ 2 ≤ (devIn 1).bc.stage) ∧
    (State.reset.pins.perst = false ∧ ∀ b, ({ devIn 1 with pins := { perst := b, flashOut := b } } : State).pins.perst = b ∧
      ({ devIn 1 with pins := { perst := b, flashOut := b } } : State).pins.flashOut = b) ∧
    (6 ∈ [3, 4, 5, 6] ∧ 16 ∈ [1, 4, 8, 16] ∧ 2 ∉ [3, 4, 5, 6] ∧ 2 ∉ [1, 4, 8, 16]) := by decide +kernel

theorem test_witness_ResetsClearWhatTheyName_functions :
    ((vfsUp 31).pcie.numVfs = 16 ∧ vfRope 15 (vfsUp 31) = none ∧ vfRope 15 (vfsUp 15) = some 0 ∧
      getF F.CMD_Q_CFG_ENABLE [63] (vfsUp 31) = 1 ∧ getF F.CMD_Q_CFG_OWNER [63] (vfsUp 31) = 15 ∧ getF F.CMD_Q_CFG_OWNER [62] (vfsUp 31) ≠ 15) ∧
    (∀ v ∈ List.range 16, vfRope v (vfsUp 31) = none) := by decide +kernel

/-- The host link is up. -/
def linked (s : State) : State := setF F.ID_HOST_LINK_GEN [] 6 s

theorem test_witness_HostReachesRegisters_write :
    (let o := regOff .BC_POWER_LIMIT []
     fnAllowed .pf o up = true ∧ o % 8 = 0 ∧ msixSlot o = none ∧ findReg (o / 8 * 8) = some (.BC_POWER_LIMIT, []) ∧
      findReg ((o + 4) / 8 * 8) = some (.BC_POWER_LIMIT, []) ∧ (o + 4) % 4 = 0 ∧ .BC_POWER_LIMIT ∉ actingRegs) ∧
    (fnAllowed (.vf 0) (regOff .BC_POWER_LIMIT []) up = false ∧ msixSlot 0x1FFFF8 = none ∧ findReg 0x1FFFF8 = none) ∧
    (∀ q ∈ [(Reg.ERR_BELAY_QUERY, []), (.AUD_SEAL_REQ, []), (.BC_QUOTE_REQ, []), (.AUD_LS_INBOX, [15, 31]), (.ERR_RESET, [])],
      fnAllowed .pf (regOff q.1 q.2) up = true) := by decide +kernel

/-- A read of 8 bytes by the physical function that finds the register. -/
def plainRead (r : Reg) (ix : List Nat) (s : State) : Bool :=
  let o := regOff r ix
  functionThere .pf s && decide (o % 8 = 0) && mayRead .pf o && blockUp o s && decide (msixSlot o = none) && decide (findReg (o / 8 * 8) = some (r, ix))

theorem test_witness_HostReachesRegisters_read :
    (functionThere .pf State.reset = false ∧ functionThere (.vf 0) (linked up) = false ∧ Requester.pf.wf = true) ∧
    (functionThere .pf (linked up) = true ∧ mayRead .manager 0x900000 = false ∧ blockUp 0x900000 (linked (devIn 1)) = false) ∧
    (plainRead .BC_POWER_LIMIT [] (linked up) = true ∧ latchedMember .BC_POWER_LIMIT = false ∧ latchedSet .BC_POWER_LIMIT [] = [] ∧
      .BC_POWER_LIMIT ∉ ownReads) ∧
    (plainRead .AUD_SEAL_STATUS [] (linked up) = true ∧ plainRead .BC_QUOTE_STATUS [] (linked up) = true ∧
      plainRead .BPM_RESULT [] (linked up) = true ∧ ∀ p, .fn .pf ∉ (poolOf p (linked up)).waiting) ∧
    (plainRead .BPM_POOL_ALLOCS [63] (linked up) = true ∧ latchedMember .BPM_POOL_ALLOCS = true) ∧
    (plainRead .BPM_POOL_STATE [63] (linked up) = true ∧ latchedSet .BPM_POOL_STATE [63] ≠ [] ∧ regOff .BPM_POOL_STATE [63] % 8 = 0) := by
  refine ⟨?_, ?_, ?_, ⟨?_, ?_, ?_, fun p h => nomatch h⟩, ?_, ?_⟩ <;> decide +kernel

/-- A request of the physical function that waits for a buffer of a pool that has none in its cache. -/
def bpmWaits : State := linked (modPool 63 (fun _ => { ringLen := 1, waiting := [.fn .pf] }) (poolUp 1 63 {}))

theorem test_witness_HostReachesRegisters_bpm :
    plainRead .BPM_RESULT [] bpmWaits = true ∧ requestOpen .pf bpmWaits = true ∧ requestOpen .pf (linked up) = false := by decide +kernel

/-- An aperture of 16 GiB whose last bytes before the system region answer. -/
def bar4Up : State :=
  setF F.MEM_SYSTEM_SYS_PAGE [] 8 (setF F.MEM_SYSTEM_PAGES [] 1024 (setF F.BC_BAR4_WINDOW_APERTURE_LOG2 [] 34 (withBc (fun b => { b with ddrReady := true }) (devIn 2))))

theorem test_witness_HostReachesMemory :
    (deviceState (devIn 0) < Dv.standby ∧ 2 ^ apertureLog2 bar4Up < 2 ^ 34 - 3 + 4) ∧
    (Dv.standby ≤ deviceState bar4Up ∧ 8 * 2 ^ 21 - 4 + 4 ≤ 2 ^ apertureLog2 bar4Up ∧ bar4Reaches (8 * 2 ^ 21 - 4) 4 bar4Up = true ∧
      bar4Reaches (8 * 2 ^ 21 - 3) 4 bar4Up = false ∧ bar4Up.mem.anyPoison (8 * 2 ^ 21 - 4) 4 = false) ∧
    (let s := { bar4Up with mem := bar4Up.mem.setPoison (8 * 2 ^ 21 - 4) }
     bar4Reaches (8 * 2 ^ 21 - 4) 4 s = true ∧ s.mem.anyPoison (bar4Lma (8 * 2 ^ 21 - 4) s) 4 = true ∧ bar4Lma (8 * 2 ^ 21 - 4) s % 64 + 4 ≤ 64) ∧
    [(0 : Byte), 1, 2, 3].length = 4 := by decide +kernel

/-- The event ring with 64 entries, HEAD and TAIL, the vector masked or not, moderation under way or not. -/
def ringAt (head tail : Nat) (masked moderating again : Bool) : State :=
  let s := setF F.ERR_RING_CFG_ENABLE [] 1 (setF F.ERR_RING_HEAD_HEAD [] head (setF F.ERR_RING_TAIL_TAIL [] tail up))
  setMsixWord 16 1 (if masked then 2 ^ 32 else 0) { s with events := { base := 0x1000, log2 := 6, moderating := moderating, again := again } }

theorem test_witness_HostReachesEvents :
    (getF F.ERR_RING_CFG_ENABLE [] up = 0 ∧ fnAllowed .pf (regOff .ERR_RING_CFG []) up = true) ∧
    (getF F.ERR_RING_CFG_ENABLE [] (ringAt 0 0 false false false) = 1 ∧
      (getF F.ERR_POLICY_CLASS_MASK [] (setF F.ERR_POLICY_CLASS_MASK [] 4 up)).testBit 2 = true ∧
      (getF F.ERR_POLICY_CLASS_MASK [] up).testBit 2 = false) ∧
    (∀ x ∈ [(64, 0, true), (0, 2 ^ 32 - 64, true), (63, 0, false), (0, 2 ^ 32 - 63, false)],
      let s := ringAt x.1 x.2.1 false false false
      (2 ^ s.events.log2 ≤ (getF F.ERR_RING_HEAD_HEAD [] s + 2 ^ 32 - getF F.ERR_RING_TAIL_TAIL [] s) % 2 ^ 32 ↔ x.2.2 = true)) ∧
    (∀ m o a, (ringAt 0 0 m o a).events.moderating = o ∧ (ringAt 0 0 m o a).events.again = a ∧
      (msixWord 16 (2 * getF F.ERR_RING_CFG_VECTOR [] (ringAt 0 0 m o a) + 1) (ringAt 0 0 m o a)).getLsbD 32 = m) ∧
    getF F.ERR_RING_CFG_MIN_CLASS [] (ringAt 0 0 false false false) ≤ 2 := by decide +kernel

/-! The machine: the hypotheses of the statements are met. -/

theorem test_witness_MemoryStaysCanonical : MemOk State.reset ∧ PagesOk State.reset := ⟨rfl, rfl, fun _ h => nomatch h⟩

theorem test_witness_StepRunsTheFrontCommand :
    ({ State.reset with pending := [.syncTimeout] } : State).pending = .syncTimeout :: [] ∧ State.reset.pending = [] ∧
    (ropeState 0 ropeUp ≠ RopeSt.none ∧ ropeState 0 ropeUp ≠ RopeSt.suspended ∧ (ropeClusters 0 ropeUp)[1]? = some 1 ∧
      clusterState 1 ropeUp = Cl.running) ∧
    (ropeState 15 ropeUp = RopeSt.none) ∧
    State.reset.bc.stage ≠ 0 ∧ State.reset.bc.timeHold = 0 ∧ (withBc (fun b => { b with timeHold := 1 }) State.reset).bc.timeHold = 1 := by
  decide +kernel

/-- No row of the table has bits, so no word spells a command. -/
theorem test_decodeTableWord : decodeTableWord 0 0 = none ∧ decodeTableWord 32 0xFFFFFFFF = none := ⟨rfl, rfl⟩

/-! Ill-formed commands. -/

theorem test_wf_refuses_0 : ([
    .registerWrite (.vf 16) 0 0 0, .latchedSetCapture (.vf 16) (.bar0 0) 0, .nop 512, .alu 512, .addi 512, .andi 512,
    .ori 512, .xori 512, .shli 512, .shrli 512, .shrai 512, .muli 512, .ins16 512, .li 512, .cmp 512, .plog 512, .ld8u 512,
    .ld16u 512, .ld32u 512, .ld64 512, .ld8s 512, .ld16s 512, .ld32s 512, .st8 512] : List Instr).all (fun i => ! i.wf) = true := by decide +kernel

theorem test_wf_refuses_1 : ([
    .st16 512, .st32 512, .st64 512, .br 512, .call 512, .jmpr 512, .endProgram 512, .icinv 512, .mfc 512, .mtc 512,
    .wait 512, .signal 512, .brd 512, .tld 512, .tst 512, .tset 512, .tget 512, .tadd 512, .engineInstructionIssue 512,
    .queueCommandIssue 512, .mclr 512, .mld 512, .mma 512, .mma24 512] : List Instr).all (fun i => ! i.wf) = true := by decide +kernel

theorem test_wf_refuses_2 : ([
    .mma14 512, .mst 512, .mstc 512, .vadd 512, .vsub 512, .vmul 512, .vfma 512, .vdiv 512, .vmax 512, .vmin 512,
    .vabs 512, .vneg 512, .vsqrt 512, .vrsqrt 512, .vexp 512, .vlog 512, .vtanh 512, .vsigm 512, .vsilu 512, .vgelu 512,
    .vmuls 512, .vrsum 512, .vrmax 512, .vrmin 512] : List Instr).all (fun i => ! i.wf) = true := by decide +kernel

theorem test_wf_refuses_3 : ([
    .vcvt 512, .vatadd 512, .vatmax 512, .minter 512, .munion 512, .mgroup 512, .dmove 512, .dcomp 512, .dilist 512,
    .dfill 512, .dhist 512, .route 8, .routeF 8, .exchange 8, .cancelBatch 8, .xcountReceive 8, .earlyCellExpire 8 0,
    .grantPhase 8 0, .xgrantReceive 8, .xcancelReceive 8, .bulkMessageSend 8, .returnMessageSend 8 0, .exchangeTimeout 8 0,
    .exchangeComplete 8 0] : List Instr).all (fun i => ! i.wf) = true := by decide +kernel

theorem test_wf_refuses_4 : ([
    .portEnable (.vf 16) 0, .portEnable .pf 16, .portDisable (.vf 16) 0, .portDisable .pf 16,
    .trainingComplete 16 0 0 (List.replicate 32 0) 0, .trainingComplete 0 0 0 (List.replicate 31 0) 0,
    .trainingAttemptTimeout (⟨16, 0, 0⟩), .trainingPassRestart 16, .downHoldoffExpire 16, .plannedRetrain (.vf 16) 0,
    .plannedRetrain .pf 16, .retrainReq 16 0 0, .retrainAck 16, .retrainComplete 16, .retrainTimeout 16, .laneDrop 16 0,
    .laneDrop 0 4, .flitReceive 16 [] [], .flitReceive 0 (List.replicate 5 []) [], .nakRepeat 16, .nakReceive 16 0,
    .replayTimerExpire 16, .lossOfSignal 16, .downNoticeReceive 16 0] : List Instr).all (fun i => ! i.wf) = true := by decide +kernel

theorem test_wf_refuses_5 : ([
    .linkPacketReceive 16, .switchAdmit 43 0, .switchAdmit 0 6, .outputSchedule 43, .calendarSlotStart 16,
    .peakClear (.vf 16) 0, .peakClear .pf 27, .geometryWrite (.vf 16) 0, .pathEpochBump (.vf 16), .packetArrive 15,
    .packetArrive 27, .packetArrive 48, .messageTimeout 0 16, .msgEntryExpire 0 16, .unreachableClear (.vf 16) 0,
    .planFlip 64, .slotDrainComplete 16 0, .slotDrainComplete 0 256, .collectiveStart 16, .collStepSend 16 0 0 false 0 0,
    .collStepSend 0 4 0 false 0 0, .collStepSend 0 0 4 false 0 0, .collMessageProcess 16, .colCreditReceive 16] : List Instr).all (fun i => ! i.wf) = true := by decide +kernel

theorem test_wf_refuses_6 : ([
    .colAbortReceive 16, .collWatchdogExpire 16 0 0 false, .collWatchdogExpire 0 4 0 false,
    .collWatchdogExpire 0 0 4 false, .collComplete 16, .channelOwn (.vf 16) 0 0, .channelOwn .pf 16 0,
    .channelOwn .pf 0 16, .channelAbort (.vf 16) 0, .channelAbort .pf 16, .commandWindowWrite (.vf 16) 0 [],
    .mirrorWrite 64, .queueEnable (.vf 16) 0, .queueEnable .pf 64, .queueDisable (.vf 16) 0, .queueDisable .pf 64,
    .nopCommand (.window 64), .ropeCreate (.window 64), .ropeStart (.window 64), .ropeSuspend (.window 64),
    .suspendSave 16, .ropeResume (.window 64), .resumeComplete 16, .ropeReset (.window 64)] : List Instr).all (fun i => ! i.wf) = true := by decide +kernel

theorem test_wf_refuses_7 : ([
    .ropeDestroy (.window 64), .tableWrite (.window 64), .tableCommit (.window 64), .collective (.window 64),
    .collAbort (.window 64), .stepMark (.window 64), .stepBoundary 16, .composeCfg (.window 64), .seqAdd (.window 64),
    .seqCancel (.window 64), .composerStep 16, .programComplete 16, .ddr5ChannelTrained 24 false false,
    .patrolScrubRead 2 0 0, .patrolScrubRead 0 0 (2 ^ 63), .pageCommand (.vf 16) 0, .scheduleWrite (.vf 16) 0 0,
    .scheduleWrite .pf 16 0, .prefetchDemand 8 0, .prefetchPieceIssue 8, .speculativeFill 8, .pieceLand 8 0,
    .lendWindowOpen (.vf 16) 0, .lendWindowOpen .pf 16] : List Instr).all (fun i => ! i.wf) = true := by decide +kernel

theorem test_wf_refuses_8 : ([
    .lendWindowClose (.vf 16) 0, .lendWindowClose .pf 16, .mreadReceive 2, .bpmAllocate (.xe 8) 0,
    .bpmAllocate (.fn .pf) 64, .bpmFree (.xe 8) 0, .bpmHandOff (.xe 8) 0 0, .bpmRefill 64, .poolEnable (.vf 16) 0,
    .poolEnable .pf 64, .poolInitComplete 64, .poolDisable (.vf 16) 0, .poolDisable .pf 64, .poolReclaim (.vf 16) 0,
    .poolReclaim .pf 64, .sealRequest (.vf 16) 0, .lockstepArm (.vf 16) 0, .lockstepArm .pf 16, .lockstepDisarm (.vf 16) 0,
    .lockstepDisarm .pf 16, .lockstepRelease (.vf 16) 0, .lockstepRelease .pf 16, .checkpointDigestDone 16,
    .lockstepInboxWrite (.vf 16) 0 0 0] : List Instr).all (fun i => ! i.wf) = true := by decide +kernel

theorem test_wf_refuses_9 : ([
    .lockstepInboxWrite .pf 16 0 0, .lockstepInboxWrite .pf 0 32 0, .standbyEnter (.vf 16), .standbyExit (.vf 16),
    .holdRelease (.vf 16), .clusterIdleTimeout 64, .thermalSample [0] 0 false false, .insertion [none],
    .orderlyRemoval (.vf 16), .quoteRequest (.vf 16) 0, .getCert 0 1025, .getQuote [0] 0,
    .setManagers (List.replicate 5 (List.replicate 64 0)), .setManagers [[0]], .sessionExpire 4, .eventRingEnable (.vf 16),
    .belayQuery (.vf 16) 0, .computeReset (.vf 16) 0, .deviceReset (.vf 16), .basecampReset (.vf 16),
    .vfFunctionLevelReset 16, .numvfsLower 17, .numvfsRaise 17, .bar4Resize 33] : List Instr).all (fun i => ! i.wf) = true := by decide +kernel

theorem test_wf_refuses_10 : ([
    .bar4Resize 44] : List Instr).all (fun i => ! i.wf) = true := by decide +kernel

end Sys2Proof.Tests
end

section
/-! The bytes of numbers: reading back what `natLe` wrote (R3), and fields of a byte list that begins with known bytes. -/

namespace Sys2Proof.Machine

open Sys2Proof

@[simp] theorem leNat_natLe (n v : Nat) : leNat (natLe n v) = v % 256 ^ n := by
  induction n generalizing v with
  | zero => simp [natLe, leNat, Nat.mod_one]
  | succ n ih =>
    rw [natLe, leNat, ih, BitVec.toNat_ofNat, show (2 : Nat) ^ 8 = 256 from rfl, ← Nat.mod_mul, Nat.pow_succ']

theorem drop_natLe_append {n m : Nat} (v : Nat) (bs : List Byte) (h : n ≤ m) :
    (natLe n v ++ bs).drop m = bs.drop (m - n) := by
  simp [List.drop_append, natLe_length, List.drop_of_length_le, h]

/-- A field that begins behind a written number. -/
theorem fieldAt_natLe_append {n off : Nat} (v : Nat) (bs : List Byte) (k : Nat) (h : n ≤ off) :
    fieldAt (natLe n v ++ bs) off k = fieldAt bs (off - n) k := by
  rw [fieldAt, drop_natLe_append v bs h, fieldAt]

/-- A field that is a written number. -/
theorem fieldAt_natLe_append_zero (n v : Nat) (bs : List Byte) : fieldAt (natLe n v ++ bs) 0 n = v % 256 ^ n := by
  simp [fieldAt, natLe_length]

/-- A field right behind known bytes. -/
theorem fieldAt_append_length (a b : List Byte) (k : Nat) : fieldAt (a ++ b) a.length k = fieldAt b 0 k := by
  simp [fieldAt]

theorem fieldAt_cons_succ (b : Byte) (bs : List Byte) (off k : Nat) : fieldAt (b :: bs) (off + 1) k = fieldAt bs off k := rfl

theorem fieldAt_cons_zero_one (b : Byte) (bs : List Byte) : fieldAt (b :: bs) 0 1 = b.toNat := by
  simp [fieldAt, leNat]

/-- A field that begins with a byte other than zero is not zero. -/
theorem fieldAt_cons_zero_ne {b : Byte} (bs : List Byte) {k : Nat} (hk : 0 < k) (hb : b ≠ 0) : fieldAt (b :: bs) 0 k ≠ 0 := by
  obtain ⟨k, rfl⟩ := Nat.exists_eq_add_of_lt hk
  have : b.toNat ≠ 0 := fun h => hb (BitVec.eq_of_toNat_eq (by simpa using h))
  simp only [fieldAt, List.drop_zero, Nat.zero_add, List.take_succ_cons, leNat]
  omega

@[simp] theorem zeros_length (n : Nat) : (zeros n).length = n := List.length_replicate

end Sys2Proof.Machine
end

section
/-! Packets and cells (R113, R124, R126, R127): what the parser reads from the bytes of one. -/

namespace Sys2Proof.Machine

open Sys2Proof

/-- The eight flags of a header are the bits of the flags byte, LAST lowest (R124). -/
theorem testBit_flagBits (a b c d e f g h : Bool) :
    let n := flagBit a 1 + flagBit b 2 + flagBit c 4 + flagBit d 8 + flagBit e 16 + flagBit f 32 + flagBit g 64 + flagBit h 128
    n < 256 ∧ n.testBit 0 = a ∧ n.testBit 1 = b ∧ n.testBit 2 = c ∧ n.testBit 3 = d ∧ n.testBit 4 = e ∧ n.testBit 5 = f ∧
      n.testBit 6 = g ∧ n.testBit 7 = h := by
  revert a b c d e f g h; decide

/-- The flags byte of a packet spells its flags. -/
theorem Packet.testBit_flags (p : Packet) : p.flags < 256 ∧
    p.flags.testBit 0 = p.last ∧ p.flags.testBit 1 = p.ordered ∧ p.flags.testBit 2 = p.fixedLine ∧
    p.flags.testBit 3 = p.multicast ∧ p.flags.testBit 4 = p.mirror ∧ p.flags.testBit 5 = p.retx ∧
    p.flags.testBit 6 = (p.poison && ! p.isCell) ∧ p.flags.testBit 7 = (p.rsvd && ! p.isCell) :=
  testBit_flagBits ..

/-- The first byte of a header holds TYPE above VC (R124). -/
def Packet.first (p : Packet) : Byte := BitVec.ofNat 8 (p.ty.toNat * 16 + p.vc % 16)

theorem Packet.first_toNat (p : Packet) : p.first.toNat = p.ty.toNat * 16 + p.vc % 16 := by
  rw [Packet.first, BitVec.toNat_ofNat, Nat.mod_eq_of_lt]
  have := p.ty.isLt
  omega

theorem Packet.first_ne_zero {p : Packet} (h : p.ty ≠ 0) : p.first ≠ 0 := by
  intro h0
  have := congrArg BitVec.toNat h0
  rw [first_toNat] at this
  exact h (BitVec.eq_of_toNat_eq (by simp at this ⊢; omega))

theorem Packet.first_div (p : Packet) : p.first.toNat / 16 = p.ty.toNat := by
  rw [first_toNat]; omega

theorem Packet.first_mod {p : Packet} (h : p.vc < 16) : p.first.toNat % 16 = p.vc := by
  rw [first_toNat]; omega

theorem Packet.isCell_iff (p : Packet) : p.isCell = true ↔ p.ty.toNat = 8 ∨ p.ty.toNat = 9 := by
  simp [isCell, ← BitVec.toNat_inj]

theorem Packet.wire_of_cell {p : Packet} (h : p.isCell = true) (hp : p.payload.length = 48) :
    p.wire = p.first :: BitVec.ofNat 8 p.flags :: (natLe 2 p.dest.toNat ++ (natLe 2 p.src.toNat ++ (natLe 2 p.job.toNat ++
      p.kind :: p.seq :: (natLe 2 p.code.toNat ++ (natLe 4 p.tag.toNat ++ p.payload))))) := by
  have : (p.payload ++ zeros 48).take 48 = p.payload := by rw [← hp, List.take_left]
  simp [wire, body, h, this, first]

theorem Packet.wire_of_bulk {p : Packet} (h : p.isCell = false) :
    p.wire = p.first :: BitVec.ofNat 8 p.flags :: (natLe 2 p.dest.toNat ++ (natLe 2 p.src.toNat ++ (natLe 2 p.job.toNat ++
      (natLe 4 p.msgid.toNat ++ (natLe 2 p.pseq.toNat ++ (natLe 2 p.len.toNat ++ (natLe 4 p.tag.toNat ++
      (natLe 4 p.handle.toNat ++ (natLe 4 p.offset.toNat ++ (natLe 2 p.flow.toNat ++ (natLe 2 p.total.toNat ++
      (p.payload ++ natLe 4 p.code.toNat)))))))))))) := by
  simp [wire, body, h, first]

theorem Packet.wire_length {p : Packet} (h : p.isCell = true → p.payload.length = 48) : p.wire.length = p.size := by
  cases hc : p.isCell with
  | true => simp [wire_of_cell hc (h hc), natLe_length, h hc, size, hc]
  | false => simp [wire_of_bulk hc, natLe_length, size, hc]; omega

theorem Packet.flagsByte_toNat (p : Packet) : (BitVec.ofNat 8 p.flags).toNat = p.flags :=
  Nat.mod_eq_of_lt p.testBit_flags.1

/-- `n` bytes hold every number of `k` bits. -/
theorem toNat_mod_bytes {k n : Nat} (x : BitVec k) (h : k ≤ 8 * n) : x.toNat % 256 ^ n = x.toNat :=
  Nat.mod_eq_of_lt (x.isLt.trans_le (by rw [show 256 = 2 ^ 8 from rfl, ← pow_mul]; exact Nat.pow_le_pow_right (by omega) h))

/-- What the parser reads from the bytes of a cell. -/
theorem parseCell_wire {p : Packet} (h : OnWire p) (hc : p.isCell = true) (rest : List Byte) :
    parseCell (p.wire ++ rest) = p := by
  obtain ⟨hvc, ha, hg, hcp, hb, hs, hx⟩ := h
  rw [if_pos hc] at hx
  obtain ⟨hpo, hr, hm, hps, hl, hh, ho, hf, ht, hp, hcode⟩ := hx
  have hcode : p.code.toNat % 256 ^ 2 = p.code.toNat := Nat.mod_eq_of_lt hcode
  obtain ⟨-, t0, t1, t2, t3, t4, t5, t6, t7⟩ := p.testBit_flags
  have hpay : (p.payload ++ rest).take 48 = p.payload := by rw [← hp, List.take_left]
  rw [Packet.wire_of_cell hc hp]
  simp only [parseCell, List.cons_append, List.append_assoc, fieldAt_cons_zero_one, fieldAt_cons_succ, fieldAt_natLe_append,
    fieldAt_natLe_append_zero, drop_natLe_append, Nat.reduceLeDiff, Nat.reduceSub, Packet.flagsByte_toNat, Packet.first_div,
    Packet.first_mod hvc, List.drop_succ_cons, List.drop_zero, t0, t1, t2, t3, t4, t5, t6, t7, hc, hpay,
    toNat_mod_bytes, Nat.reduceMul, Nat.reduceLeDiff, BitVec.ofNat_toNat, BitVec.setWidth_eq, hcode]
  cases p
  simp_all

/-- What the parser reads from the bytes of a bulk packet. -/
theorem parseBulk_wire {p : Packet} (h : OnWire p) (hc : p.isCell = false) (rest : List Byte) :
    parseBulk (p.wire ++ rest) (16 * p.len.toNat) = p := by
  obtain ⟨hvc, ha, hg, hcp, hb, hs, hx⟩ := h
  rw [if_neg (by simp [hc])] at hx
  obtain ⟨hty, hk, hsq, hl1, hl2, hp⟩ := hx
  obtain ⟨-, t0, t1, t2, t3, t4, t5, t6, t7⟩ := p.testBit_flags
  have hpay : (p.payload ++ (natLe 4 p.code.toNat ++ rest)).take (16 * p.len.toNat) = p.payload := by rw [← hp, List.take_left]
  have hcode : fieldAt (p.wire ++ rest) (32 + 16 * p.len.toNat) 4 = p.code.toNat := by
    have hn : (p.body 0).length = 32 + 16 * p.len.toNat := by simp [Packet.body, hc, natLe_length, hp]; omega
    rw [Packet.wire, if_neg (by simp [hc]), List.append_assoc, ← hn, fieldAt_append_length, fieldAt_natLe_append_zero,
      toNat_mod_bytes _ (by omega)]
  rw [parseBulk, hcode, Packet.wire_of_bulk hc]
  simp only [List.cons_append, List.append_assoc, fieldAt_cons_zero_one, fieldAt_cons_succ, fieldAt_natLe_append,
    fieldAt_natLe_append_zero, drop_natLe_append, Nat.reduceLeDiff, Nat.reduceSub, Packet.flagsByte_toNat, Packet.first_div,
    Packet.first_mod hvc, List.drop_succ_cons, List.drop_zero, t0, t1, t2, t3, t4, t5, t6, t7, hc, hpay,
    toNat_mod_bytes, Nat.reduceMul, Nat.reduceLeDiff, BitVec.ofNat_toNat, BitVec.setWidth_eq]
  cases p
  simp_all

/-! Pad words (R112). -/

/-- Pad words are skipped up to what does not begin with one. -/
theorem skipPads_zeros {k n : Nat} {bs : List Byte} (h : fieldAt bs 0 4 ≠ 0) (hk : k ≤ n) :
    skipPads n (zeros (4 * k) ++ bs) = bs := by
  induction n generalizing k with
  | zero =>
    obtain rfl : k = 0 := by omega
    rfl
  | succ n ih =>
    cases k with
    | zero => simp [skipPads, zeros, h]
    | succ k =>
      have hz : zeros (4 * (k + 1)) ++ bs = zeros 4 ++ (zeros (4 * k) ++ bs) := by
        rw [← List.append_assoc, zeros, zeros, zeros, List.replicate_append_replicate, Nat.mul_succ, Nat.add_comm]
      have h0 : fieldAt (zeros 4 ++ (zeros (4 * k) ++ bs)) 0 4 = 0 := by
        simp [fieldAt, zeros, leNat]
      rw [hz, skipPads, if_pos ⟨by simp, h0⟩, List.drop_left' (by simp), ih (by omega)]

theorem onWire_ty_ne_zero {p : Packet} (h : OnWire p) : p.ty ≠ 0 := by
  intro h0
  obtain ⟨-, -, -, -, -, -, hx⟩ := h
  simp [Packet.isCell, h0] at hx

/-- The payload of a cell has 48 bytes (R127). -/
theorem onWire_payload_cell {p : Packet} (h : OnWire p) (hc : p.isCell = true) : p.payload.length = 48 := by
  obtain ⟨-, -, -, -, -, -, hx⟩ := h
  rw [if_pos hc] at hx
  obtain ⟨-, -, -, -, -, -, -, -, -, hp, -⟩ := hx
  exact hp

/-- LEN of a bulk packet is from 1 to 256 and counts the 16-byte words of its payload (R124). -/
theorem onWire_payload_bulk {p : Packet} (h : OnWire p) (hc : p.isCell = false) :
    1 ≤ p.len.toNat ∧ p.len.toNat ≤ 256 ∧ p.payload.length = 16 * p.len.toNat := by
  obtain ⟨-, -, -, -, -, -, hx⟩ := h
  rw [if_neg (by simp [hc])] at hx
  obtain ⟨-, -, -, hlen⟩ := hx
  exact hlen

theorem onWire_wire_cons {p : Packet} (h : OnWire p) : ∃ t, p.wire = p.first :: t := by
  cases hc : p.isCell with
  | true => exact ⟨_, Packet.wire_of_cell hc (onWire_payload_cell h hc)⟩
  | false => exact ⟨_, Packet.wire_of_bulk hc⟩

/-- The LEN field of a bulk packet's bytes. -/
theorem fieldAt_wire_len {p : Packet} (hc : p.isCell = false) (rest : List Byte) :
    fieldAt (p.wire ++ rest) 14 2 = p.len.toNat := by
  rw [Packet.wire_of_bulk hc]
  simp only [List.cons_append, List.append_assoc, fieldAt_cons_succ, fieldAt_natLe_append, fieldAt_natLe_append_zero,
    toNat_mod_bytes, Nat.reduceMul, Nat.reduceSub, Nat.reduceLeDiff]

/-- After its pad words, the parser takes a packet whole and leaves what follows (R112, R113). -/
theorem parsePacket_wire {p : Packet} (h : OnWire p) (rest : List Byte) (k : Nat) :
    parsePacket (zeros (4 * k) ++ p.wire ++ rest) = .got p rest := by
  have hlen := Packet.wire_length (onWire_payload_cell h)
  obtain ⟨t, ht⟩ := onWire_wire_cons h
  have hpads : skipPads (zeros (4 * k) ++ p.wire ++ rest).length (zeros (4 * k) ++ p.wire ++ rest) = p.wire ++ rest := by
    rw [List.append_assoc]
    refine skipPads_zeros ?_ (by simp; omega)
    rw [ht]; exact fieldAt_cons_zero_ne _ (by omega) (Packet.first_ne_zero (onWire_ty_ne_zero h))
  have hne : (p.wire ++ rest).isEmpty = false := by rw [ht]; rfl
  have hf : fieldAt (p.wire ++ rest) 0 1 / 16 = p.ty.toNat := by
    rw [ht, List.cons_append, fieldAt_cons_zero_one, Packet.first_div]
  rw [parsePacket, hpads]
  simp only [hne, hf, ← Packet.isCell_iff, Bool.false_eq_true, if_false]
  cases hc : p.isCell with
  | true =>
    have h64 : p.wire.length = 64 := by rw [hlen, Packet.size, if_pos hc]
    rw [if_pos rfl, if_neg (by simp; omega), parseCell_wire h hc, List.drop_left' h64]
  | false =>
    obtain ⟨h1, h256, hp⟩ := onWire_payload_bulk h hc
    have hsize : p.wire.length = 36 + 16 * p.len.toNat := by rw [hlen, Packet.size, if_neg (by simp [hc]), hp]
    rw [if_neg (by simp), if_neg (by simp; omega), fieldAt_wire_len hc, if_neg (by omega), if_neg (by simp; omega),
      parseBulk_wire h hc, List.drop_left' hsize]

end Sys2Proof.Machine
end

section
/-! Flits (R110): 4 bytes of header, 248 of payload, 4 of CRC-32C. -/

namespace Sys2Proof.Machine

open Sys2Proof

/-- The header of a flit packs its four fields into 32 bits. -/
def flitHead (seq ack kind cnt : Nat) : Nat := seq % 4096 + ack % 4096 * 2 ^ 12 + kind % 8 * 2 ^ 24 + cnt % 32 * 2 ^ 27

/-- The 252 bytes a flit's CRC covers. -/
def flitBody (seq ack kind cnt : Nat) (payload : List Byte) : List Byte :=
  natLe 4 (flitHead seq ack kind cnt) ++ (payload ++ zeros 248).take 248

theorem mkFlit_eq (seq ack kind cnt : Nat) (payload : List Byte) :
    mkFlit seq ack kind cnt payload =
      flitBody seq ack kind cnt payload ++ natLe 4 (crc32c (flitBody seq ack kind cnt payload)).toNat := rfl

theorem flitBody_length (seq ack kind cnt : Nat) (payload : List Byte) : (flitBody seq ack kind cnt payload).length = 252 := by
  simp [flitBody, natLe_length]

theorem mkFlit_length (seq ack kind cnt : Nat) (payload : List Byte) : (mkFlit seq ack kind cnt payload).length = 256 := by
  rw [mkFlit_eq, List.length_append, flitBody_length, natLe_length]

/-- The header word of a flit. -/
theorem mkFlit_head (seq ack kind cnt : Nat) (payload : List Byte) :
    fieldAt (mkFlit seq ack kind cnt payload) 0 4 = flitHead seq ack kind cnt := by
  rw [mkFlit_eq, flitBody, List.append_assoc, fieldAt_natLe_append_zero, Nat.mod_eq_of_lt]
  unfold flitHead
  omega

/-- The payload of a flit, filled up with zeros. -/
theorem mkFlit_payload (seq ack kind cnt : Nat) {payload : List Byte} (h : payload.length ≤ 248) :
    ((mkFlit seq ack kind cnt payload).drop 4).take 248 = payload ++ zeros (248 - payload.length) := by
  have hp : (payload ++ zeros 248).take 248 = payload ++ zeros (248 - payload.length) := by
    rw [List.take_append, List.take_of_length_le h, zeros, List.take_replicate, Nat.min_eq_left (by omega), zeros]
  rw [mkFlit_eq, flitBody, List.append_assoc, drop_natLe_append _ _ (le_refl 4), Nat.sub_self, List.drop_zero, hp,
    List.take_left' (by simp; omega)]

/-- The CRC of a flit is right. -/
theorem mkFlit_crc (seq ack kind cnt : Nat) (payload : List Byte) :
    crc32c ((mkFlit seq ack kind cnt payload).take 252) = BitVec.ofNat 32 (fieldAt (mkFlit seq ack kind cnt payload) 252 4) := by
  rw [mkFlit_eq, List.take_left' (flitBody_length ..)]
  have h := fieldAt_append_length (flitBody seq ack kind cnt payload) (natLe 4 (crc32c (flitBody seq ack kind cnt payload)).toNat) 4
  rw [flitBody_length] at h
  rw [h, ← List.append_nil (natLe _ _), fieldAt_natLe_append_zero, toNat_mod_bytes _ (by omega), BitVec.ofNat_toNat,
    BitVec.setWidth_eq]

end Sys2Proof.Machine
end

section
/-! Lanes (R99, R101): the stripe of a flit over the lanes of a port, and the scrambler. -/

namespace Sys2Proof.Machine

open Sys2Proof

theorem descramble_scramble (h bits : List Bool) : descramble h (scramble h bits) = bits := by
  induction bits generalizing h with
  | nil => rfl
  | cons b t ih => rw [scramble, descramble, ih, Bool.xor_assoc, Bool.xor_self, Bool.xor_false]

/-- Unit `i` of a flit: 4 bytes (R101). -/
def unitAt (f : List Byte) (i : Nat) : List Byte := (f.drop (4 * i)).take 4

theorem unitAt_length {f : List Byte} {n i : Nat} (h : f.length = 4 * n) (hi : i < n) : (unitAt f i).length = 4 := by
  simp [unitAt]; omega

theorem getElem?_unitAt (f : List Byte) (i : Nat) {b : Nat} (hb : b < 4) : (unitAt f i)[b]? = f[4 * i + b]? := by
  rw [unitAt, List.getElem?_take_of_lt hb, List.getElem?_drop]

/-- Bytes that fill units are cut into them. -/
theorem units4_eq {n fuel : Nat} {f : List Byte} (hn : n ≤ fuel) (h : f.length = 4 * n) :
    units4 fuel f = (List.range n).map (unitAt f) := by
  induction fuel generalizing n f with
  | zero =>
    obtain rfl : n = 0 := by omega
    rfl
  | succ fuel ih =>
    cases n with
    | zero =>
      obtain rfl := List.eq_nil_of_length_eq_zero h
      rfl
    | succ n =>
      have hne : f.isEmpty = false := by cases f <;> simp at h ⊢
      have hu : ∀ i, unitAt (f.drop 4) i = unitAt f (i + 1) := fun i => by
        rw [unitAt, unitAt, List.drop_drop, Nat.mul_succ, Nat.add_comm]
      rw [units4, if_neg (by simp [hne]), ih (n := n) (by omega) (by simp; omega), List.range_succ_eq_map, List.map_cons,
        List.map_map]
      exact congrArg₂ _ rfl (List.map_congr_left fun i _ => hu i)

theorem getElem?_everyNth {α : Type} {k fuel : Nat} {l : List α} (hk : 1 ≤ k) (hl : l.length ≤ fuel) (i : Nat) :
    (everyNth k fuel l)[i]? = l[k * i]? := by
  induction fuel generalizing l i with
  | zero =>
    obtain rfl := List.eq_nil_of_length_eq_zero (Nat.le_zero.1 hl)
    rfl
  | succ fuel ih =>
    cases l with
    | nil => simp [everyNth]
    | cons x t =>
      cases i with
      | zero => simp [everyNth]
      | succ i =>
        have hi : k * (i + 1) = k - 1 + k * i + 1 := by rw [Nat.mul_succ]; omega
        rw [everyNth, List.getElem?_cons_succ, ih (by simp at hl ⊢; omega), List.getElem?_drop, hi, List.getElem?_cons_succ]

/-- Lane `j` of `k` carries units `j`, `j + k`, `j + 2k` and so on (R101). -/
theorem getElem?_stripe {k m j : Nat} {f : List Byte} (h : f.length = 4 * (k * m)) (hj : j < k) :
    (stripe k f)[j]? = some ((List.range m).flatMap (fun q => unitAt f (k * q + j))) := by
  have hu : units4 f.length f = (List.range (k * m)).map (unitAt f) := units4_eq (by omega) h
  have he : everyNth k (k * m) (((List.range (k * m)).map (unitAt f)).drop j) =
      (List.range m).map (fun q => unitAt f (k * q + j)) := by
    refine List.ext_getElem? fun q => ?_
    rw [getElem?_everyNth (by omega) (by simp), List.getElem?_drop, List.getElem?_map, List.getElem?_map, Nat.add_comm j]
    by_cases hq : q < m
    · have hlt : k * q + j < k * m := by
        calc k * q + j < k * (q + 1) := by rw [Nat.mul_succ]; omega
          _ ≤ k * m := Nat.mul_le_mul_left k hq
      rw [List.getElem?_range hlt, List.getElem?_range hq]; rfl
    · have hle : k * m ≤ k * q := Nat.mul_le_mul_left k (by omega)
      rw [List.getElem?_eq_none (by simp; omega), List.getElem?_eq_none (by simp; omega)]; rfl
  rw [stripe, hu]
  simp [hj, he, List.flatMap]

/-- An element of lists of one length put together. -/
theorem getElem?_flatten_const {α : Type} {c b : Nat} {L : List (List α)} (h : ∀ l ∈ L, l.length = c) (hb : b < c) (j : Nat) :
    L.flatten[c * j + b]? = L[j]?.bind (fun l => l[b]?) := by
  induction L generalizing j with
  | nil => simp
  | cons l L ih =>
    obtain ⟨hl, hL⟩ := List.forall_mem_cons.1 h
    cases j with
    | zero => simp [List.getElem?_append_left, hl, hb]
    | succ j =>
      have hi : c * (j + 1) + b = l.length + (c * j + b) := by rw [Nat.mul_succ, hl]; omega
      rw [List.flatten_cons, hi, List.getElem?_append_right (by omega), Nat.add_sub_cancel_left, ih hL, List.getElem?_cons_succ]

theorem length_flatten_const {α : Type} {c : Nat} {L : List (List α)} (h : ∀ l ∈ L, l.length = c) :
    L.flatten.length = c * L.length := by
  rw [List.length_flatten, List.eq_replicate_of_mem (a := c) (l := L.map List.length) (by simpa using h)]
  simp [Nat.mul_comm]

/-- A lane: its length, and where each of its bytes stands in the flit (R101). -/
theorem stripe_lane {k m j : Nat} {f l : List Byte} (h : f.length = 4 * (k * m)) (hl : (stripe k f)[j]? = some l) :
    l.length = 4 * m ∧ ∀ q b, q < m → b < 4 → l[4 * q + b]? = f[4 * (k * q + j) + b]? := by
  have hj : j < k := by simpa [stripe] using (List.getElem?_eq_some_iff.1 hl).1
  rw [getElem?_stripe h hj, Option.some.injEq] at hl
  subst hl
  have hlen : ∀ u ∈ (List.range m).map (fun q => unitAt f (k * q + j)), u.length = 4 := by
    simp only [List.mem_map, List.mem_range, forall_exists_index, and_imp]
    rintro u q hq rfl
    refine unitAt_length h ?_
    calc k * q + j < k * (q + 1) := by rw [Nat.mul_succ]; omega
      _ ≤ k * m := Nat.mul_le_mul_left k hq
  rw [List.flatMap]
  refine ⟨by rw [length_flatten_const hlen]; simp, fun q b hq hb => ?_⟩
  rw [getElem?_flatten_const hlen hb, List.getElem?_map, List.getElem?_range hq]
  exact getElem?_unitAt f _ hb

/-- Lanes of `m` units together hold `m` rows, each of one unit of every lane (R101). -/
theorem joinLanes_spec {m fuel : Nat} {ls : List (List Byte)} (hm : m ≤ fuel) (h : ∀ l ∈ ls, l.length = 4 * m) :
    (joinLanes fuel ls).length = 4 * (ls.length * m) ∧ ∀ q j b, q < m → j < ls.length → b < 4 →
      (joinLanes fuel ls)[4 * (ls.length * q + j) + b]? = ls[j]?.bind (fun l => l[4 * q + b]?) := by
  induction fuel generalizing m ls with
  | zero =>
    obtain rfl : m = 0 := by omega
    exact ⟨rfl, fun q _ _ hq => absurd hq (Nat.not_lt_zero q)⟩
  | succ fuel ih =>
    have hdrop : ∀ l ∈ ls.map (fun l => l.drop 4), l.length = 4 * (m - 1) := by
      simp only [List.mem_map, forall_exists_index, and_imp]
      rintro l l' hl' rfl
      rw [List.length_drop, h l' hl']; omega
    obtain ⟨hlen, hrest⟩ := ih (m := m - 1) (by omega) hdrop
    rw [List.length_map] at hlen hrest
    have hrow : ∀ l ∈ ls.map (fun l => l.take 4), l.length = min 4 (4 * m) := by
      simp only [List.mem_map, forall_exists_index, and_imp]
      rintro l l' hl' rfl
      rw [List.length_take, h l' hl']
    have hrowLen := length_flatten_const hrow
    rw [List.length_map] at hrowLen
    rw [joinLanes, List.flatMap]
    cases m with
    | zero => exact ⟨by simp [hlen, hrowLen], fun q _ _ hq => absurd hq (Nat.not_lt_zero q)⟩
    | succ m =>
      have h4 : min 4 (4 * (m + 1)) = 4 := by omega
      rw [h4] at hrow hrowLen
      refine ⟨by rw [List.length_append, hrowLen, hlen, Nat.add_sub_cancel]; ring, fun q j b hq hj hb => ?_⟩
      cases q with
      | zero =>
        rw [Nat.mul_zero, Nat.zero_add, List.getElem?_append_left (by omega), getElem?_flatten_const hrow hb, List.getElem?_map]
        cases ls[j]? <;> simp [hb]
      | succ q =>
        have hi : 4 * (ls.length * (q + 1) + j) + b = (ls.map (fun l => l.take 4)).flatten.length + (4 * (ls.length * q + j) + b) := by
          rw [hrowLen]; ring
        rw [hi, List.getElem?_append_right (by omega), Nat.add_sub_cancel_left, hrest q j b (by omega) hj hb, List.getElem?_map]
        cases ls[j]? <;> simp [Nat.mul_succ, Nat.add_comm, Nat.add_left_comm]

theorem stripe_length (k : Nat) (f : List Byte) : (stripe k f).length = k := by simp [stripe]

/-- The lanes give the flit back (R101). -/
theorem joinLanes_stripe {k m fuel : Nat} {f : List Byte} (hk : 0 < k) (hm : m ≤ fuel) (h : f.length = 4 * (k * m)) :
    joinLanes fuel (stripe k f) = f := by
  have hall : ∀ l ∈ stripe k f, l.length = 4 * m := fun l hl => by
    obtain ⟨j, hj⟩ := List.mem_iff_getElem?.1 hl
    exact (stripe_lane h hj).1
  obtain ⟨hlen, hget⟩ := joinLanes_spec hm hall
  rw [stripe_length] at hlen hget
  refine List.ext_getElem? fun i => ?_
  by_cases hi : i < 4 * (k * m)
  · have hq : i / 4 / k < m := Nat.div_lt_of_lt_mul (by omega)
    have hj : i / 4 % k < k := Nat.mod_lt _ hk
    have hb : i % 4 < 4 := by omega
    have he : 4 * (k * (i / 4 / k) + i / 4 % k) + i % 4 = i := by rw [Nat.div_add_mod]; omega
    have hlane := getElem?_stripe h hj
    have := hget _ _ _ hq hj hb
    rw [he, hlane, Option.bind_some, (stripe_lane h hlane).2 _ _ hq hb, he] at this
    exact this
  · rw [List.getElem?_eq_none (by omega), List.getElem?_eq_none (by omega)]

/-- A flit of 256 bytes on 1, 2 or 4 lanes (R101). -/
theorem onLanes_spec {n k : Nat} {f : List Byte} {s : State} (hf : f.length = 256) (ha : (activeLanes n s).length = k)
    (hk : k = 1 ∨ k = 2 ∨ k = 4) :
    (onLanes n f s).map Prod.fst = activeLanes n s ∧ offLanes ((onLanes n f s).map Prod.snd) = f ∧
    ∀ (j i : Nat) (l : Nat × List Byte), (onLanes n f s)[j]? = some l → l.2.length = 256 / k ∧
      (i < 256 / k → l.2[i]? = f[4 * (k * (i / 4) + j) + i % 4]?) := by
  have hm : f.length = 4 * (k * (64 / k)) := by rcases hk with rfl | rfl | rfl <;> simpa using hf
  have hlanes : (onLanes n f s).map Prod.snd = stripe k f := by
    rw [onLanes, ha, List.map_snd_zip (by rw [stripe_length, ha])]
  have h256 : 256 / k = 4 * (64 / k) := by rcases hk with rfl | rfl | rfl <;> rfl
  refine ⟨List.map_fst_zip (by rw [stripe_length]), ?_, fun j i l hl => ?_⟩
  · rw [hlanes, offLanes, joinLanes_stripe (by omega) (Nat.div_le_self 64 k) hm]
  · have hj : (stripe k f)[j]? = some l.2 := by rw [← hlanes, List.getElem?_map, hl]; rfl
    obtain ⟨hlen, hget⟩ := stripe_lane hm hj
    refine ⟨by omega, fun hi => ?_⟩
    have := hget (i / 4) (i % 4) (by omega) (by omega)
    rwa [Nat.div_add_mod] at this

/-- Settles O39: a parser that walks over the fields of a header, a stripe read unit by unit, and a scrambler whose two ends keep
the same history. -/
theorem packetsSurviveTheWire : Obligations.PacketsSurviveTheWire := by
  unfold Obligations.PacketsSurviveTheWire
  refine ⟨fun p rest k h => ⟨parsePacket_wire h rest k, Packet.wire_length (onWire_payload_cell h)⟩, ?_,
    fun n f s k hf ha hk => onLanes_spec hf ha hk, descramble_scramble⟩
  intro seq ack kind cnt payload hseq hack hkind hcnt hp
  simp only [mkFlit_head, flitHead]
  exact ⟨mkFlit_length .., by omega, by omega, by omega, by omega, mkFlit_payload _ _ _ _ hp, mkFlit_crc ..⟩

end Sys2Proof.Machine
end

section
/-! The state right after power-on (R11, R445, R474). -/

namespace Sys2Proof.Machine

open Sys2Proof

/-- No register is listed at power-on, so each reads its reset value (R11). -/
theorem getR_reset (r : Reg) (ix : List Nat) : getR r ix State.reset = regReset r ix := rfl

/-- A field at power-on. -/
theorem getF_reset (f : Fld) (ix : List Nat) : getF f ix State.reset = bits f.hi f.lo (regReset f.reg ix) := rfl

/-- Device state STANDBY, with BOOT (R445). -/
theorem deviceState_reset : deviceState State.reset = Dv.standby ∧ getF F.BC_STATE_BOOT [] State.reset = 1 := by
  rw [deviceState, getF_reset, getF_reset]; decide

/-- Every rope is NONE and bound to no virtual function (R391). -/
theorem rope_reset (r : Nat) : ropeState r State.reset = RopeSt.none ∧ getF F.CMD_ROPE_STATE_VF [r] State.reset = 31 := by
  have h : regReset .CMD_ROPE_STATE [r] = regReset .CMD_ROPE_STATE [0] := rfl
  rw [ropeState, getF_reset, getF_reset, h]; decide

/-- Every cluster is GATED (R434). -/
theorem clusterState_reset (q : Nat) : clusterState q State.reset = Cl.gated := by
  have h : regReset .BC_CLUSTER [q] = regReset .BC_CLUSTER [0] := rfl
  rw [clusterState, getF_reset, h]; decide

/-- MIN_CLASS of the event ring is DEGRADED (R469). -/
theorem minClass_reset : getF F.ERR_RING_CFG_MIN_CLASS [] State.reset = 2 := by rw [getF_reset]; decide

theorem timeNow_reset : timeNow State.reset = 0 := by rw [timeNow, getR_reset]; decide

/-- No page lies in the page table and no scrub is under way. -/
theorem pagesOk_reset : PagesOk State.reset := ⟨rfl, fun x h => by simp [State.reset] at h⟩

/-- Settles O59: the registers by their reset values, the rest by the fields of the reset state. -/
theorem resetState : Obligations.ResetState := by
  unfold Obligations.ResetState
  exact ⟨rfl, rfl, getR_reset, deviceState_reset.1, deviceState_reset.2, rfl, rope_reset, clusterState_reset, timeNow_reset,
    fun i => rfl, minClass_reset, rfl, rfl, Mem.wf_empty, pagesOk_reset⟩
end Sys2Proof.Machine
end

section
/-! A BAR4 read over an error of local memory (R349, R480): the read of the erroneous word writes an event record to host memory. -/

namespace Sys2Proof.Machine

open Sys2Proof

theorem exec_bar4Read (off len : Nat) (s : State) : exec (.bar4Read off len) s = execBar4Read off len s := rfl

/-- Memory without errors has none to find. -/
theorem findErrors_of_errs_nil (p n : Nat) {s : State} (h : s.mem.errs = []) : findErrors p n s = s := by
  rw [findErrors, h, List.isEmpty_nil, if_pos rfl]

@[simp] theorem wakeActive_out (s : State) : (wakeActive s).out = s.out := by
  unfold wakeActive; split <;> rfl

/-- Over memory without errors a BAR4 read sends its completions at most: what earlier commands sent is gone (log 4). -/
theorem bar4Read_out_length {off len : Nat} {s t : State} (he : s.mem.errs = []) (h : exec (.bar4Read off len) s = .next t) :
    t.out.length ≤ 1 := by
  rw [exec_bar4Read, execBar4Read, runIf, Host.Outcome.next.injEq] at h
  subst h
  have hq : findErrors (bar4Lma off { s with out := [] }) len { s with out := [] } = { s with out := [] } :=
    findErrors_of_errs_nil _ _ he
  split
  · unfold bar4Read
    split
    · simp [hq]
    · simp
  · simp

/-- An ACTIVE device with one page of local memory below the system region, the event ring enabled, and an uncorrectable error in
local memory word 0 that no read has found yet. -/
def unfoundErrorState : State :=
  setF F.ERR_RING_CFG_ENABLE [] 1 (setF F.MEM_SYSTEM_SYS_PAGE [] 1 (setF F.MEM_SYSTEM_PAGES [] 2 (setDeviceState Dv.active
    { State.reset with mem := { errs := [(0, 0x101)] }, bc := { ddrReady := true } })))

/-- BAR4 reaches its word 0. -/
theorem unfoundErrorState_reaches : Dv.standby ≤ deviceState unfoundErrorState ∧ 0 + 16 ≤ 2 ^ apertureLog2 unfoundErrorState ∧
    bar4Reaches 0 16 unfoundErrorState = true := by decide +kernel

/-- Finding the error leaves none in memory and sends the event record to the host. -/
theorem unfoundErrorState_found : let s := findErrors (bar4Lma 0 unfoundErrorState) 16 (Quiet unfoundErrorState)
    s.mem.errs = [] ∧ s.out ≠ [] := by decide +kernel

/-- Refutes O57: its clause on BAR4 reads binds `s` to the state in which the errors are found already and runs the command from
there, so the command drops the event record that this state has sent (log 4), and its output is the completions alone, not that
record and the completions. `unfoundErrorState` is such a state. -/
theorem not_hostReachesRegistersMemoryAndEvents : ¬ Obligations.HostReachesRegistersMemoryAndEvents := by
  unfold Obligations.HostReachesRegistersMemoryAndEvents
  rintro ⟨-, -, -, hbar4, -⟩
  obtain ⟨hstate, hap, hreach⟩ := unfoundErrorState_reaches
  obtain ⟨herrs, hsent⟩ := unfoundErrorState_found
  obtain ⟨-, hinside, -⟩ := hbar4 0 16 unfoundErrorState
  obtain ⟨-, hread⟩ := hinside hstate hap
  obtain ⟨parts, t, hexec, -, -, -, hout, -⟩ := hread hreach
  have hle := bar4Read_out_length herrs hexec
  have hpos := List.length_pos_of_ne_nil hsent
  rw [hout, List.length_append, List.length_singleton] at hle
  omega

end Sys2Proof.Machine
end

section
/-! Frames: what an operation touches, as the parts of the state and the offsets of the registers it may write. -/

namespace Sys2Proof.Machine

open Sys2Proof

/-! Loops. -/

/-- What one pass keeps, in a reflexive and transitive relation, a loop over a list keeps. -/
theorem forList_rel {α σ : Type} {R : σ → σ → Prop} (hr : ∀ s, R s s) (ht : ∀ s t u, R s t → R t u → R s u)
    {l : List α} {f : α → σ → σ} (h : ∀ a ∈ l, ∀ s, R s (f a s)) (s : σ) : R s (forList l s f) := by
  induction l generalizing s with
  | nil => exact hr s
  | cons a l ih =>
    exact ht _ _ _ (h a List.mem_cons_self s) (ih (fun b hb => h b (List.mem_cons_of_mem _ hb)) (f a s))

theorem forList_cons {α σ : Type} (a : α) (l : List α) (s : σ) (f : α → σ → σ) :
    forList (a :: l) s f = forList l (f a s) f := rfl

theorem forN_succ {σ : Type} (n : Nat) (s : σ) (f : Nat → σ → σ) : forN (n + 1) s f = f n (forN n s f) := by
  simp [forN, forList, List.range_succ]

/-- An invariant of a loop over a list. -/
theorem forList_inv {α σ : Type} {P : σ → Prop} {l : List α} {f : α → σ → σ} (h : ∀ a ∈ l, ∀ s, P s → P (f a s)) {s : σ}
    (hs : P s) : P (forList l s f) :=
  forList_rel (R := fun s t => P s → P t) (fun _ => id) (fun _ _ _ g k => k ∘ g) h s hs

theorem forN_rel {σ : Type} {R : σ → σ → Prop} (hr : ∀ s, R s s) (ht : ∀ s t u, R s t → R t u → R s u) {n : Nat}
    {f : Nat → σ → σ} (h : ∀ i, i < n → ∀ s, R s (f i s)) (s : σ) : R s (forN n s f) :=
  forList_rel hr ht (fun i hi => h i (List.mem_range.1 hi)) s

/-! Single updates. -/

/-- From `s` to `t` only parts in `ps` change, and among the registers only those at offsets in `Q`. -/
structure Touches (ps : List Part) (Q : Nat → Prop) (s t : State) : Prop where
  only : Only ps s t
  regs : ∀ o, ¬ Q o → ∀ d, tget d t.regs o = tget d s.regs o

namespace Touches

variable {ps qs : List Part} {Q R : Nat → Prop} {s t u : State}

theorem refl (ps : List Part) (Q : Nat → Prop) (s : State) : Touches ps Q s s := ⟨Only.refl ps s, fun _ _ _ => rfl⟩

theorem trans (h : Touches ps Q s t) (g : Touches ps Q t u) : Touches ps Q s u :=
  ⟨h.only.trans g.only, fun o ho d => (g.regs o ho d).trans (h.regs o ho d)⟩

theorem mono (h : Touches ps Q s t) (hp : ∀ p ∈ ps, p ∈ qs) (hq : ∀ o, Q o → R o) : Touches qs R s t :=
  ⟨h.only.mono hp, fun o ho => h.regs o (fun hQ => ho (hq o hQ))⟩

/-- A step that touches what the frame allows. -/
theorem andThen (h : Touches ps Q s t) (g : Touches qs R t u) (hp : ∀ p ∈ qs, p ∈ ps := by decide)
    (hq : ∀ o, R o → Q o := by intro o ho; omega) : Touches ps Q s u :=
  h.trans (g.mono hp hq)

theorem getR_eq (h : Touches ps Q s t) {r : Reg} {ix : List Nat} (ho : ¬ Q (regOff r ix)) : getR r ix t = getR r ix s :=
  h.regs _ ho _

theorem getF_eq (h : Touches ps Q s t) {f : Fld} {ix : List Nat} (ho : ¬ Q (regOff f.reg ix)) : getF f ix t = getF f ix s := by
  rw [getF, getF, h.getR_eq ho]

theorem setR (h : Touches ps Q s t) {r : Reg} {ix : List Nat} {v : Word} (hq : Q (regOff r ix))
    (hp : Part.regs ∈ ps := by decide) : Touches ps Q s (setR r ix v t) := by
  refine h.trans ⟨⟨rfl, fun p hn => ?_⟩, fun o ho d => tget_tset_other _ _ _ _ (fun e => ho (e ▸ hq))⟩
  cases p <;> first | rfl | exact absurd hp hn

theorem setF (h : Touches ps Q s t) {f : Fld} {ix : List Nat} {v : Nat} (hq : Q (regOff f.reg ix))
    (hp : Part.regs ∈ ps := by decide) : Touches ps Q s (setF f ix v t) := h.setR hq hp

theorem addF (h : Touches ps Q s t) {f : Fld} {ix : List Nat} {v : Nat} (hq : Q (regOff f.reg ix))
    (hp : Part.regs ∈ ps := by decide) : Touches ps Q s (addF f ix v t) := h.setF hq hp

theorem subF (h : Touches ps Q s t) {f : Fld} {ix : List Nat} {v : Nat} (hq : Q (regOff f.reg ix))
    (hp : Part.regs ∈ ps := by decide) : Touches ps Q s (subF f ix v t) := h.setF hq hp

/-- A loop whose passes touch what the frame allows. -/
theorem forList {α : Type} (h : Touches ps Q s t) {l : List α} {f : α → State → State} (hf : ∀ a ∈ l, ∀ u, Touches ps Q u (f a u)) :
    Touches ps Q s (Machine.forList l t f) :=
  h.trans (forList_rel (refl ps Q) (fun _ _ _ => trans) hf t)

theorem forN (h : Touches ps Q s t) {n : Nat} {f : Nat → State → State} (hf : ∀ i, i < n → ∀ u, Touches ps Q u (f i u)) :
    Touches ps Q s (Machine.forN n t f) :=
  h.trans (forN_rel (refl ps Q) (fun _ _ _ => trans) hf t)

/-- What is sent out is no part of a frame. -/
theorem withOut (h : Touches ps Q s t) {x : List Out} : Touches ps Q s { t with out := x } :=
  h.trans ⟨⟨rfl, fun p _ => by cases p <;> rfl⟩, fun _ _ _ => rfl⟩

theorem withMem (h : Touches ps Q s t) {x : Mem} (hp : Part.mem ∈ ps := by decide) :
    Touches ps Q s { t with mem := x } :=
  h.trans ⟨⟨rfl, fun p hn => by cases p <;> first | rfl | exact absurd hp hn⟩, fun _ _ _ => rfl⟩

theorem withLatch (h : Touches ps Q s t) {x : Tab Word} (hp : Part.latch ∈ ps := by decide) :
    Touches ps Q s { t with latch := x } :=
  h.trans ⟨⟨rfl, fun p hn => by cases p <;> first | rfl | exact absurd hp hn⟩, fun _ _ _ => rfl⟩

theorem withFns (h : Touches ps Q s t) {x : Tab Fn} (hp : Part.fns ∈ ps := by decide) :
    Touches ps Q s { t with fns := x } :=
  h.trans ⟨⟨rfl, fun p hn => by cases p <;> first | rfl | exact absurd hp hn⟩, fun _ _ _ => rfl⟩

theorem withCores (h : Touches ps Q s t) {x : Tab Core} (hp : Part.cores ∈ ps := by decide) :
    Touches ps Q s { t with cores := x } :=
  h.trans ⟨⟨rfl, fun p hn => by cases p <;> first | rfl | exact absurd hp hn⟩, fun _ _ _ => rfl⟩

theorem withRopes (h : Touches ps Q s t) {x : Tab Rope} (hp : Part.ropes ∈ ps := by decide) :
    Touches ps Q s { t with ropes := x } :=
  h.trans ⟨⟨rfl, fun p hn => by cases p <;> first | rfl | exact absurd hp hn⟩, fun _ _ _ => rfl⟩

theorem withRtes (h : Touches ps Q s t) {x : Tab Rte} (hp : Part.rtes ∈ ps := by decide) :
    Touches ps Q s { t with rtes := x } :=
  h.trans ⟨⟨rfl, fun p hn => by cases p <;> first | rfl | exact absurd hp hn⟩, fun _ _ _ => rfl⟩

theorem withXes (h : Touches ps Q s t) {x : Tab Xe} (hp : Part.xes ∈ ps := by decide) :
    Touches ps Q s { t with xes := x } :=
  h.trans ⟨⟨rfl, fun p hn => by cases p <;> first | rfl | exact absurd hp hn⟩, fun _ _ _ => rfl⟩

theorem withMsgs (h : Touches ps Q s t) {x : Msgs} (hp : Part.msgs ∈ ps := by decide) :
    Touches ps Q s { t with msgs := x } :=
  h.trans ⟨⟨rfl, fun p hn => by cases p <;> first | rfl | exact absurd hp hn⟩, fun _ _ _ => rfl⟩

theorem withPorts (h : Touches ps Q s t) {x : Tab Port} (hp : Part.ports ∈ ps := by decide) :
    Touches ps Q s { t with ports := x } :=
  h.trans ⟨⟨rfl, fun p hn => by cases p <;> first | rfl | exact absurd hp hn⟩, fun _ _ _ => rfl⟩

theorem withSwitch (h : Touches ps Q s t) {x : Switch} (hp : Part.switch ∈ ps := by decide) :
    Touches ps Q s { t with switch := x } :=
  h.trans ⟨⟨rfl, fun p hn => by cases p <;> first | rfl | exact absurd hp hn⟩, fun _ _ _ => rfl⟩

theorem withQueues (h : Touches ps Q s t) {x : Tab CmdQ} (hp : Part.queues ∈ ps := by decide) :
    Touches ps Q s { t with queues := x } :=
  h.trans ⟨⟨rfl, fun p hn => by cases p <;> first | rfl | exact absurd hp hn⟩, fun _ _ _ => rfl⟩

theorem withTables (h : Touches ps Q s t) {x : Tables} (hp : Part.tables ∈ ps := by decide) :
    Touches ps Q s { t with tables := x } :=
  h.trans ⟨⟨rfl, fun p hn => by cases p <;> first | rfl | exact absurd hp hn⟩, fun _ _ _ => rfl⟩

theorem withPools (h : Touches ps Q s t) {x : Tab Pool} (hp : Part.pools ∈ ps := by decide) :
    Touches ps Q s { t with pools := x } :=
  h.trans ⟨⟨rfl, fun p hn => by cases p <;> first | rfl | exact absurd hp hn⟩, fun _ _ _ => rfl⟩

theorem withBelays (h : Touches ps Q s t) {x : Tab (Word × Word)} (hp : Part.belays ∈ ps := by decide) :
    Touches ps Q s { t with belays := x } :=
  h.trans ⟨⟨rfl, fun p hn => by cases p <;> first | rfl | exact absurd hp hn⟩, fun _ _ _ => rfl⟩

theorem withPf (h : Touches ps Q s t) {x : Tab PfDie} (hp : Part.pf ∈ ps := by decide) :
    Touches ps Q s { t with pf := x } :=
  h.trans ⟨⟨rfl, fun p hn => by cases p <;> first | rfl | exact absurd hp hn⟩, fun _ _ _ => rfl⟩

theorem withReads (h : Touches ps Q s t) {x : List ReadReq} (hp : Part.reads ∈ ps := by decide) :
    Touches ps Q s { t with reads := x } :=
  h.trans ⟨⟨rfl, fun p hn => by cases p <;> first | rfl | exact absurd hp hn⟩, fun _ _ _ => rfl⟩

theorem withHeldSigs (h : Touches ps Q s t) {x : List HeldSig} (hp : Part.heldSigs ∈ ps := by decide) :
    Touches ps Q s { t with heldSigs := x } :=
  h.trans ⟨⟨rfl, fun p hn => by cases p <;> first | rfl | exact absurd hp hn⟩, fun _ _ _ => rfl⟩

theorem withLockstep (h : Touches ps Q s t) {x : Tab LockStep} (hp : Part.lockstep ∈ ps := by decide) :
    Touches ps Q s { t with lockstep := x } :=
  h.trans ⟨⟨rfl, fun p hn => by cases p <;> first | rfl | exact absurd hp hn⟩, fun _ _ _ => rfl⟩

theorem withBc (h : Touches ps Q s t) {x : Basecamp} (hp : Part.bc ∈ ps := by decide) :
    Touches ps Q s { t with bc := x } :=
  h.trans ⟨⟨rfl, fun p hn => by cases p <;> first | rfl | exact absurd hp hn⟩, fun _ _ _ => rfl⟩

theorem withPcie (h : Touches ps Q s t) {x : Pcie} (hp : Part.pcie ∈ ps := by decide) :
    Touches ps Q s { t with pcie := x } :=
  h.trans ⟨⟨rfl, fun p hn => by cases p <;> first | rfl | exact absurd hp hn⟩, fun _ _ _ => rfl⟩

theorem withEvents (h : Touches ps Q s t) {x : Events} (hp : Part.events ∈ ps := by decide) :
    Touches ps Q s { t with events := x } :=
  h.trans ⟨⟨rfl, fun p hn => by cases p <;> first | rfl | exact absurd hp hn⟩, fun _ _ _ => rfl⟩

theorem withReadSeq (h : Touches ps Q s t) {x : BitVec 32} (hp : Part.readSeq ∈ ps := by decide) :
    Touches ps Q s { t with readSeq := x } :=
  h.trans ⟨⟨rfl, fun p hn => by cases p <;> first | rfl | exact absurd hp hn⟩, fun _ _ _ => rfl⟩

theorem withWrites (h : Touches ps Q s t) {x : List WriteReq} (hp : Part.writes ∈ ps := by decide) :
    Touches ps Q s { t with writes := x } :=
  h.trans ⟨⟨rfl, fun p hn => by cases p <;> first | rfl | exact absurd hp hn⟩, fun _ _ _ => rfl⟩

theorem withPins (h : Touches ps Q s t) {x : Pins} (hp : Part.pins ∈ ps := by decide) :
    Touches ps Q s { t with pins := x } :=
  h.trans ⟨⟨rfl, fun p hn => by cases p <;> first | rfl | exact absurd hp hn⟩, fun _ _ _ => rfl⟩

theorem withFresh (h : Touches ps Q s t) {x : Nat} (hp : Part.fresh ∈ ps := by decide) :
    Touches ps Q s { t with fresh := x } :=
  h.trans ⟨⟨rfl, fun p hn => by cases p <;> first | rfl | exact absurd hp hn⟩, fun _ _ _ => rfl⟩

/-! Two parts at once. -/

theorem withTablesReads (h : Touches ps Q s t) {x0 : Tables} {x1 : List ReadReq} (h0 : Part.tables ∈ ps := by decide) (h1 : Part.reads ∈ ps := by decide) :
    Touches ps Q s { t with tables := x0, reads := x1 } := (h.withTables (x := x0) h0).withReads (x := x1) h1

theorem withReadSeqReads (h : Touches ps Q s t) {x0 : BitVec 32} {x1 : List ReadReq} (h0 : Part.readSeq ∈ ps := by decide) (h1 : Part.reads ∈ ps := by decide) :
    Touches ps Q s { t with readSeq := x0, reads := x1 } := (h.withReadSeq (x := x0) h0).withReads (x := x1) h1

theorem withRtesXes (h : Touches ps Q s t) {x0 : Tab Rte} {x1 : Tab Xe} (h0 : Part.rtes ∈ ps := by decide) (h1 : Part.xes ∈ ps := by decide) :
    Touches ps Q s { t with rtes := x0, xes := x1 } := (h.withRtes (x := x0) h0).withXes (x := x1) h1

end Touches
end Sys2Proof.Machine
end

section
/-! Records (R387 to R391): how a window's next record runs, by what its command answers. -/

namespace Sys2Proof.Machine

open Sys2Proof

/-- The windows and the state registers are those of the state that has sent nothing yet. -/
theorem Quiet_of_out (s : State) : { s with out := [] } = Quiet s := rfl

section
variable {q op : Nat} {rec : Rec} {owner : Requester} {s u : State}

/-- The next record of a window runs its command (R388). -/
theorem runRecord_of_recordAt (h : RecordAt q op rec owner s) (f : Cmd) : runRecord (.window q) op f s = .next
    (match f (jobOf q rec owner) (Quiet s) with
      | .error (.need l h off) => askLender (cmdWho ((jobOf q rec owner).rope % 16)) l h off (Quiet s)
      | .error (.fault st _) => rejectRec q st (endAccess 544 st (Quiet s))
      | .ok (.reject st) => rejectRec q st (dropReads 544 (Quiet s))
      | .ok .later => Quiet s
      | .ok (.going t) => startRec q (dropReads 544 t)
      | .ok (.done t) => completed q rec t) := by
  obtain ⟨hq, hn, ho, hc, -, hk, hh, hw1, hw2⟩ := h
  have e1 : (queueOf q (Quiet s)).recs.find? (fun r => ! r.started) = some rec := hn
  have e2 : queueOwner q (Quiet s) = some owner := ho
  have e3 : (jobOf q rec owner).headerOk (Quiet s) = true := hh
  have e4 : (jobOf q rec owner).waitsHold (Quiet s) = true := Bool.and_eq_true_iff.2 ⟨hw1, hw2⟩
  have e5 : (jobOf q rec owner).op = op := hc
  have e6 : knownOp op = true := decide_eq_true hk
  have e7 : (CmdSrc.window q).wf = true := decide_eq_true hq
  rw [runRecord, runIf, e7, if_pos rfl, Quiet_of_out]
  unfold runWindow
  simp only [e1, e2]
  change Host.Outcome.next (if (! knownOp (jobOf q rec owner).op) = true then _ else if (jobOf q rec owner).op ≠ op then _ else
    if (! (jobOf q rec owner).headerOk (Quiet s)) = true then _ else if (! (jobOf q rec owner).waitsHold (Quiet s)) = true then _ else _) = _
  simp only [e5, e6, e3, e4, Bool.not_true, Bool.false_eq_true, ne_eq, not_true_eq_false, if_false]
  rfl

theorem runRecord_done (h : RecordAt q op rec owner s) {f : Cmd} (hf : f (jobOf q rec owner) (Quiet s) = .ok (.done u)) :
    runRecord (.window q) op f s = .next (completed q rec u) := by
  rw [runRecord_of_recordAt h, hf]

theorem runRecord_going (h : RecordAt q op rec owner s) {f : Cmd} (hf : f (jobOf q rec owner) (Quiet s) = .ok (.going u)) :
    runRecord (.window q) op f s = .next (startRec q (dropReads 544 u)) := by
  rw [runRecord_of_recordAt h, hf]

end

/-! What a command reads of its record. -/

@[simp] theorem jobOf_fld (q : Nat) (rec : Rec) (owner : Requester) (off n : Nat) :
    (jobOf q rec owner).fld off n = recField rec off n := rfl

@[simp] theorem jobOf_rope (q : Nat) (rec : Rec) (owner : Requester) : (jobOf q rec owner).rope = recField rec 40 1 := rfl

@[simp] theorem jobOf_byInstr (q : Nat) (rec : Rec) (owner : Requester) : (jobOf q rec owner).byInstr = none := rfl

@[simp] theorem jobOf_owner (q : Nat) (rec : Rec) (owner : Requester) : (jobOf q rec owner).owner = owner := rfl

@[simp] theorem jobOf_waiter (q : Nat) (rec : Rec) (owner : Requester) : (jobOf q rec owner).waiter = .window q rec.seq := rfl

@[simp] theorem jobOf_bytes (q : Nat) (rec : Rec) (owner : Requester) : (jobOf q rec owner).bytes = rec.bytes := rfl

theorem zeroBody_of_bodyZero {q lo hi : Nat} {rec : Rec} {owner : Requester} (h : bodyZero rec lo hi) :
    (jobOf q rec owner).zeroBody lo hi = true := by
  refine List.all_eq_true.2 fun b hb => decide_eq_true ?_
  obtain ⟨i, hi, rfl⟩ := List.mem_iff_getElem.1 hb
  simp only [List.length_take, List.length_drop, jobOf_bytes] at hi
  have h0 := h (lo + i) (by omega) (by omega)
  rw [List.getD_eq_getElem _ _ (by omega)] at h0
  simpa [List.getElem_take, List.getElem_drop] using h0

theorem job_mayName {q r : Nat} {rec : Rec} {owner : Requester} {s : State} (h : mayName owner r s) :
    (jobOf q rec owner).mayName r s = true := by
  obtain ⟨hr, hv⟩ := h
  cases owner with
  | vf v => simp [Job.mayName, Job.ownRope, hr, hv v rfl]
  | pf => simp [Job.mayName, Job.ownRope, hr]
  | manager => simp [Job.mayName, Job.ownRope, hr]

/-- A window's read of host memory that is not poisoned. -/
theorem job_read {q a n : Nat} {rec : Rec} {owner : Requester} {s : State} (h : s.mem.anyPoison (hostPlace a) n = false) :
    (jobOf q rec owner).read a n s = .ok (hostBytes s a n) := by
  simp [Job.read, h]

end Sys2Proof.Machine
end

section
/-! Device belays, and the clusters their signals wake (R262, R436). -/

namespace Sys2Proof.Machine

open Sys2Proof

/-- The offsets of BC_CLUSTER and below: the basecamp's block. -/
abbrev InBasecamp (o : Nat) : Prop := 0x100000 ≤ o ∧ o < 0x102000

/-- Waking a cluster for a satisfied wait writes its BC_CLUSTER. -/
theorem wakeWaiting_touches (s : State) : Touches [.regs] InBasecamp s (wakeWaiting s) := by
  refine (Touches.refl _ _ s).forList fun e _ s => ?_
  split
  · next h =>
    have hlt : e.1 < 512 := by simp at h; omega
    exact (Touches.refl _ _ s).setF (by simp [InBasecamp, regOff, regDesc, dimOff]; omega)
  · exact Touches.refl _ _ s

@[simp] theorem wakeWaiting_belays (s : State) : (wakeWaiting s).belays = s.belays :=
  (wakeWaiting_touches s).only.2 .belays (by decide)

theorem setDevBelay_touches (i : Nat) (v : Word) (s : State) : Touches [.regs, .belays] InBasecamp s (setDevBelay i v s) :=
  ((Touches.refl _ _ s).withBelays).andThen (wakeWaiting_touches _) (by decide) (fun _ => id)

theorem incDevBelay_touches (i : Nat) (s : State) : Touches [.regs, .belays] InBasecamp s (incDevBelay i s) :=
  ((Touches.refl _ _ s).withBelays).andThen (wakeWaiting_touches _) (by decide) (fun _ => id)

@[simp] theorem devBelay_setDevBelay_same (i : Nat) (v : Word) (s : State) : devBelay i (setDevBelay i v s) = v := by
  simp [devBelay, setDevBelay]

theorem devBelay_setDevBelay_other {i j : Nat} (v : Word) (s : State) (h : j ≠ i) :
    devBelay j (setDevBelay i v s) = devBelay j s := by
  simp [devBelay, setDevBelay, tget_tset_other _ _ _ _ h]

theorem zeroBelays_touches (first n : Nat) (s : State) : Touches [.regs, .belays] InBasecamp s (zeroBelays first n s) :=
  (Touches.refl _ _ s).forN fun i _ s => setDevBelay_touches (first + i) 0 s

/-- A range of device belays after it is zeroed, and the others. -/
theorem devBelay_zeroBelays (first n j : Nat) (s : State) :
    devBelay j (zeroBelays first n s) = if first ≤ j ∧ j < first + n then 0 else devBelay j s := by
  induction n with
  | zero =>
    rw [if_neg (by omega)]
    rfl
  | succ n ih =>
    rw [zeroBelays, forN_succ, ← zeroBelays]
    by_cases h : j = first + n
    · rw [h, devBelay_setDevBelay_same, if_pos (by omega)]
    · rw [devBelay_setDevBelay_other _ _ h, ih]
      exact if_congr (by omega) rfl rfl

end Sys2Proof.Machine
end

section
/-! Creating a rope (R396, R397). -/

namespace Sys2Proof.Machine

open Sys2Proof

/-! Memory outside the placement table. -/

theorem plainMemory_of_mem_eq {s t : State} (h : t.mem = s.mem) : PlainMemory s t := fun _ _ => by rw [h]; exact ⟨rfl, rfl⟩

theorem PlainMemory_trans {s t u : State} (h : PlainMemory s t) (g : PlainMemory t u) : PlainMemory s u := fun p hp =>
  ⟨(g p hp).1.trans (h p hp).1, (g p hp).2.trans (h p hp).2⟩

/-- Taking poison away leaves every word that does not lie whole in the range. -/
theorem Mem.poisoned_unpoison_of_not_whole (m : Mem) {p n q : Nat} (h : wholeWord p n (q / 16) = false) :
    (m.unpoison p n).poisoned q = m.poisoned q := by
  rw [Bool.eq_iff_iff]
  simp [Mem.poisoned, Mem.unpoison, List.mem_filter, h]

/-- Cleaning entries of the placement table changes its own words only (log 43). -/
theorem cleanEntries_plainMemory (first n : Nat) (s : State) : PlainMemory s (cleanEntries first n s) := fun p hp => by
  refine ⟨rfl, Mem.poisoned_unpoison_of_not_whole _ ?_⟩
  simp only [hubWord] at hp
  simp [wholeWord, hubWord]
  omega

theorem clearTables_plainMemory (r base size : Nat) (s : State) : PlainMemory s (clearTables r base size s) :=
  PlainMemory_trans (PlainMemory_trans (cleanEntries_plainMemory (262144 + base) size s) (cleanEntries_plainMemory base size _))
    (plainMemory_of_mem_eq rfl)

/-! What creation touches. -/

/-- The offsets that creation writes after the registers of the rope itself. -/
def ClearedByCreate (o : Nat) : Prop := o < 0x200000 ∨ o = 0x380000 ∨ 0x400000 ≤ o

theorem clearTables_touches (r base size : Nat) (s : State) :
    Touches [.regs, .tables, .mem] ClearedByCreate s (clearTables r base size s) := by
  have hq : ∀ {ps : List Part} {u : State}, Touches ps ClearedByCreate s u → Part.regs ∈ ps → Touches ps ClearedByCreate s
      (setBank 0 r 0 (setPending 0 r false (setBank 1 r 0 (setPending 1 r false u)))) := fun h hp =>
    (((h.setF (Or.inr (Or.inr (by decide))) hp).setF (Or.inr (Or.inr (by decide))) hp).setF (Or.inr (Or.inl rfl)) hp).setF
      (Or.inr (Or.inl rfl)) hp
  exact hq (((Touches.refl _ _ s).withMem.withMem).withTables) (by decide)

theorem clearCounts_touches (r : Nat) (s : State) : Touches [.regs, .latch] ClearedByCreate s (clearCounts r s) := by
  have hq : ∀ {x : Reg} {ix : List Nat}, 0x400000 ≤ (regDesc x).base → ClearedByCreate (regOff x ix) := fun h =>
    Or.inr (Or.inr (le_trans h (Nat.le_add_right _ _)))
  refine (((Touches.refl _ _ s).forN fun d _ u => ?_).forN fun d _ u => ?_).forN fun q _ u => ?_
  · exact (Touches.refl _ _ u).withLatch
  · exact (((((Touches.refl _ _ u).setR (hq (by decide))).setR (hq (by decide))).setR (hq (by decide))).setR
      (hq (by decide))).setR (hq (by decide))
  · exact (Touches.refl _ _ u).setR (hq (by decide))

end Sys2Proof.Machine
end

section
/-! ROPE_CREATE. -/

namespace Sys2Proof.Machine

open Sys2Proof

theorem leNat_lt (bs : List Byte) : leNat bs < 256 ^ bs.length := by
  induction bs with
  | nil => simp [leNat]
  | cons b t ih =>
    have := b.isLt
    simp only [leNat, List.length_cons, pow_succ]
    omega

theorem fieldAt_lt (bs : List Byte) (off n : Nat) : fieldAt bs off n < 256 ^ n :=
  (leNat_lt _).trans_le (Nat.pow_le_pow_right (by decide) (by simp))

/-- A rope's registers after creation, field by field; the client's count is as before. -/
theorem ropeRegs_spec (r job client : Nat) (d : List Byte) (s : State) (hr : r < 16) (hc : client < 256) : let t := ropeRegs r job client d s
    ropeState r t = RopeSt.ready ∧ ropeJob r t = job % 2 ^ 12 ∧ getF F.CMD_ROPE_STATE_CLIENT [r] t = client % 2 ^ 8 ∧
    getF F.CMD_ROPE_STATE_VF [r] t = fieldAt d 9 1 % 2 ^ 5 ∧ getF F.CMD_ROPE_STATE_REPRO [r] t = fieldAt d 8 1 % 2 ^ 1 ∧
    getR .CMD_ROPE_CLUSTERS [r] t = BitVec.ofNat 64 (fieldAt d 0 8) ∧
    getF F.RTE_PT_REGION_BASE [r] t = fieldAt d 16 4 % 2 ^ 18 ∧ getF F.RTE_PT_REGION_SIZE [r] t = fieldAt d 20 4 % 2 ^ 19 ∧
    getF F.CMD_CLIENT_COUNT [client] t = getF F.CMD_CLIENT_COUNT [client] s := by
  simp (disch := first | (simp [regOff, regDesc, dimOff]; done) | (simp [regOff, regDesc, dimOff]; omega))
    [ropeRegs, ropeState, ropeJob, setRopeState, getF_setF_same, getF_setF_beside, getF_setF_other, getR_setF_other,
      getF_setR_other]

/-- What the device keeps of a rope created from descriptor `d` (R397). -/
def createdRope (d : List Byte) : Rope where
  rank := fieldAt d 10 2
  ranks := fieldAt d 12 4
  ptBase := fieldAt d 16 4
  ptSize := fieldAt d 20 4
  belayFirst := fieldAt d 24 2
  belayCount := fieldAt d 26 2
  tmapPages := fieldAt d 28 4
  seed := BitVec.ofNat 64 (fieldAt d 32 8)
  seed0 := BitVec.ofNat 64 (fieldAt d 32 8)
  nctrl := BitVec.ofNat 64 (fieldAt d 40 8) &&& nctrlMask
  nctrl0 := BitVec.ofNat 64 (fieldAt d 40 8) &&& nctrlMask

/-- Creation up to its tables. -/
def createdTables (r job client : Nat) (d : List Byte) (s : State) : State :=
  dropSlices r (clearTables r (fieldAt d 16 4) (fieldAt d 20 4) (modRope r (fun _ => createdRope d) (ropeRegs r job client d s)))

/-- Creation up to its client's COUNT. -/
def createdUncounted (r job client : Nat) (d : List Byte) (s : State) : State :=
  zeroBelays (fieldAt d 24 2) (fieldAt d 26 2) (clearCounts r (createdTables r job client d s))

section
variable (r job client : Nat) (d : List Byte) (s : State)

theorem createRope_eq : createRope r job client d s = addF F.CMD_CLIENT_COUNT [client] 1 (createdUncounted r job client d s) := by
  simp only [createRope, createdUncounted, createdTables, createdRope]

theorem ropeRegs_touches : Touches [.regs] (fun _ => True) s (ropeRegs r job client d s) := by
  unfold ropeRegs
  repeat refine Touches.setF ?_ trivial
  exact (Touches.refl _ _ s).setR trivial

theorem ropeRegs_ropes : (ropeRegs r job client d s).ropes = s.ropes := (ropeRegs_touches r job client d s).only.2 .ropes (by decide)

theorem ropeRegs_mem : (ropeRegs r job client d s).mem = s.mem := (ropeRegs_touches r job client d s).only.2 .mem (by decide)

theorem ropeRegs_belays : (ropeRegs r job client d s).belays = s.belays :=
  (ropeRegs_touches r job client d s).only.2 .belays (by decide)

theorem clearTables_ropes (base size : Nat) : (clearTables r base size s).ropes = s.ropes :=
  (clearTables_touches r base size s).only.2 .ropes (by decide)

theorem dropSlices_mem : (dropSlices r s).mem = s.mem := rfl

theorem dropSlices_ropes : (dropSlices r s).ropes = s.ropes := rfl

theorem createdTables_ropes : (createdTables r job client d s).ropes = tmod {} s.ropes r (fun _ => createdRope d) := by
  rw [createdTables, dropSlices_ropes, clearTables_ropes, modRope_ropes, ropeRegs_ropes]

theorem createdTables_plainMemory : PlainMemory s (createdTables r job client d s) :=
  have h0 : PlainMemory s (modRope r (fun _ => createdRope d) (ropeRegs r job client d s)) :=
    plainMemory_of_mem_eq ((modRope_mem ..).trans (ropeRegs_mem ..))
  PlainMemory_trans (PlainMemory_trans h0 (clearTables_plainMemory r _ _ _)) (plainMemory_of_mem_eq (dropSlices_mem ..))

theorem createdTables_touches : Touches [.ropes, .regs, .tables, .mem, .rtes] ClearedByCreate (ropeRegs r job client d s)
    (createdTables r job client d s) :=
  (((Touches.refl _ _ _).withRopes).andThen (clearTables_touches r _ _ _) (by decide) fun _ => id).withRtes

/-- The last part of creation, up to COUNT. -/
theorem createdUncounted_after_tables : Touches [.regs, .latch, .belays] ClearedByCreate (createdTables r job client d s)
    (createdUncounted r job client d s) :=
  Touches.andThen (R := InBasecamp) ((clearCounts_touches r _).mono (by decide) fun _ => id) (zeroBelays_touches _ _ _) (by decide)
    fun _ ho => Or.inl (ho.2.trans_le (by decide))

theorem createdUncounted_touches : Touches [.ropes, .regs, .tables, .mem, .rtes, .latch, .belays] ClearedByCreate
    (ropeRegs r job client d s) (createdUncounted r job client d s) :=
  ((createdTables_touches r job client d s).mono (by decide) fun _ => id).andThen
    (createdUncounted_after_tables r job client d s) (by decide) fun _ => id

theorem createdUncounted_ropes : (createdUncounted r job client d s).ropes = (createdTables r job client d s).ropes :=
  (createdUncounted_after_tables r job client d s).only.2 .ropes (by decide)

theorem createdUncounted_mem : (createdUncounted r job client d s).mem = (createdTables r job client d s).mem :=
  (createdUncounted_after_tables r job client d s).only.2 .mem (by decide)

theorem createRope_ropes : (createRope r job client d s).ropes = tmod {} s.ropes r (fun _ => createdRope d) := by
  rw [createRope_eq, addF_ropes, createdUncounted_ropes, createdTables_ropes]

theorem createRope_plainMemory : PlainMemory s (createRope r job client d s) := by
  refine PlainMemory_trans (createdTables_plainMemory r job client d s) (plainMemory_of_mem_eq ?_)
  rw [createRope_eq, addF_mem, createdUncounted_mem]

theorem createRope_touches : Touches [.ropes, .regs, .tables, .mem, .rtes, .latch, .belays] (fun _ => True) s
    (createRope r job client d s) := by
  rw [createRope_eq]
  exact (((ropeRegs_touches r job client d s).mono (by decide) fun _ => id).andThen
    (createdUncounted_touches r job client d s) (by decide) fun _ _ => trivial).addF trivial

theorem devBelay_congr {s t : State} (i : Nat) (h : t.belays = s.belays) : devBelay i t = devBelay i s := by
  rw [devBelay, devBelay, h]

theorem devBelay_createRope (i : Nat) : devBelay i (createRope r job client d s) =
    if fieldAt d 24 2 ≤ i ∧ i < fieldAt d 24 2 + fieldAt d 26 2 then 0 else devBelay i s := by
  rw [createRope_eq, devBelay_congr i (addF_belays ..), createdUncounted, devBelay_zeroBelays,
    devBelay_congr i ((clearCounts_touches r _).only.2 .belays (by decide)),
    devBelay_congr i ((createdTables_touches r job client d s).only.2 .belays (by decide)), devBelay_congr i (ropeRegs_belays ..)]

end

/-- The fields a good descriptor puts into registers fit there (R396). -/
theorem ropeDescOk_fits {d : List Byte} (h : ropeDescOk d = true) :
    fieldAt d 8 1 < 2 ∧ fieldAt d 9 1 < 2 ^ 5 ∧ fieldAt d 20 4 < 2 ^ 19 := by
  simp only [ropeDescOk, Bool.and_eq_true, decide_eq_true_eq] at h
  omega

section
variable {r job client : Nat} {d : List Byte} {s : State}

/-- Creation leaves what it has put into the rope's registers. -/
theorem createRope_getR {x : Reg} (hr : r < 16) (hc : client < 256) (hx : x ∈ [Reg.CMD_ROPE_STATE, .CMD_ROPE_CLUSTERS, .RTE_PT_REGION]) :
    getR x [r] (createRope r job client d s) = getR x [r] (ropeRegs r job client d s) := by
  have hq : ¬ ClearedByCreate (regOff x [r]) ∧ regOff x [r] ≠ regOff .CMD_CLIENT [client] := by
    simp only [List.mem_cons, List.not_mem_nil, or_false] at hx
    rcases hx with rfl | rfl | rfl <;> simp [ClearedByCreate, regOff, regDesc, dimOff] <;> omega
  rw [createRope_eq, addF, getR_setF_other _ _ hq.2]
  exact (createdUncounted_touches r job client d s).getR_eq hq.1

theorem createRope_getF {f : Fld} (hr : r < 16) (hc : client < 256) (hx : f.reg ∈ [Reg.CMD_ROPE_STATE, .CMD_ROPE_CLUSTERS, .RTE_PT_REGION]) :
    getF f [r] (createRope r job client d s) = getF f [r] (ropeRegs r job client d s) := by
  rw [getF, getF, createRope_getR hr hc hx]

/-- The registers of a rope just created (R397). -/
theorem createRope_regs (hr : r < 16) (hj : job < 4096) (hc : client < 256) (hd : ropeDescOk d = true) :
    let u := createRope r job client d s
    ropeState r u = RopeSt.ready ∧ ropeJob r u = job ∧ getF F.CMD_ROPE_STATE_CLIENT [r] u = client ∧
    getF F.CMD_ROPE_STATE_VF [r] u = fieldAt d 9 1 ∧ getF F.CMD_ROPE_STATE_REPRO [r] u = fieldAt d 8 1 ∧
    getR .CMD_ROPE_CLUSTERS [r] u = BitVec.ofNat 64 (fieldAt d 0 8) ∧
    getF F.RTE_PT_REGION_BASE [r] u = fieldAt d 16 4 % 2 ^ 18 ∧ getF F.RTE_PT_REGION_SIZE [r] u = fieldAt d 20 4 := by
  obtain ⟨h1, h2, h3, h4, h5, h6, h7, h8, -⟩ := ropeRegs_spec r job client d s hr hc
  obtain ⟨hrepro, hvf, hsize⟩ := ropeDescOk_fits hd
  refine ⟨(createRope_getF hr hc (by decide)).trans h1, (createRope_getF hr hc (by decide)).trans (h2.trans (Nat.mod_eq_of_lt hj)),
    (createRope_getF hr hc (by decide)).trans (h3.trans (Nat.mod_eq_of_lt hc)),
    (createRope_getF hr hc (by decide)).trans (h4.trans (Nat.mod_eq_of_lt hvf)),
    (createRope_getF hr hc (by decide)).trans (h5.trans (Nat.mod_eq_of_lt hrepro)), (createRope_getR hr hc (by decide)).trans h6,
    (createRope_getF hr hc (by decide)).trans h7, (createRope_getF hr hc (by decide)).trans (h8.trans (Nat.mod_eq_of_lt hsize))⟩

/-- The client's COUNT (R410). -/
theorem createRope_count (hr : r < 16) (hc : client < 256) (hn : getF F.CMD_CLIENT_COUNT [client] s < 16) :
    getF F.CMD_CLIENT_COUNT [client] (createRope r job client d s) = getF F.CMD_CLIENT_COUNT [client] s + 1 := by
  obtain ⟨-, -, -, -, -, -, -, -, h9⟩ := ropeRegs_spec r job client d s hr hc
  have hq : ¬ ClearedByCreate (regOff .CMD_CLIENT [client]) := by
    simp [ClearedByCreate, regOff, regDesc, dimOff]; omega
  have hb := (createdUncounted_touches r job client d s).getF_eq (f := F.CMD_CLIENT_COUNT) hq
  rw [createRope_eq, addF, getF_setF_same _ _ _ _ (by decide) (by decide), hb, h9, Nat.mod_eq_of_lt (by simp; omega)]

end

end Sys2Proof.Machine
end

section
/-! ROPE_START (R268, R399). -/

namespace Sys2Proof.Machine

open Sys2Proof

/-! Waking clusters. -/

theorem wakeActive_touches (s : State) : Touches [.regs] InBasecamp s (wakeActive s) := by
  unfold wakeActive
  split
  · exact (Touches.refl _ _ s).setF (by decide)
  · exact Touches.refl _ _ s

theorem freshCluster_touches (q : Nat) (s : State) : Touches [.mem, .cores] (fun _ => False) s (freshCluster q s) :=
  ((Touches.refl _ _ s).withMem).forN fun _ _ u => (Touches.refl _ _ u).withCores

theorem wakeCluster_touches {q : Nat} (hq : q < 64) (s : State) :
    Touches [.regs, .mem, .cores] InBasecamp s (wakeCluster q s) := by
  unfold wakeCluster
  split
  · exact Touches.refl _ _ s
  · refine Touches.andThen (Touches.setF ?_ (by simp [InBasecamp, regOff, regDesc, dimOff]; omega)) (wakeActive_touches _) (by decide)
      (fun _ => id)
    split
    · exact (freshCluster_touches q s).mono (by decide) (fun _ => False.elim)
    · exact Touches.refl _ _ s

/-- Waking a cluster leaves the cores of the others. -/
theorem coreOf_freshCluster_other {q c : Nat} (h : c / 8 ≠ q) (s : State) : coreOf c (freshCluster q s) = coreOf c s := by
  unfold freshCluster
  refine forN_rel (R := fun a b => coreOf c b = coreOf c a) (fun _ => rfl) (fun _ _ _ h g => g.trans h) (fun k hk u => ?_) _
  exact coreOf_modCore_other _ _ (by omega)

theorem coreOf_wakeCluster_other {q c : Nat} (h : c / 8 ≠ q) (s : State) : coreOf c (wakeCluster q s) = coreOf c s := by
  unfold wakeCluster
  split
  · rfl
  · rw [coreOf_congr c ((wakeActive_touches _).only.2 .cores (by decide)), coreOf_congr c (setF_cores ..)]
    split
    · exact coreOf_freshCluster_other h s
    · rfl

theorem clusterState_wakeActive (p : Nat) (s : State) : clusterState p (wakeActive s) = clusterState p s := by
  unfold wakeActive
  split
  · exact getF_setF_other _ _ (by simp [regOff, regDesc, dimOff]; omega)
  · rfl

/-- A cluster just woken runs. -/
theorem clusterState_wakeCluster_same (q : Nat) (s : State) : clusterState q (wakeCluster q s) = Cl.running := by
  unfold wakeCluster
  split
  · assumption
  · rw [clusterState_wakeActive, clusterState, getF_setF_same _ _ _ _ (by decide) (by decide)]
    rfl

theorem clusterState_wakeCluster_other {p q : Nat} (h : p ≠ q) (s : State) :
    clusterState p (wakeCluster q s) = clusterState p s := by
  unfold wakeCluster
  split
  · rfl
  · rw [clusterState_wakeActive, clusterState, getF_setF_other _ _ (by simp [regOff, regDesc, dimOff]; omega)]
    split
    · exact (freshCluster_touches q s).getF_eq id
    · rfl

/-- Clusters woken one after the other run, and nothing of other clusters changes. -/
theorem wakeClusters_spec (l : List Nat) (s : State) : let t := forList l s wakeCluster
    (∀ p ∈ l, clusterState p t = Cl.running) ∧ ∀ c, c / 8 ∉ l → coreOf c t = coreOf c s := by
  have hrun : ∀ (l : List Nat) (p : Nat) (s : State), clusterState p s = Cl.running →
      clusterState p (forList l s wakeCluster) = Cl.running := fun l p s =>
    forList_inv (P := fun u => clusterState p u = Cl.running) fun q _ u hu => by
      by_cases h : p = q
      · rw [h]; exact clusterState_wakeCluster_same q u
      · rw [clusterState_wakeCluster_other h, hu]
  refine ⟨?_, fun c hc => ?_⟩
  · induction l generalizing s with
    | nil => simp
    | cons q l ih =>
      intro p hp
      rw [forList_cons]
      rcases List.mem_cons.1 hp with rfl | hp
      · exact hrun l p _ (clusterState_wakeCluster_same p s)
      · exact ih _ p hp
  · refine forList_rel (R := fun a b => coreOf c b = coreOf c a) (fun _ => rfl) (fun _ _ _ h g => g.trans h) (fun q hq u => ?_) s
    exact coreOf_wakeCluster_other (fun h => hc (h ▸ hq)) u

/-! The clusters and cores of a rope. -/

theorem mem_ropeClusters_lt {r q : Nat} {s : State} (h : q ∈ ropeClusters r s) : q < 64 := by
  unfold ropeClusters at h
  split at h
  · exact absurd h List.not_mem_nil
  · exact List.mem_range.1 (List.mem_of_mem_filter h)

/-- Registers beyond those of the ropes and of the identity do not decide which clusters and cores a rope has. -/
theorem ropeClusters_congr {r : Nat} {s t : State} (hs : ropeState r t = ropeState r s)
    (hc : getR .CMD_ROPE_CLUSTERS [r] t = getR .CMD_ROPE_CLUSTERS [r] s) : ropeClusters r t = ropeClusters r s := by
  simp only [ropeClusters, hs, hc]

theorem ropeClusters_of_touches {r : Nat} {ps : List Part} {s t : State} (h : Touches ps InBasecamp s t) :
    ropeClusters r t = ropeClusters r s := by
  have hq : ∀ x, x = Reg.CMD_ROPE_STATE ∨ x = .CMD_ROPE_CLUSTERS → ¬ InBasecamp (regOff x [r]) := by
    rintro x (rfl | rfl) <;> simp [InBasecamp, regOff, regDesc, dimOff] <;> omega
  exact ropeClusters_congr (h.getF_eq (hq _ (Or.inl rfl))) (h.getR_eq (hq _ (Or.inr rfl)))

theorem coreEnabled_of_touches {c : Nat} (hc : c < 512) {ps : List Part} {s t : State} (h : Touches ps InBasecamp s t) :
    coreEnabled c t = coreEnabled c s := by
  rw [coreEnabled, coreEnabled, h.getR_eq (by decide), h.getR_eq (by simp [InBasecamp, regOff, regDesc, dimOff]; omega)]

theorem ropeCores_of_touches {r : Nat} {ps : List Part} {s t : State} (h : Touches ps InBasecamp s t) :
    ropeCores r t = ropeCores r s := by
  unfold ropeCores
  rw [ropeClusters_of_touches h]
  refine List.flatMap_congr fun q hq => List.filter_congr fun c hc => ?_
  obtain ⟨k, hk, rfl⟩ := List.mem_map.1 hc
  have := mem_ropeClusters_lt hq
  have := List.mem_range.1 hk
  exact coreEnabled_of_touches (by omega) h

/-- The cores of a rope lie in its clusters. -/
theorem ropeCores_cluster {r c : Nat} {s : State} (h : c ∈ ropeCores r s) : c / 8 ∈ ropeClusters r s := by
  obtain ⟨q, hq, hc⟩ := List.mem_flatMap.1 h
  obtain ⟨k, hk, rfl⟩ := List.mem_map.1 (List.mem_of_mem_filter hc)
  have := List.mem_range.1 hk
  rwa [show (q * 8 + k) / 8 = q by omega]

/-! Starting. -/

/-- Cores given one value each, one after the other. -/
theorem coreOf_forList_modCore (l : List Nat) (v : Core) (c : Nat) (s : State) :
    coreOf c (forList l s (fun c => modCore c (fun _ => v))) = if c ∈ l then v else coreOf c s := by
  induction l generalizing s with
  | nil => rfl
  | cons e l ih =>
    rw [forList_cons, ih]
    by_cases hl : c ∈ l
    · rw [if_pos hl, if_pos (List.mem_cons_of_mem _ hl)]
    · rw [if_neg hl]
      by_cases he : c = e
      · rw [he, coreOf_modCore_same, if_pos List.mem_cons_self]
      · rw [coreOf_modCore_other _ _ he, if_neg (by simp [he, hl])]

theorem startCores_touches (r pc : Nat) (s : State) : Touches [.cores] (fun _ => False) s (startCores r pc s) :=
  (Touches.refl _ _ s).forList fun _ _ u => (Touches.refl _ _ u).withCores

/-- What `startRope` makes of what the device keeps of the rope. -/
def startedRope (endB : Option Nat) (k : Rope) : Rope :=
  { k with endBelay := endB, seed := k.seed0, nctrl := k.nctrl0, stop := none, cycles := [] }

/-- A rope before its cores start. -/
def rousedRope (r : Nat) (endB : Option Nat) (s : State) : State :=
  modRope r (startedRope endB) (forList (ropeClusters r s) s wakeCluster)

theorem startRope_eq (r pc : Nat) (endB : Option Nat) (s : State) :
    startRope r pc endB s = setRopeState r RopeSt.running (startCores r pc (rousedRope r endB s)) := rfl

section
variable (r pc : Nat) (endB : Option Nat) (s : State)

theorem wakeRope_touches : Touches [.regs, .mem, .cores] InBasecamp s (forList (ropeClusters r s) s wakeCluster) :=
  (Touches.refl _ _ s).forList fun _ hq u => wakeCluster_touches (mem_ropeClusters_lt hq) u

theorem rousedRope_touches : Touches [.ropes, .regs, .mem, .cores] InBasecamp s (rousedRope r endB s) :=
  Touches.withRopes ((wakeRope_touches r s).mono (by decide) fun _ => id)

theorem rousedRope_ropes : (rousedRope r endB s).ropes = tmod {} s.ropes r (startedRope endB) := by
  have h : (forList (ropeClusters r s) s wakeCluster).ropes = s.ropes := (wakeRope_touches r s).only.2 .ropes (by decide)
  rw [rousedRope, modRope_ropes, h]

theorem startRope_ropes : (startRope r pc endB s).ropes = tmod {} s.ropes r (startedRope endB) := by
  have h : (startCores r pc (rousedRope r endB s)).ropes = (rousedRope r endB s).ropes :=
    (startCores_touches r pc _).only.2 .ropes (by decide)
  rw [startRope_eq, setRopeState, setF_ropes, h, rousedRope_ropes]

theorem startRope_touches : Touches [.ropes, .regs, .mem, .cores] (fun _ => True) s (startRope r pc endB s) :=
  Touches.setF (((rousedRope_touches r endB s).mono (by decide) fun _ _ => trivial).andThen (startCores_touches r pc _) (by decide)
    fun _ _ => trivial) trivial

theorem ropeState_startRope : ropeState r (startRope r pc endB s) = RopeSt.running := by
  rw [startRope_eq, ropeState, setRopeState, getF_setF_same _ _ _ _ (by decide) (by decide)]
  rfl

theorem clusterState_startRope {p : Nat} (hp : p ∈ ropeClusters r s) : clusterState p (startRope r pc endB s) = Cl.running := by
  have hlt := mem_ropeClusters_lt hp
  have h1 : clusterState p (startRope r pc endB s) = clusterState p (startCores r pc (rousedRope r endB s)) :=
    getF_setF_other _ _ (by simp [regOff, regDesc, dimOff]; omega)
  have h2 : clusterState p (startCores r pc (rousedRope r endB s)) = clusterState p (rousedRope r endB s) :=
    (startCores_touches r pc _).getF_eq id
  rw [h1, h2]
  exact (wakeClusters_spec (ropeClusters r s) s).1 p hp

theorem coreOf_startRope (c : Nat) : coreOf c (startRope r pc endB s) =
    if c ∈ ropeCores r s then { pc := BitVec.ofNat 48 pc, running := true } else coreOf c (rousedRope r endB s) := by
  rw [startRope_eq, setRopeState, coreOf_congr c (setF_cores ..), startCores, ropeCores_of_touches (rousedRope_touches r endB s)]
  exact coreOf_forList_modCore _ _ c _

theorem coreOf_rousedRope_other {c : Nat} (h : c / 8 ∉ ropeClusters r s) : coreOf c (rousedRope r endB s) = coreOf c s :=
  (wakeClusters_spec (ropeClusters r s) s).2 c h

end

end Sys2Proof.Machine
end

section
/-! NOP_COMMAND, ROPE_CREATE and ROPE_START from a window. -/

namespace Sys2Proof.Machine

open Sys2Proof

section
variable {q : Nat} {rec : Rec} {owner : Requester} {s : State}

theorem recField_lt_256 (rec : Rec) (off : Nat) : recField rec off 1 < 256 := fieldAt_lt rec.bytes off 1

theorem nopCommand_completes (h : RecordAt q 0x01 rec owner s) (hm : mayName owner (recField rec 40 1) s)
    (hz : bodyZero rec 41 64) : exec (.nopCommand (.window q)) s = .next (completed q rec (Quiet s)) := by
  refine runRecord_done h ?_
  have hn : (jobOf q rec owner).mayName (recField rec 40 1) (Quiet s) = true := job_mayName (s := Quiet s) hm
  simp [cmdNop, zeroBody_of_bodyZero hz, hn]

theorem ropeCreate_completes (h : RecordAt q 0x02 rec owner s) (ho : owner = .pf) (hr : recField rec 40 1 < 16)
    (hs : ropeState (recField rec 40 1) s = RopeSt.none) (hj : recField rec 42 2 < 4096) (hz : bodyZero rec 50 64)
    (hp : s.mem.anyPoison (hostPlace (recField rec 44 6)) 64 = false)
    (hd : ropeDescOk (hostBytes s (recField rec 44 6) 64) = true)
    (hf : ropeDescFree (recField rec 42 2) (hostBytes s (recField rec 44 6) 64) s = true)
    (hc : getF F.CMD_CLIENT_COUNT [recField rec 41 1] s < clientLimit (recField rec 41 1) s) :
    exec (.ropeCreate (.window q)) s = .next (completed q rec ((jobOf q rec owner).note (recField rec 44 6) 64
      (createRope (recField rec 40 1) (recField rec 42 2) (recField rec 41 1) (hostBytes s (recField rec 44 6) 64) (Quiet s)))) := by
  subst ho
  refine runRecord_done h ?_
  have hs' : ropeState (recField rec 40 1) (Quiet s) = RopeSt.none := hs
  have hread : (jobOf q rec .pf).read (recField rec 44 6) 64 (Quiet s) = .ok (hostBytes s (recField rec 44 6) 64) :=
    job_read (s := Quiet s) hp
  have hf' : ropeDescFree (recField rec 42 2) (hostBytes s (recField rec 44 6) 64) (Quiet s) = true := hf
  have hc' : ¬ clientLimit (recField rec 41 1) (Quiet s) ≤ getF F.CMD_CLIENT_COUNT [recField rec 41 1] (Quiet s) :=
    Nat.not_le.2 hc
  simp [cmdRopeCreate, hr, hs', hj, zeroBody_of_bodyZero hz, hread, hd, hf', hc']

theorem ropeStart_completes (h : RecordAt q 0x03 rec owner s) (hm : mayName owner (recField rec 40 1) s)
    (hs : ropeState (recField rec 40 1) s = RopeSt.ready) (hz : bodyZero rec 41 44) (hz' : bodyZero rec 52 64)
    (hpc : 0x010000000000 ≤ recField rec 44 6) (hb : (jobOf q rec owner).belayOk (recField rec 50 2) s = true) :
    exec (.ropeStart (.window q)) s = .next (completed q rec (startRope (recField rec 40 1) (recField rec 44 6)
      (if recField rec 50 2 = 0xFFFF then none else some (recField rec 50 2)) (Quiet s))) := by
  refine runRecord_done h ?_
  have hn : (jobOf q rec owner).mayName (recField rec 40 1) (Quiet s) = true := job_mayName (s := Quiet s) hm
  have hs' : ropeState (recField rec 40 1) (Quiet s) = RopeSt.ready := hs
  have hb' : (jobOf q rec owner).belayOk (recField rec 50 2) (Quiet s) = true := hb
  simp [cmdRopeStart, hn, hs', zeroBody_of_bodyZero hz, zeroBody_of_bodyZero hz', hpc, hb']
  rfl

end

theorem ropeOf_tmod_same {r : Nat} {f : Rope → Rope} {s t : State} (h : t.ropes = tmod {} s.ropes r f) :
    ropeOf r t = f (ropeOf r s) := by
  rw [ropeOf, h, tget_tmod_same, ropeOf]

theorem ropeOf_tmod_other {r o : Nat} {f : Rope → Rope} {s t : State} (h : t.ropes = tmod {} s.ropes r f) (ho : o ≠ r) :
    ropeOf o t = ropeOf o s := by
  rw [ropeOf, h, tget_tmod_other _ _ _ _ ho, ropeOf]

/-- Settles O16: each command answers `done` with its effect, and the effect's parts are read off its frames. -/
theorem ropesAreCreatedAndStarted : Obligations.RopesAreCreatedAndStarted := by
  unfold Obligations.RopesAreCreatedAndStarted
  intro q rec owner s r
  refine ⟨nopCommand_completes, ?_, ?_⟩
  · intro h ho hr hs hj _ hz hp d g hd hf hc
    have hclient := recField_lt_256 rec 41
    have hrun := ropeCreate_completes h ho hr hs hj hz hp hd hf hc
    obtain ⟨h1, h2, h3, h4, h5, h6, h7, h8⟩ := createRope_regs (s := Quiet s) hr hj hclient hd
    have hcount := createRope_count (job := recField rec 42 2) (d := d) (s := Quiet s) hr hclient (hc.trans_le (min_le_left _ _))
    have hropes := createRope_ropes r (recField rec 42 2) (recField rec 41 1) d (Quiet s)
    have htouch := (createRope_touches r (recField rec 42 2) (recField rec 41 1) d (Quiet s)).only
    have hbelay := devBelay_createRope r (recField rec 42 2) (recField rec 41 1) d (Quiet s)
    have hmem := createRope_plainMemory r (recField rec 42 2) (recField rec 41 1) d (Quiet s)
    change exec _ s = .next (completed q rec ((jobOf q rec owner).note _ 64
      (createRope r (recField rec 42 2) (recField rec 41 1) d (Quiet s)))) at hrun
    generalize createRope r (recField rec 42 2) (recField rec 41 1) d (Quiet s) = u at *
    exact ⟨_, hrun, h1, h2, h3, h4, h5, h6, h7, h8, ropeOf_tmod_same hropes,
      fun i hi hi' => (hbelay i).trans (if_pos ⟨hi, hi'⟩), fun i hi => (hbelay i).trans (if_neg
        fun hin => hi.elim (Nat.not_lt.2 hin.1) (Nat.not_le.2 hin.2)),
      hcount, fun o ho => ropeOf_tmod_other hropes ho, hmem, htouch.2 .cores (by decide), htouch.2 .queues (by decide)⟩
  · intro h hm hs hz hz' _ hpc hb
    set endB := if recField rec 50 2 = 0xFFFF then none else some (recField rec 50 2)
    have hropes := startRope_ropes r (recField rec 44 6) endB (Quiet s)
    have htouch := (startRope_touches r (recField rec 44 6) endB (Quiet s)).only
    have hcore := coreOf_startRope r (recField rec 44 6) endB (Quiet s)
    refine ⟨_, ropeStart_completes h hm hs hz hz' hpc hb, ropeState_startRope .., fun c hc => (hcore c).trans (if_pos hc),
      fun p hp => clusterState_startRope (s := Quiet s) _ _ _ hp, ?_, ?_, ?_, ?_, fun o ho => ropeOf_tmod_other hropes ho,
      fun c hc => ?_, htouch.2 .queues (by decide), htouch.2 .belays (by decide)⟩
    · exact congrArg Rope.seed (ropeOf_tmod_same hropes)
    · exact congrArg Rope.nctrl (ropeOf_tmod_same hropes)
    · exact congrArg Rope.stop (ropeOf_tmod_same hropes)
    · exact congrArg Rope.endBelay (ropeOf_tmod_same hropes)
    · rw [hcore c, if_neg (fun h => hc (ropeCores_cluster (s := Quiet s) h))]
      exact coreOf_rousedRope_other (s := Quiet s) _ _ hc

end Sys2Proof.Machine
end

section
/-! Completing a record (R386, R388): its signal, and what a completion leaves unchanged when it frees no buffer. -/

namespace Sys2Proof.Machine

open Sys2Proof

/-! Signals. -/

theorem applySignal_device_touches (i : Nat) (set : Bool) (v : Word) (s : State) :
    Touches [.regs, .belays] InBasecamp s (applySignal true i set v s) := by
  cases set
  · exact incDevBelay_touches i s
  · exact setDevBelay_touches i v s

theorem signalBy_device_touches (who i : Nat) (set : Bool) (v : Word) (s : State) :
    Touches [.regs, .belays, .heldSigs] InBasecamp s (signalBy who true i set v s) := by
  unfold signalBy signalHeld
  split
  · exact (Touches.refl _ _ s).withHeldSigs
  · exact (applySignal_device_touches i set v s).mono (by decide) fun _ => id

/-- With no exchange active no buffer is freed. -/
theorem settleSlots_of_no_active {s : State} (h : ∀ x ∈ s.xes, x.2.active = []) : settleSlots s = s := by
  unfold settleSlots
  have : ∀ (l : Tab Xe) (u : State), (∀ x ∈ l, x.2.active = []) → forList l u (fun x s => forList (x.2.active.filter (fun e => e.due s)) s
      (fun e s => runAccess (e.who x.1) (freeSlots x.1 e.tag s) (fun _ _ s => s) s)) = u := by
    intro l
    induction l with
    | nil => exact fun _ _ => rfl
    | cons x l ih =>
      intro u hl
      rw [forList_cons, hl x List.mem_cons_self]
      exact ih u fun y hy => hl y (List.mem_cons_of_mem _ hy)
  exact this s.xes s h

/-- The signal of a record frees no buffer: no exchange is active, or it signals nothing. -/
theorem recordSignal_touches {bs : List Byte} {s : State} (h : (∀ x ∈ s.xes, x.2.active = []) ∨ 4096 ≤ fieldAt bs 12 2) :
    Touches [.regs, .belays, .heldSigs] InBasecamp s (recordSignal bs s) := by
  have hs := signalBy_device_touches 544 (fieldAt bs 12 2) (decide (fieldAt bs 14 1 % 2 = 1)) (BitVec.ofNat 64 (fieldAt bs 32 8)) s
  unfold recordSignal
  simp only
  split
  · exact Touches.refl _ _ s
  · next hlt =>
    have hx := h.resolve_right hlt
    rw [settleSlots_of_no_active]
    · exact hs
    · rwa [hs.only.2 .xes (by decide)]

/-! Queues. -/

/-- Records only leave the queues, and keep their numbers and bytes. -/
def RecsKept (s t : State) : Prop :=
  ∀ p, ∀ x ∈ (queueOf p t).recs, ∃ y ∈ (queueOf p s).recs, y.seq = x.seq ∧ y.bytes = x.bytes

theorem RecsKept_of_queues_eq {s t : State} (h : t.queues = s.queues) : RecsKept s t := fun p x hx =>
  ⟨x, by rwa [queueOf, h] at hx, rfl, rfl⟩

theorem RecsKept_trans {s t u : State} (h : RecsKept s t) (g : RecsKept t u) : RecsKept s u := fun p x hx => by
  obtain ⟨y, hy, hys, hyb⟩ := g p x hx
  obtain ⟨z, hz, hzs, hzb⟩ := h p y hy
  exact ⟨z, hz, hzs.trans hys, hzb.trans hyb⟩

theorem popDone_recs (n : Nat) (k : CmdQ) : ∀ x ∈ (popDone n k).recs, x ∈ k.recs := by
  induction n generalizing k with
  | zero => exact fun _ => id
  | succ n ih =>
    intro x hx
    unfold popDone at hx
    split at hx
    · next r t hk =>
      rw [hk]
      split at hx
      · rwa [hk] at hx
      · split at hx <;> exact List.mem_cons_of_mem _ (ih _ x hx)
    · exact hx

theorem mem_modFirst {p : Rec → Bool} {f : Rec → Rec} {l : List Rec} {x : Rec} (h : x ∈ modFirst p f l) :
    x ∈ l ∨ ∃ y ∈ l, x = f y := by
  induction l with
  | nil => exact absurd h List.not_mem_nil
  | cons r t ih =>
    unfold modFirst at h
    split at h
    · rcases List.mem_cons.1 h with rfl | h
      · exact Or.inr ⟨r, List.mem_cons_self, rfl⟩
      · exact Or.inl (List.mem_cons_of_mem _ h)
    · rcases List.mem_cons.1 h with rfl | h
      · exact Or.inl List.mem_cons_self
      · rcases ih h with h | ⟨y, hy, rfl⟩
        · exact Or.inl (List.mem_cons_of_mem _ h)
        · exact Or.inr ⟨y, List.mem_cons_of_mem _ hy, rfl⟩

@[simp] theorem queueOf_modQueue_same (q : Nat) (f : CmdQ → CmdQ) (s : State) :
    queueOf q (modQueue q f s) = { f (queueOf q s) with mirrorDue := true } := by
  simp [queueOf, modQueue]

theorem queueOf_modQueue_other {p q : Nat} (f : CmdQ → CmdQ) (s : State) (h : p ≠ q) :
    queueOf p (modQueue q f s) = queueOf p s := by
  simp [queueOf, modQueue, tget_tmod_other _ _ _ _ h]

theorem finishRec_touches (q : Nat) (p : Rec → Bool) (s : State) : Touches [.queues] (fun _ => False) s (finishRec q p s) :=
  (Touches.refl _ _ s).withQueues

theorem finishRec_recsKept (q : Nat) (p : Rec → Bool) (s : State) : RecsKept s (finishRec q p s) := fun o x hx => by
  unfold finishRec at hx
  by_cases h : o = q
  · rw [h, queueOf_modQueue_same] at hx
    rcases mem_modFirst (popDone_recs _ _ x hx) with hx | ⟨y, hy, rfl⟩
    · exact ⟨x, h ▸ hx, rfl, rfl⟩
    · exact ⟨y, h ▸ hy, rfl, rfl⟩
  · rw [queueOf_modQueue_other _ _ h] at hx
    exact ⟨x, hx, rfl, rfl⟩

/-! Completions that free nothing. -/

theorem SignalsNothing_of_recsKept {w : Waiter} {s t : State} (hk : RecsKept s t) (h : SignalsNothing w s) : SignalsNothing w t := by
  cases w with
  | instr c => exact h
  | window q seq =>
    intro x hx hseq
    obtain ⟨y, hy, hys, hyb⟩ := hk q x hx
    have := h y hy (hys.trans hseq)
    rwa [recField, hyb] at this

theorem FreesNothing_subset {l m : List Waiter} {s : State} (h : FreesNothing l s) (hm : ∀ w ∈ m, w ∈ l) : FreesNothing m s :=
  h.imp id fun h w hw => h w (hm w hw)

theorem FreesNothing_congr {l : List Waiter} {s t : State} (h : FreesNothing l s) (hx : t.xes = s.xes) (hk : RecsKept s t) :
    FreesNothing l t :=
  h.imp (fun h => by rwa [hx]) fun h w hw => SignalsNothing_of_recsKept hk (h w hw)

/-- The parts of the state a completion that frees nothing touches. -/
abbrev completeParts : List Part := [.regs, .queues, .belays, .heldSigs]

theorem completeWaiter_instr (c : InstrCmd) (s : State) :
    completeWaiter (.instr c) s = if c.rec_.isEmpty then s else recordSignal c.rec_ s := rfl

/-- The record of a queue that has begun and whose number is `seq`. -/
abbrev isBegun (seq : BitVec 32) (r : Rec) : Bool := decide (r.seq = seq) && r.started && ! r.done

theorem completeWaiter_window (q : Nat) (seq : BitVec 32) (s : State) : completeWaiter (.window q seq) s =
    match (queueOf q s).recs.find? (isBegun seq) with
    | some r => recordSignal r.bytes (finishRec q (isBegun seq) s)
    | none => s := rfl

/-- A completion that frees nothing: its queue, its belay and the clusters this wakes. -/
theorem completeWaiter_touches {w : Waiter} {s : State} (h : FreesNothing [w] s) :
    Touches completeParts InBasecamp s (completeWaiter w s) ∧ RecsKept s (completeWaiter w s) := by
  have hw : (∀ x ∈ s.xes, x.2.active = []) ∨ SignalsNothing w s := h.imp id fun h => h w List.mem_cons_self
  cases w with
  | instr c =>
    rw [completeWaiter_instr]
    split
    · exact ⟨Touches.refl _ _ s, RecsKept_of_queues_eq rfl⟩
    · next hc =>
      have hne : c.rec_ ≠ [] := fun e => hc (by rw [e]; rfl)
      have hs := recordSignal_touches (bs := c.rec_) (hw.imp id fun h => h.resolve_left hne)
      exact ⟨hs.mono (by decide) fun _ => id, RecsKept_of_queues_eq (hs.only.2 .queues (by decide))⟩
  | window q seq =>
    rw [completeWaiter_window]
    split
    · next r hr =>
      have hbegun := List.find?_some hr
      simp only [Bool.and_eq_true, decide_eq_true_eq] at hbegun
      obtain ⟨⟨hseq, -⟩, -⟩ := hbegun
      have hs := recordSignal_touches (bs := r.bytes) (s := finishRec q (isBegun seq) s)
        (hw.imp id fun h => h r (List.mem_of_find?_eq_some hr) hseq)
      exact ⟨((finishRec_touches q _ s).mono (by decide) fun _ => False.elim).andThen hs (by decide) fun _ => id,
        RecsKept_trans (finishRec_recsKept q _ s) (RecsKept_of_queues_eq (hs.only.2 .queues (by decide)))⟩
    · exact ⟨Touches.refl _ _ s, RecsKept_of_queues_eq rfl⟩

theorem completeAll_cons (w : Waiter) (l : List Waiter) (s : State) : completeAll (w :: l) s = completeAll l (completeWaiter w s) := rfl

theorem completeAll_touches {l : List Waiter} {s : State} (h : FreesNothing l s) :
    Touches completeParts InBasecamp s (completeAll l s) ∧ RecsKept s (completeAll l s) := by
  induction l generalizing s with
  | nil => exact ⟨Touches.refl _ _ s, RecsKept_of_queues_eq rfl⟩
  | cons w l ih =>
    obtain ⟨h1, k1⟩ := completeWaiter_touches (FreesNothing_subset (m := [w]) h fun v hv => by simp_all)
    have hx : (completeWaiter w s).xes = s.xes := h1.only.2 .xes (by decide)
    obtain ⟨h2, k2⟩ := ih (FreesNothing_congr (FreesNothing_subset h fun v hv => List.mem_cons_of_mem _ hv) hx k1)
    rw [completeAll_cons]
    exact ⟨h1.trans h2, RecsKept_trans k1 k2⟩

end Sys2Proof.Machine
end

section
/-! Banks and pending bits (R51, R394). -/

namespace Sys2Proof.Machine

open Sys2Proof

theorem testBit_withBit (n i j : Nat) (b : Bool) : (withBit n i b).testBit j = if j = i then b else n.testBit j := by
  unfold withBit
  by_cases hj : j = i
  · subst hj
    split
    · simpa
    · next h => cases b <;> simp_all
  · have hp : (2 ^ i).testBit j = false := Nat.testBit_two_pow_of_ne (Ne.symm hj)
    rw [if_neg hj]
    split <;> simp [hp]

/-- A bit of a 16-bit field after one of its bits is set. -/
theorem testBit_withBit_field {n i j : Nat} (b : Bool) (hj : j < 16) :
    (withBit n i b % 2 ^ 16).testBit j = if j = i then b else n.testBit j := by
  rw [Nat.testBit_mod_two_pow, testBit_withBit, decide_eq_true hj, Bool.true_and]

/-- A bit of a register after one of its bits is set. -/
theorem getLsbD_withBit {i j : Nat} (w : Word) (b : Bool) (hj : j < 64) :
    (BitVec.ofNat 64 (withBit w.toNat i b)).getLsbD j = if j = i then b else w.getLsbD j := by
  rw [BitVec.getLsbD_ofNat, testBit_withBit, decide_eq_true hj, Bool.true_and, BitVec.testBit_toNat]

/-- How many ropes or plans a commit target has. -/
abbrev targets (target : Nat) : Nat := if target < 2 then 16 else 64

/-- The bank of a target as the bit it is. -/
def bankBit (target i : Nat) (s : State) : Bool :=
  match target with
  | 0 => (getF F.RTE_PT_ACTIVE_BANK [] s).testBit i
  | 1 => (getF F.SW_RANKMAP_BANKS_BANK [] s).testBit i
  | _ => (getR .SW_PLAN_BANK [] s).getLsbD i

theorem bankOf_eq (target i : Nat) (s : State) : bankOf target i s = if bankBit target i s then 1 else 0 := rfl

/-- The register that holds the pending bits of a target. -/
def pendingReg : Nat → Reg
  | 0 => .RTE_PT_ACTIVE
  | 1 => .SW_RANKMAP_BANKS
  | _ => .SW_PLAN_PENDING

/-- The register that holds the banks of a target. -/
def bankReg : Nat → Reg
  | 0 => .RTE_PT_ACTIVE
  | 1 => .SW_RANKMAP_BANKS
  | _ => .SW_PLAN_BANK

section
variable {i j : Nat} {s t : State}

theorem pendingOf_congr (target : Nat) (h : getR (pendingReg target) [] t = getR (pendingReg target) [] s) :
    pendingOf target j t = pendingOf target j s :=
  match target, h with
  | 0, h => congrArg (fun w => (bits 31 16 w).testBit j) h
  | 1, h => congrArg (fun w => (bits 31 16 w).testBit j) h
  | _ + 2, h => congrArg (fun w => w.getLsbD j) h

theorem bankBit_congr (target : Nat) (h : getR (bankReg target) [] t = getR (bankReg target) [] s) :
    bankBit target j t = bankBit target j s :=
  match target, h with
  | 0, h => congrArg (fun w => (bits 15 0 w).testBit j) h
  | 1, h => congrArg (fun w => (bits 15 0 w).testBit j) h
  | _ + 2, h => congrArg (fun w => w.getLsbD j) h

theorem bankOf_congr (target : Nat) (h : getR (bankReg target) [] t = getR (bankReg target) [] s) :
    bankOf target j t = bankOf target j s := by
  rw [bankOf_eq, bankOf_eq, bankBit_congr target h]

variable (s)

theorem pendingOf_setPending (target : Nat) (b : Bool) (hj : j < targets target) :
    pendingOf target j (setPending target i b s) = if j = i then b else pendingOf target j s :=
  match target, hj with
  | 0, hj => by
    rw [pendingOf, setPending, getF_setF_same _ _ _ _ (by decide) (by decide)]
    exact testBit_withBit_field b hj
  | 1, hj => by
    rw [pendingOf, setPending, getF_setF_same _ _ _ _ (by decide) (by decide)]
    exact testBit_withBit_field b hj
  | n + 2, hj => by
    change (getR .SW_PLAN_PENDING [] (setR .SW_PLAN_PENDING [] _ s)).getLsbD j = _
    rw [getR_setR_same]
    exact getLsbD_withBit _ b (by simpa [targets] using hj)

theorem bankBit_setBank (target v : Nat) (hj : j < targets target) :
    bankBit target j (setBank target i v s) = if j = i then decide (v = 1) else bankBit target j s :=
  match target, hj with
  | 0, hj => by
    rw [bankBit, setBank, getF_setF_same _ _ _ _ (by decide) (by decide)]
    exact testBit_withBit_field _ hj
  | 1, hj => by
    rw [bankBit, setBank, getF_setF_same _ _ _ _ (by decide) (by decide)]
    exact testBit_withBit_field _ hj
  | n + 2, hj => by
    change (getR .SW_PLAN_BANK [] (setR .SW_PLAN_BANK [] _ s)).getLsbD j = _
    rw [getR_setR_same]
    exact getLsbD_withBit _ _ (by simpa [targets] using hj)

/-- A bank does not share bits with the pending bits of its target. -/
theorem bankBit_setPending (target : Nat) (b : Bool) : bankBit target j (setPending target i b s) = bankBit target j s :=
  match target with
  | 0 => congrArg (Nat.testBit · j) (getF_setF_beside _ _ _ rfl (by decide) (by decide) (by decide))
  | 1 => congrArg (Nat.testBit · j) (getF_setF_beside _ _ _ rfl (by decide) (by decide) (by decide))
  | _ + 2 => congrArg (BitVec.getLsbD · j) (getR_setR_other _ _ (by decide))

theorem pendingOf_setBank (target v : Nat) : pendingOf target j (setBank target i v s) = pendingOf target j s :=
  match target with
  | 0 => congrArg (Nat.testBit · j) (getF_setF_beside _ _ _ rfl (by decide) (by decide) (by decide))
  | 1 => congrArg (Nat.testBit · j) (getF_setF_beside _ _ _ rfl (by decide) (by decide) (by decide))
  | _ + 2 => congrArg (BitVec.getLsbD · j) (getR_setR_other _ _ (by decide))

/-- The registers of the targets' banks and pending bits. -/
abbrev IsBankReg (target o : Nat) : Prop := o = regOff (pendingReg target) [] ∨ o = regOff (bankReg target) []

theorem setPending_touches (target : Nat) (b : Bool) : Touches [.regs] (IsBankReg target) s (setPending target i b s) :=
  match target with
  | 0 => (Touches.refl _ _ s).setF (Or.inl rfl)
  | 1 => (Touches.refl _ _ s).setF (Or.inl rfl)
  | _ + 2 => (Touches.refl _ _ s).setR (Or.inl rfl)

theorem setBank_touches (target v : Nat) : Touches [.regs] (IsBankReg target) s (setBank target i v s) :=
  match target with
  | 0 => (Touches.refl _ _ s).setF (Or.inr rfl)
  | 1 => (Touches.refl _ _ s).setF (Or.inr rfl)
  | _ + 2 => (Touches.refl _ _ s).setR (Or.inr rfl)

end

end Sys2Proof.Machine
end

section
/-! Commits (R51, R394): what one that takes effect changes. -/

namespace Sys2Proof.Machine

open Sys2Proof

/-! Flips of placement regions and rank maps. -/

/-- The registers that flips of placement regions and rank maps write. -/
def IsFlipReg (o : Nat) : Prop := o = 0x380000 ∨ o = 0x380008 ∨ o = 0x704028

section
variable {target i : Nat} {s : State}

/-- Bank and pending bit of a placement region or rank map after its flip. -/
def flipBits (target i : Nat) (s : State) : State := setBank target i (1 - bankOf target i s) (setPending target i false s)

theorem flipNow_placement (i : Nat) (s : State) : flipNow 0 i s = (St.ok,
    modRope i (fun r => { r with commitCount := r.commitCount + 1 }) (countR .RTE_PT_COMMITS [] (flipBits 0 i s))) := by
  rw [flipNow, flipBits]

theorem flipNow_rankMap (i : Nat) (s : State) : flipNow 1 i s = (St.ok, flipBits 1 i s) := by
  rw [flipNow, flipBits]

theorem flipBits_touches (target i : Nat) (s : State) : Touches [.regs] (IsBankReg target) s (flipBits target i s) :=
  (setPending_touches s target false).trans (setBank_touches _ target _)

theorem pendingOf_flipBits {j : Nat} (hj : j < targets target) :
    pendingOf target j (flipBits target i s) = if j = i then false else pendingOf target j s := by
  rw [flipBits, pendingOf_setBank, pendingOf_setPending s target false hj]

theorem bankBit_flipBits {j : Nat} (hj : j < targets target) :
    bankBit target j (flipBits target i s) = if j = i then ! bankBit target i s else bankBit target j s := by
  rw [flipBits, bankBit_setBank _ target _ hj, bankBit_setPending, bankOf_eq]
  refine if_congr Iff.rfl ?_ rfl
  cases bankBit target i s <;> rfl

theorem flipNow_touches (ht : target < 2) : Touches [.regs, .ropes] IsFlipReg s (flipNow target i s).2 := by
  have ht' : target = 0 ∨ target = 1 := by omega
  rcases ht' with rfl | rfl
  · rw [flipNow_placement]
    refine Touches.withRopes (Touches.setR ((flipBits_touches 0 i s).mono (by decide) ?_) (Or.inr (Or.inl rfl)))
    rintro o (h | h) <;> exact Or.inl h
  · rw [flipNow_rankMap]
    refine (flipBits_touches 1 i s).mono (by decide) ?_
    rintro o (h | h) <;> exact Or.inr (Or.inr h)

/-- A register of banks or pending bits after a flip. -/
theorem getR_flipNow (ht : target < 2) {r : Reg} (hr : regOff r [] ≠ regOff .RTE_PT_COMMITS []) :
    getR r [] (flipNow target i s).2 = getR r [] (flipBits target i s) := by
  have ht' : target = 0 ∨ target = 1 := by omega
  rcases ht' with rfl | rfl
  · rw [flipNow_placement, getR_congr r [] (modRope_regs ..), countR, getR_setR_other _ _ hr]
  · rw [flipNow_rankMap]

theorem bankReg_ne_other {u t : Nat} (hu : u < 2) (ht : t < 2) (h : u ≠ t) :
    ¬ IsBankReg t (regOff (pendingReg u) []) ∧ ¬ IsBankReg t (regOff (bankReg u) []) := by
  have : u = 0 ∧ t = 1 ∨ u = 1 ∧ t = 0 := by omega
  rcases this with ⟨rfl, rfl⟩ | ⟨rfl, rfl⟩ <;> decide

theorem pendingOf_flipNow (ht : target < 2) {u j : Nat} (hu : u < 2) (hj : j < 16) :
    pendingOf u j (flipNow target i s).2 = if u = target ∧ j = i then false else pendingOf u j s := by
  have hr : regOff (pendingReg u) [] ≠ regOff .RTE_PT_COMMITS [] := by
    have hu' : u = 0 ∨ u = 1 := by omega
    rcases hu' with rfl | rfl <;> decide
  rw [pendingOf_congr u (getR_flipNow ht hr)]
  by_cases h : u = target
  · subst h
    rw [pendingOf_flipBits (by simpa [targets, hu] using hj)]
    simp
  · rw [if_neg (fun g => h g.1), pendingOf_congr u ((flipBits_touches target i s).getR_eq (bankReg_ne_other hu ht h).1)]

theorem bankBit_flipNow (ht : target < 2) {u j : Nat} (hu : u < 2) (hj : j < 16) :
    bankBit u j (flipNow target i s).2 = if u = target ∧ j = i then ! bankBit target i s else bankBit u j s := by
  have hr : regOff (bankReg u) [] ≠ regOff .RTE_PT_COMMITS [] := by
    have hu' : u = 0 ∨ u = 1 := by omega
    rcases hu' with rfl | rfl <;> decide
  rw [bankBit_congr u (getR_flipNow ht hr)]
  by_cases h : u = target
  · subst h
    rw [bankBit_flipBits (by simpa [targets, hu] using hj)]
    simp
  · rw [if_neg (fun g => h g.1), bankBit_congr u ((flipBits_touches target i s).getR_eq (bankReg_ne_other hu ht h).2)]

theorem ropeOf_congr {s t : State} (o : Nat) (h : t.ropes = s.ropes) : ropeOf o t = ropeOf o s := by
  rw [ropeOf, ropeOf, h]

/-- A flip counts in its rope alone, and only a placement region's does. -/
theorem ropeOf_flipNow (ht : target < 2) (o : Nat) : ropeOf o (flipNow target i s).2 =
    if target = 0 ∧ o = i then { ropeOf o s with commitCount := (ropeOf o s).commitCount + 1 } else ropeOf o s := by
  have hb : ∀ u, ropeOf o (flipBits u i s) = ropeOf o s := fun u =>
    ropeOf_congr o ((flipBits_touches u i s).only.2 .ropes (by decide))
  have ht' : target = 0 ∨ target = 1 := by omega
  rcases ht' with rfl | rfl
  · have hc : ropeOf o (countR .RTE_PT_COMMITS [] (flipBits 0 i s)) = ropeOf o s := (ropeOf_congr o (setR_ropes ..)).trans (hb 0)
    rw [flipNow_placement]
    by_cases h : o = i
    · subst h
      rw [ropeOf_modRope_same, if_pos ⟨rfl, rfl⟩, hc]
    · rw [ropeOf_modRope_other _ _ h, if_neg (fun g => h g.2), hc]
  · rw [flipNow_rankMap, hb, if_neg (by simp)]

end

/-! A commit that takes effect. -/

/-- The first record of a commit asks for a copy-back, and the flip takes place (R52). -/
def copiesBack (target i : Nat) (s : State) : Bool :=
  decide ((flipNow target i s).1 = St.ok) && (match commitsOf target i s with | c :: _ => c.copyBack | [] => false)

/-- The lists of commits, held writes and copy-backs after a commit. -/
def commitLists (target i : Nat) (back : Bool) (t : Tables) : Tables :=
  { t with
    commits := t.commits.filter (fun c => ! (decide (c.target = target) && decide (c.index = i))),
    deferred := t.deferred.map (fun d => if d.of target i then { d with flip := false } else d),
    copyBack := if back then t.copyBack ++ [(target, i)] else t.copyBack }

section
variable {target i u j : Nat} (back : Bool) (t : Tables)

theorem commitLists_commits_subset : ∀ c ∈ (commitLists target i back t).commits, c ∈ t.commits :=
  fun _ => List.mem_of_mem_filter

theorem commitLists_commits_other (h : ¬ (u = target ∧ j = i)) :
    (commitLists target i back t).commits.filter (fun c => decide (c.target = u) && decide (c.index = j)) =
      t.commits.filter (fun c => decide (c.target = u) && decide (c.index = j)) := by
  rw [commitLists, List.filter_filter]
  refine List.filter_congr fun c _ => ?_
  by_cases hc : c.target = u ∧ c.index = j
  · obtain ⟨rfl, rfl⟩ := hc
    rw [← Bool.decide_and, ← Bool.decide_and, decide_eq_false h, Bool.not_false, Bool.and_true]
  · rw [← Bool.decide_and, decide_eq_false hc, Bool.false_and]

theorem commitLists_copyBack_other (h : ¬ (u = target ∧ j = i)) :
    (commitLists target i back t).copyBack.contains (u, j) = t.copyBack.contains (u, j) := by
  have hne : (u, j) ≠ (target, i) := fun e => h (by simpa using e)
  cases back <;> simp [commitLists, hne]

theorem commitLists_held :
    (commitLists target i back t).deferred.map (fun d => d.who) = t.deferred.map (fun d => d.who) := by
  rw [commitLists, List.map_map]
  refine List.map_congr_left fun d _ => ?_
  rw [Function.comp_apply]
  split <;> rfl

end

/-- A commit that writes no status word completes its records. -/
theorem foldE_complete {st : Nat} {l : List Commit} (h : ∀ c ∈ l, c.status = none) (s : State) :
    foldE l s (fun c s => match commitStatus c st s with
      | .error e => .error e
      | .ok s => .ok (completeWaiter c.who s)) = .ok (completeAll (l.map (fun c => c.who)) s) := by
  induction l generalizing s with
  | nil => rfl
  | cons c l ih =>
    have hc : commitStatus c st s = .ok s := by rw [commitStatus, h c List.mem_cons_self]
    rw [foldE, hc, List.map_cons, completeAll_cons]
    exact ih (fun d hd => h d (List.mem_cons_of_mem _ hd)) _

theorem applyCommit_flips {target i : Nat} {s : State} (hp : pendingOf target i s = true) (hw : commitWaits target i s = false)
    (hc : ∀ c ∈ commitsOf target i s, c.status = none) : applyCommit target i s =
      .ok (completeAll ((commitsOf target i s).map (fun c => c.who))
        (modTables (commitLists target i (copiesBack target i s)) (flipNow target i s).2)) := by
  unfold applyCommit
  rw [if_neg (by simp [hp, hw])]
  exact foldE_complete hc _

theorem applyCommit_not_pending {target i : Nat} {s : State} (hp : pendingOf target i s = false) :
    applyCommit target i s = .ok s := by
  unfold applyCommit
  rw [if_pos (by simp [hp])]

theorem applyCommit_waits {target i : Nat} {s : State} (hw : commitWaits target i s = true) : applyCommit target i s = .ok s := by
  unfold applyCommit
  rw [if_pos (by simp [hw])]

theorem tableAt_congr {s t : State} (h1 : t.tables.placement = s.tables.placement) (h2 : t.tables.layerDir = s.tables.layerDir)
    (h3 : t.tables.rankMap = s.tables.rankMap) (h4 : t.tables.planDir = s.tables.planDir)
    (h5 : t.tables.planLine = s.tables.planLine) (x y : Nat) : tableAt x y t = tableAt x y s := by
  simp only [tableAt, h1, h2, h3, h4, h5]

theorem tableAt_of_tables {s t : State} (h : t.tables = s.tables) (x y : Nat) : tableAt x y t = tableAt x y s := by
  simp only [tableAt, h]

/-- The parts of the state that commits of placement regions and rank maps touch. -/
abbrev commitParts : List Part := [.regs, .ropes, .tables, .queues, .belays, .heldSigs]

/-- The registers they write. -/
def IsCommitReg (o : Nat) : Prop := InBasecamp o ∨ IsFlipReg o

/-- From `s` to `t` the flips of the targets in `f` have taken effect, and nothing of what other commits wait for has changed. -/
structure Flipped (f : Nat → Nat → Prop) (s t : State) : Prop where
  touches : Touches commitParts IsCommitReg s t
  recs : RecsKept s t
  pending : ∀ u < 2, ∀ j < 16, (f u j → pendingOf u j t = false) ∧ (¬ f u j → pendingOf u j t = pendingOf u j s)
  bank : ∀ u < 2, ∀ j < 16, (f u j → bankBit u j t = ! bankBit u j s) ∧ (¬ f u j → bankBit u j t = bankBit u j s)
  table : ∀ x y, tableAt x y t = tableAt x y s
  rope : ∀ o, { ropeOf o t with commitCount := (ropeOf o s).commitCount } = ropeOf o s
  commits : ∀ c ∈ t.tables.commits, c ∈ s.tables.commits
  others : ∀ u j, ¬ f u j → commitsOf u j t = commitsOf u j s ∧ t.tables.copyBack.contains (u, j) = s.tables.copyBack.contains (u, j)
  held : t.tables.deferred.map (fun d => d.who) = s.tables.deferred.map (fun d => d.who)

theorem commitWaits_congr {s t : State} {u j : Nat} (hp : pendingOf u j t = pendingOf u j s)
    (hc : commitsOf u j t = commitsOf u j s) (hb : t.tables.copyBack.contains (u, j) = s.tables.copyBack.contains (u, j))
    (hd : t.tables.deferred.map (fun d => d.who) = s.tables.deferred.map (fun d => d.who)) :
    commitWaits u j t = commitWaits u j s := by
  have hany : ∀ w, t.tables.deferred.any (fun d => decide (d.who = w)) = s.tables.deferred.any (fun d => decide (d.who = w)) :=
    fun w => by
      have := congrArg (fun l : List Waiter => l.any (fun x => decide (x = w))) hd
      simpa only [List.any_map, Function.comp_def] using this
  simp only [commitWaits, hp, hc, hb, hany]

/-- A commit of a placement region or rank map that is pending and does not wait takes effect. -/
theorem applyCommit_flipped {target i : Nat} {s : State} (ht : target < 2) (hp : pendingOf target i s = true)
    (hw : commitWaits target i s = false) (hc : ∀ c ∈ s.tables.commits, c.status = none)
    (hf : FreesNothing (s.tables.commits.map (fun c => c.who)) s) :
    ∃ t, applyCommit target i s = .ok t ∧ Flipped (fun u j => u = target ∧ j = i) s t := by
  have hflip := flipNow_touches (i := i) (s := s) ht
  set w := modTables (commitLists target i (copiesBack target i s)) (flipNow target i s).2 with hwdef
  have htab : w.tables = commitLists target i (copiesBack target i s) s.tables := by
    have : (flipNow target i s).2.tables = s.tables := hflip.only.2 .tables (by decide)
    rw [hwdef, modTables_tables, this]
  have htouch : Touches [.regs, .ropes, .tables] IsFlipReg s w := Touches.withTables (hflip.mono (by decide) fun _ => id)
  have hmine : ∀ x ∈ (commitsOf target i s).map (fun c => c.who), x ∈ s.tables.commits.map (fun c => c.who) := fun x hx => by
    obtain ⟨c, hc, rfl⟩ := List.mem_map.1 hx
    exact List.mem_map_of_mem (List.mem_of_mem_filter hc)
  have hrecs : RecsKept s w := RecsKept_of_queues_eq (htouch.only.2 .queues (by decide))
  obtain ⟨hdone, hkept⟩ := completeAll_touches
    (FreesNothing_congr (FreesNothing_subset hf hmine) (htouch.only.2 .xes (by decide)) hrecs)
  refine ⟨_, applyCommit_flips hp hw fun c h => hc c (List.mem_of_mem_filter h), ?_⟩
  rw [← hwdef]
  set v := completeAll ((commitsOf target i s).map (fun c => c.who)) w
  have hvtab : v.tables = commitLists target i (copiesBack target i s) s.tables := (hdone.only.2 .tables (by decide)).trans htab
  have hq : ∀ u < 2, ¬ InBasecamp (regOff (pendingReg u) []) ∧ ¬ InBasecamp (regOff (bankReg u) []) := by decide
  refine ⟨?_, RecsKept_trans hrecs hkept, fun u hu j hj => ?_, fun u hu j hj => ?_, ?_, fun o => ?_, ?_, ?_, ?_⟩
  · exact (htouch.mono (by decide) fun _ => Or.inr).trans (hdone.mono (by decide) fun _ => Or.inl)
  · have h1 : pendingOf u j v = pendingOf u j (flipNow target i s).2 := pendingOf_congr u (hdone.getR_eq (hq u hu).1)
    rw [h1, pendingOf_flipNow ht hu hj]
    exact ⟨fun h => if_pos h, fun h => if_neg h⟩
  · have h1 : bankBit u j v = bankBit u j (flipNow target i s).2 := bankBit_congr u (hdone.getR_eq (hq u hu).2)
    rw [h1, bankBit_flipNow ht hu hj]
    exact ⟨fun h => by rw [if_pos h, h.1, h.2], fun h => if_neg h⟩
  · exact tableAt_congr (by rw [hvtab]; rfl) (by rw [hvtab]; rfl) (by rw [hvtab]; rfl) (by rw [hvtab]; rfl) (by rw [hvtab]; rfl)
  · have h1 : ropeOf o v = ropeOf o (flipNow target i s).2 := by
      rw [ropeOf, (show v.ropes = w.ropes from hdone.only.2 .ropes (by decide))]
      rfl
    rw [h1, ropeOf_flipNow ht]
    split <;> rfl
  · rw [hvtab]
    exact commitLists_commits_subset _ _
  · intro u j hne
    unfold commitsOf
    rw [hvtab]
    exact ⟨commitLists_commits_other _ _ hne, commitLists_copyBack_other _ _ hne⟩
  · rw [hvtab]
    exact commitLists_held _ _

end Sys2Proof.Machine
end

section
/-! Step boundaries (R404). -/

namespace Sys2Proof.Machine

open Sys2Proof

/-! Every commit of a rope. -/

section
variable {f g : Nat → Nat → Prop} {s t u : State}

theorem Flipped_refl (s : State) : Flipped (fun _ _ => False) s s :=
  ⟨Touches.refl _ _ s, RecsKept_of_queues_eq rfl, fun _ _ _ _ => ⟨False.elim, fun _ => rfl⟩, fun _ _ _ _ => ⟨False.elim, fun _ => rfl⟩,
    fun _ _ => rfl, fun _ => rfl, fun _ => id, fun _ _ _ => ⟨rfl, rfl⟩, rfl⟩

theorem Flipped_congr (h : Flipped f s t) (hfg : ∀ u j, f u j ↔ g u j) : Flipped g s t := by
  have : f = g := funext fun u => funext fun j => propext (hfg u j)
  exact this ▸ h

/-- Flips of different targets, one after the other. -/
theorem Flipped_trans (h : Flipped f s t) (k : Flipped g t u) (hfg : ∀ u j, f u j → ¬ g u j) :
    Flipped (fun u j => f u j ∨ g u j) s u where
  touches := h.touches.trans k.touches
  recs := RecsKept_trans h.recs k.recs
  pending x hx j hj := by
    obtain ⟨h1, h2⟩ := h.pending x hx j hj
    obtain ⟨k1, k2⟩ := k.pending x hx j hj
    refine ⟨fun hf => hf.elim (fun hf => (k2 (hfg x j hf)).trans (h1 hf)) k1, fun hn => ?_⟩
    exact (k2 (fun h => hn (Or.inr h))).trans (h2 (fun h => hn (Or.inl h)))
  bank x hx j hj := by
    obtain ⟨h1, h2⟩ := h.bank x hx j hj
    obtain ⟨k1, k2⟩ := k.bank x hx j hj
    refine ⟨fun hf => hf.elim (fun hf => (k2 (hfg x j hf)).trans (h1 hf)) fun hg => ?_, fun hn => ?_⟩
    · rw [k1 hg, h2 fun hf => hfg x j hf hg]
    · exact (k2 (fun h => hn (Or.inr h))).trans (h2 (fun h => hn (Or.inl h)))
  table x y := (k.table x y).trans (h.table x y)
  rope o := by
    rw [← h.rope o, ← k.rope o]
  commits c hc := h.commits c (k.commits c hc)
  others x j hn := by
    obtain ⟨h1, h2⟩ := h.others x j (fun h => hn (Or.inl h))
    obtain ⟨k1, k2⟩ := k.others x j (fun h => hn (Or.inr h))
    exact ⟨k1.trans h1, k2.trans h2⟩
  held := k.held.trans h.held

theorem Flipped_commitWaits (h : Flipped f s t) {x j : Nat} (hx : x < 2) (hj : j < 16) (hn : ¬ f x j) :
    commitWaits x j t = commitWaits x j s := by
  obtain ⟨h1, h2⟩ := h.others x j hn
  exact commitWaits_congr ((h.pending x hx j hj).2 hn) h1 h2 h.held

end

/-- What a boundary of rope `r` needs to change no more than banks, queues and belays (R404). -/
structure FlipsFreely (s : State) : Prop where
  statuses : ∀ c ∈ s.tables.commits, c.status = none
  frees : FreesNothing (s.tables.commits.map (fun c => c.who)) s

theorem FlipsFreely_of_flipped {f : Nat → Nat → Prop} {s t : State} (h : FlipsFreely s) (hf : Flipped f s t) : FlipsFreely t where
  statuses c hc := h.statuses c (hf.commits c hc)
  frees := by
    refine FreesNothing_congr (FreesNothing_subset h.frees fun w hw => ?_) (hf.touches.only.2 .xes (by decide)) hf.recs
    obtain ⟨c, hc, rfl⟩ := List.mem_map.1 hw
    exact List.mem_map_of_mem (hf.commits c hc)

/-- A commit of a placement region or rank map that does not wait: it flips if it is pending. -/
theorem applyCommit_spec {target i : Nat} {s : State} (ht : target < 2) (hw : commitWaits target i s = false) (h : FlipsFreely s) :
    ∃ t, applyCommit target i s = .ok t ∧ Flipped (fun u j => u = target ∧ j = i ∧ pendingOf target i s = true) s t := by
  cases hp : pendingOf target i s with
  | true =>
    obtain ⟨t, h1, h2⟩ := applyCommit_flipped ht hp hw h.statuses h.frees
    exact ⟨t, h1, Flipped_congr h2 fun u j => by simp⟩
  | false => exact ⟨s, applyCommit_not_pending hp, Flipped_congr (Flipped_refl s) fun u j => by simp⟩

/-- With no plan pending the commits of plans do nothing. -/
theorem foldE_plans {r : Nat} {s : State} (h : getR .SW_PLAN_PENDING [] s = 0) (l : List Nat) :
    foldE l s (fun p s => if pendingOf 2 p s ∧ jobRope (planJob p s) s = some r then applyCommit 2 p s else .ok s) = .ok s := by
  induction l with
  | nil => rfl
  | cons p l ih =>
    have hp : pendingOf 2 p s = false := by simp [pendingOf, h]
    rw [foldE, if_neg (by simp [hp])]
    exact ih

/-- The pending commits of rope `r` take effect, where none waits and no plan is pending (R394, R404). -/
theorem applyCommits_spec {r : Nat} {s : State} (hr : r < 16) (h0 : commitWaits 0 r s = false) (h1 : commitWaits 1 r s = false)
    (hplan : getR .SW_PLAN_PENDING [] s = 0) (h : FlipsFreely s) :
    ∃ t, applyCommits r s = .ok t ∧ Flipped (fun u j => u < 2 ∧ j = r ∧ pendingOf u r s = true) s t := by
  obtain ⟨t, ht, hf⟩ := applyCommit_spec (by decide) h0 h
  have hn : ¬ (1 = 0 ∧ r = r ∧ pendingOf 0 r s = true) := by simp
  obtain ⟨u, hu, hg⟩ := applyCommit_spec (by decide) ((Flipped_commitWaits hf (by decide) hr hn).trans h1)
    (FlipsFreely_of_flipped h hf)
  have hplan' : getR .SW_PLAN_PENDING [] u = 0 := by
    rw [hg.touches.getR_eq (by simp [IsCommitReg, IsFlipReg, InBasecamp, regOff, regDesc, dimOff]),
      hf.touches.getR_eq (by simp [IsCommitReg, IsFlipReg, InBasecamp, regOff, regDesc, dimOff]), hplan]
  refine ⟨u, by simp only [applyCommits, ht, hu, foldE_plans hplan'], ?_⟩
  rw [(hf.pending 1 (by decide) r hr).2 hn] at hg
  refine Flipped_congr (Flipped_trans hf hg fun x j hf hg => by omega) fun x j => ?_
  constructor
  · rintro (⟨rfl, rfl, hp⟩ | ⟨rfl, rfl, hp⟩)
    · exact ⟨by decide, rfl, hp⟩
    · exact ⟨by decide, rfl, hp⟩
  · rintro ⟨hx, rfl, hp⟩
    have hx' : x = 0 ∨ x = 1 := by omega
    rcases hx' with rfl | rfl
    · exact Or.inl ⟨rfl, rfl, hp⟩
    · exact Or.inr ⟨rfl, rfl, hp⟩

/-! The rest of a boundary. -/

theorem endAccess_touches (id st : Nat) (s : State) :
    Touches [.regs, .reads] (fun o => o = 0x840800) s (endAccess id st s) := by
  have h : ∀ n : Nat, Touches [.regs, .reads] (fun o => o = 0x840800) s
      (if n = 0 then s else addF F.MEM_LEND_COUNTS_LOST [] n s) := fun n => by
    split
    · exact Touches.refl _ _ s
    · exact (Touches.refl _ _ s).addF rfl
  exact (h _).withReads

/-- RTE instructions of the rope wait no more, and lock-step counts the step (R404, R425). -/
def stepUncounted (r : Nat) (s : State) : State :=
  clearLate r (if lsArmed r s then modLs r (fun k => { k with steps := (lsOf r s).steps + 1 }) s else s)

/-- STEP counts (R404). -/
def stepCounted (r : Nat) (s : State) : State := addF F.CMD_ROPE_STATE_STEP [r] 1 (stepUncounted r s)

theorem stepUncounted_regs (r : Nat) (s : State) : (stepUncounted r s).regs = s.regs := by
  unfold stepUncounted
  split <;> rfl

theorem stepCounted_touches (r : Nat) (s : State) :
    Touches [.regs, .rtes, .lockstep] (fun o => o = regOff .CMD_ROPE_STATE [r]) s (stepCounted r s) := by
  refine Touches.addF (Touches.withRtes ?_) rfl
  split
  · exact (Touches.refl _ _ s).withLockstep
  · exact Touches.refl _ _ s

/-- The boundary a rope has once one STEP_MARK of it is over. -/
def restOf (b : Boundary) : Option Boundary :=
  if (b.marks.drop 1).isEmpty then none else some { marks := b.marks.drop 1 }

theorem boundaryAction_of_applied {r : Nat} {s t : State} (h : applyCommits r s = .ok t)
    (hp : getF F.MEM_PF_CTRL_PENDING [r] t = 0) : boundaryAction r s = .ok (stepCounted r t) := by
  unfold boundaryAction
  rw [h]
  simp only [activateSchedule, hp, if_true, stepCounted, stepUncounted]

theorem boundaryAfter_mark {r : Nat} {b : Boundary} (h0 : b.compose0 = false) (hc : b.composer = false) (s : State) :
    boundaryAfter r b s = .ok (completeAll (b.marks.take 1) (modRope r (fun k => { k with boundary := restOf b }) s)) := by
  simp only [boundaryAfter, h0, hc, restOf, Bool.false_eq_true, if_false]

/-- A boundary that nothing holds back applies its commits, counts, and ends (R404). -/
theorem tryBoundary_applies {r : Nat} {b : Boundary} {s t : State} (hb : (ropeOf r s).boundary = some b)
    (hst : ropeState r s = RopeSt.running ∨ ropeState r s = RopeSt.suspended) (hheld : b.held = false) (hcomp : b.composer = false)
    (h0 : b.compose0 = false) (hbusy : rteBusy r s = false) (hwait : flipsWait r s = false) (hdue : checkpointDue r s = false)
    (h : applyCommits r s = .ok t) (hp : getF F.MEM_PF_CTRL_PENDING [r] t = 0) : tryBoundary r s =
      .ok (completeAll (b.marks.take 1) (modRope r (fun k => { k with boundary := restOf b }) (stepCounted r t))) := by
  have hst' : ropeState r s = RopeSt.running ∨ ropeState r s = RopeSt.suspended ∨ ropeState r s = RopeSt.ready :=
    hst.imp id Or.inl
  unfold tryBoundary boundaryApply
  rw [hb, boundaryAction_of_applied h hp]
  simp only [decide_eq_true hst', hbusy, hwait, hheld, hdue, Bool.not_true, Bool.or_self, Bool.false_eq_true, if_false]
  exact boundaryAfter_mark h0 hcomp _

/-- A boundary that is held back, or none, leaves the state. -/
theorem tryBoundary_held_back {r : Nat} {s : State}
    (h : (ropeOf r s).boundary = none ∨ rteBusy r s = true ∨ flipsWait r s = true) : tryBoundary r s = .ok s := by
  unfold tryBoundary
  split
  · rfl
  · next b hb =>
    have hw : rteBusy r s = true ∨ flipsWait r s = true := h.resolve_left (by simp [hb])
    rw [if_pos]
    rcases hw with hw | hw <;> simp [hw]

theorem stepBoundary_ok {r : Nat} {s t : State} (hr : r < 16) (h : tryBoundary r (Quiet s) = .ok t) :
    exec (.stepBoundary r) s = .next (endAccess 544 0 t) := by
  change runIf (decide (r < 16)) (fun s => runRope r (tryBoundary r s) s) s = _
  rw [runIf, decide_eq_true hr, if_pos rfl, Quiet_of_out, runRope, h]
  rfl

theorem askBoundary_touches (r : Nat) (f : Boundary → Boundary) (s : State) : Touches [.ropes] (fun _ => False) s (askBoundary r f s) :=
  (Touches.refl _ _ s).withRopes

/-- STEP_MARK adds its record to the rope's boundary and goes on (R404). -/
theorem stepMark_goes {q : Nat} {rec : Rec} {owner : Requester} {s : State} (h : RecordAt q 0x0C rec owner s)
    (hm : mayName owner (recField rec 40 1) s)
    (hst : ropeState (recField rec 40 1) s = RopeSt.running ∨ ropeState (recField rec 40 1) s = RopeSt.suspended)
    (hc : composerOn (recField rec 40 1) s = false) (hz : bodyZero rec 41 64) :
    exec (.stepMark (.window q)) s = .next (startRec q (dropReads 544
      (askBoundary (recField rec 40 1) (fun b => { b with marks := b.marks ++ [.window q rec.seq] }) (Quiet s)))) := by
  refine runRecord_going h ?_
  have hn : (jobOf q rec owner).mayName (recField rec 40 1) (Quiet s) = true := job_mayName (s := Quiet s) hm
  have hst' : ropeState (recField rec 40 1) (Quiet s) = RopeSt.running ∨ ropeState (recField rec 40 1) (Quiet s) = RopeSt.suspended := hst
  have hc' : composerOn (recField rec 40 1) (Quiet s) = false := hc
  simp [cmdStepMark, hn, hst', hc', zeroBody_of_bodyZero hz]

/-- The state a boundary of rope `r` leaves once its commits have taken effect as `t`. -/
def boundaryOver (r : Nat) (b : Boundary) (t : State) : State :=
  endAccess 544 0 (completeAll (b.marks.take 1) (modRope r (fun k => { k with boundary := restOf b }) (stepCounted r t)))

/-- The registers written after a boundary's commits. -/
def IsBoundaryReg (r o : Nat) : Prop := o = regOff .CMD_ROPE_STATE [r] ∨ InBasecamp o ∨ o = 0x840800

section
variable {r : Nat} {b : Boundary} {t : State}

theorem modRope_stepCounted_touches (f : Rope → Rope) :
    Touches [.regs, .rtes, .lockstep, .ropes] (fun o => o = regOff .CMD_ROPE_STATE [r]) t (modRope r f (stepCounted r t)) :=
  Touches.withRopes ((stepCounted_touches r t).mono (by decide) fun _ => id)

theorem completeMark_touches (hf : FreesNothing (b.marks.take 1) t) (f : Rope → Rope) :
    Touches completeParts InBasecamp (modRope r f (stepCounted r t)) (completeAll (b.marks.take 1) (modRope r f (stepCounted r t))) :=
  have h := (modRope_stepCounted_touches (r := r) (t := t) f).only
  (completeAll_touches (FreesNothing_congr hf (h.2 .xes (by decide)) (RecsKept_of_queues_eq (h.2 .queues (by decide))))).1

theorem boundaryOver_touches (hf : FreesNothing (b.marks.take 1) t) :
    Touches [.regs, .rtes, .lockstep, .ropes, .queues, .belays, .heldSigs, .reads] (IsBoundaryReg r) t (boundaryOver r b t) := by
  refine Touches.trans ?_ ((endAccess_touches 544 0 _).mono (by decide) fun _ h => Or.inr (Or.inr h))
  exact ((modRope_stepCounted_touches _).mono (by decide) fun _ => Or.inl).trans
    ((completeMark_touches hf _).mono (by decide) fun _ h => Or.inr (Or.inl h))

/-- The fields of the rope's register: STEP counts, the others stay. -/
theorem boundaryOver_ropeState (hr : r < 16) (hf : FreesNothing (b.marks.take 1) t) :
    getF F.CMD_ROPE_STATE_STEP [r] (boundaryOver r b t) = (getF F.CMD_ROPE_STATE_STEP [r] t + 1) % 65536 ∧
    ropeState r (boundaryOver r b t) = ropeState r t := by
  have h1 : getR .CMD_ROPE_STATE [r] (boundaryOver r b t) = getR .CMD_ROPE_STATE [r] (stepCounted r t) := by
    refine Eq.trans ((endAccess_touches 544 0 _).getR_eq ?_) ((completeMark_touches hf _).getR_eq ?_)
    · simp [regOff, regDesc, dimOff]; omega
    · simp [InBasecamp, regOff, regDesc, dimOff]; omega
  have h2 : ∀ f : Fld, getF f [r] (stepUncounted r t) = getF f [r] t := fun f => getF_congr f [r] (stepUncounted_regs r t)
  constructor
  · rw [getF, h1, ← getF, stepCounted, addF, getF_setF_same _ _ _ _ (by decide) (by decide), h2]
    rfl
  · rw [ropeState, getF, h1, ← getF, stepCounted, addF, getF_setF_beside (f := F.CMD_ROPE_STATE_STEP) (g := F.CMD_ROPE_STATE_STATE) _ _ _ rfl (by decide)
      (by decide) (by decide), h2, ropeState]

theorem boundaryOver_boundary (hf : FreesNothing (b.marks.take 1) t) : (ropeOf r (boundaryOver r b t)).boundary = restOf b := by
  rw [boundaryOver, ropeOf_congr r ((endAccess_touches 544 0 _).only.2 .ropes (by decide)),
    ropeOf_congr r ((completeMark_touches hf _).only.2 .ropes (by decide)), ropeOf_modRope_same]

end

/-- Settles O21: the commits of the rope flip their banks and nothing else that a boundary reads, and what follows them touches
STEP, the rope's boundary, its queues and its belays. -/
theorem stepBoundaries : Obligations.StepBoundaries := by
  unfold Obligations.StepBoundaries
  refine ⟨?_, fun r s hr h => stepBoundary_ok hr (tryBoundary_held_back (s := Quiet s) h), ?_⟩
  · intro q rec owner s h r hm hst hc hz
    refine ⟨_, _, stepMark_goes h hm hst hc hz, (askBoundary_touches r _ (Quiet s)).only, ropeOf_modRope_same .., ?_,
      fun o ho => ropeOf_modRope_other _ _ ho⟩
    change ((ropeOf r s).boundary.getD {}).marks ++ _ = _
    cases (ropeOf r s).boundary <;> rfl
  · intro r b s hr hb hheld hcomp h0 hst hbusy hwait hfree hdue hp hplan hstat
    have hw : commitWaits 0 r s = false ∧ commitWaits 1 r s = false := by
      simp only [flipsWait, Bool.or_eq_false_iff] at hwait
      exact hwait.1
    obtain ⟨t, ht, hf⟩ := applyCommits_spec (s := Quiet s) hr hw.1 hw.2 hplan
      ⟨hstat, FreesNothing_subset (s := Quiet s) hfree fun w hw => List.mem_append_right _ hw⟩
    have hp' : getF F.MEM_PF_CTRL_PENDING [r] t = 0 := by
      rw [hf.touches.getF_eq (by simp [IsCommitReg, IsFlipReg, InBasecamp, regOff, regDesc, dimOff]; omega)]
      exact hp
    have hmark : FreesNothing (b.marks.take 1) t :=
      FreesNothing_congr (FreesNothing_subset (s := Quiet s) hfree fun w hw => List.mem_append_left _ hw)
        (hf.touches.only.2 .xes (by decide)) hf.recs
    have hover := boundaryOver_touches (r := r) hmark
    obtain ⟨hstep, hstate⟩ := boundaryOver_ropeState hr hmark
    have hq : ¬ IsCommitReg (regOff .CMD_ROPE_STATE [r]) := by
      simp [IsCommitReg, IsFlipReg, InBasecamp, regOff, regDesc, dimOff]; omega
    have hbank : ∀ u < 2, ¬ IsBoundaryReg r (regOff (pendingReg u) []) ∧ ¬ IsBoundaryReg r (regOff (bankReg u) []) := by
      intro u hu
      have hu' : u = 0 ∨ u = 1 := by omega
      rcases hu' with rfl | rfl <;> simp [IsBoundaryReg, InBasecamp, pendingReg, bankReg, regOff, regDesc, dimOff] <;> omega
    have hpend : ∀ u < 2, ∀ j, pendingOf u j (boundaryOver r b t) = pendingOf u j t := fun u hu j =>
      pendingOf_congr u (hover.getR_eq (hbank u hu).1)
    have hbanks : ∀ u < 2, ∀ j, bankBit u j (boundaryOver r b t) = bankBit u j t := fun u hu j =>
      bankBit_congr u (hover.getR_eq (hbank u hu).2)
    refine ⟨boundaryOver r b t, stepBoundary_ok hr (tryBoundary_applies (s := Quiet s) hb hst hheld hcomp h0 hbusy hwait hdue ht hp'),
      ?_, fun u hu => ⟨?_, ?_⟩, fun o ho hne u hu => ⟨?_, ?_⟩, ?_, ?_, ?_, ?_, fun x _ y => ?_⟩
    · rw [hstep, hf.touches.getF_eq hq]
      rfl
    · rw [hpend u hu]
      obtain ⟨h1, h2⟩ := hf.pending u hu r hr
      cases hps : pendingOf u r (Quiet s) with
      | true => exact h1 ⟨hu, rfl, hps⟩
      | false => exact (h2 fun h => by simp [hps] at h).trans hps
    · rw [bankOf_eq, hbanks u hu]
      obtain ⟨h1, h2⟩ := hf.bank u hu r hr
      change _ = if pendingOf u r (Quiet s) = true then 1 - bankOf u r (Quiet s) else bankOf u r (Quiet s)
      rw [bankOf_eq]
      cases hps : pendingOf u r (Quiet s) with
      | true =>
        rw [h1 ⟨hu, rfl, hps⟩]
        cases bankBit u r (Quiet s) <;> rfl
      | false =>
        rw [h2 fun h => by simp [hps] at h]
        rfl
    · rw [bankOf_eq, hbanks u hu, (hf.bank u hu o ho).2 fun h => hne h.2.1]
      rfl
    · rw [hpend u hu, (hf.pending u hu o ho).2 fun h => hne h.2.1]
      rfl
    · rw [boundaryOver_boundary hmark, restOf]
      simp only [List.isEmpty_iff]
    · rw [hstate, ropeState, hf.touches.getF_eq hq]
      rfl
    · exact (hover.only.2 .mem (by decide)).trans (hf.touches.only.2 .mem (by decide))
    · exact (hover.only.2 .cores (by decide)).trans (hf.touches.only.2 .cores (by decide))
    · rw [tableAt_of_tables (hover.only.2 .tables (by decide)), hf.table]
      rfl

end Sys2Proof.Machine
end

section
/-! Writing entries of tables (R393). -/

namespace Sys2Proof.Machine

open Sys2Proof

/-! Entries cut from bytes. -/

/-- Bytes of `n` entries of `w` are cut into them. -/
theorem entriesOf_spec {w n : Nat} {bs : List Byte} (hw : 0 < w) (h : bs.length = n * w) :
    (entriesOf w n bs).length = n ∧ ∀ k, k < n → leNat ((entriesOf w n bs).getD k []) = fieldAt bs (k * w) w := by
  induction n generalizing bs with
  | zero => exact ⟨rfl, fun k hk => absurd hk (Nat.not_lt_zero k)⟩
  | succ n ih =>
    have hne : bs.isEmpty = false := by
      rw [Nat.succ_mul] at h
      cases bs with
      | nil => simp at h; omega
      | cons _ _ => rfl
    obtain ⟨hlen, hget⟩ := ih (bs := bs.drop w) (by rw [List.length_drop, h, Nat.succ_mul]; omega)
    rw [entriesOf, if_neg (by simp [hne])]
    refine ⟨by rw [List.length_cons, hlen], fun k hk => ?_⟩
    cases k with
    | zero => simp [fieldAt]
    | succ k =>
      rw [List.getD_cons_succ, hget k (by omega), fieldAt, fieldAt, List.drop_drop, Nat.succ_mul, Nat.add_comm w]

theorem entryBytes_eq (table : Nat) (h : table < 5) : entryBytes table = tableEntryBytes table := by
  have : table = 0 ∨ table = 1 ∨ table = 2 ∨ table = 3 ∨ table = 4 := by omega
  rcases this with rfl | rfl | rfl | rfl | rfl <;> rfl

theorem tableEntryBytes_pos (table : Nat) : 0 < tableEntryBytes table := by
  unfold tableEntryBytes
  split
  · decide
  · split <;> decide

theorem commitClass_eq (table : Nat) : commitClass table = tableTarget table := by
  unfold commitClass tableTarget
  exact if_congr (by omega) rfl rfl

/-! Putting entries. -/

/-- The value at a raw index of a table (R393), of the tables alone. -/
def entryAt (table x : Nat) (t : Tables) : Nat :=
  match table with
  | 0 => (tget 0 t.placement x).toNat
  | 1 => (tget 0 t.layerDir x).toNat
  | 2 => (tget 0 t.rankMap x).toNat
  | 3 => (tget 0 t.planDir x).toNat
  | _ => (tget 0 t.planLine x).toNat

theorem tableAt_eq (table x : Nat) (s : State) : tableAt table x s = entryAt table x s.tables := by
  match table with
  | 0 | 1 | 2 | 3 => rfl
  | _ + 4 => rfl

/-- Reading a table of words after one is set. -/
theorem toNat_tget_tset {w : Nat} (t : Tab (BitVec w)) (i x v : Nat) :
    (tget 0 (tset 0 t i (BitVec.ofNat w v)) x).toNat = if x = i then v % 2 ^ w else (tget 0 t x).toNat := by
  by_cases h : x = i
  · rw [h, tget_tset_same, if_pos rfl, BitVec.toNat_ofNat]
  · rw [tget_tset_other _ _ _ _ h, if_neg h]

theorem table_cases {table : Nat} (h : table < 5) : table = 0 ∨ table = 1 ∨ table = 2 ∨ table = 3 ∨ table = 4 := by omega

section
variable {table : Nat} (h : table < 5) (i bank first : Nat) (bs : List Byte) (t : Tables)
include h

/-- A table after an entry is put. -/
theorem entryAt_putEntry (h3 : table = 3 → first = 0) (x : Nat) : entryAt table x (putEntry table i bank first bs t) =
    if x = tableBase table i bank + first then leNat bs % 256 ^ tableEntryBytes table else entryAt table x t := by
  rcases table_cases h with rfl | rfl | rfl | rfl | rfl
  · exact toNat_tget_tset ..
  · exact toNat_tget_tset ..
  · exact toNat_tget_tset ..
  · rw [h3 rfl]
    exact toNat_tget_tset ..
  · exact toNat_tget_tset ..

theorem entryAt_putEntry_other {o : Nat} (ho : o < 5) (hne : o ≠ table) (x : Nat) :
    entryAt o x (putEntry table i bank first bs t) = entryAt o x t := by
  rcases table_cases h with rfl | rfl | rfl | rfl | rfl <;> rcases table_cases ho with rfl | rfl | rfl | rfl | rfl <;>
    first | rfl | exact absurd rfl hne

/-- What lies beside the tables of R393. -/
theorem putEntry_beside : (putEntry table i bank first bs t).tierMap = t.tierMap ∧ (putEntry table i bank first bs t).pages = t.pages ∧
    (putEntry table i bank first bs t).deferred = t.deferred := by
  rcases table_cases h with rfl | rfl | rfl | rfl | rfl <;> exact ⟨rfl, rfl, rfl⟩

end

/-- Entries put one after the other, from entry `first` on. -/
def putEntries (table i bank first : Nat) (es : List (List Byte)) (t : Tables) : Tables :=
  es.zipIdx.foldl (fun t e => putEntry table i bank (first + e.2) e.1 t) t

/-- The last entry is put last. -/
theorem putEntries_concat (table i bank first : Nat) (es : List (List Byte)) (e : List Byte) (t : Tables) :
    putEntries table i bank first (es ++ [e]) t =
      putEntry table i bank (first + es.length) e (putEntries table i bank first es t) := by
  simp [putEntries, List.zipIdx_append]

section
variable {table : Nat} (h : table < 5) (i bank : Nat)
include h

theorem entryAt_putEntries {first : Nat} {es : List (List Byte)} (h3 : table = 3 → first = 0 ∧ es.length ≤ 1) (t : Tables) (x : Nat) :
    entryAt table x (putEntries table i bank first es t) =
      if tableBase table i bank + first ≤ x ∧ x < tableBase table i bank + first + es.length then
        leNat (es.getD (x - (tableBase table i bank + first)) []) % 256 ^ tableEntryBytes table
      else entryAt table x t := by
  induction es using List.reverseRecOn with
  | nil => rw [if_neg (by simp)]; rfl
  | append_singleton es e ih =>
    have hlen : (es ++ [e]).length = es.length + 1 := by simp
    rw [hlen] at h3 ⊢
    rw [putEntries_concat, entryAt_putEntry h _ _ _ _ _ (fun h => by have := h3 h; omega), ih fun h => by have := h3 h; omega]
    set lo := tableBase table i bank + first
    by_cases hx : x = lo + es.length
    · rw [if_pos (by omega), if_pos (by omega)]
      have : x - lo = es.length := by omega
      simp [this]
    · rw [if_neg (by omega)]
      by_cases hin : lo ≤ x ∧ x < lo + es.length
      · rw [if_pos hin, if_pos (by omega), List.getD_append _ _ _ _ (by omega)]
      · rw [if_neg hin, if_neg (by omega)]

theorem entryAt_putEntries_other (first : Nat) (es : List (List Byte)) (t : Tables) {o : Nat} (ho : o < 5) (hne : o ≠ table) (x : Nat) :
    entryAt o x (putEntries table i bank first es t) = entryAt o x t := by
  induction es using List.reverseRecOn with
  | nil => rfl
  | append_singleton es e ih => rw [putEntries_concat, entryAt_putEntry_other h _ _ _ _ _ ho hne, ih]

theorem putEntries_beside (first : Nat) (es : List (List Byte)) (t : Tables) :
    (putEntries table i bank first es t).tierMap = t.tierMap ∧ (putEntries table i bank first es t).pages = t.pages ∧
    (putEntries table i bank first es t).deferred = t.deferred := by
  induction es using List.reverseRecOn with
  | nil => exact ⟨rfl, rfl, rfl⟩
  | append_singleton es e ih =>
    obtain ⟨h1, h2, h3⟩ := putEntry_beside h i bank (first + es.length) e (putEntries table i bank first es t)
    rw [putEntries_concat]
    exact ⟨h1.trans ih.1, h2.trans ih.2.1, h3.trans ih.2.2⟩

end

/-! A write to the shadow bank. -/

theorem tget_filter_out {α : Type} (d : α) (p : Nat → Bool) (t : Tab α) {i : Nat} (h : p i = false) : tget d (tfilter p t) i = d := by
  induction t with
  | nil => rfl
  | cons e t ih =>
    obtain ⟨j, v⟩ := e
    unfold tfilter at ih ⊢
    rw [List.filter_cons]
    split
    · next hp =>
      have hj : j ≠ i := fun e => by rw [e] at hp; exact absurd hp (by simp [h])
      rw [tget, if_neg hj, ih]
    · exact ih

/-- Cleaned entries hold no poison and no error. -/
theorem cleanEntries_clean (first n : Nat) (s : State) {x : Nat} (hx : x < n) :
    (cleanEntries first n s).mem.poisoned (16 * hubWord (first + x)) = false ∧
    tget 0 (cleanEntries first n s).mem.errs (hubWord (first + x)) = 0 := by
  have hw : wholeWord (16 * hubWord first) (16 * n) (hubWord (first + x)) = true :=
    Bool.and_eq_true_iff.2 ⟨decide_eq_true (by unfold hubWord; omega), decide_eq_true (by unfold hubWord; omega)⟩
  have hd : 16 * hubWord (first + x) / 16 = hubWord (first + x) := by omega
  constructor
  · simp only [Mem.poisoned, cleanEntries, Mem.unpoison, hd]
    simp [List.mem_filter, hw]
  · exact tget_filter_out 0 (fun w => ! wholeWord (16 * hubWord first) (16 * n) w) s.mem.errs (by rw [hw]; rfl)

/-- The range of a TABLE_WRITE to a plan's directory is its one entry (R393). -/
theorem rangeOk_plan {table i first n : Nat} {s : State} (h : rangeOk table i first n s = true) :
    table = 3 → first = 0 ∧ n ≤ 1 := by
  rintro rfl
  simp only [rangeOk, decide_eq_true_eq] at h
  omega

theorem shadowWrite_eq (table i first : Nat) (es : List (List Byte)) (s : State) : shadowWrite table i first es s =
    modTables (putEntries table i (1 - bankOf (commitClass table) i s) first es)
      (if table = 0 then cleanEntries ((1 - bankOf (commitClass table) i s) * 262144 + first) es.length s else s) := rfl

section
variable {table i first : Nat} {es : List (List Byte)} (s : State)

theorem shadowWrite_tables : (shadowWrite table i first es s).tables =
    putEntries table i (1 - bankOf (commitClass table) i s) first es s.tables := by
  rw [shadowWrite_eq, modTables_tables]
  split <;> rfl

theorem shadowWrite_touches : Touches [.tables, .mem] (fun _ => False) s (shadowWrite table i first es s) := by
  rw [shadowWrite_eq]
  refine Touches.withTables ?_
  split
  · exact (Touches.refl _ _ s).withMem
  · exact Touches.refl _ _ s

theorem shadowWrite_mem (h : table ≠ 0) : (shadowWrite table i first es s).mem = s.mem := by
  rw [shadowWrite_eq, if_neg h]
  rfl

theorem shadowWrite_plainMemory : PlainMemory s (shadowWrite table i first es s) := by
  rw [shadowWrite_eq]
  split
  · exact cleanEntries_plainMemory _ _ _
  · exact plainMemory_of_mem_eq rfl

/-- A write of table entries writes them into the shadow bank alone (R393). -/
theorem shadowWrite_written (h : table < 5) {bs : List Byte} (hr : rangeOk table i first es.length s = true)
    (hb : ∀ k, k < es.length → leNat (es.getD k []) % 256 ^ tableEntryBytes table =
      fieldAt bs (k * tableEntryBytes table) (tableEntryBytes table)) :
    TableWritten table i (1 - bankOf (tableTarget table) i s) first es.length bs s (shadowWrite table i first es s) := by
  refine ⟨fun x => ?_, fun o ho hne x => ?_⟩
  · rw [tableAt_eq, tableAt_eq, shadowWrite_tables, commitClass_eq, entryAt_putEntries h _ _ (rangeOk_plan hr)]
    split
    · exact hb _ (by omega)
    · rfl
  · rw [tableAt_eq, tableAt_eq, shadowWrite_tables, entryAt_putEntries_other h _ _ _ _ _ ho hne]

end

end Sys2Proof.Machine
end

section
/-! TABLE_WRITE and TABLE_COMMIT from a window. -/

namespace Sys2Proof.Machine

open Sys2Proof

section
variable {q : Nat} {rec : Rec} {owner : Requester} {s : State}

/-- The fields of the TABLE_WRITE a record asks for keep the rules of R391 and R393. -/
structure TableWriteOk (q : Nat) (rec : Rec) (owner : Requester) (s : State) : Prop where
  table : recField rec 40 1 < 5
  rope : recField rec 40 1 < 3 → mayName owner (recField rec 41 1) s ∧ takesTables (recField rec 41 1) s = true
  plan : 3 ≤ recField rec 40 1 → planAllowed (jobOf q rec owner) (recField rec 41 1) s = true
  lo : 1 ≤ recField rec 48 4
  hi : recField rec 48 4 ≤ 4194304
  range : rangeOk (recField rec 40 1) (recField rec 41 1) (recField rec 44 4) (recField rec 48 4) s = true
  zero : bodyZero rec 42 44
  zero' : bodyZero rec 58 64
  good : s.mem.anyPoison (hostPlace (recField rec 52 6)) (recField rec 48 4 * tableEntryBytes (recField rec 40 1)) = false

/-- The entries of a TABLE_WRITE. -/
def writtenEntries (rec : Rec) (s : State) : List (List Byte) :=
  entriesOf (tableEntryBytes (recField rec 40 1)) (recField rec 48 4)
    (hostBytes s (recField rec 52 6) (recField rec 48 4 * tableEntryBytes (recField rec 40 1)))

theorem hostBytes_length (s : State) (a n : Nat) : (hostBytes s a n).length = n := by simp [hostBytes, Mem.bytes]

theorem writtenEntries_spec (rec : Rec) (s : State) : (writtenEntries rec s).length = recField rec 48 4 ∧
    ∀ k, k < recField rec 48 4 → leNat ((writtenEntries rec s).getD k []) =
      fieldAt (hostBytes s (recField rec 52 6) (recField rec 48 4 * tableEntryBytes (recField rec 40 1)))
        (k * tableEntryBytes (recField rec 40 1)) (tableEntryBytes (recField rec 40 1)) :=
  entriesOf_spec (tableEntryBytes_pos _) (hostBytes_length ..)

/-- The state in which a TABLE_WRITE has read its entries. -/
abbrev readEntries (rec : Rec) (owner : Requester) (s : State) : State :=
  { Quiet s with out := [.hostRead (fnIdx owner) (recField rec 52 6) (recField rec 48 4 * tableEntryBytes (recField rec 40 1))] }

/-- What a TABLE_WRITE to a table but the tier map does: it waits, or its entries are written (R393). -/
theorem cmdTableWrite_ok (h : TableWriteOk q rec owner s) : cmdTableWrite (jobOf q rec owner) (Quiet s) = .ok
    (if writeHeld (recField rec 40 1) (recField rec 41 1) s then
      .going (modTables (fun t => { t with deferred := t.deferred ++ [⟨recField rec 40 1, recField rec 41 1, recField rec 44 4,
        writtenEntries rec s, .window q rec.seq, pendingOf (tableTarget (recField rec 40 1)) (recField rec 41 1) s⟩] })
        (readEntries rec owner s))
    else .done (shadowWrite (recField rec 40 1) (recField rec 41 1) (recField rec 44 4) (writtenEntries rec s) (readEntries rec owner s))) := by
  obtain ⟨ht, hrope, hplan, hlo, hhi, hrange, hz, hz', hgood⟩ := h
  have hallowed : (if recField rec 40 1 = 3 ∨ recField rec 40 1 = 4 then planAllowed (jobOf q rec owner) (recField rec 41 1) (Quiet s)
      else (jobOf q rec owner).mayName (recField rec 41 1) (Quiet s) && takesTables (recField rec 41 1) (Quiet s) &&
        (decide (recField rec 40 1 ≠ 5) || decide ((jobOf q rec owner).ownRope (Quiet s) = none))) = true := by
    split
    · exact hplan (by omega)
    · have h1 : (jobOf q rec owner).mayName (recField rec 41 1) (Quiet s) = true := job_mayName (s := Quiet s) (hrope (by omega)).1
      have h2 : takesTables (recField rec 41 1) (Quiet s) = true := (hrope (by omega)).2
      have h3 : recField rec 40 1 ≠ 5 := by omega
      simp [h1, h2, h3]
  have hread : (jobOf q rec owner).read (recField rec 52 6) (recField rec 48 4 * tableEntryBytes (recField rec 40 1)) (Quiet s) =
    .ok (hostBytes s (recField rec 52 6) (recField rec 48 4 * tableEntryBytes (recField rec 40 1))) := job_read (s := Quiet s) hgood
  have h5 : recField rec 40 1 ≠ 5 := by omega
  have h6 : recField rec 40 1 < 6 := by omega
  have hguard : ¬ (! (decide (recField rec 40 1 < 6) && (if recField rec 40 1 = 3 ∨ recField rec 40 1 = 4 then
        planAllowed (jobOf q rec owner) (recField rec 41 1) (Quiet s)
      else (jobOf q rec owner).mayName (recField rec 41 1) (Quiet s) && takesTables (recField rec 41 1) (Quiet s) &&
        (decide (recField rec 40 1 ≠ 5) || decide ((jobOf q rec owner).ownRope (Quiet s) = none))) &&
      decide (1 ≤ recField rec 48 4 ∧ recField rec 48 4 ≤ 4194304) &&
      rangeOk (recField rec 40 1) (recField rec 41 1) (recField rec 44 4) (recField rec 48 4) s &&
      (jobOf q rec owner).zeroBody 42 44 && (jobOf q rec owner).zeroBody 58 64)) = true := by
    rw [hallowed, hrange, zeroBody_of_bodyZero hz, zeroBody_of_bodyZero hz', decide_eq_true h6, decide_eq_true ⟨hlo, hhi⟩]
    decide
  rw [← entryBytes_eq _ ht] at hread
  refine (if_neg hguard).trans ?_
  simp only [jobOf_fld]
  rw [hread]
  refine (if_neg h5).trans ?_
  rw [entryBytes_eq _ ht, commitClass_eq]
  change (if writeHeld (recField rec 40 1) (recField rec 41 1) s = true then _ else _) = _
  split <;> rfl

theorem tableWrite_lands (h : RecordAt q 0x08 rec owner s) (hok : TableWriteOk q rec owner s)
    (hh : writeHeld (recField rec 40 1) (recField rec 41 1) s = false) : exec (.tableWrite (.window q)) s = .next (completed q rec
      (shadowWrite (recField rec 40 1) (recField rec 41 1) (recField rec 44 4) (writtenEntries rec s) (readEntries rec owner s))) := by
  refine runRecord_done h ?_
  rw [cmdTableWrite_ok hok, hh]
  rfl

theorem tableWrite_waits (h : RecordAt q 0x08 rec owner s) (hok : TableWriteOk q rec owner s)
    (hh : writeHeld (recField rec 40 1) (recField rec 41 1) s = true) : exec (.tableWrite (.window q)) s =
      .next (startRec q (dropReads 544 (modTables (fun t => { t with deferred := t.deferred ++ [⟨recField rec 40 1, recField rec 41 1,
        recField rec 44 4, writtenEntries rec s, .window q rec.seq, pendingOf (tableTarget (recField rec 40 1)) (recField rec 41 1) s⟩] })
        (readEntries rec owner s)))) := by
  refine runRecord_going h ?_
  rw [cmdTableWrite_ok hok, hh]
  rfl

/-- The commit a TABLE_COMMIT of a window asks for (R394). -/
def askedCommit (q : Nat) (rec : Rec) (s : State) : Commit :=
  ⟨recField rec 40 1, recField rec 41 1, decide (recField rec 42 1 = 1),
    if recField rec 44 6 = 0 then none else some (recField rec 44 6), none, .window q rec.seq,
    (s.tables.deferred.filter (fun d => sameQueue d.who (.window q rec.seq))).map (fun d => d.who)⟩

/-- The state in which a TABLE_COMMIT is pending. -/
def commitAsked (q : Nat) (rec : Rec) (s : State) : State :=
  startRec q (dropReads 544 (modTables (fun t => { t with commits := t.commits ++ [askedCommit q rec s] })
    (setPending (recField rec 40 1) (recField rec 41 1) true (Quiet s))))

theorem tableCommit_asks (h : RecordAt q 0x09 rec owner s) (ht : recField rec 40 1 < 2) (hm : mayName owner (recField rec 41 1) s)
    (hst : takesTables (recField rec 41 1) s = true) (h42 : recField rec 42 1 < 2) (hz : bodyZero rec 43 44)
    (hz' : bodyZero rec 50 64) : exec (.tableCommit (.window q)) s = .next (settleReady (commitAsked q rec s)) := by
  have hn : (jobOf q rec owner).mayName (recField rec 41 1) (Quiet s) = true := job_mayName (s := Quiet s) hm
  have hst' : takesTables (recField rec 41 1) (Quiet s) = true := hst
  have h2 : recField rec 40 1 ≠ 2 := by omega
  have h3 : recField rec 40 1 < 3 := by omega
  have hguard : ¬ (! (decide (recField rec 40 1 < 3) && (if recField rec 40 1 = 2 then planAllowed (jobOf q rec owner) (recField rec 41 1) (Quiet s)
      else (jobOf q rec owner).mayName (recField rec 41 1) (Quiet s) && takesTables (recField rec 41 1) (Quiet s)) &&
      decide (recField rec 42 1 < 2) && (jobOf q rec owner).zeroBody 43 44 && (jobOf q rec owner).zeroBody 50 64)) = true := by
    rw [if_neg h2, hn, hst', zeroBody_of_bodyZero hz, zeroBody_of_bodyZero hz', decide_eq_true h3, decide_eq_true h42]
    decide
  have hgo : cmdTableCommit (jobOf q rec owner) (Quiet s) = .ok (.going (modTables (fun t => { t with
      commits := t.commits ++ [askedCommit q rec s] }) (setPending (recField rec 40 1) (recField rec 41 1) true (Quiet s)))) :=
    (if_neg hguard).trans rfl
  have he : exec (.tableCommit (.window q)) s = execTableCommit (.window q) s := rfl
  rw [he, execTableCommit, runRecord_going h hgo]
  rfl

end

end Sys2Proof.Machine
end

section
/-! Commits and copy-backs outside a boundary (R52, R158, R159, R394). -/

namespace Sys2Proof.Machine

open Sys2Proof

/-! READY ropes. -/

/-- With no rope READY no commit takes effect (R394). -/
theorem settleReady_of_noneReady {s : State} (h : NoneReady s) : settleReady s = endAccess 544 0 s := by
  have hl : (List.range 16).filter (fun r => decide (ropeState r s = RopeSt.ready)) = [] :=
    List.filter_eq_nil_iff.2 fun r hr => by simpa using h r (List.mem_range.1 hr)
  rw [settleReady, readyCommits, hl]
  rfl

theorem NoneReady_congr {s t : State} (h : NoneReady s) (hr : ∀ r < 16, ropeState r t = ropeState r s) : NoneReady t :=
  fun r hlt => by rw [hr r hlt]; exact h r hlt

/-- A rope's commits do nothing where none is pending. -/
theorem applyCommits_nothing {r : Nat} {s : State} (h0 : pendingOf 0 r s = false) (h1 : pendingOf 1 r s = false)
    (hp : getR .SW_PLAN_PENDING [] s = 0) : applyCommits r s = .ok s := by
  simp only [applyCommits, applyCommit_not_pending h0, applyCommit_not_pending h1, foldE_plans hp]

/-- A loop over `Except` in which each pass does nothing. -/
theorem foldE_nothing {α σ : Type} {l : List α} {s : σ} {f : α → σ → Except Stop σ} (h : ∀ a ∈ l, f a s = .ok s) :
    foldE l s f = .ok s := by
  induction l with
  | nil => rfl
  | cons a l ih =>
    rw [foldE, h a List.mem_cons_self]
    exact ih fun b hb => h b (List.mem_cons_of_mem _ hb)

/-- A loop in which one pass does something, the passes before and after it nothing. -/
theorem foldE_one {α σ : Type} {l : List α} {a : α} {s t : σ} {f : α → σ → Except Stop σ} (ha : a ∈ l) (hs : f a s = .ok t)
    (hbefore : ∀ b ∈ l, b ≠ a → f b s = .ok s) (hafter : ∀ b ∈ l, f b t = .ok t) : foldE l s f = .ok t := by
  induction l with
  | nil => exact absurd ha List.not_mem_nil
  | cons b l ih =>
    by_cases hb : b = a
    · rw [foldE, hb, hs]
      exact foldE_nothing fun c hc => hafter c (List.mem_cons_of_mem _ hc)
    · rw [foldE, hbefore b List.mem_cons_self hb]
      exact ih ((List.mem_cons.1 ha).resolve_left (Ne.symm hb)) (fun c hc => hbefore c (List.mem_cons_of_mem _ hc))
        fun c hc => hafter c (List.mem_cons_of_mem _ hc)

/-! The record of a commit. -/

theorem find?_modFirst {p : Rec → Bool} {f : Rec → Rec} {l : List Rec} {r : Rec} (h : l.find? p = some r) : f r ∈ modFirst p f l := by
  induction l with
  | nil => simp at h
  | cons a l ih =>
    unfold modFirst
    rw [List.find?_cons] at h
    cases hp : p a with
    | true =>
      rw [hp] at h
      obtain rfl : a = r := by simpa using h
      simp
    | false =>
      rw [hp] at h
      simp [ih h]

theorem startRec_recs (q : Nat) (s : State) : (queueOf q (startRec q s)).recs =
    modFirst (fun r => ! r.started) (fun r => { r with started := true }) (queueOf q s).recs := by
  rw [startRec, queueOf_modQueue_same]

theorem startRec_touches (q : Nat) (s : State) : Touches [.queues] (fun _ => False) s (startRec q s) :=
  (Touches.refl _ _ s).withQueues

theorem startRec_regs (q : Nat) (s : State) : (startRec q s).regs = s.regs := rfl

theorem dropReads_touches (id : Nat) (s : State) : Touches [.reads] (fun _ => False) s (dropReads id s) :=
  (Touches.refl _ _ s).withReads

/-- The only record of a queue completes: the queue is empty. -/
theorem completeWaiter_last {q : Nat} {x : Rec} {s : State} (h : (queueOf q s).recs = [x]) (hs : x.started = true) (hd : x.done = false)
    (hf : FreesNothing [.window q x.seq] s) : (queueOf q (completeWaiter (.window q x.seq) s)).recs = [] := by
  have hx : isBegun x.seq x = true := by simp [isBegun, hs, hd]
  have hfind : (queueOf q s).recs.find? (isBegun x.seq) = some x := by rw [h, List.find?_cons, hx]
  have hrec : (queueOf q (finishRec q (isBegun x.seq) s)).recs = [] := by
    rw [finishRec, queueOf_modQueue_same, h, modFirst, hx]
    cases ho : x.old <;> simp [popDone]
  have hw : (∀ y ∈ s.xes, y.2.active = []) ∨ 4096 ≤ fieldAt x.bytes 12 2 :=
    hf.imp id fun hf => hf _ List.mem_cons_self x (by rw [h]; exact List.mem_cons_self) rfl
  have hsig := recordSignal_touches (bs := x.bytes) (s := finishRec q (isBegun x.seq) s) hw
  rw [completeWaiter_window, hfind, queueOf, (hsig.only.2 .queues (by decide) : _ = (finishRec q (isBegun x.seq) s).queues)]
  exact hrec

section
variable {q : Nat} {rec : Rec} {owner : Requester} {s : State}

/-- The state in which a TABLE_COMMIT is pending: its target's pending bit, and its record. -/
theorem commitAsked_touches (q : Nat) (rec : Rec) (s : State) :
    Touches [.regs, .tables, .queues, .reads] (IsBankReg (recField rec 40 1)) s (commitAsked q rec s) := by
  have h : Touches [.regs, .tables, .queues, .reads] (IsBankReg (recField rec 40 1)) s (Quiet s) := (Touches.refl _ _ s).withOut
  exact (((h.trans ((setPending_touches _ _ true).mono (by decide) fun _ => id)).withTables).trans
    ((dropReads_touches 544 _).mono (by decide) fun _ => False.elim)).trans
      ((startRec_touches q _).mono (by decide) fun _ => False.elim)

theorem commitAsked_tables (q : Nat) (rec : Rec) (s : State) :
    (commitAsked q rec s).tables = { s.tables with commits := s.tables.commits ++ [askedCommit q rec s] } := by
  have h : (setPending (recField rec 40 1) (recField rec 41 1) true (Quiet s)).tables = s.tables :=
    (setPending_touches (Quiet s) _ true).only.2 .tables (by decide)
  rw [← h]
  rfl

theorem commitAsked_regs (q : Nat) (rec : Rec) (s : State) :
    (commitAsked q rec s).regs = (setPending (recField rec 40 1) (recField rec 41 1) true (Quiet s)).regs := by
  rw [commitAsked, startRec_regs, dropReads_regs, modTables_regs]

theorem pendingOf_commitAsked (ht : recField rec 40 1 < 2) {u j : Nat} (hu : u < 2) (hj : j < 16) : pendingOf u j (commitAsked q rec s) =
    if u = recField rec 40 1 ∧ j = recField rec 41 1 then true else pendingOf u j s := by
  rw [pendingOf_congr u (getR_congr (pendingReg u) [] (commitAsked_regs q rec s))]
  by_cases h : u = recField rec 40 1
  · rw [← h, pendingOf_setPending _ u true (by simpa [targets, hu] using hj)]
    simp
    rfl
  · rw [if_neg (fun g => h g.1)]
    exact pendingOf_congr u ((setPending_touches (Quiet s) _ true).getR_eq (bankReg_ne_other hu ht h).1)

theorem bankOf_commitAsked (hu : recField rec 40 1 = u) : bankOf u j (commitAsked q rec s) = bankOf u j s := by
  rw [bankOf_eq, bankBit_congr u (getR_congr (bankReg u) [] (commitAsked_regs q rec s)), hu, bankBit_setPending]
  rfl

theorem tableAt_commitAsked (x y : Nat) : tableAt x y (commitAsked q rec s) = tableAt x y s := by
  have h := commitAsked_tables q rec s
  exact tableAt_congr (by rw [h]) (by rw [h]) (by rw [h]) (by rw [h]) (by rw [h]) x y

theorem ropeState_of_touches {ps : List Part} {Q : Nat → Prop} {s t : State} (h : Touches ps Q s t)
    (hq : ∀ r < 16, ¬ Q (regOff .CMD_ROPE_STATE [r])) : ∀ r < 16, ropeState r t = ropeState r s :=
  fun r hr => h.getF_eq (hq r hr)

end

/-- The one pending commit, of a READY rope, takes effect at once (R394). -/
theorem readyCommits_one {target i : Nat} {s : State} (ht : target < 2) (hi : i < 16) (hr : ropeState i s = RopeSt.ready)
    (hpend : ∀ u < 2, ∀ j < 16, pendingOf u j s = decide (u = target ∧ j = i)) (hplan : getR .SW_PLAN_PENDING [] s = 0)
    (hw : commitWaits target i s = false) (hfree : FlipsFreely s) :
    ∃ t, applyCommit target i s = .ok t ∧ Flipped (fun u j => u = target ∧ j = i) s t ∧ readyCommits s = .ok t := by
  have hp : pendingOf target i s = true := by rw [hpend target ht i hi]; simp
  obtain ⟨t, ht1, hf⟩ := applyCommit_flipped ht hp hw hfree.statuses hfree.frees
  have hnone : ∀ u < 2, ∀ j < 16, pendingOf u j t = false := fun u hu j hj => by
    by_cases h : u = target ∧ j = i
    · exact (hf.pending u hu j hj).1 h
    · rw [(hf.pending u hu j hj).2 h, hpend u hu j hj, decide_eq_false h]
  have hplan' : getR .SW_PLAN_PENDING [] t = 0 := by
    rw [hf.touches.getR_eq (by simp [IsCommitReg, IsFlipReg, InBasecamp, regOff, regDesc, dimOff]), hplan]
  have hone : applyCommits i s = .ok t := by
    have ht' : target = 0 ∨ target = 1 := by omega
    rcases ht' with rfl | rfl
    · simp only [applyCommits, ht1, applyCommit_not_pending (hnone 1 (by decide) i hi), foldE_plans hplan']
    · have h0 : pendingOf 0 i s = false := by rw [hpend 0 (by decide) i hi]; simp
      simp only [applyCommits, applyCommit_not_pending h0, ht1, foldE_plans hplan']
  refine ⟨t, ht1, hf, foldE_one (a := i) ?_ hone (fun j hj hne => ?_) fun j hj => ?_⟩
  · exact List.mem_filter.2 ⟨List.mem_range.2 hi, decide_eq_true hr⟩
  · have hlt := List.mem_range.1 (List.mem_of_mem_filter hj)
    exact applyCommits_nothing (by rw [hpend 0 (by decide) j hlt]; simp [hne]) (by rw [hpend 1 (by decide) j hlt]; simp [hne]) hplan
  · have hlt := List.mem_range.1 (List.mem_of_mem_filter hj)
    exact applyCommits_nothing (hnone 0 (by decide) j hlt) (hnone 1 (by decide) j hlt) hplan'

section
variable {q : Nat} {rec : Rec} {owner : Requester} {s : State}

theorem startRec_recsKept (q : Nat) (s : State) : RecsKept s (startRec q s) := fun p x hx => by
  by_cases h : p = q
  · rw [h, startRec_recs] at hx
    rcases mem_modFirst hx with hx | ⟨y, hy, rfl⟩
    · exact ⟨x, h ▸ hx, rfl, rfl⟩
    · exact ⟨y, h ▸ hy, rfl, rfl⟩
  · rw [startRec, queueOf_modQueue_other _ _ h] at hx
    exact ⟨x, hx, rfl, rfl⟩

theorem commitAsked_queues (q : Nat) (rec : Rec) (s : State) :
    (commitAsked q rec s).queues = (startRec q s).queues := by
  have h : (setPending (recField rec 40 1) (recField rec 41 1) true (Quiet s)).queues = s.queues :=
    (setPending_touches (Quiet s) _ true).only.2 .queues (by decide)
  rw [commitAsked, startRec, startRec, modQueue, modQueue, dropReads_queues, modTables_queues, h]

theorem queueOf_congr {s t : State} (p : Nat) (h : t.queues = s.queues) : queueOf p t = queueOf p s := by
  rw [queueOf, queueOf, h]

theorem commitAsked_recsKept (q : Nat) (rec : Rec) (s : State) : RecsKept s (commitAsked q rec s) :=
  RecsKept_trans (startRec_recsKept q s) (RecsKept_of_queues_eq (commitAsked_queues q rec s))

theorem commitAsked_commitsOf (hc : s.tables.commits = []) :
    commitsOf (recField rec 40 1) (recField rec 41 1) (commitAsked q rec s) = [askedCommit q rec s] := by
  simp [commitsOf, commitAsked_tables, hc, askedCommit]

/-- A commit with no earlier write of its queue held, and no copy-back under way, does not wait (R51). -/
theorem commitAsked_free (hc : s.tables.commits = []) (hb : s.tables.copyBack = [])
    (hd : ∀ d ∈ s.tables.deferred, sameQueue d.who (.window q rec.seq) = false) :
    commitWaits (recField rec 40 1) (recField rec 41 1) (commitAsked q rec s) = false := by
  have hafter : (askedCommit q rec s).after = [] := by
    rw [askedCommit, List.filter_eq_nil_iff.2 fun d h => by simp [hd d h]]
    rfl
  simp [commitWaits, commitAsked_commitsOf hc, hafter, commitAsked_tables, hb]

theorem commitAsked_flipsFreely (hc : s.tables.commits = []) (h44 : recField rec 44 6 = 0)
    (hf : FreesNothing [.window q rec.seq] s) : FlipsFreely (commitAsked q rec s) := by
  have hl : (commitAsked q rec s).tables.commits = [askedCommit q rec s] := by rw [commitAsked_tables, hc]; rfl
  constructor
  · intro c hc'
    rw [hl, List.mem_singleton] at hc'
    rw [hc', askedCommit, h44]
    rfl
  · rw [hl]
    exact FreesNothing_congr hf ((commitAsked_touches q rec s).only.2 .xes (by decide)) (commitAsked_recsKept q rec s)

end

end Sys2Proof.Machine
end

section
/-! Plans and their calendar slots (R157 to R160). -/

namespace Sys2Proof.Machine

open Sys2Proof

/-- Slot `x` is HELD by plan `p` in a calendar. -/
def SlotHeld (p x : Nat) (l : List (Nat × CalSlot)) : Prop :=
  ∃ c, l.find? (fun e => decide (e.1 = x)) = some (x, c) ∧ c.draining = false ∧ c.plan = p

theorem find?_putSlot (x y : Nat) (c : CalSlot) (l : List (Nat × CalSlot)) :
    (putSlot x c l).find? (fun e => decide (e.1 = y)) = if y = x then some (x, c) else l.find? (fun e => decide (e.1 = y)) := by
  induction l with
  | nil => by_cases h : y = x <;> simp [putSlot, h, Ne.symm]
  | cons e l ih =>
    unfold putSlot
    split
    · by_cases h : y = x
      · simp [h]
      · simp [h, Ne.symm h]
    · split
      · next he =>
        by_cases h : y = x
        · simp [h]
        · have hne : ¬ e.1 = y := fun g => h (by rw [← g, he])
          simp [h, Ne.symm h, hne]
      · next he =>
        rw [List.find?_cons, ih]
        by_cases h : y = x
        · have hne : ¬ e.1 = y := fun g => he (by rw [g, h])
          simp [h, decide_eq_false (h ▸ hne)]
        · simp [h, List.find?_cons]

theorem SlotHeld_putSlot {p x y : Nat} {c : CalSlot} {l : List (Nat × CalSlot)} (hd : c.draining = false) (hp : c.plan = p)
    (h : y = x ∨ SlotHeld p y l) : SlotHeld p y (putSlot x c l) := by
  by_cases hy : y = x
  · subst hy
    exact ⟨c, by rw [find?_putSlot, if_pos rfl], hd, hp⟩
  · obtain ⟨c', hc, hd', hp'⟩ := h.resolve_left hy
    exact ⟨c', by rw [find?_putSlot, if_neg hy, hc], hd', hp'⟩

/-- Every slot a plan takes is HELD by it. -/
theorem SlotHeld_putSlots {p job : Nat} (need : List (Nat × Nat)) (l : List (Nat × CalSlot)) (y : Nat)
    (h : (∃ x ∈ need, x.1 = y) ∨ SlotHeld p y l) :
    SlotHeld p y (need.foldl (fun c x => putSlot x.1 ⟨false, job, p, x.2⟩ c) l) := by
  induction need generalizing l with
  | nil => exact h.resolve_left (by simp)
  | cons x need ih =>
    refine ih _ ?_
    rcases h with ⟨z, hz, rfl⟩ | h
    · rcases List.mem_cons.1 hz with rfl | hz
      · exact Or.inr (SlotHeld_putSlot rfl rfl (Or.inl rfl))
      · exact Or.inl ⟨z, hz, rfl⟩
    · exact Or.inr (SlotHeld_putSlot rfl rfl (Or.inr h))

section
variable {p : Nat} {s : State}

theorem slotPasses_congr {s t : State} (p x : Nat) (h : t.tables = s.tables) : slotPasses p x t = slotPasses p x s := by
  simp only [slotPasses, h]

theorem setPending_tables (target i : Nat) (b : Bool) (s : State) : (setPending target i b s).tables = s.tables :=
  (setPending_touches s target b).only.2 .tables (by decide)

theorem setBank_tables (target i v : Nat) (s : State) : (setBank target i v s).tables = s.tables :=
  (setBank_touches s target v).only.2 .tables (by decide)

theorem setPending_mem (target i : Nat) (b : Bool) (s : State) : (setPending target i b s).mem = s.mem :=
  (setPending_touches s target b).only.2 .mem (by decide)

theorem setBank_mem (target i v : Nat) (s : State) : (setBank target i v s).mem = s.mem :=
  (setBank_touches s target v).only.2 .mem (by decide)

/-- The slots of plan `p` that it no longer needs drain (R159). -/
def drainedCalendar (p : Nat) (need : List Nat) (t : Tables) : Tables :=
  { t with calendar := t.calendar.map (fun (e : Nat × CalSlot) =>
    if e.2.plan = p ∧ ! e.2.draining ∧ ! need.contains e.1 then (e.1, { e.2 with draining := true }) else e) }

/-- The calendar after a flip of plan `p` that needs the slots `need` (R159). -/
def flippedCalendar (p job : Nat) (need : List (Nat × Nat)) (t : Tables) : Tables :=
  let t := drainedCalendar p (need.map (fun x => x.1)) t
  { t with calendar := need.foldl (fun (c : List (Nat × CalSlot)) x => putSlot x.1 ⟨false, job, p, x.2⟩ c) t.calendar }

theorem flipPlan_flips (h : ∀ x ∈ planSlots p (1 - bankOf 2 p s) s, slotPasses p x.1 s = true) : flipPlan p s =
    (St.ok, setBank 2 p (1 - bankOf 2 p s) (modTables (flippedCalendar p (planDirAt p (1 - bankOf 2 p s) s).1 (planSlots p (1 - bankOf 2 p s) s))
      (setPending 2 p false s))) := by
  have ht := setPending_tables 2 p false s
  have hall : (planSlots p (1 - bankOf 2 p s) s).all (fun x => slotPasses p x.1 (setPending 2 p false s)) = true :=
    List.all_eq_true.2 fun x hx => by rw [slotPasses_congr p x.1 ht]; exact h x hx
  have hdir : planDirAt p (1 - bankOf 2 p s) (setPending 2 p false s) = planDirAt p (1 - bankOf 2 p s) s := by
    simp only [planDirAt, ht]
  unfold flipPlan
  simp only [hall, Bool.not_true, Bool.false_eq_true, if_false, hdir, drainPlan, modTables, flippedCalendar, drainedCalendar]

theorem flipPlan_busy (h : ∃ x ∈ planSlots p (1 - bankOf 2 p s) s, slotPasses p x.1 s = false) :
    flipPlan p s = (St.slotsBusy, setPending 2 p false s) := by
  obtain ⟨x, hx, hp⟩ := h
  have hall : (planSlots p (1 - bankOf 2 p s) s).all (fun x => slotPasses p x.1 (setPending 2 p false s)) = false :=
    List.all_eq_false.2 ⟨x, hx, by rw [slotPasses_congr p x.1 (setPending_tables 2 p false s), hp]; decide⟩
  unfold flipPlan
  simp only [hall]
  rfl

theorem exec_planFlip (hp : p < 64) (hgo : ∀ r, jobRope (planJob p s) s = some r → ropeState r s = RopeSt.ready)
    {t : State} (h : applyCommit 2 p (Quiet s) = .ok t) : exec (.planFlip p) s = .next (endAccess 544 0 t) := by
  have he : exec (.planFlip p) s = runIf (decide (p < 64)) (planFlipStep p) s := rfl
  have hj : jobRope (planJob p (Quiet s)) (Quiet s) = jobRope (planJob p s) s := rfl
  rw [he, runIf, decide_eq_true hp, if_pos rfl, Quiet_of_out, planFlipStep, hj, h]
  cases hr : jobRope (planJob p s) s with
  | none => rfl
  | some r =>
    have : ropeState r (Quiet s) = RopeSt.ready := hgo r hr
    simp only [decide_eq_true this, if_true]
    rfl

/-- What a plan's commit leaves: its tables, apart from the calendar, and memory. -/
structure PlanFlipped (p : Nat) (s t : State) : Prop where
  pending : pendingOf 2 p t = false
  table : ∀ x, x < 5 → ∀ y, tableAt x y t = tableAt x y s
  mem : t.mem = s.mem
  flips : (∀ x ∈ planSlots p (1 - bankOf 2 p s) s, slotPasses p x.1 s = true) → bankOf 2 p t = 1 - bankOf 2 p s ∧
    ∀ x ∈ planSlots p (1 - bankOf 2 p s) s, SlotHeld p x.1 t.tables.calendar
  busy : (∃ x ∈ planSlots p (1 - bankOf 2 p s) s, slotPasses p x.1 s = false) →
    bankOf 2 p t = bankOf 2 p s ∧ t.tables.calendar = s.tables.calendar

theorem bankOf_compl (target i : Nat) (s : State) : (if decide (1 - bankOf target i s = 1) = true then 1 else 0) = 1 - bankOf target i s := by
  rw [bankOf_eq]
  cases bankBit target i s <;> rfl

theorem flipPlan_flipped (hp : p < 64) (back : Bool) :
    PlanFlipped p s (modTables (commitLists 2 p back) (flipPlan p s).2) := by
  have hpend : pendingOf 2 p (setPending 2 p false s) = false := by
    rw [pendingOf_setPending s 2 false (by simpa [targets] using hp), if_pos rfl]
  have hmem := setPending_mem 2 p false s
  by_cases h : ∀ x ∈ planSlots p (1 - bankOf 2 p s) s, slotPasses p x.1 s = true
  · rw [flipPlan_flips h]
    set w := modTables (flippedCalendar p (planDirAt p (1 - bankOf 2 p s) s).1 (planSlots p (1 - bankOf 2 p s) s)) (setPending 2 p false s)
    have htab := setBank_tables 2 p (1 - bankOf 2 p s) w
    have hw : w.tables = flippedCalendar p (planDirAt p (1 - bankOf 2 p s) s).1 (planSlots p (1 - bankOf 2 p s) s) s.tables := by
      rw [← setPending_tables 2 p false s]
      rfl
    have htab' : (modTables (commitLists 2 p back) (setBank 2 p (1 - bankOf 2 p s) w)).tables = commitLists 2 p back w.tables := by
      rw [modTables_tables, htab]
    refine ⟨?_, fun x _ y => ?_, ?_, fun _ => ⟨?_, fun x hx => ?_⟩, ?_⟩
    · exact (pendingOf_setBank w 2 _).trans hpend
    · exact tableAt_congr (by rw [htab', hw]; rfl) (by rw [htab', hw]; rfl) (by rw [htab', hw]; rfl) (by rw [htab', hw]; rfl)
        (by rw [htab', hw]; rfl) x y
    · exact (setBank_mem 2 p (1 - bankOf 2 p s) w).trans hmem
    · have hb : bankBit 2 p (modTables (commitLists 2 p back) (setBank 2 p (1 - bankOf 2 p s) w)) = decide (1 - bankOf 2 p s = 1) := by
        refine (bankBit_setBank w 2 (1 - bankOf 2 p s) (j := p) (by simpa [targets] using hp)).trans (if_pos rfl)
      rw [bankOf_eq, hb, bankOf_compl]
    · rw [htab', hw]
      exact SlotHeld_putSlots _ _ _ (Or.inl ⟨x, hx, rfl⟩)
    · rintro ⟨x, hx, hbad⟩
      rw [h x hx] at hbad
      exact absurd hbad (by decide)
  · have hb : ∃ x ∈ planSlots p (1 - bankOf 2 p s) s, slotPasses p x.1 s = false := by simpa using h
    rw [flipPlan_busy hb]
    have htab' : (modTables (commitLists 2 p back) (setPending 2 p false s)).tables = commitLists 2 p back s.tables := by
      rw [modTables_tables, setPending_tables]
    refine ⟨hpend, fun x _ y => ?_, hmem, fun h' => absurd h' h, fun _ => ⟨?_, by rw [htab']; rfl⟩⟩
    · exact tableAt_congr (by rw [htab']; rfl) (by rw [htab']; rfl) (by rw [htab']; rfl) (by rw [htab']; rfl) (by rw [htab']; rfl) x y
    · rw [bankOf_eq, bankOf_eq]
      exact congrArg (fun b => if b = true then 1 else 0) (bankBit_setPending s 2 false)

end

end Sys2Proof.Machine
end

section
/-! Copies of a bank (R52). -/

namespace Sys2Proof.Machine

open Sys2Proof

/-! Blocks of tables. -/

/-- Entries of one block put into another block, read by index. -/
theorem tget_putBlock {α : Type} [DecidableEq α] (d : α) {n a b : Nat} (l base : Tab α) (hl : ∀ e ∈ l, a ≤ e.1 ∧ e.1 < a + n) (x : Nat)
    (hd : b ≤ x → x < b + n → tget d base x = d) : tget d (l.foldr (fun e o => tset d o (e.1 - a + b) e.2) base) x =
      if b ≤ x ∧ x < b + n then tget d l (a + (x - b)) else tget d base x := by
  induction l with
  | nil =>
    split
    · next h => exact hd h.1 h.2
    · rfl
  | cons e l ih =>
    obtain ⟨k, v⟩ := e
    obtain ⟨hlo, hhi⟩ := hl (k, v) List.mem_cons_self
    have ih := ih fun e he => hl e (List.mem_cons_of_mem _ he)
    rw [List.foldr_cons]
    by_cases hx : x = k - a + b
    · rw [hx, tget_tset_same, if_pos (by omega), tget, if_pos (by omega)]
    · rw [tget_tset_other _ _ _ _ hx, ih]
      split
      · rw [tget, if_neg (by omega)]
      · rfl

/-- A block of a table copied over another one. -/
theorem tget_copyBlock {α : Type} [DecidableEq α] (d : α) (n a b : Nat) (t : Tab α) (x : Nat) : tget d (copyBlock d n a b t) x =
    if b ≤ x ∧ x < b + n then tget d t (a + (x - b)) else tget d t x := by
  have hsrc : ∀ e ∈ t.filter (fun e => decide (a ≤ e.1 ∧ e.1 < a + n)), a ≤ e.1 ∧ e.1 < a + n := fun e he => by
    simpa using (List.mem_filter.1 he).2
  rw [copyBlock, tget_putBlock d _ _ hsrc x fun h1 h2 => tget_filter_out d _ t (by simp; omega)]
  split
  · exact tget_filter_of d (fun k => decide (a ≤ k ∧ k < a + n)) t (by simp; omega)
  · exact tget_filter_of d (fun k => ! decide (b ≤ k ∧ k < b + n)) t (by simp; omega)

/-! Poison of the placement table. -/

/-- Words of the placement table put under poison, one after the other. -/
theorem setPoison_entries (b : Nat) (l : List Nat) (m : Mem) :
    let u := l.foldl (fun m i => m.setPoison (16 * hubWord (b + i))) m
    (∀ w, w ∈ u.poison ↔ (∃ i ∈ l, w = hubWord (b + i)) ∨ w ∈ m.poison) ∧
    ∀ p, p / 16 < hubWord 0 → u.byte p = m.byte p ∧ u.poisoned p = m.poisoned p := by
  induction l generalizing m with
  | nil => simp
  | cons i l ih =>
    have hd : 16 * hubWord (b + i) / 16 = hubWord (b + i) := by omega
    obtain ⟨h1, h2⟩ := ih (m.setPoison (16 * hubWord (b + i)))
    refine ⟨fun w => ?_, fun p hp => ?_⟩
    · rw [List.foldl_cons, h1]
      simp only [Mem.setPoison, hd, mem_insertNat, List.mem_cons, exists_eq_or_imp]
      exact or_left_comm.trans or_assoc.symm
    · have hne : p / 16 ≠ hubWord (b + i) := by simp only [hubWord] at hp ⊢; omega
      have hbyte : (m.setPoison (16 * hubWord (b + i))).byte p = m.byte p := by
        simp only [Mem.byte, Mem.setPoison, hd]
        exact tget_filter_of 0 (fun k => decide (k / 16 ≠ hubWord (b + i))) m.cells (by simpa using hne)
      have hpoison : (m.setPoison (16 * hubWord (b + i))).poisoned p = m.poisoned p := by
        rw [Bool.eq_iff_iff]
        simp [Mem.poisoned, Mem.setPoison, hd, mem_insertNat, hne]
      rw [List.foldl_cons]
      exact ⟨(h2 p hp).1.trans hbyte, (h2 p hp).2.trans hpoison⟩

theorem copyEntryPoison_plainMemory (n a b : Nat) (s : State) : PlainMemory s (copyEntryPoison n a b s) :=
  PlainMemory_trans (cleanEntries_plainMemory b n s) fun p hp => (setPoison_entries b _ _).2 p hp

/-- The entries whose poison is copied: those of the block that is poisoned. -/
theorem mem_poisonedEntries {n a i : Nat} {l : List Nat} :
    i ∈ (l.filter (fun w => decide (hubWord a ≤ w) && decide (w < hubWord (a + n)))).map (fun w => w - hubWord a) ↔
      i < n ∧ hubWord (a + i) ∈ l := by
  simp only [List.mem_map, List.mem_filter, Bool.and_eq_true, decide_eq_true_eq]
  simp only [hubWord]
  constructor
  · rintro ⟨w, ⟨hw, h1, h2⟩, rfl⟩
    exact ⟨by omega, by rwa [show 2 ^ 62 + (a + (w - (2 ^ 62 + a))) = w by omega]⟩
  · rintro ⟨hi, hw⟩
    exact ⟨_, ⟨hw, by omega, by omega⟩, by omega⟩

/-- Entry `x` of the copy is poisoned where the original is. -/
theorem poisoned_copyEntryPoison {n a b x : Nat} (s : State) (hx : x < n) :
    (copyEntryPoison n a b s).mem.poisoned (16 * hubWord (b + x)) = s.mem.poisoned (16 * hubWord (a + x)) := by
  have hd : ∀ y, 16 * hubWord y / 16 = hubWord y := fun y => by omega
  have hclean : hubWord (b + x) ∉ (cleanEntries b n s).mem.poison := by
    simpa [Mem.poisoned, hd] using (cleanEntries_clean b n s hx).1
  rw [Bool.eq_iff_iff]
  simp only [Mem.poisoned, hd, List.contains_iff_mem]
  rw [copyEntryPoison, (setPoison_entries b _ _).1, or_iff_left hclean]
  constructor
  · rintro ⟨i, hi, he⟩
    obtain rfl : x = i := by simp only [hubWord] at he; omega
    exact (mem_poisonedEntries.1 hi).2
  · exact fun h => ⟨x, mem_poisonedEntries.2 ⟨hx, h⟩, rfl⟩

/-! The copy. -/

theorem findTableErrors_of_errs_nil (first n : Nat) {s : State} (h : s.mem.errs = []) : findTableErrors first n s = s := by
  rw [findTableErrors, h, List.isEmpty_nil, if_pos rfl]

/-- The tables after the copy of a target's bank `a` into its bank `b`; `base` and `size` are the rope's placement region. -/
def copiedTables (target i a b base size : Nat) (t : Tables) : Tables :=
  match target with
  | 0 => { t with placement := copyBlock 0 size (a * 262144 + base) (b * 262144 + base) t.placement,
                  layerDir := copyBlock 0 256 ((i * 2 + a) * 256) ((i * 2 + b) * 256) t.layerDir }
  | 1 => { t with rankMap := copyBlock 0 32768 ((i * 2 + a) * 32768) ((i * 2 + b) * 32768) t.rankMap }
  | _ => { t with planDir := copyBlock 0 1 (i * 2 + a) (i * 2 + b) t.planDir,
                  planLine := copyBlock 0 1024 ((i * 2 + a) * 1024) ((i * 2 + b) * 1024) t.planLine }

section
variable {target i : Nat} {s : State}

theorem copyBackNow_eq (h : s.mem.errs = []) : copyBackNow target i s =
    modTables (copiedTables target i (bankOf target i s) (1 - bankOf target i s) (ropeOf i s).ptBase (ropeOf i s).ptSize)
      (if target = 0 then copyEntryPoison (ropeOf i s).ptSize (bankOf target i s * 262144 + (ropeOf i s).ptBase)
        ((1 - bankOf target i s) * 262144 + (ropeOf i s).ptBase) s else s) := by
  unfold copyBackNow
  simp only [findTableErrors_of_errs_nil _ _ h]
  match target with
  | 0 => rfl
  | 1 => rfl
  | _ + 2 => rfl

/-- What a copy-back touches. -/
theorem copyBackNow_touches (h : s.mem.errs = []) : Touches [.tables, .mem] (fun _ => False) s (copyBackNow target i s) := by
  rw [copyBackNow_eq h]
  refine Touches.withTables ?_
  split
  · exact (Touches.refl _ _ s).withMem.withMem
  · exact Touches.refl _ _ s

theorem copyBackNow_plainMemory (h : s.mem.errs = []) : PlainMemory s (copyBackNow target i s) := by
  rw [copyBackNow_eq h]
  split
  · exact copyEntryPoison_plainMemory _ _ _ s
  · exact plainMemory_of_mem_eq rfl

theorem copyBackNow_mem (h : s.mem.errs = []) (ht : target ≠ 0) : (copyBackNow target i s).mem = s.mem := by
  rw [copyBackNow_eq h, if_neg ht]
  rfl

theorem copyBackNow_tables (h : s.mem.errs = []) : (copyBackNow target i s).tables =
    copiedTables target i (bankOf target i s) (1 - bankOf target i s) (ropeOf i s).ptBase (ropeOf i s).ptSize s.tables := by
  rw [copyBackNow_eq h, modTables_tables]
  split <;> rfl

theorem toNat_tget_copyBlock {w : Nat} (n a b : Nat) (t : Tab (BitVec w)) (x : Nat) : (tget 0 (copyBlock 0 n a b t) x).toNat =
    if b ≤ x ∧ x < b + n then (tget 0 t (a + (x - b))).toNat else (tget 0 t x).toNat := by
  rw [tget_copyBlock, apply_ite BitVec.toNat]

/-- The blocks a copied target consists of (R52). -/
theorem blockCopied_of_copiedTables {a b base size : Nat} {u : State} (hu : u.tables = copiedTables target i a b base size s.tables) :
    (target = 0 → BlockCopied 0 size (tableBase 0 i a + base) (tableBase 0 i b + base) s u ∧
      BlockCopied 1 256 (tableBase 1 i a) (tableBase 1 i b) s u) ∧
    (target = 1 → BlockCopied 2 32768 (tableBase 2 i a) (tableBase 2 i b) s u) ∧
    (target = 2 → BlockCopied 3 1 (tableBase 3 i a) (tableBase 3 i b) s u ∧
      BlockCopied 4 1024 (tableBase 4 i a) (tableBase 4 i b) s u) := by
  refine ⟨?_, ?_, ?_⟩ <;> rintro rfl
  · constructor <;> intro x <;> rw [tableAt_eq, hu, tableAt_eq, tableAt_eq] <;> exact toNat_tget_copyBlock ..
  · intro x
    rw [tableAt_eq, hu, tableAt_eq, tableAt_eq]
    exact toNat_tget_copyBlock ..
  · constructor <;> intro x <;> rw [tableAt_eq, hu, tableAt_eq, tableAt_eq] <;> exact toNat_tget_copyBlock ..

end

end Sys2Proof.Machine
end

section
/-! What an event record touches (R469 to R473). -/

namespace Sys2Proof.Machine

open Sys2Proof

theorem regOff_ge {r : Reg} {ix : List Nat} {n : Nat} (h : n ≤ (regDesc r).base) : n ≤ regOff r ix := le_trans h (Nat.le_add_right _ _)

/-- The parts of the state an event record touches. -/
abbrev eventParts : List Part := [.regs, .mem, .pcie, .events]

/-- The registers of the error block and beyond. -/
abbrev InErrors (o : Nat) : Prop := 0xB00000 ≤ o

theorem raiseVector_touches (f v : Nat) (s : State) : Touches [.pcie] (fun _ => False) s (raiseVector f v s) := by
  unfold raiseVector
  split
  · exact (Touches.refl _ _ s).withPcie
  · exact (Touches.refl _ _ s).withOut

theorem raiseEventVector_touches (cls : Nat) (s : State) : Touches [.pcie, .events] (fun _ => False) s (raiseEventVector cls s) := by
  have h := (raiseVector_touches 16 (getF F.ERR_RING_CFG_VECTOR [] s) s).mono (qs := [.pcie, .events]) (by decide) fun _ => id
  unfold raiseEventVector
  split
  · exact Touches.refl _ _ s
  · split
    · exact (Touches.refl _ _ s).withEvents
    · simp only
      split
      · exact h
      · exact h.withEvents

theorem hostWrite_touches (a : Nat) (bs : List Byte) (s : State) : Touches [.mem] (fun _ => False) s (hostWrite a bs s) :=
  ((Touches.refl [.mem] (fun _ => False) s).withMem (x := s.mem.write (hostPlace a) bs)).withOut

/-- An event record that is written, masked or lost. -/
theorem raiseEvent_touches (e : Event) (s : State) : Touches eventParts InErrors s (raiseEvent e s) := by
  unfold raiseEvent
  extract_lets t head tail bs u
  have hc : Touches eventParts InErrors s t := (Touches.refl _ _ s).setR (regOff_ge (by decide))
  have hu : Touches eventParts InErrors s u := hc.trans ((hostWrite_touches ..).mono (by decide) fun _ => False.elim)
  clear_value t u
  split
  · exact hc
  · split
    · exact hc
    · split
      · exact hc.setR (regOff_ge (by decide))
      · exact (hu.setF (regOff_ge (by decide))).trans ((raiseEventVector_touches _ _).mono (by decide) fun _ => False.elim)

end Sys2Proof.Machine
end

section
/-! What an access to memory touches (R252 to R255, R349, R357, R368). -/

namespace Sys2Proof.Machine

open Sys2Proof

/-- The parts of the state an access to memory touches. -/
abbrev accessParts : List Part :=
  [.regs, .mem, .pcie, .events, .fresh, .msgs, .switch, .reads, .readSeq, .writes, .tables]

/-- The registers of the blocks of links, switch, memory, pools, audit and errors. -/
abbrev InUpper (o : Nat) : Prop := 0x600000 ≤ o

theorem raiseEvent_access (e : Event) (s : State) : Touches accessParts InUpper s (raiseEvent e s) :=
  (raiseEvent_touches e s).mono (by decide) fun o (h : 0xB00000 ≤ o) => le_trans (by decide) h

/-! Packets of the device's own units. -/

/-- The registers of the switch core's buffers and mirrors. -/
abbrev InSwitch (o : Nat) : Prop := 0x700000 ≤ o ∧ o < 0x701000

theorem InUpper_of_inSwitch {o : Nat} (h : InSwitch o) : InUpper o := le_trans (by decide) h.1

theorem noteUnits_touches (out : Nat) (s : State) : Touches [.regs] InSwitch s (noteUnits out s) := by
  unfold noteUnits
  split
  · exact Touches.refl _ _ s
  · next hlt =>
    have hq : InSwitch (regOff .SW_OUTBUF [out]) := by simp [InSwitch, regOff, regDesc, dimOff]; omega
    extract_lets n t
    have ht : Touches [.regs] InSwitch s t := (Touches.refl _ _ s).setF hq
    clear_value t
    split
    · exact ht.setF hq
    · exact ht

theorem mirrorCopies_touches (egress : Bool) (port : Nat) (p : Packet) (s : State) :
    Touches [.regs, .switch] InSwitch s (mirrorCopies egress port p s) := by
  unfold mirrorCopies
  split
  · exact Touches.refl _ _ s
  · refine (Touches.refl _ _ s).forN fun i hi u => ?_
    have hq : InSwitch (regOff .SW_MIRROR_COUNTS [i]) := by simp [InSwitch, regOff, regDesc, dimOff]; omega
    extract_lets kind src ana sel q sw v
    have hv : Touches [.regs, .switch] InSwitch u v := (Touches.refl _ _ u).withSwitch
    clear_value sel v
    split
    · exact Touches.refl _ _ u
    · split
      · exact (hv.andThen (noteUnits_touches ana v) (hq := fun _ => id)).addF hq
      · exact (Touches.refl _ _ u).addF hq

theorem inject_touches (inp : Nat) (p : Packet) (s : State) : Touches [.regs, .switch] InSwitch s (inject inp p s) := by
  unfold inject
  refine Touches.withSwitch ?_
  split
  · exact mirrorCopies_touches _ _ _ s
  · exact mirrorCopies_touches _ _ _ s

theorem takeCellSeq_touches (dest : BitVec 16) (kind : Nat) (s : State) :
    Touches [.msgs] (fun _ => False) s (takeCellSeq dest kind s).2 := (Touches.refl _ _ s).withMsgs

theorem launchCell_touches (c : OutCell) (s : State) : Touches [.regs, .switch, .msgs] InSwitch s (launchCell c s) :=
  Touches.trans (Touches.withMsgs ((takeCellSeq_touches _ _ s).mono (by decide) fun _ => False.elim))
    ((inject_touches _ _ _).mono (by decide) fun _ => id)

theorem sendCell_touches (u : MsgUnit) (dest : BitVec 16) (kind job : Nat) (tag : BitVec 32) (payload : List Byte) (inp : Nat)
    (s : State) : Touches [.regs, .switch, .msgs] InSwitch s (sendCell u dest kind job tag payload inp s).2 := by
  unfold sendCell sendCellTo
  split
  · exact Touches.refl _ _ s
  · simp only
    split
    · exact (Touches.refl _ _ s).withMsgs
    · exact launchCell_touches _ s

/-! Stored words (R349). -/

theorem memEvent_touches (status cls c device addr : Nat) (s : State) :
    Touches eventParts InErrors s (memEvent status cls c device addr s) := raiseEvent_touches _ s

/-- The parts of the state a read that finds an error touches. -/
abbrev findParts : List Part := [.regs, .mem, .pcie, .events, .fresh]

/-- The registers of the memory and error blocks. -/
abbrev InMemory (o : Nat) : Prop := 0x800000 ≤ o

theorem memEvent_find (status cls c device addr : Nat) (s : State) :
    Touches findParts InMemory s (memEvent status cls c device addr s) :=
  (memEvent_touches ..).mono (by decide) fun o (h : 0xB00000 ≤ o) => le_trans (by decide) h

theorem noteCorrected_touches (c device line addr : Nat) (s : State) :
    Touches findParts InMemory s (noteCorrected c device line addr s) := by
  unfold noteCorrected
  extract_lets m t u now l put
  have ht : Touches findParts InMemory s t := (Touches.refl _ _ s).addF (regOff_ge (by decide))
  have hu : Touches findParts InMemory s u := by
    unfold u
    clear_value t
    split
    · exact ht
    · exact (((ht.setF (regOff_ge (by decide))).setF (regOff_ge (by decide))).setF (regOff_ge (by decide))).setF (regOff_ge (by decide))
  have hput : ∀ l, Touches findParts InMemory s (put l u) := fun l => hu.withEvents
  clear_value u put
  split
  · exact hu.trans (memEvent_find ..)
  · split
    · exact (hput _).trans (memEvent_find ..)
    · exact hput _

theorem putDecoded_touches (w : Nat) (was : Bool) (syms : List Nat) (s : State) :
    Touches [.mem, .fresh] (fun _ => False) s (putDecoded w was syms s) := by
  unfold putDecoded
  split
  · exact (Touches.refl _ _ s).withFresh.withMem
  · exact (Touches.refl _ _ s).withMem

/-- A read that finds an error. -/
theorem findError_touches (w : Nat) (s : State) : Touches findParts InMemory s (findError w s) := by
  have hput : ∀ was syms, Touches findParts InMemory s (putDecoded w was syms s) := fun was syms =>
    (putDecoded_touches w was syms s).mono (by decide) fun _ => False.elim
  have hpoison : Touches findParts InMemory s { s with mem := s.mem.setPoison (16 * w) } := (Touches.refl _ _ s).withMem
  unfold findError
  split
  · exact Touches.refl _ _ s
  · simp only
    split
    · exact hput _ _
    · split
      · exact (hput _ _).trans (noteCorrected_touches ..)
      · exact hput _ _
    · split
      · exact hpoison.trans (memEvent_find ..)
      · exact hpoison
    · split
      · exact (hpoison.addF (regOff_ge (by decide))).trans (memEvent_find ..)
      · exact hpoison

theorem findEdges_touches (p n : Nat) (s : State) : Touches findParts InMemory s (findEdges p n s) := by
  unfold findEdges
  split
  · exact Touches.refl _ _ s
  · exact (Touches.refl _ _ s).forList fun w _ u => findError_touches w u

/-! Writes and reads. -/

theorem queueMsg_noted_touches (m : MsgReq) (q : BitVec 32) (rs : List ReadReq) (ws : List WriteReq) (s : State) :
    Touches [.msgs, .reads, .readSeq, .writes] (fun _ => False) s (queueMsg m { s with readSeq := q, reads := rs, writes := ws }) :=
  ((((Touches.refl [.msgs, .reads, .readSeq, .writes] (fun _ => False) s).withReadSeqReads (x0 := q) (x1 := rs)).withWrites (x := ws))).withMsgs

theorem sendMwrite_touches (w : Who) (a n l h off : Nat) (bs : List Byte) (poison : Bool) (s : State) :
    Touches [.msgs, .reads, .readSeq, .writes] (fun _ => False) s (sendMwrite w a n l h off bs poison s) := by
  unfold sendMwrite
  exact queueMsg_noted_touches ..

/-- A write that goes through. -/
theorem writeA_touches {n : Nat} {w : Who} {a : Nat} {bs : List Byte} {poison : Bool} {s t : State}
    (h : writeA n w a bs poison s = .ok t) : Touches accessParts InMemory s t := by
  induction n generalizing a bs s with
  | zero =>
    obtain rfl : s = t := by simpa [writeA] using h
    exact Touches.refl _ _ s
  | succ n ih =>
    have hsend : ∀ k l g off b p, Touches accessParts InMemory s (sendMwrite w a k l g off b p s) := fun k l g off b p =>
      (sendMwrite_touches ..).mono (by decide) fun _ => False.elim
    unfold writeA at h
    split at h
    · obtain rfl : s = t := by simpa using h
      exact Touches.refl _ _ s
    · simp only at h
      split at h
      · exact absurd h (by simp)
      · exact absurd h (by simp)
      · next p _ =>
        refine Touches.trans ?_ (ih h)
        have hm : ∀ m, Touches accessParts InMemory s { findEdges p (min bs.length (2 ^ 21 - a % 2 ^ 21)) s with mem := m } := fun m =>
          ((findEdges_touches p _ s).mono (by decide) fun _ => id).withMem
        split
        · exact (hm _).withOut
        · exact hm _
      · split at h
        · exact (hsend ..).trans (ih h)
        · split at h
          · exact absurd h (by simp)
          · exact (hsend ..).trans (ih h)

theorem wr_touches {w : Who} {a : Nat} {bs : List Byte} {s t : State} (h : wr w a bs s = .ok t) : Touches accessParts InMemory s t :=
  writeA_touches h

theorem lenderLost_touches (l : Nat) (s : State) :
    Touches [.regs, .mem, .pcie, .events, .tables, .reads] InMemory s (lenderLost l s) := by
  unfold lenderLost
  extract_lets used t tb u
  have ht : Touches [.regs, .mem, .pcie, .events, .tables, .reads] InMemory s t :=
    (Touches.refl _ _ s).forN fun r _ v => (Touches.refl _ _ v).subF (regOff_ge (by decide))
  have hu : Touches [.regs, .mem, .pcie, .events, .tables, .reads] InMemory s u :=
    ht.withTablesReads
  clear_value u
  exact hu.trans ((raiseEvent_touches _ u).mono (by decide) fun o (h : 0xB00000 ≤ o) => le_trans (by decide) h)

theorem hostReadError_touches (r off : Nat) (s : State) : Touches findParts InMemory s (hostReadError r off s) :=
  Touches.trans (Touches.refl _ _ s).withFresh ((raiseEvent_touches _ _).mono (by decide) fun o (h : 0xB00000 ≤ o) => le_trans (by decide) h)

/-- What a read needs first. -/
theorem askLender_touches (w : Who) (l h off : Nat) (s : State) : Touches accessParts InUpper s (askLender w l h off s) := by
  have hm : ∀ o, InMemory o → InUpper o := fun o h => le_trans (by decide) h
  unfold askLender
  extract_lets asked
  have hasked : ∀ lost ans u, Touches accessParts InUpper s u → Touches accessParts InUpper s (asked lost ans u) :=
    fun lost ans u hu => hu.withReadSeqReads
  clear_value asked
  split
  · exact (findError_touches off s).mono (by decide) hm
  · split
    · exact Touches.refl _ _ s
    · split
      · exact (hasked false _ _ ((hostReadError_touches w.rope off s).mono (by decide) hm)).withOut
      · split
        · exact hasked true none s (Touches.refl _ _ s)
        · split
          · exact Touches.refl _ _ s
          · have hcell := (hasked false none s (Touches.refl _ _ s)).trans
              ((sendCell_touches (.read s.readSeq) (BitVec.ofNat 16 l) 0x13 (ropeJob w.rope s) s.readSeq
                (natLe 4 h ++ natLe 4 off ++ natLe 4 128 ++ zeros 36) 24 _).mono (by decide) fun _ => InUpper_of_inSwitch)
            split
            next ok u he =>
            rw [he] at hcell
            split
            · exact hcell
            · exact hcell.trans ((lenderLost_touches l u).mono (by decide) hm)

theorem endAccess_access (id st : Nat) (s : State) : Touches accessParts InUpper s (endAccess id st s) :=
  (endAccess_touches id st s).mono (by decide) fun o h => by rw [h]; decide

/-- What a unit does over memory, where its fault changes nothing. -/
theorem runAccess_touches {ps : List Part} {w : Who} {x : Except Stop State} {s : State} (hp : ∀ p ∈ accessParts, p ∈ ps)
    (h : ∀ t, x = .ok t → Touches ps InUpper s t) : Touches ps InUpper s (runAccess w x (fun _ _ s => s) s) := by
  unfold runAccess
  split
  · next t => exact (h t rfl).trans ((endAccess_access _ _ t).mono hp fun _ => id)
  · exact (askLender_touches ..).mono hp fun _ => id
  · exact (endAccess_access _ _ s).mono hp fun _ => id

end Sys2Proof.Machine
end

section
/-! What the buffer pool manager touches when an exchange gives buffers back (R84, R374 to R381). -/

namespace Sys2Proof.Machine

open Sys2Proof

/-- The parts of the state that giving a buffer back touches. -/
abbrev poolParts : List Part := accessParts ++ [.pools, .fns, .xes]

/-- What the buffer pool manager touches: its parts, and registers from the links' block on. -/
abbrev PoolTouches (s t : State) : Prop := Touches poolParts InUpper s t

theorem modPool_touches (p : Nat) (f : Pool → Pool) (s : State) : PoolTouches s (modPool p f s) := (Touches.refl _ _ s).withPools

theorem pool_raiseEvent (e : Event) (s : State) : PoolTouches s (raiseEvent e s) := (raiseEvent_access e s).mono (by decide) fun _ => id

theorem pool_wr {w : Who} {a : Nat} {bs : List Byte} {s t : State} (h : wr w a bs s = .ok t) : PoolTouches s t :=
  (wr_touches h).mono (by decide) fun o (h : 0x800000 ≤ o) => le_trans (by decide) h

theorem loseHandles_touches (p n : Nat) (s : State) : PoolTouches s (loseHandles p n s) := by
  unfold loseHandles
  extract_lets t
  have ht : PoolTouches s t :=
    (((Touches.refl _ _ s).subF (regOff_ge (by decide))).addF (regOff_ge (by decide))).setF (regOff_ge (by decide))
  clear_value t
  exact ht.trans (pool_raiseEvent _ t)

theorem writeRing_touches {p u n i : Nat} {hs : List Nat} {s t : State} {b : Bool} (h : writeRing p u n i hs s = .ok (b, t)) :
    PoolTouches s t := by
  induction n generalizing i hs s with
  | zero =>
    obtain ⟨rfl, rfl⟩ : true = b ∧ s = t := by simpa [writeRing] using h
    exact Touches.refl _ _ s
  | succ n ih =>
    unfold writeRing at h
    extract_lets k at h
    split at h
    · obtain ⟨rfl, rfl⟩ : false = b ∧ s = t := by simpa using h
      exact Touches.refl _ _ s
    · exact absurd h (by simp)
    · next v hv =>
      split at h
      · obtain ⟨rfl, rfl⟩ : true = b ∧ v = t := by simpa using h
        exact pool_wr hv
      · exact (pool_wr hv).trans (ih h)

theorem armRefill_touches (p : Nat) (s : State) : PoolTouches s (armRefill p s) := by
  unfold armRefill
  extract_lets k
  split
  · exact modPool_touches ..
  · exact Touches.refl _ _ s

theorem spill_touches {p u : Nat} {s t : State} (h : spill p u s = .ok t) : PoolTouches s t := by
  unfold spill at h
  extract_lets k keep out at h
  split at h
  · obtain rfl : s = t := by simpa using h
    exact Touches.refl _ _ s
  · split at h
    · exact absurd h (by simp)
    · next v hv =>
      rw [← Except.ok.inj h]
      exact (writeRing_touches hv).trans (modPool_touches ..)
    · next v hv =>
      rw [← Except.ok.inj h]
      exact ((writeRing_touches hv).trans (modPool_touches ..)).trans (loseHandles_touches ..)

theorem answerFn_touches (w : BpmClient) (st : Nat) (h : BitVec 32) (s : State) : PoolTouches s (answerFn w st h s) := by
  cases w with
  | xe d => exact Touches.refl _ _ s
  | fn f => exact (Touches.refl _ _ s).withFns

theorem allocEmpty_touches (w : BpmClient) (p : Nat) (s : State) : PoolTouches s (allocEmpty w p s) :=
  Touches.trans ((Touches.refl _ _ s).addF (regOff_ge (by decide))) (answerFn_touches ..)

/-- BPM_FAULT keeps the first refused free or hand-off. -/
theorem bpmFault_touches (st rq h : Nat) (s : State) :
    PoolTouches s (if getF F.BPM_FAULT_VALID [] s = 1 then s else
      setF F.BPM_FAULT_VALID [] 1 (setF F.BPM_FAULT_STATUS [] st (setF F.BPM_FAULT_REQUESTER [] rq (setF F.BPM_FAULT_HANDLE [] h s)))) := by
  split
  · exact Touches.refl _ _ s
  · exact ((((Touches.refl _ _ s).setF (regOff_ge (by decide))).setF (regOff_ge (by decide))).setF (regOff_ge (by decide))).setF
      (regOff_ge (by decide))

theorem bpmFail_touches (w : BpmClient) (h : BitVec 32) (st : Nat) (s : State) : PoolTouches s (bpmFail w h st s) := by
  unfold bpmFail
  extract_lets t u
  have ht : PoolTouches s t := by
    unfold t
    split
    · exact (Touches.refl _ _ s).addF (regOff_ge (by decide))
    · exact Touches.refl _ _ s
  have hu : PoolTouches t u := bpmFault_touches ..
  clear_value u t
  exact (ht.trans hu).trans (pool_raiseEvent _ u)

theorem takeHandle_touches {w : BpmClient} {p u : Nat} {s : State} {r : BitVec 32 × State} (he : takeHandle w p u s = .ok r) :
    PoolTouches s r.2 := by
  have hcount : ∀ f, PoolTouches s (addF F.BPM_POOL_ALLOCS_ALLOCS [p] 1 (addF F.BPM_POOL_STATE_ALLOCATED [p] 1
      (subF F.BPM_POOL_STATE_FREE [p] 1 (modPool p f s)))) := fun f =>
    (((modPool_touches p f s).subF (regOff_ge (by decide))).addF (regOff_ge (by decide))).addF (regOff_ge (by decide))
  revert he
  fun_cases takeHandle w p u s <;> intro he
  case case1 =>
    rw [← Except.ok.inj he]
    exact Touches.refl _ _ s
  case case2 h =>
    rw [← Except.ok.inj he]
    exact ((hcount _).trans (pool_wr h)).trans (armRefill_touches ..)
  case case3 =>
    rw [← Except.ok.inj he]
    exact (hcount _).trans (armRefill_touches ..)
  case case4 => exact absurd he (by simp)

theorem serveWaiting_touches {p u n : Nat} {s t : State} (h : serveWaiting p u n s = .ok t) : PoolTouches s t := by
  induction n generalizing s with
  | zero =>
    obtain rfl : s = t := by simpa [serveWaiting] using h
    exact Touches.refl _ _ s
  | succ n ih =>
    unfold serveWaiting at h
    split at h
    · split at h
      · exact absurd h (by simp)
      · next hv => exact (((modPool_touches ..).trans (takeHandle_touches hv)).trans (answerFn_touches ..)).trans (ih h)
    · rw [← Except.ok.inj h]
      exact Touches.refl _ _ s

theorem trimWaiting_touches (p n : Nat) (s : State) : PoolTouches s (trimWaiting p n s) := by
  induction n generalizing s with
  | zero => exact Touches.refl _ _ s
  | succ n ih =>
    unfold trimWaiting
    extract_lets ws
    split
    · exact Touches.refl _ _ s
    · split
      · exact Touches.refl _ _ s
      · exact ((modPool_touches ..).trans (allocEmpty_touches ..)).trans (ih _)

theorem refill_touches {p u : Nat} {s t : State} (h : refill p u s = .ok t) : PoolTouches s t := by
  unfold refill at h
  extract_lets k n taken at h
  split at h
  · exact absurd h (by simp)
  · next ws _ =>
    extract_lets good v x y at h
    have hv : PoolTouches s v := modPool_touches ..
    have hx : PoolTouches s x := by
      unfold x
      split
      · exact hv.trans (loseHandles_touches ..)
      · exact hv
    have hy : PoolTouches s y := hx.trans (trimWaiting_touches ..)
    clear_value v x y
    split at h
    · exact absurd h (by simp)
    · next z hz =>
      match hsp : spill p u z with
      | .error e =>
        rw [hsp] at h
        exact absurd h (by simp [Except.map])
      | .ok a =>
        rw [hsp] at h
        rw [← Except.ok.inj h]
        exact ((hy.trans (serveWaiting_touches hz)).trans (spill_touches hsp)).trans (armRefill_touches ..)

theorem disableNow_touches (p : Nat) (s : State) : PoolTouches s (disableNow p s) :=
  ((Touches.refl _ _ s).withPools).setF (regOff_ge (by decide))

theorem disablePool_touches (p : Nat) (s : State) : PoolTouches s (disablePool p s) := by
  unfold disablePool
  split
  · exact modPool_touches ..
  · exact disableNow_touches ..

theorem reclaimNow_touches (p : Nat) (s : State) : PoolTouches s (reclaimNow p s) := by
  unfold reclaimNow
  extract_lets n lost t
  have ht : PoolTouches s t :=
    (((Touches.refl _ _ s).addF (regOff_ge (by decide))).setF (regOff_ge (by decide))).addF (regOff_ge (by decide))
  clear_value t
  exact ((ht.setF (regOff_ge (by decide))).setF (regOff_ge (by decide))).trans (disableNow_touches ..)

theorem applyPend_touches (p : Nat) (s : State) : PoolTouches s (applyPend p s) := by
  unfold applyPend
  split
  · exact Touches.refl _ _ s
  · split
    · exact Touches.refl _ _ s
    · split
      · exact reclaimNow_touches ..
      · exact disablePool_touches ..

theorem drainPool_touches {p u n : Nat} {s t : State} (h : drainPool p u n s = .ok t) : PoolTouches s t := by
  induction n generalizing s with
  | zero =>
    rw [← Except.ok.inj h]
    exact applyPend_touches ..
  | succ n ih =>
    unfold drainPool at h
    split at h
    · rw [← Except.ok.inj h]
      exact applyPend_touches ..
    · split at h
      · exact absurd h (by simp)
      · next hv => exact (refill_touches hv).trans (ih h)

theorem settle_touches {p u : Nat} {s t : State} (h : settle p u s = .ok t) : PoolTouches s t := by
  unfold settle at h
  split at h
  · rw [← Except.ok.inj h]
    exact Touches.refl _ _ s
  · exact drainPool_touches h

theorem setOwner_touches {h : BitVec 32} {v u : Nat} {s t : State} (he : setOwner h v u s = .ok t) : PoolTouches s t := by
  unfold setOwner at he
  extract_lets p at he
  split at he
  · next hv =>
    rw [← Except.ok.inj he]
    exact pool_wr hv
  · rw [← Except.ok.inj he]
    exact Touches.refl _ _ s
  · exact absurd he (by simp)

theorem bpmRelease_touches {w : BpmClient} {h : BitVec 32} {u : Nat} {s : State} {r : Nat × State}
    (he : bpmRelease w h u s = .ok r) : PoolTouches s r.2 := by
  unfold bpmRelease at he
  extract_lets p at he
  split at he
  · exact absurd he (by simp)
  · next hset =>
    split at he
    · exact absurd he (by simp)
    · split at he
      · exact absurd he (by simp)
      · next v hv =>
        extract_lets x y at he
        have hy : PoolTouches v y :=
          (((modPool_touches p _ v).addF (regOff_ge (by decide))).subF (regOff_ge (by decide))).addF (regOff_ge (by decide))
        clear_value y
        split at he
        · exact absurd he (by simp)
        · next hsp =>
          split at he
          · exact absurd he (by simp)
          · next hsv =>
            rw [← Except.ok.inj he]
            exact ((((((settle_touches hset).trans (setOwner_touches hv)).trans hy).trans (spill_touches hsp)).trans
              (serveWaiting_touches hsv))).trans (answerFn_touches ..)
    · rw [← Except.ok.inj he]
      exact ((settle_touches hset).trans (bpmFail_touches ..)).trans (answerFn_touches ..)

/-! The buffers that signals free (R84). -/

theorem modSlot_touches (die : Nat) (t : BitVec 32) (slot : Nat) (f : SlotRx → SlotRx) (s : State) :
    PoolTouches s (modSlot die t slot f s) := (Touches.refl _ _ s).withXes

theorem giveBack_touches {die : Nat} {h : BitVec 32} {s t : State} (he : giveBack die h s = .ok t) : PoolTouches s t := by
  unfold giveBack at he
  split at he
  · exact absurd he (by simp)
  · next hr =>
    rw [← Except.ok.inj he]
    exact bpmRelease_touches hr

theorem freeSlot_touches {die slot : Nat} {t : BitVec 32} {s u : State} (h : freeSlot die t slot s = .ok u) : PoolTouches s u := by
  unfold freeSlot at h
  split at h
  · rw [← Except.ok.inj h]
    exact Touches.refl _ _ s
  · extract_lets x at h
    split at h
    · rw [← Except.ok.inj h]
      exact Touches.refl _ _ s
    · split at h
      · exact absurd h (by simp)
      · next v hv =>
        have hfirst : PoolTouches s v := by
          split at hv
          · rw [← Except.ok.inj hv]
            exact Touches.refl _ _ s
          · exact (modSlot_touches ..).trans (giveBack_touches hv)
        split at h
        · rw [← Except.ok.inj h]
          exact hfirst
        · split at h
          · exact (hfirst.trans (modSlot_touches ..)).trans (giveBack_touches h)
          · rw [← Except.ok.inj h]
            exact hfirst

/-- What one pass keeps, in a reflexive and transitive relation, a loop that can fail keeps. -/
theorem foldE_rel {α σ : Type} {R : σ → σ → Prop} (hr : ∀ s, R s s) (ht : ∀ s t u, R s t → R t u → R s u) {l : List α}
    {f : α → σ → Except Stop σ} (hf : ∀ a ∈ l, ∀ s t, f a s = .ok t → R s t) {s t : σ} (h : foldE l s f = .ok t) : R s t := by
  induction l generalizing s with
  | nil =>
    rw [← Except.ok.inj h]
    exact hr s
  | cons a l ih =>
    unfold foldE at h
    split at h
    · exact absurd h (by simp)
    · next u hu =>
      exact ht _ _ _ (hf a List.mem_cons_self _ _ hu) (ih (fun b hb => hf b (List.mem_cons_of_mem _ hb)) h)

theorem freeSlots_touches {die : Nat} {t : BitVec 32} {s u : State} (h : freeSlots die t s = .ok u) : PoolTouches s u := by
  unfold freeSlots at h
  split at h
  · rw [← Except.ok.inj h]
    exact Touches.refl _ _ s
  · exact foldE_rel (R := PoolTouches) (Touches.refl _ _) (fun _ _ _ => Touches.trans) (fun x _ s t => freeSlot_touches) h

/-- What follows a signal. -/
theorem settleSlots_touches (s : State) : PoolTouches s (settleSlots s) :=
  (Touches.refl _ _ s).forList fun _ _ u => (Touches.refl _ _ u).forList fun _ _ v =>
    runAccess_touches (by decide) fun _ => freeSlots_touches

end Sys2Proof.Machine
end

section
/-! TABLE_WRITE, TABLE_WRITE_DEFERRED, TABLE_COMMIT, PLAN_FLIP and COPY_BACK_COMPLETE (R51, R52, R158, R159, R393, R394). -/

namespace Sys2Proof.Machine

open Sys2Proof

/-! A completion that may free buffers. -/

/-- The parts of the state a completion touches. -/
abbrev signalParts : List Part := poolParts ++ [.queues, .belays, .heldSigs]

theorem recordSignal_frees (bs : List Byte) (s : State) :
    Touches signalParts (fun o => InBasecamp o ∨ InUpper o) s (recordSignal bs s) := by
  unfold recordSignal
  extract_lets b
  split
  · exact Touches.refl _ _ s
  · exact ((signalBy_device_touches ..).mono (by decide) fun _ => Or.inl).trans
      ((settleSlots_touches _).mono (by decide) fun _ => Or.inr)

theorem completeWaiter_frees (w : Waiter) (s : State) :
    Touches signalParts (fun o => InBasecamp o ∨ InUpper o) s (completeWaiter w s) := by
  cases w with
  | instr c =>
    rw [completeWaiter_instr]
    split
    · exact Touches.refl _ _ s
    · exact recordSignal_frees ..
  | window q seq =>
    rw [completeWaiter_window]
    split
    · exact ((finishRec_touches q _ s).mono (by decide) fun _ => False.elim).trans (recordSignal_frees ..)
    · exact Touches.refl _ _ s

/-- The states of ropes are not in the basecamp's block, nor from the links' block on. -/
theorem ropeState_beside : ∀ r < 16, ¬ (InBasecamp (regOff .CMD_ROPE_STATE [r]) ∨ InUpper (regOff .CMD_ROPE_STATE [r])) := by decide

/-! TABLE_WRITE. -/

section
variable {q : Nat} {rec : Rec} {owner : Requester} {s : State}

/-- The write of a TABLE_WRITE that does not wait. -/
abbrev tableWritten (rec : Rec) (owner : Requester) (s : State) : State :=
  shadowWrite (recField rec 40 1) (recField rec 41 1) (recField rec 44 4) (writtenEntries rec s) (readEntries rec owner s)

theorem tableWritten_written (hok : TableWriteOk q rec owner s) : TableWritten (recField rec 40 1) (recField rec 41 1)
    (1 - bankOf (tableTarget (recField rec 40 1)) (recField rec 41 1) s) (recField rec 44 4) (recField rec 48 4)
    (hostBytes s (recField rec 52 6) (recField rec 48 4 * tableEntryBytes (recField rec 40 1))) s (tableWritten rec owner s) := by
  obtain ⟨hlen, hget⟩ := writtenEntries_spec rec s
  have hlt : ∀ (k : Nat), fieldAt (hostBytes s (recField rec 52 6) (recField rec 48 4 * tableEntryBytes (recField rec 40 1)))
      (k * tableEntryBytes (recField rec 40 1)) (tableEntryBytes (recField rec 40 1)) < 256 ^ tableEntryBytes (recField rec 40 1) :=
    fun k => fieldAt_lt _ _ _
  have h := shadowWrite_written (i := recField rec 41 1) (first := recField rec 44 4) (es := writtenEntries rec s)
    (readEntries rec owner s) hok.table (by rw [hlen]; exact hok.range)
    (fun k hk => by rw [hget k (hlen ▸ hk), Nat.mod_eq_of_lt (hlt k)])
  rw [hlen] at h
  exact h

/-- Entries of the placement table are written without error or poison (R349). -/
theorem tableWritten_clean (h0 : recField rec 40 1 = 0) {x : Nat} (hx : x < recField rec 48 4) :
    let w := hubWord (tableBase 0 (recField rec 41 1) (1 - bankOf 0 (recField rec 41 1) s) + recField rec 44 4 + x)
    (tableWritten rec owner s).mem.poisoned (16 * w) = false ∧ tget 0 (tableWritten rec owner s).mem.errs w = 0 := by
  have hm : (tableWritten rec owner s).mem = (cleanEntries ((1 - bankOf 0 (recField rec 41 1) s) * 262144 + recField rec 44 4)
      (recField rec 48 4) (readEntries rec owner s)).mem := by
    rw [tableWritten, shadowWrite_eq, h0, if_pos rfl, (writtenEntries_spec rec s).1]
    rfl
  rw [hm]
  exact cleanEntries_clean _ _ _ hx

end

/-! TABLE_WRITE_DEFERRED. -/

theorem findIdxFrom_first {α : Type} {p : α → Bool} {l r : List α} {a : α} (hl : ∀ x ∈ l, p x = false) (ha : p a = true) (i : Nat) :
    findIdxFrom p (l ++ a :: r) i = some (i + l.length) := by
  induction l generalizing i with
  | nil => simp [findIdxFrom, ha]
  | cons b l ih =>
    rw [List.cons_append, findIdxFrom, hl b List.mem_cons_self, if_neg (by decide), ih (fun x hx => hl x (List.mem_cons_of_mem _ hx)),
      List.length_cons]
    congr 1
    omega

theorem dropAt_length {α : Type} (l r : List α) (a : α) : dropAt (l ++ a :: r) l.length = l ++ r := by
  induction l with
  | nil => rfl
  | cons b l ih => rw [List.cons_append, List.length_cons, dropAt, ih, List.cons_append]

/-- Entries written one after the other with `w` bytes each. -/
theorem fieldAt_entries (w : Nat) (es : List (List Byte)) {k : Nat} (hk : k < es.length) :
    fieldAt (es.flatMap (fun e => natLe w (leNat e))) (k * w) w = leNat (es.getD k []) % 256 ^ w := by
  induction es generalizing k with
  | nil => exact absurd hk (Nat.not_lt_zero k)
  | cons e es ih =>
    cases k with
    | zero => rw [List.flatMap_cons, Nat.zero_mul, fieldAt_natLe_append_zero, List.getD_cons_zero]
    | succ k =>
      rw [List.flatMap_cons, fieldAt_natLe_append _ _ _ (by rw [Nat.succ_mul]; omega), Nat.succ_mul, Nat.add_sub_cancel,
        ih (by simpa using hk), List.getD_cons_succ]

section
variable {s : State} {l r : List Deferred} {d : Deferred}

/-- The write of the oldest held write that may land. -/
def heldWritten (l r : List Deferred) (d : Deferred) (s : State) : State :=
  shadowWrite d.target d.index d.first d.entries (modTables (fun t => { t with deferred := l ++ r }) (Quiet s))

theorem tableWriteDeferred_lands (hd : s.tables.deferred = l ++ d :: r) (hl : ∀ x ∈ l, x.free s = false) (hf : d.free s = true) :
    exec .tableWriteDeferred s = .next (settleReady (completeWaiter d.who (heldWritten l r d s))) := by
  have hidx : findIdxFrom (fun (d : Deferred) => d.free (Quiet s)) (Quiet s).tables.deferred 0 = some l.length := by
    refine (congrArg (fun x => findIdxFrom _ x 0) hd).trans ?_
    rw [findIdxFrom_first (p := fun (d : Deferred) => d.free (Quiet s)) hl hf, Nat.zero_add]
  have hget : (Quiet s).tables.deferred[l.length]? = some d := by
    change s.tables.deferred[l.length]? = some d
    rw [hd]
    simp
  have hdrop : dropAt (Quiet s).tables.deferred l.length = l ++ r := by
    refine (congrArg (fun x => dropAt x l.length) hd).trans (dropAt_length ..)
  have he : exec .tableWriteDeferred s = execTableWriteDeferred s := rfl
  rw [he, execTableWriteDeferred, runIf, if_pos rfl, Quiet_of_out]
  simp only [hidx, hget, heldWritten, ← hdrop]
  rfl

theorem heldWritten_touches : Touches [.tables, .mem] (fun _ => False) s (heldWritten l r d s) :=
  Touches.trans (Touches.withTables (t := Quiet s) (Touches.refl _ _ s).withOut) (shadowWrite_touches _)

theorem heldWritten_written (ht : d.target < 5) (hr : rangeOk d.target d.index d.first d.entries.length s = true) :
    TableWritten d.target d.index (1 - bankOf (tableTarget d.target) d.index s) d.first d.entries.length
      (d.entries.flatMap (fun e => natLe (tableEntryBytes d.target) (leNat e))) s (heldWritten l r d s) := by
  have h := shadowWrite_written (i := d.index) (first := d.first) (es := d.entries)
    (bs := d.entries.flatMap (fun e => natLe (tableEntryBytes d.target) (leNat e)))
    (modTables (fun t => { t with deferred := l ++ r }) (Quiet s)) ht hr (fun k hk => (fieldAt_entries _ _ hk).symm)
  obtain ⟨h1, h2⟩ := h
  exact ⟨fun x => (h1 x).trans rfl, fun o ho hne x => h2 o ho hne x⟩

end

end Sys2Proof.Machine
end

section
/-! The tables of R393 and R394. -/

namespace Sys2Proof.Machine

open Sys2Proof

section
variable {q : Nat} {rec : Rec} {owner : Requester} {s : State}

/-! TABLE_COMMIT. -/

theorem endAccess_pendingOf {target i : Nat} (ht : target < 2) (t : State) : pendingOf target i (endAccess 544 0 t) = pendingOf target i t :=
  pendingOf_congr target ((endAccess_touches 544 0 t).getR_eq (by
    have h : target = 0 ∨ target = 1 := by omega
    rcases h with rfl | rfl <;> decide))

theorem endAccess_bankOf {target i : Nat} (ht : target < 2) (t : State) : bankOf target i (endAccess 544 0 t) = bankOf target i t :=
  bankOf_congr target ((endAccess_touches 544 0 t).getR_eq (by
    have h : target = 0 ∨ target = 1 := by omega
    rcases h with rfl | rfl <;> decide))

theorem endAccess_tables (t : State) : (endAccess 544 0 t).tables = t.tables := (endAccess_touches 544 0 t).only.2 .tables (by decide)

theorem endAccess_queues (t : State) : (endAccess 544 0 t).queues = t.queues := (endAccess_touches 544 0 t).only.2 .queues (by decide)

theorem commitAsked_ropeState (ht : recField rec 40 1 < 2) : ∀ r < 16, ropeState r (commitAsked q rec s) = ropeState r s :=
  ropeState_of_touches (commitAsked_touches q rec s) (by
    have h : recField rec 40 1 = 0 ∨ recField rec 40 1 = 1 := by omega
    rcases h with h | h <;> rw [h] <;> decide)

/-- With no rope READY a commit stays pending, and its record goes on (R394). -/
theorem tableCommit_pends (h : RecordAt q 0x09 rec owner s) (ht : recField rec 40 1 < 2) (hi : recField rec 41 1 < 16)
    (hn : NoneReady s) : ∃ t, settleReady (commitAsked q rec s) = t ∧ pendingOf (recField rec 40 1) (recField rec 41 1) t = true ∧
      bankOf (recField rec 40 1) (recField rec 41 1) t = bankOf (recField rec 40 1) (recField rec 41 1) s ∧
      (∀ x, x < 5 → ∀ y, tableAt x y t = tableAt x y s) ∧
      ((queueOf q t).recs.find? (isBegun rec.seq)).isSome = true := by
  refine ⟨_, settleReady_of_noneReady (NoneReady_congr hn (commitAsked_ropeState ht)), ?_, ?_, fun x _ y => ?_, ?_⟩
  · rw [endAccess_pendingOf ht, pendingOf_commitAsked ht ht hi, if_pos ⟨rfl, rfl⟩]
  · rw [endAccess_bankOf ht, bankOf_commitAsked rfl]
  · rw [tableAt_of_tables (endAccess_tables _), tableAt_commitAsked]
  · have hmem : { rec with started := true } ∈ (queueOf q (endAccess 544 0 (commitAsked q rec s))).recs := by
      rw [queueOf_congr q ((endAccess_queues _).trans (commitAsked_queues q rec s)), startRec_recs]
      exact find?_modFirst h.next
    rw [List.find?_isSome]
    exact ⟨_, hmem, by simp [isBegun, h.fresh]⟩

theorem pendingOf_of_noCommitPending (h : NoCommitPending s) {u : Nat} (hu : u < 2) (j : Nat) : pendingOf u j s = false := by
  obtain ⟨h0, h1, -⟩ := h
  have hu' : u = 0 ∨ u = 1 := by omega
  rcases hu' with rfl | rfl
  · rw [pendingOf, h0, Nat.zero_testBit]
  · rw [pendingOf, h1, Nat.zero_testBit]

/-- A READY rope's only commit flips its bank at once, and its record completes (R394). -/
theorem tableCommit_flips (h : RecordAt q 0x09 rec owner s) (ht : recField rec 40 1 < 2) (hi : recField rec 41 1 < 16)
    (hr : ropeState (recField rec 41 1) s = RopeSt.ready) (hp : NoCommitPending s) (hc : s.tables.commits = [])
    (hb : s.tables.copyBack = []) (h44 : recField rec 44 6 = 0) (hone : (queueOf q s).recs = [rec])
    (hd : ∀ d ∈ s.tables.deferred, sameQueue d.who (.window q rec.seq) = false) (hf : FreesNothing [.window q rec.seq] s) :
    ∃ t, settleReady (commitAsked q rec s) = t ∧ pendingOf (recField rec 40 1) (recField rec 41 1) t = false ∧
      bankOf (recField rec 40 1) (recField rec 41 1) t = 1 - bankOf (recField rec 40 1) (recField rec 41 1) s ∧
      (∀ x, x < 5 → ∀ y, tableAt x y t = tableAt x y s) ∧ (queueOf q t).recs = [] ∧
      (recField rec 40 1 = 0 → (ropeOf (recField rec 41 1) t).commitCount = (ropeOf (recField rec 41 1) s).commitCount + 1) := by
  have htouch := commitAsked_touches q rec s
  have htabs := fun x y => tableAt_commitAsked (q := q) (rec := rec) (s := s) x y
  have hbank := bankOf_commitAsked (q := q) (rec := rec) (s := s) (j := recField rec 41 1) rfl
  have hropes : (commitAsked q rec s).ropes = s.ropes := htouch.only.2 .ropes (by decide)
  have hqueues := commitAsked_queues q rec s
  have hready : ropeState (recField rec 41 1) (commitAsked q rec s) = RopeSt.ready := (commitAsked_ropeState ht _ hi).trans hr
  have hpend : ∀ u < 2, ∀ j < 16, pendingOf u j (commitAsked q rec s) = decide (u = recField rec 40 1 ∧ j = recField rec 41 1) :=
    fun u hu j hj => by
      rw [pendingOf_commitAsked ht hu hj, pendingOf_of_noCommitPending hp hu j]
      by_cases hx : u = recField rec 40 1 ∧ j = recField rec 41 1 <;> simp [hx]
  have hplan : getR .SW_PLAN_PENDING [] (commitAsked q rec s) = 0 := by
    rw [htouch.getR_eq, hp.2.2]
    have hcase : recField rec 40 1 = 0 ∨ recField rec 40 1 = 1 := by omega
    rcases hcase with h | h <;> rw [h] <;> decide
  have hwaits := commitAsked_free (rec := rec) (q := q) hc hb hd
  have hof := commitAsked_commitsOf (rec := rec) (q := q) hc
  have hfree := commitAsked_flipsFreely hc h44 hf
  have hkept := commitAsked_recsKept q rec s
  generalize commitAsked q rec s = v at *
  obtain ⟨t, happly, hflip, hcommits⟩ := readyCommits_one ht hi hready hpend hplan hwaits hfree
  have hv : pendingOf (recField rec 40 1) (recField rec 41 1) v = true := by rw [hpend _ ht _ hi]; simp
  have hst : ∀ c ∈ commitsOf (recField rec 40 1) (recField rec 41 1) v, c.status = none := fun c h =>
    hfree.statuses c (List.mem_of_mem_filter h)
  have ht' := (Except.ok.inj (happly.symm.trans (applyCommit_flips hv hwaits hst)))
  rw [hof] at ht'
  have hset : settleReady v = endAccess 544 0 t := by rw [settleReady, hcommits]
  have hrecs : (queueOf q v).recs = [{ rec with started := true }] := by
    have hns : rec.started = false := by simpa using List.find?_some h.next
    rw [queueOf_congr q hqueues, startRec_recs, hone, modFirst, hns]
    rfl
  have hflipped := flipNow_touches (i := recField rec 41 1) (s := v) ht
  set w := modTables (commitLists (recField rec 40 1) (recField rec 41 1) (copiesBack (recField rec 40 1) (recField rec 41 1) v))
    (flipNow (recField rec 40 1) (recField rec 41 1) v).2
  have hw : Touches [.regs, .ropes, .tables] IsFlipReg v w := Touches.withTables (hflipped.mono (by decide) fun _ => id)
  have hwq : (queueOf q w).recs = [{ rec with started := true }] := by rw [queueOf_congr q (hw.only.2 .queues (by decide)), hrecs]
  have hfw : FreesNothing [.window q rec.seq] w :=
    FreesNothing_congr hf ((hw.only.2 .xes (by decide)).trans (htouch.only.2 .xes (by decide)))
      (RecsKept_trans hkept (RecsKept_of_queues_eq (hw.only.2 .queues (by decide))))
  have htw : t = completeWaiter (.window q rec.seq) w := ht'
  refine ⟨_, hset, ?_, ?_, fun x _ y => ?_, ?_, fun h0 => ?_⟩
  · rw [endAccess_pendingOf ht]
    exact (hflip.pending _ ht _ hi).1 ⟨rfl, rfl⟩
  · rw [endAccess_bankOf ht, bankOf_eq, (hflip.bank _ ht _ hi).1 ⟨rfl, rfl⟩, ← hbank, bankOf_eq]
    cases bankBit (recField rec 40 1) (recField rec 41 1) v <;> rfl
  · rw [tableAt_of_tables (endAccess_tables _), hflip.table, htabs]
  · rw [queueOf_congr q (endAccess_queues _), htw]
    exact completeWaiter_last (x := { rec with started := true }) hwq rfl h.fresh hfw
  · have hdone := (completeWaiter_touches hfw).1.only.2 .ropes (by decide)
    rw [ropeOf_congr _ ((endAccess_touches 544 0 t).only.2 .ropes (by decide)), htw, ropeOf_congr _ hdone]
    change (ropeOf _ (flipNow _ _ v).2).commitCount = _
    rw [ropeOf_flipNow ht, if_pos ⟨h0, rfl⟩, ropeOf_congr _ hropes]

end

/-! PLAN_FLIP. -/

section
variable {p : Nat} {s : State}

theorem commitsOf_plan (p : Nat) (s : State) :
    s.tables.commits.filter (fun c => decide (c.target = 2 ∧ c.index = p)) = commitsOf 2 p s := by
  unfold commitsOf
  simp only [Bool.decide_and]

/-- What a pending plan's commit does once it does not wait (R159). -/
theorem planFlip_flips (hp : p < 64) (hpend : pendingOf 2 p s = true)
    (hgo : ∀ r, jobRope (planJob p s) s = some r → ropeState r s = RopeSt.ready)
    (hst : ∀ c ∈ commitsOf 2 p s, c.status = none) (hw : commitWaits 2 p s = false) :
    exec (.planFlip p) s = .next (endAccess 544 0 (completeAll ((commitsOf 2 p s).map (fun c => c.who))
      (modTables (commitLists 2 p (copiesBack 2 p (Quiet s))) (flipPlan p (Quiet s)).2))) :=
  exec_planFlip hp hgo ((applyCommit_flips (s := Quiet s) hpend hw hst).trans rfl)

end

/-! COPY_BACK_COMPLETE. -/

section
variable {k target i : Nat} {s : State}

/-- The state after a copy-back, before the commits of READY ropes. -/
def copiedBack (k target i : Nat) (s : State) : State :=
  modTables (fun t => { t with copyBack := dropAt t.copyBack k }) (copyBackNow target i (Quiet s))

theorem copyBackComplete_copies (h : s.tables.copyBack[k]? = some (target, i)) :
    exec (.copyBackComplete k) s = .next (settleReady (copiedBack k target i s)) := by
  have hk : (Quiet s).tables.copyBack[k]? = some (target, i) := h
  have he : exec (.copyBackComplete k) s = execCopyBackComplete k s := rfl
  rw [he, execCopyBackComplete, runIf, if_pos rfl, Quiet_of_out]
  simp only [hk, copiedBack]

theorem copiedBack_touches (he : s.mem.errs = []) : Touches [.tables, .mem] (fun _ => False) s (copiedBack k target i s) :=
  Touches.withTables (Touches.trans (t := Quiet s) (Touches.refl _ _ s).withOut (copyBackNow_touches (s := Quiet s) he))

theorem copiedBack_tables (he : s.mem.errs = []) : (copiedBack k target i s).tables =
    { copiedTables target i (bankOf target i s) (1 - bankOf target i s) (ropeOf i s).ptBase (ropeOf i s).ptSize s.tables with
      copyBack := dropAt s.tables.copyBack k } := by
  rw [copiedBack, modTables_tables, copyBackNow_tables (s := Quiet s) he]
  match target with
  | 0 => rfl
  | 1 => rfl
  | _ + 2 => rfl

theorem copiedBack_blocks (he : s.mem.errs = []) :
    (target = 0 → BlockCopied 0 (ropeOf i s).ptSize (tableBase 0 i (bankOf target i s) + (ropeOf i s).ptBase)
        (tableBase 0 i (1 - bankOf target i s) + (ropeOf i s).ptBase) s (copiedBack k target i s) ∧
      BlockCopied 1 256 (tableBase 1 i (bankOf target i s)) (tableBase 1 i (1 - bankOf target i s)) s (copiedBack k target i s)) ∧
    (target = 1 → BlockCopied 2 32768 (tableBase 2 i (bankOf target i s)) (tableBase 2 i (1 - bankOf target i s)) s
      (copiedBack k target i s)) ∧
    (target = 2 → BlockCopied 3 1 (tableBase 3 i (bankOf target i s)) (tableBase 3 i (1 - bankOf target i s)) s (copiedBack k target i s) ∧
      BlockCopied 4 1024 (tableBase 4 i (bankOf target i s)) (tableBase 4 i (1 - bankOf target i s)) s (copiedBack k target i s)) := by
  have hat : ∀ x y, tableAt x y (copiedBack k target i s) = tableAt x y (copyBackNow target i (Quiet s)) := fun x y => by
    refine tableAt_congr ?_ ?_ ?_ ?_ ?_ x y <;> rw [copiedBack, modTables_tables]
  obtain ⟨h0, h1, h2⟩ := blockCopied_of_copiedTables (target := target) (i := i) (s := s) (copyBackNow_tables (s := Quiet s) he)
  refine ⟨fun h => ?_, fun h x => (hat ..).trans (h1 h x), fun h => ?_⟩
  · obtain ⟨ha, hb⟩ := h0 h
    exact ⟨fun x => (hat ..).trans (ha x), fun x => (hat ..).trans (hb x)⟩
  · obtain ⟨ha, hb⟩ := h2 h
    exact ⟨fun x => (hat ..).trans (ha x), fun x => (hat ..).trans (hb x)⟩

end

/-- Settles O18: a record of TABLE_WRITE writes entries of the shadow bank or waits, a held one lands, a commit is pending or, of a READY
rope, flips; PLAN_FLIP flips with its slots or is busy; a copy-back copies the blocks of its target. -/
theorem tablesAreWrittenAndFlipped : Obligations.TablesAreWrittenAndFlipped := by
  unfold Obligations.TablesAreWrittenAndFlipped
  refine ⟨?write, ?deferred, ?commit, ?flip, ?copy⟩
  case write =>
    intro q rec owner s h table i first n bs ht hrope hplan hlo hhi hrange hz hz' hgood
    have hok : TableWriteOk q rec owner s := ⟨ht, hrope, hplan, hlo, hhi, hrange, hz, hz', hgood⟩
    refine ⟨fun hh => ?_, fun hh => ?_⟩
    · obtain ⟨htier, hpages, -⟩ := putEntries_beside ht i (1 - bankOf (commitClass table) i (readEntries rec owner s)) first
        (writtenEntries rec s) s.tables
      refine ⟨tableWritten rec owner s, tableWrite_lands h hok hh, ?_, ?_, ?_, ?_, tableWritten_written hok, ?_, ?_⟩
      · exact (Touches.trans (t := readEntries rec owner s) ((Touches.refl _ _ s).withOut) (shadowWrite_touches _)).only
      · exact shadowWrite_plainMemory (readEntries rec owner s)
      · exact fun h0 => shadowWrite_mem (readEntries rec owner s) h0
      · exact fun h0 x hx => tableWritten_clean h0 hx
      · exact (congrArg Tables.tierMap (shadowWrite_tables (readEntries rec owner s))).trans htier
      · exact (congrArg Tables.pages (shadowWrite_tables (readEntries rec owner s))).trans hpages
    · refine ⟨_, _, tableWrite_waits h hok hh, ?_, rfl, rfl, rfl, rfl, (writtenEntries_spec rec s).1, rfl, rfl, (writtenEntries_spec rec s).2⟩
      exact (Touches.withTables (t := readEntries rec owner s) (Q := fun _ => False) (Touches.refl _ _ s).withOut).only
  case deferred =>
    intro s l r d hd hl hf ht hr
    refine ⟨heldWritten l r d s, tableWriteDeferred_lands hd hl hf, heldWritten_touches.only, ?_, ?_, fun hn => ?_, heldWritten_written ht hr⟩
    · exact shadowWrite_plainMemory (modTables (fun t => { t with deferred := l ++ r }) (Quiet s))
    · rw [heldWritten, shadowWrite_tables]
      exact (putEntries_beside ht _ _ _ _ _).2.2
    · have hheld : NoneReady (heldWritten l r d s) := NoneReady_congr hn (ropeState_of_touches heldWritten_touches fun _ _ => id)
      exact settleReady_of_noneReady (NoneReady_congr hheld (ropeState_of_touches (completeWaiter_frees d.who _) ropeState_beside))
  case commit =>
    intro q rec owner s h target i ht hm hst h42 hz hz'
    rw [tableCommit_asks h ht hm hst h42 hz hz']
    refine ⟨fun hn => ?_, fun hr hp hc hb h44 _ hone hd hf => ?_⟩
    · obtain ⟨t, rfl, ht'⟩ := tableCommit_pends h ht hm.1 hn
      exact ⟨_, rfl, ht'⟩
    · obtain ⟨t, rfl, ht'⟩ := tableCommit_flips h ht hm.1 hr hp hc hb h44 hone hd hf
      exact ⟨_, rfl, ht'⟩
  case flip =>
    intro p s hp hpend hgo hst need mine
    have hst' : ∀ c ∈ commitsOf 2 p s, c.status = none := fun c hc => by
      have := (List.mem_filter.1 hc).2
      simp only [Bool.and_eq_true, decide_eq_true_eq] at this
      exact hst c (List.mem_of_mem_filter hc) this.1 this.2
    refine ⟨fun hw => exec_planFlip hp hgo (applyCommit_waits hw), fun hw => ?_⟩
    obtain ⟨hpending, htable, hmem, hflips, hbusy⟩ := flipPlan_flipped (s := Quiet s) hp (copiesBack 2 p (Quiet s))
    refine ⟨_, ?_, hpending, htable, hmem, hflips, hbusy⟩
    rw [planFlip_flips hp hpend hgo hst' hw, ← commitsOf_plan]
  case copy =>
    intro k target i s h _ _ he a b
    obtain ⟨h0, h1, h2⟩ := copiedBack_blocks (k := k) (target := target) (i := i) he
    refine ⟨copiedBack k target i s, copyBackComplete_copies h, fun hn => ?_, (copiedBack_touches he).only, copyBackNow_plainMemory (s := Quiet s) he,
      fun ht => copyBackNow_mem (s := Quiet s) he ht, ?_, fun ht x hx => ?_, h0, h1, h2⟩
    · exact settleReady_of_noneReady (NoneReady_congr hn (ropeState_of_touches (copiedBack_touches he) fun _ _ => id))
    · rw [copiedBack_tables he]
    · subst ht
      have hm : (copiedBack k 0 i s).mem = (copyEntryPoison (ropeOf i s).ptSize (bankOf 0 i s * 262144 + (ropeOf i s).ptBase)
          ((1 - bankOf 0 i s) * 262144 + (ropeOf i s).ptBase) (Quiet s)).mem :=
        (congrArg State.mem (copyBackNow_eq (target := 0) (i := i) (s := Quiet s) he)).trans rfl
      rw [hm]
      exact poisoned_copyEntryPoison (Quiet s) hx

end Sys2Proof.Machine
end

section
/-! Messages of words (R78, R124, R132). -/

namespace Sys2Proof.Machine

open Sys2Proof

/-- Data that is cut: its payloads make it up, and each payload but the first begins within it. -/
theorem cutData_spec {m : Nat} (hm : 0 < m) {k off : Nat} {bs : List Byte} (hk : bs.length < k) :
    (cutData k m off bs).flatMap (fun x => x.2) = bs ∧ cutData k m off bs ≠ [] ∧
    ∀ j, j < (cutData k m off bs).length → j = 0 ∨ j * m < bs.length := by
  induction k generalizing off bs with
  | zero => exact absurd hk (Nat.not_lt_zero _)
  | succ k ih =>
    unfold cutData
    split
    · exact ⟨by simp, by simp, fun j hj => Or.inl (by simpa using hj)⟩
    · next hlt =>
      obtain ⟨h1, -, h3⟩ := ih (off := off + m) (bs := bs.drop m) (by rw [List.length_drop]; omega)
      refine ⟨by rw [List.flatMap_cons, h1, List.take_append_drop], by simp, fun j hj => ?_⟩
      cases j with
      | zero => exact Or.inl rfl
      | succ j =>
        have := h3 j (by simpa using hj)
        rw [List.length_drop] at this
        rw [Nat.succ_mul]
        rcases this with rfl | h <;> omega

/-- The payloads of a message's packets are the parts it was made of. -/
theorem makePackets_payloads (t : Packet) (l : List (Nat × List Byte)) :
    (makePackets t l).flatMap (fun k => k.payload) = l.flatMap (fun x => x.2) :=
  calc (makePackets t l).flatMap (fun k => k.payload)
    _ = l.zipIdx.flatMap (fun e => e.1.2) := List.flatMap_map ..
    _ = (l.zipIdx.map Prod.fst).flatMap (fun x => x.2) := (List.flatMap_map ..).symm
    _ = l.flatMap (fun x => x.2) := by rw [List.zipIdx_map_fst]

theorem mem_makePackets {t : Packet} {l : List (Nat × List Byte)} {k : Packet} (h : k ∈ makePackets t l) :
    k.ty = t.ty ∧ k.handle = t.handle ∧ k.tag = t.tag ∧ ∃ j, j < l.length ∧ k.pseq = BitVec.ofNat 16 j := by
  obtain ⟨⟨x, j⟩, hx, rfl⟩ := List.mem_map.1 h
  exact ⟨rfl, rfl, rfl, j, (List.mem_zipIdx' hx).1, rfl⟩

/-- Words of 16 bytes. -/
theorem wordBytes_length {ws : Words} (h : ∀ x ∈ ws, x.1.length = 16) : (wordBytes ws).length = 16 * ws.length := by
  rw [wordBytes, List.length_flatMap, List.map_congr_left h, List.map_const', List.sum_replicate, smul_eq_mul, Nat.mul_comm]

section
variable {t : Packet} {off : Nat} {ws : Words} (h : ∀ x ∈ ws, x.1.length = 16)
include h

/-- The packets of a message over words carry their bytes. -/
theorem packWords_payloads : (packWords t off ws).flatMap (fun k => k.payload) = wordBytes ws := by
  have hcut := (cutData_spec (m := 16 * 256) (by decide) (off := off) (Nat.lt_succ_of_le (wordBytes_length h).le)).1
  calc (packWords t off ws).flatMap (fun k => k.payload)
    _ = (makePackets t (cutData (16 * ws.length + 1) (16 * 256) off (wordBytes ws))).flatMap (fun k => k.payload) := List.flatMap_map ..
    _ = wordBytes ws := (makePackets_payloads _ _).trans hcut

theorem packWords_ne_nil : packWords t off ws ≠ [] := by
  have hcut := (cutData_spec (m := 16 * 256) (by decide) (off := off) (Nat.lt_succ_of_le (wordBytes_length h).le)).2.1
  simpa [packWords, packBy, makePackets] using hcut

/-- A packet of a message over words: its header, and the words its POISON stands for. -/
theorem mem_packWords {k : Packet} (hk : k ∈ packWords t off ws) (hn : 0 < ws.length) (hmax : ws.length ≤ 65536) :
    k.ty = t.ty ∧ k.handle = t.handle ∧ k.tag = t.tag ∧ ∃ j, j * 256 < ws.length ∧
      k.poison = (((ws.drop (j * 256)).take 256).map (fun x => x.2)).any id := by
  obtain ⟨k', hk', rfl⟩ := List.mem_map.1 hk
  obtain ⟨hty, hh, htag, j, hj, hseq⟩ := mem_makePackets hk'
  have hlen := wordBytes_length h
  have hcut := (cutData_spec (m := 16 * 256) (by decide) (off := off) (Nat.lt_succ_of_le hlen.le)).2.2 j hj
  rw [hlen] at hcut
  clear hj
  have hj' : j * 256 < ws.length := by omega
  refine ⟨hty, hh, htag, j, hj', ?_⟩
  have : k'.pseq.toNat = j := by
    rw [hseq, BitVec.toNat_ofNat]
    exact Nat.mod_eq_of_lt (by omega)
  rw [← this]

end

/-! Words of memory. -/

theorem bytes_add (m : Mem) (p a b : Nat) : m.bytes p (a + b) = m.bytes p a ++ m.bytes (p + a) b := by
  simp [Mem.bytes, List.range_add, Nat.add_assoc]

theorem wordBytes_memWords (p n : Nat) (s : State) : wordBytes (memWords p n s) = s.mem.bytes p (16 * n) := by
  induction n with
  | zero => rfl
  | succ n ih =>
    have hcons : wordBytes (memWords p (n + 1) s) = wordBytes (memWords p n s) ++ s.mem.bytes (p + 16 * n) 16 := by
      simp [wordBytes, memWords, List.range_succ]
    rw [hcons, ih, Nat.mul_succ, bytes_add]

theorem memWords_good {p n : Nat} {s : State} (h : s.mem.anyPoison p (16 * n) = false) : ∀ x ∈ memWords p n s, x.2 = false := by
  intro x hx
  obtain ⟨i, hi, rfl⟩ := List.mem_map.1 hx
  have hi := List.mem_range.1 hi
  simp only [Mem.anyPoison, List.any_eq_false] at h ⊢
  intro w hw
  have := h w hw
  simp only [Bool.and_eq_true, decide_eq_true_eq] at this ⊢
  omega

theorem memWords_length (p n : Nat) (s : State) : (memWords p n s).length = n := by simp [memWords]

theorem memWords_words (p n : Nat) (s : State) : ∀ x ∈ memWords p n s, x.1.length = 16 := by
  intro x hx
  obtain ⟨i, -, rfl⟩ := List.mem_map.1 hx
  simp [Mem.bytes]

end Sys2Proof.Machine
end

section
/-! Lending windows (R367, R368). -/

namespace Sys2Proof.Machine

open Sys2Proof

/-! The page table in its canonical form. -/

theorem tabove_pairwise {α : Type} {d : α} {n : Nat} {t : Tab α} (h : tabove d n t) : (t.map Prod.fst).Pairwise (· < ·) ∧
    ∀ e ∈ t, n ≤ e.1 := by
  induction t generalizing n with
  | nil => simp
  | cons e t ih =>
    obtain ⟨hn, -, ht⟩ := h
    obtain ⟨h1, h2⟩ := ih ht
    refine ⟨?_, ?_⟩
    · rw [List.map_cons, List.pairwise_cons]
      refine ⟨fun k hk => ?_, h1⟩
      obtain ⟨x, hx, rfl⟩ := List.mem_map.1 hk
      exact h2 x hx
    · intro x hx
      rcases List.mem_cons.1 hx with rfl | hx
      · exact hn
      · exact le_trans (by omega) (h2 x hx)

/-- An entry of a canonical table is what is read at its index. -/
theorem tget_of_mem {α : Type} {d : α} {n : Nat} {t : Tab α} (h : tabove d n t) {e : Nat × α} (he : e ∈ t) : tget d t e.1 = e.2 := by
  induction t generalizing n with
  | nil => exact absurd he List.not_mem_nil
  | cons x t ih =>
    obtain ⟨-, -, ht⟩ := h
    rcases List.mem_cons.1 he with rfl | he
    · simp [tget]
    · have hlt := (tabove_pairwise ht).2 e he
      rw [tget, if_neg (by omega), ih ht he]

theorem mem_of_tget {α : Type} {d : α} {t : Tab α} {i : Nat} (h : tget d t i ≠ d) : (i, tget d t i) ∈ t := by
  induction t with
  | nil => exact absurd rfl h
  | cons x t ih =>
    obtain ⟨j, v⟩ := x
    unfold tget at h ⊢
    split
    · next hj => simp [hj]
    · next hj =>
      rw [if_neg hj] at h
      exact List.mem_cons_of_mem _ (ih h)

/-- All of a range's pages satisfy `P` exactly if the table lists as many that do (R367): an unlisted page does not. -/
theorem length_filter_range {α : Type} [DecidableEq α] {d : α} {t : Tab α} (h : twf d t = true) (lo n : Nat) (P : α → Prop) [DecidablePred P] (hd : ¬ P d) :
    ((t.filter (fun e => decide (lo ≤ e.1 ∧ e.1 ≤ lo + n))).filter (fun e => decide (P e.2))).length = n + 1 ↔
      ∀ p, lo ≤ p → p ≤ lo + n → P (tget d t p) := by
  have hab := (twf_iff d t).1 h
  set l := (t.filter (fun e => decide (lo ≤ e.1 ∧ e.1 ≤ lo + n))).filter (fun e => decide (P e.2)) with hl
  have hmem : ∀ p, p ∈ l.map Prod.fst ↔ lo ≤ p ∧ p ≤ lo + n ∧ P (tget d t p) := fun p => by
    constructor
    · intro hp
      obtain ⟨e, he, rfl⟩ := List.mem_map.1 hp
      obtain ⟨h1, h2⟩ := List.mem_filter.1 he
      obtain ⟨h3, h4⟩ := List.mem_filter.1 h1
      rw [tget_of_mem hab h3]
      exact ⟨(of_decide_eq_true h4).1, (of_decide_eq_true h4).2, of_decide_eq_true h2⟩
    · rintro ⟨h1, h2, h3⟩
      have hin := mem_of_tget (fun e => hd (e ▸ h3) : tget d t p ≠ d)
      exact List.mem_map.2 ⟨_, List.mem_filter.2 ⟨List.mem_filter.2 ⟨hin, decide_eq_true ⟨h1, h2⟩⟩, decide_eq_true h3⟩, rfl⟩
  have hnodup : (l.map Prod.fst).Nodup := by
    have hsub : (l.map Prod.fst).Sublist (t.map Prod.fst) := (List.filter_sublist.trans List.filter_sublist).map _
    exact (((tabove_pairwise hab).1.sublist hsub).imp fun hlt => Nat.ne_of_lt hlt)
  have hset : (l.map Prod.fst).toFinset = (Finset.Icc lo (lo + n)).filter (fun p => P (tget d t p)) := by
    ext p
    simp only [List.mem_toFinset, hmem, Finset.mem_filter, Finset.mem_Icc, and_assoc]
  have hcard : l.length = ((Finset.Icc lo (lo + n)).filter (fun p => P (tget d t p))).card := by
    rw [← hset, List.toFinset_card_of_nodup hnodup, List.length_map]
  have hicc : (Finset.Icc lo (lo + n)).card = n + 1 := by rw [Nat.card_Icc]; omega
  rw [hcard, ← hicc, Finset.card_filter_eq_iff]
  simp only [Finset.mem_Icc, and_imp]

end Sys2Proof.Machine
end

section
/-! LEND_WINDOW_OPEN, LEND_WINDOW_CLOSE and MREAD_RECEIVE (R367, R368). -/

namespace Sys2Proof.Machine

open Sys2Proof

theorem regsOnly_of_touches {ps : List Part} {Q : Nat → Prop} {l : List (Reg × List Nat)} {s t : State} (h : Touches ps Q s t)
    (hq : ∀ o, Q o → o ∈ l.map (fun e => regOff e.1 e.2)) : RegsOnly l s t :=
  fun _ _ hn => h.getR_eq fun ho => hn (hq _ ho)

section
variable {w : Nat} {s : State}

/-- The pages of a window's range are LENT to it. -/
abbrev LentTo (w : Nat) (e : BitVec 32) : Prop := entryState e = Pg.lent ∧ entryIndex e = w

theorem lent_iff (h : twf 0 s.tables.pages = true) (lo n : Nat) :
    ((pagesIn lo (lo + n) s).filter (fun e => decide (LentTo w e.2))).length = n + 1 ↔
      ∀ p, lo ≤ p → p ≤ lo + n → LentTo w (pageEntry p s) :=
  length_filter_range h lo n (LentTo w) fun h => absurd h.1 (by decide)

/-- The registers of an open window, and of the device's state. -/
theorem lendOpen_opens (hw : w < 16)
    (h : ((pagesIn (getF F.MEM_LEND_RANGE_FIRST [w] s) (getF F.MEM_LEND_RANGE_FIRST [w] s + getF F.MEM_LEND_RANGE_COUNT [w] s) s).filter
      (fun e => decide (LentTo w e.2))).length = getF F.MEM_LEND_RANGE_COUNT [w] s + 1) :
    Only [.regs] s (lendOpen w s) ∧ RegsOnly [(.MEM_LEND_CTRL, [w]), (.BC_STATE, [])] s (lendOpen w s) ∧
    getF F.MEM_LEND_CTRL_ENABLE [w] (lendOpen w s) = 1 ∧
    deviceState (lendOpen w s) = if deviceState s = Dv.idle then Dv.lender else deviceState s := by
  have hne : regOff .MEM_LEND_CTRL [w] ≠ regOff .BC_STATE [] := by simp [regOff, regDesc, dimOff]; omega
  have hset : Touches [.regs] (fun o => o = regOff .MEM_LEND_CTRL [w] ∨ o = regOff .BC_STATE []) s (setF F.MEM_LEND_CTRL_ENABLE [w] 1 s) :=
    (Touches.refl _ _ s).setF (Or.inl rfl)
  have hd : deviceState (setF F.MEM_LEND_CTRL_ENABLE [w] 1 s) = deviceState s := getF_setF_other _ _ hne.symm
  have hen : getF F.MEM_LEND_CTRL_ENABLE [w] (setF F.MEM_LEND_CTRL_ENABLE [w] 1 s) = 1 :=
    getF_setF_same _ _ _ _ (by decide) (by decide)
  have heq : lendOpen w s = if deviceState s = Dv.idle then setDeviceState Dv.lender (setF F.MEM_LEND_CTRL_ENABLE [w] 1 s)
      else setF F.MEM_LEND_CTRL_ENABLE [w] 1 s := by
    rw [← hd]
    exact if_pos h
  rw [heq]
  have hq : ∀ o, (o = regOff .MEM_LEND_CTRL [w] ∨ o = regOff .BC_STATE []) →
      o ∈ [(Reg.MEM_LEND_CTRL, [w]), (Reg.BC_STATE, [])].map (fun e => regOff e.1 e.2) := fun o ho => by simpa using ho
  split
  · have ht : Touches [.regs] (fun o => o = regOff .MEM_LEND_CTRL [w] ∨ o = regOff .BC_STATE []) s
        (setDeviceState Dv.lender (setF F.MEM_LEND_CTRL_ENABLE [w] 1 s)) := hset.setF (Or.inr rfl)
    refine ⟨ht.only, regsOnly_of_touches ht hq, ?_, getF_setF_same _ _ _ _ (by decide) (by decide)⟩
    exact (getF_setF_other _ _ hne).trans hen
  · exact ⟨hset.only, regsOnly_of_touches hset hq, hen, hd⟩

theorem setEnable_closes (w : Nat) (s : State) : Only [.regs] s (setF F.MEM_LEND_CTRL_ENABLE [w] 0 s) ∧
    RegsOnly [(.MEM_LEND_CTRL, [w])] s (setF F.MEM_LEND_CTRL_ENABLE [w] 0 s) ∧
    getF F.MEM_LEND_CTRL_ENABLE [w] (setF F.MEM_LEND_CTRL_ENABLE [w] 0 s) = 0 := by
  have ht : Touches [.regs] (fun o => o = regOff .MEM_LEND_CTRL [w]) s (setF F.MEM_LEND_CTRL_ENABLE [w] 0 s) :=
    (Touches.refl _ _ s).setF rfl
  exact ⟨ht.only, regsOnly_of_touches ht fun o ho => by simpa using ho, getF_setF_same _ _ _ _ (by decide) (by decide)⟩

end

/-! MREAD. -/

/-- What is taken from a unit's delivered packets. -/
theorem takeDelivered_touches {u : Nat} {f : Packet → Bool} {s t : State} {e : Packet × Nat} (h : takeDelivered u f s = some (e, t)) :
    Touches [.switch] (fun _ => False) s t := by
  unfold takeDelivered at h
  extract_lets q at h
  split at h
  · exact absurd h (by simp)
  · split at h
    · exact absurd h (by simp)
    · rw [← (Prod.mk.inj (Option.some.inj h)).2]
      exact (Touches.refl _ _ s).withSwitch

/-- A control cell that is acknowledged queues no message. -/
theorem ackCell_touches (p : Packet) (s : State) :
    Touches [.regs, .switch, .msgs] InSwitch s (ackCell p s) ∧ (ackCell p s).msgs.waiting = s.msgs.waiting := by
  have hseq : Touches [.regs, .switch, .msgs] InSwitch s (takeCellSeq p.src 0x11 s).2 :=
    (takeCellSeq_touches p.src 0x11 s).mono (by decide) fun _ => False.elim
  have hwait : (takeCellSeq p.src 0x11 s).2.msgs.waiting = s.msgs.waiting := rfl
  unfold ackCell sendAck
  generalize takeCellSeq p.src 0x11 s = x at hseq hwait ⊢
  obtain ⟨q, t⟩ := x
  simp only at hseq hwait ⊢
  generalize Packet.mk .. = c
  have hin := inject_touches 26 c t
  exact ⟨hseq.trans (hin.mono (by decide) fun _ => id), (congrArg Msgs.waiting (hin.only.2 .msgs (by decide))).trans hwait⟩

/-- The answer of a lender (R368). -/
theorem sendMresp_answers {m tag off : Nat} {p : Packet} {ws : Words} {ok : List Packet → Prop} {s u : State}
    (hu : u.msgs.waiting = s.msgs.waiting) (h16 : ∀ x ∈ ws, x.1.length = 16) (hn : 0 < ws.length) (hmax : ws.length ≤ 65536)
    (htag : tag < 2 ^ 32)
    (hok : ∀ t : Packet, ok (packWords t off ws)) : LenderAnswers m tag p ok s (sendMresp m p p.tag tag off ws u) := by
  refine ⟨_, congrArg (· ++ _) hu, rfl, rfl, rfl, packWords_ne_nil h16, fun k hk => ?_, hok _⟩
  obtain ⟨hty, hh, ht, -⟩ := mem_packWords h16 hk hn hmax
  exact ⟨hty, hh, by rw [ht, BitVec.toNat_ofNat, Nat.mod_eq_of_lt htag]⟩

theorem sendMresp_mem (m : Nat) (p : Packet) (h : BitVec 32) (tag off : Nat) (ws : Words) (s : State) :
    (sendMresp m p h tag off ws s).mem = s.mem := rfl

theorem lendReject_mem (m : Nat) (p : Packet) (h : BitVec 32) (tag off n : Nat) (s : State) :
    (lendReject m p h tag off n s).mem = s.mem := by
  rw [lendReject, sendMresp_mem, addF_mem]

section
variable {m : Nat} {p : Packet} {s u : State}

/-- A request that is refused: counted, and answered with poison (R368). -/
theorem lendReject_refuses {n : Nat} (hu : u.msgs.waiting = s.msgs.waiting) (hr : getR .MEM_LEND_COUNTS [] u = getR .MEM_LEND_COUNTS [] s)
    (hn : 0 < n) (hmax : n ≤ 65536) : Grew F.MEM_LEND_COUNTS_REJECTED [] 1 s (lendReject m p p.tag 1 0 n u) ∧
      LenderAnswers m 1 p (fun l => ∀ k ∈ l, k.poison = true) s (lendReject m p p.tag 1 0 n u) := by
  have h16 : ∀ x ∈ List.replicate n (zeros 16, true), x.1.length = 16 := fun x hx => by rw [List.eq_of_mem_replicate hx]; rfl
  have hmsgs : (addF F.MEM_LEND_COUNTS_REJECTED [] 1 u).msgs.waiting = s.msgs.waiting := by rw [addF, setF_msgs, hu]
  constructor
  · have hf : getF F.MEM_LEND_COUNTS_REJECTED [] u = getF F.MEM_LEND_COUNTS_REJECTED [] s := by rw [getF, getF, hr]
    have hl : (lendReject m p p.tag 1 0 n u).regs = (addF F.MEM_LEND_COUNTS_REJECTED [] 1 u).regs := rfl
    rw [Grew, getF, getR_congr _ _ hl, ← getF, addF, getF_setF_same _ _ _ _ (by decide) (by decide), hf]
  · refine sendMresp_answers hmsgs h16 (by simpa using hn) (by simpa using hmax) (by decide) fun t k hk => ?_
    obtain ⟨-, -, -, j, hj, hp⟩ := mem_packWords h16 hk (by simpa using hn) (by simpa using hmax)
    rw [List.length_replicate] at hj
    rw [hp, List.drop_replicate, List.take_replicate, List.map_replicate, List.any_replicate]
    simp
    omega

end

/-! MREAD_RECEIVE. -/

theorem takeDelivered_isNone {a : Nat} {f : Packet → Bool} {s t : State} (h : t.switch = s.switch) :
    (takeDelivered a f t).isNone = (takeDelivered a f s).isNone := by
  unfold takeDelivered
  rw [h]
  extract_lets q
  split
  · rfl
  · split <;> rfl

section
variable {m : Nat} {p : Packet} {inp : Nat} {s u : State}

/-- A lender with nothing delivered does nothing. -/
theorem mreadReceive_none (hm : m < 2) (h : takeDelivered (24 + m) (isKind 0x13) s = none) :
    exec (.mreadReceive m) s = .next (Quiet s) := by
  have hq : takeDelivered (24 + m) (isKind 0x13) (Quiet s) = none := by
    exact Option.isNone_iff_eq_none.1 ((takeDelivered_isNone (s := s) (t := Quiet s) rfl).trans (Option.isNone_iff_eq_none.2 h))
  change runIf (decide (m < 2)) (mreadStep m) s = _
  rw [runIf, decide_eq_true hm, if_pos rfl, Quiet_of_out, mreadStep, hq]

/-- The length of an MREAD is none that R368 allows. -/
abbrev MreadBadLength (p : Packet) : Prop :=
  fieldAt p.payload 8 4 < 128 ∨ 65536 < fieldAt p.payload 8 4 ∨ fieldAt p.payload 8 4 % 128 ≠ 0

section
variable (hm : m < 2) (h : takeDelivered (24 + m) (isKind 0x13) (Quiet s) = some ((p, inp), u))
include hm h

theorem mreadReceive_badLength (hn : MreadBadLength p) :
    exec (.mreadReceive m) s = .next (lendReject m p p.tag 1 0 8 (ackCell p u)) := by
  change runIf (decide (m < 2)) (mreadStep m) s = _
  rw [runIf, decide_eq_true hm, if_pos rfl, Quiet_of_out, mreadStep, h]
  simp only [if_pos hn]

theorem mreadReceive_unlent (hn : ¬ MreadBadLength p)
    (hl : lentPlace p (fieldAt p.payload 0 4) (fieldAt p.payload 4 4) (fieldAt p.payload 8 4) false (ackCell p u) = none) :
    exec (.mreadReceive m) s = .next (lendReject m p p.tag 1 0 (fieldAt p.payload 8 4 / 16) (ackCell p u)) := by
  change runIf (decide (m < 2)) (mreadStep m) s = _
  rw [runIf, decide_eq_true hm, if_pos rfl, Quiet_of_out, mreadStep, h]
  simp only [if_neg hn, hl]

theorem mreadReceive_lent {a : Nat} (hn : ¬ MreadBadLength p)
    (hl : lentPlace p (fieldAt p.payload 0 4) (fieldAt p.payload 4 4) (fieldAt p.payload 8 4) false (ackCell p u) = some a)
    (he : (ackCell p u).mem.errs = []) : exec (.mreadReceive m) s = .next
      (sendMresp m p p.tag 0 0 (memWords a (fieldAt p.payload 8 4 / 16) (ackCell p u)) (ackCell p u)) := by
  have hfind : findErrors a (fieldAt p.payload 8 4) (ackCell p u) = ackCell p u := by
    rw [findErrors, he, List.isEmpty_nil, if_pos rfl]
  change runIf (decide (m < 2)) (mreadStep m) s = _
  rw [runIf, decide_eq_true hm, if_pos rfl, Quiet_of_out, mreadStep, h]
  simp only [if_neg hn, hl, hfind]

end

/-- What an MREAD asks for lies in a page of an open window of its sender and job (R368). -/
def MreadAllowed (p : Packet) (s : State) : Prop :=
  getF F.MEM_LEND_CTRL_ENABLE [fieldAt p.payload 0 4 / 2 ^ 28] s = 1 ∧
  getF F.MEM_LEND_CTRL_BORROWER [fieldAt p.payload 0 4 / 2 ^ 28] s = p.src.toNat ∧
  getF F.MEM_LEND_CTRL_JOB [fieldAt p.payload 0 4 / 2 ^ 28] s = p.job.toNat % 4096 ∧
  fieldAt p.payload 0 4 % 2 ^ 28 ≤ getF F.MEM_LEND_RANGE_COUNT [fieldAt p.payload 0 4 / 2 ^ 28] s ∧
  fieldAt p.payload 4 4 + fieldAt p.payload 8 4 ≤ 2 ^ 21

/-- The place it asks for. -/
def mreadPlace (p : Packet) (s : State) : Nat :=
  (getF F.MEM_LEND_RANGE_FIRST [fieldAt p.payload 0 4 / 2 ^ 28] s + fieldAt p.payload 0 4 % 2 ^ 28) * 2 ^ 21 + fieldAt p.payload 4 4

theorem mread_window (p : Packet) : fieldAt p.payload 0 4 / 2 ^ 28 % 16 = fieldAt p.payload 0 4 / 2 ^ 28 :=
  Nat.mod_eq_of_lt (Nat.div_lt_of_lt_mul (fieldAt_lt p.payload 0 4))

section
variable {v : State} (hv : ∀ (f : Fld) w, f.reg = .MEM_LEND_CTRL ∨ f.reg = .MEM_LEND_RANGE → getF f [w] v = getF f [w] s)
include hv

theorem lentPlace_of_allowed (h : MreadAllowed p s) :
    lentPlace p (fieldAt p.payload 0 4) (fieldAt p.payload 4 4) (fieldAt p.payload 8 4) false v = some (mreadPlace p s) := by
  obtain ⟨h1, h2, h3, h4, h5⟩ := h
  simp only [lentPlace, mread_window, hv F.MEM_LEND_CTRL_ENABLE _ (Or.inl rfl), hv F.MEM_LEND_CTRL_BORROWER _ (Or.inl rfl),
    hv F.MEM_LEND_CTRL_JOB _ (Or.inl rfl), hv F.MEM_LEND_RANGE_COUNT _ (Or.inr rfl), hv F.MEM_LEND_RANGE_FIRST _ (Or.inr rfl)]
  exact if_pos ⟨h1, h2, h3, h4, h5, Or.inl trivial⟩

theorem lentPlace_of_not_allowed (h : ¬ MreadAllowed p s) :
    lentPlace p (fieldAt p.payload 0 4) (fieldAt p.payload 4 4) (fieldAt p.payload 8 4) false v = none := by
  simp only [lentPlace, mread_window, hv F.MEM_LEND_CTRL_ENABLE _ (Or.inl rfl), hv F.MEM_LEND_CTRL_BORROWER _ (Or.inl rfl),
    hv F.MEM_LEND_CTRL_JOB _ (Or.inl rfl), hv F.MEM_LEND_RANGE_COUNT _ (Or.inr rfl), hv F.MEM_LEND_RANGE_FIRST _ (Or.inr rfl)]
  exact if_neg fun ⟨h1, h2, h3, h4, h5, _⟩ => h ⟨h1, h2, h3, h4, h5⟩

end

/-- What a lender has once a request is taken and acknowledged: all that matters to it is as before. -/
structure Acknowledged (s v : State) : Prop where
  mem : v.mem = s.mem
  waiting : v.msgs.waiting = s.msgs.waiting
  counts : getR .MEM_LEND_COUNTS [] v = getR .MEM_LEND_COUNTS [] s
  windows : ∀ (f : Fld) w, f.reg = .MEM_LEND_CTRL ∨ f.reg = .MEM_LEND_RANGE → getF f [w] v = getF f [w] s

theorem acknowledged (h : takeDelivered (24 + m) (isKind 0x13) (Quiet s) = some ((p, inp), u)) : Acknowledged s (ackCell p u) := by
  have htake := takeDelivered_touches h
  obtain ⟨hack, hwait⟩ := ackCell_touches p u
  have hregs : ∀ r ix, ¬ InSwitch (regOff r ix) → getR r ix (ackCell p u) = getR r ix s := fun r ix hr =>
    (hack.getR_eq hr).trans (htake.getR_eq (s := Quiet s) id)
  refine ⟨?_, ?_, ?_, fun f w hf => ?_⟩
  · exact (hack.only.2 .mem (by decide)).trans (htake.only.2 .mem (by decide))
  · exact hwait.trans (congrArg Msgs.waiting (htake.only.2 .msgs (by decide)))
  · exact hregs _ _ (by decide)
  · rw [getF, getF, hregs]
    rcases hf with hf | hf <;> rw [hf] <;> simp [InSwitch, regOff, regDesc, dimOff] <;> omega

/-- A request that is served: memory's bytes, with poison where a word has it (R368). -/
theorem mresp_serves {v : State} {a n : Nat} (hv : Acknowledged s v) (hlo : 128 ≤ n) (hhi : n ≤ 65536) (h16 : n % 128 = 0) :
    (sendMresp m p p.tag 0 0 (memWords a (n / 16) v) v).mem = s.mem ∧
    LenderAnswers m 0 p (fun l => l.flatMap (fun k => k.payload) = s.mem.bytes a n ∧
      (s.mem.anyPoison a n = false → ∀ k ∈ l, k.poison = false)) s (sendMresp m p p.tag 0 0 (memWords a (n / 16) v) v) := by
  have hn : 16 * (n / 16) = n := by omega
  have hwords := memWords_words a (n / 16) v
  have hlen := memWords_length a (n / 16) v
  refine ⟨hv.mem, sendMresp_answers hv.waiting hwords (by omega) (by omega) (by decide) fun t => ⟨?_, fun hp k hk => ?_⟩⟩
  · rw [packWords_payloads hwords, wordBytes_memWords, hn, hv.mem]
  · obtain ⟨-, -, -, j, -, hpoison⟩ := mem_packWords hwords hk (by omega) (by omega)
    have hgood := memWords_good (p := a) (n := n / 16) (s := v) (by rw [hn, hv.mem]; exact hp)
    rw [hpoison, List.any_map, List.any_eq_false]
    exact fun x hx => by simp [hgood x (List.mem_of_mem_drop (List.mem_of_mem_take hx))]

end

/-- Settles O49: windows open over LENT pages alone; a good MREAD is answered with memory's words, another is counted and answered
with poison. -/
theorem memoryIsLent : Obligations.MemoryIsLent := by
  unfold Obligations.MemoryIsLent
  refine ⟨fun fn w s hw hfn hpages => ?_, fun fn w s hw hfn => ?_, fun m s hm h => mreadReceive_none hm h, fun m p inp s u hm h => ?_⟩
  · intro lo n lent
    have hexec : exec (.lendWindowOpen fn w) s = .next (lendOpen w (Quiet s)) := by
      change runIf (decide (w < 16) && fnAllowed fn (regOff .MEM_LEND_CTRL [w]) s) (lendOpen w) s = _
      rw [runIf, decide_eq_true hw, hfn, Bool.and_self, if_pos rfl, Quiet_of_out]
    have hiff := lent_iff (w := w) (s := Quiet s) hpages lo n
    have hquiet : Only [.regs] s (Quiet s) := (Touches.withOut (Touches.refl [.regs] (fun _ => False) s)).only
    refine ⟨fun hl => ?_, fun hl => ?_⟩
    · obtain ⟨h1, h2, h3, h4⟩ := lendOpen_opens (s := Quiet s) hw (hiff.2 hl)
      exact ⟨_, hexec, hquiet.trans h1, h2, h3, h4⟩
    · obtain ⟨h1, h2, h3⟩ := setEnable_closes w (Quiet s)
      have hshut : lendOpen w (Quiet s) = setF F.MEM_LEND_CTRL_ENABLE [w] 0 (Quiet s) := if_neg fun h => hl (hiff.1 h)
      exact ⟨_, hexec.trans (congrArg _ hshut), hquiet.trans h1, h2, h3⟩
  · have hexec : exec (.lendWindowClose fn w) s = .next (setF F.MEM_LEND_CTRL_ENABLE [w] 0 (Quiet s)) := by
      change runIf (decide (w < 16) && fnAllowed fn (regOff .MEM_LEND_CTRL [w]) s) (setF F.MEM_LEND_CTRL_ENABLE [w] 0) s = _
      rw [runIf, decide_eq_true hw, hfn, Bool.and_self, if_pos rfl, Quiet_of_out]
    have hquiet : Only [.regs] s (Quiet s) := (Touches.withOut (Touches.refl [.regs] (fun _ => False) s)).only
    obtain ⟨h1, h2, h3⟩ := setEnable_closes w (Quiet s)
    exact ⟨_, hexec, hquiet.trans h1, h2, h3, getF_setF_beside (f := F.MEM_LEND_CTRL_ENABLE) (g := F.MEM_LEND_CTRL_BORROWER) _ _ _ rfl
      (by decide) (by decide) (by decide)⟩
  · intro hnd off n w page good a
    have hv := acknowledged h
    have hgood : good ↔ ¬ MreadBadLength p ∧ MreadAllowed p s := by
      constructor
      · rintro ⟨h1, h2, h3, h4, h5, h6, h7, h8⟩
        exact ⟨fun hb => by rcases hb with hb | hb | hb <;> omega, h4, h5, h6, h7, h8⟩
      · rintro ⟨hb, h4, h5, h6, h7, h8⟩
        have hb1 : ¬ n < 128 := fun hx => hb (Or.inl hx)
        have hb2 : ¬ 65536 < n := fun hx => hb (Or.inr (Or.inl hx))
        have hb3 : ¬ n % 128 ≠ 0 := fun hx => hb (Or.inr (Or.inr hx))
        exact ⟨by omega, by omega, by omega, h4, h5, h6, h7, h8⟩
    refine ⟨fun hg he => ?_, fun hg => ?_⟩
    · obtain ⟨hb, hallow⟩ := hgood.1 hg
      obtain ⟨h1, h2, h3, -⟩ := hg
      exact ⟨_, mreadReceive_lent hm h hb (lentPlace_of_allowed hv.windows hallow) (by rw [hv.mem]; exact he), mresp_serves hv h1 h2 h3⟩
    · by_cases hb : MreadBadLength p
      · exact ⟨_, mreadReceive_badLength hm h hb, (lendReject_mem ..).trans hv.mem, lendReject_refuses hv.waiting hv.counts (by decide) (by decide)⟩
      · have hallow : ¬ MreadAllowed p s := fun hx => hg (hgood.2 ⟨hb, hx⟩)
        have hb1 : ¬ n < 128 := fun hx => hb (Or.inl hx)
        have hb2 : ¬ 65536 < n := fun hx => hb (Or.inr (Or.inl hx))
        exact ⟨_, mreadReceive_unlent hm h hb (lentPlace_of_not_allowed hv.windows hallow), (lendReject_mem ..).trans hv.mem,
          lendReject_refuses hv.waiting hv.counts (by omega) (by omega)⟩

end Sys2Proof.Machine
end

section
/-! What a write that may fail touches (R96, R267, R369). -/

namespace Sys2Proof.Machine

open Sys2Proof

/-- Any register. -/
abbrev AnyReg (_ : Nat) : Prop := True

/-- The parts of the state that the stop of a rope touches. -/
abbrev stopParts : List Part := eventParts ++ [.cores, .ropes, .rtes, .xes]

theorem haltRope_touches (r : Nat) (s : State) : Touches stopParts AnyReg s (haltRope r s).2 := by
  unfold haltRope
  extract_lets cores n going t u v w
  have ht : Touches stopParts AnyReg s t := (Touches.refl _ _ s).forList fun c _ v => (Touches.refl _ _ v).withCores
  have hu : Touches stopParts AnyReg s u :=
    ht.withRtesXes
  have hv : Touches stopParts AnyReg s v := hu.forN fun d _ x => (Touches.refl _ _ x).setF trivial
  clear_value t u v
  exact hv.forN fun d _ x => (Touches.refl _ _ x).setF trivial

theorem stopRope_touches (r : Nat) (core : Option Nat) (sr : StopRec) (s : State) : Touches stopParts AnyReg s (stopRope r core sr s) := by
  unfold stopRope
  extract_lets t
  have ht : Touches stopParts AnyReg s t := by
    unfold t
    split
    · exact (Touches.refl _ _ s).withCores
    · exact Touches.refl _ _ s
  clear_value t
  split
  · exact ht.withRopes
  · have hh := ht.trans (haltRope_touches r t)
    generalize haltRope r t = x at hh ⊢
    obtain ⟨n, u⟩ := x
    simp -zeta only at hh ⊢
    extract_lets v w y
    have hw : Touches stopParts AnyReg s w := Touches.withRopes hh
    have hy : Touches stopParts AnyReg s y := by
      unfold y
      split
      · exact hw.setF trivial
      · exact hw
    clear_value w y
    exact hy.trans ((raiseEvent_touches _ y).mono (by decide) fun _ _ => trivial)

theorem writerStop_touches (x : WriteReq) (s : State) : Touches (stopParts ++ [.heldSigs]) AnyReg s (writerStop x s) := by
  unfold writerStop
  extract_lets t w k
  have ht : Touches (stopParts ++ [.heldSigs]) AnyReg s t := (Touches.refl _ _ s).withHeldSigs
  clear_value t
  split
  · exact ht
  · exact ht.trans ((stopRope_touches ..).mono (by decide) fun _ => id)

/-- The parts of the state that a write which may fail touches. -/
abbrev tryParts : List Part := accessParts ++ [.cores, .ropes, .rtes, .xes, .heldSigs]

theorem lostWrite_touches (w : Who) (a : Nat) (s : State) : Touches tryParts AnyReg s (lostWrite w a s) :=
  Touches.trans ((Touches.refl _ _ s).addF trivial) ((writerStop_touches ..).mono (by decide) fun _ => id)

theorem writeA_tries {n : Nat} {w : Who} {a : Nat} {bs : List Byte} {poison : Bool} {s t : State}
    (h : writeA n w a bs poison s = .ok t) : Touches tryParts AnyReg s t :=
  (writeA_touches h).mono (by decide) fun _ _ => trivial

theorem tryWr_touches {w : Who} {a : Nat} {bs : List Byte} {poison : Bool} {s t : State} (h : tryWr w a bs poison s = .ok t) :
    Touches tryParts AnyReg s t := by
  have hwrite : ∀ u, (if poison then wrPoison w a bs.length s else wr w a bs s) = .ok u → Touches tryParts AnyReg s u := fun u hu => by
    split at hu
    · exact writeA_tries hu
    · exact writeA_tries hu
  unfold tryWr at h
  generalize (if poison then wrPoison w a bs.length s else wr w a bs s) = d at h hwrite
  split at h
  · rw [← Except.ok.inj h]
    split
    · exact lostWrite_touches ..
    · exact Touches.refl _ _ s
  · exact hwrite _ h

/-- The update of a history (R366). -/
theorem histUpdate_touches {w : Who} {x : Sched} {i : Nat} {counts : List (Nat × Nat)} {s t : State}
    (h : histUpdate w x i counts s = .ok t) : Touches tryParts AnyReg s t := by
  unfold histUpdate at h
  split at h
  · exact absurd h (by simp)
  · next u hu =>
    have hcounts : Touches tryParts AnyReg s u := by
      refine foldE_rel (R := fun s t => Touches tryParts AnyReg s t) (Touches.refl _ _) (fun _ _ _ => Touches.trans) (fun c _ v z hz => ?_) hu
      split at hz
      · exact absurd hz (by simp)
      · exact tryWr_touches hz
    split at h
    · exact absurd h (by simp)
    · exact hcounts.trans (tryWr_touches h)

end Sys2Proof.Machine
end

section
/-! The memory of the device under an event record (R469). -/

namespace Sys2Proof.Machine

open Sys2Proof

/-- Places below 2 ^ 64 are not the host's. -/
theorem hostWrite_below (a : Nat) (bs : List Byte) (s : State) : MemSame (2 ^ 64) s (hostWrite a bs s) := fun p hp => by
  have hm : (hostWrite a bs s).mem = s.mem.write (hostPlace a) bs := rfl
  have hlt : p < hostPlace a := lt_of_lt_of_le hp (Nat.le_add_right _ _)
  have hw : wholeWord (hostPlace a) bs.length (p / 16) = false := by
    rw [wholeWord, decide_eq_false (by omega), Bool.false_and]
  rw [hm]
  refine ⟨Mem.byte_write_other _ _ _ _ (Or.inl hlt), ?_⟩
  rw [Mem.write, Mem.poisoned, Mem.poison_setBytes]
  exact Mem.poisoned_unpoison_of_not_whole s.mem hw

theorem MemSame_of_mem_eq {hi : Nat} {s t : State} (h : t.mem = s.mem) : MemSame hi s t := fun _ _ => by rw [h]; exact ⟨rfl, rfl⟩

theorem MemSame_trans {hi : Nat} {s t u : State} (h : MemSame hi s t) (g : MemSame hi t u) : MemSame hi s u := fun p hp =>
  ⟨(g p hp).1.trans (h p hp).1, (g p hp).2.trans (h p hp).2⟩

/-- An event record goes to host memory. -/
theorem raiseEvent_below (e : Event) (s : State) : MemSame (2 ^ 64) s (raiseEvent e s) := by
  unfold raiseEvent
  extract_lets t head tail bs u
  have ht : t.mem = s.mem := setR_mem ..
  have hu : MemSame (2 ^ 64) t u := hostWrite_below _ _ t
  clear_value t u
  split
  · exact MemSame_of_mem_eq ht
  · split
    · exact MemSame_of_mem_eq ht
    · split
      · exact MemSame_of_mem_eq (by rw [setR_mem, ht])
      · refine MemSame_trans (MemSame_trans (MemSame_of_mem_eq ht) hu) (MemSame_of_mem_eq ?_)
        exact ((raiseEventVector_touches _ _).only.2 .mem (by decide)).trans (setF_mem ..)

end Sys2Proof.Machine
end

section
/-! The prefetch sequencers (R361 to R366). -/

namespace Sys2Proof.Machine

open Sys2Proof

/-! A sequencer's work. -/

theorem modPf_touches (r die : Nat) (f : PfDie → PfDie) (s : State) : Touches [.pf] (fun _ => False) s (modPf r die f s) :=
  (Touches.refl _ _ s).withPf

@[simp] theorem pfOf_modPf_same (r die : Nat) (f : PfDie → PfDie) (s : State) : pfOf r die (modPf r die f s) = f (pfOf r die s) :=
  tget_tmod_same ..

theorem tget_modPf_other {r die k : Nat} (f : PfDie → PfDie) (s : State) (h : k ≠ pfIdx r die) :
    tget ({} : PfDie) (modPf r die f s).pf k = tget {} s.pf k := tget_tmod_other _ _ _ _ h

theorem pfOf_congr {s t : State} (r die : Nat) (h : t.pf = s.pf) : pfOf r die t = pfOf r die s := by rw [pfOf, pfOf, h]

theorem schedOf_congr {s t : State} (r : Nat) (h : t.sched = s.sched) : schedOf r t = schedOf r s := by rw [schedOf, schedOf, h]

theorem releaseFills_touches (r die : Nat) (s : State) : Touches [.pf] (fun _ => False) s (releaseFills r die s) := modPf_touches ..

theorem releaseAll_touches (die : Nat) (s : State) : Touches [.pf] (fun _ => False) s (releaseAll die s) :=
  (Touches.refl _ _ s).forN fun r _ u => releaseFills_touches r die u

/-- Belays set to 0 one after the other. -/
theorem devBelay_zeroed (l : List Nat) (g : Nat → Nat) (j : Nat) (s : State) :
    devBelay j (forList l s (fun a s => setDevBelay (g a) 0 s)) = if j ∈ l.map g then 0 else devBelay j s := by
  induction l generalizing s with
  | nil => simp [forList]
  | cons a l ih =>
    rw [forList_cons, ih]
    by_cases hj : j = g a
    · simp [hj]
    · rw [devBelay_setDevBelay_other _ _ hj]
      simp [hj]

theorem activateLayer_touches (x : Sched) (i k : Nat) (s : State) : Touches [.regs, .belays] InBasecamp s (activateLayer x i k s) :=
  (Touches.refl _ _ s).forList fun _ _ u => setDevBelay_touches _ _ u

theorem devBelay_activateLayer {x : Sched} {i k slot : Nat} (s : State) (h : slot ∈ x.homed i k) :
    devBelay (x.belay i slot) (activateLayer x i k s) = 0 := by
  rw [activateLayer, devBelay_zeroed, if_pos (List.mem_map_of_mem h)]

/-! Serving a tag (R363). -/

section
variable {die i : Nat} {tag : BitVec 32} {e : Exch} {x : Sched} {s u : State}

/-- The layer's belays are 0 once its tag is served, unless it was activated. -/
abbrev servedFrom (die : Nat) (e : Exch) (x : Sched) (i : Nat) (s : State) : State :=
  if (pfOf e.rope die s).activated.contains i then s else activateLayer x i ((indexOf (ropeDies e.rope s) die).getD 0) s

theorem servedFrom_touches (die : Nat) (e : Exch) (x : Sched) (i : Nat) (s : State) :
    Touches [.regs, .belays] InBasecamp s (servedFrom die e x i s) := by
  unfold servedFrom
  split
  · exact Touches.refl _ _ s
  · exact activateLayer_touches ..

/-- A tag that is served: it is seen, and served last; the belays are those of its activation. -/
theorem serveTag_served (h : serveTag die e x i s = .ok u) : (pfOf e.rope die u).seen = (pfOf e.rope die s).seen ++ [e.tag] ∧
    (pfOf e.rope die u).served = (pfOf e.rope die s).served ++ [(e.tag, i)] ∧ u.belays = (servedFrom die e x i s).belays := by
  unfold serveTag at h
  extract_lets r k w p counts got v spec kept y at h
  split at h
  · exact absurd h (by simp)
  · extract_lets order todo z at h
    have hv : v = servedFrom die e x i s := rfl
    have hy : y.pf = s.pf := (by rw [addF_pf, addF_pf, hv]; exact (servedFrom_touches die e x i s).only.2 .pf (by decide))
    have hyb : y.belays = (servedFrom die e x i s).belays := by rw [addF_belays, addF_belays, hv]
    have hseen : (pfOf e.rope die z).seen = (pfOf e.rope die y).seen ++ [e.tag] := congrArg PfDie.seen (pfOf_modPf_same ..)
    have hserved : (pfOf e.rope die z).served = (pfOf e.rope die y).served ++ [(e.tag, i)] := congrArg PfDie.served (pfOf_modPf_same ..)
    have hzb : z.belays = y.belays := (modPf_touches ..).only.2 .belays (by decide)
    clear_value z v y
    have hz := histUpdate_touches h
    have hpf : pfOf e.rope die u = pfOf e.rope die z := pfOf_congr _ _ (hz.only.2 .pf (by decide))
    have hys := pfOf_congr e.rope die hy
    exact ⟨by rw [hpf, hseen, hys], by rw [hpf, hserved, hys], ((hz.only.2 .belays (by decide)).trans hzb).trans hyb⟩

end

end Sys2Proof.Machine
end

section
/-! PREFETCH_DEMAND, PREFETCH_PIECE_ISSUE, SPECULATIVE_FILL and PIECE_LAND (R363 to R366). -/

namespace Sys2Proof.Machine

open Sys2Proof

/-! PREFETCH_DEMAND. -/

/-- Where the sequencer's turn for a tag has not come (R363). -/
abbrev notTurn (die : Nat) (e : Exch) (x : Sched) (s : State) : Bool :=
  ! e.countsComplete || (pfOf e.rope die s).seen.contains e.tag || ! (pfOf e.rope die s).todo.isEmpty || ! earlierHandled die e x s

theorem notTurn_iff (die : Nat) (e : Exch) (x : Sched) (s : State) : notTurn die e x s = false ↔
    e.countsComplete = true ∧ e.tag ∉ (pfOf e.rope die s).seen ∧ (pfOf e.rope die s).todo = [] ∧ earlierHandled die e x s = true := by
  simp [notTurn, and_assoc]

theorem exec_prefetchDemand {die : Nat} (hd : die < 8) (tag : BitVec 32) (s : State) :
    exec (.prefetchDemand die tag) s = .next (demandStep die tag (Quiet s)) := by
  change runIf (decide (die < 8)) (demandStep die tag) s = _
  rw [runIf, decide_eq_true hd, if_pos rfl, Quiet_of_out]

section
variable {die i : Nat} {tag : BitVec 32} {e : Exch} {x : Sched} {s u : State}

/-- What comes first of every demand (R365). -/
theorem demandStep_none (h : activeExch die tag s = none) : demandStep die tag s = s := by
  rw [demandStep, h]

variable (he : activeExch die tag s = some e)
include he

theorem demandStep_unscheduled (h : schedOf e.rope (releaseFills e.rope die s) = none) :
    demandStep die tag s = releaseFills e.rope die s := by
  simp only [demandStep, he, h]

variable (hx : schedOf e.rope (releaseFills e.rope die s) = some x) (hi : x.layerOf e.tag = some i)
include hx hi

theorem demandStep_notTurn (h : notTurn die e x (releaseFills e.rope die s) = true) :
    demandStep die tag s = releaseFills e.rope die s := by
  simp only [demandStep, he, hx, hi]
  exact if_pos h

theorem demandStep_skips (h : notTurn die e x (releaseFills e.rope die s) = false)
    (hs : (pfOf e.rope die (releaseFills e.rope die s)).served.any (fun y => decide (y.2 = i)) = true) :
    demandStep die tag s = addF F.MEM_PF_COUNTS_SKIPPED [e.rope] 1
      (modPf e.rope die (fun q => { q with seen := q.seen ++ [e.tag] }) (releaseFills e.rope die s)) := by
  simp only [demandStep, he, hx, hi]
  exact (if_neg (ne_true_of_eq_false h)).trans (if_pos hs)

theorem demandStep_serves (h : notTurn die e x (releaseFills e.rope die s) = false)
    (hs : (pfOf e.rope die (releaseFills e.rope die s)).served.any (fun y => decide (y.2 = i)) = false)
    (hu : serveTag die e x i (releaseFills e.rope die s) = .ok u) : demandStep die tag s = afterPf die u := by
  simp only [demandStep, he, hx, hi]
  refine (if_neg (ne_true_of_eq_false h)).trans ((if_neg (ne_true_of_eq_false hs)).trans ?_)
  rw [hu, runAccess]
  rfl

end

/-- The end of a sequencer's accesses. -/
theorem afterPf_touches (die : Nat) (u : State) : Touches [.regs, .reads] (fun o => o = 0x840800) u (afterPf die u) := endAccess_touches ..

/-- A tag of a layer that is being served is skipped, and counted (R363). -/
theorem skipped_spec {die r : Nat} {tag : BitVec 32} {s t : State} (hr : Touches [.pf] (fun _ => False) t s) :
    let u := addF F.MEM_PF_COUNTS_SKIPPED [r] 1 (modPf r die (fun q => { q with seen := q.seen ++ [tag] }) s)
    (pfOf r die u).seen = (pfOf r die s).seen ++ [tag] ∧ (pfOf r die u).served = (pfOf r die s).served ∧
    (r < 16 → Grew F.MEM_PF_COUNTS_SKIPPED [r] 1 t u) ∧ u.belays = t.belays ∧ u.mem = t.mem := by
  intro u
  have hmod := modPf_touches r die (fun q => { q with seen := q.seen ++ [tag] }) s
  have hpf : pfOf r die u = { pfOf r die s with seen := (pfOf r die s).seen ++ [tag] } :=
    (pfOf_congr r die (addF_pf ..)).trans (pfOf_modPf_same ..)
  have hget : getF F.MEM_PF_COUNTS_SKIPPED [r] (modPf r die (fun q => { q with seen := q.seen ++ [tag] }) s) =
      getF F.MEM_PF_COUNTS_SKIPPED [r] t := (hmod.getF_eq id).trans (hr.getF_eq id)
  refine ⟨by rw [hpf], by rw [hpf], fun _ => ?_, ?_, ?_⟩
  · exact (getF_setF_same _ _ _ _ (by decide) (by decide)).trans (by rw [hget])
  · rw [addF_belays]
    exact (hmod.only.2 .belays (by decide)).trans (hr.only.2 .belays (by decide))
  · rw [addF_mem]
    exact (hmod.only.2 .mem (by decide)).trans (hr.only.2 .mem (by decide))

/-- What is left of a tag that is served. -/
theorem served_spec {die i : Nat} {e : Exch} {x : Sched} {s t u : State} (hr : Touches [.pf] (fun _ => False) t s)
    (h : serveTag die e x i s = .ok u) : e.tag ∈ (pfOf e.rope die (afterPf die u)).seen ∧
      (pfOf e.rope die (afterPf die u)).served = (pfOf e.rope die s).served ++ [(e.tag, i)] ∧
      (i ∈ (pfOf e.rope die s).activated → (afterPf die u).belays = t.belays) ∧
      (i ∉ (pfOf e.rope die s).activated → ∀ slot ∈ x.homed i ((indexOf (ropeDies e.rope s) die).getD 0),
        devBelay (x.belay i slot) (afterPf die u) = 0) := by
  obtain ⟨hseen, hserved, hbelays⟩ := serveTag_served h
  have hafter := (afterPf_touches die u).only
  have hpf : pfOf e.rope die (afterPf die u) = pfOf e.rope die u := pfOf_congr _ _ (hafter.2 .pf (by decide))
  have hb : (afterPf die u).belays = (servedFrom die e x i s).belays := (hafter.2 .belays (by decide)).trans hbelays
  refine ⟨by rw [hpf, hseen]; simp, by rw [hpf, hserved], fun hi => ?_, fun hi slot hslot => ?_⟩
  · rw [hb, servedFrom, if_pos (List.contains_iff_mem.2 hi)]
    exact hr.only.2 .belays (by decide)
  · rw [devBelay_congr _ hb, servedFrom, if_neg (fun h => hi (List.contains_iff_mem.1 h))]
    exact devBelay_activateLayer s hslot

/-! History (R366). -/

/-- A slot's popularity stays a number of 32 bits. -/
theorem histStep_eq {h c : Nat} (hh : h < 2 ^ 32) :
    (histStep h c : Int) = h + Int.tdiv ((min c (2 ^ 23) : Nat) * 256 - (h : Int)) 8 := by
  have hm : min c (2 ^ 23) ≤ 2 ^ 23 := Nat.min_le_right ..
  rw [histStep, BitVec.toNat_ofInt]
  generalize min c (2 ^ 23) = m at hm ⊢
  have hdiv : Int.tdiv ((m : Int) * 256 - h) 8 = ((m : Int) * 256 - h) / 8 ∧ (h : Int) ≤ m * 256 ∨
      Int.tdiv ((m : Int) * 256 - h) 8 = - ((h - (m : Int) * 256) / 8) ∧ (m * 256 : Int) ≤ h := by
    rcases le_total (h : Int) (m * 256) with hle | hle
    · exact Or.inl ⟨Int.tdiv_eq_ediv_of_nonneg (by omega), hle⟩
    · exact Or.inr ⟨by rw [← neg_sub, Int.neg_tdiv, Int.tdiv_eq_ediv_of_nonneg (by omega)], hle⟩
  have hlo : 0 ≤ (h : Int) + Int.tdiv ((m : Int) * 256 - h) 8 := by omega
  have hhi : (h : Int) + Int.tdiv ((m : Int) * 256 - h) 8 < 2 ^ 32 := by omega
  rw [Int.toNat_of_nonneg (Int.emod_nonneg _ (by decide)), Int.emod_eq_of_lt hlo (by exact_mod_cast hhi)]

/-! PREFETCH_PIECE_ISSUE. -/

/-- The least place of a range at which something is found. -/
theorem findSome?_range_least {α : Type} {g : Nat → Option α} {n r : Nat} {a : α} (hr : r < n) (ha : g r = some a)
    (hlow : ∀ o, o < r → g o = none) : (List.range n).findSome? g = some a := by
  obtain ⟨m, rfl⟩ : ∃ m, n = r + (m + 1) := ⟨n - r - 1, by omega⟩
  have hnone : (List.range r).findSome? g = none := List.findSome?_eq_none_iff.2 fun o ho => hlow o (List.mem_range.1 ho)
  rw [List.range_add, List.findSome?_append, hnone, Option.none_or, List.range_succ_eq_map, List.map_cons, Nat.add_zero,
    List.findSome?_cons, ha]

/-- The lowest free buffer of a group (R363). -/
theorem freeBuffers_least {x : Sched} {k g b : Nat} {fs : List Fill} (h : (freeBuffers x k g fs).head? = some b) :
    b ∈ freeBuffers x k g fs ∧ ∀ c ∈ freeBuffers x k g fs, b ≤ c := by
  have hsorted : (freeBuffers x k g fs).Pairwise (· < ·) := List.pairwise_lt_range.sublist List.filter_sublist
  generalize freeBuffers x k g fs = l at *
  cases l with
  | nil => exact absurd h (by simp)
  | cons c l =>
    obtain rfl : c = b := by simpa using h
    refine ⟨List.mem_cons_self, fun d hd => ?_⟩
    rcases List.mem_cons.1 hd with rfl | hd
    · exact le_rfl
    · exact (List.rel_of_pairwise_cons hsorted hd).le

theorem nextDemand_spec {r die : Nat} {s : State} {f : Fill} {x : Sched} (h : nextDemand r die s = some f) (hx : schedOf r s = some x) :
    (freeBuffers x ((indexOf (ropeDies r s) die).getD 0) f.piece (pfOf r die s).fills).head? = some f.buf := by
  unfold nextDemand at h
  split at h
  · next y slot j rest t i hy _ _ =>
    obtain rfl : y = x := Option.some.inj (hy.symm.trans hx)
    obtain ⟨b, hb, rfl⟩ := Option.map_eq_some_iff.1 h
    exact hb
  · exact absurd h (by simp)

section
variable {die : Nat} {s : State}

theorem exec_prefetchPieceIssue (hd : die < 8) (s : State) :
    exec (.prefetchPieceIssue die) s = .next (pieceIssue die (Quiet s)) := by
  change runIf (decide (die < 8)) (pieceIssue die) s = _
  rw [runIf, decide_eq_true hd, if_pos rfl, Quiet_of_out]

theorem pieceIssue_none (h : ∀ r, r < 16 → nextDemand r die (releaseAll die s) = none) : pieceIssue die s = releaseAll die s := by
  have hnone : (List.range 16).findSome? (fun r => (nextDemand r die (releaseAll die s)).map (fun f => (r, f))) = none :=
    List.findSome?_eq_none_iff.2 fun r hr => by rw [h r (List.mem_range.1 hr)]; rfl
  simp only [pieceIssue, hnone]

theorem pieceIssue_starts {r : Nat} {f : Fill} (hr : r < 16) (h : nextDemand r die (releaseAll die s) = some f)
    (hlow : ∀ o, o < r → nextDemand o die (releaseAll die s) = none) : pieceIssue die s =
      modPf r die (fun q => { q with todo := q.todo.tail, fills := q.fills ++ [f] }) (releaseAll die s) := by
  have hsome : (List.range 16).findSome? (fun r => (nextDemand r die (releaseAll die s)).map (fun f => (r, f))) = some (r, f) :=
    findSome?_range_least hr (by rw [h]; rfl) fun o ho => by rw [hlow o ho]; rfl
  simp only [pieceIssue, hsome]

/-! SPECULATIVE_FILL. -/

theorem exec_speculativeFill (hd : die < 8) (s : State) : exec (.speculativeFill die) s = .next (specStep die (Quiet s)) := by
  change runIf (decide (die < 8)) (specStep die) s = _
  rw [runIf, decide_eq_true hd, if_pos rfl, Quiet_of_out]

/-- What the sequencer may fill speculatively for a rope. -/
def specCand (die : Nat) (s : State) (r : Nat) : Option (Nat × Sched × Nat) :=
  match schedOf r s with
  | none => none
  | some x => (specLayer r die x s).map (fun i => (r, x, i))

theorem specStep_none (h : ∀ r x, r < 16 → schedOf r (releaseAll die s) = some x → specLayer r die x (releaseAll die s) = none) :
    specStep die s = releaseAll die s := by
  have hnone : (List.range 16).findSome? (specCand die (releaseAll die s)) = none :=
    List.findSome?_eq_none_iff.2 fun r hr => by
      unfold specCand
      split
      · rfl
      · next x hx => rw [h r x (List.mem_range.1 hr) hx]; rfl
  unfold specStep
  change (match (List.range 16).findSome? (specCand die (releaseAll die s)) with | none => _ | some (r, x, i) => _) = _
  rw [hnone]

theorem specStep_fills {r i : Nat} {x : Sched} {u : State} (hr : r < 16) (hx : schedOf r (releaseAll die s) = some x)
    (hi : specLayer r die x (releaseAll die s) = some i)
    (hlow : ∀ o y, o < r → schedOf o (releaseAll die s) = some y → specLayer o die y (releaseAll die s) = none)
    (hu : specFill r die x i (releaseAll die s) = .ok u) : specStep die s = afterPf die u := by
  have hsome : (List.range 16).findSome? (specCand die (releaseAll die s)) = some (r, x, i) :=
    findSome?_range_least hr (by simp only [specCand, hx, hi, Option.map_some]) fun o ho => by
      unfold specCand
      split
      · rfl
      · next y hy => rw [hlow o y ho hy]; rfl
  unfold specStep
  change (match (List.range 16).findSome? (specCand die (releaseAll die s)) with | none => _ | some (r, x, i) => _) = _
  rw [hsome]
  change runAccess (pfWho r die) (specFill r die x i (releaseAll die s)) _ _ = _
  rw [hu]
  rfl

theorem specLayer_pending {r i : Nat} {x : Sched} (h : specLayer r die x s = some i) : getF F.MEM_PF_CTRL_PENDING [r] s = 0 := by
  unfold specLayer at h
  extract_lets p at h
  split at h
  · exact absurd h (by simp)
  · extract_lets n at h
    split at h
    · next hc => exact hc.1
    · exact absurd h (by simp)

/-- A speculative fill: nothing, or the first missing piece in a free buffer, without a tag. -/
theorem specFill_fills {r i : Nat} {x : Sched} {u : State} (h : specFill r die x i s = .ok u) : u.mem = s.mem ∧
    ((pfOf r die u).fills = (pfOf r die s).fills ∨
      ∃ f, (pfOf r die u).fills = (pfOf r die s).fills ++ [f] ∧ f.layer = i ∧ f.tag = none ∧ f.landed = false ∧
        f.buf ∈ freeBuffers x ((indexOf (ropeDies r s) die).getD 0) f.piece (pfOf r die s).fills) := by
  unfold specFill at h
  extract_lets k p v at h
  have hv : Touches [.regs, .belays] InBasecamp s v := by
    unfold v
    split
    · exact Touches.refl _ _ s
    · exact activateLayer_touches ..
  split at h
  · exact absurd h (by simp)
  · next slots _ =>
    extract_lets cand at h
    clear_value v
    generalize hcand : cand = l at h
    split at h
    · rw [← Except.ok.inj h]
      exact ⟨rfl, Or.inl rfl⟩
    · next f rest =>
      rw [← Except.ok.inj h]
      refine ⟨((modPf_touches ..).only.2 .mem (by decide)).trans (hv.only.2 .mem (by decide)), Or.inr ⟨f, ?_, ?_⟩⟩
      · rw [pfOf_modPf_same, pfOf_congr r die (hv.only.2 .pf (by decide))]
      · have hf : f ∈ cand := by rw [hcand]; exact List.mem_cons_self
        obtain ⟨slot, -, hf⟩ := List.mem_flatMap.1 hf
        obtain ⟨j, -, hf⟩ := List.mem_filterMap.1 hf
        split at hf
        · exact absurd hf (by simp)
        · obtain ⟨b, hb, rfl⟩ := Option.map_eq_some_iff.1 hf
          exact ⟨rfl, rfl, rfl, (freeBuffers_least hb).1⟩

end

end Sys2Proof.Machine
end

section
/-! PIECE_LAND (R363, R364), and the rows of the prefetch sequencers. -/

namespace Sys2Proof.Machine

open Sys2Proof

/-! SCHEDULE_WRITE. -/

theorem exec_scheduleWrite {fn : Requester} {r : Nat} {a : BitVec 48} {s : State} (hr : r < 16)
    (hfn : fnAllowed fn (regOff .MEM_PF_CTRL [r]) s = true) :
    exec (.scheduleWrite fn r a) s = .next (writeSched r a.toNat (Quiet s)) := by
  change runIf (decide (r < 16) && fnAllowed fn (regOff .MEM_PF_CTRL [r]) s) (writeSched r a.toNat) s = _
  rw [runIf, decide_eq_true hr, hfn, Bool.and_self, if_pos rfl, Quiet_of_out]

theorem writeSched_fields (r : Nat) (a : BitVec 48) (s : State) : getF F.MEM_PF_CTRL_SCHED [r] (writeSched r a.toNat s) = a.toNat ∧
    getF F.MEM_PF_CTRL_PENDING [r] (writeSched r a.toNat s) = 1 ∧
    getF F.MEM_PF_CTRL_STATUS [r] (writeSched r a.toNat s) = getF F.MEM_PF_CTRL_STATUS [r] s := by
  unfold writeSched
  refine ⟨?_, ?_, ?_⟩
  · rw [getF_setF_same _ _ _ _ (by decide) (by decide)]
    exact Nat.mod_eq_of_lt a.isLt
  · rw [getF_setF_beside (f := F.MEM_PF_CTRL_SCHED) (g := F.MEM_PF_CTRL_PENDING) _ _ _ rfl (by decide) (by decide) (by decide),
      getF_setF_same _ _ _ _ (by decide) (by decide)]
    rfl
  · rw [getF_setF_beside (f := F.MEM_PF_CTRL_SCHED) (g := F.MEM_PF_CTRL_STATUS) _ _ _ rfl (by decide) (by decide) (by decide),
      getF_setF_beside (f := F.MEM_PF_CTRL_PENDING) (g := F.MEM_PF_CTRL_STATUS) _ _ _ rfl (by decide) (by decide) (by decide)]

theorem writeSched_touches (r a : Nat) (s : State) : Touches [.regs] (fun o => o = regOff .MEM_PF_CTRL [r]) s (writeSched r a s) :=
  ((Touches.refl [.regs] (fun o => o = regOff .MEM_PF_CTRL [r]) s).setF rfl).setF rfl

/-! PIECE_LAND. -/

theorem exec_pieceLand {die idx : Nat} (hd : die < 8) (hr : idx / 1024 < 16) (s : State) :
    exec (.pieceLand die idx) s = .next (landStep die idx (Quiet s)) := by
  change runIf (decide (die < 8) && decide (idx / 1024 < 16)) (landStep die idx) s = _
  rw [runIf, decide_eq_true hd, decide_eq_true hr, Bool.and_self, if_pos rfl, Quiet_of_out]

theorem landStep_nothing {die idx : Nat} {s : State} (h : schedOf (idx / 1024) s = none ∨ (pfOf (idx / 1024) die s).fills[idx % 1024]? = none ∨
    ∃ f, (pfOf (idx / 1024) die s).fills[idx % 1024]? = some f ∧ f.landed = true) : landStep die idx s = s := by
  unfold landStep
  extract_lets r
  split
  · next x f hx hf =>
    rcases h with h | h | ⟨g, hg, hl⟩
    · exact absurd (hx.symm.trans h) (by simp)
    · exact absurd (hf.symm.trans h) (by simp)
    · obtain rfl : f = g := Option.some.inj (hf.symm.trans hg)
      exact if_pos hl
  · rfl

theorem landStep_lands {die idx : Nat} {s u : State} {x : Sched} {f : Fill} (hx : schedOf (idx / 1024) s = some x)
    (hf : (pfOf (idx / 1024) die s).fills[idx % 1024]? = some f) (hl : f.landed = false)
    (hu : landPiece (idx / 1024) die (idx % 1024) x f s = .ok u) :
    landStep die idx s = releaseFills (idx / 1024) die (afterPf die u) := by
  simp only [landStep, hx, hf, hl, hu, Bool.false_eq_true, if_false]
  rfl

section
variable {r die pos st : Nat} {x : Sched} {f : Fill} {s v : State}

/-- The state after a piece's buffer and entry are written: the fill has landed, and its belay is signalled (R363). -/
def landed (r die pos : Nat) (x : Sched) (f : Fill) (v : State) : State :=
  signalBy (552 + die) true (x.belay f.layer f.slot) true
    (BitVec.ofNat 64 (leadingLanded (setAt (pfOf r die v).fills pos { f with landed := true }) f))
    (modPf r die (fun q => { q with fills := dropFills (setAt (pfOf r die v).fills pos { f with landed := true }) }) v)

/-- A piece that cannot be read as good data is reported (R364). -/
def landReport (r die st : Nat) (f : Fill) (s : State) : State :=
  if st = 0 then s
  else raiseEvent { status := st, cls := 3, source := 0x07, rope := some r, unit := die,
                    detail := natLe 4 (f.tag.getD 0).toNat ++ natLe 2 f.slot } s

theorem landPiece_ok {bs : List Byte} {u : State}
    (hread : pieceRead (pfWho r die) (x.pieceAddr f.layer f.slot f.piece) (x.pieceBytes f.layer f.slot f.piece) s = .ok (bs, st))
    (hbuf : tryWr (pfWho r die) (x.bufAddr ((indexOf (ropeDies r s) die).getD 0) f.buf) bs (decide (st ≠ 0)) s = .ok u)
    (hentry : tryWr (pfWho r die) (fieldAt (x.layer f.layer) 10 6 + 32 * f.slot + 8 * f.piece)
      (natLe 6 (x.bufAddr ((indexOf (ropeDies r s) die).getD 0) f.buf) ++ natLe 2 st) false u = .ok v) :
    landPiece r die pos x f s = .ok (landReport r die st f (landed r die pos x f v)) := by
  simp only [landPiece, hread, hbuf, hentry]
  rfl

theorem landed_touches (r die pos : Nat) (x : Sched) (f : Fill) (v : State) :
    Touches [.regs, .belays, .heldSigs, .pf] InBasecamp v (landed r die pos x f v) :=
  ((modPf_touches ..).mono (by decide) fun _ => False.elim).trans ((signalBy_device_touches ..).mono (by decide) fun _ => id)

/-- A signal of a sequencer with no write out is applied at once (R262). -/
theorem landed_belays (h : writesOut (552 + die) v = false) (k : Nat) : devBelay k (landed r die pos x f v) =
    if k = x.belay f.layer f.slot then BitVec.ofNat 64 (leadingLanded (setAt (pfOf r die v).fills pos { f with landed := true }) f)
    else devBelay k v := by
  have hw : ∀ g, writesOut (552 + die) (modPf r die g v) = false := fun _ => h
  rw [landed, signalBy, signalHeld, if_neg (ne_true_of_eq_false (hw _)), applySignal]
  split
  · next hk => rw [hk, devBelay_setDevBelay_same]
  · next hk => rw [devBelay_setDevBelay_other _ _ hk]; rfl

theorem landReport_touches (r die st : Nat) (f : Fill) (s : State) : Touches eventParts InErrors s (landReport r die st f s) := by
  unfold landReport
  split
  · exact Touches.refl _ _ s
  · exact raiseEvent_touches _ s

theorem landReport_below (r die st : Nat) (f : Fill) (s : State) : MemSame (2 ^ 64) s (landReport r die st f s) := by
  unfold landReport
  split
  · exact MemSame_of_mem_eq rfl
  · exact raiseEvent_below _ s

/-- What is left of a piece that landed. -/
theorem pieceLanded_spec {t : State} (h0 : v.pf = s.pf) (hb : v.belays = s.belays)
    (ht : t = releaseFills r die (afterPf die (landReport r die st f (landed r die pos x f v)))) :
    (st = 0 → t.mem = v.mem) ∧ MemSame (2 ^ 64) v t ∧ (writesOut (552 + die) v = false →
      devBelay (x.belay f.layer f.slot) t = BitVec.ofNat 64 (leadingLanded (setAt (pfOf r die s).fills pos { f with landed := true }) f) ∧
      ∀ k, k ≠ x.belay f.layer f.slot → devBelay k t = devBelay k s) := by
  have hland := (landed_touches r die pos x f v).only
  have hrep := (landReport_touches r die st f (landed r die pos x f v)).only
  have hafter := (afterPf_touches die (landReport r die st f (landed r die pos x f v))).only
  have hrel := (releaseFills_touches r die (afterPf die (landReport r die st f (landed r die pos x f v)))).only
  have hmem : t.mem = (landReport r die st f (landed r die pos x f v)).mem := by
    rw [ht]
    exact (hrel.2 .mem (by decide)).trans (hafter.2 .mem (by decide))
  have hbel : t.belays = (landed r die pos x f v).belays := by
    rw [ht]
    exact ((hrel.2 .belays (by decide)).trans (hafter.2 .belays (by decide))).trans (hrep.2 .belays (by decide))
  have hlm : (landed r die pos x f v).mem = v.mem := hland.2 .mem (by decide)
  refine ⟨fun hst => ?_, ?_, fun hw => ⟨?_, fun k hk => ?_⟩⟩
  · rw [hmem, landReport, if_pos hst, hlm]
  · exact MemSame_trans (MemSame_trans (MemSame_of_mem_eq hlm) (landReport_below r die st f _)) (MemSame_of_mem_eq hmem)
  · rw [devBelay_congr _ hbel, landed_belays hw, if_pos rfl, pfOf_congr r die h0]
  · rw [devBelay_congr _ hbel, landed_belays hw, if_neg hk, devBelay_congr _ hb]

end

section
variable {r die : Nat} {s s1 : State} (hs : Touches [.pf] (fun _ => False) s s1)
include hs

theorem ropeDies_of_touches (r : Nat) : ropeDies r s1 = ropeDies r s := by
  rw [ropeDies, ropeDies, ropeClusters_congr (hs.getF_eq id) (hs.getR_eq id)]

/-- What is left of a demand piece that starts (R363). -/
theorem pieceIssued_spec {f : Fill} (hf : nextDemand r die s1 = some f) :
    let t := modPf r die (fun q => { q with todo := q.todo.tail, fills := q.fills ++ [f] }) s1
    t.mem = s.mem ∧ t.belays = s.belays ∧ (pfOf r die t).fills = (pfOf r die s1).fills ++ [f] ∧
      (pfOf r die t).todo = (pfOf r die s1).todo.tail ∧
      (∀ k, k ≠ pfIdx r die → tget ({} : PfDie) t.pf k = tget {} s1.pf k) ∧
      ∀ x, schedOf r s = some x →
        f.buf ∈ freeBuffers x ((indexOf (ropeDies r s) die).getD 0) f.piece (pfOf r die s1).fills ∧
          ∀ b ∈ freeBuffers x ((indexOf (ropeDies r s) die).getD 0) f.piece (pfOf r die s1).fills, f.buf ≤ b := by
  intro t
  have ht := (hs.trans (modPf_touches r die (fun q => { q with todo := q.todo.tail, fills := q.fills ++ [f] }) s1)).only
  have hpf := pfOf_modPf_same r die (fun q => { q with todo := q.todo.tail, fills := q.fills ++ [f] }) s1
  refine ⟨ht.2 .mem (by decide), ht.2 .belays (by decide), congrArg PfDie.fills hpf, congrArg PfDie.todo hpf,
    fun k hk => tget_modPf_other _ _ hk, fun x hx => ?_⟩
  have hleast := nextDemand_spec hf ((schedOf_congr r (hs.only.2 .sched (by decide))).trans hx)
  rw [ropeDies_of_touches hs] at hleast
  exact freeBuffers_least hleast

/-- What is left of a speculative fill (R363). -/
theorem specFilled_spec {i : Nat} {x : Sched} {u : State} (hi : specLayer r die x s1 = some i) (hu : specFill r die x i s1 = .ok u) :
    (afterPf die u).mem = s.mem ∧ getF F.MEM_PF_CTRL_PENDING [r] s = 0 ∧
      ((pfOf r die (afterPf die u)).fills = (pfOf r die s1).fills ∨
        ∃ f, (pfOf r die (afterPf die u)).fills = (pfOf r die s1).fills ++ [f] ∧ f.layer = i ∧ f.tag = none ∧ f.landed = false ∧
          f.buf ∈ freeBuffers x ((indexOf (ropeDies r s) die).getD 0) f.piece (pfOf r die s1).fills) := by
  have hafter := (afterPf_touches die u).only
  obtain ⟨hmem, hfills⟩ := specFill_fills hu
  rw [ropeDies_of_touches hs] at hfills
  refine ⟨((hafter.2 .mem (by decide)).trans hmem).trans (hs.only.2 .mem (by decide)), ?_, ?_⟩
  · exact (hs.getF_eq id).symm.trans (specLayer_pending hi)
  · rw [pfOf_congr r die (hafter.2 .pf (by decide))]
    exact hfills

end

/-- Settles O50: a schedule is written as pending; a tag whose turn it is is served or skipped; pieces start in free buffers and land
with their entry and belay. -/
theorem prefetchFillsBuffers : Obligations.PrefetchFillsBuffers := by
  unfold Obligations.PrefetchFillsBuffers
  refine ⟨?write, ?demand, fun h c hh => histStep_eq hh, ?issue, ?fill, ?land⟩
  case write =>
    intro fn r a s hr hfn
    have ht := writeSched_touches r a.toNat (Quiet s)
    obtain ⟨h1, h2, h3⟩ := writeSched_fields r a (Quiet s)
    have hquiet : Only [.regs] s (Quiet s) := (Touches.withOut (Touches.refl [.regs] (fun _ => False) s)).only
    have hregs : RegsOnly [(.MEM_PF_CTRL, [r])] (Quiet s) (writeSched r a.toNat (Quiet s)) :=
      regsOnly_of_touches ht fun o ho => by simpa using ho
    exact ⟨_, exec_scheduleWrite hr hfn, hquiet.trans ht.only, hregs, h1, h2, h3⟩
  case demand =>
    intro die tag s hd
    rw [exec_prefetchDemand hd]
    refine ⟨fun h => congrArg _ (demandStep_none (s := Quiet s) h), ?_⟩
    intro e he r s1 p
    refine ⟨fun h => congrArg _ (demandStep_unscheduled (s := Quiet s) he h), ?_⟩
    intro x i hx hi turn serving
    have hs1 : Touches [.pf] (fun _ => False) s s1 :=
      Touches.trans (t := Quiet s) (Touches.refl _ _ s).withOut (releaseFills_touches r die (Quiet s))
    have hturn : notTurn die e x s1 = false ↔ turn := notTurn_iff die e x s1
    have hserving : (p.served.any (fun y => decide (y.2 = i))) = true ↔ serving := by simp [serving]
    refine ⟨fun h => ?_, fun h hs => ?_, fun h hs u hu => ?_⟩
    · exact congrArg _ (demandStep_notTurn (s := Quiet s) he hx hi (by rwa [← hturn, Bool.not_eq_false] at h))
    · exact ⟨_, congrArg _ (demandStep_skips (s := Quiet s) he hx hi (hturn.2 h) (hserving.2 hs)), skipped_spec hs1⟩
    · have hns : p.served.any (fun y => decide (y.2 = i)) = false := Bool.eq_false_iff.2 fun hb => hs (hserving.1 hb)
      exact ⟨_, congrArg _ (demandStep_serves (s := Quiet s) he hx hi (hturn.2 h) hns hu), rfl, served_spec hs1 hu⟩
  case issue =>
    intro die s hd s1
    rw [exec_prefetchPieceIssue hd]
    refine ⟨fun h => congrArg _ (pieceIssue_none (s := Quiet s) h), fun r f hr hf hlow => ?_⟩
    have hs1 : Touches [.pf] (fun _ => False) s s1 :=
      Touches.trans (t := Quiet s) (Touches.refl _ _ s).withOut (releaseAll_touches die (Quiet s))
    exact ⟨_, congrArg _ (pieceIssue_starts (s := Quiet s) hr hf hlow), pieceIssued_spec hs1 hf⟩
  case fill =>
    intro die s hd s1
    rw [exec_speculativeFill hd]
    refine ⟨fun h => congrArg _ (specStep_none (s := Quiet s) h), fun r x i hr hx hi hlow u hu => ?_⟩
    have hs1 : Touches [.pf] (fun _ => False) s s1 :=
      Touches.trans (t := Quiet s) (Touches.refl _ _ s).withOut (releaseAll_touches die (Quiet s))
    exact ⟨_, congrArg _ (specStep_fills (s := Quiet s) hr hx hi hlow hu), rfl, specFilled_spec hs1 hi hu⟩
  case land =>
    intro die idx s hd hr r pos
    rw [exec_pieceLand hd hr]
    refine ⟨fun h => congrArg _ (landStep_nothing (s := Quiet s) h), ?_⟩
    intro x f hx hf hl w b entry bs st v v2 hread hbuf hentry
    have hv := (tryWr_touches hbuf).only
    have hv2 := hv.trans (tryWr_touches hentry).only
    exact ⟨_, congrArg _ (landStep_lands (s := Quiet s) hx hf hl (landPiece_ok hread hbuf hentry)),
      pieceLanded_spec (hv2.2 .pf (by decide)) (hv2.2 .belays (by decide)) rfl⟩

end Sys2Proof.Machine
end

section
/-! What a port that stops touches (R134 to R136, R143, R144, R152, R180). -/

namespace Sys2Proof.Machine

open Sys2Proof

/-- The parts of the state that a port's flits and packets touch. -/
abbrev portParts : List Part := [.regs, .ports, .switch, .msgs]

/-- The registers of the link interfaces and of the switch. -/
abbrev InFabric (o : Nat) : Prop := 0x600000 ≤ o ∧ o < 0x800000

/-- What a port touches: its parts, and the registers of links and switch. -/
abbrev PortTouches (s t : State) : Prop := Touches portParts InFabric s t

theorem inFabric_of_inSwitch {o : Nat} (h : InSwitch o) : InFabric o := ⟨le_trans (by decide) h.1, lt_trans h.2 (by decide)⟩

/-- A register of one port. -/
theorem inFabric_port {r : Reg} {n : Nat} (hn : n < 16) (hd : (regDesc r).dims = [(65536, 16)])
    (hb : 0x600000 ≤ (regDesc r).base ∧ (regDesc r).base < 0x601000) : InFabric (regOff r [n]) := by
  rw [regOff, hd]
  simp only [dimOff]
  omega

/-- A register of one virtual channel of a port. -/
theorem inFabric_vc {r : Reg} {n v : Nat} (hn : n < 16) (hv : v < 6) (hd : (regDesc r).dims = [(65536, 16), (32, 6)])
    (hb : 0x600000 ≤ (regDesc r).base ∧ (regDesc r).base < 0x601000) : InFabric (regOff r [n, v]) := by
  rw [regOff, hd]
  simp only [dimOff]
  omega

theorem modPort_touches (n : Nat) (f : Port → Port) (s : State) : PortTouches s (modPort n f s) := (Touches.refl _ _ s).withPorts

theorem noteService_touches (s : State) : PortTouches s (noteService s) := by
  unfold noteService
  extract_lets left sw t
  have ht : PortTouches s t := by
    unfold t
    split
    · exact (Touches.refl _ _ s).withSwitch
    · exact Touches.refl _ _ s
  clear_value t
  exact ht.setF (f := F.SW_STATUS_SERVICE) (by decide)

theorem enterRecovery_touches (s : State) : PortTouches s (enterRecovery s) :=
  Touches.trans (Touches.refl _ _ s).withSwitch (noteService_touches _)

theorem sendNotice_touches (d c state dir : Nat) (s : State) : PortTouches s (sendNotice d c state dir s) := by
  unfold sendNotice
  extract_lets n own
  generalize (if dir = 0 then own else (own + n - 1) % n) = link
  split
  · exact Touches.refl _ _ s
  · exact ((takeCellSeq_touches _ _ s).mono (by decide) fun _ => False.elim).trans
      ((inject_touches ..).mono (by decide) fun _ => inFabric_of_inSwitch)

theorem startNotice_touches (d c state dir : Nat) (s : State) : PortTouches s (startNotice d c state dir s) :=
  Touches.withSwitch (sendNotice_touches ..)

theorem noteRing_touches (n : Nat) (s : State) : PortTouches s (noteRing n s) := by
  unfold noteRing
  extract_lets d dir blocked sw t c u
  have ht : PortTouches s t := (Touches.refl _ _ s).withSwitch
  have hu : PortTouches s u := by
    unfold u
    split
    · exact ht
    · exact (ht.setR (by decide)).trans (enterRecovery_touches _)
  clear_value t u
  split
  · exact Touches.refl _ _ s
  · split
    · exact hu.trans (startNotice_touches ..)
    · exact hu

theorem freeCredits_touches {inp : Nat} (vc : Nat) (p : Packet) (s : State) : PortTouches s (freeCredits inp vc p s) := by
  unfold freeCredits
  extract_lets n t
  have ht : PortTouches s t := modPort_touches ..
  clear_value t
  split
  next h => exact ht.setR (inFabric_vc h.1 h.2 rfl (by decide))
  · exact Touches.refl _ _ s

theorem acceptPacket_touches {n : Nat} (hn : n < 16) (p : Packet) (s : State) : PortTouches s (acceptPacket n p s) := by
  unfold acceptPacket
  extract_lets t good g ct u q r
  have ht : PortTouches s t := (mirrorCopies_touches ..).mono (by decide) fun _ => inFabric_of_inSwitch
  have hu : PortTouches s u := by
    unfold u
    split
    · exact ht
    · exact ht.addF (inFabric_port hn rfl (by decide))
  clear_value t u ct
  split
  · exact (ht.setR (inFabric_port hn rfl (by decide))).trans (freeCredits_touches ..)
  · split
    · exact ht.trans (freeCredits_touches ..)
    · split
      · exact (ht.setR (inFabric_port hn rfl (by decide))).trans (freeCredits_touches ..)
      · split
        · exact (ht.addF (inFabric_port hn rfl (by decide))).trans (freeCredits_touches ..)
        · exact hu.withSwitch

theorem drainRx_touches {n : Nat} (hn : n < 16) (k : Nat) (s : State) : PortTouches s (drainRx k n s) := by
  induction k generalizing s with
  | zero => exact Touches.refl _ _ s
  | succ k ih =>
    unfold drainRx
    split
    · exact ((modPort_touches ..).trans (acceptPacket_touches hn _ _)).trans (ih _)
    · exact Touches.refl _ _ s

theorem dropQueued_touches {n : Nat} (hn : n < 16) (s : State) : PortTouches s (dropQueued n s) := by
  unfold dropQueued
  extract_lets k t u sw v
  have ht : PortTouches s t := (Touches.refl _ _ s).setR (inFabric_port hn rfl (by decide))
  have hu : PortTouches s u := ht.forN fun _ _ w => (Touches.refl _ _ w).withSwitch
  have hv : PortTouches s v := hu.withSwitch
  clear_value v
  exact hv.trans ((noteUnits_touches n v).mono (by decide) fun _ => inFabric_of_inSwitch)

theorem noteEpoch_touches (up : Bool) (old s : State) : PortTouches s (noteEpoch up old s) := by
  unfold noteEpoch
  split
  · exact (Touches.refl _ _ s).addF (by decide)
  · exact Touches.refl _ _ s

theorem leavePort_touches {n : Nat} (hn : n < 16) (state : Nat) (s : State) : PortTouches s (leavePort n state s) := by
  unfold leavePort
  extract_lets was a b c d e t
  have ha : PortTouches s a := by
    unfold a
    split
    · exact drainRx_touches hn _ s
    · exact Touches.refl _ _ s
  have hb : PortTouches s b := ha.trans (dropQueued_touches hn a)
  have hc : PortTouches s c := hb.trans (modPort_touches ..)
  have hd : PortTouches s d := hc.forN fun _ hv w => (Touches.refl _ _ w).setF (inFabric_vc hn hv rfl (by decide))
  have he : PortTouches s e := (((hd.setF (inFabric_port hn rfl (by decide))).setF (inFabric_port hn rfl (by decide))).setF
    (inFabric_port hn rfl (by decide))).setF (inFabric_port hn rfl (by decide))
  have ht : PortTouches s t := (he.trans (noteRing_touches n e)).trans (noteEpoch_touches ..)
  clear_value was t
  split
  · exact ht.trans (enterRecovery_touches t)
  · exact ht

theorem sendLinkMsg_touches (n : Nat) (msg : List Byte) (s : State) : PortTouches s (sendLinkMsg n msg s) :=
  (Touches.refl _ _ s).forN fun _ _ u => (Touches.refl _ _ u).withOut

theorem sendDownNotice_touches (n cause : Nat) (s : State) : PortTouches s (sendDownNotice n cause s) := by
  unfold sendDownNotice
  split
  · exact sendLinkMsg_touches ..
  · exact Touches.refl _ _ s

theorem stopPorts_touches (cause : Nat) (s : State) : PortTouches s (stopPorts cause s) := by
  refine (Touches.refl _ _ s).forN fun n hn u => ?_
  split
  · exact Touches.refl _ _ u
  · exact (sendDownNotice_touches n cause u).trans (leavePort_touches hn _ _)

end Sys2Proof.Machine
end

section
/-! Records in flight that are cancelled touch the ledgers alone, and need nothing but the exchanges and the ledgers (R93, R94). -/

namespace Sys2Proof.Machine

open Sys2Proof

/-! Tables. -/

/-- What is read where an entry was put, under any reading of the others. -/
theorem tget_tset_any {α : Type} [DecidableEq α] (d e : α) (t : Tab α) (i : Nat) (v : α) :
    tget e (tset d t i v) i = if v = d then e else v := by
  unfold tset
  split
  · exact tget_terase_same e t i
  · exact tget_tput_same e t i v

/-- Every value changed by a function that keeps what an unlisted index holds. -/
theorem tget_tmapAll {α : Type} [DecidableEq α] (d : α) {f : Nat → α → α} (hf : ∀ i, f i d = d) (t : Tab α) (i : Nat) :
    tget d (tmapAll d f t) i = f i (tget d t i) := by
  induction t with
  | nil => exact (hf i).symm
  | cons e t ih =>
    obtain ⟨j, v⟩ := e
    unfold tmapAll
    by_cases hj : j = i
    · subst hj
      split
      next h => simp [tget, h]
      · simp [tget]
    · split
      · rw [tget_terase_other _ _ (Ne.symm hj), ih]
        simp [tget, hj]
      · simp [tget, hj, ih]

/-! The ledgers. -/

/-- The exchange engines agree, and the registers at offsets in `K`. -/
structure LedgersAgree (K : Nat → Prop) (s t : State) : Prop where
  xes : t.xes = s.xes
  regs : ∀ o, K o → ∀ d, tget d t.regs o = tget d s.regs o

section
variable {K : Nat → Prop} {s t : State}

theorem LedgersAgree.getR_eq (h : LedgersAgree K s t) {r : Reg} {ix : List Nat} (hk : K (regOff r ix)) : getR r ix t = getR r ix s :=
  h.regs _ hk _

theorem LedgersAgree.setR (h : LedgersAgree K s t) (r : Reg) (ix : List Nat) {v w : Word} (hv : K (regOff r ix) → w = v) :
    LedgersAgree K (setR r ix v s) (setR r ix w t) := by
  refine ⟨h.xes, fun o ho d => ?_⟩
  by_cases he : o = regOff r ix
  · subst he
    rw [hv ho]
    exact (tget_tset_any _ d _ _ v).trans (tget_tset_any _ d _ _ v).symm
  · exact (tget_tset_other _ _ _ _ he).trans ((h.regs o ho d).trans (tget_tset_other _ _ _ _ he).symm)

theorem LedgersAgree.addF (h : LedgersAgree K s t) (f : Fld) (ix : List Nat) (n : Nat) :
    LedgersAgree K (addF f ix n s) (addF f ix n t) :=
  h.setR _ _ fun hk => by rw [getF, getF, h.getR_eq hk]

theorem LedgersAgree.subF (h : LedgersAgree K s t) (f : Fld) (ix : List Nat) (n : Nat) :
    LedgersAgree K (subF f ix n s) (subF f ix n t) :=
  h.setR _ _ fun hk => by rw [getF, getF, h.getR_eq hk]

theorem LedgersAgree.modExch (h : LedgersAgree K s t) (die : Nat) (g : BitVec 32) (f : Exch → Exch) :
    LedgersAgree K (modExch die g f s) (modExch die g f t) := by
  refine ⟨?_, h.regs⟩
  unfold Machine.modExch modXe
  rw [h.xes]

theorem LedgersAgree.resolve (h : LedgersAgree K s t) (die : Nat) (g : BitVec 32) (v : Nat) (ps : List Nat) :
    LedgersAgree K (resolve die g v ps s) (resolve die g v ps t) := by
  have he : activeExch die g t = activeExch die g s := by rw [activeExch, activeExch, h.xes]
  unfold Machine.resolve
  rw [he]
  split
  · exact h
  · exact ((h.modExch ..).subF ..).addF ..

end

/-- What one pass keeps of two states, a loop over both keeps. -/
theorem forList_rel₂ {α σ : Type} {R : σ → σ → Prop} {l : List α} {f : α → σ → σ} (h : ∀ a ∈ l, ∀ s t, R s t → R (f a s) (f a t))
    {s t : σ} (hs : R s t) : R (forList l s f) (forList l t f) := by
  induction l generalizing s t with
  | nil => exact hs
  | cons a l ih => exact ih (fun b hb => h b (List.mem_cons_of_mem _ hb)) (h a List.mem_cons_self s t hs)

theorem LedgersAgree.cancelRecords {K : Nat → Prop} {s t : State} (h : LedgersAgree K s t) :
    LedgersAgree K (cancelRecords s) (cancelRecords t) := by
  unfold Machine.cancelRecords forN
  refine forList_rel₂ (R := LedgersAgree K) (fun die _ u v huv => ?_) h
  have he : xeOf die v = xeOf die u := by rw [xeOf, xeOf, huv.xes]
  rw [he]
  exact forList_rel₂ (R := LedgersAgree K) (fun e _ x y hxy => hxy.resolve die e.tag 3 (List.range e.nrec)) huv

theorem resolve_touches (die : Nat) (g : BitVec 32) (v : Nat) (ps : List Nat) (s : State) :
    Touches [.regs, .xes] (fun o => 0x400200 ≤ o) s (resolve die g v ps s) := by
  unfold resolve
  split
  · exact Touches.refl _ _ s
  next e _ =>
    extract_lets new o n f
    have hf : 0x400200 ≤ regOff f.reg [die, e.rope] := regOff_ge (by
      unfold f
      split
      · decide
      · decide
      · decide)
    clear_value f
    exact Touches.addF (Touches.subF (Touches.refl _ _ s).withXes (regOff_ge (by decide))) hf

theorem cancelRecords_touches (s : State) : Touches [.regs, .xes] (fun o => 0x400200 ≤ o) s (cancelRecords s) :=
  (Touches.refl _ _ s).forN fun _ _ u => (Touches.refl _ _ u).forList fun _ _ _ => resolve_touches ..

end Sys2Proof.Machine
end

section
/-! What the loss of power keeps (R431, R434, R474). -/

namespace Sys2Proof.Machine

open Sys2Proof

/-! Memory. -/

theorem keptMem_below (m : Mem) {p : Nat} (h : p < 2 ^ 46) : (keptMem m).byte p = 0 ∧ (keptMem m).poisoned p = false := by
  constructor
  · exact tget_filter_out 0 (fun p => decide (2 ^ 46 ≤ p)) _ (decide_eq_false (not_le.2 h))
  · simp only [keptMem, Mem.poisoned, List.contains_eq_mem, List.mem_filter, Bool.and_eq_true, decide_eq_true_eq, decide_eq_false_iff_not]
    omega

theorem keptMem_above (m : Mem) {p : Nat} (h : 2 ^ 46 ≤ p) (hp : p < 2 ^ 66) :
    (keptMem m).byte p = m.byte p ∧ (keptMem m).poisoned p = m.poisoned p := by
  constructor
  · exact tget_filter_of 0 (fun p => decide (2 ^ 46 ≤ p)) _ (decide_eq_true h)
  · have hlo : 2 ^ 42 ≤ p / 16 := by omega
    have hhi : p / 16 < hubWord 0 := by unfold hubWord; omega
    simp only [keptMem, Mem.poisoned, List.contains_eq_mem, List.mem_filter, hlo, hhi, decide_true, Bool.and_self, and_true]

/-! Nothing is left. -/

/-- The parts of the state that are not lost with power. -/
abbrev basecampParts : List Part := [.regs, .latch, .fns, .msgs, .ports, .readSeq, .bc, .pins, .pcie, .events, .scrubPos, .fresh]

theorem Unpowered_of_only {s t : State} (h : Only basecampParts s t) (hs : Unpowered s) : Unpowered t := by
  obtain ⟨h1, h2, h3, h4, h5, h6, h7, h8, h9, h10, h11, h12, h13, h14, h15, h16, h17, h18, h19, h20, h21⟩ := hs
  have hm : t.mem = s.mem := h.2 .mem (by decide)
  have he : t.mem.errs = s.mem.errs := by rw [hm]
  exact ⟨(h.2 .cores (by decide)).trans h1, (h.2 .ropes (by decide)).trans h2, (h.2 .rtes (by decide)).trans h3,
    (h.2 .xes (by decide)).trans h4, (h.2 .switch (by decide)).trans h5, (h.2 .chans (by decide)).trans h6,
    (h.2 .queues (by decide)).trans h7, (h.2 .instrCmds (by decide)).trans h8, (h.2 .tables (by decide)).trans h9,
    (h.2 .pools (by decide)).trans h10, (h.2 .belays (by decide)).trans h11, (h.2 .pf (by decide)).trans h12,
    (h.2 .sched (by decide)).trans h13, (h.2 .reads (by decide)).trans h14, (h.2 .heldSigs (by decide)).trans h15,
    (h.2 .seals (by decide)).trans h16, (h.2 .sealing (by decide)).trans h17, (h.2 .lockstep (by decide)).trans h18,
    (h.2 .writes (by decide)).trans h19, he.trans h20, fun p hp => by rw [hm]; exact h21 p hp⟩

/-! The loss of every domain but the basecamp. -/

/-- The state after the loss, before the clusters' states say so. -/
def lostDomains (hold : Bool) (s : State) : State :=
  { State.reset with
    pending := s.pending, regs := tfilter keptReg s.regs,
    latch := tfilter (fun k => keptReg (k % 2 ^ 26)) s.latch, mem := keptMem s.mem, msgs := { hold := hold },
    fns := tmapAll {} (fun _ (k : Fn) => { quoteStatus := k.quoteStatus }) s.fns,
    bc := { s.bc with trained := [], full := [], ddrReady := false, handshake := [] }, pins := s.pins, pcie := s.pcie, events := s.events,
    out := s.out, fresh := s.fresh }

section
variable (hold : Bool) (s : State)

theorem lostDomains_unpowered : Unpowered (lostDomains hold s) :=
  ⟨rfl, rfl, rfl, rfl, rfl, rfl, rfl, rfl, rfl, rfl, rfl, rfl, rfl, rfl, rfl, rfl, rfl, rfl, rfl, rfl, fun _ hp => keptMem_below s.mem hp⟩

theorem getR_lostDomains (r : Reg) (ix : List Nat) :
    getR r ix (lostDomains hold s) = if keptReg (regOff r ix) then getR r ix s else regReset r ix := by
  split
  next h => exact tget_filter_of _ _ _ h
  next h => exact tget_filter_out _ _ _ (by simpa using h)

theorem lostDomains_fns (i : Nat) :
    tget ({} : Fn) (lostDomains hold s).fns i = { quoteStatus := (tget ({} : Fn) s.fns i).quoteStatus } :=
  tget_tmapAll ({} : Fn) (fun _ => rfl) s.fns i

/-- The registers of the clusters. -/
abbrev InClusterRegs (o : Nat) : Prop := o ∈ clusterRegs.map (fun e => regOff e.1 e.2)

theorem inClusterRegs {q : Nat} (h : q < 64) : InClusterRegs (regOff .BC_CLUSTER [q]) :=
  List.mem_map.2 ⟨_, List.mem_map.2 ⟨q, List.mem_range.2 h, rfl⟩, rfl⟩

theorem gateAll_touches (s : State) :
    Touches [.regs] InClusterRegs s (forN 64 s (fun q t => setF F.BC_CLUSTER_STATE [q] Cl.gated t)) :=
  (Touches.refl _ _ s).forN fun _ hq u => (Touches.refl _ _ u).setF (inClusterRegs hq)

theorem clusterState_gateAll (n : Nat) {q : Nat} (hq : q < n) (hn : n ≤ 64) :
    clusterState q (forN n s (fun q t => setF F.BC_CLUSTER_STATE [q] Cl.gated t)) = Cl.gated := by
  induction n with
  | zero => omega
  | succ n ih =>
    rw [forN_succ]
    by_cases h : q = n
    · subst h
      exact getF_setF_same _ _ _ _ (by decide) (by decide)
    · refine (getF_setF_other _ _ ?_).trans (ih (by omega) (by omega))
      simp [regOff, regDesc, dimOff]
      omega

theorem resetDomains_touches : Touches [.regs] InClusterRegs (lostDomains hold (cancelRecords s)) (resetDomains hold s) :=
  gateAll_touches _

end

/-! STANDBY. -/

section
variable (cause : Nat) (s : State)

/-- The device's state register, and those of the clusters. -/
abbrev IsPowerReg (o : Nat) : Prop := o = regOff .BC_STATE [] ∨ InClusterRegs o

theorem flashCheck_touches (s : State) : Touches [.pins] (fun _ => False) s (flashCheck s) := by
  unfold flashCheck
  split
  · exact (Touches.refl _ _ s).withPins
  · exact Touches.refl _ _ s

theorem flashCheck_standby {t : State} (h : deviceState t = Dv.standby) :
    (flashCheck t).pins = { t.pins with flashOut := t.pins.flashOut || t.pins.flashExt } := by
  unfold flashCheck
  rw [decide_eq_true h, Bool.and_true]
  split
  next hx => rw [hx, Bool.or_true]
  next hx => rw [Bool.eq_false_iff.2 hx, Bool.or_false]

theorem setStandby_touches (t : State) : Touches [.regs, .pins] IsPowerReg t (flashCheck (setDeviceState Dv.standby t)) :=
  Touches.trans ((Touches.refl _ _ t).setF (Or.inl rfl)) ((flashCheck_touches _).mono (by decide) fun _ => False.elim)

/-- From the loss to STANDBY. -/
theorem enterStandby_touches :
    Touches [.regs, .pins] IsPowerReg (lostDomains false (cancelRecords (stopPorts cause s))) (enterStandby cause s) :=
  ((resetDomains_touches false (stopPorts cause s)).mono (by decide) fun _ => Or.inr).trans (setStandby_touches _)

/-- What is kept up to the loss. -/
theorem stopped_touches : Touches (portParts ++ [.xes]) (fun o => 0x400200 ≤ o) s (cancelRecords (stopPorts cause s)) :=
  ((stopPorts_touches cause s).mono (by decide) fun o h => le_trans (by decide) h.1).trans
    ((cancelRecords_touches _).mono (by decide) fun _ => id)

theorem enterStandby_unpowered : Unpowered (enterStandby cause s) :=
  Unpowered_of_only ((enterStandby_touches cause s).only.mono (by decide)) (lostDomains_unpowered ..)

theorem deviceState_setStandby (t : State) : deviceState (setDeviceState Dv.standby t) = Dv.standby :=
  getF_setF_same F.BC_STATE_DEVICE [] Dv.standby t (by decide) (by decide)

theorem enterStandby_deviceState : deviceState (enterStandby cause s) = Dv.standby :=
  ((flashCheck_touches _).getF_eq not_false).trans (deviceState_setStandby _)

theorem enterStandby_mem {p : Nat} (h : 2 ^ 46 ≤ p) (hp : p < 2 ^ 66) :
    (enterStandby cause s).mem.byte p = s.mem.byte p ∧ (enterStandby cause s).mem.poisoned p = s.mem.poisoned p := by
  have h1 : (enterStandby cause s).mem = keptMem (cancelRecords (stopPorts cause s)).mem :=
    (enterStandby_touches cause s).only.2 .mem (by decide)
  have h2 : (cancelRecords (stopPorts cause s)).mem = s.mem := (stopped_touches cause s).only.2 .mem (by decide)
  rw [h1, h2]
  exact keptMem_above _ h hp

theorem enterStandby_bc : (enterStandby cause s).bc = { s.bc with trained := [], full := [], ddrReady := false, handshake := [] } := by
  have h1 : (enterStandby cause s).bc = (lostDomains false (cancelRecords (stopPorts cause s))).bc :=
    (enterStandby_touches cause s).only.2 .bc (by decide)
  have h2 : (cancelRecords (stopPorts cause s)).bc = s.bc := (stopped_touches cause s).only.2 .bc (by decide)
  rw [h1, lostDomains, h2]

theorem enterStandby_pcie : (enterStandby cause s).pcie = s.pcie := by
  have h1 : (enterStandby cause s).pcie = (lostDomains false (cancelRecords (stopPorts cause s))).pcie :=
    (enterStandby_touches cause s).only.2 .pcie (by decide)
  have h2 : (cancelRecords (stopPorts cause s)).pcie = s.pcie := (stopped_touches cause s).only.2 .pcie (by decide)
  rw [h1, lostDomains, h2]

theorem enterStandby_events : (enterStandby cause s).events = s.events := by
  have h1 : (enterStandby cause s).events = (lostDomains false (cancelRecords (stopPorts cause s))).events :=
    (enterStandby_touches cause s).only.2 .events (by decide)
  have h2 : (cancelRecords (stopPorts cause s)).events = s.events := (stopped_touches cause s).only.2 .events (by decide)
  rw [h1, lostDomains, h2]

theorem enterStandby_fns (i : Nat) :
    tget ({} : Fn) (enterStandby cause s).fns i = { quoteStatus := (tget ({} : Fn) s.fns i).quoteStatus } := by
  have h1 : (enterStandby cause s).fns = (lostDomains false (cancelRecords (stopPorts cause s))).fns :=
    (enterStandby_touches cause s).only.2 .fns (by decide)
  have h2 : (cancelRecords (stopPorts cause s)).fns = s.fns := (stopped_touches cause s).only.2 .fns (by decide)
  rw [h1, lostDomains_fns, h2]

theorem enterStandby_pins : (enterStandby cause s).pins = { s.pins with flashOut := s.pins.flashOut || s.pins.flashExt } := by
  have h0 : (resetDomains false (stopPorts cause s)).pins = (lostDomains false (cancelRecords (stopPorts cause s))).pins :=
    (resetDomains_touches false _).only.2 .pins (by decide)
  have h1 : (setDeviceState Dv.standby (resetDomains false (stopPorts cause s))).pins = (cancelRecords (stopPorts cause s)).pins := by
    rw [setDeviceState, setF_pins, h0, lostDomains]
  have h2 : (cancelRecords (stopPorts cause s)).pins = s.pins := (stopped_touches cause s).only.2 .pins (by decide)
  rw [enterStandby, flashCheck_standby (deviceState_setStandby _), h1, h2]

theorem enterStandby_gated {q : Nat} (hq : q < 64) : clusterState q (enterStandby cause s) = Cl.gated := by
  have h : clusterState q (resetDomains false (stopPorts cause s)) = Cl.gated := clusterState_gateAll _ 64 hq le_rfl
  refine ((flashCheck_touches _).getF_eq not_false).trans ((getF_setF_other _ _ ?_).trans h)
  simp [regOff, regDesc, dimOff]
  omega

/-- A register outside the power registers. -/
theorem getR_enterStandby {r : Reg} {ix : List Nat} (h : ¬ IsPowerReg (regOff r ix)) : getR r ix (enterStandby cause s) =
    if keptReg (regOff r ix) then getR r ix (cancelRecords (stopPorts cause s)) else regReset r ix :=
  ((enterStandby_touches cause s).getR_eq h).trans (getR_lostDomains ..)

/-- No port touches a register that is kept. -/
theorem not_inFabric_of_keptReg {o : Nat} (h : keptReg o = true) : ¬ InFabric o := by
  simp only [keptReg, Bool.or_eq_true, decide_eq_true_eq, Bool.and_eq_true] at h
  omega

/-- The registers that are kept, as the records in flight leave them. -/
theorem getR_enterStandby_of_kept {u : State} {r : Reg} {ix : List Nat} (h : ¬ IsPowerReg (regOff r ix)) (hk : keptReg (regOff r ix) = true)
    (hu : LedgersAgree (fun o => o = regOff r ix ∨ 0x400000 ≤ o ∧ keptReg o = true) u s) :
    getR r ix (enterStandby cause s) = getR r ix (cancelRecords u) := by
  rw [getR_enterStandby cause s h, if_pos hk]
  refine LedgersAgree.getR_eq (K := fun o => o = regOff r ix ∨ 0x400000 ≤ o ∧ keptReg o = true)
    (LedgersAgree.cancelRecords ⟨?_, fun o ho d => ?_⟩) (Or.inl rfl)
  · exact ((stopPorts_touches cause s).only.2 .xes (by decide)).trans hu.xes
  · have hko : keptReg o = true := by
      obtain rfl | ho := ho
      · exact hk
      · exact ho.2
    exact ((stopPorts_touches cause s).regs o (not_inFabric_of_keptReg hko) d).trans (hu.regs o ho d)

end

end Sys2Proof.Machine
end

section
/-! Device states: ACTIVE, LENDER, IDLE and STANDBY (R22, R433, R434). -/

namespace Sys2Proof.Machine

open Sys2Proof

/-! Small frames. -/

theorem runIf_holds {c : Bool} (h : c = true) (f : State → State) (s : State) : runIf c f s = .next (f (Quiet s)) := by
  rw [runIf, h, if_pos rfl, Quiet_of_out]

theorem quiet_touches (ps : List Part) (Q : Nat → Prop) (s : State) : Touches ps Q s (Quiet s) := (Touches.refl ps Q s).withOut

/-- A write of a field touches its register. -/
theorem setF_touches (f : Fld) (ix : List Nat) (v : Nat) (s : State) : Touches [.regs] (fun o => o = regOff f.reg ix) s (setF f ix v s) :=
  (Touches.refl _ _ s).setF rfl

theorem quiet_setF_touches (f : Fld) (ix : List Nat) (v : Nat) (s : State) :
    Touches [.regs] (fun o => o = regOff f.reg ix) s (setF f ix v (Quiet s)) := (quiet_touches _ _ s).trans (setF_touches f ix v _)

theorem regsOnly_of_touches_one {ps : List Part} {r : Reg} {ix : List Nat} {s t : State} (h : Touches ps (fun o => o = regOff r ix) s t) :
    RegsOnly [(r, ix)] s t :=
  regsOnly_of_touches h fun o ho => by simpa using ho

/-! DEVICE_WAKE_ACTIVE and DEVICE_IDLE_TIMEOUT. -/

theorem setDeviceState_becomes {v : Nat} (hv : v < 8) (s : State) :
    Only [.regs] s (setDeviceState v (Quiet s)) ∧ RegsOnly [(.BC_STATE, [])] s (setDeviceState v (Quiet s)) ∧
    deviceState (setDeviceState v (Quiet s)) = v ∧
    getF F.BC_STATE_BOOT [] (setDeviceState v (Quiet s)) = getF F.BC_STATE_BOOT [] s := by
  have ht : Touches [.regs] (fun o => o = regOff .BC_STATE []) s (setDeviceState v (Quiet s)) :=
    quiet_setF_touches F.BC_STATE_DEVICE [] v s
  refine ⟨ht.only, regsOnly_of_touches_one ht, ?_, ?_⟩
  · exact (getF_setF_same _ _ _ _ (by decide) (by decide)).trans (Nat.mod_eq_of_lt hv)
  · exact getF_setF_beside (f := F.BC_STATE_DEVICE) (g := F.BC_STATE_BOOT) _ _ _ rfl (by decide) (by decide) (by decide)

/-- The device has been idle: no cluster is awake and no engine works. -/
abbrev Rests (s : State) : Prop :=
  (deviceState s = Dv.active ∨ deviceState s = Dv.lender) ∧ clustersAwake s = false ∧ enginesBusy s = false

theorem idleTimeout_of_rests {s : State} (h : Rests s) :
    idleTimeout s = setDeviceState (if windowsOpen s then Dv.lender else Dv.idle) s := by
  obtain ⟨h1, h2, h3⟩ := h
  unfold idleTimeout
  rw [h2, h3]
  exact if_pos ⟨h1, rfl, rfl⟩

theorem idleTimeout_of_not_rests {s : State} (h : ¬ Rests s) : idleTimeout s = s := by
  unfold idleTimeout
  refine if_neg fun hc => h ?_
  obtain ⟨h1, h2, h3⟩ := hc
  exact ⟨h1, by simpa using h2, by simpa using h3⟩

/-! STANDBY_ENTER. -/

section
variable {fn : Requester} {s : State}

/-- STANDBY was written 1. -/
abbrev standbyAsked (s : State) : State := setF F.BC_CTRL_STANDBY [] 1 (Quiet s)

theorem exec_standbyEnter (hfn : fnAllowed fn (regOff .BC_CTRL []) s = true) :
    exec (.standbyEnter fn) s = .next (standbyEnter (Quiet s)) := runIf_holds hfn ..

theorem standbyEnter_low (h : deviceState s ≤ Dv.standby) : standbyEnter (Quiet s) = standbyAsked s := if_pos h

theorem standbyEnter_goes (h : Dv.standby < deviceState s) (he : existing s = []) (hw : windowsOpen s = false) :
    standbyEnter (Quiet s) = enterStandby 0 (standbyAsked s) := by
  have he' : existing (Quiet s) = [] := he
  have hw' : windowsOpen (Quiet s) = false := hw
  unfold standbyEnter
  extract_lets t
  rw [if_neg (show ¬ deviceState (Quiet s) ≤ Dv.standby from not_le.2 h), he', hw']
  exact if_pos ⟨rfl, rfl⟩

theorem standbyEnter_refuses (h : Dv.standby < deviceState s) (hr : existing s ≠ [] ∨ windowsOpen s = true) :
    standbyEnter (Quiet s) = setF F.BC_STATE_REFUSED [] St.notPermitted (standbyAsked s) := by
  unfold standbyEnter
  extract_lets t
  rw [if_neg (show ¬ deviceState (Quiet s) ≤ Dv.standby from not_le.2 h)]
  refine if_neg fun hc => ?_
  obtain ⟨he, hw⟩ := hc
  have he' : existing s = [] := List.isEmpty_iff.1 he
  have hw' : windowsOpen (Quiet s) = false := by simpa using hw
  have hw'' : windowsOpen s = false := hw'
  obtain hr | hr := hr
  · exact hr he'
  · rw [hw''] at hr
    exact absurd hr (by decide)

theorem standbyAsked_touches (s : State) : Touches [.regs] (fun o => o = regOff .BC_CTRL []) s (standbyAsked s) :=
  quiet_setF_touches F.BC_CTRL_STANDBY [] 1 s

theorem standbyAsked_standby (s : State) : getF F.BC_CTRL_STANDBY [] (standbyAsked s) = 1 :=
  getF_setF_same _ _ _ _ (by decide) (by decide)

theorem not_isPowerReg_control : ¬ IsPowerReg (regOff .BC_CTRL []) := by decide

/-- The power registers that a refused or granted request writes. -/
abbrev standbyRegs : List (Reg × List Nat) := [(.BC_CTRL, []), (.BC_STATE, [])] ++ clusterRegs

theorem standbyRegs_spec {o : Nat} (h : o ∉ standbyRegs.map (fun e => regOff e.1 e.2)) : o ≠ regOff .BC_CTRL [] ∧ ¬ IsPowerReg o := by
  rw [standbyRegs, List.map_append, List.mem_append, List.map_cons, List.map_cons, List.map_nil, List.mem_cons, List.mem_cons] at h
  simp only [List.not_mem_nil, or_false, not_or] at h
  exact ⟨h.1.1, not_or.2 ⟨h.1.2, h.2⟩⟩

/-- What is kept agrees before and after the write of STANDBY. -/
theorem standbyAsked_agrees {K : Nat → Prop} (hk : ∀ o, K o → o ≠ regOff .BC_CTRL []) (s : State) : LedgersAgree K s (standbyAsked s) :=
  ⟨(standbyAsked_touches s).only.2 .xes (by decide), fun o ho d => (standbyAsked_touches s).regs o (hk o ho) d⟩

theorem entered_regsLost (s : State) : RegsLost standbyRegs s (enterStandby 0 (standbyAsked s)) := by
  intro r ix h
  obtain ⟨hc, hp⟩ := standbyRegs_spec h
  by_cases hk : keptReg (regOff r ix) = true
  · rw [if_pos hk]
    refine getR_enterStandby_of_kept 0 _ hp hk (standbyAsked_agrees (fun o ho => ?_) s)
    obtain rfl | ho := ho
    · exact hc
    · intro e
      rw [e] at ho
      exact absurd ho.1 (by decide)
  · rw [if_neg hk]
    exact (getR_enterStandby 0 _ hp).trans (if_neg hk)

theorem entered_standby (s : State) : getF F.BC_CTRL_STANDBY [] (enterStandby 0 (standbyAsked s)) = 1 := by
  have hk : keptReg (regOff .BC_CTRL []) = true := by simp [keptReg, regOff, regDesc, dimOff]
  have h : getR .BC_CTRL [] (enterStandby 0 (standbyAsked s)) = getR .BC_CTRL [] (standbyAsked s) := by
    rw [getR_enterStandby 0 _ not_isPowerReg_control, if_pos hk]
    exact (stopped_touches 0 _).getR_eq (by simp [regOff, regDesc, dimOff])
  rw [getF, h]
  exact standbyAsked_standby s

theorem entered_kept (s : State) : (∀ p, 2 ^ 46 ≤ p → p < 2 ^ 66 →
      (enterStandby 0 (standbyAsked s)).mem.byte p = s.mem.byte p ∧ (enterStandby 0 (standbyAsked s)).mem.poisoned p = s.mem.poisoned p) ∧
    (enterStandby 0 (standbyAsked s)).bc = { s.bc with trained := [], full := [], ddrReady := false, handshake := [] } ∧
    (enterStandby 0 (standbyAsked s)).pcie = s.pcie ∧ (enterStandby 0 (standbyAsked s)).events = s.events ∧
    (enterStandby 0 (standbyAsked s)).pins = { s.pins with flashOut := s.pins.flashOut || s.pins.flashExt } ∧
    ∀ i, tget ({} : Fn) (enterStandby 0 (standbyAsked s)).fns i = { quoteStatus := (tget ({} : Fn) s.fns i).quoteStatus } := by
  have ht := standbyAsked_touches s
  have hm : (standbyAsked s).mem = s.mem := ht.only.2 .mem (by decide)
  have hb : (standbyAsked s).bc = s.bc := ht.only.2 .bc (by decide)
  have hp : (standbyAsked s).pcie = s.pcie := ht.only.2 .pcie (by decide)
  have he : (standbyAsked s).events = s.events := ht.only.2 .events (by decide)
  have hi : (standbyAsked s).pins = s.pins := ht.only.2 .pins (by decide)
  have hf : (standbyAsked s).fns = s.fns := ht.only.2 .fns (by decide)
  generalize standbyAsked s = u at hm hb hp he hi hf
  refine ⟨fun p h1 h2 => ?_, ?_, ?_, ?_, ?_, fun i => ?_⟩
  · rw [← hm]
    exact enterStandby_mem 0 u h1 h2
  · rw [enterStandby_bc, hb]
  · rw [enterStandby_pcie, hp]
  · rw [enterStandby_events, he]
  · rw [enterStandby_pins, hi]
  · rw [enterStandby_fns, hf]

/-- A request that is refused. -/
theorem refused_spec (s : State) : let t := setF F.BC_STATE_REFUSED [] St.notPermitted (standbyAsked s)
    Only [.regs] s t ∧ RegsOnly [(.BC_STATE, []), (.BC_CTRL, [])] s t ∧ getF F.BC_STATE_REFUSED [] t = St.notPermitted ∧
      getF F.BC_CTRL_STANDBY [] t = 1 ∧ deviceState t = deviceState s := by
  intro t
  have ht : Touches [.regs] (fun o => o = regOff .BC_STATE [] ∨ o = regOff .BC_CTRL []) s t :=
    ((standbyAsked_touches s).mono (by decide) fun _ => Or.inr).setF (Or.inl rfl)
  refine ⟨ht.only, regsOnly_of_touches ht fun o ho => by simpa using ho, ?_, ?_, ?_⟩
  · exact getF_setF_same _ _ _ _ (by decide) (by decide)
  · exact (getF_setF_other _ _ (by decide)).trans (standbyAsked_standby s)
  · exact (getF_setF_beside (f := F.BC_STATE_REFUSED) (g := F.BC_STATE_DEVICE) _ _ _ rfl (by decide) (by decide) (by decide)).trans
      ((standbyAsked_touches s).getF_eq (by decide))

end

end Sys2Proof.Machine
end

section
/-! The ports and DDR5 train again: STANDBY_EXIT and HOLD_RELEASE (R104, R350, R352, R433, R446, R454). -/

namespace Sys2Proof.Machine

open Sys2Proof

/-! The ports. -/

/-- The registers of link interface `n`, and of the first `k`. -/
abbrev InPort (n o : Nat) : Prop := 0x600000 + 65536 * n ≤ o ∧ o < 0x600000 + 65536 * (n + 1)

abbrev InPorts (k o : Nat) : Prop := 0x600000 ≤ o ∧ o < 0x600000 + 65536 * k

theorem startTraining_touches (n : Nat) (s : State) : Touches [.regs, .ports] (InPort n) s (startTraining n s) := by
  have hlane : ∀ l < 4, InPort n (regOff .LNK_LANE [n, l]) := fun l hl => by simp [InPort, regOff, regDesc, dimOff]; omega
  unfold startTraining startPass
  extract_lets t u
  have ht : Touches [.regs, .ports] (InPort n) s t := Touches.withPorts (Touches.refl _ _ s).withPorts
  have hu : Touches [.regs, .ports] (InPort n) s u := ht.forN fun l hl v =>
    ((Touches.refl _ _ v).setF (hlane l hl)).setF (hlane l hl)
  clear_value u
  exact (hu.setF (by simp [InPort, regOff, regDesc, dimOff]; omega)).setF (by simp [InPort, regOff, regDesc, dimOff]; omega)

theorem portState_startTraining (n : Nat) (s : State) : portState n (startTraining n s) = Ps.training := by
  unfold startTraining
  extract_lets t u
  refine (getF_setF_other _ _ ?_).trans (getF_setF_same _ _ _ _ (by decide) (by decide))
  simp [regOff, regDesc, dimOff]

/-- A port that training starts on. -/
abbrev Trains (n : Nat) (s : State) : Prop := getF F.LNK_CTRL_ENABLE [n] s = 1 ∧ portState n s = Ps.disabled ∧ portsAllowed s

/-- Training started on the first `k` ports. -/
abbrev trainFirst (k : Nat) (s : State) : State := forN k s (fun n s => if Trains n s then startTraining n s else s)

theorem trainFirst_touches (k : Nat) (s : State) : Touches [.regs, .ports] (InPorts k) s (trainFirst k s) := by
  refine (Touches.refl _ _ s).forN fun n hn u => ?_
  split
  · exact (startTraining_touches n u).mono (by decide) fun o ho => ⟨le_trans (by omega) ho.1, lt_of_lt_of_le ho.2 (by omega)⟩
  · exact Touches.refl _ _ u

theorem not_inPorts {r : Reg} {n k : Nat} {ix : List Nat} (hk : k ≤ n) (h : 0x600000 + 65536 * n ≤ regOff r (n :: ix)) :
    ¬ InPorts k (regOff r (n :: ix)) := fun ho => by
  have := ho.2
  omega

theorem portState_trainFirst (k n : Nat) (s : State) : portState n (trainFirst k s) =
    if n < k ∧ Trains n s then Ps.training else portState n s := by
  induction k with
  | zero => exact (if_neg fun h => absurd h.1 (Nat.not_lt_zero n)).symm
  | succ k ih =>
    have ht := trainFirst_touches k s
    have hoff : ∀ m, 0x600000 + 65536 * m ≤ regOff .LNK_STATUS [m] ∧ 0x600000 + 65536 * m ≤ regOff .LNK_CTRL [m] := fun m => by
      simp [regOff, regDesc, dimOff]
    have hdev : portsAllowed (trainFirst k s) = portsAllowed s := by
      unfold portsAllowed
      rw [ht.getF_eq (by simp [InPorts, regOff, regDesc, dimOff]), ht.getF_eq (by simp [InPorts, regOff, regDesc, dimOff])]
    have hk : Trains k (trainFirst k s) ↔ Trains k s := by
      unfold Trains
      rw [hdev, portState, portState, ht.getF_eq (not_inPorts le_rfl (hoff k).2), ht.getF_eq (not_inPorts le_rfl (hoff k).1)]
    have hstep : trainFirst (k + 1) s = if Trains k (trainFirst k s) then startTraining k (trainFirst k s) else trainFirst k s :=
      forN_succ ..
    by_cases hn : n = k
    · subst hn
      by_cases hc : Trains n s
      · rw [hstep, if_pos (hk.2 hc), portState_startTraining, if_pos ⟨Nat.lt_succ_self n, hc⟩]
      · rw [hstep, if_neg fun h => hc (hk.1 h), ih, if_neg fun h => hc h.2, if_neg fun h => hc h.2]
    · have hkeep : portState n (trainFirst (k + 1) s) = portState n (trainFirst k s) := by
        rw [hstep]
        split
        · exact (startTraining_touches k _).getF_eq (by simp [InPort, regOff, regDesc, dimOff]; omega)
        · rfl
      rw [hkeep, ih]
      have hiff : n < k + 1 ∧ Trains n s ↔ n < k ∧ Trains n s := by
        constructor
        · exact fun h => ⟨by omega, h.2⟩
        · exact fun h => ⟨by omega, h.2⟩
      simp only [hiff]

end Sys2Proof.Machine
end

section
/-! STANDBY_EXIT and HOLD_RELEASE (R104, R350, R352, R433, R446, R454). -/

namespace Sys2Proof.Machine

open Sys2Proof

/-! IDLE. -/

/-- The registers that entering IDLE writes. -/
abbrev IsIdleReg (o : Nat) : Prop := o = regOff .BC_STATE [] ∨ InPorts 16 o

/-- The device is in IDLE, and BOOT reads 0. -/
def idled (s : State) : State := setDeviceState Dv.idle (setF F.BC_STATE_BOOT [] 0 s)

section
variable (s : State)

theorem enterIdle_eq : enterIdle s = trainFirst 16 (idled s) := rfl

theorem idled_touches : Touches [.regs] (fun o => o = regOff .BC_STATE []) s (idled s) :=
  (setF_touches F.BC_STATE_BOOT [] 0 s).trans (setF_touches F.BC_STATE_DEVICE [] Dv.idle _)

theorem enterIdle_touches : Touches [.regs, .ports] IsIdleReg s (enterIdle s) :=
  ((idled_touches s).mono (by decide) fun _ => Or.inl).trans ((trainFirst_touches 16 _).mono (by decide) fun _ => Or.inr)

theorem deviceState_idled : deviceState (idled s) = Dv.idle := getF_setF_same F.BC_STATE_DEVICE [] Dv.idle _ (by decide) (by decide)

theorem boot_idled : getF F.BC_STATE_BOOT [] (idled s) = 0 :=
  (getF_setF_beside (f := F.BC_STATE_DEVICE) (g := F.BC_STATE_BOOT) _ _ _ rfl (by decide) (by decide) (by decide)).trans
    (getF_setF_same _ _ _ _ (by decide) (by decide))

theorem not_inPorts_state (k : Nat) : ¬ InPorts k (regOff .BC_STATE []) := by simp [InPorts, regOff, regDesc, dimOff]

theorem deviceState_enterIdle : deviceState (enterIdle s) = Dv.idle :=
  ((trainFirst_touches 16 (idled s)).getF_eq (not_inPorts_state 16)).trans (deviceState_idled s)

theorem boot_enterIdle : getF F.BC_STATE_BOOT [] (enterIdle s) = 0 :=
  ((trainFirst_touches 16 (idled s)).getF_eq (not_inPorts_state 16)).trans (boot_idled s)

/-- A port that training starts on when the device enters IDLE. -/
theorem trains_idled (n : Nat) : Trains n (idled s) ↔
    getF F.LNK_CTRL_ENABLE [n] s = 1 ∧ portState n s = Ps.disabled ∧ getF F.ID_ADDR_PARITY_OK [] s = 1 := by
  have ht := idled_touches s
  have hd : getF F.BC_STATE_DEVICE [] (idled s) = 2 := deviceState_idled s
  have hen : getF F.LNK_CTRL_ENABLE [n] (idled s) = getF F.LNK_CTRL_ENABLE [n] s := ht.getF_eq (by simp [regOff, regDesc, dimOff]; omega)
  have hst : portState n (idled s) = portState n s := ht.getF_eq (by simp [regOff, regDesc, dimOff]; omega)
  have hpar : getF F.ID_ADDR_PARITY_OK [] (idled s) = getF F.ID_ADDR_PARITY_OK [] s := ht.getF_eq (by decide)
  rw [Trains, portsAllowed, hd, hen, hst, hpar]
  simp

theorem portState_enterIdle {n : Nat} (hn : n < 16) : portState n (enterIdle s) =
    if getF F.LNK_CTRL_ENABLE [n] s = 1 ∧ portState n s = Ps.disabled ∧ getF F.ID_ADDR_PARITY_OK [] s = 1 then Ps.training
    else portState n s := by
  have ht := idled_touches s
  have hst : portState n (idled s) = portState n s := ht.getF_eq (by simp [regOff, regDesc, dimOff]; omega)
  have hc := trains_idled s n
  rw [enterIdle_eq, portState_trainFirst]
  generalize idled s = u at hst hc ⊢
  by_cases h : getF F.LNK_CTRL_ENABLE [n] s = 1 ∧ portState n s = Ps.disabled ∧ getF F.ID_ADDR_PARITY_OK [] s = 1
  · rw [if_pos ⟨hn, hc.2 h⟩, if_pos h]
  · rw [if_neg fun k => h (hc.1 k.2), if_neg h, hst]

/-! The training of DDR5. -/

/-- The parts of the state that the start of training touches. -/
abbrev startParts : List Part := eventParts ++ [.bc]

/-- The pass of one channel when training starts. -/
def startChannel (c : Nat) (s : State) : State :=
  if (moduleOf c s).isSome && ! accepted c s then
    memEvent St.notPermitted 2 c 0xFF 0 { s with bc := { s.bc with trained := tset 0 s.bc.trained c 2 } }
  else s

theorem startChannel_touches (c : Nat) (s : State) :
    Touches startParts InMemory s (startChannel c s) ∧ (startChannel c s).bc.ddrReady = s.bc.ddrReady := by
  unfold startChannel
  split
  · have hu : Touches startParts InMemory s { s with bc := { s.bc with trained := tset 0 s.bc.trained c 2 } } := (Touches.refl _ _ s).withBc
    have hready : ({ s with bc := { s.bc with trained := tset 0 s.bc.trained c 2 } } : State).bc.ddrReady = s.bc.ddrReady := rfl
    generalize ({ s with bc := { s.bc with trained := tset 0 s.bc.trained c 2 } } : State) = u at hu hready ⊢
    have he := memEvent_find St.notPermitted 2 c 0xFF 0 u
    have hbc : (memEvent St.notPermitted 2 c 0xFF 0 u).bc = u.bc := he.only.2 .bc (by decide)
    exact ⟨hu.trans ((memEvent_touches ..).mono (by decide) fun o (h : 0xB00000 ≤ o) => le_trans (by decide) h), by rw [hbc, hready]⟩
  · exact ⟨Touches.refl _ _ s, rfl⟩

/-- Type and speed are set, before the modules that are not accepted are named. -/
def ddrSet (s : State) : State :=
  let s := setR .MEM_STATUS [0] 0 (setR .MEM_STATUS [1] 0 (setR .MEM_SYSTEM [] 0 s))
  let s := { s with bc := { s.bc with trained := [], full := [], ddrReady := false } }
  forN 2 s (fun m s =>
    setF F.MEM_STATUS_TYPE [m] (if typeUsed s then 1 else 0) (setF F.MEM_STATUS_SPEED [m] (speedUsed s) s))

theorem ddrStart_eq : ddrStart s = forN 24 (ddrSet s) startChannel := rfl

theorem ddrSet_spec : Touches startParts InMemory s (ddrSet s) ∧ (ddrSet s).bc.ddrReady = false := by
  unfold ddrSet
  extract_lets t b u
  have ht : Touches startParts InMemory s t :=
    (((Touches.refl _ _ s).setR (regOff_ge (by decide))).setR (regOff_ge (by decide))).setR (regOff_ge (by decide))
  have hu : Touches startParts InMemory s u := ht.withBc
  have hready : u.bc.ddrReady = false := rfl
  clear_value u
  refine ⟨hu.forN fun m _ w => ((Touches.refl _ _ w).setF (regOff_ge (by decide))).setF (regOff_ge (by decide)), ?_⟩
  rw [← hready]
  refine congrArg Basecamp.ddrReady ?_
  exact forN_rel (R := fun a b : State => b.bc = a.bc) (fun _ => rfl) (fun _ _ _ h g => g.trans h)
    (fun m _ w => (setF_bc ..).trans (setF_bc ..)) u

/-- What the start of training touches: nothing is ready then. -/
theorem ddrStart_spec : Touches startParts InMemory s (ddrStart s) ∧ (ddrStart s).bc.ddrReady = false := by
  obtain ⟨ht, hready⟩ := ddrSet_spec s
  rw [ddrStart_eq]
  obtain ⟨hl, hb⟩ := forN_rel (R := fun a b : State => Touches startParts InMemory a b ∧ b.bc.ddrReady = a.bc.ddrReady)
    (fun _ => ⟨Touches.refl _ _ _, rfl⟩) (fun _ _ _ h g => ⟨h.1.trans g.1, g.2.trans h.2⟩)
    (n := 24) (fun c _ w => startChannel_touches c w) (ddrSet s)
  exact ⟨ht.trans hl, hb.trans hready⟩

end

/-! STANDBY_EXIT. -/

section
variable {fn : Requester} {s : State}

/-- STANDBY was written 0. -/
abbrev standbyDropped (s : State) : State := setF F.BC_CTRL_STANDBY [] 0 (Quiet s)

theorem standbyDropped_touches (s : State) : Touches [.regs] (fun o => o = regOff .BC_CTRL []) s (standbyDropped s) :=
  quiet_setF_touches F.BC_CTRL_STANDBY [] 0 s

theorem exec_standbyExit (hfn : fnAllowed fn (regOff .BC_CTRL []) s = true) :
    exec (.standbyExit fn) s = .next (standbyExit (Quiet s)) := runIf_holds hfn ..

/-- A device in STANDBY that may leave it. -/
abbrev Wakes (s : State) : Prop := deviceState s = Dv.standby ∧ s.bc.stage = 3 ∧ getF F.BC_STATE_BOOT [] s = 0 ∧ s.bc.removing = false ∧
  ∃ c, c < 24 ∧ accepted c s = true

theorem wakes_iff (s : State) : (deviceState (Quiet s) = Dv.standby ∧ (Quiet s).bc.stage = 3 ∧ getF F.BC_STATE_BOOT [] (Quiet s) = 0 ∧
    (! (Quiet s).bc.removing) = true ∧ ((List.range 24).any fun c => accepted c (Quiet s)) = true) ↔ Wakes s := by
  have ha : ((List.range 24).any fun c => accepted c (Quiet s)) = (List.range 24).any fun c => accepted c s := rfl
  rw [ha, List.any_eq_true]
  simp only [List.mem_range, Bool.not_eq_true']
  exact Iff.rfl

theorem standbyExit_wakes (h : Wakes s) : standbyExit (Quiet s) = enterIdle (ddrStart (standbyDropped s)) := if_pos ((wakes_iff s).2 h)

theorem standbyExit_stays (h : ¬ Wakes s) : standbyExit (Quiet s) = standbyDropped s := if_neg fun hc => h ((wakes_iff s).1 hc)

/-- From STANDBY to training. -/
theorem restarted_touches (s : State) :
    Touches startParts (fun o => o = regOff .BC_CTRL [] ∨ InMemory o) s (ddrStart (standbyDropped s)) :=
  ((standbyDropped_touches s).mono (by decide) fun _ => Or.inl).trans ((ddrStart_spec _).1.mono (by decide) fun _ => Or.inr)

/-- The device leaves STANDBY from a state `u` in which training has begun. -/
theorem enterIdle_leaves {s u : State} (hu : Touches startParts (fun o => o = regOff .BC_CTRL [] ∨ InMemory o) s u)
    (hready : u.bc.ddrReady = false) (hstandby : getF F.BC_CTRL_STANDBY [] u = 0) :
    deviceState (enterIdle u) = Dv.idle ∧ getF F.BC_CTRL_STANDBY [] (enterIdle u) = 0 ∧
    getF F.BC_STATE_BOOT [] (enterIdle u) = 0 ∧ (enterIdle u).bc.ddrReady = false ∧ (enterIdle u).cores = s.cores ∧
    (enterIdle u).ropes = s.ropes ∧ (enterIdle u).tables = s.tables ∧
    ∀ n, n < 16 → portState n (enterIdle u) = if getF F.LNK_CTRL_ENABLE [n] s = 1 ∧ portState n s = Ps.disabled ∧
      getF F.ID_ADDR_PARITY_OK [] s = 1 then Ps.training else portState n s := by
  have hi := enterIdle_touches u
  have hbc : (enterIdle u).bc = u.bc := hi.only.2 .bc (by decide)
  refine ⟨deviceState_enterIdle u, (hi.getF_eq (by simp [IsIdleReg, InPorts, regOff, regDesc, dimOff])).trans hstandby, boot_enterIdle u,
    by rw [hbc, hready], Eq.trans (hi.only.2 .cores (by decide)) (hu.only.2 .cores (by decide)),
    Eq.trans (hi.only.2 .ropes (by decide)) (hu.only.2 .ropes (by decide)),
    Eq.trans (hi.only.2 .tables (by decide)) (hu.only.2 .tables (by decide)), fun n hn => ?_⟩
  have hen : getF F.LNK_CTRL_ENABLE [n] u = getF F.LNK_CTRL_ENABLE [n] s := hu.getF_eq (by simp [regOff, regDesc, dimOff]; omega)
  have hst : portState n u = portState n s := hu.getF_eq (by simp [regOff, regDesc, dimOff]; omega)
  have hpar : getF F.ID_ADDR_PARITY_OK [] u = getF F.ID_ADDR_PARITY_OK [] s := hu.getF_eq (by decide)
  rw [portState_enterIdle u hn, hen, hst, hpar]

theorem restarted_standby (s : State) : getF F.BC_CTRL_STANDBY [] (ddrStart (standbyDropped s)) = 0 :=
  ((ddrStart_spec _).1.getF_eq (by decide)).trans (getF_setF_same _ _ _ _ (by decide) (by decide))

theorem standbyDropped_spec (s : State) : Only [.regs] s (standbyDropped s) ∧ RegsOnly [(.BC_CTRL, [])] s (standbyDropped s) ∧
    getF F.BC_CTRL_STANDBY [] (standbyDropped s) = 0 :=
  ⟨(standbyDropped_touches s).only, regsOnly_of_touches_one (standbyDropped_touches s),
    getF_setF_same _ _ _ _ (by decide) (by decide)⟩

/-! HOLD_RELEASE. -/

/-- HOLD was written 0. -/
abbrev holdDropped (s : State) : State := setF F.BC_CTRL_HOLD [] 0 (Quiet s)

theorem holdDropped_touches (s : State) : Touches [.regs] (fun o => o = regOff .BC_CTRL []) s (holdDropped s) :=
  quiet_setF_touches F.BC_CTRL_HOLD [] 0 s

theorem exec_holdRelease (hfn : fnAllowed fn (regOff .BC_CTRL []) s = true) :
    exec (.holdRelease fn) s = .next (bootedIdle (holdDropped s)) :=
  runIf_holds hfn (fun s => bootedIdle (setF F.BC_CTRL_HOLD [] 0 s)) s

/-- A booted device that was held. -/
abbrev Boots (s : State) : Prop := s.bc.stage = 3 ∧ getF F.BC_STATE_BOOT [] s = 1 ∧ channelsLeft s = true

theorem hold_holdDropped (s : State) : getF F.BC_CTRL_HOLD [] (holdDropped s) = 0 := getF_setF_same _ _ _ _ (by decide) (by decide)

theorem channelsLeft_congr {s t : State} (h : t.bc = s.bc) : channelsLeft t = channelsLeft s := by
  have hm : ∀ c, moduleOf c t = moduleOf c s := fun c => by rw [moduleOf, moduleOf, h]
  have hf : fitted t = fitted s := by simp only [fitted, hm]
  have hu : typeUsed t = typeUsed s := by rw [typeUsed, typeUsed, hf]
  have ha : ∀ c, accepted c t = accepted c s := fun c => by rw [accepted, accepted, hm, hu]
  simp only [channelsLeft, ha, h]

theorem boots_iff (s : State) : (holdDropped s).bc.stage = 3 ∧ getF F.BC_STATE_BOOT [] (holdDropped s) = 1 ∧
    getF F.BC_CTRL_HOLD [] (holdDropped s) = 0 ∧ channelsLeft (holdDropped s) = true ↔ Boots s := by
  have ht := holdDropped_touches s
  have hb : (holdDropped s).bc = s.bc := ht.only.2 .bc (by decide)
  have hboot : getF F.BC_STATE_BOOT [] (holdDropped s) = getF F.BC_STATE_BOOT [] s := ht.getF_eq (by decide)
  rw [channelsLeft_congr hb, hb, hboot, hold_holdDropped]
  simp only [true_and]

theorem bootedIdle_boots (h : Boots s) : bootedIdle (holdDropped s) = raiseCounters (enterIdle (holdDropped s)) := if_pos ((boots_iff s).2 h)

theorem bootedIdle_stays (h : ¬ Boots s) : bootedIdle (holdDropped s) = holdDropped s := if_neg fun hc => h ((boots_iff s).1 hc)

/-- A rollback counter rises to what booted. -/
theorem toNat_raised (old : BitVec 32) {svn : Nat} (h : svn < 2 ^ 32) :
    (if old.toNat < svn then BitVec.ofNat 32 svn else old).toNat = max old.toNat svn := by
  split
  · rw [BitVec.toNat_ofNat, Nat.mod_eq_of_lt h]
    omega
  · omega

theorem raiseCounters_spec (s : State) : Touches [.regs, .bc] (fun o => o = regOff .BC_BOOT []) s (raiseCounters s) ∧
    (raiseCounters s).bc.imgCounter.toNat = max s.bc.imgCounter.toNat (fieldAt s.bc.imgHeader 8 4) ∧
    (raiseCounters s).bc.cfgCounter.toNat = max s.bc.cfgCounter.toNat (fieldAt s.bc.cfgRecord 8 4) ∧
    getF F.BC_BOOT_IMG_COUNTER [] (raiseCounters s) = (raiseCounters s).bc.imgCounter.toNat ∧
    getF F.BC_BOOT_CFG_COUNTER [] (raiseCounters s) = (raiseCounters s).bc.cfgCounter.toNat % 65536 := by
  unfold raiseCounters
  extract_lets up b u
  have hu : Touches [.regs, .bc] (fun o => o = regOff .BC_BOOT []) s u := (Touches.refl _ _ s).withBc
  have hi : u.bc.imgCounter.toNat = max s.bc.imgCounter.toNat (fieldAt s.bc.imgHeader 8 4) := toNat_raised _ (fieldAt_lt _ 8 4)
  have hc : u.bc.cfgCounter.toNat = max s.bc.cfgCounter.toNat (fieldAt s.bc.cfgRecord 8 4) := toNat_raised _ (fieldAt_lt _ 8 4)
  clear_value u
  have hbc : ∀ v w, (setF F.BC_BOOT_IMG_COUNTER [] v (setF F.BC_BOOT_CFG_COUNTER [] w u)).bc = u.bc := fun v w =>
    (setF_bc ..).trans (setF_bc ..)
  refine ⟨(hu.setF rfl).setF rfl, by rw [hbc, hi], by rw [hbc, hc], ?_, ?_⟩
  · rw [hbc, getF_setF_same _ _ _ _ (by decide) (by decide)]
    exact Nat.mod_eq_of_lt u.bc.imgCounter.isLt
  · rw [hbc, getF_setF_beside (f := F.BC_BOOT_IMG_COUNTER) (g := F.BC_BOOT_CFG_COUNTER) _ _ _ rfl (by decide) (by decide) (by decide)]
    exact getF_setF_same _ _ _ _ (by decide) (by decide)

/-- The device that was held enters IDLE for the first time. -/
theorem holdRelease_spec (s : State) : let t := raiseCounters (enterIdle (holdDropped s))
    Only [.regs, .ports, .bc] s t ∧ getF F.BC_CTRL_HOLD [] t = 0 ∧ deviceState t = Dv.idle ∧ getF F.BC_STATE_BOOT [] t = 0 ∧
    t.bc.imgCounter.toNat = max s.bc.imgCounter.toNat (fieldAt s.bc.imgHeader 8 4) ∧
    t.bc.cfgCounter.toNat = max s.bc.cfgCounter.toNat (fieldAt s.bc.cfgRecord 8 4) ∧
    getF F.BC_BOOT_IMG_COUNTER [] t = t.bc.imgCounter.toNat ∧ getF F.BC_BOOT_CFG_COUNTER [] t = t.bc.cfgCounter.toNat % 65536 := by
  intro t
  obtain ⟨hr, h1, h2, h3, h4⟩ := raiseCounters_spec (enterIdle (holdDropped s))
  have hi := enterIdle_touches (holdDropped s)
  have hd := holdDropped_touches s
  have hbc : (enterIdle (holdDropped s)).bc = s.bc := Eq.trans (hi.only.2 .bc (by decide)) (hd.only.2 .bc (by decide))
  refine ⟨((hd.only.mono (by decide)).trans (hi.only.mono (by decide))).trans (hr.only.mono (by decide)), ?_, ?_, ?_, ?_, ?_, h3, h4⟩
  · exact (hr.getF_eq (by decide)).trans ((hi.getF_eq (by simp [IsIdleReg, InPorts, regOff, regDesc, dimOff])).trans (hold_holdDropped s))
  · exact (hr.getF_eq (by decide)).trans (deviceState_enterIdle _)
  · exact (hr.getF_eq (by decide)).trans (boot_enterIdle _)
  · rw [h1, hbc]
  · rw [h2, hbc]

theorem holdDropped_spec (s : State) : Only [.regs] s (holdDropped s) ∧ RegsOnly [(.BC_CTRL, [])] s (holdDropped s) ∧
    getF F.BC_CTRL_HOLD [] (holdDropped s) = 0 ∧ getF F.BC_CTRL_STANDBY [] (holdDropped s) = getF F.BC_CTRL_STANDBY [] s :=
  ⟨(holdDropped_touches s).only, regsOnly_of_touches_one (holdDropped_touches s), hold_holdDropped s,
    getF_setF_beside (f := F.BC_CTRL_HOLD) (g := F.BC_CTRL_STANDBY) _ _ _ rfl (by decide) (by decide) (by decide)⟩

end

end Sys2Proof.Machine
end

section
/-! Clusters that rest, the power limit and the throttling steps (R436, R438 to R440). -/

namespace Sys2Proof.Machine

open Sys2Proof

/-- A field that holds what is written to it. -/
theorem getF_setF_of_lt {f : Fld} {ix : List Nat} {v : Nat} {s : State} (hlo : f.lo ≤ f.hi) (hhi : f.hi < 64)
    (hv : v < 2 ^ (f.hi + 1 - f.lo)) : getF f ix (setF f ix v s) = v :=
  (getF_setF_same f ix v s hlo hhi).trans (Nat.mod_eq_of_lt hv)

/-! Events that count. -/

/-- An event of a class counts in its class. -/
theorem raiseEvent_counts (e : Event) (s : State) : Grew F.ERR_CLASS_COUNT_COUNT [e.cls] 1 s (raiseEvent e s) := by
  have hoff : ∀ r ∈ [Reg.ERR_RING_LOST, .ERR_RING_HEAD], regOff .ERR_CLASS_COUNT [e.cls] ≠ regOff r [] := by
    intro r hr
    have hr' : regOff r [] < 0xB00100 := by
      simp only [List.mem_cons, List.not_mem_nil, or_false] at hr
      obtain rfl | rfl := hr
      · decide
      · decide
    have hc : 0xB00100 ≤ regOff .ERR_CLASS_COUNT [e.cls] := regOff_ge (by decide)
    omega
  have key : getR .ERR_CLASS_COUNT [e.cls] (raiseEvent e s) = getR .ERR_CLASS_COUNT [e.cls] s + 1 := by
    unfold raiseEvent
    extract_lets t head tail bs u
    have ht : getR .ERR_CLASS_COUNT [e.cls] t = getR .ERR_CLASS_COUNT [e.cls] s + 1 := getR_setR_same ..
    have hu : u.regs = t.regs := (hostWrite_touches ..).only.2 .regs (by decide)
    clear_value t u
    split
    · exact ht
    · split
      · exact ht
      · split
        · exact (getR_setR_other _ _ (hoff _ (by decide))).trans ht
        · refine (getR_congr _ _ ((raiseEventVector_touches _ _).only.2 .regs (by decide))).trans ?_
          exact (getR_setF_other _ _ (hoff _ (by decide))).trans ((getR_congr _ _ hu).trans ht)
  rw [Grew, getF, getF, key]
  simp [bits]

theorem powerEvent_touches (status cls step : Nat) (s : State) : Touches eventParts InErrors s (powerEvent status cls step s) :=
  raiseEvent_touches ..

theorem powerEvent_counts (status cls step : Nat) (s : State) :
    Grew F.ERR_CLASS_COUNT_COUNT [cls] 1 s (powerEvent status cls step s) := raiseEvent_counts _ s

theorem powerEvent_below (status cls step : Nat) (s : State) : MemSame (2 ^ 64) s (powerEvent status cls step s) := raiseEvent_below _ s

/-! CLUSTER_IDLE_TIMEOUT. -/

section
variable {q : Nat} {s : State}

/-- A RUNNING cluster none of whose cores works. -/
abbrev ClusterRests (q : Nat) (s : State) : Prop := clusterState q s = Cl.running ∧ ∀ k, k < 8 → coreIdle (q * 8 + k) s = true

theorem clusterRests_iff : (clusterState q (Quiet s) = Cl.running ∧ ((List.range 8).all fun k => coreIdle (q * 8 + k) (Quiet s)) = true) ↔
    ClusterRests q s := by
  have ha : ((List.range 8).all fun k => coreIdle (q * 8 + k) (Quiet s)) = (List.range 8).all fun k => coreIdle (q * 8 + k) s := rfl
  rw [ha, List.all_eq_true]
  simp only [List.mem_range]
  exact Iff.rfl

theorem clusterIdle_rests (h : ClusterRests q s) : clusterIdle q (Quiet s) = setF F.BC_CLUSTER_STATE [q] Cl.drowsy (Quiet s) :=
  if_pos (clusterRests_iff.2 h)

theorem clusterIdle_stays (h : ¬ ClusterRests q s) : clusterIdle q (Quiet s) = Quiet s := if_neg fun hc => h (clusterRests_iff.1 hc)

theorem exec_clusterIdleTimeout (hq : q < 64) : exec (.clusterIdleTimeout q) s = .next (clusterIdle q (Quiet s)) :=
  runIf_holds (decide_eq_true hq) ..

theorem drowsy_spec (q : Nat) (s : State) : let t := setF F.BC_CLUSTER_STATE [q] Cl.drowsy (Quiet s)
    Only [.regs] s t ∧ RegsOnly [(.BC_CLUSTER, [q])] s t ∧ clusterState q t = Cl.drowsy ∧
    getF F.BC_CLUSTER_STEP [q] t = getF F.BC_CLUSTER_STEP [q] s := by
  have ht := quiet_setF_touches F.BC_CLUSTER_STATE [q] Cl.drowsy s
  exact ⟨ht.only, regsOnly_of_touches_one ht, getF_setF_same _ _ _ _ (by decide) (by decide),
    getF_setF_beside (f := F.BC_CLUSTER_STATE) (g := F.BC_CLUSTER_STEP) _ _ _ rfl (by decide) (by decide) (by decide)⟩

end

/-! POWER_SAMPLE. -/

theorem exec_powerSample {w pk mv : Nat} {s : State} (h : s.bc.stage = 3) (hw : w < 4096) (hpk : pk < 4096) (hmv : mv < 65536) :
    exec (.powerSample w pk mv) s = .next (powerSample w pk mv (Quiet s)) :=
  runIf_holds (by rw [decide_eq_true h, decide_eq_true hw, decide_eq_true hpk, decide_eq_true hmv]; rfl) ..

theorem powerSample_spec {w pk mv : Nat} (hw : w < 4096) (hpk : pk < 4096) (hmv : mv < 65536) {s t : State} (ht : t = powerSample w pk mv s) :
    Touches [.regs, .bc] (fun o => o = regOff .BC_POWER []) s t ∧
    getF F.BC_POWER_MODULE_W [] t = w ∧ getF F.BC_POWER_PACKAGE_W [] t = pk ∧
    getF F.BC_POWER_INPUT_MV [] t = mv ∧ t.bc = { s.bc with samples := (w :: s.bc.samples).take 100 } := by
  unfold powerSample at ht
  extract_lets u b at ht
  have hu : Touches [.regs, .bc] (fun o => o = regOff .BC_POWER []) s u :=
    (((setF_touches F.BC_POWER_INPUT_MV [] mv s).trans (setF_touches F.BC_POWER_PACKAGE_W [] pk _)).trans
      (setF_touches F.BC_POWER_MODULE_W [] w _)).mono (by decide) fun _ => id
  have hb : u.bc = s.bc := ((setF_bc ..).trans (setF_bc ..)).trans (setF_bc ..)
  have h1 : getF F.BC_POWER_MODULE_W [] u = w :=
    getF_setF_of_lt (by decide) (by decide) (by simpa using hw)
  have h2 : getF F.BC_POWER_PACKAGE_W [] u = pk :=
    (getF_setF_beside (f := F.BC_POWER_MODULE_W) (g := F.BC_POWER_PACKAGE_W) _ _ _ rfl (by decide) (by decide) (by decide)).trans
      (getF_setF_of_lt (by decide) (by decide) (by simpa using hpk))
  have h3 : getF F.BC_POWER_INPUT_MV [] u = mv :=
    (getF_setF_beside (f := F.BC_POWER_MODULE_W) (g := F.BC_POWER_INPUT_MV) _ _ _ rfl (by decide) (by decide) (by decide)).trans
      ((getF_setF_beside (f := F.BC_POWER_PACKAGE_W) (g := F.BC_POWER_INPUT_MV) _ _ _ rfl (by decide) (by decide) (by decide)).trans
        (getF_setF_of_lt (by decide) (by decide) (by simpa using hmv)))
  have hregs : t.regs = u.regs := by rw [ht]
  have htb : t.bc = { u.bc with samples := (w :: u.bc.samples).take 100 } := by rw [ht]
  refine ⟨?_, (getF_congr _ _ hregs).trans h1, (getF_congr _ _ hregs).trans h2, (getF_congr _ _ hregs).trans h3, by rw [htb, hb]⟩
  rw [ht]
  exact hu.withBc

/-! The clusters' steps. -/

section
variable (s : State)

/-- The step of cluster `q` is noted. -/
def noteStep (q : Nat) (s : State) : State :=
  let p := getF F.BC_THROTTLE_POWER_STEP [] s
  let t := tget 0 s.bc.thermal (q / 8)
  setF F.BC_CLUSTER_STEP [q] (max p t) (setF F.BC_CLUSTER_THERMAL [q] (if p < t then 1 else 0) s)

theorem noteStep_touches (q : Nat) : Touches [.regs] (fun o => o = regOff .BC_CLUSTER [q]) s (noteStep q s) :=
  (setF_touches F.BC_CLUSTER_THERMAL [q] _ s).trans (setF_touches F.BC_CLUSTER_STEP [q] _ _)

theorem noteSteps_touches : Touches [.regs] InClusterRegs s (noteSteps s) :=
  (Touches.refl _ _ s).forN fun q hq u => (noteStep_touches u q).mono (by decide) fun _ h => h ▸ inClusterRegs hq

/-- What a cluster's register says when the power step is `p` and its die's thermal step `t`. -/
def StepIs (p t q : Nat) (s : State) : Prop :=
  getF F.BC_CLUSTER_STEP [q] s = max p t % 16 ∧ (getF F.BC_CLUSTER_THERMAL [q] s = 1 ↔ p < t)

theorem noteStep_same (q : Nat) :
    StepIs (getF F.BC_THROTTLE_POWER_STEP [] s) (tget 0 s.bc.thermal (q / 8)) q (noteStep q s) := by
  constructor
  · exact getF_setF_same _ _ _ _ (by decide) (by decide)
  · have hth : getF F.BC_CLUSTER_THERMAL [q] (noteStep q s) =
        (if getF F.BC_THROTTLE_POWER_STEP [] s < tget 0 s.bc.thermal (q / 8) then 1 else 0) % 2 :=
      (getF_setF_beside (f := F.BC_CLUSTER_STEP) (g := F.BC_CLUSTER_THERMAL) _ _ _ rfl (by decide) (by decide) (by decide)).trans
        (getF_setF_same _ _ _ _ (by decide) (by decide))
    rw [hth]
    split
    next h => simp [h]
    next h => simp [h]

theorem noteStep_other {p t q k : Nat} (h : q ≠ k) (hs : StepIs p t q s) : StepIs p t q (noteStep k s) := by
  have hne : regOff .BC_CLUSTER [q] ≠ regOff .BC_CLUSTER [k] := by
    simp [regOff, regDesc, dimOff]
    omega
  have ht := noteStep_touches s k
  exact ⟨(ht.getF_eq hne).trans hs.1, by rw [ht.getF_eq hne]; exact hs.2⟩

theorem noteFirst_spec (n : Nat) : (forN n s noteStep).bc = s.bc ∧
    getF F.BC_THROTTLE_POWER_STEP [] (forN n s noteStep) = getF F.BC_THROTTLE_POWER_STEP [] s ∧
    ∀ q < n, StepIs (getF F.BC_THROTTLE_POWER_STEP [] s) (tget 0 s.bc.thermal (q / 8)) q (forN n s noteStep) := by
  induction n with
  | zero => exact ⟨rfl, rfl, fun q hq => absurd hq (Nat.not_lt_zero q)⟩
  | succ n ih =>
    obtain ⟨hb, hp, hq⟩ := ih
    rw [forN_succ]
    have ht := noteStep_touches (forN n s noteStep) n
    refine ⟨Eq.trans (ht.only.2 .bc (by decide)) hb, (ht.getF_eq (by simp [regOff, regDesc, dimOff]; omega)).trans hp, fun q hlt => ?_⟩
    by_cases h : q = n
    · subst h
      have hsame := noteStep_same (forN q s noteStep) q
      rwa [hb, hp] at hsame
    · exact noteStep_other _ h (hq q (by omega))

theorem noteSteps_bc : (noteSteps s).bc = s.bc := (noteFirst_spec s 64).1

theorem noteSteps_getF {f : Fld} {ix : List Nat} (h : ∀ q < 64, regOff f.reg ix ≠ regOff .BC_CLUSTER [q]) :
    getF f ix (noteSteps s) = getF f ix s := by
  refine (noteSteps_touches s).getF_eq fun hin => ?_
  obtain ⟨e, he, heq⟩ := List.mem_map.1 hin
  obtain ⟨q, hq, rfl⟩ := List.mem_map.1 he
  exact h q (List.mem_range.1 hq) heq.symm

theorem noteSteps_clusterSteps : ClusterSteps (getF F.BC_THROTTLE_POWER_STEP [] s) (noteSteps s) := by
  intro q hq
  rw [noteSteps_bc]
  exact (noteFirst_spec s 64).2.2 q hq

end

/-- The registers of the throttle and the thermal block lie beside those of the clusters. -/
theorem throttle_beside_clusters : ∀ q < 64, regOff .BC_THROTTLE [] ≠ regOff .BC_CLUSTER [q] := fun q _ => by
  simp [regOff, regDesc, dimOff]
  omega

end Sys2Proof.Machine
end

section
/-! Decisions of the power controller (R439, R440). -/

namespace Sys2Proof.Machine

open Sys2Proof

section
variable {s : State}

/-- The latest sample is over the limit. -/
abbrev OverLimit (s : State) : Prop := ∃ w, s.bc.samples.head? = some w ∧ limitW s < w

/-- A millisecond below 95 percent of the limit. -/
abbrev WellBelow (s : State) : Prop := 100 ≤ s.bc.samples.length ∧ ∀ w ∈ s.bc.samples, 100 * w < 95 * limitW s

theorem overLimit_iff : (match s.bc.samples with | w :: _ => decide (limitW s < w) | [] => false) = true ↔ OverLimit s := by
  unfold OverLimit
  cases s.bc.samples with
  | nil => simp
  | cons w l => simp

theorem wellBelow_iff : (decide (100 ≤ s.bc.samples.length) && s.bc.samples.all fun w => decide (100 * w < 95 * limitW s)) = true ↔ WellBelow s := by
  rw [Bool.and_eq_true, List.all_eq_true, decide_eq_true_eq]
  simp only [decide_eq_true_eq]

theorem not_overLimit_of_wellBelow (h : WellBelow s) : ¬ OverLimit s := by
  rintro ⟨w, hw, hlt⟩
  have := h.2 w (List.mem_of_mem_head? hw)
  omega

/-- The power step is one higher, and the rise counted. -/
abbrev steppedUp (s : State) : State :=
  addF F.BC_THROTTLE_EVENTS [] 1 (setF F.BC_THROTTLE_POWER_STEP [] (getF F.BC_THROTTLE_POWER_STEP [] s + 1) s)

/-- The cap of DDR5 is `c`. -/
abbrev powerCapped (c : Nat) (s : State) : State := { s with bc := { s.bc with powerCap := c } }

theorem powerDecide_steps (h : OverLimit s) (hs : getF F.BC_THROTTLE_POWER_STEP [] s < 9) : powerDecide s =
    noteSteps (if getF F.BC_THROTTLE_POWER_STEP [] s = 8 then powerEvent St.ok 2 9 (steppedUp s) else steppedUp s) := by
  unfold powerDecide
  exact (if_pos (overLimit_iff.2 h)).trans (if_pos hs)

theorem powerDecide_caps (h : OverLimit s) (hs : 9 ≤ getF F.BC_THROTTLE_POWER_STEP [] s) (hc : s.bc.powerCap < 3) : powerDecide s =
    noteCaps (addF F.BC_THROTTLE_EVENTS [] 1 (powerCapped (s.bc.powerCap + 1) s)) := by
  unfold powerDecide
  exact (if_pos (overLimit_iff.2 h)).trans ((if_neg (not_lt.2 hs)).trans (if_pos hc))

theorem powerDecide_full (h : OverLimit s) (hs : 9 ≤ getF F.BC_THROTTLE_POWER_STEP [] s) (hc : 3 ≤ s.bc.powerCap) : powerDecide s = s := by
  unfold powerDecide
  exact (if_pos (overLimit_iff.2 h)).trans ((if_neg (not_lt.2 hs)).trans (if_neg (not_lt.2 hc)))

theorem powerDecide_uncaps (h : WellBelow s) (hc : 0 < s.bc.powerCap) : powerDecide s =
    noteCaps (powerCapped (s.bc.powerCap - 1) s) := by
  unfold powerDecide
  exact (if_neg fun hc => not_overLimit_of_wellBelow h (overLimit_iff.1 hc)).trans ((if_pos (wellBelow_iff.2 h)).trans (if_pos hc))

theorem powerDecide_unsteps (h : WellBelow s) (hc : s.bc.powerCap = 0) : powerDecide s =
    noteSteps (setF F.BC_THROTTLE_POWER_STEP [] (getF F.BC_THROTTLE_POWER_STEP [] s - 1) s) := by
  unfold powerDecide
  exact (if_neg fun hc => not_overLimit_of_wellBelow h (overLimit_iff.1 hc)).trans
    ((if_pos (wellBelow_iff.2 h)).trans (if_neg (by omega)))

theorem powerDecide_keeps (h : ¬ OverLimit s) (hl : ¬ WellBelow s) : powerDecide s = s := by
  unfold powerDecide
  exact (if_neg fun hc => h (overLimit_iff.1 hc)).trans (if_neg fun hc => hl (wellBelow_iff.1 hc))

/-! What a decision writes. -/

/-- The throttle register. -/
abbrev IsThrottle (o : Nat) : Prop := o = regOff .BC_THROTTLE []

theorem steppedUp_touches : Touches [.regs] IsThrottle s (steppedUp s) :=
  (setF_touches F.BC_THROTTLE_POWER_STEP [] _ s).addF rfl

theorem getF_addF_beside {f g : Fld} (ix : List Nat) (v : Nat) (s : State) (hr : g.reg = f.reg) (hlo : f.lo ≤ f.hi)
    (hhi : f.hi < 64) (h : f.hi < g.lo ∨ g.hi < f.lo) : getF g ix (addF f ix v s) = getF g ix s :=
  getF_setF_beside ix _ s hr hlo hhi h

theorem grew_addF (f : Fld) (ix : List Nat) (v : Nat) (s : State) (hlo : f.lo ≤ f.hi) (hhi : f.hi < 64) : Grew f ix v s (addF f ix v s) :=
  getF_setF_same f ix _ s hlo hhi

theorem grew_congr {f : Fld} {ix : List Nat} {n : Nat} {s t u v : State} (h : Grew f ix n s t) (hs : getF f ix u = getF f ix s)
    (ht : getF f ix v = getF f ix t) : Grew f ix n u v := by
  rw [Grew, ht, hs]
  exact h

theorem steppedUp_step (h : getF F.BC_THROTTLE_POWER_STEP [] s < 9) :
    getF F.BC_THROTTLE_POWER_STEP [] (steppedUp s) = getF F.BC_THROTTLE_POWER_STEP [] s + 1 :=
  (getF_addF_beside (f := F.BC_THROTTLE_EVENTS) (g := F.BC_THROTTLE_POWER_STEP) _ _ _ rfl (by decide) (by decide) (by decide)).trans
    (getF_setF_of_lt (by decide) (by decide) (by simp; omega))

theorem steppedUp_events : Grew F.BC_THROTTLE_EVENTS [] 1 s (steppedUp s) :=
  grew_congr (grew_addF F.BC_THROTTLE_EVENTS [] 1 _ (by decide) (by decide))
    (getF_setF_beside (f := F.BC_THROTTLE_POWER_STEP) (g := F.BC_THROTTLE_EVENTS) _ _ _ rfl (by decide) (by decide) (by decide)).symm rfl

/-- The steps noted after a power step was written. -/
theorem noted_throttle {u : State} (hp : getF F.BC_THROTTLE_POWER_STEP [] u = p) : getF F.BC_THROTTLE_POWER_STEP [] (noteSteps u) = p ∧
    getF F.BC_THROTTLE_EVENTS [] (noteSteps u) = getF F.BC_THROTTLE_EVENTS [] u ∧ ClusterSteps p (noteSteps u) := by
  refine ⟨(noteSteps_getF u throttle_beside_clusters).trans hp, noteSteps_getF u throttle_beside_clusters, ?_⟩
  rw [← hp]
  exact noteSteps_clusterSteps u

/-- The registers a change of the power step writes. -/
theorem stepRegs_of {o : Nat} (h : IsThrottle o ∨ InClusterRegs o) : o ∈ ((Reg.BC_THROTTLE, []) :: clusterRegs).map (fun e => regOff e.1 e.2) := by
  rw [List.map_cons, List.mem_cons]
  exact h

/-- The power step rises. -/
theorem stepsUp_spec (h : getF F.BC_THROTTLE_POWER_STEP [] s < 9) (u : State)
    (hu : u = if getF F.BC_THROTTLE_POWER_STEP [] s = 8 then powerEvent St.ok 2 9 (steppedUp s) else steppedUp s) :
    getF F.BC_THROTTLE_POWER_STEP [] (noteSteps u) = getF F.BC_THROTTLE_POWER_STEP [] s + 1 ∧
      Grew F.BC_THROTTLE_EVENTS [] 1 s (noteSteps u) ∧ ClusterSteps (getF F.BC_THROTTLE_POWER_STEP [] s + 1) (noteSteps u) ∧
      (noteSteps u).bc = s.bc ∧
      (getF F.BC_THROTTLE_POWER_STEP [] s ≠ 8 → Touches [.regs] (fun o => IsThrottle o ∨ InClusterRegs o) s (noteSteps u)) ∧
      (getF F.BC_THROTTLE_POWER_STEP [] s = 8 → Grew F.ERR_CLASS_COUNT_COUNT [2] 1 s (noteSteps u)) := by
  have hup := steppedUp_touches (s := s)
  have hstep := steppedUp_step h
  have hev := steppedUp_events (s := s)
  have hcls : getF F.ERR_CLASS_COUNT_COUNT [2] (steppedUp s) = getF F.ERR_CLASS_COUNT_COUNT [2] s := hup.getF_eq (by decide)
  generalize steppedUp s = v at hu hup hstep hev hcls
  have hv : Touches eventParts InErrors v u := by
    rw [hu]
    split
    · exact powerEvent_touches ..
    · exact Touches.refl _ _ v
  obtain ⟨h1, h2, h3⟩ := noted_throttle ((hv.getF_eq (f := F.BC_THROTTLE_POWER_STEP) (ix := []) (by decide)).trans hstep)
  have hbc : u.bc = s.bc := Eq.trans (hv.only.2 .bc (by decide)) (hup.only.2 .bc (by decide))
  refine ⟨h1, grew_congr hev rfl (h2.trans (hv.getF_eq (by decide))), h3, (noteSteps_bc u).trans hbc, fun hne => ?_, fun h8 => ?_⟩
  · rw [if_neg hne] at hu
    subst hu
    exact (hup.mono (by decide) fun _ => Or.inl).trans ((noteSteps_touches u).mono (by decide) fun _ => Or.inr)
  · rw [if_pos h8] at hu
    have hnote : getF F.ERR_CLASS_COUNT_COUNT [2] (noteSteps u) = getF F.ERR_CLASS_COUNT_COUNT [2] u :=
      noteSteps_getF u fun q _ => by simp [regOff, regDesc, dimOff]; omega
    refine grew_congr (powerEvent_counts St.ok 2 9 v) hcls.symm (hnote.trans ?_)
    rw [hu]

/-- The power step falls. -/
theorem stepsDown_spec (s : State) : let t := noteSteps (setF F.BC_THROTTLE_POWER_STEP [] (getF F.BC_THROTTLE_POWER_STEP [] s - 1) s)
    getF F.BC_THROTTLE_POWER_STEP [] t = getF F.BC_THROTTLE_POWER_STEP [] s - 1 ∧ ClusterSteps (getF F.BC_THROTTLE_POWER_STEP [] s - 1) t ∧
      Touches [.regs] (fun o => IsThrottle o ∨ InClusterRegs o) s t := by
  intro t
  have hlt : getF F.BC_THROTTLE_POWER_STEP [] s < 16 := bits_lt ..
  obtain ⟨h1, -, h3⟩ := noted_throttle (u := setF F.BC_THROTTLE_POWER_STEP [] (getF F.BC_THROTTLE_POWER_STEP [] s - 1) s)
    (getF_setF_of_lt (by decide) (by decide) (by simp; omega))
  exact ⟨h1, h3, ((setF_touches F.BC_THROTTLE_POWER_STEP [] _ s).mono (by decide) fun _ => Or.inl).trans
    ((noteSteps_touches _).mono (by decide) fun _ => Or.inr)⟩

/-! The caps of DDR5. -/

/-- The cap in force. -/
theorem noteCaps_spec (s : State) : Touches [.regs] IsThrottle s (noteCaps s) ∧
    getF F.BC_THROTTLE_DDR_CAP [] (noteCaps s) = max s.bc.powerCap (max s.bc.memCap (if s.bc.dimmCap then 2 else 0)) % 4 ∧
    getF F.BC_THROTTLE_POWER_STEP [] (noteCaps s) = getF F.BC_THROTTLE_POWER_STEP [] s ∧
    getF F.BC_THROTTLE_EVENTS [] (noteCaps s) = getF F.BC_THROTTLE_EVENTS [] s :=
  ⟨setF_touches F.BC_THROTTLE_DDR_CAP [] _ s, getF_setF_same _ _ _ _ (by decide) (by decide),
    getF_setF_beside (f := F.BC_THROTTLE_DDR_CAP) (g := F.BC_THROTTLE_POWER_STEP) _ _ _ rfl (by decide) (by decide) (by decide),
    getF_setF_beside (f := F.BC_THROTTLE_DDR_CAP) (g := F.BC_THROTTLE_EVENTS) _ _ _ rfl (by decide) (by decide) (by decide)⟩

/-- A cap of DDR5 that changes from `s` to `u`, and what the throttle register then says. -/
theorem capped_spec {c : Nat} {u : State} (hu : Touches [.regs, .bc] IsThrottle s u) (hb : u.bc = { s.bc with powerCap := c })
    (hp : getF F.BC_THROTTLE_POWER_STEP [] u = getF F.BC_THROTTLE_POWER_STEP [] s) :
    (noteCaps u).bc = { s.bc with powerCap := c } ∧
      getF F.BC_THROTTLE_DDR_CAP [] (noteCaps u) = max c (max s.bc.memCap (if s.bc.dimmCap then 2 else 0)) % 4 ∧
      getF F.BC_THROTTLE_POWER_STEP [] (noteCaps u) = getF F.BC_THROTTLE_POWER_STEP [] s ∧ Only [.regs, .bc] s (noteCaps u) ∧
      RegsOnly [(.BC_THROTTLE, [])] s (noteCaps u) := by
  obtain ⟨h1, h2, h3, -⟩ := noteCaps_spec u
  have ht : Touches [.regs, .bc] IsThrottle s (noteCaps u) := hu.trans (h1.mono (by decide) fun _ => id)
  refine ⟨Eq.trans (h1.only.2 .bc (by decide)) hb, ?_, h3.trans hp, ht.only, regsOnly_of_touches_one ht⟩
  rw [h2, hb]

theorem powerCapped_touches (c : Nat) (s : State) : Touches [.regs, .bc] IsThrottle s (powerCapped c s) := (Touches.refl _ _ s).withBc

/-- The cap rises. -/
theorem capsUp_spec (c : Nat) (s : State) (u : State) (hu : u = addF F.BC_THROTTLE_EVENTS [] 1 (powerCapped c s)) :
    Touches [.regs, .bc] IsThrottle s u ∧ u.bc = { s.bc with powerCap := c } ∧
    getF F.BC_THROTTLE_POWER_STEP [] u = getF F.BC_THROTTLE_POWER_STEP [] s ∧ Grew F.BC_THROTTLE_EVENTS [] 1 s (noteCaps u) := by
  have ht := powerCapped_touches c s
  have hb : (powerCapped c s).bc = { s.bc with powerCap := c } := rfl
  have hr : (powerCapped c s).regs = s.regs := rfl
  generalize powerCapped c s = v at ht hb hr hu
  subst hu
  refine ⟨ht.addF rfl, (addF_bc ..).trans hb, ?_, ?_⟩
  · exact (getF_addF_beside (f := F.BC_THROTTLE_EVENTS) (g := F.BC_THROTTLE_POWER_STEP) _ _ _ rfl (by decide) (by decide) (by decide)).trans
      (getF_congr _ _ hr)
  · exact grew_congr (grew_addF F.BC_THROTTLE_EVENTS [] 1 v (by decide) (by decide)) (getF_congr _ _ hr).symm (noteCaps_spec _).2.2.2

end

end Sys2Proof.Machine
end

section
/-! Thermal limits (R442). -/

namespace Sys2Proof.Machine

open Sys2Proof

/-! The hottest die. -/

theorem le_foldl_max (l : List Nat) (a : Nat) : a ≤ l.foldl max a ∧ ∀ x ∈ l, x ≤ l.foldl max a := by
  induction l generalizing a with
  | nil => exact ⟨le_rfl, fun _ h => absurd h List.not_mem_nil⟩
  | cons b l ih =>
    obtain ⟨h1, h2⟩ := ih (max a b)
    refine ⟨le_trans (le_max_left a b) h1, fun x hx => ?_⟩
    obtain rfl | hx := List.mem_cons.1 hx
    · exact le_trans (le_max_right a x) h1
    · exact h2 x hx

theorem foldl_max_mem (l : List Nat) (a : Nat) : l.foldl max a = a ∨ l.foldl max a ∈ l := by
  induction l generalizing a with
  | nil => exact Or.inl rfl
  | cons b l ih =>
    obtain h | h := ih (max a b)
    · rw [List.foldl_cons, h]
      obtain hab | hab := le_total a b
      · exact Or.inr (by rw [max_eq_right hab]; exact List.mem_cons_self)
      · exact Or.inl (max_eq_left hab)
    · exact Or.inr (List.mem_cons_of_mem b h)

/-- The largest of some readings is one of them. -/
theorem top_mem {l : List Nat} (h : l ≠ []) : l.foldl max 0 ∈ l := by
  obtain h0 | hm := foldl_max_mem l 0
  · obtain ⟨x, hx⟩ := List.exists_mem_of_ne_nil l h
    have hle := (le_foldl_max l 0).2 x hx
    rw [h0] at hle ⊢
    rwa [Nat.le_zero.1 hle] at hx
  · exact hm

/-- The first of the hottest. -/
theorem indexOf_top {l : List Nat} (h : l ≠ []) : ∃ i, indexOf l (l.foldl max 0) = some i ∧ i < l.length ∧
    l.getD i 0 = l.foldl max 0 ∧ ∀ j, j < i → l.getD j 0 < l.foldl max 0 := by
  have hall := (le_foldl_max l 0).2
  have hmem := top_mem h
  generalize l.foldl max 0 = top at hall hmem
  obtain ⟨as, bs, rfl, hn⟩ := List.eq_append_cons_of_mem hmem
  refine ⟨as.length, ?_, by simp, by simp, fun j hj => ?_⟩
  · rw [indexOf, findIdxFrom_first (p := fun y => decide (y = top)) (fun x hx => decide_eq_false fun e => hn (e ▸ hx)) (decide_eq_true rfl),
      Nat.zero_add]
  · have hget : (as ++ top :: bs).getD j 0 = as[j] := by simp [List.getD, List.getElem?_append_left hj, List.getElem?_eq_getElem hj]
    rw [hget]
    exact lt_of_le_of_ne (hall _ (List.mem_append_left _ (List.getElem_mem hj))) fun e => hn (e ▸ List.getElem_mem hj)

/-! The compute dies. -/

/-- A compute die's thermal step after a reading of `c`, and how long it has been cool. -/
def dieStep (c old cool : Nat) : Nat := if 105 < c then 9 else if 95 ≤ c then min 9 (old + 1) else if 9 ≤ cool then old - 1 else old

def dieCool (c cool : Nat) : Nat := if 95 ≤ c ∨ 9 ≤ cool then 0 else cool + 1

/-- A die's step and count are put. -/
def putDie (d step cool : Nat) (s : State) : State :=
  { s with bc := { s.bc with thermal := tset 0 s.bc.thermal d step, coolFor := tset 0 s.bc.coolFor d cool } }

/-- The parts of the state that a thermal reading touches. -/
abbrev thermalParts : List Part := eventParts ++ [.bc]

theorem putDie_touches (d step cool : Nat) (s : State) : Touches thermalParts InErrors s (putDie d step cool s) := (Touches.refl _ _ s).withBc

theorem power_thermal (status cls step : Nat) (s : State) : Touches thermalParts InErrors s (powerEvent status cls step s) :=
  (powerEvent_touches ..).mono (by decide) fun _ => id

theorem thermalDie_eq (d c : Nat) (s : State) : thermalDie d c s =
    if c < 95 then (if 9 ≤ tget 0 s.bc.coolFor d then putDie d (tget 0 s.bc.thermal d - 1) 0 s
      else putDie d (tget 0 s.bc.thermal d) (tget 0 s.bc.coolFor d + 1) s)
    else if c ≤ 105 then
      (if tget 0 s.bc.thermal d = 8 then powerEvent St.ok 2 9 (putDie d (min 9 (tget 0 s.bc.thermal d + 1)) 0 s)
       else putDie d (min 9 (tget 0 s.bc.thermal d + 1)) 0 s)
    else (if tget 0 s.bc.thermal d < 9 then powerEvent St.ok 2 9 (putDie d 9 0 s) else putDie d 9 0 s) := rfl

/-- A reading puts the die's step and count, and may raise an event. -/
theorem thermalDie_spec (d c : Nat) (s : State) : Touches thermalParts InErrors s (thermalDie d c s) ∧
    (thermalDie d c s).bc = (putDie d (dieStep c (tget 0 s.bc.thermal d) (tget 0 s.bc.coolFor d)) (dieCool c (tget 0 s.bc.coolFor d)) s).bc := by
  have hput := putDie_touches d
  have hev : ∀ step cool, Touches thermalParts InErrors s (powerEvent St.ok 2 9 (putDie d step cool s)) ∧
      (powerEvent St.ok 2 9 (putDie d step cool s)).bc = (putDie d step cool s).bc := fun step cool =>
    ⟨(hput step cool s).trans (power_thermal ..), (powerEvent_touches ..).only.2 .bc (by decide)⟩
  generalize hold : tget 0 s.bc.thermal d = old at *
  generalize hcool : tget 0 s.bc.coolFor d = cool at *
  rw [thermalDie_eq, hold, hcool]
  by_cases h1 : c < 95
  · rw [if_pos h1]
    have h105 : ¬ 105 < c := by omega
    have h95 : ¬ 95 ≤ c := by omega
    by_cases h2 : 9 ≤ cool
    · rw [if_pos h2, dieStep, if_neg h105, if_neg h95, if_pos h2, dieCool, if_pos (Or.inr h2)]
      exact ⟨hput .., rfl⟩
    · rw [if_neg h2, dieStep, if_neg h105, if_neg h95, if_neg h2, dieCool, if_neg (not_or.2 ⟨h95, h2⟩)]
      exact ⟨hput .., rfl⟩
  · have h95 : 95 ≤ c := not_lt.1 h1
    rw [if_neg h1, dieCool, if_pos (Or.inl h95)]
    by_cases h2 : c ≤ 105
    · rw [if_pos h2, dieStep, if_neg (not_lt.2 h2), if_pos h95]
      by_cases h3 : old = 8
      · rw [if_pos h3]
        exact hev ..
      · rw [if_neg h3]
        exact ⟨hput .., rfl⟩
    · rw [if_neg h2, dieStep, if_pos (not_le.1 h2)]
      by_cases h3 : old < 9
      · rw [if_pos h3]
        exact hev ..
      · rw [if_neg h3]
        exact ⟨hput .., rfl⟩

/-- What the readings of dies `0` to `n - 1` keep. -/
theorem thermalDies_spec (dies : List Nat) (n : Nat) (s : State) : let t := forN n s (fun d s => thermalDie d (dies.getD d 0) s)
    Touches thermalParts InErrors s t ∧ t.bc = { s.bc with thermal := t.bc.thermal, coolFor := t.bc.coolFor } ∧
    ∀ d, tget 0 t.bc.thermal d =
        (if d < n then dieStep (dies.getD d 0) (tget 0 s.bc.thermal d) (tget 0 s.bc.coolFor d) else tget 0 s.bc.thermal d) ∧
      tget 0 t.bc.coolFor d = (if d < n then dieCool (dies.getD d 0) (tget 0 s.bc.coolFor d) else tget 0 s.bc.coolFor d) := by
  induction n with
  | zero => exact ⟨Touches.refl _ _ s, rfl, fun d => ⟨(if_neg (Nat.not_lt_zero d)).symm, (if_neg (Nat.not_lt_zero d)).symm⟩⟩
  | succ n ih =>
    intro t
    have hstep : t = thermalDie n (dies.getD n 0) (forN n s fun d s => thermalDie d (dies.getD d 0) s) := forN_succ ..
    clear_value t
    generalize (forN n s fun d s => thermalDie d (dies.getD d 0) s) = u at ih hstep
    obtain ⟨hu, hb, hd⟩ := ih
    obtain ⟨ht, htb⟩ := thermalDie_spec n (dies.getD n 0) u
    rw [← hstep] at ht htb
    obtain ⟨hn1, hn2⟩ := hd n
    rw [if_neg (lt_irrefl n)] at hn1 hn2
    rw [hn1, hn2] at htb
    have hth : t.bc.thermal = tset 0 u.bc.thermal n (dieStep (dies.getD n 0) (tget 0 s.bc.thermal n) (tget 0 s.bc.coolFor n)) :=
      congrArg Basecamp.thermal htb
    have hco : t.bc.coolFor = tset 0 u.bc.coolFor n (dieCool (dies.getD n 0) (tget 0 s.bc.coolFor n)) := congrArg Basecamp.coolFor htb
    refine ⟨hu.trans ht, ?_, fun d => ?_⟩
    · rw [hth, hco, htb, putDie]
      dsimp only
      rw [hb]
    · rw [hth, hco]
      by_cases h : d = n
      · subst h
        rw [tget_tset_same, tget_tset_same, if_pos (Nat.lt_succ_self d), if_pos (Nat.lt_succ_self d)]
        exact ⟨rfl, rfl⟩
      · have hiff : d < n + 1 ↔ d < n := by omega
        rw [tget_tset_other _ _ _ _ h, tget_tset_other _ _ _ _ h]
        simp only [hiff]
        exact hd d

theorem warmDie_touches (d c : Nat) (notice : Bool) (s : State) : Touches eventParts InErrors s (warmDie d c notice s) := by
  unfold warmDie
  split
  · exact raiseEvent_touches ..
  · exact Touches.refl _ _ s

end Sys2Proof.Machine
end

section
/-! A thermal sample, and a thermal trip (R442). -/

namespace Sys2Proof.Machine

open Sys2Proof

/-! The readings. -/

/-- The thermal register. -/
abbrev IsThermal (o : Nat) : Prop := o = regOff .BC_THERMAL []

/-- The hottest reading, the hottest module and the hottest die are put. -/
def readingsPut (top dimm die : Nat) (s : State) : State :=
  setF F.BC_THERMAL_JMAX [] top (setF F.BC_THERMAL_DIMM_MAX [] dimm (setF F.BC_THERMAL_HOT_DIE [] die s))

/-- A reading above 105 °C is latched. -/
def hotLatched (top : Nat) (s : State) : State := if 105 < top then setF F.BC_THERMAL_HOT [] 1 s else s

/-- The readings are noted. -/
abbrev readingsNoted (dies : List Nat) (dimm : Nat) (s : State) : State :=
  hotLatched (dies.foldl max 0) (readingsPut (dies.foldl max 0) dimm ((indexOf dies (dies.foldl max 0)).getD 0) s)

theorem readingsPut_touches (top dimm die : Nat) (s : State) : Touches [.regs] IsThermal s (readingsPut top dimm die s) :=
  ((setF_touches F.BC_THERMAL_HOT_DIE [] die s).trans (setF_touches F.BC_THERMAL_DIMM_MAX [] dimm _)).trans
    (setF_touches F.BC_THERMAL_JMAX [] top _)

theorem hotLatched_touches (top : Nat) (s : State) : Touches [.regs] IsThermal s (hotLatched top s) := by
  unfold hotLatched
  split
  · exact setF_touches F.BC_THERMAL_HOT [] 1 s
  · exact Touches.refl _ _ s

section
variable {dies : List Nat} {dimm : Nat}

theorem readingsNoted_touches (s : State) : Touches [.regs] IsThermal s (readingsNoted dies dimm s) :=
  (readingsPut_touches ..).trans (hotLatched_touches ..)

theorem readingsPut_reads {top dimm die : Nat} (ht : top < 256) (hm : dimm < 256) (hd : die < 16) (s : State) :
    getF F.BC_THERMAL_JMAX [] (readingsPut top dimm die s) = top ∧ getF F.BC_THERMAL_DIMM_MAX [] (readingsPut top dimm die s) = dimm ∧
    getF F.BC_THERMAL_HOT_DIE [] (readingsPut top dimm die s) = die := by
  refine ⟨getF_setF_of_lt (by decide) (by decide) (by simpa using ht), ?_, ?_⟩
  · exact (getF_setF_beside (f := F.BC_THERMAL_JMAX) (g := F.BC_THERMAL_DIMM_MAX) _ _ _ rfl (by decide) (by decide) (by decide)).trans
      (getF_setF_of_lt (by decide) (by decide) (by simpa using hm))
  · exact (getF_setF_beside (f := F.BC_THERMAL_JMAX) (g := F.BC_THERMAL_HOT_DIE) _ _ _ rfl (by decide) (by decide) (by decide)).trans
      ((getF_setF_beside (f := F.BC_THERMAL_DIMM_MAX) (g := F.BC_THERMAL_HOT_DIE) _ _ _ rfl (by decide) (by decide) (by decide)).trans
        (getF_setF_of_lt (by decide) (by decide) (by simpa using hd)))

/-- The fields above those of the readings. -/
theorem readingsPut_beside {g : Fld} (hr : g.reg = .BC_THERMAL) (hg : 27 < g.lo) (top dimm die : Nat) (s : State) :
    getF g [] (readingsPut top dimm die s) = getF g [] s :=
  (getF_setF_beside (f := F.BC_THERMAL_JMAX) _ _ _ hr (by decide) (by decide) (Or.inl (lt_trans (by decide) hg))).trans
    ((getF_setF_beside (f := F.BC_THERMAL_DIMM_MAX) _ _ _ hr (by decide) (by decide) (Or.inl (lt_trans (by decide) hg))).trans
      (getF_setF_beside (f := F.BC_THERMAL_HOT_DIE) _ _ _ hr (by decide) (by decide) (Or.inl hg)))

theorem hotLatched_beside {g : Fld} (hr : g.reg = .BC_THERMAL) (hg : 32 < g.lo ∨ g.hi < 32) (top : Nat) (s : State) :
    getF g [] (hotLatched top s) = getF g [] s := by
  unfold hotLatched
  split
  · exact getF_setF_beside (f := F.BC_THERMAL_HOT) _ _ _ hr (by decide) (by decide) hg
  · rfl

theorem hotLatched_hot (top : Nat) (s : State) :
    getF F.BC_THERMAL_HOT [] (hotLatched top s) = if 105 < top then 1 else getF F.BC_THERMAL_HOT [] s := by
  unfold hotLatched
  split
  · exact getF_setF_same _ _ _ _ (by decide) (by decide)
  · rfl

/-- What the thermal register says of the readings. -/
theorem readingsNoted_reads (hlen : dies.length = 13) (hd : ∀ t ∈ dies, t < 256) (hm : dimm < 256) (s : State) :
    getF F.BC_THERMAL_JMAX [] (readingsNoted dies dimm s) = dies.foldl max 0 ∧
    getF F.BC_THERMAL_DIMM_MAX [] (readingsNoted dies dimm s) = dimm ∧
    (dies.getD (getF F.BC_THERMAL_HOT_DIE [] (readingsNoted dies dimm s)) 0 = dies.foldl max 0 ∧
      ∀ i, i < getF F.BC_THERMAL_HOT_DIE [] (readingsNoted dies dimm s) → dies.getD i 0 < dies.foldl max 0) ∧
    getF F.BC_THERMAL_HOT [] (readingsNoted dies dimm s) = (if 105 < dies.foldl max 0 then 1 else getF F.BC_THERMAL_HOT [] s) ∧
    getF F.BC_THERMAL_TRIPS [] (readingsNoted dies dimm s) = getF F.BC_THERMAL_TRIPS [] s := by
  have hne : dies ≠ [] := by
    rintro rfl
    exact absurd hlen (by decide)
  obtain ⟨i, hi, hlt, hget, hfirst⟩ := indexOf_top hne
  have htop := hd _ (top_mem hne)
  obtain ⟨h1, h2, h3⟩ := readingsPut_reads htop hm (lt_of_lt_of_le hlt (by omega)) s
  have hhot := readingsPut_beside (g := F.BC_THERMAL_HOT) rfl (by decide) (dies.foldl max 0) dimm i s
  have htrips := readingsPut_beside (g := F.BC_THERMAL_TRIPS) rfl (by decide) (dies.foldl max 0) dimm i s
  rw [readingsNoted, hi, Option.getD_some]
  generalize readingsPut (dies.foldl max 0) dimm i s = u at h1 h2 h3 hhot htrips
  rw [hotLatched_beside (g := F.BC_THERMAL_JMAX) rfl (by decide), hotLatched_beside (g := F.BC_THERMAL_DIMM_MAX) rfl (by decide),
    hotLatched_beside (g := F.BC_THERMAL_HOT_DIE) rfl (by decide), hotLatched_beside (g := F.BC_THERMAL_TRIPS) rfl (by decide),
    hotLatched_hot, h3, hhot]
  exact ⟨h1, h2, ⟨hget, hfirst⟩, rfl, htrips⟩

end

/-! The steps and caps that follow. -/

/-- The dies' steps after the readings, and the records of those that are warm. -/
def diesNoted (dies : List Nat) (notice : Bool) (s : State) : State :=
  forN 13 (forN 8 s (fun d s => thermalDie d (dies.getD d 0) s)) (fun d s => warmDie d (dies.getD d 0) notice s)

/-- The caps of memory and modules are put. -/
abbrev capsPut (memCap : Nat) (dimmCap : Bool) (s : State) : State := { s with bc := { s.bc with memCap := memCap, dimmCap := dimmCap } }

/-- The cap of hot memory dies. -/
abbrev memCapOf (dies : List Nat) : Nat := if decide (105 < dies.getD 8 0 ∨ 105 < dies.getD 9 0) then 3 else 0

/-- Everything a sample notes, before a trip. -/
def sampleNoted (dies : List Nat) (dimm : Nat) (notice : Bool) (s : State) : State :=
  noteSteps (noteCaps (capsPut (memCapOf dies) (decide (95 < dimm)) (diesNoted dies notice (readingsNoted dies dimm s))))

/-- The condition of a trip. -/
abbrev Trips (dies : List Nat) (sustained : Bool) : Prop :=
  (sustained = true ∧ 110 < dies.foldl max 0) ∨ 115 < dies.foldl max 0

theorem thermalSample_eq (dies : List Nat) (dimm : Nat) (sustained notice : Bool) (s : State) :
    thermalSample dies dimm sustained notice s =
      if Trips dies sustained then thermalTrip (sampleNoted dies dimm notice s) else sampleNoted dies dimm notice s := rfl

section
variable {dies : List Nat} {dimm : Nat} {notice : Bool} {s : State}

/-- The dies' steps, and what else of the basecamp they leave. -/
theorem diesNoted_spec (dies : List Nat) (notice : Bool) (s : State) : Touches thermalParts InErrors s (diesNoted dies notice s) ∧
    (diesNoted dies notice s).bc = { s.bc with thermal := (diesNoted dies notice s).bc.thermal, coolFor := (diesNoted dies notice s).bc.coolFor } ∧
    ∀ d < 8, tget 0 (diesNoted dies notice s).bc.thermal d = dieStep (dies.getD d 0) (tget 0 s.bc.thermal d) (tget 0 s.bc.coolFor d) ∧
      tget 0 (diesNoted dies notice s).bc.coolFor d = dieCool (dies.getD d 0) (tget 0 s.bc.coolFor d) := by
  obtain ⟨hu, hb, hd⟩ := thermalDies_spec dies 8 s
  unfold diesNoted
  generalize (forN 8 s fun d s => thermalDie d (dies.getD d 0) s) = u at hu hb hd
  have hw : Touches eventParts InErrors u (forN 13 u fun d s => warmDie d (dies.getD d 0) notice s) :=
    (Touches.refl _ _ u).forN fun d _ v => warmDie_touches ..
  have hbc : (forN 13 u fun d s => warmDie d (dies.getD d 0) notice s).bc = u.bc := hw.only.2 .bc (by decide)
  rw [hbc]
  refine ⟨hu.trans (hw.mono (by decide) fun _ => id), hb, fun d hlt => ?_⟩
  obtain ⟨h1, h2⟩ := hd d
  rw [if_pos hlt] at h1 h2
  exact ⟨h1, h2⟩

/-- The registers that a sample writes beside the thermal one. -/
abbrev IsSampleReg (o : Nat) : Prop := InErrors o ∨ IsThrottle o ∨ InClusterRegs o

/-- From the readings to the steps: what a sample leaves of the thermal register. -/
theorem sampleNoted_touches (s : State) : Touches thermalParts IsSampleReg (readingsNoted dies dimm s) (sampleNoted dies dimm notice s) := by
  unfold sampleNoted
  generalize readingsNoted dies dimm s = u
  have hd : Touches thermalParts IsSampleReg u (capsPut (memCapOf dies) (decide (95 < dimm)) (diesNoted dies notice u)) :=
    Touches.withBc ((diesNoted_spec dies notice u).1.mono (by decide) fun _ => Or.inl)
  generalize capsPut (memCapOf dies) (decide (95 < dimm)) (diesNoted dies notice u) = v at hd ⊢
  exact (hd.trans ((noteCaps_spec v).1.mono (by decide) fun _ h => Or.inr (Or.inl h))).trans
    ((noteSteps_touches _).mono (by decide) fun _ h => Or.inr (Or.inr h))

/-- No register of a sample but the thermal one. -/
theorem thermal_beside_sample : ¬ IsSampleReg (regOff .BC_THERMAL []) := by decide

theorem capsPut_bc (m : Nat) (d : Bool) (u : State) : (capsPut m d u).bc = { u.bc with memCap := m, dimmCap := d } := rfl

theorem capsPut_regs (m : Nat) (d : Bool) (u : State) : (capsPut m d u).regs = u.regs := rfl

/-- The dies' steps, the clusters' steps and the caps after a sample. -/
theorem sampleNoted_spec (dies : List Nat) (dimm : Nat) (notice : Bool) (s : State) : let t := sampleNoted dies dimm notice s
    (∀ d < 8, tget 0 t.bc.thermal d = dieStep (dies.getD d 0) (tget 0 s.bc.thermal d) (tget 0 s.bc.coolFor d) ∧
      tget 0 t.bc.coolFor d = dieCool (dies.getD d 0) (tget 0 s.bc.coolFor d)) ∧
    ClusterSteps (getF F.BC_THROTTLE_POWER_STEP [] s) t ∧ t.bc.memCap = memCapOf dies ∧ t.bc.dimmCap = decide (95 < dimm) ∧
    getF F.BC_THROTTLE_DDR_CAP [] t = max s.bc.powerCap (max t.bc.memCap (if t.bc.dimmCap then 2 else 0)) % 4 ∧
    getF F.BC_THROTTLE_POWER_STEP [] t = getF F.BC_THROTTLE_POWER_STEP [] s := by
  intro t
  have ht : t = noteSteps (noteCaps (capsPut (memCapOf dies) (decide (95 < dimm)) (diesNoted dies notice (readingsNoted dies dimm s)))) := rfl
  clear_value t
  have hr := readingsNoted_touches (dies := dies) (dimm := dimm) s
  have hrb : (readingsNoted dies dimm s).bc = s.bc := hr.only.2 .bc (by decide)
  have hrp : getF F.BC_THROTTLE_POWER_STEP [] (readingsNoted dies dimm s) = getF F.BC_THROTTLE_POWER_STEP [] s := hr.getF_eq (by decide)
  generalize readingsNoted dies dimm s = u at hrb hrp ht
  obtain ⟨hd, hdb, hsteps⟩ := diesNoted_spec dies notice u
  have hdp : getF F.BC_THROTTLE_POWER_STEP [] (diesNoted dies notice u) = getF F.BC_THROTTLE_POWER_STEP [] u := hd.getF_eq (by decide)
  generalize diesNoted dies notice u = v at hdb hsteps hdp ht
  have hvb := capsPut_bc (memCapOf dies) (decide (95 < dimm)) v
  have hvr := capsPut_regs (memCapOf dies) (decide (95 < dimm)) v
  generalize capsPut (memCapOf dies) (decide (95 < dimm)) v = w at hvb hvr ht
  obtain ⟨hn, hcap, hnp, -⟩ := noteCaps_spec w
  have hnb : (noteCaps w).bc = w.bc := hn.only.2 .bc (by decide)
  have hp : getF F.BC_THROTTLE_POWER_STEP [] (noteCaps w) = getF F.BC_THROTTLE_POWER_STEP [] s :=
    hnp.trans ((getF_congr _ _ hvr).trans (hdp.trans hrp))
  obtain ⟨h1, -, h3⟩ := noted_throttle hp
  have htb : t.bc = w.bc := by rw [ht, noteSteps_bc, hnb]
  have hpc : v.bc.powerCap = s.bc.powerCap := by rw [hdb, hrb]
  have hwp : w.bc.powerCap = s.bc.powerCap := by rw [hvb]; exact hpc
  have hwm : w.bc.memCap = memCapOf dies := congrArg Basecamp.memCap hvb
  have hwd : w.bc.dimmCap = decide (95 < dimm) := congrArg Basecamp.dimmCap hvb
  have hwt : w.bc.thermal = v.bc.thermal := by rw [hvb]
  have hwc : w.bc.coolFor = v.bc.coolFor := by rw [hvb]
  refine ⟨fun d hlt => ?_, by rw [ht]; exact h3, by rw [htb, hwm], by rw [htb, hwd], ?_, by rw [ht]; exact h1⟩
  · rw [htb, hwt, hwc, ← hrb]
    exact hsteps d hlt
  · rw [htb, ← hwp, ← hcap, ht]
    exact noteSteps_getF _ throttle_beside_clusters

/-! A trip. -/

/-- A register of identity or basecamp that no power state writes is kept. -/
theorem getR_enterStandby_low (cause : Nat) {u : State} {r : Reg} {ix : List Nat} (h : ¬ IsPowerReg (regOff r ix))
    (hlo : regOff r ix < 0x200000) : getR r ix (enterStandby cause u) = getR r ix u := by
  have hk : keptReg (regOff r ix) = true := by simp [keptReg, hlo]
  rw [getR_enterStandby cause u h, if_pos hk]
  exact (stopped_touches cause u).getR_eq (not_le.2 (lt_trans hlo (by decide)))

/-- The host link goes down with the package. -/
theorem linkDown_touches (u : State) : Touches [.regs] (fun o => o = regOff .ID_HOST_LINK []) u (linkDown u) := (Touches.refl _ _ u).setR rfl

/-- The package is without power, and the host link down. -/
theorem unplugged_spec (cause : Nat) (u : State) : Unpowered (linkDown (enterStandby cause u)) ∧
    deviceState (linkDown (enterStandby cause u)) = Dv.standby ∧ getR .ID_HOST_LINK [] (linkDown (enterStandby cause u)) = 0 := by
  have ht := linkDown_touches (enterStandby cause u)
  refine ⟨Unpowered_of_only (ht.only.mono (by decide)) (enterStandby_unpowered cause u), ?_, getR_setR_same ..⟩
  exact (ht.getF_eq (by decide)).trans (enterStandby_deviceState cause u)

/-- The pin of a trip. -/
abbrev tripped (u : State) : State := { u with pins := { u.pins with thermTrip := true } }

theorem thermalTrip_eq (u : State) :
    thermalTrip u = addF F.BC_THERMAL_TRIPS [] 1 (tripped (linkDown (enterStandby 1 (powerEvent St.ok 4 9 u)))) := rfl

theorem thermalTrip_spec (u : State) : deviceState (thermalTrip u) = Dv.standby ∧ Unpowered (thermalTrip u) ∧
    (thermalTrip u).pins.thermTrip = true ∧ getR .ID_HOST_LINK [] (thermalTrip u) = 0 ∧ Grew F.BC_THERMAL_TRIPS [] 1 u (thermalTrip u) ∧
    getF F.BC_THERMAL_JMAX [] (thermalTrip u) = getF F.BC_THERMAL_JMAX [] u := by
  rw [thermalTrip_eq]
  have hev : getR .BC_THERMAL [] (powerEvent St.ok 4 9 u) = getR .BC_THERMAL [] u := (powerEvent_touches ..).getR_eq (by decide)
  generalize powerEvent St.ok 4 9 u = v at hev
  obtain ⟨hun, hdev, hlink⟩ := unplugged_spec 1 v
  have hth : getR .BC_THERMAL [] (linkDown (enterStandby 1 v)) = getR .BC_THERMAL [] u :=
    ((linkDown_touches _).getR_eq (by decide)).trans ((getR_enterStandby_low 1 (by decide) (by decide)).trans hev)
  generalize linkDown (enterStandby 1 v) = w at hun hdev hlink hth
  have hpins : Touches [.regs, .pins] IsThermal w (tripped w) := (Touches.refl _ _ w).withPins
  have hw : Touches [.regs, .pins] IsThermal w (addF F.BC_THERMAL_TRIPS [] 1 (tripped w)) := hpins.addF rfl
  have hr : (tripped w).regs = w.regs := rfl
  have hpin : (addF F.BC_THERMAL_TRIPS [] 1 (tripped w)).pins.thermTrip = true := congrArg Pins.thermTrip (addF_pins ..)
  refine ⟨(hw.getF_eq (by decide)).trans hdev, Unpowered_of_only (hw.only.mono (by decide)) hun, hpin, (hw.getR_eq (by decide)).trans hlink, ?_, ?_⟩
  · exact grew_congr (grew_addF F.BC_THERMAL_TRIPS [] 1 _ (by decide) (by decide))
      (by rw [getF_congr _ _ hr, getF, getF]; exact congrArg _ hth.symm) rfl
  · refine (getF_addF_beside (f := F.BC_THERMAL_TRIPS) (g := F.BC_THERMAL_JMAX) _ _ _ rfl (by decide) (by decide) (by decide)).trans ?_
    rw [getF_congr _ _ hr, getF, getF]
    exact congrArg _ hth

end

end Sys2Proof.Machine
end

section
/-! Input power, insertion and PWR_DIS (R443 to R445, R493). -/

namespace Sys2Proof.Machine

open Sys2Proof

section
variable {s v : State}

/-! The module without power. -/

theorem freshDevice_unpowered (stage : Nat) (v : State) : Unpowered (freshDevice stage v) :=
  ⟨rfl, rfl, rfl, rfl, rfl, rfl, rfl, rfl, rfl, rfl, rfl, rfl, rfl, rfl, rfl, rfl, rfl, rfl, rfl, rfl, fun _ hp => keptMem_below v.mem hp⟩

theorem getR_freshDevice (stage : Nat) (v : State) (r : Reg) (ix : List Nat) : getR r ix (freshDevice stage v) = regReset r ix := rfl

theorem freshDevice_mem (stage : Nat) (v : State) : (freshDevice stage v).mem = keptMem v.mem := rfl

theorem freshDevice_bc (stage : Nat) (v : State) : (freshDevice stage v).bc = freshBasecamp v.bc stage := rfl

theorem freshDevice_pins (stage : Nat) (v : State) : (freshDevice stage v).pins =
    { perst := v.pins.perst, pwrDis := v.pins.pwrDis, flashExt := v.pins.flashExt, thermTrip := v.pins.thermTrip } := rfl

theorem freshDevice_rest (stage : Nat) (v : State) :
    (freshDevice stage v).pcie = {} ∧ (freshDevice stage v).msgs = {} ∧ (freshDevice stage v).ports = [] := ⟨rfl, rfl, rfl⟩

/-! The loss. -/

/-- The device is OFF. -/
abbrev turnedOff (v : State) : State := setDeviceState Dv.off (setF F.BC_STATE_BOOT [] 0 v)

theorem turnedOff_touches (v : State) : Touches [.regs] (fun o => o = regOff .BC_STATE []) v (turnedOff v) :=
  (setF_touches F.BC_STATE_BOOT [] 0 v).trans (setF_touches F.BC_STATE_DEVICE [] Dv.off _)

theorem deviceState_turnedOff (v : State) : deviceState (turnedOff v) = Dv.off :=
  getF_setF_same F.BC_STATE_DEVICE [] Dv.off _ (by decide) (by decide)

theorem loseInput_loses (h : v.bc.stage ≠ 0) :
    loseInput v = turnedOff (freshDevice 0 (stopPorts 2 (powerEvent St.ok 4 0 v))) := if_neg h

theorem loseInput_stays (h : v.bc.stage = 0) : loseInput v = v := if_pos h

/-- What is OFF after a state with the basecamp and the flash of `s`. -/
theorem powerLost_of {u : State} (hb : u.bc = s.bc) (hm : MemSame (2 ^ 64) s u) : PowerLost u.pins.pwrDis s (turnedOff (freshDevice 0 u)) := by
  have hun := freshDevice_unpowered 0 u
  have hreg := getR_freshDevice 0 u
  have hmem := freshDevice_mem 0 u
  have hbc := freshDevice_bc 0 u
  have hpins := congrArg Pins.pwrDis (freshDevice_pins 0 u)
  obtain ⟨h1, h2, h3⟩ := freshDevice_rest 0 u
  generalize freshDevice 0 u = w at *
  have ht := turnedOff_touches w
  have htm : (turnedOff w).mem = w.mem := ht.only.2 .mem (by decide)
  have htb : (turnedOff w).bc = w.bc := ht.only.2 .bc (by decide)
  have htp : (turnedOff w).pins = w.pins := ht.only.2 .pins (by decide)
  refine ⟨Unpowered_of_only (ht.only.mono (by decide)) hun, fun p hlo hhi => ?_, deviceState_turnedOff w, fun r ix hne => ?_, ?_, ?_,
    Eq.trans (ht.only.2 .pcie (by decide)) h1, Eq.trans (ht.only.2 .msgs (by decide)) h2, Eq.trans (ht.only.2 .ports (by decide)) h3⟩
  · obtain ⟨hk1, hk2⟩ := keptMem_above u.mem hlo (lt_trans hhi (by decide))
    obtain ⟨hs1, hs2⟩ := hm p hhi
    rw [htm, hmem]
    exact ⟨hk1.trans hs1, hk2.trans hs2⟩
  · exact (ht.getR_eq hne).trans (hreg r ix)
  · rw [htb, hbc, hb]
    rfl
  · rw [htp]
    exact hpins

/-- Input power is lost: what the event and DOWN_NOTICE leave. -/
theorem loseInput_spec (hb : v.bc = s.bc) (hm : v.mem = s.mem) (h : s.bc.stage ≠ 0) : PowerLost v.pins.pwrDis s (loseInput v) := by
  rw [loseInput_loses (by rw [hb]; exact h)]
  have he := powerEvent_touches St.ok 4 0 v
  have heb := powerEvent_below St.ok 4 0 v
  have hbc : (powerEvent St.ok 4 0 v).bc = v.bc := he.only.2 .bc (by decide)
  have hpins : (powerEvent St.ok 4 0 v).pins = v.pins := he.only.2 .pins (by decide)
  generalize powerEvent St.ok 4 0 v = u at heb hbc hpins
  have hs := stopPorts_touches 2 u
  have hsb : (stopPorts 2 u).bc = u.bc := hs.only.2 .bc (by decide)
  have hsm : (stopPorts 2 u).mem = u.mem := hs.only.2 .mem (by decide)
  have hsp : (stopPorts 2 u).pins = u.pins := hs.only.2 .pins (by decide)
  rw [← hpins, ← hsp]
  exact powerLost_of (hsb.trans (hbc.trans hb)) (MemSame_trans (MemSame_of_mem_eq hm) (MemSame_trans heb (MemSame_of_mem_eq hsm)))

/-! Power comes. -/

/-- Power has come over a state with the basecamp and memory of `s`. -/
theorem poweredOn_of (hb : v.bc = s.bc) (hm : v.mem = s.mem) : PoweredOn s.bc.dimms v.pins s (powerOn v) := by
  have hun := freshDevice_unpowered 1 v
  have hreg := getR_freshDevice 1 v
  have hmem := freshDevice_mem 1 v
  have hbc := freshDevice_bc 1 v
  have hpins := freshDevice_pins 1 v
  unfold powerOn
  generalize freshDevice 1 v = w at *
  simp only
  refine ⟨hun, hreg, ?_, ?_, fun p hlo hhi => ?_⟩
  · rw [hbc, hb]
    rfl
  · rw [hpins]
  · rw [hmem, hm]
    exact keptMem_above s.mem hlo hhi

/-- The modules fitted are seen. -/
theorem poweredOn_modules {dimms modules : List (Option Dimm)} {pins : Pins} {t : State} (h : PoweredOn dimms pins s t) :
    PoweredOn modules pins s { t with bc := { t.bc with dimms := modules } } := by
  obtain ⟨h1, h2, h3, h4, h5⟩ := h
  refine ⟨h1, h2, ?_, h4, h5⟩
  rw [h3]

theorem exec_hotSwapOpen (s : State) : exec .hotSwapOpen s = .next (loseInput (Quiet s)) := runIf_holds rfl loseInput s

theorem exec_inputLoss (s : State) : exec .inputLoss s = .next (loseInput (Quiet s)) := runIf_holds rfl loseInput s

/-- PWR_DIS is asserted. -/
abbrev pwrDisSet (b : Bool) (s : State) : State := { Quiet s with pins := { s.pins with pwrDis := b } }

theorem exec_pwrDisAssert (s : State) : exec .pwrDisAssert s = .next (loseInput (pwrDisSet true s)) :=
  runIf_holds rfl (fun s => loseInput { s with pins := { s.pins with pwrDis := true } }) s

theorem exec_inputRestored (h : s.bc.stage = 0) (hp : s.pins.pwrDis = false) : exec .inputRestored s = .next (powerOn (Quiet s)) :=
  runIf_holds (by rw [decide_eq_true h, hp]; rfl) powerOn s

theorem runIf_fails {c : Bool} (h : c = false) (f : State → State) (s : State) : runIf c f s = .next (Quiet s) := by
  rw [runIf, h, if_neg Bool.false_ne_true, Quiet_of_out]

theorem exec_inputRestored_not (h : s.bc.stage ≠ 0 ∨ s.pins.pwrDis = true) : exec .inputRestored s = .next (Quiet s) := by
  refine runIf_fails ?_ powerOn s
  obtain h | h := h
  · rw [decide_eq_false h, Bool.false_and]
  · rw [h, Bool.not_true, Bool.and_false]

theorem exec_pwrDisDeassert (h : s.pins.pwrDis = true) : exec .pwrDisDeassert s = .next (powerOn (pwrDisSet false s)) :=
  runIf_holds h (fun s => powerOn { s with pins := { s.pins with pwrDis := false } }) s

theorem exec_pwrDisDeassert_not (h : s.pins.pwrDis = false) : exec .pwrDisDeassert s = .next (Quiet s) :=
  runIf_fails h (fun s => powerOn { s with pins := { s.pins with pwrDis := false } }) s

/-- Modules are put in a powered state. -/
abbrev modulesPut (modules : List (Option Dimm)) (s : State) : State := { s with bc := { s.bc with dimms := modules } }

theorem exec_insertion {modules : List (Option Dimm)} (hl : modules.length ≤ 24) (h : s.bc.stage ≤ 1) (hp : s.pins.pwrDis = false) :
    exec (.insertion modules) s = .next (modulesPut modules (powerOn (Quiet s))) :=
  runIf_holds (by rw [decide_eq_true hl, decide_eq_true h, hp]; rfl)
    (fun s => let s := powerOn s; { s with bc := { s.bc with dimms := modules } }) s

end

end Sys2Proof.Machine
end

section
/-! The reset of a rope leaves the basecamp (R402). -/

namespace Sys2Proof.Machine

open Sys2Proof

/-! Loops that leave the basecamp. -/

theorem forList_bc {α : Type} {l : List α} {f : α → State → State} (h : ∀ a ∈ l, ∀ s, (f a s).bc = s.bc) (s : State) :
    (forList l s f).bc = s.bc :=
  forList_rel (R := fun a b : State => b.bc = a.bc) (fun _ => rfl) (fun _ _ _ h g => g.trans h) h s

theorem forN_bc {n : Nat} {f : Nat → State → State} (h : ∀ i, i < n → ∀ s, (f i s).bc = s.bc) (s : State) : (forN n s f).bc = s.bc :=
  forN_rel (R := fun a b : State => b.bc = a.bc) (fun _ => rfl) (fun _ _ _ h g => g.trans h) h s

theorem foldE_bc {α : Type} {l : List α} {f : α → State → Except Stop State} (h : ∀ a ∈ l, ∀ s t, f a s = .ok t → t.bc = s.bc)
    {s t : State} (hs : foldE l s f = .ok t) : t.bc = s.bc :=
  foldE_rel (R := fun a b : State => b.bc = a.bc) (fun _ => rfl) (fun _ _ _ h g => g.trans h) h hs

theorem Touches.bc_eq {ps : List Part} {Q : Nat → Prop} {s t : State} (h : Touches ps Q s t) (hp : Part.bc ∉ ps := by decide) : t.bc = s.bc :=
  h.only.2 .bc hp

/-! Exchanges. -/

section
variable (s : State)

theorem voidSave_bc (r : Nat) : (voidSave r s).bc = s.bc := by
  unfold voidSave
  extract_lets k
  split
  · rfl
  · extract_lets spill n
    clear_value spill n
    split
    next ht => exact (wr_touches ht).bc_eq
    · rfl

theorem stopMessages_bc (die : Nat) (p : MsgUnit → Bool) : (stopMessages die p s).bc = s.bc := by
  unfold stopMessages dropInjected
  extract_lets n ids u v
  have hu : u.bc = s.bc := forN_bc (fun _ _ _ => setInQ_bc ..) s
  have hv : v.bc = s.bc := hu
  clear_value v
  exact ((subF_bc ..).trans (modMsgs_bc ..)).trans hv

theorem modExch_bc (die : Nat) (g : BitVec 32) (f : Exch → Exch) : (modExch die g f s).bc = s.bc := modXe_bc ..

theorem noteXe_bc (die : Nat) : (noteXe die s).bc = s.bc := (setF_bc ..).trans (setF_bc ..)

theorem retireTag_bc (die : Nat) (g : BitVec 32) : (retireTag die g s).bc = s.bc := (modMsgs_bc ..).trans (modXe_bc ..)

theorem freeAll_bc {die : Nat} {g : BitVec 32} {s t : State} (h : freeAll die g s = .ok t) : t.bc = s.bc := by
  unfold freeAll at h
  split at h
  · rw [← Except.ok.inj h]
  · extract_lets hs u at h
    have hu : u.bc = s.bc := modExch_bc ..
    clear_value u
    exact (foldE_bc (fun _ _ _ _ hv => (giveBack_touches hv).bc_eq) h).trans hu

theorem cancelExch_bc {die : Nat} {g : BitVec 32} {st : Nat} {s t : State} (h : cancelExch die g st false s = .ok t) : t.bc = s.bc := by
  unfold cancelExch at h
  split at h
  · rw [← Except.ok.inj h]
  next e _ =>
    extract_lets u v w at h
    have hu : u.bc = s.bc := stopMessages_bc ..
    have hw : w.bc = s.bc := ((resolve_touches ..).bc_eq).trans hu
    clear_value w
    split at h
    · exact absurd h (by simp)
    next x hx =>
      rw [← Except.ok.inj h]
      exact (noteXe_bc ..).trans (((retireTag_bc ..).trans (modExch_bc ..)).trans ((freeAll_bc hx).trans hw))

theorem resetExchanges_bc (r : Nat) : (resetExchanges r s).bc = s.bc := by
  refine forN_bc (fun die _ u => ?_) s
  refine (noteXe_bc ..).trans ((modXe_bc ..).trans (forList_bc (fun g _ v => ?_) u))
  split
  next h => exact cancelExch_bc h
  · split
    next h => exact (cancelExch_bc h).trans (modExch_bc ..)
    · rfl

/-! Collectives. -/

theorem noteChan_bc (c : Nat) : (noteChan c s).bc = s.bc := by
  unfold noteChan
  extract_lets k n seq u busy
  have hu : u.bc = s.bc := ((setF_bc ..).trans (setF_bc ..)).trans (setF_bc ..)
  clear_value u
  exact (forN_bc (fun _ _ _ => setF_bc ..) u).trans hu

theorem modRun_bc (c : Nat) (f : CollRun → CollRun) : (modRun c f s).bc = s.bc := modChan_bc ..

theorem dropCollMsgs_bc (c : Nat) : (dropCollMsgs c s).bc = s.bc := (modRun_bc ..).trans (modMsgs_bc ..)

theorem voidOut_bc (r : CollRun) : (voidOut r s).bc = s.bc := by
  unfold voidOut
  extract_lets d off n
  clear_value off n
  split
  · rfl
  · split
    next ht => exact (wr_touches ht).bc_eq
    · rfl

theorem sendCellRank_touches (u : MsgUnit) (r rank kind : Nat) (tag : BitVec 32) (payload : List Byte) (inp : Nat) (s : State) :
    Touches [.regs, .switch, .msgs] InSwitch s (sendCellRank u r rank kind tag payload inp s).2 := by
  unfold sendCellRank sendCellTo
  split
  · exact Touches.refl _ _ s
  · split
    · exact Touches.refl _ _ s
    · simp only
      split
      · exact (Touches.refl _ _ s).withMsgs
      · exact launchCell_touches _ s

theorem sendCollCell_bc (c : Nat) (d : CollDesc) (rank kind : Nat) (payload : List Byte) :
    (sendCollCell c d rank kind payload s).2.bc = s.bc := (sendCellRank_touches ..).bc_eq

/-- Five writes of fields leave the basecamp. -/
theorem setF_bc₅ (f g h i j : Fld) (f' g' h' i' j' : List Nat) (a b c d e : Nat) :
    (setF f f' a (setF g g' b (setF h h' c (setF i i' d (setF j j' e s))))).bc = s.bc :=
  ((((setF_bc ..).trans (setF_bc ..)).trans (setF_bc ..)).trans (setF_bc ..)).trans (setF_bc ..)

/-- The record that an abort leaves in the channel's registers. -/
theorem nameAbort_bc (c : Nat) (a : Nat × Nat × Nat × Nat) :
    (if getF F.COL_CHAN_NAMED_VALID [c] s = 1 then s
      else setF F.COL_CHAN_NAMED_VALID [c] 1 (setF F.COL_CHAN_NAMED_STATUS [c] a.1 (setF F.COL_CHAN_NAMED_LEVEL [c] a.2.1
        (setF F.COL_CHAN_NAMED_POSITION [c] a.2.2.1 (setF F.COL_CHAN_NAMED_RANK [c] a.2.2.2 s))))).bc = s.bc := by
  split
  · rfl
  · exact setF_bc₅ ..

theorem collAbort_bc (c : Nat) (a : Nat × Nat × Nat × Nat) (elem : Nat) : (collAbort c a elem s).bc = s.bc := by
  fun_cases collAbort c a elem s
  · rfl
  · rfl
  · exact (dropCollMsgs_bc ..).trans (modRun_bc ..)
  next r _ _ u v body =>
    have hu : u.bc = s.bc := (voidOut_bc ..).trans ((dropCollMsgs_bc ..).trans (modRun_bc ..))
    have hv : v.bc = u.bc := nameAbort_bc u c a
    clear_value v u
    refine (forN_bc (fun l _ w => ?_) v).trans (hv.trans hu)
    split
    · rfl
    · exact (sendCollCell_bc ..).trans (sendCollCell_bc ..)

theorem cancelColl_bc (c : Nat) : (cancelColl c s).bc = s.bc := by
  unfold cancelColl
  split
  · rfl
  · exact collAbort_bc ..

/-- What a completion writes into the channel's registers of a NaN it names. -/
theorem nameNan_bc (c : Nat) (o : Option CollNote) :
    (match o with
      | none => s
      | some n =>
        if getF F.COL_CHAN_NAN_VALID [c] s = 1 then s
        else setF F.COL_CHAN_NAN_VALID [c] 1 (setF F.COL_CHAN_NAN_ELEMENT [c] n.elem (setF F.COL_CHAN_NAN_ORIGIN_LEVEL [c] n.level
          (setF F.COL_CHAN_NAN_ORIGIN_POSITION [c] n.pos (setF F.COL_CHAN_NAN_ORIGIN_RANK [c] n.rank s))))).bc = s.bc := by
  split
  · rfl
  · split
    · rfl
    · exact setF_bc₅ ..

theorem endColl_bc {c : Nat} {r : CollRun} {s t : State} (h : endColl c r s = .ok t) : t.bc = s.bc := by
  revert h
  fun_cases endColl c r s <;> intro h
  · exact absurd h (by simp)
  next u hu v w x y =>
    have hw : w.bc = s.bc := (addF_bc ..).trans ((setF_bc ..).trans (tryWr_touches hu).bc_eq)
    have hx : x.bc = w.bc := nameNan_bc w c r.nan
    have hy : y.bc = x.bc := by
      unfold y
      clear_value x
      split
      · rfl
      · exact (raiseEvent_touches ..).bc_eq
    clear_value y x w
    rw [← Except.ok.inj h]
    exact ((signalBy_device_touches ..).bc_eq).trans (hy.trans (hx.trans hw))

theorem abortRopeColls_bc (r : Nat) : (abortRopeColls r s).bc = s.bc := by
  refine forN_bc (fun c _ u => ?_) s
  split
  · rfl
  · refine (noteChan_bc ..).trans ((forList_bc (fun d _ v => ?_) _).trans ((modChan_bc ..).trans (cancelColl_bc ..)))
    extract_lets run
    split
    next h => exact endColl_bc h
    · rfl

/-! Pools, composer, lock-step and seals. -/

theorem reclaimRopePools_bc (r : Nat) : (reclaimRopePools r s).bc = s.bc := by
  refine forN_bc (fun p _ u => ?_) s
  split
  · split
    · exact modPool_bc ..
    · extract_lets t
      split
      next h => exact ((drainPool_touches h).bc_eq).trans (modPool_bc ..)
      · exact ((reclaimNow_touches ..).bc_eq).trans (modPool_bc ..)
  · rfl

theorem composerOff_bc (r : Nat) : (composerOff r s).bc = s.bc :=
  (setF_bc ..).trans ((setF_bc ..).trans ((setF_bc ..).trans (modRope_bc ..)))

theorem lockstepOff_bc (r : Nat) : (lockstepOff r s).bc = s.bc := (modLs_bc ..).trans ((setF_bc ..).trans (setF_bc ..))

theorem cancelSeal_bc (r : Nat) : (cancelSeal r s).bc = s.bc := by
  unfold cancelSeal
  split
  · split
    · rfl
    · rfl
  · rfl

/-! The compute state. -/

theorem gateCluster_bc (q : Nat) : (gateCluster q s).bc = s.bc := by
  unfold gateCluster
  extract_lets u v
  have hu : u.bc = s.bc := (freshCluster_touches q s).bc_eq
  clear_value u
  exact (setF_bc ..).trans ((forN_bc (fun _ _ _ => modCore_bc ..) u).trans hu)

theorem dropRopeReads_bc (r : Nat) : (dropRopeReads r s).bc = s.bc := by
  unfold dropRopeReads
  extract_lets u
  have hu : u.bc = s.bc := forList_bc (fun _ _ v => ((dropReads_bc ..).trans (dropReads_bc ..)).trans (dropReads_bc ..)) s
  clear_value u
  exact (forList_bc (fun _ _ v => (dropReads_bc ..).trans (dropReads_bc ..)) u).trans hu

theorem dropRopeSignals_bc (r : Nat) : (dropRopeSignals r s).bc = s.bc := rfl

theorem emptyDieQueues_bc (r : Nat) : (emptyDieQueues r s).bc = s.bc := rfl

theorem clearCompute_bc (r : Nat) : (clearCompute r s).bc = s.bc := by
  unfold clearCompute
  extract_lets k cores u v w x
  have hu : u.bc = s.bc := (dropRopeSignals_bc ..).trans ((emptyDieQueues_bc ..).trans (haltRope_touches ..).bc_eq)
  have hv : v.bc = u.bc := rfl
  have hw : w.bc = s.bc := (forList_bc (fun _ _ _ => modCore_bc ..) _).trans ((dropRopeReads_bc ..).trans (hv.trans hu))
  have hx : x.bc = w.bc := modRope_bc ..
  clear_value x w
  exact (zeroBelays_touches ..).bc_eq.trans ((forList_bc (fun _ _ _ => gateCluster_bc ..) x).trans (hx.trans hw))

theorem dropWaiters_bc (r : Nat) : (dropWaiters r s).bc = s.bc := by
  unfold dropWaiters
  extract_lets k l
  exact (forList_bc (fun w _ u => (completeWaiter_frees w u).bc_eq) _).trans (modRope_bc ..)

/-! Commits. -/

theorem drainPlan_bc (p : Nat) (need : List Nat) : (drainPlan p need s).bc = s.bc := modTables_bc ..

theorem flipPlan_bc (p : Nat) : (flipPlan p s).2.bc = s.bc := by
  unfold flipPlan
  extract_lets b need u job v w
  have hu : u.bc = s.bc := (setPending_touches (i := p) (s := s) 2 false).bc_eq
  have hw : w.bc = u.bc := (modTables_bc ..).trans (drainPlan_bc ..)
  clear_value w u
  split
  · exact hu
  · exact ((setBank_touches (i := p) (s := w) 2 b).bc_eq).trans (hw.trans hu)

theorem flipNow_bc (target i : Nat) : (flipNow target i s).2.bc = s.bc := by
  by_cases h : target < 2
  · exact (flipNow_touches h).bc_eq
  · have he : flipNow target i s = flipPlan i s := by
      unfold flipNow
      split
      · exact absurd (by decide) h
      · exact absurd (by decide) h
      · rfl
    rw [he]
    exact flipPlan_bc ..

theorem commitStatus_bc {c : Commit} {st : Nat} {s t : State} (h : commitStatus c st s = .ok t) : t.bc = s.bc := by
  unfold commitStatus at h
  split at h
  · rw [← Except.ok.inj h]
  · rw [← Except.ok.inj h]
    rfl
  · exact (tryWr_touches h).bc_eq

theorem applyCommit_bc {target i : Nat} {s t : State} (h : applyCommit target i s = .ok t) : t.bc = s.bc := by
  unfold applyCommit at h
  split at h
  · rw [← Except.ok.inj h]
  · have hf := flipNow_bc s target i
    generalize flipNow target i s = x at h hf
    obtain ⟨st, u⟩ := x
    simp -zeta only at h hf
    extract_lets mine back v at h
    have hv : v.bc = s.bc := (modTables_bc ..).trans hf
    clear_value v
    refine (foldE_bc (fun c _ w z hz => ?_) h).trans hv
    split at hz
    · exact absurd hz (by simp)
    next hw =>
      rw [← Except.ok.inj hz]
      exact ((completeWaiter_frees ..).bc_eq).trans (commitStatus_bc hw)

theorem applyCommits_bc {r : Nat} {s t : State} (h : applyCommits r s = .ok t) : t.bc = s.bc := by
  unfold applyCommits at h
  split at h
  · exact absurd h (by simp)
  next hu =>
    split at h
    · exact absurd h (by simp)
    next hv =>
      refine (foldE_bc (fun p _ w z hz => ?_) h).trans ((applyCommit_bc hv).trans (applyCommit_bc hu))
      split at hz
      · exact applyCommit_bc hz
      · rw [← Except.ok.inj hz]

theorem settleReady_bc : (settleReady s).bc = s.bc := by
  unfold settleReady
  split
  next h => exact ((endAccess_touches ..).bc_eq).trans (foldE_bc (fun _ _ _ _ => applyCommits_bc) h)
  · exact (askLender_touches ..).bc_eq
  · rfl

theorem setRopeState_bc (r v : Nat) : (setRopeState r v s).bc = s.bc := setF_bc ..

/-- The record of a stop that a reset ends. -/
theorem stopEvent_bc (r : Nat) (o : Option StopRec) :
    (match o with
      | some sr => raiseEvent { status := St.ok, cls := 0, source := 0x01, rope := some r, detail := (stopBytes sr).take 16 } s
      | none => s).bc = s.bc := by
  cases o with
  | none => rfl
  | some sr => exact (raiseEvent_touches ..).bc_eq

/-! The four parts of a reset. -/

theorem resetUnits_bc (r : Nat) : (abortRopeColls r (resetExchanges r (voidSave r s))).bc = s.bc :=
  (abortRopeColls_bc ..).trans ((resetExchanges_bc ..).trans (voidSave_bc ..))

theorem resetPools_bc (r : Nat) : (composerOff r (if true = true then reclaimRopePools r s else s)).bc = s.bc := by
  rw [if_pos rfl]
  exact (composerOff_bc ..).trans (reclaimRopePools_bc ..)

theorem resetCompute_bc (r : Nat) : (cancelSeal r (lockstepOff r (clearCompute r s))).bc = s.bc :=
  (cancelSeal_bc ..).trans ((lockstepOff_bc ..).trans (clearCompute_bc ..))

theorem resetEnd_bc (r : Nat) : (settleReady (dropWaiters r (setRopeState r RopeSt.ready s))).bc = s.bc :=
  (settleReady_bc ..).trans ((dropWaiters_bc ..).trans (setRopeState_bc s r _))

/-- The reset of a rope leaves the basecamp. -/
theorem resetRope_bc (r : Nat) : (resetRope r s).bc = s.bc := by
  unfold resetRope resetRopeWith
  exact (resetEnd_bc _ r).trans ((stopEvent_bc _ r _).trans ((resetCompute_bc _ r).trans ((resetPools_bc _ r).trans (resetUnits_bc s r))))

end

end Sys2Proof.Machine
end

section
/-! Removal (R447), and the obligation on power states. -/

namespace Sys2Proof.Machine

open Sys2Proof

section
variable {fn : Requester} {s : State}

/-! Removal. -/

/-- Removal has begun. -/
abbrev removing (s : State) : State := { s with bc := { s.bc with removing := true } }

/-- The ropes that exist are reset. -/
abbrev ropesReset (s : State) : State := forList (existing s) s (fun r s => resetRope r s)

theorem startRemoval_starts (h : s.bc.removing = false) : startRemoval s = linkDown (enterStandby 2 (ropesReset (removing s))) := by
  unfold startRemoval
  rw [h]
  rfl

theorem startRemoval_stays (h : s.bc.removing = true) : startRemoval s = s := if_pos h

theorem startRemoval_spec (h : s.bc.removing = false) : (startRemoval s).bc.removing = true ∧ Unpowered (startRemoval s) ∧
    deviceState (startRemoval s) = Dv.standby ∧ getR .ID_HOST_LINK [] (startRemoval s) = 0 := by
  have hb : (ropesReset (removing s)).bc = (removing s).bc := forList_bc (fun r _ u => resetRope_bc u r) _
  have hr : (ropesReset (removing s)).bc.removing = true := congrArg Basecamp.removing hb
  rw [startRemoval_starts h]
  generalize ropesReset (removing s) = u at hr
  obtain ⟨hun, hdev, hlink⟩ := unplugged_spec 2 u
  have hl : (linkDown (enterStandby 2 u)).bc = (enterStandby 2 u).bc := (linkDown_touches _).bc_eq
  refine ⟨?_, hun, hdev, hlink⟩
  rw [hl, enterStandby_bc]
  exact hr

theorem exec_orderlyRemoval (hfn : fnAllowed fn (regOff .BC_CTRL []) s = true) :
    exec (.orderlyRemoval fn) s = .next (startRemoval (Quiet s)) := runIf_holds hfn ..

theorem exec_hotplugAttentionRequest (h : Dv.standby ≤ deviceState s) :
    exec .hotplugAttentionRequest s = .next (startRemoval (Quiet s)) := runIf_holds (decide_eq_true h) ..

/-- The pin and the bit that say a removed device may be pulled. -/
abbrev removeReady (s : State) : State := { Quiet s with pins := { s.pins with removeReady := true } }

theorem exec_removalComplete (h : s.bc.removing = true) :
    exec .removalComplete s = .next (setF F.BC_STATE_REMOVE_READY [] 1 (removeReady s)) :=
  runIf_holds h (fun s => setF F.BC_STATE_REMOVE_READY [] 1 { s with pins := { s.pins with removeReady := true } }) s

theorem exec_removalComplete_not (h : s.bc.removing = false) : exec .removalComplete s = .next (Quiet s) :=
  runIf_fails h (fun s => setF F.BC_STATE_REMOVE_READY [] 1 { s with pins := { s.pins with removeReady := true } }) s

theorem removeReady_spec (s : State) : Only [.regs, .pins] s (setF F.BC_STATE_REMOVE_READY [] 1 (removeReady s)) ∧
    RegsOnly [(.BC_STATE, [])] s (setF F.BC_STATE_REMOVE_READY [] 1 (removeReady s)) ∧
    getF F.BC_STATE_REMOVE_READY [] (setF F.BC_STATE_REMOVE_READY [] 1 (removeReady s)) = 1 ∧
    (setF F.BC_STATE_REMOVE_READY [] 1 (removeReady s)).pins = { s.pins with removeReady := true } ∧
    deviceState (setF F.BC_STATE_REMOVE_READY [] 1 (removeReady s)) = deviceState s := by
  have hu : Touches [.regs, .pins] (fun o => o = regOff .BC_STATE []) s (removeReady s) := (quiet_touches _ _ s).withPins
  have hp : (removeReady s).pins = { s.pins with removeReady := true } := rfl
  have hr : (removeReady s).regs = s.regs := rfl
  generalize removeReady s = u at hu hp hr
  have ht : Touches [.regs, .pins] (fun o => o = regOff .BC_STATE []) s (setF F.BC_STATE_REMOVE_READY [] 1 u) := hu.setF rfl
  refine ⟨ht.only, regsOnly_of_touches_one ht, getF_setF_same _ _ _ _ (by decide) (by decide), (setF_pins ..).trans hp, ?_⟩
  exact (getF_setF_beside (f := F.BC_STATE_REMOVE_READY) (g := F.BC_STATE_DEVICE) _ _ _ rfl (by decide) (by decide) (by decide)).trans
    (getF_congr _ _ hr)

/-! The commands of R433. -/

theorem exec_deviceWakeActive (s : State) : exec .deviceWakeActive s = .next (wakeActive (Quiet s)) := runIf_holds rfl wakeActive s

theorem exec_deviceIdleTimeout (s : State) : exec .deviceIdleTimeout s = .next (idleTimeout (Quiet s)) := runIf_holds rfl idleTimeout s

theorem exec_powerDecision (h : s.bc.stage = 3) : exec .powerDecision s = .next (powerDecide (Quiet s)) :=
  runIf_holds (decide_eq_true h) powerDecide s

theorem exec_thermalSample {dies : List Nat} {dimm : Nat} {sustained notice : Bool} (h : Dv.idle ≤ deviceState s)
    (hlen : dies.length = 13) (hd : ∀ t ∈ dies, t < 256) (hm : dimm < 256) :
    exec (.thermalSample dies dimm sustained notice) s = .next (thermalSample dies dimm sustained notice (Quiet s)) := by
  have ha : (dies.all fun t => decide (t < 256)) = true := List.all_eq_true.2 fun t ht => decide_eq_true (hd t ht)
  exact runIf_holds (by rw [decide_eq_true h, decide_eq_true hlen, ha, decide_eq_true hm]; rfl) (thermalSample dies dimm sustained notice) s

/-- DEVICE_WAKE_ACTIVE and DEVICE_IDLE_TIMEOUT (R433). -/
theorem idleStates_hold (s : State) :
    let st := deviceState s
    let idle := (st = Dv.active ∨ st = Dv.lender) ∧ clustersAwake s = false ∧ enginesBusy s = false
    let becomes := fun (i : Instr) (v : Nat) => ∃ t, exec i s = .next t ∧ Only [.regs] s t ∧ RegsOnly [(.BC_STATE, [])] s t ∧
      deviceState t = v ∧ getF F.BC_STATE_BOOT [] t = getF F.BC_STATE_BOOT [] s
    ((st = Dv.idle ∨ st = Dv.lender) → becomes .deviceWakeActive Dv.active) ∧
    (st ≠ Dv.idle → st ≠ Dv.lender → exec .deviceWakeActive s = .next (Quiet s)) ∧
    (idle → becomes .deviceIdleTimeout (if windowsOpen s then Dv.lender else Dv.idle)) ∧
    (¬ idle → exec .deviceIdleTimeout s = .next (Quiet s)) := by
  intro st idle becomes
  refine ⟨fun h => ⟨_, exec_deviceWakeActive s, ?_⟩, fun h1 h2 => ?_, fun h => ⟨_, exec_deviceIdleTimeout s, ?_⟩, fun h => ?_⟩
  · have he : wakeActive (Quiet s) = setDeviceState Dv.active (Quiet s) := if_pos h
    rw [he]
    exact setDeviceState_becomes (by decide) s
  · have he : wakeActive (Quiet s) = Quiet s := if_neg (not_or.2 ⟨h1, h2⟩)
    rw [exec_deviceWakeActive, he]
  · have hr : Rests (Quiet s) := h
    have hw : windowsOpen (Quiet s) = windowsOpen s := rfl
    rw [idleTimeout_of_rests hr, hw]
    exact setDeviceState_becomes (by split <;> decide) s
  · have hr : ¬ Rests (Quiet s) := h
    rw [exec_deviceIdleTimeout, idleTimeout_of_not_rests hr]

/-- Decisions of the power controller (R439, R440). -/
theorem powerDecisions_hold (h3 : s.bc.stage = 3) :
    let lim := min 2500 (max 800 (getF F.BC_POWER_LIMIT_LIMIT_W [] s))
    let step := getF F.BC_THROTTLE_POWER_STEP [] s
    let cap := s.bc.powerCap
    let capped := fun (c : Nat) (t : State) => t.bc = { s.bc with powerCap := c } ∧
      getF F.BC_THROTTLE_DDR_CAP [] t = max c (max s.bc.memCap (if s.bc.dimmCap then 2 else 0)) % 4 ∧
      getF F.BC_THROTTLE_POWER_STEP [] t = step ∧ Only [.regs, .bc] s t ∧ RegsOnly [(.BC_THROTTLE, [])] s t
    let overLim := ∃ w, s.bc.samples.head? = some w ∧ lim < w
    let low := 100 ≤ s.bc.samples.length ∧ ∀ w ∈ s.bc.samples, 100 * w < 95 * lim
    (overLim → step < 9 → ∃ t, exec .powerDecision s = .next t ∧ getF F.BC_THROTTLE_POWER_STEP [] t = step + 1 ∧
      Grew F.BC_THROTTLE_EVENTS [] 1 s t ∧ ClusterSteps (step + 1) t ∧ t.bc = s.bc ∧
      (step ≠ 8 → Only [.regs] s t ∧ RegsOnly ((.BC_THROTTLE, []) :: clusterRegs) s t) ∧
      (step = 8 → Grew F.ERR_CLASS_COUNT_COUNT [2] 1 s t)) ∧
    (overLim → 9 ≤ step → cap < 3 → ∃ t, exec .powerDecision s = .next t ∧ capped (cap + 1) t ∧ Grew F.BC_THROTTLE_EVENTS [] 1 s t) ∧
    (overLim → 9 ≤ step → 3 ≤ cap → exec .powerDecision s = .next (Quiet s)) ∧
    (low → 0 < cap → ∃ t, exec .powerDecision s = .next t ∧ capped (cap - 1) t ∧
      getF F.BC_THROTTLE_EVENTS [] t = getF F.BC_THROTTLE_EVENTS [] s) ∧
    (low → cap = 0 → ∃ t, exec .powerDecision s = .next t ∧ getF F.BC_THROTTLE_POWER_STEP [] t = step - 1 ∧
      ClusterSteps (step - 1) t ∧ Only [.regs] s t ∧ RegsOnly ((.BC_THROTTLE, []) :: clusterRegs) s t) ∧
    (¬ overLim → ¬ low → exec .powerDecision s = .next (Quiet s)) := by
  intro lim step cap capped overLim low
  have hq : ∀ {ps : List Part} {Q : Nat → Prop} {t : State}, Touches ps Q (Quiet s) t → Touches ps Q s t :=
    fun h => (quiet_touches _ _ s).trans h
  refine ⟨fun h hs => ⟨_, exec_powerDecision h3, ?_⟩, fun h hs hc => ⟨_, exec_powerDecision h3, ?_⟩, fun h hs hc => ?_,
    fun h hc => ⟨_, exec_powerDecision h3, ?_⟩, fun h hc => ⟨_, exec_powerDecision h3, ?_⟩, fun h hl => ?_⟩
  · obtain ⟨h1, h2, h3, h4, h5, h6⟩ := stepsUp_spec (s := Quiet s) hs _ rfl
    rw [powerDecide_steps (s := Quiet s) h hs]
    refine ⟨h1, h2, h3, h4, fun hne => ?_, h6⟩
    have ht := hq (h5 hne)
    exact ⟨ht.only, regsOnly_of_touches ht fun _ => stepRegs_of⟩
  · obtain ⟨h1, h2, h3, h4⟩ := capsUp_spec (cap + 1) (Quiet s) _ rfl
    rw [powerDecide_caps (s := Quiet s) h hs hc]
    exact ⟨capped_spec (s := s) (hq h1) h2 h3, h4⟩
  · rw [exec_powerDecision h3, powerDecide_full (s := Quiet s) h hs hc]
  · rw [powerDecide_uncaps (s := Quiet s) h hc]
    exact ⟨capped_spec (s := s) (hq (powerCapped_touches (cap - 1) (Quiet s))) rfl (getF_congr _ _ rfl),
      (noteCaps_spec _).2.2.2.trans (getF_congr _ _ rfl)⟩
  · obtain ⟨h1, h2, h3⟩ := stepsDown_spec (Quiet s)
    rw [powerDecide_unsteps (s := Quiet s) h hc]
    have ht := hq h3
    exact ⟨h1, h2, ht.only, regsOnly_of_touches ht fun _ => stepRegs_of⟩
  · rw [exec_powerDecision h3, powerDecide_keeps (s := Quiet s) h hl]

end

end Sys2Proof.Machine
end

section
/-! The obligation on power states (R431 to R447, R493). -/

namespace Sys2Proof.Machine

open Sys2Proof

section
variable {s : State}

/-- STANDBY_ENTER, STANDBY_EXIT, HOLD_RELEASE and ORDERLY_REMOVAL (R433, R434, R446, R447). -/
theorem standbyStates_hold {fn : Requester} (hfn : fnAllowed fn (regOff .BC_CTRL []) s = true) :
    (deviceState s ≤ Dv.standby → exec (.standbyEnter fn) s = .next (setF F.BC_CTRL_STANDBY [] 1 (Quiet s))) ∧
    (Dv.standby < deviceState s → existing s = [] → windowsOpen s = false →
      ∃ t, exec (.standbyEnter fn) s = .next t ∧ deviceState t = Dv.standby ∧ getF F.BC_CTRL_STANDBY [] t = 1 ∧ Unpowered t ∧
        (∀ p, 2 ^ 46 ≤ p → p < 2 ^ 66 → t.mem.byte p = s.mem.byte p ∧ t.mem.poisoned p = s.mem.poisoned p) ∧
        RegsLost ([(.BC_CTRL, []), (.BC_STATE, [])] ++ clusterRegs) s t ∧ (∀ q, q < 64 → clusterState q t = Cl.gated) ∧
        t.bc = { s.bc with trained := [], full := [], ddrReady := false, handshake := [] } ∧ t.pcie = s.pcie ∧ t.events = s.events ∧
        t.pins = { s.pins with flashOut := s.pins.flashOut || s.pins.flashExt } ∧
        ∀ i, tget ({} : Fn) t.fns i = { quoteStatus := (tget ({} : Fn) s.fns i).quoteStatus }) ∧
    (Dv.standby < deviceState s → (existing s ≠ [] ∨ windowsOpen s = true) → ∃ t, exec (.standbyEnter fn) s = .next t ∧
      Only [.regs] s t ∧ RegsOnly [(.BC_STATE, []), (.BC_CTRL, [])] s t ∧ getF F.BC_STATE_REFUSED [] t = St.notPermitted ∧
      getF F.BC_CTRL_STANDBY [] t = 1 ∧ deviceState t = deviceState s) ∧
    (let wakes := deviceState s = Dv.standby ∧ s.bc.stage = 3 ∧ getF F.BC_STATE_BOOT [] s = 0 ∧ s.bc.removing = false ∧
       ∃ c, c < 24 ∧ accepted c s = true
     (wakes → ∃ t, exec (.standbyExit fn) s = .next t ∧ deviceState t = Dv.idle ∧ getF F.BC_CTRL_STANDBY [] t = 0 ∧
       getF F.BC_STATE_BOOT [] t = 0 ∧ t.bc.ddrReady = false ∧ t.cores = s.cores ∧ t.ropes = s.ropes ∧ t.tables = s.tables ∧
       ∀ n, n < 16 → portState n t = if getF F.LNK_CTRL_ENABLE [n] s = 1 ∧ portState n s = Ps.disabled ∧
         getF F.ID_ADDR_PARITY_OK [] s = 1 then Ps.training else portState n s) ∧
     (¬ wakes → ∃ t, exec (.standbyExit fn) s = .next t ∧ Only [.regs] s t ∧ RegsOnly [(.BC_CTRL, [])] s t ∧
       getF F.BC_CTRL_STANDBY [] t = 0)) ∧
    (let goes := s.bc.stage = 3 ∧ getF F.BC_STATE_BOOT [] s = 1 ∧ channelsLeft s = true
     (goes → ∃ t, exec (.holdRelease fn) s = .next t ∧ Only [.regs, .ports, .bc] s t ∧ getF F.BC_CTRL_HOLD [] t = 0 ∧
       deviceState t = Dv.idle ∧ getF F.BC_STATE_BOOT [] t = 0 ∧
       t.bc.imgCounter.toNat = max s.bc.imgCounter.toNat (fieldAt s.bc.imgHeader 8 4) ∧
       t.bc.cfgCounter.toNat = max s.bc.cfgCounter.toNat (fieldAt s.bc.cfgRecord 8 4) ∧
       getF F.BC_BOOT_IMG_COUNTER [] t = t.bc.imgCounter.toNat ∧ getF F.BC_BOOT_CFG_COUNTER [] t = t.bc.cfgCounter.toNat % 65536) ∧
     (¬ goes → ∃ t, exec (.holdRelease fn) s = .next t ∧ Only [.regs] s t ∧ RegsOnly [(.BC_CTRL, [])] s t ∧
       getF F.BC_CTRL_HOLD [] t = 0 ∧ getF F.BC_CTRL_STANDBY [] t = getF F.BC_CTRL_STANDBY [] s)) ∧
    (s.bc.removing = true → exec (.orderlyRemoval fn) s = .next (Quiet s)) ∧
    (s.bc.removing = false → ∃ t, exec (.orderlyRemoval fn) s = .next t ∧ t.bc.removing = true ∧ Unpowered t ∧
      deviceState t = Dv.standby ∧ getR .ID_HOST_LINK [] t = 0) := by
  refine ⟨fun h => ?_, fun h he hw => ?_, fun h hr => ?_, ⟨fun h => ?_, fun h => ?_⟩, ⟨fun h => ?_, fun h => ?_⟩, fun h => ?_, fun h => ?_⟩
  · rw [exec_standbyEnter hfn, standbyEnter_low h]
  · obtain ⟨h1, h2, h3, h4, h5, h6⟩ := entered_kept s
    exact ⟨_, (exec_standbyEnter hfn).trans (congrArg _ (standbyEnter_goes h he hw)), enterStandby_deviceState 0 _, entered_standby s,
      enterStandby_unpowered 0 _, h1, entered_regsLost s, fun q => enterStandby_gated 0 _, h2, h3, h4, h5, h6⟩
  · exact ⟨_, (exec_standbyEnter hfn).trans (congrArg _ (standbyEnter_refuses h hr)), refused_spec s⟩
  · exact ⟨_, (exec_standbyExit hfn).trans (congrArg _ (standbyExit_wakes h)),
      enterIdle_leaves (restarted_touches s) (ddrStart_spec _).2 (restarted_standby s)⟩
  · exact ⟨_, (exec_standbyExit hfn).trans (congrArg _ (standbyExit_stays h)), standbyDropped_spec s⟩
  · exact ⟨_, (exec_holdRelease hfn).trans (congrArg _ (bootedIdle_boots h)), holdRelease_spec s⟩
  · exact ⟨_, (exec_holdRelease hfn).trans (congrArg _ (bootedIdle_stays h)), holdDropped_spec s⟩
  · exact (exec_orderlyRemoval hfn).trans (congrArg _ (startRemoval_stays (s := Quiet s) h))
  · exact ⟨_, exec_orderlyRemoval hfn, startRemoval_spec (s := Quiet s) h⟩

/-- HOTPLUG_ATTENTION_REQUEST and REMOVAL_COMPLETE (R447). -/
theorem removalStates_hold (s : State) :
    (s.bc.removing = false → Dv.standby ≤ deviceState s → ∃ t, exec .hotplugAttentionRequest s = .next t ∧ t.bc.removing = true ∧
      Unpowered t ∧ deviceState t = Dv.standby ∧ getR .ID_HOST_LINK [] t = 0) ∧
    (s.bc.removing = true → ∃ t, exec .removalComplete s = .next t ∧ Only [.regs, .pins] s t ∧ RegsOnly [(.BC_STATE, [])] s t ∧
      getF F.BC_STATE_REMOVE_READY [] t = 1 ∧ t.pins = { s.pins with removeReady := true } ∧ deviceState t = deviceState s) ∧
    (s.bc.removing = false → exec .removalComplete s = .next (Quiet s)) :=
  ⟨fun h hd => ⟨_, exec_hotplugAttentionRequest hd, startRemoval_spec (s := Quiet s) h⟩,
    fun h => ⟨_, exec_removalComplete h, removeReady_spec s⟩, exec_removalComplete_not⟩

/-- THERMAL_SAMPLE (R442). -/
theorem thermalStates_hold {dies : List Nat} {dimm : Nat} {sustained notice : Bool} (h : Dv.idle ≤ deviceState s)
    (hlen : dies.length = 13) (hd : ∀ t ∈ dies, t < 256) (hm : dimm < 256) :
    let top := dies.foldl max 0
    let trip := (sustained = true ∧ 110 < top) ∨ 115 < top
    (¬ trip → ∃ t, exec (.thermalSample dies dimm sustained notice) s = .next t ∧ Only [.regs, .bc, .mem, .pcie, .events] s t ∧
      getF F.BC_THERMAL_JMAX [] t = top ∧ getF F.BC_THERMAL_DIMM_MAX [] t = dimm ∧
      dies.getD (getF F.BC_THERMAL_HOT_DIE [] t) 0 = top ∧ (∀ i, i < getF F.BC_THERMAL_HOT_DIE [] t → dies.getD i 0 < top) ∧
      getF F.BC_THERMAL_HOT [] t = (if 105 < top then 1 else getF F.BC_THERMAL_HOT [] s) ∧
      (∀ d, d < 8 →
        let c := dies.getD d 0
        let old := tget 0 s.bc.thermal d
        let cool := tget 0 s.bc.coolFor d
        tget 0 t.bc.thermal d = (if 105 < c then 9 else if 95 ≤ c then min 9 (old + 1) else if 9 ≤ cool then old - 1 else old) ∧
        tget 0 t.bc.coolFor d = (if 95 ≤ c ∨ 9 ≤ cool then 0 else cool + 1)) ∧
      ClusterSteps (getF F.BC_THROTTLE_POWER_STEP [] s) t ∧ t.bc.memCap = (if 105 < dies.getD 8 0 ∨ 105 < dies.getD 9 0 then 3 else 0) ∧
      (t.bc.dimmCap = true ↔ 95 < dimm) ∧
      getF F.BC_THROTTLE_DDR_CAP [] t = max s.bc.powerCap (max t.bc.memCap (if t.bc.dimmCap then 2 else 0)) % 4 ∧
      getF F.BC_THROTTLE_POWER_STEP [] t = getF F.BC_THROTTLE_POWER_STEP [] s) ∧
    (trip → ∃ t, exec (.thermalSample dies dimm sustained notice) s = .next t ∧ deviceState t = Dv.standby ∧ Unpowered t ∧
      t.pins.thermTrip = true ∧ getR .ID_HOST_LINK [] t = 0 ∧ Grew F.BC_THERMAL_TRIPS [] 1 s t ∧ getF F.BC_THERMAL_JMAX [] t = top) := by
  intro top trip
  have hq : Touches [.regs] IsThermal s (readingsNoted dies dimm (Quiet s)) := (quiet_touches _ _ s).trans (readingsNoted_touches _)
  have ht := sampleNoted_touches (dies := dies) (dimm := dimm) (notice := notice) (Quiet s)
  have hreg : getR .BC_THERMAL [] (sampleNoted dies dimm notice (Quiet s)) = getR .BC_THERMAL [] (readingsNoted dies dimm (Quiet s)) :=
    ht.getR_eq thermal_beside_sample
  have hfld : ∀ f : Fld, f.reg = .BC_THERMAL →
      getF f [] (sampleNoted dies dimm notice (Quiet s)) = getF f [] (readingsNoted dies dimm (Quiet s)) := fun f hf => by
    rw [getF, getF, hf, hreg]
  obtain ⟨h1, h2, ⟨h3, h4⟩, h5, h6⟩ := readingsNoted_reads hlen hd hm (Quiet s)
  have hexec := exec_thermalSample (sustained := sustained) (notice := notice) h hlen hd hm
  rw [thermalSample_eq] at hexec
  constructor
  · intro hn
    rw [if_neg hn] at hexec
    obtain ⟨g1, g2, g3, g4, g5, g6⟩ := sampleNoted_spec dies dimm notice (Quiet s)
    refine ⟨_, hexec, (hq.only.mono (by decide)).trans (ht.only.mono (by decide)), (hfld _ rfl).trans h1, (hfld _ rfl).trans h2, ?_, ?_,
      (hfld _ rfl).trans h5, g1, g2, ?_, ?_, g5, g6⟩
    · rw [hfld F.BC_THERMAL_HOT_DIE rfl]
      exact h3
    · rw [hfld F.BC_THERMAL_HOT_DIE rfl]
      exact h4
    · rw [g3, memCapOf]
      simp only [decide_eq_true_eq]
    · rw [g4, decide_eq_true_eq]
  · intro hc
    rw [if_pos hc] at hexec
    obtain ⟨g1, g2, g3, g4, g5, g6⟩ := thermalTrip_spec (sampleNoted dies dimm notice (Quiet s))
    exact ⟨_, hexec, g1, g2, g3, g4, grew_congr g5 ((hfld F.BC_THERMAL_TRIPS rfl).trans h6).symm rfl, g6.trans ((hfld _ rfl).trans h1)⟩

/-- Input power (R443 to R445, R493). -/
theorem inputStates_hold (s : State) :
    (s.bc.stage = 0 → exec .hotSwapOpen s = .next (Quiet s) ∧ exec .inputLoss s = .next (Quiet s) ∧
      exec .pwrDisAssert s = .next { Quiet s with pins := { s.pins with pwrDis := true } }) ∧
    (s.bc.stage ≠ 0 → (∃ t, exec .hotSwapOpen s = .next t ∧ PowerLost s.pins.pwrDis s t) ∧
      (∃ t, exec .inputLoss s = .next t ∧ PowerLost s.pins.pwrDis s t) ∧
      ∃ t, exec .pwrDisAssert s = .next t ∧ PowerLost true s t) ∧
    (s.bc.stage = 0 → s.pins.pwrDis = false → ∃ t, exec .inputRestored s = .next t ∧ PoweredOn s.bc.dimms s.pins s t) ∧
    ((s.bc.stage ≠ 0 ∨ s.pins.pwrDis = true) → exec .inputRestored s = .next (Quiet s)) ∧
    (s.pins.pwrDis = true → ∃ t, exec .pwrDisDeassert s = .next t ∧ PoweredOn s.bc.dimms { s.pins with pwrDis := false } s t) ∧
    (s.pins.pwrDis = false → exec .pwrDisDeassert s = .next (Quiet s)) ∧
    (∀ modules, modules.length ≤ 24 → s.bc.stage ≤ 1 → s.pins.pwrDis = false →
      ∃ t, exec (.insertion modules) s = .next t ∧ PoweredOn modules s.pins s t) := by
  refine ⟨fun h => ?_, fun h => ?_, fun h hp => ?_, exec_inputRestored_not, fun h => ?_, exec_pwrDisDeassert_not, fun modules hl h hp => ?_⟩
  · rw [exec_hotSwapOpen, exec_inputLoss, exec_pwrDisAssert, loseInput_stays (v := Quiet s) h, loseInput_stays (v := pwrDisSet true s) h]
    exact ⟨rfl, rfl, rfl⟩
  · exact ⟨⟨_, exec_hotSwapOpen s, loseInput_spec (v := Quiet s) rfl rfl h⟩, ⟨_, exec_inputLoss s, loseInput_spec (v := Quiet s) rfl rfl h⟩,
      ⟨_, exec_pwrDisAssert s, loseInput_spec (v := pwrDisSet true s) rfl rfl h⟩⟩
  · exact ⟨_, exec_inputRestored h hp, poweredOn_of (v := Quiet s) rfl rfl⟩
  · exact ⟨_, exec_pwrDisDeassert h, poweredOn_of (v := pwrDisSet false s) rfl rfl⟩
  · exact ⟨_, exec_insertion hl h hp, poweredOn_modules (poweredOn_of (v := Quiet s) rfl rfl)⟩

end

/-- Settles O54, command by command: each is carried out by a step whose frame is proved with the steps it is made of, and the loss of
power is one lemma for STANDBY, a thermal trip and removal. -/
theorem powerStatesFollowTheRules : Obligations.PowerStatesFollowTheRules := by
  unfold Obligations.PowerStatesFollowTheRules
  refine ⟨fun s => idleStates_hold s, fun fn s hfn => standbyStates_hold hfn, fun s => removalStates_hold s, fun q s hq => ?_,
    fun w pk mv s h hw hpk hmv => ?_, fun s h => powerDecisions_hold h, fun dies dimm sustained notice s h hlen hd hm =>
      thermalStates_hold h hlen hd hm, fun s => inputStates_hold s⟩
  · intro rests
    refine ⟨fun h => ⟨_, exec_clusterIdleTimeout hq, ?_⟩, fun h => ?_⟩
    · rw [clusterIdle_rests h]
      exact drowsy_spec q s
    · rw [exec_clusterIdleTimeout hq, clusterIdle_stays h]
  · obtain ⟨ht, h1, h2, h3, h4⟩ := powerSample_spec hw hpk hmv (s := Quiet s) rfl
    have hs := (quiet_touches _ _ s).trans ht
    exact ⟨_, exec_powerSample h hw hpk hmv, hs.only, regsOnly_of_touches_one hs, h1, h2, h3, h4⟩

end Sys2Proof.Machine
end

section
/-! Sorting (R37, R53, R54): the stable sort of the device orders by a key and keeps input order among equal keys. -/

namespace Sys2Proof.Machine

open Sys2Proof

section
variable {α β : Type} {before : α → α → Bool}

theorem insertBy_perm (x : α) (l : List α) : (insertBy before x l).Perm (x :: l) := by
  induction l with
  | nil => exact List.Perm.refl _
  | cons y t ih =>
    rw [insertBy]
    split
    · exact List.Perm.refl _
    · exact (ih.cons y).trans (List.Perm.swap x y t)

theorem sortBy_append_singleton (l : List α) (x : α) : sortBy before (l ++ [x]) = insertBy before x (sortBy before l) := by
  simp [sortBy]

theorem sortBy_perm (l : List α) : (sortBy before l).Perm l := by
  induction l using List.reverseRecOn with
  | nil => exact List.Perm.refl _
  | append_singleton l x ih =>
    rw [sortBy_append_singleton]
    exact (insertBy_perm x _).trans ((ih.cons x).trans (List.perm_append_singleton x l).symm)

variable [LinearOrder β] {f : α → β}

/-- Inserting into a list in ascending keys leaves it in ascending keys. -/
theorem insertBy_sorted {x : α} {l : List α} (h : ∀ y ∈ l, before x y = true ↔ f x < f y) (hl : l.Pairwise (fun a b => f a ≤ f b)) :
    (insertBy before x l).Pairwise (fun a b => f a ≤ f b) := by
  induction l with
  | nil => exact List.pairwise_singleton _ x
  | cons y t ih =>
    obtain ⟨hy, ht⟩ := List.pairwise_cons.1 hl
    have hxy := h y List.mem_cons_self
    rw [insertBy]
    split
    · next hb =>
      have hlt := hxy.1 hb
      refine List.pairwise_cons.2 ⟨fun z hz => ?_, hl⟩
      rcases List.mem_cons.1 hz with rfl | hz
      · exact hlt.le
      · exact hlt.le.trans (hy z hz)
    · next hb =>
      have hle : f y ≤ f x := not_lt.1 fun hlt => hb (hxy.2 hlt)
      refine List.pairwise_cons.2 ⟨fun z hz => ?_, ih (fun z hz => h z (List.mem_cons_of_mem _ hz)) ht⟩
      rcases List.mem_cons.1 ((insertBy_perm x t).mem_iff.1 hz) with rfl | hz
      · exact hle
      · exact hy z hz

/-- Inserting puts an element behind those of its key. -/
theorem insertBy_filter {x : α} {l : List α} (h : ∀ y ∈ l, before x y = true ↔ f x < f y) (hl : l.Pairwise (fun a b => f a ≤ f b))
    (k : β) : (insertBy before x l).filter (fun y => decide (f y = k)) = (l ++ [x]).filter (fun y => decide (f y = k)) := by
  induction l with
  | nil => rfl
  | cons y t ih =>
    obtain ⟨hy, ht⟩ := List.pairwise_cons.1 hl
    rw [insertBy]
    split
    · next hb =>
      have hlt := (h y List.mem_cons_self).1 hb
      by_cases hx : f x = k
      · have hnone : (y :: t).filter (fun y => decide (f y = k)) = [] := by
          refine List.filter_eq_nil_iff.2 fun z hz => ?_
          rw [decide_eq_true_eq, ← hx]
          rcases List.mem_cons.1 hz with rfl | hz
          · exact hlt.ne'
          · exact (hlt.trans_le (hy z hz)).ne'
        rw [List.filter_cons, List.filter_append, hnone, List.nil_append]
        simp [hx]
      · simp [List.filter_cons, hx]
    · rw [List.cons_append, List.filter_cons, List.filter_cons, ih (fun z hz => h z (List.mem_cons_of_mem _ hz)) ht]

/-- A sorted list ascends. -/
theorem sortBy_sorted {l : List α} (h : ∀ x ∈ l, ∀ y ∈ l, before x y = true ↔ f x < f y) :
    (sortBy before l).Pairwise (fun a b => f a ≤ f b) := by
  induction l using List.reverseRecOn with
  | nil => exact List.Pairwise.nil
  | append_singleton l x ih =>
    rw [sortBy_append_singleton]
    have hmem : ∀ {y}, y ∈ l → y ∈ l ++ [x] := List.mem_append_left _
    exact insertBy_sorted (fun y hy => h x (by simp) y (hmem ((sortBy_perm l).mem_iff.1 hy)))
      (ih fun a ha b hb => h a (hmem ha) b (hmem hb))

/-- A sort keeps the order of elements of one key. -/
theorem sortBy_stable {l : List α} (h : ∀ x ∈ l, ∀ y ∈ l, before x y = true ↔ f x < f y) (k : β) :
    (sortBy before l).filter (fun y => decide (f y = k)) = l.filter (fun y => decide (f y = k)) := by
  induction l using List.reverseRecOn with
  | nil => rfl
  | append_singleton l x ih =>
    have hmem : ∀ {y}, y ∈ l → y ∈ l ++ [x] := List.mem_append_left _
    have hl : ∀ a ∈ l, ∀ b ∈ l, before a b = true ↔ f a < f b := fun a ha b hb => h a (hmem ha) b (hmem hb)
    rw [sortBy_append_singleton, insertBy_filter (fun y hy => h x (by simp) y (hmem ((sortBy_perm l).mem_iff.1 hy))) (sortBy_sorted hl),
      List.filter_append, ih hl, List.filter_append]

end

end Sys2Proof.Machine
end

section
/-! Selection (R36 to R42): experts are ordered by the value of their key and then by their index. -/

namespace Sys2Proof.Machine

open Sys2Proof

/-- The place of a number that is not NaN in the ordinary order, both zeros being one (R37). -/
def numPlace : FNum → WithBot (WithTop Rat)
  | .nan => ⊥
  | .inf true => ⊥
  | .inf false => ⊤
  | .fin n m e => ((numRat (.fin n m e) : WithTop Rat) : WithBot (WithTop Rat))

/-- A finite number counted in units of `2^q`. -/
theorem numRat_eq_signedAt {q e : Int} (n : Bool) (m : Nat) (h : q ≤ e) : numRat (.fin n m e) = signedAt n m e q * (2 : Rat) ^ q := by
  have hp : (2 : Rat) ^ e = 2 ^ (e - q).toNat * 2 ^ q := by
    rw [← zpow_natCast, ← zpow_add₀ (by norm_num), Int.toNat_of_nonneg (by omega), sub_add_cancel]
  have hm : ((m <<< (e - q).toNat : Nat) : Rat) = m * 2 ^ (e - q).toNat := by
    rw [Nat.shiftLeft_eq]; push_cast; rfl
  cases n <;> simp only [numRat, signedAt, hp, Bool.false_eq_true, if_false, if_true, Int.cast_neg, Int.cast_natCast, hm] <;> ring

/-- Finite numbers compare as their values. -/
theorem signedAt_lt_iff (x y : Bool) (m n : Nat) (e k : Int) :
    signedAt x m e (min e k) < signedAt y n k (min e k) ↔ numRat (.fin x m e) < numRat (.fin y n k) := by
  rw [numRat_eq_signedAt x m (min_le_left e k), numRat_eq_signedAt y n (min_le_right e k),
    mul_lt_mul_iff_left₀ (by positivity), Int.cast_lt]

theorem numRat_zero (n : Bool) (e : Int) : numRat (.fin n 0 e) = 0 := by simp [numRat]

/-- Zeros of either sign are one in the ordinary comparison. -/
def zeroed : FNum → FNum
  | .fin _ 0 _ => .fin false 0 0
  | v => v

theorem numGt_eq (a b : FNum) : numGt a b = numLt (zeroed b) (zeroed a) := rfl

theorem zeroed_fin (n : Bool) (m : Nat) (e : Int) : ∃ n' e', zeroed (.fin n m e) = .fin n' m e' ∧ numRat (.fin n' m e') = numRat (.fin n m e) ∧
    (m = 0 → n' = false) := by
  cases m with
  | zero => exact ⟨false, 0, rfl, by rw [numRat_zero, numRat_zero], fun _ => rfl⟩
  | succ m => exact ⟨n, e, rfl, rfl, fun h => absurd h (Nat.succ_ne_zero m)⟩

/-- The ordinary comparison is that of the places. -/
theorem numGt_iff {a b : FNum} (ha : a ≠ .nan) (hb : b ≠ .nan) : numGt a b = true ↔ numPlace b < numPlace a := by
  cases a with
  | nan => exact absurd rfl ha
  | inf x =>
    cases b with
    | nan => exact absurd rfl hb
    | inf y => cases x <;> cases y <;> simp [numGt_eq, zeroed, numLt, numPlace]
    | fin y n k =>
      obtain ⟨y', k', hz, -⟩ := zeroed_fin y n k
      rw [numGt_eq, hz]
      cases x with
      | true => simp [zeroed, numLt, numPlace]
      | false => exact iff_of_true rfl (WithBot.coe_lt_coe.2 (WithTop.coe_lt_top _))
  | fin x m e =>
    obtain ⟨x', e', hx, hxv, hx0⟩ := zeroed_fin x m e
    cases b with
    | nan => exact absurd rfl hb
    | inf y =>
      rw [numGt_eq, hx]
      cases y <;> simp [zeroed, numLt, numPlace]
    | fin y n k =>
      obtain ⟨y', k', hy, hyv, hy0⟩ := zeroed_fin y n k
      rw [numGt_eq, hx, hy, numPlace, numPlace, WithBot.coe_lt_coe, WithTop.coe_lt_coe, ← hxv, ← hyv, numLt]
      split
      · next h => rw [h.1, h.2, numRat_zero, numRat_zero, hy0 h.1]; simp
      · rw [decide_eq_true_eq, signedAt_lt_iff]

/-! The order of the experts of a token (R37). -/

/-- Where an expert stands: a smaller one is taken first. -/
def Cand.place (c : Cand) : (WithBot (WithTop Rat))ᵒᵈ ×ₗ Nat := toLex (OrderDual.toDual (numPlace c.key), c.i)

theorem Cand.beats_iff {a b : Cand} (ha : a.key ≠ .nan) (hb : b.key ≠ .nan) : a.beats b = true ↔ a.place < b.place := by
  rw [beats, place, place, Prod.Lex.toLex_lt_toLex, OrderDual.toDual_lt_toDual, Bool.or_eq_true, Bool.and_eq_true, numGt_iff ha hb,
    Bool.not_eq_true', ← Bool.not_eq_true, numGt_iff hb ha, not_lt, decide_eq_true_eq, OrderDual.toDual_inj]
  constructor
  · rintro (h | ⟨h, hi⟩)
    · exact Or.inl h
    · rcases h.lt_or_eq with h | h
      · exact Or.inl h
      · exact Or.inr ⟨h.symm, hi⟩
  · rintro (h | ⟨h, hi⟩)
    · exact Or.inl h
    · exact Or.inr ⟨h.ge, hi⟩

/-- The placed experts in the order of R37. -/
def ranked (cs : List Cand) : List Cand := sortBy Cand.beats (sortBy Cand.beats (cs.filter (fun c => c.placed)))

theorem ranked_perm (cs : List Cand) : (ranked cs).Perm (cs.filter (fun c => c.placed)) := (sortBy_perm _).trans (sortBy_perm _)

theorem mem_ranked {c : Cand} {cs : List Cand} : c ∈ ranked cs ↔ c ∈ cs ∧ c.placed = true := by
  rw [(ranked_perm cs).mem_iff, List.mem_filter]

/-- Each placed expert beats all that stand after it. -/
theorem ranked_pairwise {cs : List Cand} (hi : (cs.map (fun c => c.i)).Nodup) (hkey : ∀ c ∈ cs, c.key ≠ .nan) :
    (ranked cs).Pairwise (fun a b => a.beats b = true) := by
  have hle : (ranked cs).Pairwise (fun a b => a.place ≤ b.place) := by
    refine sortBy_sorted fun a ha b hb => Cand.beats_iff (hkey a ?_) (hkey b ?_)
    · exact (List.mem_filter.1 ((sortBy_perm _).mem_iff.1 ha)).1
    · exact (List.mem_filter.1 ((sortBy_perm _).mem_iff.1 hb)).1
  have hne : (ranked cs).Pairwise (fun a b => a.i ≠ b.i) := by
    refine (ranked_perm cs).symm.pairwise ?_ fun h => h.symm
    exact (List.pairwise_map.1 hi).filter _
  refine (hle.and hne).imp_of_mem fun ha hb h => (Cand.beats_iff (hkey _ (mem_ranked.1 ha).1) (hkey _ (mem_ranked.1 hb).1)).2 ?_
  exact h.1.lt_of_ne fun he => h.2 (congrArg (fun p => (ofLex p).2) he)

/-- With one group a token selects the first K of the placed experts (R39). -/
theorem selectOf_one_group {d : RouteDesc} {cs : List Cand} (hg : d.groups = 1) (ht : d.topg = 1) (hn : cs.length = d.e) :
    selectOf d cs = (ranked cs).take d.k := by
  have hall : cs.take d.e = cs := List.take_of_length_le hn.le
  simp [selectOf, ranked, hg, ht, hall, sortBy, insertBy]

/-- The selected experts are the best placed ones, best first (R37, R39). -/
theorem selectOf_best {d : RouteDesc} {cs : List Cand} (hg : d.groups = 1) (ht : d.topg = 1)
    (hi : cs.map (fun c => c.i) = List.range d.e) (hkey : ∀ c ∈ cs, c.key ≠ .nan) :
    (selectOf d cs).length = min d.k (cs.filter (fun c => c.placed)).length ∧ (∀ c ∈ selectOf d cs, c ∈ cs ∧ c.placed = true) ∧
    (selectOf d cs).Pairwise (fun a b => a.beats b = true) ∧
    ∀ c ∈ cs, c.placed = true → c ∉ selectOf d cs → ∀ b ∈ selectOf d cs, b.beats c = true := by
  have hlen : cs.length = d.e := by simpa using congrArg List.length hi
  have hpair := ranked_pairwise (hi ▸ List.nodup_range) hkey
  rw [selectOf_one_group hg ht hlen]
  refine ⟨?_, fun c hc => mem_ranked.1 (List.mem_of_mem_take hc), hpair.sublist (List.take_sublist ..), fun c hc hp hn b hb => ?_⟩
  · rw [List.length_take, (ranked_perm cs).length_eq]
  · rw [← List.take_append_drop d.k (ranked cs), List.pairwise_append] at hpair
    obtain ⟨-, -, hcross⟩ := hpair
    have hc' := mem_ranked.2 ⟨hc, hp⟩
    rw [← List.take_append_drop d.k (ranked cs), List.mem_append] at hc'
    exact hcross b hb c (hc'.resolve_left hn)

/-! NaN-scored experts (R36, R41). -/

/-- An expert is NaN-scored by its score or its bias, and its key is then minus infinity (R36). -/
theorem candsOf_nan {fn : Nat} {logits bias : List FNum} {placed : List Bool} {c : Cand} (hc : c ∈ candsOf fn logits bias placed) :
    (c.nan = true ↔ c.score = .nan ∨ (bias.getD c.i (.fin false 0 0)).special = true) ∧ (c.nan = true → c.key = .inf true) := by
  obtain ⟨x, -, rfl⟩ := List.mem_map.1 hc
  exact ⟨by simp only [Bool.or_eq_true, decide_eq_true_eq], fun h => if_pos h⟩

/-- A NaN-scored expert has the weight +0 (R41). -/
theorem weightsOf_nan {d : RouteDesc} {sel : List Cand} {i : Nat} {c : Cand} (hc : sel[i]? = some c) (hn : c.nan = true) :
    (weightsOf d sel)[i]? = some (.fin false 0 0) := by
  simp [weightsOf, List.getElem?_map, hc, hn]

end Sys2Proof.Machine
end

section
/-! Records (R48, R53, R55, R59): replicas, the sort, and the bytes. -/

namespace Sys2Proof.Machine

open Sys2Proof

/-! The order of R53. -/

/-- Records are sorted by destination rank, then by slot. -/
def RouteRec.dest (x : RouteRec) : Nat ×ₗ Nat := toLex (x.rank, x.slot)

theorem RouteRec.dest_eq_iff (x : RouteRec) (rank slot : Nat) : x.dest = toLex (rank, slot) ↔ x.rank = rank ∧ x.slot = slot := by
  rw [dest, toLex_inj, Prod.mk.injEq]

theorem RouteRec.before_iff (a b : RouteRec) :
    (decide (a.rank < b.rank) || (decide (a.rank = b.rank) && decide (a.slot < b.slot))) = true ↔ a.dest < b.dest := by
  simp [dest, Prod.Lex.toLex_lt_toLex]

theorem sortRecs_sorts (l : List RouteRec) : (sortRecs l).Perm l ∧
    (sortRecs l).Pairwise (fun a b => a.rank < b.rank ∨ (a.rank = b.rank ∧ a.slot ≤ b.slot)) ∧
    ∀ rank slot, (sortRecs l).filter (fun x => decide (x.rank = rank ∧ x.slot = slot)) =
      l.filter (fun x => decide (x.rank = rank ∧ x.slot = slot)) := by
  refine ⟨sortBy_perm l, ?_, fun rank slot => ?_⟩
  · exact (sortBy_sorted fun a _ b _ => RouteRec.before_iff a b).imp fun h => Prod.Lex.toLex_le_toLex.1 h
  · have h := sortBy_stable (l := l) (fun a _ b _ => RouteRec.before_iff a b) (toLex (rank, slot))
    simp only [RouteRec.dest_eq_iff] at h
    exact h

/-! Replicas (R48). -/

/-- A search finds the first element that satisfies the predicate. -/
theorem findIdxFrom_eq {α : Type} (p : α → Bool) (l : List α) (i : Nat) : findIdxFrom p l i = (l.findIdx? p).map (· + i) := by
  induction l generalizing i with
  | nil => rfl
  | cons a t ih =>
    rw [findIdxFrom, List.findIdx?_cons]
    split
    · simp
    · rw [ih, Option.map_map]
      exact congrArg (fun g => (t.findIdx? p).map g) (funext fun k => by simp only [Function.comp]; omega)

theorem findIdxFrom_zero {α : Type} (p : α → Bool) (l : List α) : findIdxFrom p l 0 = l.findIdx? p := by
  rw [findIdxFrom_eq]; simp

/-- The first replica on the token's own rank (R48). -/
def ownReplica (rank : Nat) (reps : List Nat) : Option Nat := reps.findIdx? (fun w => decide (repRank w = rank))

theorem chooseReplica_eq {reps : List Nat} (h : reps.length ≠ 1) (d : RouteDesc) (rank t e : Nat) : chooseReplica d rank t e reps =
    (if d.flags = 1 then ownReplica rank reps else none).getD (replicaPick t e d.layer reps.length) := by
  rw [chooseReplica, if_neg h, findIdxFrom_zero, ← ownReplica]
  split
  · next ho => rw [ho, Option.getD_some]
  · next ho => rw [ho, Option.getD_none]

theorem replicaPick_lt {n : Nat} (h : 0 < n) (t e l : Nat) : replicaPick t e l n < n := by
  rw [replicaPick]
  exact Nat.mod_lt _ h

theorem ownReplica_spec {rank i : Nat} {reps : List Nat} (h : ownReplica rank reps = some i) :
    i < reps.length ∧ repRank (reps.getD i 0) = rank ∧ ∀ j, j < i → repRank (reps.getD j 0) ≠ rank := by
  obtain ⟨hi, hrank, hfirst⟩ := List.findIdx?_eq_some_iff_getElem.1 h
  refine ⟨hi, ?_, fun j hj => ?_⟩
  · rw [List.getD_eq_getElem _ _ hi]
    exact of_decide_eq_true hrank
  · rw [List.getD_eq_getElem _ _ (hj.trans hi)]
    simpa using hfirst j hj

/-- The replica function gives a replica that exists. -/
theorem chooseReplica_lt {reps : List Nat} (h : reps ≠ []) (d : RouteDesc) (rank t e : Nat) :
    chooseReplica d rank t e reps < reps.length := by
  have hpos := List.length_pos_iff.2 h
  by_cases h1 : reps.length = 1
  · rw [chooseReplica, if_pos h1]
    exact hpos
  · rw [chooseReplica_eq h1]
    cases ho : (if d.flags = 1 then ownReplica rank reps else none) with
    | none =>
      rw [Option.getD_none]
      exact replicaPick_lt hpos ..
    | some i =>
      rw [Option.getD_some]
      exact (ownReplica_spec (Option.ite_none_right_eq_some.1 ho).2).1

/-- Of several replicas the first on the own rank is taken under PREFER_SELF, where there is one. -/
theorem chooseReplica_own {d : RouteDesc} {rank : Nat} {reps : List Nat} (h1 : 1 < reps.length) (hf : d.flags = 1)
    (hw : ∃ w ∈ reps, repRank w = rank) (t e : Nat) : repRank (reps.getD (chooseReplica d rank t e reps) 0) = rank ∧
      ∀ j, j < chooseReplica d rank t e reps → repRank (reps.getD j 0) ≠ rank := by
  have hsome : (ownReplica rank reps).isSome = true := by
    rw [ownReplica, List.findIdx?_isSome, List.any_eq_true]
    simpa using hw
  obtain ⟨i, hi⟩ := Option.isSome_iff_exists.1 hsome
  rw [chooseReplica_eq h1.ne', if_pos hf, hi]
  exact (ownReplica_spec hi).2

/-! The bytes of a record. -/

theorem fieldAt_natLe (n v : Nat) : fieldAt (natLe n v) 0 n = v % 256 ^ n := by
  simpa using fieldAt_natLe_append_zero n v []

/-- The flags of a dispatch record: NAN_SCORE, SELF and the replica (R55). -/
theorem recordFlags_bits (nan self : Bool) {rep : Nat} (h : rep < 4) :
    let n := (if nan then 1 else 0) + (if self then 4 else 0) + 8 * rep
    n % 256 ^ 1 = n ∧ n.testBit 0 = nan ∧ n.testBit 2 = self ∧ n / 8 = rep := by
  revert nan self rep; decide

theorem RouteRec.bytes_fields (x : RouteRec) (hrank : x.rank < 65536) (hrep : x.rep < 4) :
    x.bytes.length = 16 ∧ fieldAt x.bytes 0 4 = x.token % 2 ^ 32 ∧ fieldAt x.bytes 4 2 = x.rank ∧
    fieldAt x.bytes 6 2 = x.slot % 65536 ∧ fieldAt x.bytes 8 4 = (fp32.round rne x.weight).1 % 2 ^ 32 ∧
    (fieldAt x.bytes 15 1).testBit 0 = x.nan ∧ (fieldAt x.bytes 15 1).testBit 2 = x.self ∧ fieldAt x.bytes 15 1 / 8 = x.rep := by
  have hflags : fieldAt x.bytes 15 1 = (if x.nan then 1 else 0) + (if x.self then 4 else 0) + 8 * x.rep := by
    have h := fieldAt_append_length (zeros 3) (natLe 1 ((if x.nan then 1 else 0) + (if x.self then 4 else 0) + 8 * x.rep)) 1
    rw [zeros_length, fieldAt_natLe, (recordFlags_bits x.nan x.self hrep).1] at h
    simp only [bytes, List.append_assoc, fieldAt_natLe_append, Nat.reduceLeDiff, Nat.reduceSub]
    exact h
  obtain ⟨-, hnan, hself, hdiv⟩ := recordFlags_bits x.nan x.self hrep
  rw [hflags]
  refine ⟨by simp [bytes, natLe_length], ?_, ?_, ?_, ?_, hnan, hself, hdiv⟩ <;>
    simp only [bytes, List.append_assoc, fieldAt_natLe_append, fieldAt_natLe_append_zero, Nat.reduceLeDiff, Nat.reduceSub, le_refl,
      Nat.reducePow, Nat.mod_eq_of_lt hrank]

theorem RouteRec.bytesF_fields (x : RouteRec) (hexpert : x.expert < 256) :
    x.bytesF.length = 8 ∧ fieldAt x.bytesF 0 4 = x.token % 2 ^ 32 ∧ fieldAt x.bytesF 4 1 = x.expert ∧
    (fieldAt x.bytesF 5 1).testBit 0 = x.nan ∧ fieldAt x.bytesF 6 2 = (bf16.round rne x.weight).1 % 65536 := by
  have hflags : ((if x.nan then 1 else 0) % 256).testBit 0 = x.nan := by cases x.nan <;> rfl
  refine ⟨by simp [bytesF, natLe_length], ?_, ?_, ?_, ?_⟩ <;>
    simp only [bytesF, List.append_assoc, fieldAt_natLe_append, fieldAt_natLe_append_zero, fieldAt_natLe, Nat.reduceLeDiff, Nat.reduceSub,
      le_refl, Nat.reducePow, Nat.mod_eq_of_lt hexpert, hflags]

/-- Settles O34: the order of R37 is that of a place in a linear order, by which the stable sort sorts, as it does by the destination of
records; the replica is found by a search for the own rank or the function of R48, and the fields of a record lie in its bytes. -/
theorem routingSelectsTheBest : Obligations.RoutingSelectsTheBest := by
  unfold Obligations.RoutingSelectsTheBest
  refine ⟨fun d cs hg ht hi hkey => selectOf_best hg ht hi hkey, fun fn logits bias placed c hc => candsOf_nan hc,
    fun d sel i c hc hn => weightsOf_nan hc hn, sortRecs_sorts, fun d rank t e reps hne => ⟨chooseReplica_lt hne d rank t e, fun h1 hf hw =>
      chooseReplica_own h1 hf hw t e⟩, fun x hrank hrep hexpert => ?_⟩
  obtain ⟨h1, h2, h3, h4, h5, h6, h7, h8⟩ := x.bytes_fields hrank hrep
  exact ⟨h1, h2, h3, h4, h5, h6, h7, h8, x.bytesF_fields hexpert⟩

end Sys2Proof.Machine
end

section
/-! Signals of instructions (R262): what they touch, and the belay they leave. -/

namespace Sys2Proof.Machine

open Sys2Proof

/-! Core belays. -/

/-- An increment is absorbed at the largest value. -/
theorem satInc_eq (v : Word) : satInc v = absorbedInc v := by
  have hlt := v.isLt
  rw [satInc, absorbedInc]
  split
  · next h => rw [h]; rfl
  · next h =>
    have hne : v.toNat ≠ 2 ^ 64 - 1 := fun he => h (BitVec.eq_of_toNat_eq he)
    apply BitVec.eq_of_toNat_eq
    rw [BitVec.toNat_add, BitVec.toNat_ofNat, Nat.min_eq_left (by omega)]
    rfl

theorem setCoreBelay_touches (c b : Nat) (v : Word) (s : State) : Touches [.regs, .cores] InBasecamp s (setCoreBelay c b v s) :=
  ((Touches.refl _ _ s).withCores).andThen (wakeWaiting_touches _) (by decide) (fun _ => id)

theorem incCoreBelay_touches (c b : Nat) (s : State) : Touches [.regs, .cores] InBasecamp s (incCoreBelay c b s) :=
  ((Touches.refl _ _ s).withCores).andThen (wakeWaiting_touches _) (by decide) (fun _ => id)

@[simp] theorem coreOf_wakeWaiting (c : Nat) (s : State) : coreOf c (wakeWaiting s) = coreOf c s :=
  coreOf_congr c ((wakeWaiting_touches s).only.2 .cores (by decide))

/-! A signal that is applied. -/

theorem applySignal_touches (device : Bool) (i : Nat) (set : Bool) (v : Word) (s : State) :
    Touches [.regs, .cores, .belays] InBasecamp s (applySignal device i set v s) := by
  cases device with
  | true => exact (applySignal_device_touches i set v s).mono (by decide) fun _ => id
  | false =>
    cases set with
    | true => exact (setCoreBelay_touches ..).mono (by decide) fun _ => id
    | false => exact (incCoreBelay_touches ..).mono (by decide) fun _ => id

/-- A signal to a core belay leaves the device's. -/
theorem applySignal_core_belays (i : Nat) (set : Bool) (v : Word) (s : State) : (applySignal false i set v s).belays = s.belays := by
  cases set with
  | true => exact (setCoreBelay_touches ..).only.2 .belays (by decide)
  | false => exact (incCoreBelay_touches ..).only.2 .belays (by decide)

/-- What a signal leaves in its core belay. -/
theorem coreBelay_applySignal (c : Nat) {b : Nat} (hb : b < 64) (set : Bool) (v : Word) (s : State) :
    coreBelay c b (applySignal false (c * 64 + b) set v s) = if set then v else absorbedInc (coreBelay c b s) := by
  have hc : (c * 64 + b) / 64 = c := by omega
  have hm : (c * 64 + b) % 64 = b := by omega
  cases set with
  | true => simp [applySignal, setCoreBelay, hc, hm, coreBelay]
  | false => simp [applySignal, incCoreBelay, hc, hm, coreBelay, satInc_eq]

/-- What a signal leaves in its device belay. -/
theorem devBelay_applySignal_same (i : Nat) (set : Bool) (v : Word) (s : State) :
    devBelay i (applySignal true i set v s) = if set then v else absorbedInc (devBelay i s) := by
  cases set with
  | true => exact devBelay_setDevBelay_same i v s
  | false => simp [applySignal, incDevBelay, devBelay, satInc_eq]

theorem devBelay_applySignal_other {i j : Nat} (h : j ≠ i) (set : Bool) (v : Word) (s : State) :
    devBelay j (applySignal true i set v s) = devBelay j s := by
  cases set with
  | true => exact devBelay_setDevBelay_other v s h
  | false => simp [applySignal, incDevBelay, devBelay, tget_tset_other _ _ _ _ h]

/-! A signal that is applied, or held back until its unit's writes are acknowledged. -/

theorem signalHeld_touches (h : HeldSig) (s : State) : Touches [.regs, .cores, .belays, .heldSigs] InBasecamp s (signalHeld h s) := by
  unfold signalHeld
  split
  · exact (Touches.refl _ _ s).withHeldSigs
  · exact (applySignal_touches ..).mono (by decide) fun _ => id

theorem signalEntry_touches (who r c : Nat) (e : QEntry) (s : State) :
    Touches [.regs, .cores, .belays, .heldSigs] InBasecamp s (signalEntry who r c e s) := by
  unfold signalEntry
  split
  · exact signalHeld_touches _ s
  · exact Touches.refl _ _ s

theorem signalHeld_applied {h : HeldSig} {s : State} (hw : writesOut h.who s = false) :
    signalHeld h s = applySignal h.device h.idx h.set h.val s := by
  rw [signalHeld, hw]; rfl

theorem signalHeld_waits {h : HeldSig} {s : State} (hw : writesOut h.who s = true) :
    signalHeld h s = { s with heldSigs := s.heldSigs ++ [h] } := by
  rw [signalHeld, hw]; rfl

section
variable {who r c : Nat} {e : QEntry} {s : State}

theorem signalEntry_none (h : belay7 r (wf32 e.w1 7 1) s = some none) : signalEntry who r c e s = s := by
  rw [signalEntry, h]

theorem signalEntry_some {dev : Bool} {i : Nat} (h : belay7 r (wf32 e.w1 7 1) s = some (some (dev, i))) : signalEntry who r c e s =
    signalHeld ⟨who, dev, if dev then i else c * 64 + i, decide (wf32 e.w1 0 0 = 1), e.sig, some c, e.tag⟩ s := by
  rw [signalEntry, h]

end

/-! What the designator of an entry names (R294). -/

theorem belay7_core {v : Nat} (h : v < 0x40) (r : Nat) (s : State) : belay7 r v s = some (some (false, v)) := by
  rw [belay7, if_neg (by omega), if_pos h]

theorem belay7_device {r v : Nat} {s : State} (hlo : 0x40 ≤ v) (hhi : v < 0x7F) (hin : v - 0x40 < (ropeOf r s).belayCount) :
    belay7 r v s = some (some (true, (ropeOf r s).belayFirst + (v - 0x40))) := by
  rw [belay7, if_neg (by omega), if_neg (by omega), if_pos hin]

/-- The designator and the operation of an entry's signal. -/
theorem signalFields (w : BitVec 32) : wf32 w 7 1 = w.toNat / 2 % 128 ∧ wf32 w 0 0 = w.toNat % 2 := by
  simp [wf32, nbits, Nat.shiftRight_eq_div_pow]

/-- The signal of an entry is given (R262). -/
theorem signalEntry_given (who r c : Nat) (e : QEntry) (s : State) : SignalGiven who r c e s (signalEntry who r c e s) := by
  unfold SignalGiven
  intro v set dev
  obtain ⟨hv, hset⟩ : wf32 e.w1 7 1 = v ∧ (wf32 e.w1 0 0 = 1 ↔ set) := ⟨(signalFields e.w1).1, by rw [(signalFields e.w1).2]⟩
  refine ⟨fun h => ?_, fun h hw => ?_, fun hlo hhi hin hw => ?_, fun h hw => ?_⟩
  · rw [signalEntry_none (by rw [hv, h]; rfl)]
    exact ⟨rfl, rfl⟩
  · rw [signalEntry_some (by rw [hv, belay7_core h]), signalHeld_applied hw]
    have hb := coreBelay_applySignal c h (decide (wf32 e.w1 0 0 = 1)) e.sig s
    refine ⟨applySignal_core_belays .., fun hs => ?_, fun hs => ?_⟩
    · exact hb.trans (if_pos (decide_eq_true (hset.2 hs)))
    · exact hb.trans (if_neg (by simpa [hset] using hs))
  · rw [signalEntry_some (by rw [hv, belay7_device hlo hhi hin]), signalHeld_applied hw]
    have hb := devBelay_applySignal_same dev (decide (wf32 e.w1 0 0 = 1)) e.sig s
    refine ⟨⟨fun hs => ?_, fun hs => ?_⟩, fun j hj => devBelay_applySignal_other hj ..⟩
    · exact hb.trans (if_pos (decide_eq_true (hset.2 hs)))
    · exact hb.trans (if_neg (by simpa [hset] using hs))
  · rw [signalEntry_some (by rw [hv, belay7_core h]), signalHeld_waits hw]
    exact ⟨rfl, decide (wf32 e.w1 0 0 = 1), rfl, by rw [decide_eq_true_eq]; exact hset⟩

theorem writesOut_congr {s t : State} (who : Nat) (h : t.msgs = s.msgs) : writesOut who t = writesOut who s := by
  rw [writesOut, writesOut, h]

/-- A signal given from `u` is given from what `u` shares its belays, cores, ropes, messages and held signals with. -/
theorem signalGiven_congr {ps : List Part} {Q : Nat → Prop} {who r c : Nat} {e : QEntry} {s u t : State} (h : Touches ps Q s u)
    (hps : ∀ p ∈ [Part.cores, .ropes, .msgs, .belays, .heldSigs], p ∉ ps) (hg : SignalGiven who r c e u t) : SignalGiven who r c e s t := by
  have hbel : u.belays = s.belays := h.only.2 .belays (hps _ (by decide))
  have hheld : u.heldSigs = s.heldSigs := h.only.2 .heldSigs (hps _ (by decide))
  have hcore : ∀ v, coreBelay c v u = coreBelay c v s := fun v => by
    rw [coreBelay, coreBelay, coreOf_congr c (h.only.2 .cores (hps _ (by decide)))]
  have hdev : ∀ j, devBelay j u = devBelay j s := fun j => devBelay_congr j hbel
  unfold SignalGiven at hg ⊢
  simpa only [hbel, hheld, hcore, hdev, ropeOf_congr r (h.only.2 .ropes (hps _ (by decide))),
    writesOut_congr who (h.only.2 .msgs (hps _ (by decide)))] using hg

/-! Buffers. -/

/-- A signal that frees no buffer leaves all as it is (R84). -/
theorem settleSlots_of_noBufferDue {s : State} (h : NoBufferDue s) : settleSlots s = s := by
  have : ∀ (l : Tab Xe), (∀ x ∈ l, x ∈ s.xes) → forList l s (fun x s => forList (x.2.active.filter (fun e => e.due s)) s
      (fun e s => runAccess (e.who x.1) (freeSlots x.1 e.tag s) (fun _ _ s => s) s)) = s := by
    intro l
    induction l with
    | nil => exact fun _ => rfl
    | cons x l ih =>
      intro hl
      have hnone : x.2.active.filter (fun e => e.due s) = [] :=
        List.filter_eq_nil_iff.2 fun e he => by rw [h x (hl x List.mem_cons_self) e he]; decide
      rw [forList_cons, hnone]
      exact ih fun y hy => hl y (List.mem_cons_of_mem _ hy)
  exact this s.xes fun _ => id

end Sys2Proof.Machine
end

section
/-! ROUTE and ROUTE_F (R29 to R33, R40, R43, R49): the turn of an instruction, and what its end leaves. -/

namespace Sys2Proof.Machine

open Sys2Proof

/-! The registers of routing engines. -/

/-- The registers of the block of routing engines. -/
abbrev InRouting (o : Nat) : Prop := 0x300000 ≤ o ∧ o < 0x380000

/-- The registers an instruction that ran counts in (R30, R40). -/
abbrev countRegs : List Reg := [.RTE_ROUTES, .RTE_RECORDS, .RTE_SHORT_TOKENS, .RTE_STATUS]

/-- The registers of R43 of a die's routing engine, and those of the blocks an event record or a woken cluster touches. -/
abbrev AfterCounts (die o : Nat) : Prop :=
  InBasecamp o ∨ o = regOff .RTE_NAN [die] ∨ o = regOff .RTE_NAN_RECORDS [die] ∨ InErrors o

/-- The counters of an instruction that ran (R30, R40). -/
def routeCounted (die r : Nat) (f : RouteFound) (s : State) : State :=
  addF F.RTE_ROUTES_DONE [die] 1 (addF F.RTE_RECORDS_RECORDS [die] f.recs.length (addF F.RTE_SHORT_TOKENS_COUNT [die] f.short
    (setF F.RTE_STATUS_LAST_STATUS [die] 0 (setF F.RTE_STATUS_ROPE [die] r s))))

theorem routeEnd_eq (die r : Nat) (x : DieEntry) (f : RouteFound) (s : State) : routeEnd die r x f s =
    settleSlots (signalEntry (512 + die) r x.core x.e (routeNan die r x.e.tag f (routeCounted die r f s))) := rfl

/-- A register of the counts lies in the block of its die, apart from those that are written after the counts. -/
theorem countRegs_apart {die : Nat} (hd : die < 8) {q : Reg} (hq : q ∈ countRegs) :
    InRouting (regOff q [die]) ∧ ¬ AfterCounts die (regOff q [die]) := by
  simp only [List.mem_cons, List.not_mem_nil, or_false] at hq
  rcases hq with rfl | rfl | rfl | rfl <;> simp [InRouting, AfterCounts, InBasecamp, InErrors, regOff, regDesc, dimOff] <;> omega

theorem routeNan_of_none {f : RouteFound} (h : f.nanRows = []) (die r : Nat) (tag : BitVec 32) (s : State) : routeNan die r tag f s = s := by
  rw [routeNan, h]

/-- A NaN-scored expert leaves its mark in the registers of R43 and in an event record. -/
theorem routeNan_touches (die r : Nat) (tag : BitVec 32) (f : RouteFound) (s : State) :
    Touches eventParts (AfterCounts die) s (routeNan die r tag f s) := by
  unfold routeNan
  split
  · exact Touches.refl _ _ s
  · extract_lets first u v
    have hu : Touches eventParts (AfterCounts die) s u := by
      have h : ∀ o, o = regOff .RTE_NAN [die] → AfterCounts die o := fun o ho => Or.inr (Or.inl ho)
      show Touches _ _ s (if _ then _ else _)
      split
      · exact Touches.refl _ _ s
      · exact (((Touches.refl _ _ s).setF (h _ rfl)).setF (h _ rfl)).setF (h _ rfl)
    have hv : Touches eventParts (AfterCounts die) s v := hu.addF (Or.inr (Or.inr (Or.inl rfl)))
    exact hv.trans ((raiseEvent_touches _ v).mono (fun _ => id) fun o ho => Or.inr (Or.inr (Or.inr ho)))

theorem routeCounted_touches {die : Nat} (hd : die < 8) (r : Nat) (f : RouteFound) (s : State) :
    Touches [.regs] InRouting s (routeCounted die r f s) := by
  have h : ∀ q ∈ countRegs, InRouting (regOff q [die]) := fun q hq => (countRegs_apart hd hq).1
  exact (((((Touches.refl _ _ s).setF (h .RTE_STATUS (by decide))).setF (h .RTE_STATUS (by decide))).addF
    (h .RTE_SHORT_TOKENS (by decide))).addF (h .RTE_RECORDS (by decide))).addF (h .RTE_ROUTES (by decide))

/-- Registers of one array of blocks, at one die. -/
theorem getF_setF_array {f g : Fld} (hdims : (regDesc g.reg).dims = (regDesc f.reg).dims)
    (hbase : (regDesc g.reg).base ≠ (regDesc f.reg).base) (die v : Nat) (s : State) : getF g [die] (setF f [die] v s) = getF g [die] s :=
  getF_setF_other _ _ (by rw [regOff, regOff, hdims]; omega)

/-- The counters and the status, read back. -/
theorem routeCounted_fields (die r : Nat) (f : RouteFound) (s : State) : let t := routeCounted die r f s
    getF F.RTE_STATUS_LAST_STATUS [die] t = 0 ∧ getF F.RTE_STATUS_ROPE [die] t = r % 16 ∧ Grew F.RTE_ROUTES_DONE [die] 1 s t ∧
    Grew F.RTE_RECORDS_RECORDS [die] f.recs.length s t ∧ Grew F.RTE_SHORT_TOKENS_COUNT [die] f.short s t := by
  intro t
  have hstatus : ∀ g : Fld, g.reg = .RTE_STATUS → getF g [die] t =
      getF g [die] (setF F.RTE_STATUS_LAST_STATUS [die] 0 (setF F.RTE_STATUS_ROPE [die] r s)) := fun g hg => by
    simp only [t, routeCounted, addF]
    rw [getF_setF_array, getF_setF_array, getF_setF_array] <;> rw [hg] <;> decide
  refine ⟨?_, ?_, ?_, ?_, ?_⟩
  · rw [hstatus _ rfl, getF_setF_same _ _ _ _ (by decide) (by decide)]
    rfl
  · rw [hstatus _ rfl, getF_setF_beside (f := F.RTE_STATUS_LAST_STATUS) (g := F.RTE_STATUS_ROPE) _ _ _ rfl (by decide) (by decide)
      (by decide), getF_setF_same _ _ _ _ (by decide) (by decide)]
    rfl
  · refine grew_congr (grew_addF _ _ 1 _ (by decide) (by decide)) ?_ rfl
    simp only [addF]
    rw [getF_setF_array, getF_setF_array, getF_setF_array, getF_setF_array] <;> decide
  · refine grew_congr (grew_addF _ _ f.recs.length _ (by decide) (by decide)) ?_ (getF_setF_array (by decide) (by decide) ..)
    simp only [addF]
    rw [getF_setF_array, getF_setF_array, getF_setF_array] <;> decide
  · refine grew_congr (grew_addF _ _ f.short _ (by decide) (by decide)) ?_ ((getF_setF_array (by decide) (by decide) ..).trans
      (getF_setF_array (by decide) (by decide) ..))
    rw [getF_setF_array, getF_setF_array] <;> decide

/-! The end of an instruction. -/

/-- The counts of an instruction, from `u`, the state its outputs are written in. -/
def routeNoted (die : Nat) (x : DieEntry) (f : RouteFound) (u : State) : State := routeCounted die x.rope f (endAccess (512 + die) 0 u)

/-- What an instruction leaves before buffers are freed. -/
def routeSignalled (die : Nat) (x : DieEntry) (f : RouteFound) (u : State) : State :=
  signalEntry (512 + die) x.rope x.core x.e (routeNan die x.rope x.e.tag f (routeNoted die x f u))

section
variable {die : Nat} (x : DieEntry) (f : RouteFound) (u : State)

/-- After the counts. -/
theorem routeSignalled_touches (die : Nat) : Touches [.regs, .mem, .pcie, .events, .cores, .belays, .heldSigs] (AfterCounts die)
    (routeNoted die x f u) (routeSignalled die x f u) :=
  ((routeNan_touches die x.rope x.e.tag f (routeNoted die x f u)).mono (by decide) fun _ => id).andThen (signalEntry_touches ..)
    (by decide) fun _ => Or.inl

variable (hd : die < 8)
include hd

/-- Up to the counts. -/
theorem routeNoted_touches : Touches [.regs, .reads] (fun _ => True) u (routeNoted die x f u) :=
  ((endAccess_touches (512 + die) 0 u).mono (fun _ => id) fun _ _ => trivial).trans
    ((routeCounted_touches hd x.rope f _).mono (by decide) fun _ _ => trivial)

/-- The end of its accesses leaves the counts, and so does what follows them. -/
theorem counts_kept {g : Fld} (hg : g.reg ∈ countRegs) : getF g [die] (endAccess (512 + die) 0 u) = getF g [die] u ∧
    getF g [die] (routeSignalled die x f u) = getF g [die] (routeNoted die x f u) := by
  obtain ⟨hin, hout⟩ := countRegs_apart hd hg
  exact ⟨(endAccess_touches ..).getF_eq (by omega), (routeSignalled_touches x f u die).getF_eq hout⟩

end

/-- An instruction that ran counts itself, its records and its short tokens, and gives its signal (R30, R40). -/
structure RouteRan (die : Nat) (x : DieEntry) (f : RouteFound) (u t : State) : Prop where
  status : getF F.RTE_STATUS_LAST_STATUS [die] t = 0 ∧ getF F.RTE_STATUS_ROPE [die] t = x.rope % 16
  counts : Grew F.RTE_ROUTES_DONE [die] 1 u t ∧ Grew F.RTE_RECORDS_RECORDS [die] f.recs.length u t ∧
    Grew F.RTE_SHORT_TOKENS_COUNT [die] f.short u t
  rtes : t.rtes = u.rtes
  quiet : f.nanRows = [] → t.mem = u.mem ∧ SignalGiven (512 + die) x.rope x.core x.e u t

theorem routeSignalled_ran {die : Nat} (hd : die < 8) (x : DieEntry) (f : RouteFound) (u : State) :
    RouteRan die x f u (routeSignalled die x f u) := by
  have hto := routeNoted_touches x f u hd
  have hfrom := routeSignalled_touches x f u die
  have hgrew : ∀ {g : Fld} {n : Nat}, g.reg ∈ countRegs → Grew g [die] n (endAccess (512 + die) 0 u) (routeNoted die x f u) →
      Grew g [die] n u (routeSignalled die x f u) := fun hg h =>
    grew_congr h (counts_kept x f u hd hg).1.symm (counts_kept x f u hd hg).2
  obtain ⟨hlast, hrope, hdone, hrecs, hshort⟩ := routeCounted_fields die x.rope f (endAccess (512 + die) 0 u)
  refine ⟨⟨(counts_kept x f u hd (by decide)).2.trans hlast, (counts_kept x f u hd (by decide)).2.trans hrope⟩,
    ⟨hgrew (by decide) hdone, hgrew (by decide) hrecs, hgrew (by decide) hshort⟩,
    (hfrom.only.2 .rtes (by decide)).trans (hto.only.2 .rtes (by decide)), fun hnone => ?_⟩
  have hsig := signalEntry_touches (512 + die) x.rope x.core x.e (routeNoted die x f u)
  rw [routeSignalled, routeNan_of_none hnone]
  exact ⟨(hsig.only.2 .mem (by decide)).trans (hto.only.2 .mem (by decide)), signalGiven_congr hto (by decide) (signalEntry_given ..)⟩

/-! The turn of an instruction (R29, R261). -/

/-- The command of an operation. -/
def routeCommand (local_ : Bool) (die : Nat) : Instr := if local_ then .routeF die else .route die

/-- Its operation (R31, R58). -/
def routeOp (local_ : Bool) : Nat := if local_ then 2 else 1

/-- The state an instruction runs from: its entry is off the queue and, for a ROUTE, its slice is loaded (R49). -/
def routeBegun (local_ : Bool) (die i : Nat) (x : DieEntry) (s : State) : State :=
  if local_ then popRte die i x.rope s else routeSlice die x.rope x (popRte die i x.rope s)

theorem exec_routeCommand (local_ : Bool) {die : Nat} (hd : die < 8) (s : State) :
    exec (routeCommand local_ die) s = .next (routeStep local_ (routeOp local_) die (Quiet s)) := by
  cases local_ with
  | true => exact runIf_holds (decide_eq_true hd) (routeStep true 0x02 die) s
  | false => exact runIf_holds (decide_eq_true hd) (routeStep false 0x01 die) s

theorem pickDie_quiet (die : Nat) (s : State) : pickDie die (Quiet s) = pickDie die s := rfl

/-- The entry a routing engine takes next is of the operation of the command. -/
def RouteTurn (local_ : Bool) (die i : Nat) (x : DieEntry) (s : State) : Prop :=
  pickDie die s = some (i, x) ∧ wf32 x.e.w0 27 20 = routeOp local_

section
variable {local_ : Bool} {die i : Nat} {x : DieEntry} {s : State}

theorem routeStep_runs (h : RouteTurn local_ die i x s) {u : State} {f : RouteFound}
    (hfx : routeFx local_ die x.rope x (routeBegun local_ die i x s) = .ok (u, f)) :
    routeStep local_ (routeOp local_) die s = settleSlots (routeSignalled die x f u) := by
  rw [routeBegun] at hfx
  simp only [routeStep, h.1, h.2, hfx, ne_eq, not_true_eq_false, if_false]
  rfl

theorem routeStep_faults (h : RouteTurn local_ die i x s) {st a : Nat}
    (hfx : routeFx local_ die x.rope x (routeBegun local_ die i x s) = .error (.fault st a)) :
    routeStep local_ (routeOp local_) die s =
      routeFault die x.rope x st a (endAccess (512 + die) st (routeBegun local_ die i x s)) := by
  rw [routeBegun] at hfx ⊢
  simp only [routeStep, h.1, h.2, hfx, ne_eq, not_true_eq_false, if_false]
  rfl

theorem routeStep_waits (h : RouteTurn local_ die i x s) {l m o : Nat}
    (hfx : routeFx local_ die x.rope x (routeBegun local_ die i x s) = .error (.need l m o)) :
    routeStep local_ (routeOp local_) die s = askLender (rteWho die x) l m o (beginRte die i s) := by
  rw [routeBegun] at hfx
  simp only [routeStep, h.1, h.2, hfx, ne_eq, not_true_eq_false, if_false]

/-- With no entry ready, or one of another operation, nothing happens. -/
theorem routeStep_idle (h : pickDie die s = none ∨ ∃ i x, pickDie die s = some (i, x) ∧ wf32 x.e.w0 27 20 ≠ routeOp local_) :
    routeStep local_ (routeOp local_) die s = s := by
  rcases h with h | ⟨i, x, h, hop⟩
  · simp only [routeStep, h]
  · simp only [routeStep, h, hop, ne_eq, not_false_eq_true, if_true]

theorem popRte_queue (die i r : Nat) (s : State) : let q := tget ({} : Rte) (popRte die i r s).rtes die
    q.queue = dropAt (tget ({} : Rte) s.rtes die).queue i ∧ q.lastRope = r := by
  simp [popRte]

/-- None begins while the signal of the one before it waits (R29). -/
theorem pickDie_waits (hw : signalWaits (512 + die) s = true) (hq : ∀ x ∈ (tget ({} : Rte) s.rtes die).queue, x.e.started = false) :
    pickDie die s = none := by
  have hnone : findIdxFrom (fun (d : DieEntry) => d.e.started) (tget ({} : Rte) s.rtes die).queue 0 = none := by
    rw [findIdxFrom_zero, List.findIdx?_eq_none_iff]
    exact hq
  simp only [pickDie, pickEntry, hnone, hw, if_true]

/-! Descriptors (R31, R32, R58). -/

theorem routeFx_unaligned (h : x.e.opA.toNat % 64 ≠ 0) (r : Nat) :
    routeFx local_ die r x s = .error (.fault St.notPermitted x.e.opA.toNat) := by
  rw [routeFx]
  exact if_pos h

theorem routeFx_out_of_range {bs : List Byte} (ha : x.e.opA.toNat % 64 = 0) (hr : rd (rteWho die x) x.e.opA.toNat 64 s = .ok (bs, 0))
    (h : (routeDesc bs).ok = false ∨ (local_ = true ∧ (routeDesc bs).okF = false)) :
    routeFx local_ die x.rope x s = .error (.fault St.notPermitted 0) := by
  rw [rteWho] at hr
  have hbad : (! (routeDesc bs).ok) = true ∨ (local_ = true ∧ (! (routeDesc bs).okF) = true) := by simpa using h
  simp only [routeFx, ha, hr, hbad, ne_eq, not_true_eq_false, if_false, if_true]

end

/-- Settles O33: the command's step by what its effect answers, and the end of an instruction that ran by the frames of its counters, its
NaN registers and its signal. -/
theorem routesRun : Obligations.RoutesRun := by
  unfold Obligations.RoutesRun
  intro die s hd q
  refine ⟨fun i x local_ hpick hop => ?_, fun hw hq => pickDie_waits hw hq, fun h => ?_, fun h => ?_⟩
  · intro cmd w o p
    have hturn : RouteTurn local_ die i x (Quiet s) := ⟨hpick, hop⟩
    have hexec : exec cmd s = .next (routeStep local_ (routeOp local_) die (Quiet s)) := exec_routeCommand local_ hd s
    obtain ⟨hqueue, hlast⟩ := popRte_queue die i x.rope (Quiet s)
    refine ⟨fun u f hfx => ?_, fun st a hfx => ?_, fun l h off hfx => ?_, hqueue, hlast, fun ha => routeFx_unaligned ha _,
      fun bs ha hr hbad => routeFx_out_of_range ha hr hbad⟩
    · obtain ⟨⟨hstat, hrope⟩, ⟨hdone, hrecs, hshort⟩, hrtes, hquiet⟩ := routeSignalled_ran hd x f u
      exact ⟨_, hexec.trans (congrArg _ (routeStep_runs hturn hfx)), settleSlots_of_noBufferDue, fun hn => (hquiet hn).1, hstat, hrope,
        hdone, hrecs, hshort, fun hn => (hquiet hn).2, hrtes⟩
    · exact hexec.trans (congrArg _ (routeStep_faults hturn hfx))
    · exact hexec.trans (congrArg _ (routeStep_waits hturn hfx))
  · exact (exec_routeCommand false hd s).trans (congrArg _ (routeStep_idle (local_ := false) h))
  · exact (exec_routeCommand true hd s).trans (congrArg _ (routeStep_idle (local_ := true) h))

end Sys2Proof.Machine
end

section
/-! Training with an event ring (R104, R469, R500): the record of the link event leaves with the parameter block. -/

namespace Sys2Proof.Machine

open Sys2Proof

/-- Port 0 in TRAINING, and the event ring enabled. -/
def trainingWithRing : State := setF F.ERR_RING_CFG_ENABLE [] 1 (setF F.LNK_STATUS_STATE [0] Ps.training State.reset)

/-- The parameter block of port 2 of the neighbour at address 1, with every rate (R106). -/
def nextNeighbour : List Byte := natLe 2 1 ++ [2, 7] ++ zeros 14 ++ natLe 2 1 ++ zeros 12

/-- The first attempt, at rate 3 on four lanes, is due on port 0. -/
theorem trainingWithRing_due : portState 0 trainingWithRing = Ps.training ∧ (portOf 0 trainingWithRing).passFailed = false ∧
    nextNeighbour.length = 32 ∧
    (combinations (passSets 0 7 (fieldAt nextNeighbour 3 1) trainingWithRing).2
      (portOf 0 trainingWithRing).passWidth)[(portOf 0 trainingWithRing).attempt]? = some (3, 2) ∧
    (fieldAt nextNeighbour 3 1).testBit 2 = true ∧ lanesOfWidth 15 4 = some (2, 15) := by decide +kernel

/-- The attempt completes: the parameter block leaves, and behind it the record of the port that is UP. -/
theorem trainingWithRing_sends : ∃ t, exec (.trainingComplete 0 7 15 nextNeighbour 0) trainingWithRing = .next t ∧
    portState 0 t = Ps.up ∧ t.out.length = 2 := ⟨_, rfl, by decide +kernel, by decide +kernel⟩

/-- Refutes O38: its clause on TRAINING_COMPLETE lets the parameter block alone leave the device, but training raises a link event
(R500), whose record is written to the host where the event ring is enabled (R469). `trainingWithRing` is such a state. -/
theorem not_portsChangeState : ¬ Obligations.PortsChangeState := by
  unfold Obligations.PortsChangeState
  intro h
  obtain ⟨-, htrain, -⟩ := h 0 trainingWithRing (by decide)
  obtain ⟨hstate, hpass, hlen, hdue, hrate, hlanes⟩ := trainingWithRing_due
  obtain ⟨t, hexec, -, -, -, -, hout, -⟩ := htrain 3 2 15 0 7 15 nextNeighbour hstate hpass hlen hdue hrate hlanes
  obtain ⟨u, hsends, -, htwo⟩ := trainingWithRing_sends
  obtain rfl : t = u := Host.Outcome.next.inj (hexec.symm.trans hsends)
  rw [hout] at htwo
  exact absurd htwo (by decide)

end Sys2Proof.Machine
end

section
/-! Routes (R139, R142, R146 to R149, R161). -/

namespace Sys2Proof.Machine

open Sys2Proof

/-! Ports and dimensions. -/

theorem portAt_lt {d dir k : Nat} (hd : d < 4) (hdir : dir < 2) (hk : k < 2) : portAt d dir k < 16 := by
  unfold portAt; omega

theorem portAt_div {d dir k : Nat} (hdir : dir < 2) (hk : k < 2) : portAt d dir k / 4 = d := by
  unfold portAt; omega

theorem mem_workDims_lt {dest : BitVec 16} {d : Nat} {s : State} (h : d ∈ workDims dest s) : d < 4 :=
  List.mem_range.1 (List.mem_filter.1 h).1

theorem usableDirs_lt {d dir : Nat} {dest : BitVec 16} {s : State} (h : dir ∈ usableDirs d dest s) : dir < 2 := by
  unfold usableDirs at h
  extract_lets n c hp hm minimal clear at h
  have hmin : ∀ x ∈ minimal, x < 2 := by unfold minimal; repeat' split <;> simp
  split at h
  · have hboth := (List.mem_filter.1 (List.mem_filter.1 h).1).1
    simp at hboth
    omega
  · exact hmin dir (List.mem_filter.1 h).1

/-- The member of a direction to use is a usable port of its dimension (R146). -/
theorem pickMember_spec {d dir k : Nat} {s : State} {x : Nat × Bool} (hd : d < 4) (hdir : dir < 2) (hk : k < 2)
    (h : pickMember d dir k s = some x) : x.1 < 16 ∧ portUsable x.1 s = true ∧ x.1 / 4 = d := by
  unfold pickMember at h
  split at h
  next hu =>
    obtain rfl := Option.some.inj h
    exact ⟨portAt_lt hd hdir hk, hu, portAt_div hdir hk⟩
  next =>
    split at h
    next hu =>
      obtain rfl := Option.some.inj h
      exact ⟨portAt_lt hd hdir (by omega), hu, portAt_div hdir (by omega)⟩
    · cases h

/-- Dimension order leaves by a usable port of the first dimension with work to do (R146). -/
theorem dimOrder_spec {p : Packet} {inp vcIn vcOut : Nat} {s : State} {x : Nat × Bool}
    (h : dimOrder p inp vcIn vcOut s = some x) :
    x.1 < 16 ∧ portUsable x.1 s = true ∧ (workDims p.dest s).head? = some (x.1 / 4) := by
  unfold dimOrder at h
  split at h
  · cases h
  next d ds hdims =>
    have hd : d < 4 := mem_workDims_lt (hdims ▸ List.mem_cons_self)
    rw [hdims, List.head?_cons]
    have key : ∀ {dir k y}, dir < 2 → k < 2 → pickMember d dir k s = some y →
        y.1 < 16 ∧ portUsable y.1 s = true ∧ some d = some (y.1 / 4) := fun hdir hk hy => by
      obtain ⟨hlt, hu, hdim⟩ := pickMember_spec hd hdir hk hy
      exact ⟨hlt, hu, congrArg some hdim.symm⟩
    split at h
    · extract_lets dir c n at h
      generalize (if dir = 0 then c else (c + n - 1) % n) = link at h
      split at h
      · cases h
      · exact key (dir := dir) (k := inp % 2) (by omega) (by omega) h
    · extract_lets hash coll dir? at h
      split at h
      · obtain ⟨y, hy, rfl⟩ := Option.map_eq_some_iff.1 h
        exact key (y := y) (dir := 1 - (inp - 27) / 2 % 2) (k := (inp - 27) % 2) (by omega) (by omega) hy
      · obtain ⟨dir, hdir, hmap⟩ := Option.bind_eq_some_iff.1 h
        obtain ⟨y, hy, rfl⟩ := Option.map_eq_some_iff.1 hmap
        refine key (y := y) (dir := dir) (k := if hash.getLsbD (2 * d) then 1 else 0) ?_ (by split <;> decide) hy
        unfold dir? at hdir
        split at hdir
        · cases hdir
        next a ha =>
          obtain rfl := Option.some.inj hdir
          exact usableDirs_lt (ha ▸ List.mem_cons_self)
        · obtain rfl := Option.some.inj hdir
          split <;> decide

/-- On the ordered virtual channels a packet goes by dimension order or nowhere (R146, R149). -/
theorem route_ordered {p : Packet} {inp vc : Nat} {s : State} (hg : geomValid s = true) (hd : p.dest ≠ ownAddr s)
    (ho : outside p.dest s = false) (h5 : vc ≠ 5) (h1 : vc ≠ 1) : route p inp vc s =
      (dimOrder p inp vc vc s).elim (.discard .SW_PATH_DISCARDS) (fun x => .port x.1 vc x.2) := by
  unfold route
  rw [if_neg (by simp [hg]), if_neg (by simp [ho]), if_neg h5, if_neg hd, if_neg h1]
  cases dimOrder p inp vc vc s <;> rfl

/-! Adaptive routes (R147). -/

theorem mem_adaptivePorts {p : Packet} {n : Nat} {s : State} (h : n ∈ adaptivePorts p s) :
    n < 16 ∧ portUp n s = true ∧ n / 4 ∈ workDims p.dest s := by
  obtain ⟨hn, hf⟩ := List.mem_filter.1 h
  simp only [Bool.and_eq_true, List.contains_iff_mem] at hf
  obtain ⟨⟨hup, hdim⟩, -⟩ := hf
  exact ⟨List.mem_range.1 hn, hup, hdim⟩

theorem portUsable_of_portUp {n : Nat} {s : State} (h : portUp n s = true) : portUsable n s = true := by
  simp only [portUp, Bool.and_eq_true] at h
  simp [portUsable, h]

/-- The adaptive choice is one of the ports. -/
theorem adaptiveChoice_mem {p : Packet} {ports : List Nat} {s : State} (h : ports ≠ []) :
    ∃ n ∈ ports, adaptiveChoice p ports s = some n := by
  have hne : (ports.map (fun n => getF F.SW_CONG_ESTIMATE [n] s / 4096)) ≠ [] := by simpa using h
  unfold adaptiveChoice
  extract_lets est
  cases hm : (ports.map est).min? with
  | none => exact absurd (List.min?_eq_none_iff.1 hm) hne
  | some m =>
    obtain ⟨a, ha, hest⟩ := List.mem_map.1 (List.min?_mem hm)
    have hpos : 0 < (ports.filter (fun n => decide (est n = m))).length :=
      List.length_pos_of_mem (List.mem_filter.2 ⟨ha, decide_eq_true hest⟩)
    have hlt := Nat.mod_lt (hashOf p s).toNat hpos
    exact ⟨_, (List.mem_filter.1 (List.getElem_mem hlt)).1, List.getElem?_eq_getElem hlt⟩

/-- A packet with work to do goes to an UP port on VC1, or by dimension order on VC2, or it waits (R147, R149). -/
theorem route_adaptive {p : Packet} {inp : Nat} {s : State} (hg : geomValid s = true) (hd : p.dest ≠ ownAddr s)
    (ho : outside p.dest s = false) :
    route p inp 1 s = .discard .SW_PATH_DISCARDS ∨
    (route p inp 1 s = .stay ∧ adaptivePorts p s = [] ∧ adaptiveWaits p s = true) ∨
    ∃ n v b, route p inp 1 s = .port n v b ∧ ((v = 1 ∧ portUp n s = true) ∨ v = 2) ∧ n < 16 ∧ portUsable n s = true ∧
      n / 4 ∈ workDims p.dest s := by
  have adaptive : ∀ {n}, n ∈ adaptivePorts p s → ∃ m v b, RouteTo.port n 1 false = .port m v b ∧
      ((v = 1 ∧ portUp m s = true) ∨ v = 2) ∧ m < 16 ∧ portUsable m s = true ∧ m / 4 ∈ workDims p.dest s := fun hn => by
    obtain ⟨hlt, hup, hdim⟩ := mem_adaptivePorts hn
    exact ⟨_, _, _, rfl, .inl ⟨rfl, hup⟩, hlt, portUsable_of_portUp hup, hdim⟩
  unfold route
  rw [if_neg (by simp [hg]), if_neg (by simp [ho]), if_neg (by decide), if_neg hd, if_pos rfl]
  extract_lets ports
  split
  next hempty =>
    split
    next hwait => exact .inr (.inl ⟨rfl, List.isEmpty_iff.1 hempty, hwait⟩)
    · exact .inl rfl
  next hne =>
    obtain ⟨n, hn, hchoice⟩ := adaptiveChoice_mem (p := p) (s := s) (ports := ports) (by simpa using hne)
    rw [hchoice]
    split
    · exact .inr (.inr (adaptive hn))
    · split
      next m enters hdim =>
        obtain ⟨hlt, hu, hhead⟩ := dimOrder_spec hdim
        split
        · exact .inr (.inr ⟨_, _, _, rfl, .inr rfl, hlt, hu, List.mem_of_head? hhead⟩)
        · exact .inr (.inr (adaptive hn))
      · exact .inr (.inr (adaptive hn))

/-! Fixed lines (R161). -/

/-- A packet without an entry of its line is discarded. -/
theorem route_noLine {p : Packet} {inp : Nat} {s : State} (hg : geomValid s = true)
    (ho : p.dest = ownAddr s ∨ outside p.dest s = false) (hline : lineEntry p inp s = none) :
    route p inp 5 s = .discard .SW_LINE_DISCARDS := by
  have hin : ¬ (p.dest ≠ ownAddr s ∧ outside p.dest s = true) := fun h => ho.elim h.1 (by simp [h.2])
  unfold route
  rw [if_neg (by simp [hg]), if_neg hin, if_pos rfl, hline]

/-- The entry of its line takes a packet to delivery at this device, or to a port that is usable. -/
theorem route_line {p : Packet} {inp : Nat} {s : State} {e : BitVec 128} (hg : geomValid s = true)
    (ho : p.dest = ownAddr s ∨ outside p.dest s = false) (hline : lineEntry p inp s = some e) :
    ∃ b, route p inp 5 s = if nbits 63 56 e.toNat = 16 then deliverTo p s
      else if nbits 63 56 e.toNat < 16 ∧ portUsable (nbits 63 56 e.toNat) s = true then .port (nbits 63 56 e.toNat) 5 b
      else .discard .SW_LINE_DISCARDS := by
  have hin : ¬ (p.dest ≠ ownAddr s ∧ outside p.dest s = true) := fun h => ho.elim h.1 (by simp [h.2])
  unfold route
  rw [if_neg (by simp [hg]), if_neg hin, if_pos rfl, hline]
  exact ⟨_, rfl⟩

/-! Delivery, and the device without a geometry. -/

/-- Delivery here, or the discard of a packet whose job has no rope (R142). -/
def Delivers (r : RouteTo) : Prop := (∃ out, r = .deliver out ∧ 16 ≤ out) ∨ r = .discard .SW_JOB_DISCARDS

theorem delivers_deliver {out : Nat} (h : 16 ≤ out) : Delivers (.deliver out) := .inl ⟨out, rfl, h⟩

theorem delivers_discard : Delivers (.discard .SW_JOB_DISCARDS) := .inr rfl

theorem delivers_deliverTo (p : Packet) (s : State) : Delivers (deliverTo p s) := by
  unfold deliverTo
  extract_lets k
  split
  · split
    · exact delivers_deliver (by decide)
    · split
      · exact delivers_deliver (Nat.le_add_right_of_le (by decide))
      · split
        · exact delivers_discard
        · split
          · exact delivers_deliver (Nat.le_add_right 16 _)
          · exact delivers_deliver (Nat.le_add_right_of_le (by decide))
  · split
    · exact delivers_deliver (by decide)
    · split
      · exact delivers_deliver (Nat.le_add_right_of_le (by decide))
      · split
        · exact delivers_deliver (by decide)
        · split
          · exact delivers_discard
          · split
            · exact delivers_deliver (Nat.le_add_right 16 _)
            · exact delivers_deliver (Nat.le_add_right_of_le (by decide))

/-- Management traffic leaves by an UP port of the first dimension with work to do, or is discarded (R139). -/
theorem manageRoute_spec (p : Packet) (s : State) : manageRoute p s = .discard .SW_PATH_DISCARDS ∨
    ∃ n b, manageRoute p s = .port n p.vc b ∧ n < 16 ∧ portUp n s = true := by
  unfold manageRoute
  split
  · exact .inl rfl
  · split
    · exact .inl rfl
    next d ds hdims =>
      have hd : d < 4 := mem_workDims_lt (hdims ▸ List.mem_cons_self)
      extract_lets dir
      have hdir : dir < 2 := by unfold dir; split <;> decide
      split
      next n hn =>
        refine .inr ⟨n, true, rfl, ?_⟩
        split at hn
        next hu =>
          obtain rfl := Option.some.inj hn
          exact ⟨portAt_lt hd hdir (by decide), hu⟩
        · split at hn
          next hu =>
            obtain rfl := Option.some.inj hn
            exact ⟨portAt_lt hd hdir (by decide), hu⟩
          · cases hn
      · exact .inl rfl

/-- Settles O42: each clause names the branch of `route` that its hypotheses select, and a port that a branch answers is one that
`pickMember`, `adaptivePorts`, the entry of the line or the management route has found usable. -/
theorem routesFollowTheRules : Obligations.RoutesFollowTheRules := by
  unfold Obligations.RoutesFollowTheRules
  intro p inp vc s r
  refine ⟨?_, ?_, ?_, ?_, ?_, ?_⟩
  · intro hvc hd
    have hr : r = deliverTo p s := by
      cases hg : geomValid s with
      | false => simp [r, route, hg, hd]
      | true =>
        have h5 : vc ≠ 5 := hvc.resolve_left (by simp [hg])
        simp [r, route, hg, hd, h5]
    exact hr ▸ delivers_deliverTo p s
  · intro hg hd ho
    simp [r, route, hg, hd, ho]
  · intro hg hd ho hvc
    have h5 : vc ≠ 5 := by rintro rfl; simp at hvc
    have h1 : vc ≠ 1 := by rintro rfl; simp at hvc
    have hr : r = _ := route_ordered hg hd ho h5 h1
    cases hdim : dimOrder p inp vc vc s with
    | none => exact .inl (by rw [hr, hdim, Option.elim_none])
    | some x =>
      obtain ⟨hlt, hu, hhead⟩ := dimOrder_spec hdim
      exact .inr ⟨x.1, x.2, by rw [hr, hdim, Option.elim_some], hlt, hu, hhead⟩
  · rintro hg hd ho rfl
    exact route_adaptive hg hd ho
  · rintro hg ho rfl
    refine ⟨fun hline => route_noLine hg ho hline, fun e hline => ?_⟩
    obtain ⟨b, hr⟩ := route_line hg ho hline
    intro out
    refine ⟨fun h => hr.trans (if_pos h), fun h hu => ⟨b, hr.trans ?_⟩, fun h hu => hr.trans ?_⟩
    · rw [if_neg (show out ≠ 16 by omega), if_pos ⟨h, hu⟩]
    · rw [if_neg h, if_neg]
      rintro ⟨hlt, hus⟩
      rcases hu with hu | hu
      · exact absurd hlt (by omega)
      · exact absurd hus (by simp [out, hu])
  · intro hg hd
    have hr : r = if isManagement p then manageRoute p s else .discard .SW_PATH_DISCARDS := by simp [r, route, hg, hd]
    refine ⟨fun hm => by rw [hr, if_neg (by simp [hm])], ?_⟩
    rw [hr]
    split
    · exact manageRoute_spec p s
    · exact .inl rfl

end Sys2Proof.Machine
end

section
/-! The buffers of the switch core (R121, R175, R187): what the shared operations on queues and mirror copies change. -/

namespace Sys2Proof.Machine

open Sys2Proof

/-! Queues. -/

@[simp] theorem inQ_setInQ_same (inp vc : Nat) (l : List Packet) (s : State) : inQ inp vc (setInQ inp vc l s) = l := by
  simp [inQ, setInQ]

@[simp] theorem outQ_setOutQ_same (out vc : Nat) (l : List (Packet × Nat × Bool)) (s : State) :
    outQ out vc (setOutQ out vc l s) = l := by
  simp [outQ, setOutQ]

theorem outQ_setOutQ_other {out vc o v : Nat} (l : List (Packet × Nat × Bool)) (s : State) (hvc : vc < 6) (hv : v < 6)
    (h : (o, v) ≠ (out, vc)) : outQ o v (setOutQ out vc l s) = outQ o v s := by
  refine tget_tset_other _ _ _ _ fun he => h ?_
  rw [Prod.mk.injEq]
  omega

@[simp] theorem inQ_setOutQ (i v out vc : Nat) (l : List (Packet × Nat × Bool)) (s : State) :
    inQ i v (setOutQ out vc l s) = inQ i v s := rfl

@[simp] theorem outQ_setInQ (o v inp vc : Nat) (l : List Packet) (s : State) : outQ o v (setInQ inp vc l s) = outQ o v s := rfl

/-- An output queue only depends on the output queues. -/
theorem outQ_congr {s t : State} (o v : Nat) (h : t.switch.outq = s.switch.outq) : outQ o v t = outQ o v s := by
  rw [outQ, h, outQ]

theorem inQ_congr {s t : State} (i v : Nat) (h : t.switch.inq = s.switch.inq) : inQ i v t = inQ i v s := by
  rw [inQ, h, inQ]

/-! Ports. -/

@[simp] theorem portOf_modPort_same (n : Nat) (f : Port → Port) (s : State) : portOf n (modPort n f s) = f (portOf n s) := by
  simp [portOf, modPort]

theorem portOf_modPort_other {n m : Nat} (f : Port → Port) (s : State) (h : m ≠ n) : portOf m (modPort n f s) = portOf m s :=
  tget_tmod_other _ _ _ _ h

/-- A port only depends on the ports. -/
theorem portOf_congr {s t : State} (n : Nat) (h : t.ports = s.ports) : portOf n t = portOf n s := by
  rw [portOf, h, portOf]

/-! Counters. -/

@[simp] theorem countR_switch (r : Reg) (ix : List Nat) (s : State) : (countR r ix s).switch = s.switch := rfl

@[simp] theorem countR_ports (r : Reg) (ix : List Nat) (s : State) : (countR r ix s).ports = s.ports := rfl

@[simp] theorem countR_out (r : Reg) (ix : List Nat) (s : State) : (countR r ix s).out = s.out := rfl

@[simp] theorem getR_countR_same (r : Reg) (ix : List Nat) (s : State) : getR r ix (countR r ix s) = getR r ix s + 1 :=
  getR_setR_same ..

/-! Mirror copies (R187 to R189). -/

/-- The registers of buffers in use and of mirror sessions. -/
abbrev IsBufferReg (o : Nat) : Prop := (0x700200 ≤ o ∧ o < 0x700300) ∨ (0x700400 ≤ o ∧ o < 0x700500)

/-- From `s` to `t` nothing changed but the mirror copies that wait and the registers of buffers and sessions. -/
def Mirrored (s t : State) : Prop :=
  ∃ rs q, t = { s with regs := rs, switch := { s.switch with mirrorq := q } } ∧
    ∀ o, ¬ IsBufferReg o → ∀ d, tget d rs o = tget d s.regs o

namespace Mirrored

variable {s t u : State}

theorem refl (s : State) : Mirrored s s := ⟨s.regs, s.switch.mirrorq, rfl, fun _ _ _ => rfl⟩

theorem trans (h : Mirrored s t) (g : Mirrored t u) : Mirrored s u := by
  obtain ⟨rs, q, rfl, hr⟩ := h
  obtain ⟨rs', q', rfl, hr'⟩ := g
  exact ⟨rs', q', rfl, fun o ho d => (hr' o ho d).trans (hr o ho d)⟩

theorem setF (h : Mirrored s t) {f : Fld} {ix : List Nat} {v : Nat} (ho : IsBufferReg (regOff f.reg ix)) :
    Mirrored s (setF f ix v t) :=
  h.trans ⟨_, t.switch.mirrorq, rfl, fun _ hn _ => tget_tset_other _ _ _ _ fun he => hn (he ▸ ho)⟩

theorem out_eq (h : Mirrored s t) : t.out = s.out := by obtain ⟨_, _, rfl, -⟩ := h; rfl

theorem ports_eq (h : Mirrored s t) : t.ports = s.ports := by obtain ⟨_, _, rfl, -⟩ := h; rfl

theorem inq_eq (h : Mirrored s t) : t.switch.inq = s.switch.inq := by obtain ⟨_, _, rfl, -⟩ := h; rfl

theorem outq_eq (h : Mirrored s t) : t.switch.outq = s.switch.outq := by obtain ⟨_, _, rfl, -⟩ := h; rfl

theorem delivered_eq (h : Mirrored s t) : t.switch.delivered = s.switch.delivered := by obtain ⟨_, _, rfl, -⟩ := h; rfl

theorem getR_eq (h : Mirrored s t) {r : Reg} {ix : List Nat} (ho : ¬ IsBufferReg (regOff r ix)) : getR r ix t = getR r ix s := by
  obtain ⟨_, _, rfl, hr⟩ := h
  exact hr _ ho _

theorem getF_eq (h : Mirrored s t) {f : Fld} {ix : List Nat} (ho : ¬ IsBufferReg (regOff f.reg ix)) : getF f ix t = getF f ix s := by
  rw [getF, h.getR_eq ho, getF]

end Mirrored

/-- `noteUnits` writes the buffer registers alone. -/
theorem noteUnits_eq (out : Nat) (s : State) :
    ∃ rs, noteUnits out s = { s with regs := rs } ∧ ∀ o, ¬ IsBufferReg o → ∀ d, tget d rs o = tget d s.regs o := by
  unfold noteUnits
  split
  · exact ⟨s.regs, rfl, fun _ _ _ => rfl⟩
  next hlt =>
    have ho : IsBufferReg (regOff .SW_OUTBUF [out]) := by simp [IsBufferReg, regOff, regDesc, dimOff]; omega
    have hother : ∀ {o : Nat}, ¬ IsBufferReg o → o ≠ regOff .SW_OUTBUF [out] := fun hn he => hn (he ▸ ho)
    extract_lets n t
    split
    · exact ⟨_, rfl, fun _ hn d => (tget_tset_other _ _ _ _ (hother hn)).trans (tget_tset_other _ _ _ _ (hother hn))⟩
    · exact ⟨_, rfl, fun _ hn d => tget_tset_other _ _ _ _ (hother hn)⟩

theorem noteUnits_mirrored (out : Nat) (s : State) : Mirrored s (noteUnits out s) := by
  obtain ⟨rs, he, hr⟩ := noteUnits_eq out s
  exact ⟨rs, s.switch.mirrorq, he, hr⟩

@[simp] theorem noteUnits_switch (out : Nat) (s : State) : (noteUnits out s).switch = s.switch := by
  obtain ⟨_, he, -⟩ := noteUnits_eq out s
  rw [he]

@[simp] theorem noteUnits_ports (out : Nat) (s : State) : (noteUnits out s).ports = s.ports := (noteUnits_mirrored out s).ports_eq

@[simp] theorem noteUnits_out (out : Nat) (s : State) : (noteUnits out s).out = s.out := (noteUnits_mirrored out s).out_eq

theorem mirrorCopies_mirrored (egress : Bool) (port : Nat) (p : Packet) (s : State) : Mirrored s (mirrorCopies egress port p s) := by
  unfold mirrorCopies
  split
  · exact Mirrored.refl s
  · refine forN_rel (R := Mirrored) Mirrored.refl (fun _ _ _ => Mirrored.trans) (fun i hi u => ?_) s
    have ho : IsBufferReg (regOff .SW_MIRROR_COUNTS [i]) := by simp [IsBufferReg, regOff, regDesc, dimOff]; omega
    extract_lets kind src ana sel q sw v
    split
    · exact Mirrored.refl u
    · split
      · have hv : Mirrored u v := ⟨u.regs, _, rfl, fun _ _ _ => rfl⟩
        exact (hv.trans (noteUnits_mirrored ana v)).setF ho
      · exact (Mirrored.refl u).setF ho

/-- A copy is not copied again. -/
theorem mirrorCopies_of_mirror {egress : Bool} {port : Nat} {p : Packet} {s : State} (h : p.mirror = true) :
    mirrorCopies egress port p s = s := by
  rw [mirrorCopies, if_pos h]

/-! Credits (R121). -/

/-- What a packet's credits add to what its port is to return: nothing where the training has set them afresh. -/
def Packet.owed (p : Packet) : Nat := if p.stale then 0 else p.credits

/-- A port that has `n` credits more of a VC to return. -/
def Port.owe (vc n : Nat) (q : Port) : Port := { q with toReturn := tset 0 q.toReturn vc (tget 0 q.toReturn vc + n) }

theorem freeCredits_eq (inp vc : Nat) (p : Packet) (s : State) : freeCredits inp vc p s =
    if inp < 16 ∧ vc < 6 then
      setR .LNK_VC_FREED [inp, vc] (getR .LNK_VC_FREED [inp, vc] s + BitVec.ofNat 64 p.owed) (modPort inp (Port.owe vc p.owed) s)
    else s := rfl

@[simp] theorem freeCredits_switch (inp vc : Nat) (p : Packet) (s : State) : (freeCredits inp vc p s).switch = s.switch := by
  rw [freeCredits_eq]; split <;> rfl

@[simp] theorem freeCredits_out (inp vc : Nat) (p : Packet) (s : State) : (freeCredits inp vc p s).out = s.out := by
  rw [freeCredits_eq]; split <;> rfl

/-- Freed credits wait at their port to be returned. -/
theorem portOf_freeCredits (inp vc : Nat) (p : Packet) (s : State) :
    ∃ l, portOf inp (freeCredits inp vc p s) = { portOf inp s with toReturn := l } := by
  rw [freeCredits_eq]
  split
  · exact ⟨_, portOf_modPort_same inp (Port.owe vc p.owed) s⟩
  · exact ⟨_, rfl⟩

theorem getR_freeCredits {inp vc : Nat} {p : Packet} {s : State} {r : Reg} {ix : List Nat}
    (h : inp < 16 → vc < 6 → regOff r ix ≠ regOff .LNK_VC_FREED [inp, vc]) :
    getR r ix (freeCredits inp vc p s) = getR r ix s := by
  rw [freeCredits_eq]
  split
  next hp => exact getR_setR_other _ _ (h hp.1 hp.2)
  · rfl

/-- Freed credits are counted (R121). -/
theorem getR_freeCredits_same {inp vc : Nat} {p : Packet} {s : State} (hi : inp < 16) (hv : vc < 6) (hp : p.stale = false) :
    getR .LNK_VC_FREED [inp, vc] (freeCredits inp vc p s) = getR .LNK_VC_FREED [inp, vc] s + BitVec.ofNat 64 p.credits := by
  rw [freeCredits_eq, if_pos ⟨hi, hv⟩, getR_setR_same, Packet.owed, if_neg (by simp [hp])]

end Sys2Proof.Machine
end

section
/-! Admission (R121, R174 to R177, R184, R185): what SWITCH_ADMIT moves. -/

namespace Sys2Proof.Machine

open Sys2Proof

/-! The steps of an admission. -/

theorem popInput_switch (inp vc : Nat) (p : Packet) (s : State) : (popInput inp vc p s).switch =
    { s.switch with inq := tset [] s.switch.inq (inp * 8 + vc) ((inQ inp vc s).drop 1) } := by
  rw [popInput, freeCredits_switch]; rfl

@[simp] theorem popInput_out (inp vc : Nat) (p : Packet) (s : State) : (popInput inp vc p s).out = s.out := by
  rw [popInput, freeCredits_out]; rfl

theorem popInput_outq (inp vc : Nat) (p : Packet) (s : State) : (popInput inp vc p s).switch.outq = s.switch.outq := by
  rw [popInput_switch]

theorem inQ_popInput (inp vc : Nat) (p : Packet) (s : State) : inQ inp vc (popInput inp vc p s) = (inQ inp vc s).drop 1 := by
  rw [inQ, popInput_switch, tget_tset_same]

theorem getR_popInput {inp vc : Nat} {p : Packet} {s : State} {r : Reg} {ix : List Nat}
    (h : inp < 16 → vc < 6 → regOff r ix ≠ regOff .LNK_VC_FREED [inp, vc]) : getR r ix (popInput inp vc p s) = getR r ix s :=
  getR_freeCredits h

/-- Beyond the link interfaces a register is none of the counters of freed credits. -/
theorem getR_popInput_switch {inp vc : Nat} (p : Packet) (s : State) {r : Reg} {ix : List Nat} (h : 0x700000 ≤ regOff r ix) :
    getR r ix (popInput inp vc p s) = getR r ix s := by
  refine getR_popInput fun hi hv he => ?_
  have hlt : regOff .LNK_VC_FREED [inp, vc] < 0x700000 := by simp [regOff, regDesc, dimOff]; omega
  omega

@[simp] theorem countForward_switch (inp out vc : Nat) (s : State) : (countForward inp out vc s).switch = s.switch := by
  unfold countForward; split <;> rfl

@[simp] theorem countForward_out (inp out vc : Nat) (s : State) : (countForward inp out vc s).out = s.out := by
  unfold countForward; split <;> rfl

theorem admitAt_switch (out vc : Nat) (p : Packet) (inp : Nat) (enters : Bool) (s : State) :
    (admitAt out vc p inp enters s).switch =
      { s.switch with
        outq := tset [] s.switch.outq (out * 8 + vc) (outQ out vc s ++ [({ p with vc := vc, stale := false }, inp, enters)])
        rrIn := tset 0 s.switch.rrIn (out * 8 + vc) ((inp + 1) % 43) } := by
  rw [admitAt, enqueueOut, noteUnits_switch]; rfl

@[simp] theorem admitAt_out (out vc : Nat) (p : Packet) (inp : Nat) (enters : Bool) (s : State) :
    (admitAt out vc p inp enters s).out = s.out := by
  rw [admitAt, enqueueOut, noteUnits_out]; rfl

theorem outQ_admitAt (out vc : Nat) (p : Packet) (inp : Nat) (enters : Bool) (s : State) :
    outQ out vc (admitAt out vc p inp enters s) = outQ out vc s ++ [({ p with vc := vc, stale := false }, inp, enters)] := by
  rw [outQ, admitAt_switch, tget_tset_same]

theorem outQ_admitAt_other {out vc o v : Nat} (p : Packet) (inp : Nat) (enters : Bool) (s : State) (hvc : vc < 6) (hv : v < 6)
    (h : (o, v) ≠ (out, vc)) : outQ o v (admitAt out vc p inp enters s) = outQ o v s := by
  rw [outQ, admitAt_switch]
  exact outQ_setOutQ_other _ s hvc hv h

/-! A unicast head (R176, R177). -/

section

variable {inp vc : Nat} {p : Packet} {l : List Packet} {s : State} (hq : inQ inp vc s = p :: l)

include hq

theorem admitStep_unicast_discard {c : Reg} (hm : p.multicast = false) (hr : route p inp vc s = .discard c) :
    admitStep inp vc s = countR c [] (popInput inp vc p s) := by
  simp [admitStep, hq, hm, hr]

theorem admitStep_unicast_stay (hm : p.multicast = false) (hr : route p inp vc s = .stay) : admitStep inp vc s = s := by
  simp [admitStep, hq, hm, hr]

/-- A head that its route sends to an output goes there when the output takes it, off its input. -/
theorem admitStep_unicast_output {out v : Nat} {b : Bool} (hm : p.multicast = false)
    (hr : route p inp vc s = .port out v b ∨ (route p inp vc s = .deliver out ∧ v = vc ∧ b = false)) :
    ∃ u, u.switch = (popInput inp vc p s).switch ∧ u.out = s.out ∧ admitStep inp vc s =
      if canAdmit out v p.credits s = true ∧ inTurn out v inp s = true then admitAt out v p inp b u else s := by
  rcases hr with hr | ⟨hr, rfl, rfl⟩
  · refine ⟨countForward inp out v (popInput inp vc p s), by simp, by simp, ?_⟩
    simp only [admitStep, hq, hm, hr, Bool.false_eq_true, if_false]
  · refine ⟨countR .SW_SAF_PACKETS [] (popInput inp v p s), by simp, by simp, ?_⟩
    simp only [admitStep, hq, hm, hr, Bool.false_eq_true, if_false]

theorem admitStep_multicast (hm : p.multicast = true) : admitStep inp vc s = admitMulticast inp vc p s := by
  simp [admitStep, hq, hm]

end


/-! Copies of a multicast head (R184, R185). -/

/-- Output `o` takes its copy of a packet of input `inp`. -/
def takeCopy (inp vc : Nat) (p : Packet) (o : Nat) (s : State) : State :=
  admitAt o vc { p with group := 0, copied := [] } inp (copyEnters inp o)
    (countForward inp o vc (countR .SW_MCAST_COPIES [] s))

/-- What output `o` queues of a multicast packet. -/
def copyOf (inp vc : Nat) (p : Packet) (o : Nat) : Packet × Nat × Bool :=
  ({ p with vc := vc, group := 0, copied := [], stale := false }, inp, copyEnters inp o)

theorem outQ_takeCopy {inp vc o o' v : Nat} (p : Packet) (s : State) (hvc : vc < 6) (hv : v < 6) :
    outQ o' v (takeCopy inp vc p o s) = if v = vc ∧ o' = o then outQ o' v s ++ [copyOf inp vc p o] else outQ o' v s := by
  have hswitch : (countForward inp o vc (countR .SW_MCAST_COPIES [] s)).switch = s.switch := by simp
  split
  next h =>
    obtain ⟨rfl, rfl⟩ := h
    rw [takeCopy, outQ_admitAt, outQ_congr _ _ (congrArg Switch.outq hswitch)]
    rfl
  next h =>
    rw [takeCopy, outQ_admitAt_other _ _ _ _ hvc hv (by simp; tauto), outQ_congr _ _ (congrArg Switch.outq hswitch)]

theorem takeCopy_inq (inp vc : Nat) (p : Packet) (o : Nat) (s : State) : (takeCopy inp vc p o s).switch.inq = s.switch.inq := by
  rw [takeCopy, admitAt_switch]
  simp

theorem takeCopy_out (inp vc : Nat) (p : Packet) (o : Nat) (s : State) : (takeCopy inp vc p o s).out = s.out := by
  simp [takeCopy]

/-- The outputs of a list take their copies. -/
def takeCopies (inp vc : Nat) (p : Packet) (l : List Nat) (s : State) : State := forList l s (takeCopy inp vc p)

theorem takeCopies_inq (inp vc : Nat) (p : Packet) (l : List Nat) (s : State) :
    (takeCopies inp vc p l s).switch.inq = s.switch.inq :=
  forList_inv (P := fun t => t.switch.inq = s.switch.inq) (fun o _ u h => (takeCopy_inq inp vc p o u).trans h) rfl

theorem takeCopies_out (inp vc : Nat) (p : Packet) (l : List Nat) (s : State) : (takeCopies inp vc p l s).out = s.out :=
  forList_inv (P := fun t => t.out = s.out) (fun o _ u h => (takeCopy_out inp vc p o u).trans h) rfl

/-- Each output of the list gets one copy, on the packet's virtual channel, and no other output one. -/
theorem outQ_takeCopies {inp vc v : Nat} (p : Packet) {l : List Nat} (hl : l.Nodup) (hvc : vc < 6) (hv : v < 6) (o : Nat)
    (s : State) : outQ o v (takeCopies inp vc p l s) =
      if v = vc ∧ o ∈ l then outQ o v s ++ [copyOf inp vc p o] else outQ o v s := by
  induction l generalizing s with
  | nil => simp [takeCopies, forList]
  | cons a l ih =>
    obtain ⟨ha, hl⟩ := List.nodup_cons.1 hl
    rw [takeCopies, forList_cons, ← takeCopies, ih hl, outQ_takeCopy p s hvc hv]
    by_cases hva : v = vc ∧ o = a
    · obtain ⟨rfl, rfl⟩ := hva
      simp [ha]
    · have hmem : v = vc ∧ o ∈ a :: l ↔ v = vc ∧ o ∈ l := by
        rw [List.mem_cons]; tauto
      simp only [hva, hmem, if_false]

/-- What is not delivered is counted, and nothing else changes. -/
theorem noteMcast_keeps (inp : Nat) (p : Packet) (s : State) :
    (noteMcast inp p s).switch = s.switch ∧ (noteMcast inp p s).out = s.out := by
  unfold noteMcast
  extract_lets t
  have ht : t.switch = s.switch ∧ t.out = s.out := by unfold t; split <;> exact ⟨rfl, rfl⟩
  split
  · split
    · split <;> exact ht
    · exact ht
    · exact ht
  · exact ht

/-- The copies that are written now: of those due, the ones whose outputs take them. -/
def copiesNow (inp vc : Nat) (p : Packet) (s : State) : List Nat :=
  (mcastDue p s).filter (fun o => canAdmit o vc p.credits s && inTurn o vc inp s)

theorem nodup_copiesNow (inp vc : Nat) (p : Packet) (s : State) : (copiesNow inp vc p s).Nodup :=
  (((List.nodup_range).filter _).filter _).filter _

theorem admitMulticast_good {inp vc : Nat} {p : Packet} {s : State} (hb : mcastBad p vc = false) :
    admitMulticast inp vc p s =
      if copiesNow inp vc p s = mcastDue p s then noteMcast inp p (popInput inp vc p (takeCopies inp vc p (copiesNow inp vc p s) s))
      else setInQ inp vc ({ p with copied := p.copied ++ copiesNow inp vc p s } :: (inQ inp vc s).drop 1)
        (takeCopies inp vc p (copiesNow inp vc p s) s) := by
  have hlen : (copiesNow inp vc p s).length = (mcastDue p s).length ↔ copiesNow inp vc p s = mcastDue p s :=
    ⟨fun h => List.filter_sublist.eq_of_length h, fun h => by rw [h]⟩
  rw [admitMulticast, if_neg (by simp [hb])]
  exact if_congr hlen rfl rfl

theorem admitStep_badGroup {inp vc : Nat} {p : Packet} {l : List Packet} {s : State} (hq : inQ inp vc s = p :: l)
    (hm : p.multicast = true) (hb : mcastBad p vc = true) :
    admitStep inp vc s = countR .SW_MCAST_DISCARDS [] (popInput inp vc p s) := by
  rw [admitStep_multicast hq hm, admitMulticast, if_pos hb]

/-! SWITCH_ADMIT (R176). -/

theorem exec_switchAdmit {inp vc : Nat} (hi : inp < 43) (hv : vc < 6) (s : State) :
    exec (.switchAdmit inp vc) s = .next (admitStep inp vc (Quiet s)) := by
  show runIf _ _ s = _
  simp [runIf, hi, hv, Quiet]

section

variable {inp vc : Nat} (hi : inp < 43) (hv : vc < 6) {p : Packet} {l : List Packet} {s : State} (hq : inQ inp vc s = p :: l)

include hi hv hq

/-- The head goes, and is counted. -/
theorem switchAdmit_discards {c : Reg} (hc : 0x700000 ≤ regOff c [])
    (hu : admitStep inp vc (Quiet s) = countR c [] (popInput inp vc p (Quiet s))) :
    ∃ t, exec (.switchAdmit inp vc) s = .next t ∧ inQ inp vc t = l ∧ t.out = [] ∧
      getR c [] t = getR c [] s + 1 ∧ t.switch.outq = s.switch.outq := by
  refine ⟨_, (exec_switchAdmit hi hv s).trans (congrArg _ hu), ?_, ?_, ?_, ?_⟩
  · exact (inQ_popInput inp vc p (Quiet s)).trans (congrArg (List.drop 1) hq)
  · exact popInput_out inp vc p (Quiet s)
  · exact (getR_countR_same ..).trans (congrArg (· + 1) (getR_popInput_switch p (Quiet s) hc))
  · exact popInput_outq inp vc p (Quiet s)

/-- The head goes to an output that takes it, and the next input of its round robin is the one behind (R174). -/
theorem switchAdmit_moves {out v : Nat} {b : Bool} (hm : p.multicast = false)
    (hr : route p inp vc s = .port out v b ∨ (route p inp vc s = .deliver out ∧ v = vc ∧ b = false))
    (ha : canAdmit out v p.credits s = true) (ht : inTurn out v inp s = true) (hv6 : v < 6) :
    ∃ t, exec (.switchAdmit inp vc) s = .next t ∧ inQ inp vc t = l ∧ t.out = [] ∧
      outQ out v t = outQ out v s ++ [({ p with vc := v, stale := false }, inp, b)] ∧ OtherOutputs out v s t ∧
      tget 0 t.switch.rrIn (out * 8 + v) = (inp + 1) % 43 := by
  obtain ⟨u, hsw, hout, hu⟩ := admitStep_unicast_output (s := Quiet s) hq hm hr
  have houtq : u.switch.outq = s.switch.outq := by rw [hsw]; exact popInput_outq inp vc p (Quiet s)
  refine ⟨_, (exec_switchAdmit hi hv s).trans (congrArg _ (hu.trans (if_pos ⟨ha, ht⟩))), ?_, ?_, ?_, fun o w hw hne => ?_, ?_⟩
  · have hinq : inQ inp vc u = inQ inp vc (popInput inp vc p (Quiet s)) := inQ_congr _ _ (by rw [hsw])
    rw [inQ_congr inp vc (show (admitAt out v p inp b u).switch.inq = u.switch.inq by rw [admitAt_switch]), hinq, inQ_popInput]
    exact congrArg (List.drop 1) hq
  · exact (admitAt_out ..).trans hout
  · rw [outQ_admitAt, outQ_congr out v houtq]
  · rw [outQ_admitAt_other p inp b u hv6 hw hne, outQ_congr o w houtq]
  · rw [admitAt_switch, tget_tset_same]

/-- The head stays while its output does not take it. -/
theorem switchAdmit_waits {out v : Nat} {b : Bool} (hm : p.multicast = false)
    (hr : route p inp vc s = .port out v b ∨ (route p inp vc s = .deliver out ∧ v = vc ∧ b = false))
    (h : canAdmit out v p.credits s = false ∨ inTurn out v inp s = false) :
    exec (.switchAdmit inp vc) s = .next (Quiet s) := by
  obtain ⟨u, -, -, hu⟩ := admitStep_unicast_output (s := Quiet s) hq hm hr
  refine (exec_switchAdmit hi hv s).trans (congrArg _ (hu.trans (if_neg ?_)))
  rintro ⟨ha, ht⟩
  rcases h with h | h
  · exact Bool.noConfusion (h.symm.trans ha)
  · exact Bool.noConfusion (h.symm.trans ht)

end

/-- Where the output queues are those of the copies written, each output has its copy. -/
theorem outQ_copied {inp vc : Nat} {p : Packet} {s t : State} (hv : vc < 6)
    (h : t.switch.outq = (takeCopies inp vc p (copiesNow inp vc p s) (Quiet s)).switch.outq) :
    (∀ o ∈ copiesNow inp vc p s, outQ o vc t = outQ o vc s ++ [copyOf inp vc p o]) ∧
      ∀ o v, v < 6 → (v ≠ vc ∨ o ∉ copiesNow inp vc p s) → outQ o v t = outQ o v s := by
  refine ⟨fun o ho => ?_, fun o v hv6 hno => ?_⟩
  · rw [outQ_congr o vc h, outQ_takeCopies p (nodup_copiesNow inp vc p s) hv hv, if_pos ⟨rfl, ho⟩]
    rfl
  · rw [outQ_congr o v h, outQ_takeCopies p (nodup_copiesNow inp vc p s) hv hv6, if_neg]
    · rfl
    · rintro ⟨rfl, ho⟩
      exact hno.elim (fun h => h rfl) (fun h => h ho)

section

variable {inp vc : Nat} (hi : inp < 43) (hv : vc < 6) {p : Packet} {l : List Packet} {s : State} (hq : inQ inp vc s = p :: l)

include hi hv hq

/-- The head leaves with the last of its copies (R185). -/
theorem switchAdmit_copiesAll (hm : p.multicast = true) (hb : mcastBad p vc = false)
    (hall : copiesNow inp vc p s = mcastDue p s) :
    ∃ t, exec (.switchAdmit inp vc) s = .next t ∧ inQ inp vc t = l ∧ t.out = [] ∧
      (∀ o ∈ copiesNow inp vc p s, outQ o vc t = outQ o vc s ++ [copyOf inp vc p o]) ∧
      ∀ o v, v < 6 → (v ≠ vc ∨ o ∉ copiesNow inp vc p s) → outQ o v t = outQ o v s := by
  have hstep : admitStep inp vc (Quiet s) =
      noteMcast inp p (popInput inp vc p (takeCopies inp vc p (copiesNow inp vc p s) (Quiet s))) :=
    (admitStep_multicast (s := Quiet s) hq hm).trans ((admitMulticast_good (s := Quiet s) hb).trans (if_pos hall))
  obtain ⟨hsw, hout⟩ := noteMcast_keeps inp p (popInput inp vc p (takeCopies inp vc p (copiesNow inp vc p s) (Quiet s)))
  refine ⟨_, (exec_switchAdmit hi hv s).trans (congrArg _ hstep), ?_, ?_, outQ_copied hv ?_⟩
  · rw [inQ_congr inp vc (congrArg Switch.inq hsw), inQ_popInput, inQ_congr inp vc (takeCopies_inq ..)]
    exact congrArg (List.drop 1) hq
  · rw [hout, popInput_out, takeCopies_out]
    rfl
  · rw [hsw, popInput_outq]

/-- The head stays, with the copies written so far noted. -/
theorem switchAdmit_copiesSome (hm : p.multicast = true) (hb : mcastBad p vc = false)
    (hsome : copiesNow inp vc p s ≠ mcastDue p s) :
    ∃ t, exec (.switchAdmit inp vc) s = .next t ∧
      inQ inp vc t = { p with copied := p.copied ++ copiesNow inp vc p s } :: l ∧ t.out = [] ∧
      (∀ o ∈ copiesNow inp vc p s, outQ o vc t = outQ o vc s ++ [copyOf inp vc p o]) ∧
      ∀ o v, v < 6 → (v ≠ vc ∨ o ∉ copiesNow inp vc p s) → outQ o v t = outQ o v s := by
  have hstep : admitStep inp vc (Quiet s) = _ := (admitStep_multicast (s := Quiet s) hq hm).trans
    ((admitMulticast_good (s := Quiet s) hb).trans (if_neg hsome))
  refine ⟨_, (exec_switchAdmit hi hv s).trans (congrArg _ hstep), ?_, ?_, outQ_copied hv rfl⟩
  · rw [inQ_setInQ_same]
    exact congrArg (_ :: List.drop 1 ·) hq
  · exact takeCopies_out inp vc p _ (Quiet s)

end

theorem switchAdmit_empty {inp vc : Nat} (hi : inp < 43) (hv : vc < 6) {s : State} (hq : inQ inp vc s = []) :
    exec (.switchAdmit inp vc) s = .next (Quiet s) := by
  refine (exec_switchAdmit hi hv s).trans (congrArg _ ?_)
  rw [admitStep, show inQ inp vc (Quiet s) = [] from hq]

end Sys2Proof.Machine
end

section
/-! The flits a port sends (R101, R110 to R113). -/

namespace Sys2Proof.Machine

open Sys2Proof

/-! Flits. -/

theorem mkFlit_payload_take (seq ack kind cnt : Nat) (payload : List Byte) :
    ((mkFlit seq ack kind cnt payload).drop 4).take 248 = (payload ++ zeros 248).take 248 := by
  rw [mkFlit_eq, flitBody, List.append_assoc, drop_natLe_append _ _ (le_refl 4), Nat.sub_self, List.drop_zero,
    List.take_left' (by simp)]

theorem mkFlit_kind (seq ack kind cnt : Nat) (payload : List Byte) :
    fieldAt (mkFlit seq ack kind cnt payload) 0 4 / 2 ^ 24 % 8 = kind % 8 := by
  rw [mkFlit_head, flitHead]; omega

theorem mkFlit_seq (seq ack kind cnt : Nat) (payload : List Byte) :
    fieldAt (mkFlit seq ack kind cnt payload) 0 4 % 4096 = seq % 4096 := by
  rw [mkFlit_head, flitHead]; omega

/-- The active lanes of a port are those its status names. -/
theorem activeLanes_congr {n : Nat} {s t : State} (h : getF F.LNK_STATUS_LANES [n] t = getF F.LNK_STATUS_LANES [n] s) :
    activeLanes n t = activeLanes n s := by
  rw [activeLanes, h, activeLanes]

theorem onLanes_congr {n : Nat} {s t : State} (f : List Byte) (h : activeLanes n t = activeLanes n s) :
    onLanes n f t = onLanes n f s := by
  rw [onLanes, h, onLanes]

/-- A flit of port `n`, on the lanes active in `s`, that carries these bytes filled up with zeros. -/
def Carries (n : Nat) (bs : List Byte) (s : State) (o : Out) : Prop :=
  ∃ f, o = .flit n (onLanes n f s) ∧ f.length = 256 ∧ (f.drop 4).take 248 = (bs ++ zeros 248).take 248

theorem Carries.congr {n : Nat} {bs : List Byte} {s t : State} {o : Out} (h : Carries n bs t o)
    (ha : activeLanes n t = activeLanes n s) : Carries n bs s o := by
  obtain ⟨f, ho, hf⟩ := h
  exact ⟨f, onLanes_congr f ha ▸ ho, hf⟩

/-- The flits `l` carry the bytes in order, 248 each. -/
def CarryAll (n : Nat) (bs : List Byte) (s : State) (l : List Out) : Prop :=
  ∀ j, j < l.length → ∃ o, l[j]? = some o ∧ Carries n ((bs.drop (248 * j)).take 248) s o

/-- From `s` to `t` only ports change, and `l` is sent. -/
structure Sent (l : List Out) (s t : State) : Prop where
  only : Only [.ports] s t
  out_eq : t.out = s.out ++ l

namespace Sent

variable {l m : List Out} {s t u : State}

theorem trans (h : Sent l s t) (g : Sent m t u) : Sent (l ++ m) s u :=
  ⟨h.only.trans g.only, by rw [g.out_eq, h.out_eq, List.append_assoc]⟩

theorem modPort (n : Nat) (f : Port → Port) (s : State) : Sent [] s (modPort n f s) :=
  ⟨((Touches.refl [.ports] (fun _ => True) s).withPorts).only, (List.append_nil _).symm⟩

theorem emit (o : Out) (s : State) : Sent [o] s (emit o s) := ⟨((Touches.refl [.ports] (fun _ => True) s).withOut).only, rfl⟩

theorem regs_eq (h : Sent l s t) : t.regs = s.regs := h.only.2 .regs (by decide)

theorem switch_eq (h : Sent l s t) : t.switch = s.switch := h.only.2 .switch (by decide)

theorem lanes_eq (h : Sent l s t) (n : Nat) : activeLanes n t = activeLanes n s := activeLanes_congr (getF_congr _ _ h.regs_eq)

end Sent

theorem Sent.refl (s : State) : Sent [] s s := ⟨Only.refl _ s, (List.append_nil _).symm⟩

/-- A data flit is kept for replay and sent; what waits in the stream stays. -/
theorem sendData_sent (n : Nat) (payload : List Byte) (s : State) :
    ∃ o, Sent [o] s (sendData n payload s) ∧ Carries n payload s o ∧ (portOf n (sendData n payload s)).tx = (portOf n s).tx := by
  unfold sendData
  extract_lets q
  split
  next v c hvc =>
    extract_lets f t
    have ht : Sent [] s t := Sent.modPort ..
    refine ⟨_, ht.trans (Sent.emit _ t), ⟨f, congrArg _ (onLanes_congr f (ht.lanes_eq n)), mkFlit_length .., mkFlit_payload_take ..⟩, ?_⟩
    show (portOf n t).tx = _
    unfold t
    rw [portOf_modPort_same]

/-- The bytes of the stream that fill flits leave in them. -/
theorem sendFull_sent (k n : Nat) (s : State) (hk : (portOf n s).tx.length ≤ k) :
    ∃ l, Sent l s (sendFull k n s) ∧ l.length = (portOf n s).tx.length / 248 ∧
      (portOf n (sendFull k n s)).tx = (portOf n s).tx.drop (248 * l.length) ∧ CarryAll n (portOf n s).tx s l := by
  induction k generalizing s with
  | zero =>
    have h0 : (portOf n s).tx.length = 0 := by omega
    exact ⟨[], Sent.refl s, by simp [h0], rfl, fun j hj => absurd hj (Nat.not_lt_zero j)⟩
  | succ k ih =>
    unfold sendFull
    extract_lets bs
    split
    next hlt =>
      have h0 : bs.length / 248 = 0 := Nat.div_eq_of_lt hlt
      exact ⟨[], Sent.refl s, h0.symm, rfl, fun j hj => absurd hj (Nat.not_lt_zero j)⟩
    next hge =>
      have hcut : Sent [] s (modPort n (fun q => { q with tx := q.tx.drop 248 }) s) := Sent.modPort ..
      obtain ⟨o, hsent, ho, htx⟩ := sendData_sent n (bs.take 248) (modPort n (fun q => { q with tx := q.tx.drop 248 }) s)
      have hone : Sent [o] s _ := hcut.trans hsent
      rw [portOf_modPort_same] at htx
      generalize sendData n (bs.take 248) (modPort n (fun q => { q with tx := q.tx.drop 248 }) s) = u at hone htx
      have hbs : bs.length = (portOf n s).tx.length := rfl
      have hlen : (portOf n u).tx.length = bs.length - 248 := by rw [htx]; exact List.length_drop
      obtain ⟨l, hl, hcount, hrest, hall⟩ := ih u (by rw [hlen]; omega)
      rw [hlen] at hcount
      rw [htx] at hrest hall
      refine ⟨o :: l, hone.trans hl, ?_, ?_, fun j hj => ?_⟩
      · rw [List.length_cons, hcount]; omega
      · rw [hrest, List.drop_drop, List.length_cons]
        congr 1; omega
      · cases j with
        | zero => exact ⟨o, rfl, ho.congr (hcut.lanes_eq n)⟩
        | succ j =>
          obtain ⟨x, hx, hc⟩ := hall j (by simpa using hj)
          refine ⟨x, hx, ?_⟩
          rw [List.drop_drop] at hc
          rw [Nat.mul_succ, Nat.add_comm (248 * j)]
          exact hc.congr (hone.lanes_eq n)

/-- Bytes that join the stream leave as far as they fill flits. -/
theorem sendBytes_sent (n : Nat) (bs : List Byte) (s : State) :
    ∃ l, Sent l s (sendBytes n bs s) ∧ l.length = ((portOf n s).tx ++ bs).length / 248 ∧
      (portOf n (sendBytes n bs s)).tx = ((portOf n s).tx ++ bs).drop (248 * l.length) ∧
      CarryAll n ((portOf n s).tx ++ bs) s l := by
  have hjoin : Sent [] s (modPort n (fun q => { q with tx := q.tx ++ bs }) s) := Sent.modPort ..
  obtain ⟨l, hl, hrest⟩ := sendFull_sent ((portOf n s).tx.length + bs.length) n
    (modPort n (fun q => { q with tx := q.tx ++ bs }) s) (by rw [portOf_modPort_same, List.length_append])
  rw [portOf_modPort_same] at hrest
  exact ⟨l, hjoin.trans hl, hrest⟩

/-- What waits in the stream leaves in one flit, filled up with zeros. -/
theorem sendRest_sent {n : Nat} {s : State} (h : (portOf n s).tx ≠ []) :
    ∃ o, Sent [o] s (sendRest n s) ∧ Carries n (portOf n s).tx s o ∧ (portOf n (sendRest n s)).tx = [] := by
  rw [sendRest, if_neg (by simpa using h)]
  have hcut : Sent [] s (modPort n (fun q => { q with tx := [] }) s) := Sent.modPort ..
  obtain ⟨o, ho, hc, htx⟩ := sendData_sent n (portOf n s).tx (modPort n (fun q => { q with tx := [] }) s)
  exact ⟨o, hcut.trans ho, hc.congr (hcut.lanes_eq n), by rw [htx, portOf_modPort_same]⟩

theorem sendRest_of_nil {n : Nat} {s : State} (h : (portOf n s).tx = []) : sendRest n s = s := by
  rw [sendRest, if_pos (by simp [h])]

end Sys2Proof.Machine
end

section
/-! Fabric outputs (R111, R112, R120, R121, R178, R188): what OUTPUT_SCHEDULE sends. -/

namespace Sys2Proof.Machine

open Sys2Proof

theorem corrected_credits (p : Packet) (now : Word) : (p.corrected now).credits = p.credits := by
  unfold Packet.corrected
  split
  next h =>
    have hty : p.ty = 9 := by simp only [Packet.isSync, Bool.and_eq_true, decide_eq_true_eq] at h; exact h.1.1
    simp [Packet.credits, Packet.size, Packet.isCell, hty]
  · rfl

theorem corrected_of_mirror {p : Packet} (h : p.mirror = true) (now : Word) : p.corrected now = p := by
  simp [Packet.corrected, h]

theorem getF_subF_same (f : Fld) (ix : List Nat) (k : Nat) (s : State) (hlo : f.lo ≤ f.hi) (hhi : f.hi < 64) :
    getF f ix (subF f ix k s) = (getF f ix s + (2 ^ (f.hi + 1 - f.lo) - k)) % 2 ^ (f.hi + 1 - f.lo) :=
  getF_setF_same f ix _ s hlo hhi

/-- The units a transmitter has on `vc` when a packet of `units` has started (R120). -/
def availAfter (out vc units : Nat) (s : State) : Nat := (getF F.LNK_VC_STATE_AVAIL [out, vc] s + (2 ^ 13 - units)) % 2 ^ 13

theorem getF_subF_avail (out vc units : Nat) (s : State) :
    getF F.LNK_VC_STATE_AVAIL [out, vc] (subF F.LNK_VC_STATE_AVAIL [out, vc] units s) = availAfter out vc units s := by
  have hw : F.LNK_VC_STATE_AVAIL.hi + 1 - F.LNK_VC_STATE_AVAIL.lo = 13 := rfl
  rw [getF_subF_same _ _ _ _ (by decide) (by decide), hw, availAfter]

/-- From `s` to `t` the bytes of a packet of `units` credits join the stream of port `out`, leave as far as they fill flits, and use
the credits (R111, R112, R120). -/
structure Starts (out vc units : Nat) (bytes : List Byte) (s t : State) : Prop where
  flits : ∃ l, t.out = s.out ++ l ∧ l.length = ((portOf out s).tx ++ bytes).length / 248 ∧
    (portOf out t).tx = ((portOf out s).tx ++ bytes).drop (248 * l.length) ∧ CarryAll out ((portOf out s).tx ++ bytes) s l
  lanes : activeLanes out t = activeLanes out s
  avail : getF F.LNK_VC_STATE_AVAIL [out, vc] t = availAfter out vc units s

namespace Starts

variable {out vc units : Nat} {bytes : List Byte} {s t u : State}

/-- What comes before the start may change all but the port. -/
theorem before (h : Starts out vc units bytes u t) (ho : u.out = s.out) (hp : portOf out u = portOf out s)
    (hl : getF F.LNK_STATUS_LANES [out] u = getF F.LNK_STATUS_LANES [out] s)
    (ha : getF F.LNK_VC_STATE_AVAIL [out, vc] u = getF F.LNK_VC_STATE_AVAIL [out, vc] s) : Starts out vc units bytes s t := by
  have hlanes := activeLanes_congr hl
  obtain ⟨⟨l, h1, h2, h3, h4⟩, h5, h6⟩ := h
  rw [ho] at h1
  rw [hp] at h2 h3 h4
  refine ⟨⟨l, h1, h2, h3, fun j hj => ?_⟩, h5.trans hlanes, by rw [h6, availAfter, ha, availAfter]⟩
  obtain ⟨o, hj, hc⟩ := h4 j hj
  exact ⟨o, hj, hc.congr hlanes⟩

/-- What follows may change all but the ports, the registers and what is sent. -/
theorem after (h : Starts out vc units bytes s t) (ho : u.out = t.out) (hp : u.ports = t.ports) (hr : u.regs = t.regs) :
    Starts out vc units bytes s u := by
  obtain ⟨⟨l, h1, h2, h3, h4⟩, h5, h6⟩ := h
  exact ⟨⟨l, ho.trans h1, h2, (congrArg Port.tx (portOf_congr out hp)).trans h3, h4⟩,
    (activeLanes_congr (getF_congr _ _ hr)).trans h5, (getF_congr _ _ hr).trans h6⟩

end Starts

/-- The registers that `transmit` writes before the bytes join the stream. -/
def usesCredits (out vc units : Nat) (s : State) : State :=
  setR .LNK_VC_USED [out, vc] (getR .LNK_VC_USED [out, vc] (subF F.LNK_VC_STATE_AVAIL [out, vc] units s) + BitVec.ofNat 64 units)
    (subF F.LNK_VC_STATE_AVAIL [out, vc] units s)

@[simp] theorem usesCredits_switch (out vc units : Nat) (s : State) : (usesCredits out vc units s).switch = s.switch := by
  rw [usesCredits, setR_switch, subF_switch]

@[simp] theorem usesCredits_ports (out vc units : Nat) (s : State) : (usesCredits out vc units s).ports = s.ports := by
  rw [usesCredits, setR_ports, subF_ports]

@[simp] theorem usesCredits_out (out vc units : Nat) (s : State) : (usesCredits out vc units s).out = s.out := by
  rw [usesCredits, setR_out, subF_out]

theorem usesCredits_lanes {vc : Nat} (hv : vc < 6) (out units : Nat) (s : State) :
    getF F.LNK_STATUS_LANES [out] (usesCredits out vc units s) = getF F.LNK_STATUS_LANES [out] s := by
  rw [usesCredits, getF_setR_other _ _ (by simp [regOff, regDesc, dimOff]; omega), subF,
    getF_setF_other _ _ (by simp [regOff, regDesc, dimOff]; omega)]

theorem usesCredits_avail (out vc units : Nat) (s : State) :
    getF F.LNK_VC_STATE_AVAIL [out, vc] (usesCredits out vc units s) = availAfter out vc units s := by
  rw [usesCredits, getF_setR_other _ _ (by simp [regOff, regDesc, dimOff]), getF_subF_avail]

theorem transmit_eq (out vc : Nat) (p : Packet) (s : State) : transmit out vc p s =
    sendBytes out (p.corrected (timeNow s)).wire (usesCredits out vc p.credits (mirrorCopies true out (p.corrected (timeNow s)) s)) := by
  rw [← corrected_credits p (timeNow s)]; rfl

theorem transmit_starts {out vc : Nat} (ho : out < 16) (hv : vc < 6) (p : Packet) (s : State) :
    Starts out vc p.credits (p.corrected (timeNow s)).wire s (transmit out vc p s) := by
  rw [transmit_eq]
  generalize (p.corrected (timeNow s)).wire = bytes
  have hm := mirrorCopies_mirrored true out (p.corrected (timeNow s)) s
  generalize mirrorCopies true out (p.corrected (timeNow s)) s = u at hm
  have hav : ¬ IsBufferReg (regOff .LNK_VC_STATE [out, vc]) := by simp [IsBufferReg, regOff, regDesc, dimOff]; omega
  have hst : ¬ IsBufferReg (regOff .LNK_STATUS [out]) := by simp [IsBufferReg, regOff, regDesc, dimOff]; omega
  obtain ⟨l, hsent, hlen, htx, hall⟩ := sendBytes_sent out bytes (usesCredits out vc p.credits u)
  have hout := hsent.out_eq
  have hlanes := activeLanes_congr (usesCredits_lanes hv out p.credits u)
  rw [usesCredits_out] at hout
  rw [portOf_congr out (usesCredits_ports out vc p.credits u)] at hlen htx hall
  refine Starts.before (u := u) ⟨⟨l, hout, hlen, htx, fun j hj => ?_⟩, (hsent.lanes_eq out).trans hlanes,
    (getF_congr _ _ hsent.regs_eq).trans (usesCredits_avail out vc p.credits u)⟩
    hm.out_eq (portOf_congr out hm.ports_eq) (hm.getF_eq hst) (hm.getF_eq hav)
  obtain ⟨o, hj, hc⟩ := hall j hj
  exact ⟨o, hj, hc.congr hlanes⟩

/-- The output queues stay, and so do the copies that wait where a copy is sent. -/
theorem transmit_switch (out vc : Nat) (p : Packet) (s : State) : (transmit out vc p s).switch.outq = s.switch.outq ∧
    (p.mirror = true → (transmit out vc p s).switch.mirrorq = s.switch.mirrorq) := by
  rw [transmit_eq]
  obtain ⟨l, hsent, -⟩ := sendBytes_sent out (p.corrected (timeNow s)).wire
    (usesCredits out vc p.credits (mirrorCopies true out (p.corrected (timeNow s)) s))
  rw [hsent.switch_eq, usesCredits_switch]
  refine ⟨(mirrorCopies_mirrored true out (p.corrected (timeNow s)) s).outq_eq, fun h => ?_⟩
  rw [corrected_of_mirror h, mirrorCopies_of_mirror h]

/-! What follows the packet. -/

/-- With nothing more to start the last flit is padded (R112). -/
def padded (out : Nat) (s : State) : State := if (startPacket out s).isNone then sendRest out s else s

theorem scheduleFabric_starts {out : Nat} {s t : State} (hup : portState out s = Ps.up) (h : startPacket out s = some t) :
    scheduleFabric out s = padded out t := by
  rw [scheduleFabric, if_neg (by simp [hup]), h]; rfl

theorem padded_keeps (out : Nat) (s : State) : (padded out s).switch = s.switch ∧ (padded out s).regs = s.regs := by
  unfold padded
  split
  · by_cases htx : (portOf out s).tx = []
    · rw [sendRest_of_nil htx]; exact ⟨rfl, rfl⟩
    · obtain ⟨o, hsent, -⟩ := sendRest_sent htx
      exact ⟨hsent.switch_eq, hsent.regs_eq⟩
  · exact ⟨rfl, rfl⟩

/-- The bytes of a packet that starts leave in flits; the rest waits, or leaves in a padded flit. -/
theorem sentInFlits_padded {out vc units : Nat} {bytes : List Byte} {s t : State} (h : Starts out vc units bytes s t)
    (hs : s.out = []) : SentInFlits out bytes s (padded out t) := by
  obtain ⟨⟨l, hout, hcount, htx, hall⟩, hlanes, -⟩ := h
  rw [hs, List.nil_append] at hout
  unfold SentInFlits
  intro all
  have hlen : l.length = all.length / 248 := hcount
  have hflits : ∀ {m : List Out}, CarryAll out all s m → ∀ j, j < m.length → ∃ f, m[j]? = some (Out.flit out (onLanes out f s)) ∧
      f.length = 256 ∧ (f.drop 4).take 248 = ((all.drop (248 * j)).take 248 ++ zeros 248).take 248 := fun hm j hj => by
    obtain ⟨o, ho, f, rfl, hf⟩ := hm j hj
    exact ⟨f, ho, hf⟩
  unfold padded
  split
  next hnone =>
    by_cases hrest : (portOf out t).tx = []
    · rw [sendRest_of_nil hrest, hout]
      exact ⟨.inl hlen, htx, fun _ => hrest, hflits hall⟩
    · obtain ⟨o, hsent, hc, hnil⟩ := sendRest_sent hrest
      have hshort : (all.drop (248 * l.length)).length < 248 := by rw [List.length_drop]; omega
      have hpos : 0 < (all.drop (248 * l.length)).length := List.length_pos_of_ne_nil (htx ▸ hrest)
      rw [List.length_drop] at hpos hshort
      rw [hsent.out_eq, hout, List.length_append, List.length_singleton]
      refine ⟨.inr (by omega), ?_, fun _ => hnil, ?_⟩
      · rw [hnil, List.drop_of_length_le (by omega)]
      · have hlast : CarryAll out all s (l ++ [o]) := fun j hj => by
          rcases Nat.lt_or_ge j l.length with hjl | hjl
          · obtain ⟨x, hx, hcx⟩ := hall j hjl
            exact ⟨x, by rw [List.getElem?_append_left hjl, hx], hcx⟩
          · obtain rfl : j = l.length := by simp at hj; omega
            refine ⟨o, by simp, ?_⟩
            rw [List.take_of_length_le (by rw [List.length_drop]; omega), ← htx]
            exact hc.congr hlanes
        simpa using hflits hlast
  next hsome =>
    rw [hout]
    exact ⟨.inl hlen, htx, fun hn => absurd (by rw [hn]; rfl) hsome, hflits hall⟩

end Sys2Proof.Machine
end

section
/-! OUTPUT_SCHEDULE (R178, R188, R191), and the obligation on the switch core. -/

namespace Sys2Proof.Machine

open Sys2Proof

/-! A fabric output that starts a packet. -/

theorem exec_scheduleFabric {out : Nat} (ho : out < 16) (s : State) :
    exec (.outputSchedule out) s = .next (scheduleFabric out (Quiet s)) := by
  show runIf _ _ s = _
  have h43 : out < 43 := by omega
  simp [runIf, h43, ho, Quiet]

theorem exec_scheduleDelivery {out : Nat} (h16 : 16 ≤ out) (h43 : out < 43) (s : State) :
    exec (.outputSchedule out) s = .next (scheduleDelivery out (Quiet s)) := by
  show runIf _ _ s = _
  have hge : ¬ out < 16 := by omega
  simp [runIf, h43, hge, Quiet]

section

variable {out : Nat} (ho : out < 16) (s : State)

include ho

/-- Queues and mirror copies of the switch core are none of a port's state. -/
theorem transmit_starts_from {vc : Nat} (hv : vc < 6) {u : State} (p : Packet) (hm : Mirrored u (noteUnits out u))
    (hu : u.out = s.out ∧ u.ports = s.ports ∧ u.regs = s.regs) :
    Starts out vc p.credits (p.corrected (timeNow s)).wire s (transmit out vc p (noteUnits out u)) := by
  obtain ⟨hout, hports, hregs⟩ := hu
  have hav : ¬ IsBufferReg (regOff .LNK_VC_STATE [out, vc]) := by simp [IsBufferReg, regOff, regDesc, dimOff]; omega
  have hst : ¬ IsBufferReg (regOff .LNK_STATUS [out]) := by simp [IsBufferReg, regOff, regDesc, dimOff]; omega
  have htime : timeNow (noteUnits out u) = timeNow s := (hm.getR_eq (by decide)).trans (getR_congr _ _ hregs)
  rw [← htime]
  exact (transmit_starts ho hv p _).before (hm.out_eq.trans hout) (portOf_congr out (hm.ports_eq.trans hports))
    ((hm.getF_eq hst).trans (getF_congr _ _ hregs)) ((hm.getF_eq hav).trans (getF_congr _ _ hregs))

end

/-- A fabric output starts the packet that R178 picks. -/
theorem startPacket_picked {out vc i step : Nat} {e : Packet × Nat × Bool} {s : State} (hn : isAnalysis out s = false)
    (hp : pickNext out s = some (vc, i, step)) (he : (outQ out vc s)[i]? = some e) :
    startPacket out s = some (gainAllowance out e.1.size (noteSent out vc step
      (transmit out vc e.1 (noteUnits out (setOutQ out vc (dropAt (outQ out vc s) i) s))))) := by
  rw [startPacket, if_neg (by simp [hn]), hp]
  simp only [he, Option.map_some]

/-- A packet that is picked leaves its queue and starts on the link. -/
theorem outputSchedule_picked {out vc i step : Nat} {e : Packet × Nat × Bool} {s : State} (ho : out < 16) (hv : vc < 6)
    (hup : portState out s = Ps.up) (hn : isAnalysis out s = false) (hp : pickNext out s = some (vc, i, step))
    (he : (outQ out vc s)[i]? = some e) :
    ∃ t, exec (.outputSchedule out) s = .next t ∧ outQ out vc t = dropAt (outQ out vc s) i ∧ OtherOutputs out vc s t ∧
      getF F.LNK_VC_STATE_AVAIL [out, vc] t = availAfter out vc e.1.credits s ∧
      SentInFlits out (e.1.corrected (timeNow s)).wire s t := by
  have hstart := startPacket_picked (s := Quiet s) hn hp he
  have hst := transmit_starts_from ho (Quiet s) hv (u := setOutQ out vc (dropAt (outQ out vc s) i) (Quiet s)) e.1
    (noteUnits_mirrored ..) ⟨rfl, rfl, rfl⟩
  obtain ⟨hq, -⟩ := transmit_switch out vc e.1 (noteUnits out (setOutQ out vc (dropAt (outQ out vc s) i) (Quiet s)))
  rw [noteUnits_switch] at hq
  generalize hw : transmit out vc e.1 (noteUnits out (setOutQ out vc (dropAt (outQ out vc s) i) (Quiet s))) = w at hst hq
  have hstart : startPacket out (Quiet s) = some (gainAllowance out e.1.size (noteSent out vc step w)) := hw ▸ hstart
  have hend := hst.after (u := gainAllowance out e.1.size (noteSent out vc step w)) rfl rfl rfl
  have hq : (gainAllowance out e.1.size (noteSent out vc step w)).switch.outq = _ := hq
  generalize gainAllowance out e.1.size (noteSent out vc step w) = t at hstart hend hq
  obtain ⟨hsw, hregs⟩ := padded_keeps out t
  have hqueues : ∀ o v, outQ o v (padded out t) = outQ o v (setOutQ out vc (dropAt (outQ out vc s) i) (Quiet s)) := fun o v =>
    outQ_congr o v ((congrArg Switch.outq hsw).trans hq)
  refine ⟨padded out t, (exec_scheduleFabric ho s).trans (congrArg _ (scheduleFabric_starts hup hstart)), ?_, fun o v hv6 hne => ?_,
    (getF_congr _ _ hregs).trans hend.avail,
    sentInFlits_padded (s := Quiet s) hend rfl⟩
  · rw [hqueues, outQ_setOutQ_same]
  · rw [hqueues, outQ_setOutQ_other _ _ hv hv6 hne]
    rfl

/-- The copies `l` wait at an output. -/
def setCopies (out : Nat) (l : List Packet) (s : State) : State :=
  { s with switch := { s.switch with mirrorq := tset [] s.switch.mirrorq out l } }

theorem startPacket_copy {out : Nat} {p : Packet} {l : List Packet} {s : State} (ha : isAnalysis out s = true)
    (hq : tget [] s.switch.mirrorq out = p :: l) (hc : canStart out 1 (p, 0, false) s = true) :
    startPacket out s = some (gainAllowance out p.size (transmit out 1 p (noteUnits out (setCopies out l s)))) := by
  rw [startPacket, if_pos ha, startCopy, hq]
  exact if_pos hc

/-- An analysis output starts its next mirror copy (R188). -/
theorem outputSchedule_copy {out : Nat} {p : Packet} {l : List Packet} {s : State} (ho : out < 16)
    (hup : portState out s = Ps.up) (ha : isAnalysis out s = true) (hq : tget [] s.switch.mirrorq out = p :: l)
    (hm : p.mirror = true) (hc : canStart out 1 (p, 0, false) s = true) :
    ∃ t, exec (.outputSchedule out) s = .next t ∧ tget [] t.switch.mirrorq out = l ∧ t.switch.outq = s.switch.outq ∧
      getF F.LNK_VC_STATE_AVAIL [out, 1] t = availAfter out 1 p.credits s ∧ SentInFlits out (p.corrected (timeNow s)).wire s t := by
  have hstart := startPacket_copy (s := Quiet s) ha hq hc
  have hst := transmit_starts_from ho (Quiet s) (vc := 1) (by decide) (u := setCopies out l (Quiet s)) p
    (noteUnits_mirrored ..) ⟨rfl, rfl, rfl⟩
  obtain ⟨houtq, hcopies⟩ := transmit_switch out 1 p (noteUnits out (setCopies out l (Quiet s)))
  have hcopies := hcopies hm
  rw [noteUnits_switch] at houtq hcopies
  generalize transmit out 1 p (noteUnits out (setCopies out l (Quiet s))) = w at hstart hst houtq hcopies
  have hend := hst.after (u := gainAllowance out p.size w) rfl rfl rfl
  obtain ⟨hsw, hregs⟩ := padded_keeps out (gainAllowance out p.size w)
  refine ⟨_, (exec_scheduleFabric ho s).trans (congrArg _ (scheduleFabric_starts hup hstart)), ?_, ?_,
    (getF_congr _ _ hregs).trans hend.avail, sentInFlits_padded (s := Quiet s) hend rfl⟩
  · rw [hsw]
    exact (congrArg (tget [] · out) hcopies).trans (tget_tset_same ..)
  · rw [hsw]
    exact houtq

/-! A fabric output with nothing to start. -/

/-- What a packet starts from does not depend on what earlier commands sent. -/
theorem startPacket_quiet {out : Nat} {s : State} (h : startPacket out s = none) : startPacket out (Quiet s) = none := by
  unfold startPacket at h ⊢
  cases ha : isAnalysis out s with
  | true =>
    rw [if_pos ha] at h
    rw [if_pos (show isAnalysis out (Quiet s) = true from ha)]
    unfold startCopy at h ⊢
    cases hq : tget [] s.switch.mirrorq out with
    | nil => rw [show tget [] (Quiet s).switch.mirrorq out = [] from hq]
    | cons p l =>
      rw [hq] at h
      rw [show tget [] (Quiet s).switch.mirrorq out = p :: l from hq]
      cases hc : canStart out 1 (p, 0, false) s with
      | true => exact absurd (h.symm.trans (if_pos hc)) (by simp)
      | false => exact if_neg (by rw [show canStart out 1 (p, 0, false) (Quiet s) = false from hc]; simp)
  | false =>
    rw [if_neg (by simp [ha])] at h
    rw [if_neg (by rw [show isAnalysis out (Quiet s) = false from ha]; simp)]
    rw [show pickNext out (Quiet s) = pickNext out s from rfl]
    split at h
    · rfl
    next vc i step hp =>
      exact Option.map_eq_none_iff.2 (Option.map_eq_none_iff.1 h)

theorem scheduleFabric_down {out : Nat} {s : State} (h : portState out s ≠ Ps.up) : scheduleFabric out s = s := by
  rw [scheduleFabric, if_pos h]

theorem scheduleFabric_idle {out : Nat} {s : State} (hup : portState out s = Ps.up) (hn : startPacket out s = none) :
    scheduleFabric out s =
      if (portOf out s).tx ≠ [] then sendRest out s
      else if (nextReturn (portOf out s)).2 ≠ 0 ∧ (portOf out s).replay.length < 1024 then sendData out [] s
      else sendIdle out [] s := by
  rw [scheduleFabric, if_neg (by simp [hup]), hn]
  exact if_congr (by simp) rfl rfl

theorem zeros_take (n m : Nat) (h : n ≤ m) : (zeros m).take n = zeros n := by
  rw [zeros, List.take_replicate, Nat.min_eq_left h, zeros]

/-- An idle flit without bytes carries no message. -/
theorem mkFlit_noMessage (seq ack kind cnt : Nat) : fieldAt (mkFlit seq ack kind cnt []) 4 1 = 0 := by
  have hz : (([] : List Byte) ++ zeros 248).take 248 = 0 :: zeros 247 := by
    rw [List.nil_append, zeros_take 248 248 le_rfl]
    exact List.replicate_succ
  rw [mkFlit_eq, flitBody, List.append_assoc, fieldAt_natLe_append _ _ _ (le_refl 4), hz, List.cons_append, Nat.sub_self,
    fieldAt_cons_zero_one]
  rfl

/-- The last flit is padded, freed credits return in a flit of pad words, or an idle flit leaves (R112, R113, R121). -/
theorem outputSchedule_idle {out : Nat} {s : State} (ho : out < 16) (hup : portState out s = Ps.up) (hn : startPacket out s = none) :
    let q := portOf out s
    (q.tx ≠ [] → ∃ t f, exec (.outputSchedule out) s = .next t ∧ t.out = [.flit out (onLanes out f s)] ∧
      (f.drop 4).take 248 = (q.tx ++ zeros 248).take 248 ∧ (portOf out t).tx = [] ∧ Only [.ports] s t) ∧
    (q.tx = [] → (nextReturn q).2 ≠ 0 → q.replay.length < 1024 → ∃ t f, exec (.outputSchedule out) s = .next t ∧
      t.out = [.flit out (onLanes out f s)] ∧ (f.drop 4).take 248 = zeros 248 ∧ Only [.ports] s t) ∧
    (q.tx = [] → ((nextReturn q).2 = 0 ∨ 1024 ≤ q.replay.length) → ∃ t f, exec (.outputSchedule out) s = .next t ∧
      t.out = [.linkMsg out (onLanes out f s)] ∧ fieldAt f 0 4 / 2 ^ 24 % 8 = 6 ∧ fieldAt f 4 1 = 0 ∧ Only [] s t) := by
  intro q
  have hq : Only [.ports] s (Quiet s) := (quiet_touches [.ports] (fun _ => True) s).only
  have hexec := (exec_scheduleFabric ho s).trans (congrArg Host.Outcome.next (scheduleFabric_idle (s := Quiet s) hup (startPacket_quiet hn)))
  refine ⟨fun htx => ?_, fun htx hret hrep => ?_, fun htx hret => ?_⟩
  · obtain ⟨o, hsent, ⟨f, rfl, -, hf⟩, hnil⟩ := sendRest_sent (s := Quiet s) htx
    exact ⟨_, f, hexec.trans (congrArg _ (if_pos htx)), hsent.out_eq, hf, hnil, hq.trans hsent.only⟩
  · obtain ⟨o, hsent, ⟨f, rfl, -, hf⟩, -⟩ := sendData_sent out [] (Quiet s)
    exact ⟨_, f, hexec.trans (congrArg _ ((if_neg (not_not.2 htx)).trans (if_pos ⟨hret, hrep⟩))), hsent.out_eq,
      hf.trans (zeros_take 248 248 le_rfl), hq.trans hsent.only⟩
  · have hno : ¬ ((nextReturn q).2 ≠ 0 ∧ q.replay.length < 1024) := fun h => by
      rcases hret with hret | hret
      · exact h.1 hret
      · omega
    refine ⟨_, _, hexec.trans (congrArg _ ((if_neg (not_not.2 htx)).trans (if_neg hno))), rfl, mkFlit_kind .., mkFlit_noMessage ..,
      ((quiet_touches [] (fun _ => True) s).withOut).only⟩

/-! A delivery output (R191). -/

theorem scheduleDelivery_empty {out : Nat} {s : State} (h : pickDelivery out s = none) : scheduleDelivery out s = s := by
  rw [scheduleDelivery, h]

/-- What is left when the packet that is picked has gone from its queue. -/
def taken (out vc step : Nat) (l : List (Packet × Nat × Bool)) (s : State) : State :=
  noteSent out vc step (noteUnits out (setOutQ out vc l s))

theorem taken_keeps (out vc step : Nat) (l : List (Packet × Nat × Bool)) (s : State) :
    (taken out vc step l s).out = s.out ∧ (taken out vc step l s).switch.delivered = s.switch.delivered ∧
      (taken out vc step l s).switch.outq = (setOutQ out vc l s).switch.outq := by
  have hm := noteUnits_mirrored out (setOutQ out vc l s)
  exact ⟨hm.out_eq, hm.delivered_eq, hm.outq_eq⟩

theorem getR_taken {out vc step : Nat} {l : List (Packet × Nat × Bool)} {s : State} {r : Reg} {ix : List Nat}
    (h : ¬ IsBufferReg (regOff r ix)) : getR r ix (taken out vc step l s) = getR r ix s :=
  (noteUnits_mirrored out (setOutQ out vc l s)).getR_eq h

/-- Unit `u` is handed a packet with the input it came from. -/
def handTo (u : Nat) (e : Packet × Nat) (s : State) : State :=
  { s with switch := { s.switch with delivered := tset [] s.switch.delivered u (tget [] s.switch.delivered u ++ [e]) } }

theorem scheduleDelivery_picked {out vc step : Nat} {e : Packet × Nat × Bool} {l : List (Packet × Nat × Bool)} {s : State}
    (hp : pickDelivery out s = some (vc, step)) (hq : outQ out vc s = e :: l) : scheduleDelivery out s =
      if unitGated out (taken out vc step l s) = true then countR .SW_DELIVERY_DISCARDS [] (taken out vc step l s)
      else if e.1.code ≠ e.1.crc then taken out vc step l s
      else handTo (unitOf out) (e.1, e.2.1)
        (if out < 27 then mirrorCopies true out e.1 (taken out vc step l s) else taken out vc step l s) := by
  rw [scheduleDelivery, hp]
  simp only [hq]
  rfl

theorem unitGated_taken (out vc step : Nat) (l : List (Packet × Nat × Bool)) (s : State) :
    unitGated out (taken out vc step l s) = unitGated out s := by
  have hst : getF F.BC_STATE_DEVICE [] (taken out vc step l s) = getF F.BC_STATE_DEVICE [] s := by
    rw [getF, getR_taken (by decide), getF]
  rw [unitGated, hst, unitGated]

/-- The packet picked goes to its unit, or nowhere where its code is wrong or the unit is gated. -/
theorem outputSchedule_delivery {out vc step : Nat} {e : Packet × Nat × Bool} {l : List (Packet × Nat × Bool)} {s : State}
    (h16 : 16 ≤ out) (h43 : out < 43) (hv : vc < 6) (hp : pickDelivery out s = some (vc, step)) (hq : outQ out vc s = e :: l) :
    ∃ t, exec (.outputSchedule out) s = .next t ∧ outQ out vc t = l ∧ OtherOutputs out vc s t ∧ t.out = [] ∧
      (unitGated out s = false → e.1.code ≠ e.1.crc → t.switch.delivered = s.switch.delivered) ∧
      (unitGated out s = false → e.1.code = e.1.crc → tget [] t.switch.delivered (unitOf out) =
        tget [] s.switch.delivered (unitOf out) ++ [(e.1, e.2.1)]) ∧
      (unitGated out s = true → t.switch.delivered = s.switch.delivered ∧
        getR .SW_DELIVERY_DISCARDS [] t = getR .SW_DELIVERY_DISCARDS [] s + 1) := by
  have hstep := scheduleDelivery_picked (s := Quiet s) hp hq
  obtain ⟨hout, hdel, houtq⟩ := taken_keeps out vc step l (Quiet s)
  have hgate : unitGated out (taken out vc step l (Quiet s)) = unitGated out s := unitGated_taken ..
  have hcount : getR .SW_DELIVERY_DISCARDS [] (taken out vc step l (Quiet s)) = getR .SW_DELIVERY_DISCARDS [] s := getR_taken (by decide)
  rw [hgate] at hstep
  generalize taken out vc step l (Quiet s) = u at hstep hout hdel houtq hcount
  have hqueues : ∀ t : State, t.switch.outq = u.switch.outq → outQ out vc t = l ∧ OtherOutputs out vc s t := fun t ht => by
    refine ⟨?_, fun o v hv6 hne => ?_⟩
    · rw [outQ_congr _ _ (ht.trans houtq), outQ_setOutQ_same]
    · rw [outQ_congr _ _ (ht.trans houtq), outQ_setOutQ_other _ _ hv hv6 hne]
      rfl
  refine ⟨_, (exec_scheduleDelivery h16 h43 s).trans (congrArg _ hstep), ?_⟩
  cases hg : unitGated out s with
  | true =>
    rw [if_pos rfl]
    obtain ⟨h1, h2⟩ := hqueues (countR .SW_DELIVERY_DISCARDS [] u) rfl
    exact ⟨h1, h2, hout, by simp, by simp, fun _ => ⟨hdel, (getR_countR_same ..).trans (congrArg (· + 1) hcount)⟩⟩
  | false =>
    rw [if_neg (by simp)]
    by_cases hc : e.1.code = e.1.crc
    · have hm : Mirrored u (if out < 27 then mirrorCopies true out e.1 u else u) := by
        split
        · exact mirrorCopies_mirrored ..
        · exact Mirrored.refl u
      rw [if_neg (not_not.2 hc)]
      generalize (if out < 27 then mirrorCopies true out e.1 u else u) = w at hm
      obtain ⟨h1, h2⟩ := hqueues (handTo (unitOf out) (e.1, e.2.1) w) hm.outq_eq
      refine ⟨h1, h2, hm.out_eq.trans hout, fun _ hne => absurd hc hne, fun _ _ => ?_, by simp⟩
      rw [handTo, tget_tset_same, hm.delivered_eq, hdel]
      rfl
    · rw [if_pos hc]
      obtain ⟨h1, h2⟩ := hqueues u rfl
      exact ⟨h1, h2, hout, fun _ _ => hdel, fun _ he => absurd he hc, by simp⟩

end Sys2Proof.Machine
end

section
/-! The obligation on the switch core. -/

namespace Sys2Proof.Machine

open Sys2Proof

/-! Counters of discards. -/

/-- The counters under which a route discards a packet (R139, R142, R149, R161). -/
abbrev discardCounters : List Reg := [.SW_PATH_DISCARDS, .SW_LINE_DISCARDS, .SW_JOB_DISCARDS]

/-- A route that discards does so under one of the counters. -/
def DiscardCounted (r : RouteTo) : Prop := ∀ c, r = .discard c → c ∈ discardCounters

theorem discardCounted_discard {c : Reg} (h : c ∈ discardCounters) : DiscardCounted (.discard c) := by
  rintro _ ⟨⟩
  exact h

theorem discardCounted_port (out vc : Nat) (b : Bool) : DiscardCounted (.port out vc b) := nofun

theorem discardCounted_deliverTo (p : Packet) (s : State) : DiscardCounted (deliverTo p s) := by
  rcases delivers_deliverTo p s with ⟨out, h, -⟩ | h
  · rw [h]; exact nofun
  · rw [h]; exact discardCounted_discard (by decide)

theorem discardCounted_manageRoute (p : Packet) (s : State) : DiscardCounted (manageRoute p s) := by
  rcases manageRoute_spec p s with h | ⟨n, b, h, -⟩
  · rw [h]; exact discardCounted_discard (by decide)
  · rw [h]; exact discardCounted_port _ _ _

theorem discardCounted_adaptive {p : Packet} {inp : Nat} {s : State} (hg : geomValid s = true) (hd : p.dest ≠ ownAddr s)
    (ho : outside p.dest s = false) : DiscardCounted (route p inp 1 s) := by
  rcases route_adaptive (inp := inp) hg hd ho with h | ⟨h, -⟩ | ⟨n, v, b, h, -⟩
  · rw [h]; exact discardCounted_discard (by decide)
  · rw [h]; exact nofun
  · rw [h]; exact discardCounted_port _ _ _

theorem discardCounted_line {p : Packet} {inp : Nat} {s : State} (hg : geomValid s = true)
    (ho : p.dest = ownAddr s ∨ outside p.dest s = false) : DiscardCounted (route p inp 5 s) := by
  cases hline : lineEntry p inp s with
  | none => rw [route_noLine hg ho hline]; exact discardCounted_discard (by decide)
  | some e =>
    obtain ⟨b, h⟩ := route_line hg ho hline
    rw [h]
    split
    · exact discardCounted_deliverTo _ _
    · split
      · exact discardCounted_port _ _ _
      · exact discardCounted_discard (by decide)

theorem discardCounted_route (p : Packet) (inp vc : Nat) (s : State) : DiscardCounted (route p inp vc s) := by
  cases hg : geomValid s with
  | false =>
    rw [route, if_pos (by simp [hg])]
    split
    · exact discardCounted_deliverTo _ _
    · split
      · exact discardCounted_manageRoute _ _
      · exact discardCounted_discard (by decide)
  | true =>
    by_cases hout : p.dest ≠ ownAddr s ∧ outside p.dest s = true
    · rw [route, if_neg (by simp [hg]), if_pos hout]
      exact discardCounted_discard (by decide)
    · have ho : p.dest = ownAddr s ∨ outside p.dest s = false := by
        by_cases hd : p.dest = ownAddr s
        · exact .inl hd
        · exact .inr (by simpa [hd] using hout)
      by_cases h5 : vc = 5
      · subst h5; exact discardCounted_line hg ho
      · by_cases hd : p.dest = ownAddr s
        · rw [route, if_neg (by simp [hg]), if_neg hout, if_neg h5, if_pos hd]
          exact discardCounted_deliverTo _ _
        · have ho : outside p.dest s = false := ho.resolve_left hd
          by_cases h1 : vc = 1
          · subst h1; exact discardCounted_adaptive hg hd ho
          · rw [route_ordered hg hd ho h5 h1]
            cases dimOrder p inp vc vc s with
            | none => exact discardCounted_discard (by decide)
            | some x => exact discardCounted_port _ _ _

/-- The counters of discards lie beyond the link interfaces. -/
theorem discardCounters_beyond {c : Reg} (h : c ∈ discardCounters) : 0x700000 ≤ regOff c [] := by
  revert c; decide

/-- Settles O41: a head moves by what its route and its outputs answer, and an output's packet by what R178 picks; each move is the
composition of operations on one queue, and the flits carry the bytes of the stream in their order. -/
theorem switchMovesPackets : Obligations.SwitchMovesPackets := by
  unfold Obligations.SwitchMovesPackets
  refine ⟨fun inp vc s hi hv => ⟨switchAdmit_empty hi hv, fun p l hq => ?_⟩, fun out s ho => ?_, fun out s h16 h43 => ?_⟩
  · refine ⟨fun hm => ⟨fun hr => ?_, fun c hr => ?_, fun out v b hr => ⟨fun ha ht hv6 => ?_, fun h => ?_⟩⟩, fun hm => ?_⟩
    · exact (exec_switchAdmit hi hv s).trans (congrArg _ (admitStep_unicast_stay (s := Quiet s) hq hm hr))
    · exact switchAdmit_discards hi hv hq (discardCounters_beyond (discardCounted_route p inp vc s c hr))
        (admitStep_unicast_discard (s := Quiet s) hq hm hr)
    · exact switchAdmit_moves hi hv hq hm hr ha ht hv6
    · exact switchAdmit_waits hi hv hq hm hr h
    · exact ⟨fun hb => switchAdmit_discards hi hv hq (by decide) (admitStep_badGroup (s := Quiet s) hq hm hb),
        switchAdmit_copiesAll hi hv hq hm, switchAdmit_copiesSome hi hv hq hm⟩
  · refine ⟨fun hd => (exec_scheduleFabric ho s).trans (congrArg _ (scheduleFabric_down (s := Quiet s) hd)),
      fun hup hn vc i step e hp he hv => outputSchedule_picked ho hv hup hn hp he,
      fun hup ha p l hq hm hc => outputSchedule_copy ho hup ha hq hm hc, fun hup hn => outputSchedule_idle ho hup hn⟩
  · exact ⟨fun hp => (exec_scheduleDelivery h16 h43 s).trans (congrArg _ (scheduleDelivery_empty (s := Quiet s) hp)),
      fun vc step e l hp hq hv => outputSchedule_delivery h16 h43 hv hp hq⟩

end Sys2Proof.Machine
end

section
/-! A port that goes DOWN (R133 to R135): what stays of the port, and what it leaves alone. -/

namespace Sys2Proof.Machine

open Sys2Proof

/-! What leaves the ports alone. -/

/-- The registers of the link interfaces. -/
abbrev InLinks (o : Nat) : Prop := 0x600000 ≤ o ∧ o < 0x700000

/-- From `s` to `t` the ports, their registers and the output queues are as before. -/
structure LeavesPorts (s t : State) : Prop where
  ports : t.ports = s.ports
  outq : t.switch.outq = s.switch.outq
  regs : ∀ o, InLinks o → ∀ d, tget d t.regs o = tget d s.regs o

namespace LeavesPorts

variable {s t u : State}

theorem refl (s : State) : LeavesPorts s s := ⟨rfl, rfl, fun _ _ _ => rfl⟩

theorem trans (h : LeavesPorts s t) (g : LeavesPorts t u) : LeavesPorts s u :=
  ⟨g.ports.trans h.ports, g.outq.trans h.outq, fun o ho d => (g.regs o ho d).trans (h.regs o ho d)⟩

theorem setR (h : LeavesPorts s t) {r : Reg} {ix : List Nat} {v : Word} (ho : ¬ InLinks (regOff r ix)) :
    LeavesPorts s (setR r ix v t) :=
  h.trans ⟨rfl, rfl, fun _ hn _ => tget_tset_other _ _ _ _ fun he => ho (he ▸ hn)⟩

theorem setF (h : LeavesPorts s t) {f : Fld} {ix : List Nat} {v : Nat} (ho : ¬ InLinks (regOff f.reg ix)) :
    LeavesPorts s (setF f ix v t) := h.setR ho

theorem of_touches {ps : List Part} {Q : Nat → Prop} (h : Touches ps Q s t) (hp : Part.ports ∉ ps) (hs : Part.switch ∉ ps)
    (hq : ∀ o, Q o → ¬ InLinks o) : LeavesPorts s t :=
  ⟨h.only.2 .ports hp, congrArg Switch.outq (h.only.2 .switch hs), fun o ho => h.regs o fun hQ => hq o hQ ho⟩

theorem of_mirrored (h : Mirrored s t) : LeavesPorts s t := by
  obtain ⟨rs, q, rfl, hr⟩ := h
  exact ⟨rfl, rfl, fun o ho => hr o (by simp only [IsBufferReg, InLinks] at *; omega)⟩

theorem getF_eq (h : LeavesPorts s t) {f : Fld} {ix : List Nat} (ho : InLinks (regOff f.reg ix)) : getF f ix t = getF f ix s := by
  rw [getF, getR, h.regs _ ho, getF, getR]

end LeavesPorts

theorem inject_leavesPorts (inp : Nat) (p : Packet) (s : State) : LeavesPorts s (inject inp p s) := by
  unfold inject
  extract_lets q t
  have ht : LeavesPorts s t := by
    unfold t
    split
    · exact .of_mirrored (mirrorCopies_mirrored ..)
    · exact .of_mirrored (mirrorCopies_mirrored ..)
  clear_value t
  exact ht.trans ⟨rfl, rfl, fun _ _ _ => rfl⟩

theorem sendNotice_leavesPorts (d c state dir : Nat) (s : State) : LeavesPorts s (sendNotice d c state dir s) := by
  unfold sendNotice
  extract_lets n own
  generalize (if dir = 0 then own else (own + n - 1) % n) = link
  split
  · exact .refl s
  · exact LeavesPorts.trans (t := (takeCellSeq _ 0x12 s).2) ⟨rfl, rfl, fun _ _ _ => rfl⟩ (inject_leavesPorts ..)

theorem noteService_leavesPorts (s : State) : LeavesPorts s (noteService s) := by
  unfold noteService
  extract_lets left sw t
  have ht : LeavesPorts s t := by
    unfold t
    split
    · exact ⟨rfl, rfl, fun _ _ _ => rfl⟩
    · exact .refl s
  clear_value t
  exact ht.setF (f := F.SW_STATUS_SERVICE) (by decide)

theorem enterRecovery_leavesPorts (s : State) : LeavesPorts s (enterRecovery s) :=
  LeavesPorts.trans (t := { s with switch := { s.switch with recovery := true } }) ⟨rfl, rfl, fun _ _ _ => rfl⟩
    (noteService_leavesPorts _)

theorem noteRing_leavesPorts (n : Nat) (s : State) : LeavesPorts s (noteRing n s) := by
  unfold noteRing
  extract_lets d dir blocked sw t c u
  have ht : LeavesPorts s t := ⟨rfl, rfl, fun _ _ _ => rfl⟩
  have hu : LeavesPorts s u := by
    unfold u
    split
    · exact ht
    · exact (ht.setR (by decide)).trans (enterRecovery_leavesPorts _)
  clear_value t u
  split
  · exact .refl s
  · split
    · exact hu.trans ((sendNotice_leavesPorts ..).trans ⟨rfl, rfl, fun _ _ _ => rfl⟩)
    · exact hu

theorem noteEpoch_leavesPorts (up : Bool) (old s : State) : LeavesPorts s (noteEpoch up old s) := by
  unfold noteEpoch
  split
  · exact (LeavesPorts.refl s).setF (f := F.SW_PATH_EPOCH_EPOCH) (by decide)
  · exact .refl s

theorem linkEvent_leavesPorts (n cause lanes : Nat) (s : State) : LeavesPorts s (linkEvent n cause lanes s) :=
  .of_touches (raiseEvent_touches _ s) (by decide) (by decide) fun o ho hl => by simp only [InErrors, InLinks] at *; omega

/-! What changes port `n` alone, and none of its counts of entries into DOWN. -/

/-- From `s` to `t` every other port is as before, with its registers, and so is LNK_DOWN_EVENTS of port `n`. -/
structure ChangesPort (n : Nat) (s t : State) : Prop where
  others : ∀ m, m ≠ n → portOf m t = portOf m s
  regs : ∀ o, InLinks o → (¬ InPort n o ∨ o = 0x600040 + 65536 * n) → ∀ d, tget d t.regs o = tget d s.regs o

namespace ChangesPort

variable {n : Nat} {s t u : State}

theorem refl (n : Nat) (s : State) : ChangesPort n s s := ⟨fun _ _ => rfl, fun _ _ _ _ => rfl⟩

theorem trans (h : ChangesPort n s t) (g : ChangesPort n t u) : ChangesPort n s u :=
  ⟨fun m hm => (g.others m hm).trans (h.others m hm), fun o hl ho d => (g.regs o hl ho d).trans (h.regs o hl ho d)⟩

theorem of_leavesPorts (h : LeavesPorts s t) : ChangesPort n s t :=
  ⟨fun m _ => portOf_congr m h.ports, fun o hl _ => h.regs o hl⟩

theorem andThen (h : ChangesPort n s t) (g : LeavesPorts t u) : ChangesPort n s u := h.trans (.of_leavesPorts g)

theorem modPort (h : ChangesPort n s t) (f : Port → Port) : ChangesPort n s (modPort n f t) :=
  h.trans ⟨fun _ hm => portOf_modPort_other f t hm, fun _ _ _ _ => rfl⟩

theorem setR (h : ChangesPort n s t) {r : Reg} {ix : List Nat} {v : Word} (ho : InPort n (regOff r ix))
    (hne : regOff r ix ≠ 0x600040 + 65536 * n) : ChangesPort n s (setR r ix v t) :=
  h.trans ⟨fun _ _ => rfl, fun _ _ hn _ => tget_tset_other _ _ _ _ fun he => by
    subst he
    exact hn.elim (fun hn => hn ho) hne⟩

theorem setF (h : ChangesPort n s t) {f : Fld} {ix : List Nat} {v : Nat} (ho : InPort n (regOff f.reg ix))
    (hne : regOff f.reg ix ≠ 0x600040 + 65536 * n) : ChangesPort n s (setF f ix v t) := h.setR ho hne

/-- The ports beside `n` are as before. -/
theorem otherPorts (h : ChangesPort n s t) : OtherPorts n s t := fun m hm hne => by
  refine ⟨h.others m hne, ?_⟩
  have hl : InLinks (regOff .LNK_STATUS [m]) := by simp [InLinks, regOff, regDesc, dimOff]; omega
  have hn : ¬ InPort n (regOff .LNK_STATUS [m]) := by simp [InPort, regOff, regDesc, dimOff]; omega
  rw [portState, getF, getR, h.regs _ hl (.inl hn), portState, getF, getR]

end ChangesPort

theorem freeCredits_changesPort (n vc : Nat) (p : Packet) (s : State) : ChangesPort n s (freeCredits n vc p s) := by
  rw [freeCredits_eq]
  split
  next h =>
    exact ((ChangesPort.refl n s).modPort _).setR (by simp [InPort, regOff, regDesc, dimOff]; omega)
      (by simp [regOff, regDesc, dimOff]; omega)
  · exact .refl n s

theorem acceptPacket_changesPort (n : Nat) (p : Packet) (s : State) : ChangesPort n s (acceptPacket n p s) := by
  have hmal : InPort n (regOff .LNK_PKT_MALFORMED [n]) ∧ regOff .LNK_PKT_MALFORMED [n] ≠ 0x600040 + 65536 * n := by
    simp [InPort, regOff, regDesc, dimOff]; omega
  have he2e : InPort n (regOff .LNK_E2E [n]) ∧ regOff .LNK_E2E [n] ≠ 0x600040 + 65536 * n := by
    simp [InPort, regOff, regDesc, dimOff]; omega
  unfold acceptPacket
  extract_lets t good g ct u q r
  have ht : ChangesPort n s t := .of_leavesPorts (.of_mirrored (mirrorCopies_mirrored ..))
  have hu : ChangesPort n s u := by
    unfold u
    split
    · exact ht
    · exact ht.setF (f := F.LNK_E2E_STOMPED) he2e.1 he2e.2
  clear_value t u ct
  split
  · exact (ht.setR hmal.1 hmal.2).trans (freeCredits_changesPort ..)
  · split
    · exact ht.trans (freeCredits_changesPort ..)
    · split
      · exact (ht.setR hmal.1 hmal.2).trans (freeCredits_changesPort ..)
      · split
        · exact (ht.setF (f := F.LNK_E2E_BAD) he2e.1 he2e.2).trans (freeCredits_changesPort ..)
        · exact hu.andThen ⟨rfl, rfl, fun _ _ _ => rfl⟩

theorem drainRx_changesPort (k n : Nat) (s : State) : ChangesPort n s (drainRx k n s) := by
  induction k generalizing s with
  | zero => exact .refl n s
  | succ k ih =>
    unfold drainRx
    split
    · exact (((ChangesPort.refl n s).modPort _).trans (acceptPacket_changesPort ..)).trans (ih _)
    · exact .refl n s

/-! Leaving UP (R135). -/

/-- The output queues of port `n` emptied. -/
theorem outQ_clear {n k v : Nat} (hk : k ≤ 6) (hv : v < k) (s : State) : outQ n v (forN k s (fun v s => setOutQ n v [] s)) = [] := by
  induction k with
  | zero => exact absurd hv (Nat.not_lt_zero v)
  | succ k ih =>
    rw [forN_succ]
    by_cases he : v = k
    · subst he; exact outQ_setOutQ_same ..
    · rw [outQ_setOutQ_other _ _ (by omega) (by omega) (by simpa using he)]
      exact ih (by omega) (by omega)

theorem clearOutQ_changesPort (n k : Nat) (s : State) : ChangesPort n s (forN k s (fun v s => setOutQ n v [] s)) := by
  induction k with
  | zero => exact .refl n s
  | succ k ih => rw [forN_succ]; exact ih.trans ⟨fun _ _ => rfl, fun _ _ _ _ => rfl⟩

/-- Nothing is queued for a port that has stopped. -/
theorem dropQueued_spec (n : Nat) (s : State) : ChangesPort n s (dropQueued n s) ∧ ∀ v, v < 6 → outQ n v (dropQueued n s) = [] := by
  unfold dropQueued
  extract_lets k t u sw w
  have ht : ChangesPort n s t := (ChangesPort.refl n s).setR (by simp [InPort, regOff, regDesc, dimOff]; omega)
    (by simp [regOff, regDesc, dimOff])
  have hu : ChangesPort n s u := ht.trans (clearOutQ_changesPort ..)
  have hclear : ∀ v, v < 6 → outQ n v u = [] := fun v hv => outQ_clear le_rfl hv t
  clear_value t u
  have hw : ChangesPort n s w := hu.trans ⟨fun _ _ => rfl, fun _ _ _ _ => rfl⟩
  refine ⟨hw.andThen (.of_mirrored (noteUnits_mirrored n w)), fun v hv => ?_⟩
  rw [outQ_congr n v (congrArg Switch.outq (noteUnits_switch n w))]
  exact (outQ_congr n v rfl).trans (hclear v hv)

/-- A port that carries no flits: `down` where it has gone DOWN. -/
def Port.emptied (down : Bool) (q : Port) : Port :=
  { q with replay := [], rx := [], tx := [], toReturn := [], nakSent := false, failed := 0, replayAt := none, retrain := none,
           analysis := false, downed := q.downed || down }

/-- No credits on the first `k` VCs of a port. -/
def noCredits (n k : Nat) (s : State) : State := forN k s (fun v s => setF F.LNK_VC_STATE_AVAIL [n, v] 0 s)

/-- A port that is emptied and enters a state. -/
def emptyPort (n state : Nat) (down : Bool) (s : State) : State :=
  setF F.LNK_STATUS_STATE [n] state (setF F.LNK_STATUS_RATE [n] 0 (setF F.LNK_STATUS_LANES [n] 0 (setF F.LNK_STATUS_WIDTH [n] 0
    (noCredits n 6 (modPort n (Port.emptied down) s)))))

theorem noCredits_touches (n : Nat) {k : Nat} (hk : k ≤ 6) (s : State) :
    Touches [.regs] (fun o => 0x600100 + 65536 * n ≤ o ∧ o < 0x600200 + 65536 * n) s (noCredits n k s) :=
  (Touches.refl _ _ s).forN fun v hv u => (Touches.refl _ _ u).setF (by simp [regOff, regDesc, dimOff]; omega)

theorem getF_noCredits {n k v : Nat} (hv : v < k) (s : State) :
    getF F.LNK_VC_STATE_AVAIL [n, v] (noCredits n k s) = 0 := by
  induction k with
  | zero => exact absurd hv (Nat.not_lt_zero v)
  | succ k ih =>
    rw [noCredits, forN_succ]
    by_cases he : v = k
    · subst he; exact getF_setF_same _ _ _ _ (by decide) (by decide)
    · rw [getF_setF_other _ _ (by simp [regOff, regDesc, dimOff]; omega)]
      exact ih (by omega)

/-- The status of a port that is emptied. -/
theorem emptyPort_status {n state : Nat} (down : Bool) (s : State) (hs : state < 8) :
    portState n (emptyPort n state down s) = state ∧ getF F.LNK_STATUS_RATE [n] (emptyPort n state down s) = 0 ∧
      getF F.LNK_STATUS_LANES [n] (emptyPort n state down s) = 0 := by
  unfold emptyPort
  refine ⟨?_, ?_, ?_⟩
  · exact (getF_setF_same _ _ _ _ (by decide) (by decide)).trans (Nat.mod_eq_of_lt hs)
  · rw [getF_setF_beside (f := F.LNK_STATUS_STATE) (g := F.LNK_STATUS_RATE) _ _ _ rfl (by decide) (by decide) (by decide),
      getF_setF_same _ _ _ _ (by decide) (by decide), Nat.zero_mod]
  · rw [getF_setF_beside (f := F.LNK_STATUS_STATE) (g := F.LNK_STATUS_LANES) _ _ _ rfl (by decide) (by decide) (by decide),
      getF_setF_beside (f := F.LNK_STATUS_RATE) (g := F.LNK_STATUS_LANES) _ _ _ rfl (by decide) (by decide) (by decide),
      getF_setF_same _ _ _ _ (by decide) (by decide), Nat.zero_mod]

theorem emptyPort_ports (n state : Nat) (down : Bool) (s : State) :
    (emptyPort n state down s).ports = (modPort n (Port.emptied down) s).ports := by
  rw [emptyPort, setF_ports, setF_ports, setF_ports, setF_ports]
  exact (noCredits_touches n le_rfl _).only.2 .ports (by decide)

theorem emptyPort_switch (n state : Nat) (down : Bool) (s : State) : (emptyPort n state down s).switch = s.switch := by
  rw [emptyPort, setF_switch, setF_switch, setF_switch, setF_switch]
  exact (noCredits_touches n le_rfl (modPort n (Port.emptied down) s)).only.2 .switch (by decide)

theorem emptyPort_avail {n v : Nat} (state : Nat) (down : Bool) (s : State) (hv : v < 6) :
    getF F.LNK_VC_STATE_AVAIL [n, v] (emptyPort n state down s) = 0 := by
  have hne : regOff .LNK_VC_STATE [n, v] ≠ regOff .LNK_STATUS [n] := by simp [regOff, regDesc, dimOff]; omega
  rw [emptyPort, getF_setF_other _ _ hne, getF_setF_other _ _ hne, getF_setF_other _ _ hne, getF_setF_other _ _ hne]
  exact getF_noCredits hv _

theorem emptyPort_portEmpty {n state : Nat} (down : Bool) {s : State} (hs : state < 8) (hq : ∀ v, v < 6 → outQ n v s = []) :
    PortEmpty n (emptyPort n state down s) := by
  obtain ⟨-, hrate, hlanes⟩ := emptyPort_status (n := n) down s hs
  have hp : portOf n (emptyPort n state down s) = Port.emptied down (portOf n s) := by
    rw [portOf_congr n (emptyPort_ports ..), portOf_modPort_same]
  refine ⟨by rw [hp]; rfl, by rw [hp]; rfl, by rw [hp]; rfl, fun v hv => ⟨?_, emptyPort_avail state down s hv⟩, hrate, hlanes⟩
  rw [outQ_congr n v (congrArg Switch.outq (emptyPort_switch ..)), hq v hv]

theorem emptyPort_changesPort (n state : Nat) (down : Bool) (s : State) : ChangesPort n s (emptyPort n state down s) := by
  have hst : InPort n (regOff .LNK_STATUS [n]) ∧ regOff .LNK_STATUS [n] ≠ 0x600040 + 65536 * n := by
    simp [InPort, regOff, regDesc, dimOff]; omega
  have hc := noCredits_touches n (le_refl 6) (modPort n (Port.emptied down) s)
  have hcredits : ChangesPort n s (noCredits n 6 (modPort n (Port.emptied down) s)) :=
    ((ChangesPort.refl n s).modPort _).trans ⟨fun m _ => portOf_congr m (hc.only.2 .ports (by decide)), fun o hl ho => hc.regs o (by
      simp only [InPort] at ho; omega)⟩
  exact (((hcredits.setF (f := F.LNK_STATUS_WIDTH) hst.1 hst.2).setF (f := F.LNK_STATUS_LANES) hst.1 hst.2).setF
    (f := F.LNK_STATUS_RATE) hst.1 hst.2).setF (f := F.LNK_STATUS_STATE) hst.1 hst.2

/-- A port that stops takes the packets that have come in, drops what is queued and is emptied; the ring map, the path epoch and the
service state follow (R135, R143, R152, R180). -/
theorem leavePort_spec (n state : Nat) (s : State) : ∃ u, ChangesPort n s u ∧ (∀ v, v < 6 → outQ n v u = []) ∧
    LeavesPorts (emptyPort n state (decide (state = Ps.down)) u) (leavePort n state s) := by
  unfold leavePort
  extract_lets was a b c d e t
  obtain ⟨hdrop, hq⟩ := dropQueued_spec n a
  have ha : ChangesPort n s a := by
    unfold a
    split
    · exact drainRx_changesPort ..
    · exact .refl n s
  refine ⟨b, ha.trans hdrop, hq, ?_⟩
  have ht : LeavesPorts e t := (noteRing_leavesPorts n e).trans (noteEpoch_leavesPorts ..)
  show LeavesPorts e _
  split
  · exact ht.trans (enterRecovery_leavesPorts t)
  · exact ht

/-- From `s` to `t` the ports and the output queues are as before, and of the links' registers all but LNK_DOWN_EVENTS of port `n`. -/
structure CountsDown (n : Nat) (s t : State) : Prop where
  ports : t.ports = s.ports
  outq : t.switch.outq = s.switch.outq
  regs : ∀ o, InLinks o → o ≠ 0x600040 + 65536 * n → ∀ d, tget d t.regs o = tget d s.regs o

namespace CountsDown

variable {n : Nat} {s t : State}

theorem of_leavesPorts (h : LeavesPorts s t) : CountsDown n s t := ⟨h.ports, h.outq, fun o ho _ => h.regs o ho⟩

theorem getF_eq (h : CountsDown n s t) {f : Fld} {ix : List Nat} (ho : InLinks (regOff f.reg ix))
    (hne : regOff f.reg ix ≠ 0x600040 + 65536 * n) : getF f ix t = getF f ix s := by
  rw [getF, getR, h.regs _ ho hne, getF, getR]

theorem status_eq (h : CountsDown n s t) (hn : n < 16) {f : Fld} (hf : f.reg = .LNK_STATUS) : getF f [n] t = getF f [n] s :=
  h.getF_eq (by rw [hf]; simp [InLinks, regOff, regDesc, dimOff]; omega) (by rw [hf]; simp [regOff, regDesc, dimOff])

theorem portEmpty (h : CountsDown n s t) (hn : n < 16) (he : PortEmpty n s) : PortEmpty n t := by
  obtain ⟨hreplay, hrx, htx, hvc, hrate, hlanes⟩ := he
  have hp := portOf_congr n h.ports
  refine ⟨by rw [hp, hreplay], by rw [hp, hrx], by rw [hp, htx], fun v hv => ?_, (h.status_eq hn rfl).trans hrate,
    (h.status_eq hn rfl).trans hlanes⟩
  obtain ⟨hq, ha⟩ := hvc v hv
  refine ⟨(outQ_congr n v h.outq).trans hq, (h.getF_eq ?_ ?_).trans ha⟩
  · simp [InLinks, regOff, regDesc, dimOff]; omega
  · simp [regOff, regDesc, dimOff]; omega

end CountsDown

/-- A port that has stopped: empty, in its state, and nothing else of the ports changed. -/
theorem leavePort_stops {n state : Nat} (hn : n < 16) (hs : state < 8) (s : State) :
    PortEmpty n (leavePort n state s) ∧ portState n (leavePort n state s) = state ∧ ChangesPort n s (leavePort n state s) := by
  obtain ⟨u, hu, hq, hl⟩ := leavePort_spec n state s
  obtain ⟨hstate, -, -⟩ := emptyPort_status (n := n) (decide (state = Ps.down)) u hs
  have hc : CountsDown n _ _ := .of_leavesPorts hl
  exact ⟨hc.portEmpty hn (emptyPort_portEmpty _ hs hq), (hc.status_eq hn rfl).trans hstate,
    (hu.trans (emptyPort_changesPort ..)).andThen hl⟩

/-! Becoming DOWN (R133 to R135). -/

theorem downCounter_reg (cause : Nat) : (downCounter cause).reg = .LNK_DOWN_EVENTS := by
  unfold downCounter; split <;> rfl

theorem downCounter_fits (cause : Nat) : (downCounter cause).lo ≤ (downCounter cause).hi ∧ (downCounter cause).hi < 64 := by
  unfold downCounter; split <;> decide

theorem regOff_downEvents (n cause : Nat) : regOff (downCounter cause).reg [n] = 0x600040 + 65536 * n := by
  rw [downCounter_reg]; simp [regOff, regDesc, dimOff]

/-- Port `n` is DOWN and empty, its cause counted once more than in `s`, and no other port has changed. -/
def IsDown (n : Nat) (c : Fld) (s t : State) : Prop :=
  portState n t = Ps.down ∧ PortEmpty n t ∧ Grew c [n] 1 s t ∧ OtherPorts n s t

theorem portDown_isDown {n : Nat} (cause : Nat) (hn : n < 16) {s u : State} (h : ChangesPort n s u) :
    IsDown n (downCounter cause) s (portDown n cause u) := by
  unfold portDown
  extract_lets lanes v w
  obtain ⟨hempty, hstate, hchange⟩ := leavePort_stops (n := n) (state := Ps.down) hn (by decide) u
  have hv : ChangesPort n s v := h.trans hchange
  have hoff := regOff_downEvents n cause
  have hlink : InLinks (regOff (downCounter cause).reg [n]) := by rw [hoff]; simp only [InLinks]; omega
  have hcount : getF (downCounter cause) [n] v = getF (downCounter cause) [n] s := by
    rw [getF, getR, hv.regs _ hlink (.inr hoff), getF, getR]
  have he := linkEvent_leavesPorts n cause lanes w
  have hw : CountsDown n v w := ⟨rfl, rfl, fun o _ hne _ => tget_tset_other _ _ _ _ (hoff ▸ hne)⟩
  have hgrew : getF (downCounter cause) [n] w = (getF (downCounter cause) [n] s + 1) % 2 ^ ((downCounter cause).hi + 1 - (downCounter cause).lo) := by
    rw [← hcount]; exact getF_setF_same _ _ _ _ (downCounter_fits cause).1 (downCounter_fits cause).2
  have ht : CountsDown n v (linkEvent n cause lanes w) := ⟨he.ports.trans hw.ports, he.outq.trans hw.outq,
    fun o ho hne d => (he.regs o ho d).trans (hw.regs o ho hne d)⟩
  refine ⟨(ht.status_eq hn rfl).trans hstate, ht.portEmpty hn hempty, (he.getF_eq hlink).trans hgrew, fun m hm hne => ?_⟩
  obtain ⟨hp, hs⟩ := hv.otherPorts m hm hne
  refine ⟨(portOf_congr m ht.ports).trans hp, Eq.trans (ht.getF_eq ?_ ?_) hs⟩
  · simp [InLinks, regOff, regDesc, dimOff]; omega
  · simp [regOff, regDesc, dimOff]; omega

end Sys2Proof.Machine
end

section
/-! Flits that a port receives, discards and resends (R100, R111 to R117). -/

namespace Sys2Proof.Machine

open Sys2Proof

/-! Acknowledgements (R114). -/

/-- A port after an acknowledgement: a flit it keeps, and those before it, leave the replay buffer. -/
def Port.ack (a : BitVec 12) (q : Port) : Port :=
  if q.replay.any (fun e => decide (e.1 = a)) then
    { q with replay := q.replay.filter (fun e => decide ((e.1 - a - 1).toNat < 2048)), acked := a, failed := 0, replayAt := none }
  else q

/-- What is left to be acknowledged after an acknowledgement. -/
def Port.unacked (a : BitVec 12) (q : Port) : List (BitVec 12 × List Byte) :=
  if q.replay.any (fun e => decide (e.1 = a)) then q.replay.filter (fun e => decide ((e.1 - a - 1).toNat < 2048)) else q.replay

@[simp] theorem Port.ack_replay (a : BitVec 12) (q : Port) : (q.ack a).replay = q.unacked a := by
  rw [Port.ack, Port.unacked]; split <;> rfl

@[simp] theorem Port.ack_rx (a : BitVec 12) (q : Port) : (q.ack a).rx = q.rx := by rw [Port.ack]; split <;> rfl

@[simp] theorem Port.ack_rxSeq (a : BitVec 12) (q : Port) : (q.ack a).rxSeq = q.rxSeq := by rw [Port.ack]; split <;> rfl

/-- An acknowledgement ends no fewer failed retries than it begins with. -/
theorem Port.ack_failed_le (a : BitVec 12) (q : Port) : (q.ack a).failed ≤ q.failed := by
  rw [Port.ack]
  split
  · exact Nat.zero_le _
  · exact le_rfl

theorem Sent.touches {l : List Out} {s t : State} (h : Sent l s t) (Q : Nat → Prop) : Touches [.ports] Q s t :=
  ⟨h.only, fun o _ d => by rw [h.regs_eq]⟩

theorem ChangesPort.of_touches {n : Nat} {s t : State} {Q : Nat → Prop} (h : Touches [.regs] Q s t)
    (hq : ∀ o, Q o → InPort n o ∧ o ≠ 0x600040 + 65536 * n) : ChangesPort n s t :=
  ⟨fun m _ => portOf_congr m (h.only.2 .ports (by decide)), fun o _ ho => h.regs o fun hQ =>
    ho.elim (fun hn => hn (hq o hQ).1) (hq o hQ).2⟩

/-- An acknowledgement changes its port alone. -/
theorem takeAck_spec (n : Nat) (a : BitVec 12) (s : State) : Sent [] s (takeAck n a s) ∧ ChangesPort n s (takeAck n a s) ∧
    portOf n (takeAck n a s) = (portOf n s).ack a := by
  rw [takeAck, Port.ack]
  split
  · exact ⟨.modPort .., (ChangesPort.refl n s).modPort _, portOf_modPort_same ..⟩
  · exact ⟨.refl s, .refl n s, rfl⟩

/-! Codewords (R100). -/

/-- The codewords that a flit reports first are counted. -/
def FecCounted (n : Nat) (fec : List (Nat × Bool)) (s t : State) : Prop :=
  getR .LNK_FEC_CORR [n] t = getR .LNK_FEC_CORR [n] s +
    BitVec.ofNat 64 ((fec.filter (fun x => x.2 && decide (x.1 ≤ 15))).map Prod.fst).sum ∧
  getR .LNK_FEC_UNCORR [n] t = getR .LNK_FEC_UNCORR [n] s +
    BitVec.ofNat 64 (fec.filter (fun x => x.2 && decide (15 < x.1))).length

theorem filter_corrected (fec : List (Nat × Bool)) :
    (fec.filter (fun x => x.2)).filter (fun x => fecCorrects x.1) = fec.filter (fun x => x.2 && decide (x.1 ≤ 15)) := by
  rw [List.filter_filter]
  exact List.filter_congr fun x _ => Bool.and_comm ..

theorem filter_uncorrectable (fec : List (Nat × Bool)) :
    (fec.filter (fun x => x.2)).filter (fun x => ! fecCorrects x.1) = fec.filter (fun x => x.2 && decide (15 < x.1)) := by
  rw [List.filter_filter]
  refine List.filter_congr fun x _ => ?_
  rw [Bool.and_comm, fecCorrects, ← decide_not, decide_eq_decide.2 Nat.not_le]

/-- The registers of a port that count codewords. -/
abbrev IsFecReg (n o : Nat) : Prop := o = regOff .LNK_FEC_CORR [n] ∨ o = regOff .LNK_FEC_UNCORR [n]

theorem noteFec_touches (n : Nat) (fec : List (Nat × Bool)) (s : State) : Touches [.regs] (IsFecReg n) s (noteFec n fec s) :=
  ((Touches.refl _ _ s).setR (.inl rfl)).setR (.inr rfl)

@[simp] theorem noteFec_out (n : Nat) (fec : List (Nat × Bool)) (s : State) : (noteFec n fec s).out = s.out := by
  rw [noteFec, setR_out, setR_out]

theorem noteFec_counted (n : Nat) (fec : List (Nat × Bool)) (s : State) : FecCounted n fec s (noteFec n fec s) := by
  have hne : regOff .LNK_FEC_CORR [n] ≠ regOff .LNK_FEC_UNCORR [n] := by simp [regOff, regDesc, dimOff]
  rw [noteFec, filter_corrected, filter_uncorrectable]
  refine ⟨?_, ?_⟩
  · rw [getR_setR_other _ _ hne, getR_setR_same]
  · rw [getR_setR_same, getR_setR_other _ _ hne.symm]

/-- What leaves the counts of codewords as they are keeps them counted. -/
theorem FecCounted.congr {n : Nat} {fec : List (Nat × Bool)} {s t u : State} (h : FecCounted n fec s t)
    (hr : ∀ o, IsFecReg n o → ∀ d, tget d u.regs o = tget d t.regs o) : FecCounted n fec s u :=
  ⟨Eq.trans (hr _ (.inl rfl) _) h.1, Eq.trans (hr _ (.inr rfl) _) h.2⟩

/-! A flit accepted (R111, R121). -/

/-- A port takes the bytes of the flit it expects. -/
def Port.takePayload (bs : List Byte) (q : Port) : Port := { q with rxSeq := q.rxSeq + 1, nakSent := false, rx := q.rx ++ bs }

/-- Credits of a VC return to a port. -/
def returnCredits (n vc k : Nat) (s : State) : State :=
  if k = 0 then s
  else setR .LNK_VC_RETURNED [n, vc] (getR .LNK_VC_RETURNED [n, vc] (addF F.LNK_VC_STATE_AVAIL [n, vc] k s) + BitVec.ofNat 64 k)
    (addF F.LNK_VC_STATE_AVAIL [n, vc] k s)

abbrev IsCreditReg (n vc o : Nat) : Prop := o = regOff .LNK_VC_STATE [n, vc] ∨ o = regOff .LNK_VC_RETURNED [n, vc]

theorem returnCredits_touches (n vc k : Nat) (s : State) : Touches [.regs] (IsCreditReg n vc) s (returnCredits n vc k s) := by
  rw [returnCredits]
  split
  · exact .refl _ _ s
  · exact ((Touches.refl _ _ s).addF (.inl rfl)).setR (.inr rfl)

@[simp] theorem returnCredits_out (n vc k : Nat) (s : State) : (returnCredits n vc k s).out = s.out := by
  rw [returnCredits]
  split
  · rfl
  · rw [setR_out, addF, setF_out]

theorem returnCredits_spec (n vc k : Nat) (s : State) : Grew F.LNK_VC_STATE_AVAIL [n, vc] k s (returnCredits n vc k s) ∧
    getR .LNK_VC_RETURNED [n, vc] (returnCredits n vc k s) = getR .LNK_VC_RETURNED [n, vc] s + BitVec.ofNat 64 k := by
  have hne : regOff .LNK_VC_RETURNED [n, vc] ≠ regOff .LNK_VC_STATE [n, vc] := by simp [regOff, regDesc, dimOff]
  rw [returnCredits]
  split
  next h0 =>
    subst h0
    exact ⟨(Nat.mod_eq_of_lt (bits_lt _ _ _)).symm, (BitVec.add_zero _).symm⟩
  · refine ⟨(getF_setR_other _ _ hne.symm).trans (getF_setF_same _ _ _ _ (by decide) (by decide)), ?_⟩
    rw [getR_setR_same, addF, getR_setF_other _ _ hne]

/-- What a port does with the flit it expects (R111, R114, R121). -/
def acceptFlit (n hdr : Nat) (bs : List Byte) (s : State) : State :=
  returnCredits n (hdr / 2 ^ 24 % 8) (hdr / 2 ^ 27) (modPort n (Port.takePayload bs) (takeAck n (BitVec.ofNat 12 (hdr / 2 ^ 12)) s))

theorem acceptFlit_spec (n hdr : Nat) (bs : List Byte) (s : State) : ∃ u, Sent [] s u ∧ ChangesPort n s u ∧
    portOf n u = ((portOf n s).ack (BitVec.ofNat 12 (hdr / 2 ^ 12))).takePayload bs ∧
    acceptFlit n hdr bs s = returnCredits n (hdr / 2 ^ 24 % 8) (hdr / 2 ^ 27) u := by
  obtain ⟨hsent, hchange, hport⟩ := takeAck_spec n (BitVec.ofNat 12 (hdr / 2 ^ 12)) s
  exact ⟨_, hsent.trans (Sent.modPort n (Port.takePayload bs) _), hchange.modPort _, by rw [portOf_modPort_same, hport], rfl⟩

/-! FLIT_RECEIVE (R110 to R115). -/

/-- A flit whose code is right and whose codewords could be corrected. -/
def FlitGood (flit : List Byte) (fec : List (Nat × Bool)) : Prop :=
  crc32c (flit.take 252) = BitVec.ofNat 32 (fieldAt flit 252 4) ∧ ∀ x ∈ fec, x.1 ≤ 15

/-- The flit is the one the port expects. -/
def FlitExpected (n : Nat) (flit : List Byte) (fec : List (Nat × Bool)) (s : State) : Prop :=
  FlitGood flit fec ∧ fieldAt flit 0 4 % 4096 = (portOf n s).rxSeq.toNat

theorem flitExpected_iff (n : Nat) (flit : List Byte) (fec : List (Nat × Bool)) (s : State) :
    ((! fec.any (fun x => ! fecCorrects x.1) && decide (crc32c (flit.take 252) = BitVec.ofNat 32 (fieldAt flit 252 4))) &&
      decide (fieldAt flit 0 4 % 4096 = (portOf n s).rxSeq.toNat)) = true ↔ FlitExpected n flit fec s := by
  simp [FlitExpected, FlitGood, fecCorrects, and_comm]

section

variable {n : Nat} {s : State} {lanes : List (List Byte)} {fec : List (Nat × Bool)} (hn : n < 16) (hup : portState n s = Ps.up)
  (hlanes : lanes.length = (activeLanes n s).length) (hlen : (offLanes lanes).length = 256)
  (hk : fieldAt (offLanes lanes) 0 4 / 2 ^ 24 % 8 < 6)

include hup hlanes hlen hk

theorem takeFlit_accepts (h : FlitExpected n (offLanes lanes) fec s) : takeFlit n lanes fec s =
    acceptFlit n (fieldAt (offLanes lanes) 0 4) (((offLanes lanes).drop 4).take 248) (noteFec n fec s) := by
  unfold takeFlit
  extract_lets flit uncorr u hdr seq ack kind cnt good
  rw [if_neg (by simp [hup, hlanes, flit, hlen]), if_pos hk]
  refine (if_pos ?_).trans rfl
  exact (flitExpected_iff n flit fec s).2 h

theorem takeFlit_discards (h : ¬ FlitExpected n (offLanes lanes) fec s) : takeFlit n lanes fec s = discardFlit n (noteFec n fec s) := by
  unfold takeFlit
  extract_lets flit uncorr u hdr seq ack kind cnt good
  rw [if_neg (by simp [hup, hlanes, flit, hlen]), if_pos hk]
  refine if_neg ?_
  exact mt (flitExpected_iff n flit fec s).1 h

omit hup hlen hk in
include hn in
theorem exec_flitReceive : exec (.flitReceive n lanes fec) s = .next (takeFlit n lanes fec (Quiet s)) := by
  have h4 : lanes.length ≤ 4 := by rw [hlanes]; exact (List.length_filter_le _ _).trans (by simp)
  show runIf _ _ s = _
  simp [runIf, hn, h4, Quiet]

include hn in
theorem flitReceive_accepts (h : FlitExpected n (offLanes lanes) fec s) :
    ∃ t, exec (.flitReceive n lanes fec) s = .next t ∧ FecCounted n fec s t ∧
      portOf n t = ((portOf n s).ack (BitVec.ofNat 12 (fieldAt (offLanes lanes) 0 4 / 2 ^ 12))).takePayload
        (((offLanes lanes).drop 4).take 248) ∧
      Grew F.LNK_VC_STATE_AVAIL [n, fieldAt (offLanes lanes) 0 4 / 2 ^ 24 % 8] (fieldAt (offLanes lanes) 0 4 / 2 ^ 27) s t ∧
      getR .LNK_VC_RETURNED [n, fieldAt (offLanes lanes) 0 4 / 2 ^ 24 % 8] t =
        getR .LNK_VC_RETURNED [n, fieldAt (offLanes lanes) 0 4 / 2 ^ 24 % 8] s + BitVec.ofNat 64 (fieldAt (offLanes lanes) 0 4 / 2 ^ 27) ∧
      Only [.ports, .regs] s t ∧ OtherPorts n s t ∧ t.out = [] := by
  generalize hvc : fieldAt (offLanes lanes) 0 4 / 2 ^ 24 % 8 = vc at hk
  generalize hcnt : fieldAt (offLanes lanes) 0 4 / 2 ^ 27 = k
  obtain ⟨u, hsent, hchange, hport, hu⟩ :=
    acceptFlit_spec n (fieldAt (offLanes lanes) 0 4) (((offLanes lanes).drop 4).take 248) (noteFec n fec (Quiet s))
  rw [hvc, hcnt] at hu
  have hu' : Touches [.ports, .regs] (IsFecReg n) s u :=
    (((Touches.refl _ _ s).withOut (x := [])).andThen (noteFec_touches n fec _) (by decide) fun _ => id).andThen
      (hsent.touches fun _ => False) (by decide) fun _ => False.elim
  have hret := returnCredits_touches n vc k u
  obtain ⟨hgrew, hreturned⟩ := returnCredits_spec n vc k u
  have hcredit : ∀ o, IsCreditReg n vc o → ¬ IsFecReg n o := by
    rintro o (rfl | rfl) <;> simp [IsFecReg, regOff, regDesc, dimOff] <;> omega
  have ht : ChangesPort n s (returnCredits n vc k u) := by
    refine (((ChangesPort.of_leavesPorts (s := s) (t := Quiet s) ⟨rfl, rfl, fun _ _ _ => rfl⟩).trans
      (.of_touches (noteFec_touches ..) ?_)).trans hchange).trans (.of_touches hret ?_)
    · rintro o (rfl | rfl) <;> simp [InPort, regOff, regDesc, dimOff] <;> omega
    · rintro o (rfl | rfl) <;> simp [InPort, regOff, regDesc, dimOff] <;> omega
  refine ⟨_, (exec_flitReceive hn hlanes).trans (congrArg _ ((takeFlit_accepts (s := Quiet s) hup hlanes hlen (hvc ▸ hk) h).trans hu)), ?_, ?_,
    ?_, ?_, hu'.only.trans (hret.only.mono (by decide)), ht.otherPorts, ?_⟩
  · refine FecCounted.congr (noteFec_counted n fec (Quiet s)) fun o ho d => ?_
    rw [hret.regs o (fun hc => hcredit o hc ho), hsent.regs_eq]
  · exact (portOf_congr n (hret.only.2 .ports (by decide))).trans hport
  · rw [Grew, ← hu'.getF_eq (hcredit _ (.inl rfl))]
    exact hgrew
  · rw [hreturned, hu'.getR_eq (hcredit _ (.inr rfl))]
  · rw [returnCredits_out, hsent.out_eq, noteFec_out]
    rfl

end

end Sys2Proof.Machine
end

section
/-! Flits that a port discards and resends (R114 to R117). -/

namespace Sys2Proof.Machine

open Sys2Proof

/-! A flit discarded (R114). -/

/-- A NAK flit goes out on the lanes of its port, and nothing else changes. -/
theorem sendNak_spec (n : Nat) (s : State) : ∃ f, sendNak n s = { s with out := s.out ++ [.flit n (onLanes n f s)] } ∧
    fieldAt f 0 4 / 2 ^ 24 % 8 = 7 := ⟨_, rfl, mkFlit_kind ..⟩

/-- A port after the discard of a flit: its NAK is outstanding. -/
def Port.nakked (q : Port) : Port := { q with nakSent := true }

theorem Port.nakked_of_nakSent {q : Port} (h : q.nakSent = true) : q.nakked = q := by
  rw [Port.nakked, ← h]

theorem discardFlit_of_nakSent {n : Nat} {s : State} (h : (portOf n s).nakSent = true) :
    discardFlit n s = countR .LNK_FLIT_BAD [n] s := by
  unfold discardFlit
  extract_lets t
  exact if_pos h

theorem discardFlit_of_not_nakSent {n : Nat} {s : State} (h : (portOf n s).nakSent = false) :
    discardFlit n s = sendNak n (modPort n Port.nakked (countR .LNK_FLIT_BAD [n] s)) := by
  unfold discardFlit
  extract_lets t
  refine (if_neg ?_).trans rfl
  rw [show portOf n t = portOf n s from rfl, h]
  decide

/-- A flit discarded is counted, and answered by a NAK where none is outstanding. -/
theorem discardFlit_spec (n : Nat) (s : State) :
    Touches [.ports, .regs] (fun o => o = regOff .LNK_FLIT_BAD [n]) s (discardFlit n s) ∧
      getR .LNK_FLIT_BAD [n] (discardFlit n s) = getR .LNK_FLIT_BAD [n] s + 1 ∧
      portOf n (discardFlit n s) = (portOf n s).nakked ∧
      ((portOf n s).nakSent = true → (discardFlit n s).out = s.out) ∧
      ((portOf n s).nakSent = false → ∃ f, (discardFlit n s).out = s.out ++ [.flit n (onLanes n f s)] ∧
        fieldAt f 0 4 / 2 ^ 24 % 8 = 7) := by
  have hcount : Touches [.ports, .regs] (fun o => o = regOff .LNK_FLIT_BAD [n]) s (countR .LNK_FLIT_BAD [n] s) :=
    (Touches.refl _ _ s).setR rfl
  by_cases h : (portOf n s).nakSent = true
  · rw [discardFlit_of_nakSent h, Port.nakked_of_nakSent h]
    exact ⟨hcount, getR_countR_same .., rfl, fun _ => rfl, fun hf => absurd (h.symm.trans hf) (by decide)⟩
  · have h : (portOf n s).nakSent = false := by simpa using h
    rw [discardFlit_of_not_nakSent h]
    have hport : Touches [.ports, .regs] (fun o => o = regOff .LNK_FLIT_BAD [n]) s
        (modPort n Port.nakked (countR .LNK_FLIT_BAD [n] s)) := hcount.withPorts
    have hsame : portOf n (modPort n Port.nakked (countR .LNK_FLIT_BAD [n] s)) = (portOf n s).nakked :=
      portOf_modPort_same ..
    have hbad : getR .LNK_FLIT_BAD [n] (modPort n Port.nakked (countR .LNK_FLIT_BAD [n] s)) = getR .LNK_FLIT_BAD [n] s + 1 :=
      getR_countR_same ..
    have hlanes : activeLanes n (modPort n Port.nakked (countR .LNK_FLIT_BAD [n] s)) = activeLanes n s :=
      activeLanes_congr (getF_setR_other _ _ (by simp [regOff, regDesc, dimOff]))
    have hout : (modPort n Port.nakked (countR .LNK_FLIT_BAD [n] s)).out = s.out := rfl
    generalize modPort n Port.nakked (countR .LNK_FLIT_BAD [n] s) = u at *
    obtain ⟨f, hf, hkind⟩ := sendNak_spec n u
    rw [hf]
    exact ⟨hport.withOut, hbad, hsame, fun hs => absurd (h.symm.trans hs) (by decide),
      fun _ => ⟨f, by rw [hout, onLanes_congr f hlanes], hkind⟩⟩

section

variable {n : Nat} {s : State} {lanes : List (List Byte)} {fec : List (Nat × Bool)} (hn : n < 16) (hup : portState n s = Ps.up)
  (hlanes : lanes.length = (activeLanes n s).length) (hlen : (offLanes lanes).length = 256)
  (hk : fieldAt (offLanes lanes) 0 4 / 2 ^ 24 % 8 < 6)

include hn hup hlanes hlen hk

/-- FLIT_RECEIVE of a flit that is not the one expected (R114). -/
theorem flitReceive_discards (h : ¬ FlitExpected n (offLanes lanes) fec s) :
    ∃ t, exec (.flitReceive n lanes fec) s = .next t ∧ FecCounted n fec s t ∧
      getR .LNK_FLIT_BAD [n] t = getR .LNK_FLIT_BAD [n] s + 1 ∧ portOf n t = (portOf n s).nakked ∧
      ((portOf n s).nakSent = true → t.out = []) ∧
      ((portOf n s).nakSent = false → ∃ f, t.out = [.flit n (onLanes n f s)] ∧ fieldAt f 0 4 / 2 ^ 24 % 8 = 7) ∧
      Only [.ports, .regs] s t := by
  have hfec := noteFec_touches n fec (Quiet s)
  have hcounted := noteFec_counted n fec (Quiet s)
  have hport : portOf n (noteFec n fec (Quiet s)) = portOf n s := portOf_congr n (hfec.only.2 .ports (by decide))
  have hbad : getR .LNK_FLIT_BAD [n] (noteFec n fec (Quiet s)) = getR .LNK_FLIT_BAD [n] s :=
    hfec.getR_eq (by simp [IsFecReg, regOff, regDesc, dimOff])
  have hact : activeLanes n (noteFec n fec (Quiet s)) = activeLanes n s :=
    activeLanes_congr (hfec.getF_eq (by simp [IsFecReg, regOff, regDesc, dimOff]))
  have hout : (noteFec n fec (Quiet s)).out = [] := noteFec_out ..
  have hexec := (exec_flitReceive (fec := fec) hn hlanes).trans (congrArg _ (takeFlit_discards (s := Quiet s) hup hlanes hlen hk h))
  have honly : Only [.ports, .regs] s (noteFec n fec (Quiet s)) :=
    ((Touches.refl [.ports, .regs] (fun _ => True) s).withOut (x := [])).only.trans (hfec.only.mono (by decide))
  generalize noteFec n fec (Quiet s) = u at *
  obtain ⟨htouch, hcount, hnak, hsent, hnew⟩ := discardFlit_spec n u
  refine ⟨_, hexec, hcounted.congr fun o ho d => htouch.regs o ?_ d, by rw [hcount, hbad], by rw [hnak, hport],
    fun hs => (hsent (by rw [hport, hs])).trans hout, fun hs => ?_, honly.trans htouch.only⟩
  · rintro rfl
    simp [IsFecReg, regOff, regDesc, dimOff] at ho
  · obtain ⟨f, hf, hkind⟩ := hnew (by rw [hport, hs])
    exact ⟨f, by rw [hf, hout, onLanes_congr f hact]; rfl, hkind⟩

end

/-! NAK_REPEAT (R114). -/

theorem exec_nakRepeat {n : Nat} (hn : n < 16) (s : State) : exec (.nakRepeat n) s =
    .next (if portState n s = Ps.up ∧ (portOf n s).nakSent then sendNak n (Quiet s) else Quiet s) := by
  show runIf _ _ s = _
  simp [runIf, hn, Quiet]
  rfl

theorem nakRepeat_sends {n : Nat} (hn : n < 16) {s : State} (hup : portState n s = Ps.up) (hs : (portOf n s).nakSent = true) :
    ∃ t f, exec (.nakRepeat n) s = .next t ∧ t.out = [.flit n (onLanes n f s)] ∧ fieldAt f 0 4 / 2 ^ 24 % 8 = 7 ∧ Only [] s t := by
  obtain ⟨f, hf, hkind⟩ := sendNak_spec n (Quiet s)
  refine ⟨_, f, (exec_nakRepeat hn s).trans (congrArg _ ((if_pos ⟨hup, hs⟩).trans hf)), rfl, hkind, ?_⟩
  exact ((Touches.refl [] (fun _ => True) s).withOut).only

theorem nakRepeat_idle {n : Nat} (hn : n < 16) {s : State} (hs : (portOf n s).nakSent = false) :
    exec (.nakRepeat n) s = .next (Quiet s) :=
  (exec_nakRepeat hn s).trans (congrArg _ (if_neg (by simp [hs])))

/-! Replay (R115 to R117). -/

/-- A flit of the replay buffer as it is resent. -/
def resentFlit (n : Nat) (e : BitVec 12 × List Byte) (s : State) : List Byte :=
  mkFlit e.1.toNat (lastAccepted n s) (fieldAt e.2 3 1 % 8) (fieldAt e.2 3 1 / 8) ((e.2.drop 4).take 248)

/-- Resend a list of flits, in order. -/
def resendAll (n : Nat) (l : List (BitVec 12 × List Byte)) (s : State) : State :=
  forList l s (fun e s => putFlit n (resentFlit n e s) s)

theorem resendAll_eq (n : Nat) (l : List (BitVec 12 × List Byte)) (s : State) :
    resendAll n l s = { s with out := s.out ++ l.map (fun e => .flit n (onLanes n (resentFlit n e s) s)) } := by
  induction l generalizing s with
  | nil => simp [resendAll, forList]
  | cons e l ih =>
    rw [resendAll, forList_cons, ← resendAll, ih, List.map_cons, ← List.singleton_append, ← List.append_assoc]
    rfl

/-- What is sent out carries the flits of `l` again, in order, on the lanes of port `n`. -/
def Resent (n : Nat) (l : List (BitVec 12 × List Byte)) (s : State) (out : List Out) : Prop :=
  out.length = l.length ∧ ∀ (i : Nat) (e : BitVec 12 × List Byte), l[i]? = some e →
    ∃ f, out[i]? = some (.flit n (onLanes n f s)) ∧ fieldAt f 0 4 % 4096 = e.1.toNat ∧
      (f.drop 4).take 248 = ((e.2.drop 4).take 248 ++ zeros 248).take 248

theorem resendAll_resent (n : Nat) (l : List (BitVec 12 × List Byte)) {s u : State} (ho : u.out = [])
    (ha : activeLanes n u = activeLanes n s) : Resent n l s (resendAll n l u).out := by
  rw [resendAll_eq]
  refine ⟨by simp [ho], fun i e he => ⟨resentFlit n e u, ?_, (mkFlit_seq ..).trans (Nat.mod_eq_of_lt e.1.isLt), mkFlit_payload_take ..⟩⟩
  rw [← onLanes_congr _ ha]
  simp [ho, he]

/-- A port that replays, with its count of failed retries. -/
def Port.replaying (failed : Nat) (q : Port) : Port := { q with failed := failed, replayAt := some q.acked }

/-- The failed retries of a port once it replays. -/
def Port.failedNext (q : Port) : Nat := if q.replayAt = some q.acked then q.failed + 1 else q.failed

theorem Port.failedNext_le (q : Port) : q.failedNext ≤ q.failed + 1 := by
  rw [Port.failedNext]; split <;> omega

/-- The retry limit of a port (R117). -/
def retryLimit (n : Nat) (s : State) : Nat := max 4 (min 32 (getF F.LNK_RETRY_RETRY_LIMIT [n] s))

theorem retryLimit_eq (n : Nat) (s : State) : min 32 (max 4 (getF F.LNK_RETRY_RETRY_LIMIT [n] s)) = retryLimit n s := by
  rw [retryLimit]; omega

/-- The state of a port's replay before its flits go out: counted, with the failed retries noted. -/
def replayNoted (n : Nat) (s : State) : State :=
  modPort n (Port.replaying (portOf n s).failedNext) (countR .LNK_REPLAYS [n] s)

theorem replayNoted_changesPort (n : Nat) (s : State) : ChangesPort n s (replayNoted n s) :=
  ((ChangesPort.refl n s).setR (by simp [InPort, regOff, regDesc, dimOff]; omega) (by simp [regOff, regDesc, dimOff])).modPort _

theorem replayAll_eq (n : Nat) (s : State) : replayAll n s =
    if retryLimit n s ≤ (portOf n s).failedNext then portDown n 1 (replayNoted n s)
    else resendAll n (portOf n s).replay (replayNoted n s) := by
  have hlimit : getF F.LNK_RETRY_RETRY_LIMIT [n] (countR .LNK_REPLAYS [n] s) = getF F.LNK_RETRY_RETRY_LIMIT [n] s :=
    getF_setR_other _ _ (by simp [regOff, regDesc, dimOff])
  rw [← retryLimit_eq, ← hlimit]
  rfl

/-- A replay below the retry limit. -/
theorem replayAll_resends {n : Nat} {s : State} (h : (portOf n s).failedNext < retryLimit n s) (ho : s.out = []) :
    Resent n (portOf n s).replay s (replayAll n s).out ∧ (portOf n (replayAll n s)).replay = (portOf n s).replay ∧
      getR .LNK_REPLAYS [n] (replayAll n s) = getR .LNK_REPLAYS [n] s + 1 ∧ Only [.ports, .regs] s (replayAll n s) := by
  rw [replayAll_eq, if_neg (Nat.not_le.2 h)]
  refine ⟨resendAll_resent n _ ho (activeLanes_congr (getF_setR_other _ _ (by simp [regOff, regDesc, dimOff]))), ?_⟩
  have hport : (portOf n (replayNoted n s)).replay = (portOf n s).replay := by rw [replayNoted, portOf_modPort_same]; rfl
  have hcount : getR .LNK_REPLAYS [n] (replayNoted n s) = getR .LNK_REPLAYS [n] s + 1 := getR_countR_same ..
  have honly : Touches [.ports, .regs] (fun o => o = regOff .LNK_REPLAYS [n]) s (replayNoted n s) :=
    ((Touches.refl [.ports, .regs] (fun o => o = regOff .LNK_REPLAYS [n]) s).setR rfl).withPorts
  rw [resendAll_eq]
  exact ⟨hport, hcount, honly.withOut.only⟩

/-! NAK_RECEIVE and REPLAY_TIMER_EXPIRE (R115). -/

section

variable {n : Nat} (hn : n < 16) {s : State} (hup : portState n s = Ps.up)

include hn

theorem exec_nakReceive (a : BitVec 12) : exec (.nakReceive n a) s = .next (takeNak n a (Quiet s)) := by
  show runIf _ _ s = _
  simp [runIf, hn, Quiet]

theorem exec_replayTimerExpire : exec (.replayTimerExpire n) s =
    .next (if portState n s = Ps.up ∧ (portOf n s).replay ≠ [] then replayAll n (Quiet s) else Quiet s) := by
  show runIf _ _ s = _
  simp [runIf, hn, Quiet]
  rfl

include hup

theorem nakReceive_resends (a : BitVec 12) (h : (portOf n s).failed + 1 < retryLimit n s) :
    ∃ t, exec (.nakReceive n a) s = .next t ∧ Resent n ((portOf n s).unacked a) s t.out ∧
      (portOf n t).replay = (portOf n s).unacked a ∧ getR .LNK_REPLAYS [n] t = getR .LNK_REPLAYS [n] s + 1 ∧
      Only [.ports, .regs] s t := by
  have hexec : exec (.nakReceive n a) s = .next (replayAll n (takeAck n a (Quiet s))) :=
    (exec_nakReceive hn a).trans (congrArg _ (if_neg (not_not_intro hup)))
  obtain ⟨hsent, -, hport⟩ := takeAck_spec n a (Quiet s)
  have hlimit : retryLimit n (takeAck n a (Quiet s)) = retryLimit n s := by
    rw [retryLimit, getF_congr _ _ hsent.regs_eq]; rfl
  have hreg : getR .LNK_REPLAYS [n] (takeAck n a (Quiet s)) = getR .LNK_REPLAYS [n] s := by rw [getR, hsent.regs_eq]; rfl
  have hlanes : activeLanes n (takeAck n a (Quiet s)) = activeLanes n s := hsent.lanes_eq n
  have hfailed : (portOf n (takeAck n a (Quiet s))).failedNext < retryLimit n (takeAck n a (Quiet s)) := by
    rw [hport, hlimit]
    exact ((Port.failedNext_le _).trans (Nat.succ_le_succ (Port.ack_failed_le a _))).trans_lt h
  have hreplay : (portOf n (takeAck n a (Quiet s))).replay = (portOf n s).unacked a := by rw [hport, Port.ack_replay]; rfl
  have honly : Only [.ports, .regs] s (takeAck n a (Quiet s)) :=
    ((Touches.refl [.ports, .regs] (fun _ => True) s).withOut (x := [])).only.trans (hsent.only.mono (by decide))
  have hout : (takeAck n a (Quiet s)).out = [] := hsent.out_eq
  generalize takeAck n a (Quiet s) = u at *
  obtain ⟨hresent, hkept, hcount, hrest⟩ := replayAll_resends hfailed hout
  rw [hreplay] at hresent hkept
  refine ⟨_, hexec, ⟨hresent.1, fun i e he => ?_⟩, hkept, hcount.trans (by rw [hreg]), honly.trans hrest⟩
  obtain ⟨f, hf, hbytes⟩ := hresent.2 i e he
  exact ⟨f, by rw [hf, onLanes_congr f hlanes], hbytes⟩

theorem replayTimerExpire_resends (h : (portOf n s).failed + 1 < retryLimit n s) (hr : (portOf n s).replay ≠ []) :
    ∃ t, exec (.replayTimerExpire n) s = .next t ∧ Resent n (portOf n s).replay s t.out ∧
      (portOf n t).replay = (portOf n s).replay ∧ getR .LNK_REPLAYS [n] t = getR .LNK_REPLAYS [n] s + 1 ∧
      Only [.ports, .regs] s t := by
  have hexec : exec (.replayTimerExpire n) s = .next (replayAll n (Quiet s)) :=
    (exec_replayTimerExpire hn).trans (congrArg _ (if_pos ⟨hup, hr⟩))
  obtain ⟨hresent, hkept, hcount, hrest⟩ :=
    replayAll_resends (n := n) (s := Quiet s) ((Port.failedNext_le _).trans_lt h) rfl
  exact ⟨_, hexec, hresent, hkept, hcount, (Touches.refl [.ports, .regs] (fun _ => True) s).withOut.only.trans hrest⟩

/-- At the retry limit the port goes DOWN (R117). -/
theorem replayTimerExpire_goesDown (hr : (portOf n s).replay ≠ []) (hat : (portOf n s).replayAt = some (portOf n s).acked)
    (h : retryLimit n s ≤ (portOf n s).failed + 1) :
    GoesDown (.replayTimerExpire n) n F.LNK_DOWN_EVENTS_RETRY_EXHAUSTED s := by
  have hlimit : retryLimit n (Quiet s) ≤ (portOf n (Quiet s)).failedNext := h.trans_eq (if_pos hat).symm
  have hexec : exec (.replayTimerExpire n) s = .next (portDown n 1 (replayNoted n (Quiet s))) :=
    (exec_replayTimerExpire hn).trans (congrArg _ ((if_pos ⟨hup, hr⟩).trans ((replayAll_eq n (Quiet s)).trans (if_pos hlimit))))
  have hq : ChangesPort n s (Quiet s) := ⟨fun _ _ => rfl, fun _ _ _ _ => rfl⟩
  exact ⟨_, hexec, portDown_isDown 1 hn (hq.trans (replayNoted_changesPort n (Quiet s)))⟩

end

end Sys2Proof.Machine
end

section
/-! What a route reads (R139 to R150, R181, R184): routing is the same in two states that differ in counters and buffers alone. -/

namespace Sys2Proof.Machine

open Sys2Proof

/-- The rope of a job is one of the sixteen. -/
theorem jobRope_lt {job r : Nat} {s : State} (h : jobRope job s = some r) : r < 16 :=
  List.mem_range.1 (List.mem_of_find?_eq_some h)

/-- What routing reads is the same in `s` and `t`. -/
structure SameView (s t : State) : Prop where
  regs : ∀ o, ¬ IsBufferReg o → ∀ d, tget d t.regs o = tget d s.regs o
  analysis : ∀ n, (portOf n t).analysis = (portOf n s).analysis
  outq : t.switch.outq = s.switch.outq
  startedUp : t.switch.startedUp = s.switch.startedUp
  recovery : t.switch.recovery = s.switch.recovery
  xes : t.xes = s.xes
  chans : t.chans = s.chans
  tables : t.tables = s.tables
  bc : t.bc = s.bc

namespace SameView

variable {s t : State}

theorem of_mirrored (h : Mirrored s t) : SameView s t := by
  obtain ⟨rs, q, rfl, hr⟩ := h
  exact ⟨hr, fun _ => rfl, rfl, rfl, rfl, rfl, rfl, rfl, rfl⟩

/-- Taking bytes from a port's buffer is no change to what routing reads. -/
theorem modPort {n : Nat} {f : Port → Port} (s : State) (hf : ∀ q, (f q).analysis = q.analysis) : SameView s (modPort n f s) := by
  refine ⟨fun _ _ _ => rfl, fun m => ?_, rfl, rfl, rfl, rfl, rfl, rfl, rfl⟩
  by_cases he : m = n
  · rw [he, portOf_modPort_same, hf]
  · rw [portOf_modPort_other f s he]

theorem trans {u : State} (h : SameView s t) (g : SameView t u) : SameView s u :=
  ⟨fun o ho d => (g.regs o ho d).trans (h.regs o ho d), fun n => (g.analysis n).trans (h.analysis n), g.outq.trans h.outq,
    g.startedUp.trans h.startedUp, g.recovery.trans h.recovery, g.xes.trans h.xes, g.chans.trans h.chans, g.tables.trans h.tables,
    g.bc.trans h.bc⟩

variable (h : SameView s t)

include h

theorem getR_eq {r : Reg} {ix : List Nat} (ho : ¬ IsBufferReg (regOff r ix)) : getR r ix t = getR r ix s := h.regs _ ho _

theorem getF_eq {f : Fld} {ix : List Nat} (ho : ¬ IsBufferReg (regOff f.reg ix)) : getF f ix t = getF f ix s := by
  rw [getF, h.getR_eq ho, getF]

/-! The geometry and the ports. -/

theorem ownAddr_eq : ownAddr t = ownAddr s := by rw [ownAddr, h.getF_eq (by decide), ownAddr]

theorem geomValid_eq : geomValid t = geomValid s := by rw [geomValid, h.getF_eq (by decide), geomValid]

theorem ringLen_eq (d : Nat) : ringLen d t = ringLen d s := by
  unfold ringLen
  split <;> exact h.getF_eq (by decide)

theorem hashOf_eq (p : Packet) : hashOf p t = hashOf p s := by rw [hashOf, h.getF_eq (by decide), hashOf]

theorem linkBlocked_eq (d c : Nat) : linkBlocked d c t = linkBlocked d c s := by rw [linkBlocked, h.getR_eq (by decide), linkBlocked]

/-- The status of a port. -/
theorem status_eq {f : Fld} (n : Nat) (hf : f.reg = .LNK_STATUS) : getF f [n] t = getF f [n] s :=
  h.getF_eq (by rw [hf]; simp [IsBufferReg, regOff, regDesc, dimOff]; omega)

theorem portState_eq (n : Nat) : portState n t = portState n s := h.status_eq n rfl

theorem portUp_eq (n : Nat) : portUp n t = portUp n s := by rw [portUp, h.portState_eq, h.analysis, portUp]

theorem portUsable_eq (n : Nat) : portUsable n t = portUsable n s := by rw [portUsable, h.portState_eq, h.analysis, portUsable]

theorem creditsAllow_eq {vc : Nat} (n need : Nat) (enters : Bool) (hv : vc < 8) :
    creditsAllow n vc need enters t = creditsAllow n vc need enters s := by
  have ha : avail n vc t = avail n vc s := h.getF_eq (by simp [IsBufferReg, regOff, regDesc, dimOff]; omega)
  rw [creditsAllow, ha, h.geomValid_eq, creditsAllow]

/-! Dimension order and the adaptive choice (R145 to R147). -/

theorem workDims_eq (dest : BitVec 16) : workDims dest t = workDims dest s := by rw [workDims, h.ownAddr_eq, workDims]

theorem dirClear_eq (d dir : Nat) (dest : BitVec 16) : dirClear d dir dest t = dirClear d dir dest s := by
  simp only [dirClear, h.ringLen_eq, h.ownAddr_eq, h.linkBlocked_eq]

theorem usableDirs_eq (d : Nat) (dest : BitVec 16) : usableDirs d dest t = usableDirs d dest s := by
  simp only [usableDirs, h.ringLen_eq, h.ownAddr_eq, h.dirClear_eq]

theorem pickMember_eq (d dir k : Nat) : pickMember d dir k t = pickMember d dir k s := by
  simp only [pickMember, h.portUsable_eq]

theorem dimOrder_eq (p : Packet) (inp vcIn vcOut : Nat) : dimOrder p inp vcIn vcOut t = dimOrder p inp vcIn vcOut s := by
  simp only [dimOrder, h.workDims_eq, h.ringLen_eq, h.ownAddr_eq, h.linkBlocked_eq, h.pickMember_eq, h.usableDirs_eq, h.hashOf_eq]

theorem adaptivePorts_eq (p : Packet) : adaptivePorts p t = adaptivePorts p s := by
  simp only [adaptivePorts, h.portUp_eq, h.workDims_eq, h.usableDirs_eq]

theorem adaptiveWaits_eq (p : Packet) : adaptiveWaits p t = adaptiveWaits p s := by
  simp only [adaptiveWaits, h.portUsable_eq, h.workDims_eq, h.usableDirs_eq]

theorem adaptiveChoice_eq (p : Packet) (ports : List Nat) : adaptiveChoice p ports t = adaptiveChoice p ports s := by
  have hc (n : Nat) : getF F.SW_CONG_ESTIMATE [n] t = getF F.SW_CONG_ESTIMATE [n] s :=
    h.getF_eq (by simp [IsBufferReg, regOff, regDesc, dimOff]; omega)
  simp only [adaptiveChoice, hc, h.hashOf_eq]

theorem manageRoute_eq (p : Packet) : manageRoute p t = manageRoute p s := by
  simp only [manageRoute, h.ownAddr_eq, h.workDims_eq, h.portUp_eq]

theorem lineEntry_eq (p : Packet) (inp : Nat) : lineEntry p inp t = lineEntry p inp s := by
  simp only [lineEntry, h.getR_eq (r := .SW_PLAN_BANK) (ix := []) (by decide), h.tables]

theorem outside_eq (dest : BitVec 16) : outside dest t = outside dest s := by
  simp only [outside, h.ownAddr_eq, h.ringLen_eq]

/-! Delivery (R142, R172). -/

theorem ropeState_eq {r : Nat} (hr : r < 16) : ropeState r t = ropeState r s :=
  h.getF_eq (by simp [IsBufferReg, regOff, regDesc, dimOff]; omega)

theorem ropeJob_eq {r : Nat} (hr : r < 16) : ropeJob r t = ropeJob r s :=
  h.getF_eq (by simp [IsBufferReg, regOff, regDesc, dimOff]; omega)

theorem jobRope_eq (job : Nat) : jobRope job t = jobRope job s := by
  refine List.find?_congr fun r hr => ?_
  rw [h.ropeState_eq (List.mem_range.1 hr), h.ropeJob_eq (List.mem_range.1 hr)]

theorem ropeDies_eq {r : Nat} (hr : r < 16) : ropeDies r t = ropeDies r s := by
  rw [ropeDies, ropeClusters, h.ropeState_eq hr, h.getR_eq (by simp [IsBufferReg, regOff, regDesc, dimOff]; omega), ropeDies, ropeClusters]

theorem activeExch_eq (die : Nat) (tag : BitVec 32) : activeExch die tag t = activeExch die tag s := by
  rw [activeExch, h.xes, activeExch]

theorem exchDie_eq (p : Packet) {r : Nat} (hr : r < 16) : exchDie p r t = exchDie p r s := by
  simp only [exchDie, h.ropeDies_eq hr, h.activeExch_eq]

theorem collAdder_eq (p : Packet) : collAdder p t = collAdder p s := by rw [collAdder, h.chans, collAdder]

theorem interleave_eq : interleave t = interleave s := by
  have hu (c : Nat) : channelUsable c t = channelUsable c s := by rw [channelUsable, h.bc, channelUsable]
  have hm (c : Nat) : moduleOf c t = moduleOf c s := by rw [moduleOf, h.bc, moduleOf]
  simp only [interleave, hu, hm]

theorem lmaDie_eq (a : Nat) : lmaDie a t = lmaDie a s := by rw [lmaDie, h.interleave_eq, lmaDie]

theorem lentDie_eq (hd off : Nat) : lentDie hd off t = lentDie hd off s := by
  rw [lentDie, h.lmaDie_eq, h.getF_eq (by simp [IsBufferReg, regOff, regDesc, dimOff]; omega), lentDie]

theorem deliverTo_eq (p : Packet) : deliverTo p t = deliverTo p s := by
  unfold deliverTo
  simp only [h.lentDie_eq, h.jobRope_eq, h.collAdder_eq]
  cases hj : jobRope (p.job.toNat % 4096) s with
  | none => rfl
  | some r => simp only [h.exchDie_eq p (jobRope_lt hj)]

theorem route_eq (p : Packet) (inp vc : Nat) : route p inp vc t = route p inp vc s := by
  simp only [route, h.geomValid_eq, h.ownAddr_eq, h.deliverTo_eq, h.manageRoute_eq, h.outside_eq, h.lineEntry_eq, h.portUsable_eq,
    h.adaptivePorts_eq, h.adaptiveWaits_eq, h.adaptiveChoice_eq, h.creditsAllow_eq _ _ _ (show 1 < 8 by decide),
    h.creditsAllow_eq _ _ _ (show 2 < 8 by decide), h.dimOrder_eq]

/-! Multicast and cut-through (R181 to R185). -/

theorem withGroup_eq (p : Packet) : withGroup p t = withGroup p s := by
  rw [withGroup, h.getR_eq (by simp [IsBufferReg, regOff, regDesc, dimOff]; omega), withGroup]

theorem mcastDue_eq (p : Packet) : mcastDue p t = mcastDue p s := by
  simp only [mcastDue, mcastHome, mcastRefused, h.geomValid_eq, h.portUsable_eq, h.jobRope_eq]

theorem serviceState_eq : serviceState t = serviceState s := by
  rw [serviceState, h.getF_eq (by decide), h.startedUp, h.recovery, serviceState]

theorem portRate_eq (n : Nat) : portRate n t = portRate n s := by
  simp only [portRate, h.status_eq (f := F.LNK_STATUS_RATE) n rfl, h.status_eq (f := F.LNK_STATUS_WIDTH) n rfl]

theorem cutThrough_eq (inp out vc : Nat) : cutThrough inp out vc t = cutThrough inp out vc s := by
  by_cases ho : out < 16
  · have hbit {f : Fld} (hf : f.reg = .SW_FWD_MODE) : getF f [out] t = getF f [out] s :=
      h.getF_eq (by rw [hf]; simp [IsBufferReg, regOff, regDesc, dimOff]; omega)
    have hq (v : Nat) : outQ out v t = outQ out v s := outQ_congr out v h.outq
    simp only [cutThrough, hbit (f := F.SW_FWD_MODE_BULK_CT) rfl, hbit (f := F.SW_FWD_MODE_LINES_CT) rfl,
      hbit (f := F.SW_FWD_MODE_CELLS_CT) rfl, hq, h.portRate_eq, h.serviceState_eq]
  · simp [cutThrough, ho]

end SameView

end Sys2Proof.Machine
end

section
/-! Packets taken off a port's stream (R126, R128, R131, R187). -/

namespace Sys2Proof.Machine

open Sys2Proof

/-! Parsing. -/

/-- A packet from the wire is of the port's present epoch. -/
theorem parsePacket_stale {bs rest : List Byte} {p : Packet} (h : parsePacket bs = .got p rest) : p.stale = false := by
  unfold parsePacket at h
  extract_lets bs' ty len at h
  split at h
  · cases h
  · split at h
    · split at h
      · cases h
      · cases h; rfl
    · split at h
      · cases h
      · split at h
        · cases h
        · split at h
          · cases h
          · cases h; rfl

theorem xor_ne_self {w : Nat} (x : BitVec w) {c : BitVec w} (hc : c ≠ 0#w) : x ^^^ c ≠ x := fun h => hc <| by
  calc c = x ^^^ (x ^^^ c) := by rw [← BitVec.xor_assoc, BitVec.xor_self, BitVec.zero_xor]
    _ = 0#w := by rw [h, BitVec.xor_self]

/-- The right code is not the code of a stomped packet. -/
theorem Packet.crc_ne_stompCode (p : Packet) : p.crc ≠ p.stompCode := by
  unfold Packet.stompCode
  split
  · exact (xor_ne_self _ (by decide)).symm
  · exact (xor_ne_self _ (by decide)).symm

/-! The branches of an arrival. -/

/-- A unicast cell of an unassigned kind for this device (R128). -/
def unassignedCell (p : Packet) (s : State) : Bool := p.isCell && p.badKind && decide (p.dest = ownAddr s) && ! p.multicast

/-- A packet that is counted as malformed (R126, R128). -/
def refusedPacket (p : Packet) (s : State) : Bool := p.malformed || (decide (p.code ≠ p.stompCode) && unassignedCell p s)

/-- An arriving packet goes on before its code is known (R181 to R183). -/
def goesOn (n : Nat) (p : Packet) (s : State) : Bool :=
  if p.multicast then ! mcastBad (withGroup p s) p.vc && (mcastDue (withGroup p s) s).any (fun o => cutThrough n o p.vc s)
  else match route p n p.vc s with | .port out vc _ => cutThrough n out vc s | _ => false

/-- A packet that enters the input queue, a SYNC cell with the time of its arrival. -/
def stamped (n : Nat) (q : Packet) (s : State) : Packet :=
  if q.isSync then { q with arrival := timeNow s - BitVec.ofNat 64 (portOf n s).delay } else q

/-- A packet joins its input queue. -/
def joinQueue (n vc : Nat) (q : Packet) (s : State) : State := setInQ n vc (inQ n vc s ++ [withGroup (stamped n q s) s]) s

/-- An arrival once the mirror sessions have seen it. -/
def settlePacket (n : Nat) (p : Packet) (s : State) : State :=
  if refusedPacket p s then freeCredits n p.vc p (countR .LNK_PKT_MALFORMED [n] s)
  else if p.code = p.stompCode then freeCredits n p.vc p s
  else if p.code = p.crc then joinQueue n p.vc p s
  else if goesOn n p s then joinQueue n p.vc { p with code := p.stompCode } (addF F.LNK_E2E_STOMPED [n] 1 s)
  else freeCredits n p.vc p (addF F.LNK_E2E_BAD [n] 1 s)

section

variable {n : Nat} {p : Packet} {s : State}

theorem settlePacket_refused (h : refusedPacket p s = true) :
    settlePacket n p s = freeCredits n p.vc p (countR .LNK_PKT_MALFORMED [n] s) := if_pos h

variable (hr : refusedPacket p s = false)

include hr

theorem settlePacket_stomped (h : p.code = p.stompCode) : settlePacket n p s = freeCredits n p.vc p s := by
  rw [settlePacket, hr, if_neg Bool.false_ne_true, if_pos h]

theorem settlePacket_good (h : p.code = p.crc) : settlePacket n p s = joinQueue n p.vc p s := by
  have hs : p.code ≠ p.stompCode := h ▸ p.crc_ne_stompCode
  rw [settlePacket, hr, if_neg Bool.false_ne_true, if_neg hs, if_pos h]

variable (hs : p.code ≠ p.stompCode) (hc : p.code ≠ p.crc)

include hs hc

theorem settlePacket_goesOn (h : goesOn n p s = true) :
    settlePacket n p s = joinQueue n p.vc { p with code := p.stompCode } (addF F.LNK_E2E_STOMPED [n] 1 s) := by
  rw [settlePacket, hr, if_neg Bool.false_ne_true, if_neg hs, if_neg hc, if_pos h]

theorem settlePacket_bad (h : goesOn n p s = false) :
    settlePacket n p s = freeCredits n p.vc p (addF F.LNK_E2E_BAD [n] 1 s) := by
  rw [settlePacket, hr, if_neg Bool.false_ne_true, if_neg hs, if_neg hc, h, if_neg Bool.false_ne_true]

end

theorem acceptPacket_eq (n : Nat) (p : Packet) (s : State) : acceptPacket n p s = settlePacket n p (mirrorCopies false n p s) := by
  unfold acceptPacket
  extract_lets t good g ct u q r
  show _ = settlePacket n p t
  have hct : ct = goesOn n p t := rfl
  by_cases hm : p.malformed = true
  · rw [if_pos hm, settlePacket_refused (by simp [refusedPacket, hm])]
  · rw [if_neg hm]
    by_cases hs : p.code = p.stompCode
    · rw [if_pos hs, settlePacket_stomped (by simp [refusedPacket, hm, hs]) hs]
    · rw [if_neg hs]
      by_cases hu : unassignedCell p t = true
      · rw [settlePacket_refused (by simp [refusedPacket, hs, hu])]
        exact if_pos hu
      · have hr : refusedPacket p t = false := by simp [refusedPacket, hm, hu]
        refine (if_neg hu).trans ?_
        by_cases hg : p.code = p.crc
        · have hgood : good = true := decide_eq_true hg
          rw [settlePacket_good hr hg, hgood]
          simp only [u, r, q, hgood, if_true]
          rfl
        · have hbad : good = false := decide_eq_false hg
          rw [hct, hbad]
          cases hc : goesOn n p t with
          | true =>
            rw [settlePacket_goesOn hr hs hg hc]
            simp only [u, r, q, hbad]
            rfl
          | false => rw [settlePacket_bad hr hs hg hc]; rfl

/-! What an arrival changes. -/

/-- A packet has left the stream of port `n`, and the mirror sessions have seen it: routing reads what it read in `s`. -/
structure Arrived (n : Nat) (rest : List Byte) (s t : State) : Prop where
  view : SameView s t
  rx : (portOf n t).rx = rest
  inq : t.switch.inq = s.switch.inq

/-- A port with the rest of its stream. -/
def Port.leave (rest : List Byte) (q : Port) : Port := { q with rx := rest }

theorem arrived (n : Nat) (p : Packet) (rest : List Byte) (s : State) :
    Arrived n rest s (mirrorCopies false n p (modPort n (Port.leave rest) (Quiet s))) := by
  have hm := mirrorCopies_mirrored false n p (modPort n (Port.leave rest) (Quiet s))
  have hq : SameView s (Quiet s) := ⟨fun _ _ _ => rfl, fun _ => rfl, rfl, rfl, rfl, rfl, rfl, rfl, rfl⟩
  exact ⟨hq.trans ((SameView.modPort (f := Port.leave rest) (Quiet s) fun _ => rfl).trans (.of_mirrored hm)),
    by rw [portOf_congr n hm.ports_eq, portOf_modPort_same, Port.leave], hm.inq_eq⟩

/-- A packet's credits are freed, and no input queue changes. -/
def Freed (n : Nat) (p : Packet) (s t : State) : Prop :=
  (∀ i v, inQ i v t = inQ i v s) ∧
    (p.vc < 6 → getR .LNK_VC_FREED [n, p.vc] t = getR .LNK_VC_FREED [n, p.vc] s + BitVec.ofNat 64 p.credits)

theorem freed_freeCredits {n : Nat} {p : Packet} {s t : State} (hn : n < 16) (hp : p.stale = false)
    (hq : t.switch.inq = s.switch.inq) (hr : p.vc < 6 → getR .LNK_VC_FREED [n, p.vc] t = getR .LNK_VC_FREED [n, p.vc] s) :
    Freed n p s (freeCredits n p.vc p t) :=
  ⟨fun i v => (inQ_congr i v (congrArg Switch.inq (freeCredits_switch ..))).trans (inQ_congr i v hq),
    fun hv => by rw [getR_freeCredits_same hn hv hp, hr hv]⟩

/-- Nothing but the packet's credits changes at a port. -/
theorem freeCredits_rx (n vc : Nat) (p : Packet) (s : State) : (portOf n (freeCredits n vc p s)).rx = (portOf n s).rx := by
  obtain ⟨l, hl⟩ := portOf_freeCredits n vc p s
  rw [hl]

@[simp] theorem joinQueue_ports (n vc : Nat) (q : Packet) (s : State) : (joinQueue n vc q s).ports = s.ports := rfl

@[simp] theorem getR_joinQueue (n vc : Nat) (q : Packet) (s : State) (r : Reg) (ix : List Nat) :
    getR r ix (joinQueue n vc q s) = getR r ix s := rfl

theorem getR_addF_other {f : Fld} {q : Reg} {ix jx : List Nat} (k : Nat) (s : State) (h : regOff q jx ≠ regOff f.reg ix) :
    getR q jx (addF f ix k s) = getR q jx s := getR_setR_other _ _ h

theorem getF_addF_same {f : Fld} (ix : List Nat) (k : Nat) (s : State) (hlo : f.lo ≤ f.hi) (hhi : f.hi < 64) :
    getF f ix (addF f ix k s) = (getF f ix s + k) % 2 ^ (f.hi + 1 - f.lo) := getF_setF_same _ _ _ _ hlo hhi

theorem joinQueue_inQ {n vc : Nat} {q : Packet} (s : State) (hq : q.isSync = false) :
    inQ n vc (joinQueue n vc q s) = inQ n vc s ++ [withGroup q s] := by
  rw [joinQueue, inQ_setInQ_same, stamped, hq, if_neg Bool.false_ne_true]

/-- No arrival but a refused one is counted as malformed, and none changes the rest of its port's stream. -/
theorem settlePacket_port (n : Nat) (p : Packet) (s : State) : (portOf n (settlePacket n p s)).rx = (portOf n s).rx ∧
    (refusedPacket p s = false → getR .LNK_PKT_MALFORMED [n] (settlePacket n p s) = getR .LNK_PKT_MALFORMED [n] s) := by
  have hfreed (u : State) : getR .LNK_PKT_MALFORMED [n] (freeCredits n p.vc p u) = getR .LNK_PKT_MALFORMED [n] u :=
    getR_freeCredits fun _ _ => by simp [regOff, regDesc, dimOff]; omega
  have he2e : regOff .LNK_PKT_MALFORMED [n] ≠ regOff .LNK_E2E [n] := by simp [regOff, regDesc, dimOff]
  cases hr : refusedPacket p s with
  | true =>
    rw [settlePacket_refused hr, freeCredits_rx]
    exact ⟨rfl, nofun⟩
  | false =>
    by_cases hs : p.code = p.stompCode
    · rw [settlePacket_stomped hr hs]
      exact ⟨freeCredits_rx .., fun _ => hfreed s⟩
    · by_cases hc : p.code = p.crc
      · rw [settlePacket_good hr hc]
        exact ⟨rfl, fun _ => rfl⟩
      · cases hg : goesOn n p s with
        | true =>
          rw [settlePacket_goesOn hr hs hc hg]
          exact ⟨by rw [portOf_congr n ((joinQueue_ports ..).trans (addF_ports ..))],
            fun _ => by rw [getR_joinQueue, getR_addF_other _ _ he2e]⟩
        | false =>
          rw [settlePacket_bad hr hs hc hg, freeCredits_rx]
          exact ⟨by rw [portOf_congr n (addF_ports ..)], fun _ => by rw [hfreed, getR_addF_other _ _ he2e]⟩

section

variable {n : Nat} (hn : n < 16) {p : Packet} {rest : List Byte} {s t : State} (h : Arrived n rest s t)

include h

theorem Arrived.refusedPacket_eq (p : Packet) : refusedPacket p t = refusedPacket p s := by
  rw [refusedPacket, unassignedCell, h.view.ownAddr_eq, refusedPacket, unassignedCell]

theorem Arrived.goesOn_eq (p : Packet) : goesOn n p t = goesOn n p s := by
  simp only [goesOn, h.view.withGroup_eq, h.view.mcastDue_eq, h.view.route_eq, h.view.cutThrough_eq]

include hn

/-- The registers of the port itself are as before. -/
theorem Arrived.getR_port {r : Reg} {ix : List Nat} (ho : InPort n (regOff r ix)) : getR r ix t = getR r ix s :=
  h.view.getR_eq (by simp only [InPort, IsBufferReg] at *; omega)

theorem Arrived.getR_freed (hv : p.vc < 6) : getR .LNK_VC_FREED [n, p.vc] t = getR .LNK_VC_FREED [n, p.vc] s :=
  h.getR_port hn (by simp [InPort, regOff, regDesc, dimOff]; omega)

theorem Arrived.getF_e2e {f : Fld} (hf : f.reg = .LNK_E2E) : getF f [n] t = getF f [n] s := by
  rw [getF, h.getR_port hn (by rw [hf]; simp [InPort, regOff, regDesc, dimOff]; omega), ← getF]

/-- A packet that is counted as malformed (R126, R128). -/
theorem Arrived.refused (hp : p.stale = false) (hr : refusedPacket p s = true) :
    getR .LNK_PKT_MALFORMED [n] (settlePacket n p t) = getR .LNK_PKT_MALFORMED [n] s + 1 ∧ Freed n p s (settlePacket n p t) := by
  rw [settlePacket_refused (by rw [h.refusedPacket_eq, hr])]
  refine ⟨?_, freed_freeCredits hn hp h.inq fun hv => ?_⟩
  · rw [getR_freeCredits (fun _ _ => by simp [regOff, regDesc, dimOff]; omega), getR_countR_same,
      h.getR_port hn (by simp [InPort, regOff, regDesc, dimOff]; omega)]
  · rw [countR, getR_setR_other _ _ (by simp [regOff, regDesc, dimOff]; omega), h.getR_freed hn hv]

variable (hr : refusedPacket p s = false)

include hr

theorem Arrived.malformed_eq :
    getR .LNK_PKT_MALFORMED [n] (settlePacket n p t) = getR .LNK_PKT_MALFORMED [n] s := by
  rw [(settlePacket_port n p t).2 (by rw [h.refusedPacket_eq, hr]), h.getR_port hn (by simp [InPort, regOff, regDesc, dimOff]; omega)]

/-- A stomped packet (R131). -/
theorem Arrived.stomped (hp : p.stale = false) (hs : p.code = p.stompCode) : Freed n p s (settlePacket n p t) := by
  rw [settlePacket_stomped (by rw [h.refusedPacket_eq, hr]) hs]
  exact freed_freeCredits hn hp h.inq (h.getR_freed hn)

omit hn in
/-- A good packet (R131). -/
theorem Arrived.good (hc : p.code = p.crc) (hq : p.isSync = false) :
    inQ n p.vc (settlePacket n p t) = inQ n p.vc s ++ [withGroup p s] := by
  rw [settlePacket_good (by rw [h.refusedPacket_eq, hr]) hc, joinQueue_inQ t hq, inQ_congr _ _ h.inq, h.view.withGroup_eq]

variable (hc : p.code ≠ p.crc) (hs : p.code ≠ p.stompCode)

include hc hs

/-- A packet with a wrong code that is stored here (R131). -/
theorem Arrived.bad (hp : p.stale = false) (hg : goesOn n p s = false) :
    Grew F.LNK_E2E_BAD [n] 1 s (settlePacket n p t) ∧ Freed n p s (settlePacket n p t) := by
  rw [settlePacket_bad (by rw [h.refusedPacket_eq, hr]) hs hc (by rw [h.goesOn_eq, hg])]
  have hvc : p.vc < 6 → regOff .LNK_VC_FREED [n, p.vc] ≠ regOff .LNK_E2E [n] := fun _ => by simp [regOff, regDesc, dimOff]; omega
  refine ⟨?_, freed_freeCredits hn hp (by rw [addF_switch, h.inq]) fun hv => ?_⟩
  · rw [Grew, getF, getR_freeCredits (fun _ hv => (hvc hv).symm), ← getF, getF_addF_same _ _ _ (by decide) (by decide),
      h.getF_e2e hn rfl]
  · rw [getR_addF_other _ _ (hvc hv), h.getR_freed hn hv]

/-- A packet with a wrong code that has gone on already (R131). -/
theorem Arrived.cutThrough (hg : goesOn n p s = true) : Grew F.LNK_E2E_STOMPED [n] 1 s (settlePacket n p t) ∧
    (p.isSync = false → inQ n p.vc (settlePacket n p t) = inQ n p.vc s ++ [withGroup { p with code := p.stompCode } s]) := by
  rw [settlePacket_goesOn (by rw [h.refusedPacket_eq, hr]) hs hc (by rw [h.goesOn_eq, hg])]
  refine ⟨?_, fun hq => ?_⟩
  · rw [Grew, getF, getR_joinQueue, ← getF, getF_addF_same _ _ _ (by decide) (by decide), h.getF_e2e hn rfl]
  · have hgroup : withGroup { p with code := p.stompCode } (addF F.LNK_E2E_STOMPED [n] 1 t) = withGroup { p with code := p.stompCode } t := by
      rw [withGroup, getR_addF_other _ _ (by simp [regOff, regDesc, dimOff]; omega), withGroup]
    rw [joinQueue_inQ _ (show Packet.isSync { p with code := p.stompCode } = false from hq), hgroup, h.view.withGroup_eq,
      inQ_congr _ _ (congrArg Switch.inq (addF_switch ..)), inQ_congr _ _ h.inq]

end

end Sys2Proof.Machine
end

section
/-! The obligation on retry and receiving. -/

namespace Sys2Proof.Machine

open Sys2Proof

/-! LINK_PACKET_RECEIVE (R126 to R131). -/

/-- What a port does with the front of its stream. -/
def receivePacket (n : Nat) (r : Parsed) (s : State) : State :=
  match r with
  | .more => s
  | .badLen => portDown n 1 (countR .LNK_PKT_MALFORMED [n] s)
  | .got p rest => acceptPacket n p (modPort n (Port.leave rest) s)

section

variable {n : Nat} (hn : n < 16) {s : State}

include hn

theorem exec_linkPacketReceive : exec (.linkPacketReceive n) s = .next (receivePacket n (parsePacket (portOf n s).rx) (Quiet s)) := by
  show execLinkPacketReceive n s = _
  rw [execLinkPacketReceive, runIf, decide_eq_true hn, if_pos rfl]
  rfl

theorem linkPacketReceive_waits (h : parsePacket (portOf n s).rx = .more) : exec (.linkPacketReceive n) s = .next (Quiet s) := by
  rw [exec_linkPacketReceive hn, h]; rfl

theorem linkPacketReceive_goesDown (h : parsePacket (portOf n s).rx = .badLen) :
    GoesDown (.linkPacketReceive n) n F.LNK_DOWN_EVENTS_RETRY_EXHAUSTED s := by
  have hexec : exec (.linkPacketReceive n) s = .next (portDown n 1 (countR .LNK_PKT_MALFORMED [n] (Quiet s))) := by
    rw [exec_linkPacketReceive hn, h]; rfl
  have hq : ChangesPort n s (Quiet s) := ⟨fun _ _ => rfl, fun _ _ _ _ => rfl⟩
  refine ⟨_, hexec, portDown_isDown 1 hn (hq.setR ?_ ?_)⟩
  · simp [InPort, regOff, regDesc, dimOff]; omega
  · simp [regOff, regDesc, dimOff]

theorem linkPacketReceive_settles {p : Packet} {rest : List Byte} (h : parsePacket (portOf n s).rx = .got p rest) :
    ∃ t, Arrived n rest s t ∧ exec (.linkPacketReceive n) s = .next (settlePacket n p t) := by
  refine ⟨_, arrived n p rest s, ?_⟩
  rw [exec_linkPacketReceive hn, h, receivePacket, acceptPacket_eq]

end

/-- Settles O40: a flit is accepted, or discarded and answered, by the one test of `takeFlit`; a replay is the list of unacknowledged
flits mapped to the lanes; a port goes DOWN through `leavePort`, which empties it; and a packet off the stream takes one of the five
branches of `settlePacket`, with routing reading what it read before the packet came. -/
theorem linksAreReliable : Obligations.LinksAreReliable := by
  unfold Obligations.LinksAreReliable
  intro n s hn
  refine ⟨fun hup lanes fec hlanes hlen => ⟨fun hk hgood hseq => ?_, fun hk hbad => ?_⟩, nakRepeat_sends hn, nakRepeat_idle hn,
    fun hup a hlimit => ⟨nakReceive_resends hn hup a hlimit, replayTimerExpire_resends hn hup hlimit⟩,
    fun hup hr hat hlimit => replayTimerExpire_goesDown hn hup hr hat hlimit, linkPacketReceive_waits hn, linkPacketReceive_goesDown hn,
    fun p rest hp => ?_⟩
  · obtain ⟨t, hexec, hfec, hport, hgrew, hreturned, honly, hother, hout⟩ := flitReceive_accepts hn hup hlanes hlen hk ⟨hgood, hseq⟩
    refine ⟨t, hexec, hfec, ?_, ?_, by rw [hport]; rfl, ?_, hgrew, hreturned, honly, hother, hout⟩
    · rw [hport, Port.takePayload, Port.ack_rx]
    · rw [hport, Port.takePayload, Port.ack_rxSeq]
    · rw [hport, Port.takePayload, Port.ack_replay]; rfl
  · exact flitReceive_discards hn hup hlanes hlen hk fun h => hbad.elim (fun hg => hg h.1) (fun hs => hs h.2)
  · have hstale := parsePacket_stale hp
    obtain ⟨t, ht, hexec⟩ := linkPacketReceive_settles hn hp
    exact ⟨_, hexec, (settlePacket_port n p t).1.trans ht.rx, ht.refused hn hstale, ht.malformed_eq hn,
      fun hr hs => ht.stomped hn hr hstale hs, fun hr hc hq => ht.good hr hc hq,
      fun hr hc hs => ⟨ht.bad hn hr hc hs hstale, ht.cutThrough hn hr hc hs⟩⟩

end Sys2Proof.Machine
end
